-- ==== Sys2Proof/Word.lean ====
section
/-! DEFINITION. Word.lean: the word types of the Carmor, the names of its register fields and the plain
data that an instruction or an arriving event carries (02_execution_model, 03_encoding). -/
namespace Sys2Proof

abbrev Byte := BitVec 8
/-- A scalar register, an address, a record word. -/
abbrev Word := BitVec 64
/-- A vector register of 2,048 bits (R34, R104). -/
abbrev Vec := BitVec 2048

abbrev SReg := BitVec 6
abbrev VReg := BitVec 6
abbrev PReg := BitVec 3
abbrev KReg := BitVec 3
abbrev CReg := BitVec 4
abbrev TReg := BitVec 5
abbrev QReg := BitVec 4
abbrev MpReg := BitVec 3
/-- An accumulator field (R66). -/
abbrev AccReg := BitVec 6
/-- A type code of Table 3.11. -/
abbrev Ty := BitVec 4
/-- A rounding code of Table 3.12. -/
abbrev Rm := BitVec 2
/-- A working register of the micro-sequencer (R198). -/
abbrev WReg := BitVec 4

/-- The predicate every slot operation carries: bit [55] and [54:52], or [25] and [24:22] in the C slot (R61). -/
structure Pred where
  neg : Bool
  idx : BitVec 3
  deriving DecidableEq, Repr

/-- The six issue slots, in the order of R402. -/
inductive Slot where
  | c | a | v | l | m | x
  deriving DecidableEq, Repr

/-- The order of the slots in R402 and the numbering of PRESENT in Table 3.4. -/
def Slot.toNat : Slot → Nat
  | .c => 0 | .a => 1 | .v => 2 | .l => 3 | .m => 4 | .x => 5

/-- Operand b of a V-slot instruction: forms VR, VS and VI (R64, R120). -/
inductive VSrc where
  | v (r : VReg)
  | s (r : SReg)
  | imm (i : BitVec 16)
  deriving DecidableEq, Repr

/-- The source of `kmov`: a lane mask (VR) or a scalar (VS) (R157). -/
inductive KSrc where
  | k (r : KReg)
  | s (r : SReg)
  deriving DecidableEq, Repr

/-- The SPACE codes 0b00, 0b01 and 0b10 of R65. -/
inductive Space where
  | virt | sp | win
  deriving DecidableEq, Repr

/-- An LM memory operand: base, signed offset, class, capability or window number, space (Table 3.8). -/
structure Mem where
  base  : SReg
  off   : BitVec 20
  cls   : BitVec 4
  cap   : BitVec 4
  space : Space
  deriving DecidableEq, Repr

/-- An LM2 memory operand: as LM without an offset (Table 3.8). -/
structure Mem2 where
  base  : SReg
  cls   : BitVec 4
  cap   : BitVec 4
  space : Space
  deriving DecidableEq, Repr

/-- An LT memory operand (Table 3.8). -/
structure TMem where
  base : SReg
  off  : BitVec 20
  cls  : BitVec 4
  cap  : BitVec 4
  deriving DecidableEq, Repr

/-- One operand of a copy command: its s register, capability or window number, space (Table 3.10). -/
structure XOpd where
  reg   : SReg
  cap   : BitVec 4
  space : Space
  deriving DecidableEq, Repr

/-- The source of the micro-operation `pset`: an immediate or a field of a parameter (Table 8.11). -/
inductive PsetSrc where
  | imm (i : BitVec 31)
  | param (n : BitVec 3) (lo : BitVec 6) (widthM1 : BitVec 6)
  deriving DecidableEq, Repr

/-- One byte's place: a location of R230, named from the core in focus, or a byte beyond a window (R44). `far` is a byte of
another core's scratchpad, `pool` a byte of a pool page in the pool cache, `home` one at the pool controller itself (R304). -/
inductive Place where
  | sram (a : Nat)
  | far (pkg : BitVec 19) (core : BitVec 7) (a : Nat)
  | hbm (a : Nat)
  | host (a : Nat)
  | pool (obj : BitVec 48) (off : Nat)
  | home (obj : BitVec 48) (off : Nat)
  | win (w : BitVec 4) (a : Nat)
  deriving DecidableEq, Repr

/-- Who makes a write or a release, as the scopes of R237 and the race detector name it: package, core and slot, the partition id,
the crew and the launch (R40, R260). -/
structure Agent where
  id     : BitVec 27
  pid    : BitVec 12
  crew   : BitVec 32
  launch : BitVec 32
  deriving DecidableEq, Repr

/-- What a remote write through a window does at its target (R44, R276, R277). -/
inductive RwKind where
  | store | ste | stf | fset | fclr
  | count                 -- the counter of a `qadvp`, a release (R285)
  deriving DecidableEq, Repr

/-- A remote write as it reaches its target core (R44, R369). -/
structure RemoteWrite where
  pid    : BitVec 12
  crew   : BitVec 32
  pkg    : BitVec 19      -- sending package
  core   : BitVec 7       -- sending core
  slot   : Bool           -- sending launch slot
  window : BitVec 4
  cls    : BitVec 4
  scope  : BitVec 3
  target : BitVec 7       -- target core
  addr   : Nat            -- remote scratchpad address BASE × 256 + s
  limit  : Nat            -- first address beyond the window or branch (R44, R47)
  kind   : RwKind
  data   : List (Option Byte)  -- none where the write's mask is clear (R399)
  posted : Bool           -- counted in OUT of the sender's window (R45)
  shadow : Option (Nat × (BitVec 3 × BitVec 12)) := none -- of an L-slot store: its writer's interval, level and phase (R260)
  fence  : Option (Nat × BitVec 3) := none -- of an L-slot store: the interval and scope of the latest release fence before it (R248)
  launch : BitVec 32 := 0 -- the sending launch, by which its acceptance finds it
  toPkg  : Option (BitVec 19) := none -- the package it is sent to; none for a multicast write
  group  : Option (BitVec 4) := none -- of a multicast write: its group's index (R47)
  copy   : Option (BitVec 6 × Nat) := none -- of a copy command's write: its tag and the number of its bundle (R246, R293)
  home   : Option Place := none -- of a released store that has not performed: where its first byte stands (R240)
  ser    : Nat := 0       -- its place in the sender's entry order (R236)
  waits  : List (BitVec 16 × Nat × Bool) := [] -- the accesses it performs after: their classes, what they stand before in entry order,
                          -- and whether a fence orders them (R238, R242)
  src    : BitVec 32 × Nat × Word := (0, 7, 0) -- the pc, the SLOT code and the address that a trap record names (R404)
  into   : Option (BitVec 32) := none -- once it is queued: the launch of the context that it is for (R46)
  cipher : Option (List Byte × List Byte × List Byte) := none -- between packages, of a confidential context: initialisation vector,
                          -- ciphertext and tag under the LINK key (R388)
  deriving DecidableEq, Repr

/-- A remote load or `ldf` of another package as it reaches its target core (R44, R369). -/
structure RemoteReq where
  pid    : BitVec 12
  crew   : BitVec 32
  pkg    : BitVec 19
  core   : BitVec 7
  slot   : Bool
  window : BitVec 4
  target : BitVec 7
  addr   : Nat
  size   : Nat
  full   : Bool           -- waits for full words
  take   : Bool
  deriving DecidableEq, Repr

/-- The operations of a tokened or plain atomic at a home (Table 12.1, R311, R312). -/
inductive AtomOp where
  | add | min | max | minn | maxn | and | or | xor | xchg
  | cas (new : Word) | fadd | inc
  deriving DecidableEq, Repr

/-- The operations on a decide-once cell (R319). -/
inductive CellOp where
  | prop (value : List Byte) (wpkg : BitVec 19) (wcore : BitVec 7) (cpw : Bool)
  | read
  | recycle
  deriving DecidableEq, Repr

/-- The key of a tokened operation: STEPTOKEN, CTXID.INDEX and the sequence number (R313). -/
structure TokenKey where
  token : Word
  index : BitVec 7
  seq   : Nat
  deriving DecidableEq, Repr

/-- A request the pool controller serves, from this package or another (R314, R319, R422 to R425).
`obj` is the object id, `page` a pool page, `off` a byte offset in the object. -/
inductive PoolOp where
  | readLease (pkg : BitVec 19) (obj : BitVec 48) (page : BitVec 32)
  | writeLease (pkg : BitVec 19) (obj : BitVec 48) (page : BitVec 32) (gen : BitVec 32)
  | renew (pkg : BitVec 19) (obj : BitVec 48) (page : BitVec 32) (stamp : Nat)
  | release (pkg : BitVec 19) (obj : BitVec 48) (page : BitVec 32)
  | expire (pkg : BitVec 19) (obj : BitVec 48) (page : BitVec 32)
  | put (pkg : BitVec 19) (obj : BitVec 48) (off : Nat) (data : List (Option Byte)) (gen : BitVec 32) (stamp : Nat)
  | store (obj : BitVec 48) (off : Nat) (data : List Byte)
  | atom (key : Option TokenKey) (obj : BitVec 48) (off : Nat) (op : AtomOp) (scatter dbl : Bool) (v : Word)
  | cell (obj : BitVec 48) (off : Nat) (gen : BitVec 32) (op : CellOp) (stamp : Nat)
  | retire (token : Word)
  | sealHold (pkg : BitVec 19) (obj : BitVec 48) (page : BitVec 32)
  | sealDone (pkg : BitVec 19) (obj : BitVec 48) (page : BitVec 32) (key : BitVec 8)
  deriving DecidableEq, Repr

/-- A request with the tenancy key it is made under (R379). -/
structure PoolReq where
  tenant : Word
  op     : PoolOp
  deriving DecidableEq, Repr

/-- A partition descriptor (Table 15.1), field by field. -/
structure PartDesc where
  schedAsid : BitVec 16
  mboxMask  : BitVec 16
  locked    : Bool
  clMask    : BitVec 32
  keyHi     : BitVec 8
  keyLo     : BitVec 8
  pid       : BitVec 12
  region    : List (BitVec 32)    -- REGION0 to REGION3: [31:16] base, [15:0] size
  s2Root    : Word
  asidTab   : Word
  signTab   : Word
  minSvn    : BitVec 32
  deriving DecidableEq, Repr

/-- What firmware and the fabric manager supply to a boot (Table 20.1). -/
structure BootInputs where
  fwHeader   : List Byte          -- the firmware header ROM verifies
  ecSig      : List Byte
  lmsSig     : List Byte
  fwSvn      : BitVec 32
  stackCount : BitVec 4           -- stacks that trained
  hbmRegions : Word
  homeHash   : Word
  proofDepth : Word
  preemptWait : Word
  arrLogSize : Word
  thresh     : List (BitVec 16)   -- THRESH of links 0 to 31, in order
  parts      : List PartDesc
  signers    : List (List Byte)   -- each partition's signer key table (R382)
  pkgNum     : Option (BitVec 19)
  lanes      : List Nat           -- fewest trained lanes of a direction, per link
  tenancy    : List Word := []    -- each partition's tenancy key (R379)
  deriving DecidableEq, Repr

/-- Where an uncorrectable error lies (Table 16.9). -/
inductive ErrLoc where
  | cleanLine (addr : Nat)
  | smallReg
  | buffer
  | vreg (r : VReg)
  | dupOrShadow
  | dictionary
  | microStore
  | accumulator (n : AccReg)
  | scratch (addr : Nat)
  | hbm (addr : Nat)
  | saveImage (launchId : BitVec 32)
  | sealEntry (page : Nat)                -- the version-table entry of a package page (R386)
  | commandProcessor                      -- the command processor stops (R442)
  deriving DecidableEq, Repr

/-- The end of a running copy command (Table 11.5). -/
inductive CopyEnd where
  | done (remote : List Byte)   -- with the bytes a source on another package brought
  | noSpace | fenced | linkLost
  deriving DecidableEq, Repr

/-- A reply that comes back to a waiting remote access (R44, R388, R454). -/
inductive Reply where
  | data (bytes : List Byte)      -- the bytes a remote load or ldf read
  | served                        -- the pool controller serves the request now, by its own rules
  | refused                       -- the sender resends
  deriving DecidableEq, Repr

/-- Why a step attempt is lost (R430, Table 17.4). -/
inductive LossCause where
  | fenced | lapsed | linkLost | noSpace | fault | cancelled
  deriving DecidableEq, Repr

/-- What an event brings with it: the words of a host command or an SPDM message, what a sensor or a link saw, the other
requests the pool controller served first. Each event's meaning names the fields it reads; the others do not matter. -/
structure EventData where
  p        : BitVec 3 := 0                 -- partition
  launch   : BitVec 32 := 0
  core     : BitVec 7 := 0                 -- the core named, or the one that sends or holds something
  off      : Word := 0                     -- a register's offset, a step record's offset
  v        : Word := 0                     -- the value written
  firmware : Bool := false                 -- the write comes from firmware
  boot     : Option BootInputs := none
  power    : BitVec 4 := 0                 -- clock limits (R449)
  thermal  : BitVec 4 := 0
  heat     : BitVec 8 := 0                 -- a temperature in °C
  group    : BitVec 16 := 0
  watts    : BitVec 16 := 0
  cluster  : BitVec 5 := 0
  link     : BitVec 5 := 0
  outbound : Bool := false
  strand   : Bool := false
  lane     : BitVec 4 := 0
  trained  : BitVec 8 := 0                 -- the lanes of a strand that trained
  errors   : Nat := 0
  flit     : BitVec 2048 := 0
  ack      : BitVec 12 := 0
  mbox     : BitVec 8 := 0
  token    : BitVec 32 := 0
  raiser   : Option (BitVec 32) := none    -- the launch whose trap cancels the token
  ok       : Bool := false                 -- a lane trained, a saved image is intact, an error was corrected
  write    : Option RemoteWrite := none
  window   : BitVec 4 := 0
  key      : BitVec 44 := 0                -- the domain a phase arrival names: PID and launch, or PID and crew
  level    : BitVec 3 := 0
  unit     : BitVec 7 := 0
  phase    : BitVec 12 := 0
  members  : BitVec 24 := 0
  addr     : BitVec 52 := 0
  data     : List Byte := []               -- a message's bytes, a host write's bytes
  tile     : TReg := 0
  tag      : BitVec 6 := 0
  copyEnd  : CopyEnd := .done []
  now      : Nat := 0                      -- the package's clock, in microseconds
  obj      : BitVec 48 := 0
  page     : BitVec 32 := 0
  others   : List PoolReq := []            -- requests the pool controller served before this one
  loc      : ErrLoc := .smallReg
  pid      : BitVec 12 := 0
  base     : Word := 0
  session  : Option (BitVec 32) := none    -- the secure session a message came in
  stream   : BitVec 8 := 0
  asym     : BitVec 32 := 0                -- the algorithms an SPDM requester offers
  hash     : BitVec 32 := 0
  dhe      : BitVec 32 := 0
  aead     : BitVec 32 := 0
  meas     : BitVec 32 := 0
  chain    : BitVec 3 := 0                 -- certificate slot
  len      : BitVec 16 := 0
  index    : BitVec 8 := 0
  code     : BitVec 8 := 0
  seq      : BitVec 16 := 0
  last     : Bool := false
  verify   : List Byte := []               -- a second byte string: FINISH's verify data, a key
  reply    : Reply := .refused
  stack    : BitVec 4 := 0
  request  : Option RemoteReq := none
  deriving DecidableEq, Repr

/-- An event that brings nothing. -/
def noEventData : EventData := ⟨0, 0, 0, 0, 0, false, none, 0, 0, 0, 0, 0, 0, 0, false, false, 0, 0, 0, 0, 0, 0, 0, none,
  false, none, 0, 0, 0, 0, 0, 0, 0, [], 0, 0, .done [], 0, 0, 0, [], .smallReg, 0, 0, none, 0, 0, 0, 0, 0, 0, 0, 0, 0, 0,
  0, false, [], .refused, 0, none⟩

end Sys2Proof
end

