-- ==== Sys2Proof/Syntax.lean ====
section
/-! DEFINITION. Syntax.lean: one constructor for each row of the table of operations and events. A slot operation
carries its predicate first (R61) and then the fields its row of the opcode map uses (R72 to R76); a micro-operation the
fields of Table 8.11. The table gives an event no fields: what an event brings stands in the state (EventData), like
the registers an operation reads. -/
namespace Sys2Proof

inductive Instr where
  /-- NOP, R72. Does nothing. -/
  | cNop (q : Pred)
  /-- BR, R329. A PC-relative branch with two delay slots. -/
  | cBr (q : Pred) (o : BitVec 22)
  /-- CALL, R329. A PC-relative branch that writes the return pc to s63. -/
  | cCall (q : Pred) (o : BitVec 22)
  /-- RET, R329. Branches to s63. -/
  | cRet (q : Pred)
  /-- BRS, R329. Branches to the pc held in an s register. -/
  | cBrs (q : Pred) (s : SReg)
  /-- CALLS, R329. Calls the pc held in an s register, writing s63. -/
  | cCalls (q : Pred) (s : SReg)
  /-- LOOP, R332. Pushes a hardware loop whose count is held in an s register. -/
  | cLoop (q : Pred) (s : SReg) (e : BitVec 16)
  /-- LOOPI, R332. Pushes a hardware loop with an immediate count. -/
  | cLoopi (q : Pred) (n : BitVec 10) (e : BitVec 12)
  /-- LBREAK, R334. Pops the innermost loop and continues after its END. -/
  | cLbreak (q : Pred)
  /-- LNEXT, R334. Applies the innermost loop's end action early. -/
  | cLnext (q : Pred)
  /-- YIELD, R337. Makes the next boundary a pre-emption point and yields one bundle to the other slot. -/
  | cYield (q : Pred)
  /-- TRAP, R338. Raises SOFTWARE_TRAP with a 16-bit code. -/
  | cTrap (q : Pred) (code : BitVec 16)
  /-- EXIT, R339. Commits a forced checkpoint, waits for the engines and ends the context. -/
  | cExit (q : Pred)
  /-- BREAK, R340. A breakpoint that raises BREAKPOINT under debugging. -/
  | cBreak (q : Pred)
  /-- ADD, R124. Scalar add modulo 2^64. -/
  | aAdd (q : Pred) (d a b : SReg)
  /-- SUB, R124. Scalar subtract. -/
  | aSub (q : Pred) (d a b : SReg)
  /-- MUL, R124. Low 64 bits of the product. -/
  | aMul (q : Pred) (d a b : SReg)
  /-- MULH, R124. High 64 bits of the signed product. -/
  | aMulh (q : Pred) (d a b : SReg)
  /-- MULHN, R124. High 64 bits of the unsigned product. -/
  | aMulhn (q : Pred) (d a b : SReg)
  /-- DIV, R124. Signed divide, with all ones on division by zero. -/
  | aDiv (q : Pred) (d a b : SReg)
  /-- DIVN, R124. Unsigned divide. -/
  | aDivn (q : Pred) (d a b : SReg)
  /-- REM, R124. Signed remainder. -/
  | aRem (q : Pred) (d a b : SReg)
  /-- REMN, R124. Unsigned remainder. -/
  | aRemn (q : Pred) (d a b : SReg)
  /-- AND, R124. Bitwise AND. -/
  | aAnd (q : Pred) (d a b : SReg)
  /-- OR, R124. Bitwise OR. -/
  | aOr (q : Pred) (d a b : SReg)
  /-- XOR, R124. Bitwise XOR. -/
  | aXor (q : Pred) (d a b : SReg)
  /-- ANDN, R124. sa AND NOT sb. -/
  | aAndn (q : Pred) (d a b : SReg)
  /-- SHL, R124. Shift left by sb<5:0>. -/
  | aShl (q : Pred) (d a b : SReg)
  /-- SHR, R124. Logical shift right. -/
  | aShr (q : Pred) (d a b : SReg)
  /-- SAR, R124. Arithmetic shift right. -/
  | aSar (q : Pred) (d a b : SReg)
  /-- ROTL, R124. Rotate left. -/
  | aRotl (q : Pred) (d a b : SReg)
  /-- MIN, R124. Signed minimum. -/
  | aMin (q : Pred) (d a b : SReg)
  /-- MAX, R124. Signed maximum. -/
  | aMax (q : Pred) (d a b : SReg)
  /-- MINN, R124. Unsigned minimum. -/
  | aMinn (q : Pred) (d a b : SReg)
  /-- MAXN, R124. Unsigned maximum. -/
  | aMaxn (q : Pred) (d a b : SReg)
  /-- SEL, R124. Selects sa when sc is nonzero, else sb. -/
  | aSel (q : Pred) (d a b c : SReg)
  /-- POPC, R124. Counts set bits. -/
  | aPopc (q : Pred) (d a : SReg)
  /-- CLZ, R124. Counts leading zeros. -/
  | aClz (q : Pred) (d a : SReg)
  /-- CTZ, R124. Counts trailing zeros. -/
  | aCtz (q : Pred) (d a : SReg)
  /-- BEXT, R124. Extracts a bit field. -/
  | aBext (q : Pred) (d a b : SReg)
  /-- BINS, R124. Inserts a bit field. -/
  | aBins (q : Pred) (d a b c : SReg)
  /-- LEA, R124. sa + (sb << F). -/
  | aLea (q : Pred) (d a b : SReg) (f : BitVec 4)
  /-- MADD, R124. Low 64 bits of sa × sb + sc. -/
  | aMadd (q : Pred) (d a b c : SReg)
  /-- ADDI, R125. Adds a sign-extended immediate. -/
  | aAddi (q : Pred) (d a : SReg) (i : BitVec 32)
  /-- ANDI, R125. AND with an immediate. -/
  | aAndi (q : Pred) (d a : SReg) (i : BitVec 32)
  /-- ORI, R125. OR with an immediate. -/
  | aOri (q : Pred) (d a : SReg) (i : BitVec 32)
  /-- XORI, R125. XOR with an immediate. -/
  | aXori (q : Pred) (d a : SReg) (i : BitVec 32)
  /-- SHLI, R125. Shift left by an immediate. -/
  | aShli (q : Pred) (d a : SReg) (i : BitVec 6)
  /-- SHRI, R125. Logical shift right by an immediate. -/
  | aShri (q : Pred) (d a : SReg) (i : BitVec 6)
  /-- SARI, R125. Arithmetic shift right by an immediate. -/
  | aSari (q : Pred) (d a : SReg) (i : BitVec 6)
  /-- MOVI, R125. Loads a sign-extended immediate. -/
  | aMovi (q : Pred) (d : SReg) (i : BitVec 32)
  /-- MOVHI, R125. Replaces the high 32 bits with an immediate. -/
  | aMovhi (q : Pred) (d a : SReg) (i : BitVec 32)
  /-- MULI, R125. Multiplies by an immediate. -/
  | aMuli (q : Pred) (d a : SReg) (i : BitVec 32)
  /-- CMP, R126. Integer compare into a predicate. -/
  | aCmp (q : Pred) (d : PReg) (a b : SReg) (cond : BitVec 3)
  /-- CMPI, R126. Integer compare with an immediate into a predicate. -/
  | aCmpi (q : Pred) (d : PReg) (a : SReg) (i : BitVec 32) (cond : BitVec 3)
  /-- PAND, R127. Predicate AND. -/
  | aPand (q : Pred) (d a b : PReg)
  /-- POR, R127. Predicate OR. -/
  | aPor (q : Pred) (d a b : PReg)
  /-- PXOR, R127. Predicate XOR. -/
  | aPxor (q : Pred) (d a b : PReg)
  /-- PNOT, R127. Predicate NOT. -/
  | aPnot (q : Pred) (d a : PReg)
  /-- PBIT, R127. Sets a predicate from a bit of an s register. -/
  | aPbit (q : Pred) (d : PReg) (a b : SReg)
  /-- FADD, R128. Scalar fp32 or fp64 add. -/
  | aFadd (q : Pred) (d a b : SReg) (dbl : Bool) (rm : Rm)
  /-- FSUB, R128. Scalar float subtract. -/
  | aFsub (q : Pred) (d a b : SReg) (dbl : Bool) (rm : Rm)
  /-- FMUL, R128. Scalar float multiply. -/
  | aFmul (q : Pred) (d a b : SReg) (dbl : Bool) (rm : Rm)
  /-- FMA, R128. Scalar fused multiply-add. -/
  | aFma (q : Pred) (d a b c : SReg) (dbl : Bool) (rm : Rm)
  /-- FDIV, R128. Scalar float divide. -/
  | aFdiv (q : Pred) (d a b : SReg) (dbl : Bool) (rm : Rm)
  /-- FSQRT, R128. Scalar float square root. -/
  | aFsqrt (q : Pred) (d a : SReg) (dbl : Bool) (rm : Rm)
  /-- FMIN, R129. Scalar float minimum. -/
  | aFmin (q : Pred) (d a b : SReg) (dbl : Bool)
  /-- FMAX, R129. Scalar float maximum. -/
  | aFmax (q : Pred) (d a b : SReg) (dbl : Bool)
  /-- FCMP, R130. Float compare into a predicate. -/
  | aFcmp (q : Pred) (d : PReg) (a b : SReg) (dbl : Bool) (cond : BitVec 3)
  /-- FCVT, R132. Scalar conversion between integer and float types. -/
  | aFcvt (q : Pred) (d a : SReg) (dt st : Ty) (sat : Bool) (rm : Rm)
  /-- FCLASS, R131. Float classification. -/
  | aFclass (q : Pred) (d a : SReg) (dbl : Bool)
  /-- SYSRD, R133. Reads a system register. -/
  | aSysrd (q : Pred) (d : SReg) (n : BitVec 12)
  /-- SYSWR, R133. Writes a P system register. -/
  | aSyswr (q : Pred) (a : SReg) (n : BitVec 12)
  /-- MPSET, R133. Writes a matrix parameter register. -/
  | aMpset (q : Pred) (m : MpReg) (a : SReg)
  /-- MPGET, R133. Reads a matrix parameter register. -/
  | aMpget (q : Pred) (d : SReg) (m : MpReg)
  /-- LIDX, R133. Reads a loop index as it stood at C-slot dispatch. -/
  | aLidx (q : Pred) (d : SReg) (n : BitVec 3)
  /-- VADD, R134. Vector integer add. -/
  | vAdd (q : Pred) (d a : VReg) (b : VSrc) (t : Ty) (m : KReg)
  /-- VSUB, R134. Vector integer subtract. -/
  | vSub (q : Pred) (d a : VReg) (b : VSrc) (t : Ty) (m : KReg)
  /-- VMUL, R134. Vector low multiply. -/
  | vMul (q : Pred) (d a : VReg) (b : VSrc) (t : Ty) (m : KReg)
  /-- VMULH, R134. Vector high multiply. -/
  | vMulh (q : Pred) (d a : VReg) (b : VSrc) (t : Ty) (m : KReg)
  /-- VMAD, R134. Vector multiply-add. -/
  | vMad (q : Pred) (d a : VReg) (b : VSrc) (c : VReg) (t : Ty) (m : KReg)
  /-- VABS, R134. Vector absolute value. -/
  | vAbs (q : Pred) (d a : VReg) (t : Ty) (m : KReg)
  /-- VNEG, R134. Vector negate. -/
  | vNeg (q : Pred) (d a : VReg) (t : Ty) (m : KReg)
  /-- VMIN, R134. Vector minimum. -/
  | vMin (q : Pred) (d a : VReg) (b : VSrc) (t : Ty) (m : KReg)
  /-- VMAX, R134. Vector maximum. -/
  | vMax (q : Pred) (d a : VReg) (b : VSrc) (t : Ty) (m : KReg)
  /-- VAND, R134. Vector AND. -/
  | vAnd (q : Pred) (d a : VReg) (b : VSrc) (t : Ty) (m : KReg)
  /-- VOR, R134. Vector OR. -/
  | vOr (q : Pred) (d a : VReg) (b : VSrc) (t : Ty) (m : KReg)
  /-- VXOR, R134. Vector XOR. -/
  | vXor (q : Pred) (d a : VReg) (b : VSrc) (t : Ty) (m : KReg)
  /-- VANDN, R134. Vector AND NOT. -/
  | vAndn (q : Pred) (d a : VReg) (b : VSrc) (t : Ty) (m : KReg)
  /-- VSHL, R134. Vector shift left. -/
  | vShl (q : Pred) (d a : VReg) (b : VSrc) (t : Ty) (m : KReg)
  /-- VSHR, R134. Vector logical shift right. -/
  | vShr (q : Pred) (d a : VReg) (b : VSrc) (t : Ty) (m : KReg)
  /-- VSAR, R134. Vector arithmetic shift right. -/
  | vSar (q : Pred) (d a : VReg) (b : VSrc) (t : Ty) (m : KReg)
  /-- VCMP, R137. Vector integer compare into a lane mask. -/
  | vCmp (q : Pred) (d : KReg) (a : VReg) (b : VSrc) (t : Ty) (m : KReg) (combine : Bool) (cond : BitVec 3)
  /-- VSEL, R136. Selects lanes from two vectors by a k register. -/
  | vSel (q : Pred) (d a b : VReg) (kc : KReg) (t : Ty) (m : KReg)
  /-- VMOV, R134. Vector move. -/
  | vMov (q : Pred) (d a : VReg) (m : KReg)
  /-- VBCAST, R135. Broadcasts a scalar or immediate. -/
  | vBcast (q : Pred) (d : VReg) (b : VSrc) (t : Ty) (m : KReg)
  /-- VPOPC, R134. Vector population count. -/
  | vPopc (q : Pred) (d a : VReg) (t : Ty) (m : KReg)
  /-- VCLZ, R134. Vector leading-zero count. -/
  | vClz (q : Pred) (d a : VReg) (t : Ty) (m : KReg)
  /-- VADDSAT, R134. Vector saturating add. -/
  | vAddsat (q : Pred) (d a : VReg) (b : VSrc) (t : Ty) (m : KReg)
  /-- VSUBSAT, R134. Vector saturating subtract. -/
  | vSubsat (q : Pred) (d a : VReg) (b : VSrc) (t : Ty) (m : KReg)
  /-- VLANE, R134. Writes each element's index. -/
  | vLane (q : Pred) (d : VReg) (t : Ty) (m : KReg)
  /-- VFADD, R138. Vector float add. -/
  | vFadd (q : Pred) (d a : VReg) (b : VSrc) (t : Ty) (m : KReg) (rm : Rm)
  /-- VFSUB, R138. Vector float subtract. -/
  | vFsub (q : Pred) (d a : VReg) (b : VSrc) (t : Ty) (m : KReg) (rm : Rm)
  /-- VFMUL, R138. Vector float multiply. -/
  | vFmul (q : Pred) (d a : VReg) (b : VSrc) (t : Ty) (m : KReg) (rm : Rm)
  /-- VFMA, R138. Vector fused multiply-add. -/
  | vFma (q : Pred) (d a : VReg) (b : VSrc) (c : VReg) (t : Ty) (m : KReg) (rm : Rm)
  /-- VFMS, R138. Vector fused multiply-subtract. -/
  | vFms (q : Pred) (d a : VReg) (b : VSrc) (c : VReg) (t : Ty) (m : KReg) (rm : Rm)
  /-- VFMIN, R138. Vector float minimum. -/
  | vFmin (q : Pred) (d a : VReg) (b : VSrc) (t : Ty) (m : KReg)
  /-- VFMAX, R138. Vector float maximum. -/
  | vFmax (q : Pred) (d a : VReg) (b : VSrc) (t : Ty) (m : KReg)
  /-- VFRCP, R139. Approximate reciprocal. -/
  | vFrcp (q : Pred) (d a : VReg) (t : Ty) (m : KReg)
  /-- VFRSQ, R139. Approximate reciprocal square root. -/
  | vFrsq (q : Pred) (d a : VReg) (t : Ty) (m : KReg)
  /-- VFEXP2, R139. Approximate 2^x. -/
  | vFexp2 (q : Pred) (d a : VReg) (t : Ty) (m : KReg)
  /-- VFLOG2, R139. Approximate log2 x. -/
  | vFlog2 (q : Pred) (d a : VReg) (t : Ty) (m : KReg)
  /-- VFCMP, R137. Vector float compare into a lane mask. -/
  | vFcmp (q : Pred) (d : KReg) (a : VReg) (b : VSrc) (t : Ty) (m : KReg) (combine : Bool) (cond : BitVec 3)
  /-- VFCLASS, R131. Vector float classification. -/
  | vFclass (q : Pred) (d a : VReg) (t : Ty) (m : KReg)
  /-- VFABS, R138. Clears each element's sign bit. -/
  | vFabs (q : Pred) (d a : VReg) (t : Ty) (m : KReg)
  /-- VFNEG, R138. Flips each element's sign bit. -/
  | vFneg (q : Pred) (d a : VReg) (t : Ty) (m : KReg)
  /-- VCVT, R140. Vector type conversion. -/
  | vCvt (q : Pred) (d a : VReg) (dt st : Ty) (m : KReg) (rm : Rm) (sat : Bool)
  /-- VQUANT, R141. Quantises fp32 elements to q8 or q4 codes. -/
  | vQuant (q : Pred) (d a b : VReg) (t : Ty) (m : KReg) (rm : Rm) (sat : Bool)
  /-- VDEQUANT, R142. Dequantises codes to fp32. -/
  | vDequant (q : Pred) (d a b : VReg) (t : Ty) (m : KReg)
  /-- VPACK, R143. Narrows elements from two registers into one. -/
  | vPack (q : Pred) (d a b : VReg) (t : Ty) (m : KReg)
  /-- VUNPACK, R143. Widens elements into two registers. -/
  | vUnpack (q : Pred) (d a b : VReg) (t : Ty) (m : KReg)
  /-- VRED, R144. Integer reduction into element 0. -/
  | vRed (q : Pred) (d a : VReg) (t : Ty) (m : KReg) (op : BitVec 3)
  /-- VSCAN, R144. Integer inclusive scan. -/
  | vScan (q : Pred) (d a : VReg) (t : Ty) (m : KReg) (op : BitVec 3)
  /-- VFRED, R145. Float tree reduction. -/
  | vFred (q : Pred) (d a : VReg) (t : Ty) (m : KReg) (rm : Rm) (op : BitVec 3)
  /-- VFSCAN, R145. Float tree-ordered scan. -/
  | vFscan (q : Pred) (d a : VReg) (t : Ty) (m : KReg) (rm : Rm) (op : BitVec 3)
  /-- VPERM, R149. Permutes elements by indices. -/
  | vPerm (q : Pred) (d a b : VReg) (t : Ty) (m : KReg)
  /-- VSLIDE, R150. Slides elements with zero fill. -/
  | vSlide (q : Pred) (d a : VReg) (b : VSrc) (t : Ty) (m : KReg)
  /-- VROT, R150. Rotates elements. -/
  | vRot (q : Pred) (d a : VReg) (b : VSrc) (t : Ty) (m : KReg)
  /-- VCOMPRESS, R151. Packs the executing elements to the bottom. -/
  | vCompress (q : Pred) (d a : VReg) (t : Ty) (m : KReg)
  /-- VEXPAND, R151. Spreads elements into the executing positions. -/
  | vExpand (q : Pred) (d a : VReg) (t : Ty) (m : KReg)
  /-- VZIP, R152. Interleaves half of two registers. -/
  | vZip (q : Pred) (d a b : VReg) (t : Ty) (m : KReg) (hi : Bool)
  /-- VUNZIP, R152. De-interleaves two registers. -/
  | vUnzip (q : Pred) (d a b : VReg) (t : Ty) (m : KReg) (hi : Bool)
  /-- VEXTR, R153. Extracts an element to an s register. -/
  | vExtr (q : Pred) (d : SReg) (a : VReg) (b : SReg) (t : Ty)
  /-- VINS, R153. Inserts an s register into an element. -/
  | vIns (q : Pred) (d : VReg) (a b : SReg) (t : Ty)
  /-- MPUSH, R155. Pushes top AND ka onto the mask stack. -/
  | vMpush (q : Pred) (ka : KReg)
  /-- MINV, R155. Inverts the mask top against the entry below it. -/
  | vMinv (q : Pred)
  /-- MPOP, R155. Pops the mask stack. -/
  | vMpop (q : Pred)
  /-- KMOV, R157. Moves a k or s register into a lane mask. -/
  | vKmov (q : Pred) (d : KReg) (src : KSrc)
  /-- KOP, R157. A logical operation on lane masks. -/
  | vKop (q : Pred) (d a b : KReg) (op : BitVec 3)
  /-- KPOPC, R157. Counts the set bits of a lane mask. -/
  | vKpopc (q : Pred) (d : SReg) (a : KReg)
  /-- VSKIP, R158. Skips n bundles after two delay slots when the mask top is empty. -/
  | vSkip (q : Pred) (n : BitVec 16)
  /-- VHASH_CRC, R163. CRC-32C hashes 4- or 8-byte keys per lane. -/
  | vHashCrc (q : Pred) (d a b : VReg) (t : Ty) (m : KReg)
  /-- VHASH_MIX, R164. Applies the 64-bit mix hash per lane. -/
  | vHashMix (q : Pred) (d a b : VReg) (t : Ty) (m : KReg)
  /-- VHASHS, R165. CRC-hashes one string slice per lane. -/
  | vHashs (q : Pred) (d a b c : VReg) (m : KReg)
  /-- VPART, R166. Computes radix partition numbers. -/
  | vPart (q : Pred) (d a b : VReg) (m : KReg)
  /-- VPART_CNT, R166. Marks and counts the lanes of one partition. -/
  | vPartCnt (q : Pred) (d : SReg) (a b : VReg) (kc : KReg) (m : KReg)
  /-- VSCMP, R169. Advances string-compare verdicts by one slice. -/
  | vScmp (q : Pred) (d a : VReg) (b : VSrc) (c : VReg) (m : KReg)
  /-- VSFIND, R170. Searches one slice for a byte. -/
  | vSfind (q : Pred) (d a : VReg) (b : VSrc) (c : VReg) (m : KReg)
  /-- VSMATCH, R171. Keeps the lane-mask bits of strings still equal. -/
  | vSmatch (q : Pred) (d : KReg) (a : VReg) (b : VSrc) (c : VReg) (m : KReg)
  /-- ACCRD, R194. Reads an accumulator row into a vector. -/
  | vAccrd (q : Pred) (d : VReg) (acc : AccReg) (b : SReg) (m : KReg)
  /-- ACCWR, R194. Writes a vector into an accumulator row. -/
  | vAccwr (q : Pred) (d : VReg) (acc : AccReg) (b : SReg) (m : KReg)
  /-- LD, R271. Scalar load. -/
  | lLd (q : Pred) (d : SReg) (mem : Mem) (size : BitVec 2) (sx : Bool)
  /-- ST, R271. Scalar store, withheld until the next commit. -/
  | lSt (q : Pred) (a : SReg) (mem : Mem) (size : BitVec 2)
  /-- VLD, R272. Loads 256 bytes into a vector. -/
  | lVld (q : Pred) (d : VReg) (mem : Mem)
  /-- VST, R272. Stores a vector, withheld. -/
  | lVst (q : Pred) (d : VReg) (mem : Mem)
  /-- VLD_QUEUE, R284. Consumer form: waits for filled slots and reads one. -/
  | lVldQueue (q : Pred) (d : VReg) (n : QReg) (off : BitVec 10) (need : BitVec 8) (cls : BitVec 4)
  /-- VST_QUEUE, R284. Producer form: waits for room and writes one slot. -/
  | lVstQueue (q : Pred) (d : VReg) (n : QReg) (off : BitVec 10) (need : BitVec 8) (cls : BitVec 4)
  /-- VLDS, R272. Strided vector load, a long op. -/
  | lVlds (q : Pred) (d : VReg) (mem : Mem2) (stride : SReg) (size : BitVec 2)
  /-- VSTS, R272. Strided vector store. -/
  | lVsts (q : Pred) (d : VReg) (mem : Mem2) (stride : SReg) (size : BitVec 2)
  /-- VGATHER, R272. Indexed vector gather. -/
  | lVgather (q : Pred) (d : VReg) (mem : Mem2) (x : VReg) (size : BitVec 2)
  /-- VSCATTER, R272. Indexed vector scatter. -/
  | lVscatter (q : Pred) (d : VReg) (mem : Mem2) (x : VReg) (size : BitVec 2)
  /-- VSGATHER, R273. Gathers string slices of up to four bytes per lane. -/
  | lVsgather (q : Pred) (d : VReg) (mem : Mem2) (x : VReg)
  /-- LDF, R275. Waits for full words, then reads them as an acquire. -/
  | lLdf (q : Pred) (d : SReg) (mem : Mem) (scope : BitVec 3) (dbl : Bool)
  /-- LDF_TAKE, R275. Reads full words and sets them empty during the forced commit after its bundle. -/
  | lLdfTake (q : Pred) (d : SReg) (mem : Mem) (scope : BitVec 3) (dbl : Bool)
  /-- STE, R276. Writes empty words and sets them full, queued while they are full. -/
  | lSte (q : Pred) (a : SReg) (mem : Mem) (scope : BitVec 3) (dbl : Bool)
  /-- STF, R276. Writes words and sets them full regardless of state. -/
  | lStf (q : Pred) (a : SReg) (mem : Mem) (scope : BitVec 3) (dbl : Bool)
  /-- FSET, R277. Sets words full without changing data. -/
  | lFset (q : Pred) (mem : Mem) (size : BitVec 3)
  /-- FCLR, R277. Sets words empty without changing data. -/
  | lFclr (q : Pred) (mem : Mem) (size : BitVec 3)
  /-- FQRY, R277. Reads the full/empty bits. -/
  | lFqry (q : Pred) (d : SReg) (mem : Mem) (size : BitVec 3)
  /-- TLD, R278. Loads a tile descriptor and pins or readies the tile. -/
  | lTld (q : Pred) (t : TReg) (mem : TMem) (shape : SReg)
  /-- TST, R279. Drains an accumulator through a D tile into memory. -/
  | lTst (q : Pred) (t : TReg) (acc : AccReg) (mem : TMem)
  /-- TREL, R280. Marks a tile RETIRING. -/
  | lTrel (q : Pred) (t : TReg)
  /-- TQRY, R280. Reads a tile's state and pinned-line count. -/
  | lTqry (q : Pred) (t : TReg) (d : SReg)
  /-- QINIT, R283. Sets up a queue register from its header. -/
  | lQinit (q : Pred) (a : SReg) (n : QReg) (countM1 : BitVec 10) (size : BitVec 8) (cls : BitVec 4)
  /-- QADVP, R285. Advances FILLCTR once the slot writes have performed. -/
  | lQadvp (q : Pred) (n : QReg) (nM1 : BitVec 10) (cls : BitVec 4)
  /-- QADVC, R285. Advances DRAINCTR. -/
  | lQadvc (q : Pred) (n : QReg) (nM1 : BitVec 10) (cls : BitVec 4)
  /-- QQRY, R286. Reads the queue pointers and filled count. -/
  | lQqry (q : Pred) (d : SReg) (n : QReg) (cls : BitVec 4)
  /-- AADD, R310. Atomic add at the home, performed at the commit. -/
  | lAadd (q : Pred) (d : SReg) (mem : Mem) (scope : BitVec 3) (dbl tok : Bool)
  /-- AMIN, R310. Atomic signed minimum. -/
  | lAmin (q : Pred) (d : SReg) (mem : Mem) (scope : BitVec 3) (dbl tok : Bool)
  /-- AMAX, R310. Atomic signed maximum. -/
  | lAmax (q : Pred) (d : SReg) (mem : Mem) (scope : BitVec 3) (dbl tok : Bool)
  /-- AMINN, R310. Atomic unsigned minimum. -/
  | lAminn (q : Pred) (d : SReg) (mem : Mem) (scope : BitVec 3) (dbl tok : Bool)
  /-- AMAXN, R310. Atomic unsigned maximum. -/
  | lAmaxn (q : Pred) (d : SReg) (mem : Mem) (scope : BitVec 3) (dbl tok : Bool)
  /-- AAND, R310. Atomic AND. -/
  | lAand (q : Pred) (d : SReg) (mem : Mem) (scope : BitVec 3) (dbl tok : Bool)
  /-- AOR, R310. Atomic OR. -/
  | lAor (q : Pred) (d : SReg) (mem : Mem) (scope : BitVec 3) (dbl tok : Bool)
  /-- AXOR, R310. Atomic XOR. -/
  | lAxor (q : Pred) (d : SReg) (mem : Mem) (scope : BitVec 3) (dbl tok : Bool)
  /-- AXCHG, R310. Atomic exchange. -/
  | lAxchg (q : Pred) (d : SReg) (mem : Mem) (scope : BitVec 3) (dbl tok : Bool)
  /-- ACAS, R311. Atomic compare-and-swap. -/
  | lAcas (q : Pred) (d : SReg) (mem : Mem) (scope : BitVec 3) (dbl tok : Bool)
  /-- AFADD, R311. Atomic floating-point add. -/
  | lAfadd (q : Pred) (d : SReg) (mem : Mem) (scope : BitVec 3) (dbl tok : Bool)
  /-- AINC, R310. Atomic wrapping increment. -/
  | lAinc (q : Pred) (d : SReg) (mem : Mem) (scope : BitVec 3) (dbl tok : Bool)
  /-- VSCADD, R312. Scatter-adds a vector atomically, element by element. -/
  | lVscadd (q : Pred) (d : VReg) (mem : Mem2) (x : VReg) (scope : BitVec 3) (dbl tok fl : Bool)
  /-- DPROP, R320. Proposes a value to a decide-once cell at the commit. -/
  | lDprop (q : Pred) (d : VReg) (mem : Mem2) (ss : SReg) (scope : BitVec 3)
  /-- DREAD, R320. Reads a decide-once cell's state and winner. -/
  | lDread (q : Pred) (d : VReg) (mem : Mem2) (ss : SReg) (scope : BitVec 3)
  /-- DRECYCLE, R322. Recycles a decided cell to the next generation. -/
  | lDrecycle (q : Pred) (ss : SReg) (mem : Mem2) (scope : BitVec 3)
  /-- PF, R287. Prefetches a line, and for pool pages the page under a read lease. -/
  | lPf (q : Pred) (mem : Mem) (drop : Bool)
  /-- FENCE, R288. An acquire, release or full fence over a class mask. -/
  | lFence (q : Pred) (mask : BitVec 16) (scope : BitVec 3) (kind : BitVec 2)
  /-- BREL, R289. Releases banks to the next launch at the next commit. -/
  | lBrel (q : Pred) (a : SReg)
  /-- CLD, R290. Loads a capability from a capability page. -/
  | lCld (q : Pred) (d : CReg) (mem : Mem)
  /-- CDROP, R291. Nulls a capability register. -/
  | lCdrop (q : Pred) (d : CReg)
  /-- DSYNC, R355. Closes the current domain phase after all members arrive. -/
  | lDsync (q : Pred)
  /-- MCALL, R187. Builds an operand record and queues a matrix call. -/
  | mCall (q : Pred) (routine : BitVec 8) (acc : AccReg) (countM1 : BitVec 6) (batch : BitVec 2) (use : BitVec 8) (mode : BitVec 5)
  /-- MCOMMIT, R189. Closes a batch's current generation. -/
  | mCommit (q : Pred) (batch : BitVec 2)
  /-- MWAIT, R189. Waits for the batch's earlier calls to complete. -/
  | mWait (q : Pred) (batch : BitVec 2)
  /-- MSTAT, R189. Reads the batch status. -/
  | mStat (q : Pred) (d : SReg) (batch : BitVec 2)
  /-- MZERO, R190. Queues a record that clears accumulators. -/
  | mZero (q : Pred) (acc : AccReg) (countM1 : BitVec 6)
  /-- MPROG, R191. Checks and loads micro-words into the store, optionally setting an entry. -/
  | mProg (q : Pred) (a b : SReg)
  /-- SBUILD, R212. Builds an alias table and probability vector by Vose's method. -/
  | mSbuild (q : Pred) (a b c : SReg)
  /-- SSTAT, R223. Reads the last sampling and build results. -/
  | mSstat (q : Pred) (d : SReg)
  /-- XGET, R294. Copies bytes into a local destination. -/
  | xGet (q : Pred) (tag : BitVec 6) (dst src : XOpd) (len : SReg) (cls : BitVec 4)
  /-- XPUT, R294. Copies bytes from a local source to any destination. -/
  | xPut (q : Pred) (tag : BitVec 6) (dst src : XOpd) (len : SReg) (cls : BitVec 4)
  /-- XCOPY, R294. Copies bytes between any spaces. -/
  | xCopy (q : Pred) (tag : BitVec 6) (dst src : XOpd) (len : SReg) (cls : BitVec 4)
  /-- XFILL, R294. Fills a destination with a repeated value. -/
  | xFill (q : Pred) (tag : BitVec 6) (dst : XOpd) (val len : SReg) (cls : BitVec 4) (unit : BitVec 2)
  /-- XSTAGE, R296. Decrypts sealed pages into scratchpad after a version check. -/
  | xStage (q : Pred) (tag : BitVec 6) (dst src : XOpd) (len : SReg) (cls : BitVec 4) (key : BitVec 8)
  /-- XSEAL, R297. Encrypts scratchpad into sealed pages, advancing their versions. -/
  | xSeal (q : Pred) (tag : BitVec 6) (dst src : XOpd) (len : SReg) (cls : BitVec 4) (key : BitVec 8)
  /-- XSGATHER, R298. Transposes a row-order tensor through the stride-gather unit. -/
  | xSgather (q : Pred) (tag : BitVec 6) (dst src : XOpd) (len : SReg) (cls : BitVec 4) (desc : SReg)
  /-- XWAIT, R299. Waits until a copy tag leaves HELD and RUNNING. -/
  | xWait (q : Pred) (tag : BitVec 6)
  /-- XSTAT, R300. Reads a copy tag's state and done count. -/
  | xStat (q : Pred) (d : SReg) (tag : BitVec 6)
  /-- XCANCEL, R301. Stops or discards the command on a tag. -/
  | xCancel (q : Pred) (tag : BitVec 6)
  /-- FEEDA, R198. Sets the A window. -/
  | uFeeda (a : WReg) (lenM1 : BitVec 9) (all : Bool)
  /-- FEEDB, R198. Sets the B window. -/
  | uFeedb (a : WReg) (lenM1 : BitVec 9) (all : Bool)
  /-- MAC, R195. Adds the windows' products into ACUR in fixed group order. -/
  | uMac
  /-- MACQ, R196. Starts a quantised block sum P. -/
  | uMacq
  /-- FOLD, R199. Reads the partial-sum port at its fixed distance and adds the scaled sum. -/
  | uFold
  /-- ACCL, R198. Selects the current accumulator, optionally clearing the edge region. -/
  | uAccl (a : WReg) (idx : BitVec 6) (clr : Bool)
  /-- NORM, R209. Computes a norm vector committed with micro-tile 0. -/
  | uNorm (a : WReg) (sideB add : Bool)
  /-- DRAW, R216. Draws a block of sample indices from the alias table. -/
  | uDraw (a b : WReg) (qM1 : BitVec 7)
  /-- SGATH, R216. Gathers the drawn, pre-scaled slab into both windows. -/
  | uSgath (a : WReg)
  /-- PROBE, R218. Welford update of the probe statistics. -/
  | uProbe (a : WReg) (nM1 : BitVec 6)
  /-- STOPTEST, R219. Evaluates the stop rule and branches when it holds. -/
  | uStoptest (off : BitVec 16)
  /-- SKIPZ, R201. Skips the next words when a window is all zero and ZSKIP is set. -/
  | uSkipz (sideB : Bool) (n : BitVec 4)
  /-- EDGE, R198. Sets the edge offsets. -/
  | uEdge (a b : WReg)
  /-- SWAP, R198. Exchanges two working registers. -/
  | uSwap (a b : WReg)
  /-- PSET, R198. Sets a working register from an immediate or a parameter field. -/
  | uPset (d : WReg) (src : PsetSrc)
  /-- PADD, R198. Adds working registers and an immediate. -/
  | uPadd (d a b : WReg) (i : BitVec 32)
  /-- PBR, R198. Conditional micro-branch. -/
  | uPbr (a b : WReg) (cond : BitVec 3) (off : BitVec 16)
  /-- MLOOP, R198. Micro-loop over the following words. -/
  | uMloop (a : WReg) (cnt off : BitVec 16)
  /-- WAIT, R198. Delays the next micro-word. -/
  | uWait (a : WReg) (n : BitVec 16)
  /-- MEND, R198. Ends the routine for this micro-tile. -/
  | uMend
  /-- PACKAGE_RESET, R443. A package reset starts the security processor's boot through stages 1 to 8, each checked and stopping with ERROR at the first failure. -/
  | evPackageReset
  /-- REGISTER_WRITE, R445. A write to a housekeeping register with no row of its own stores the value, or is ignored and counted in WRIGNORED if the register is R, or F after stage 5. -/
  | evRegisterWrite
  /-- CLKCAP_WRITE, R449. A host write to CLKCAP sets the highest clock step allowed, which the package then applies between bundles. -/
  | evClkcapWrite
  /-- CLOCK_STEP_CHANGE, R449. The clock moves to the lowest of CLKCAP, the power limit and the thermal limit, applied to every core and engine at once between bundles. -/
  | evClockStepChange
  /-- THERMAL_TRIP, R450. A junction reaching 120 °C trips the package: every step in flight is lost, no commit is proposed, and the package resets. -/
  | evThermalTrip
  /-- TELEMETRY_SAMPLE, R451. Every 1 ms a telemetry group samples power, temperatures, clock step and error counts into the event ring. -/
  | evTelemetrySample
  /-- CLUSTER_GATE, R235. An idle cluster is power-gated after its near caches write back M sectors and give up every copy. -/
  | evClusterGate
  /-- CLUSTER_WAKE, R451. A gated cluster wakes for a placement, which waits for it. -/
  | evClusterWake
  /-- LINK_RESET, R438. A firmware write of RESET to LINKCTL brings a lost link back into service. -/
  | evLinkReset
  /-- EVENT_RING_CONSUME, R448. A host write of EVTCONS frees ring entries, so that waiting core and command-processor records may be written. -/
  | evEventRingConsume
  /-- EVENT_RECORD_WRITE, R448. A source's record is written into the partition's event ring and EVTPROD is advanced, or the record waits or is dropped when the ring is full. -/
  | evEventRecordWrite
  /-- LAUNCH_RECORD, R344. A launch record read from a mailbox slot after a doorbell write is checked and either accepted or rejected with a completion record. -/
  | evLaunchRecord
  /-- DISPATCH_DECISION, R349. The partition scheduler increments DC and places at most one eligible record, taking the oldest record or reserving its cores on every 64th decision. -/
  | evDispatchDecision
  /-- DICTIONARY_LOAD, R352. A placed launch waiting for room in its cluster's dictionary store has its dictionary loaded once room frees, and then checked against DICTHASH. -/
  | evDictionaryLoad
  /-- LAUNCH_ISSUABLE, R352. A placed context becomes issuable once its set-up is complete and any arrival log opened for it has been performed. -/
  | evLaunchIssuable
  /-- PRIORITY_PREEMPT, R351. A record at PRIORITY 56 or above that has led 64 ordinary decisions in a row without placement causes the lowest-priority resident launches to be pre-empted. -/
  | evPriorityPreempt
  /-- LAUNCH_COMPLETE, R256. A launch completes on a core once its posted writes are accepted and its stores have performed; slots and banks then pass to the next launch. -/
  | evLaunchComplete
  /-- RELEASE_FLUSH, R257. The command processor performs a completed launch's deferred system-scope release flush, and then writes its completion record or proposes its step commit. -/
  | evReleaseFlush
  /-- CANCELLATION, R364. A cancellation token marks matching records cancelled, then rolls back, kills and reports their launches and withdraws the step's leases. -/
  | evCancellation
  /-- BUNDLE_DISPATCH, R59. Fetch decodes the next bundle from a dictionary index or a literal, checks it, and dispatches its C operation, the other slots dispatching under the slip rules. -/
  | evBundleDispatch
  /-- CHECKPOINT_COMMIT, R397. A committing boundary releases withheld writes in entry order, starts held commands and sets the duplicates, CKSTAT and the resume table. -/
  | evCheckpointCommit
  /-- TRAP_ROLLBACK, R406. Once no slot can dispatch further after a trap, the context is restored to its last checkpoint, its trap record is written and sent, and the default response applies. -/
  | evTrapRollback
  /-- ASYNC_FAULT_REPORT, R402. A fault of an engine operation or a pending fault is reported at the next bundle boundary with ASYNC set, and the context rolls back. -/
  | evAsyncFaultReport
  /-- PREEMPT_BY_BOUNDARY, R413. A context commits a checkpoint at the first qualifying boundary after the request and is saved with its in-flight operations recorded. -/
  | evPreemptByBoundary
  /-- PREEMPT_BY_ROLLBACK, R413. A context that is waiting, held, or past PREEMPTWAIT cycles without a qualifying boundary is rolled back and saved in its checkpoint state. -/
  | evPreemptByRollback
  /-- CONTEXT_SAVE, R414. A pre-empted launch's context state is streamed, with tagged 64 KiB units, to the spare region of its save stack. -/
  | evContextSave
  /-- CONTEXT_RESTORE, R415. A saved context is read back, its tiles re-pinned and its arrival log replayed, or SAVE_CORRUPT is raised. -/
  | evContextRestore
  /-- REMOTE_WRITE_ARRIVAL, R44. A remote write reaching its target core is checked and then performed, queued, logged, refused or discarded with REMOTE_BOUND. -/
  | evRemoteWriteArrival
  /-- RECEIVE_QUEUE_PERFORM, R46. A queued remote write performs when the word it waits on becomes empty. -/
  | evReceiveQueuePerform
  /-- WRITE_ACCEPTANCE, R45. An acceptance of a posted write decrements the window's OUT, releasing a stalled L slot. -/
  | evWriteAcceptance
  /-- REMOTE_BOUND_REPLY, R44. A REMOTE_BOUND reply ends the issuing launch with a trap record and KEPT set, without rollback. -/
  | evRemoteBoundReply
  /-- PHASE_ARRIVAL, R356. A domain home counts a phase arrival, and at the MEMBERS-th arrival fills the phase word and releases every waiting member. -/
  | evPhaseArrival
  /-- TAGGED_WAIT_SATISFIED, R365. A context waiting on a tagged word, queue count, phase word or tile finds its condition true and proceeds. -/
  | evTaggedWaitSatisfied
  /-- WAIT_TIMEOUT, R365. A tagged wait reaching WAITLIMIT cycles raises WAIT_TIMEOUT. -/
  | evWaitTimeout
  /-- HOST_INBOUND_WRITE, R254. A write from the host or a peer package performs at its home, which invalidates every L1 and near-cache copy. -/
  | evHostInboundWrite
  /-- SECTOR_EVICT_WRITEBACK, R234. An evicted M sector's write-back reaches its home, which performs it if its version is current and cancels it otherwise. -/
  | evSectorEvictWriteback
  /-- HOME_PROBE, R234. A home probe takes an E or M sector from a holder, carrying the data back and advancing the line's version. -/
  | evHomeProbe
  /-- TILE_FILL_COMPLETE, R181. The last line of a memory-homed tile is pinned and the tile moves from FILLING to READY. -/
  | evTileFillComplete
  /-- TILE_FILL_FAULT, R181. A fault during a tile fill empties the tile and traps the context, attributed to the tld. -/
  | evTileFillFault
  /-- MATRIX_RECORD_START, R187. The engine starts the next queued record once its tiles are READY, taking records in queue order. -/
  | evMatrixRecordStart
  /-- MICRO_TILE_COMMIT, R202. A micro-tile's run reaches mend and its results reach the accumulator in one act, setting MTMASK. -/
  | evMicroTileCommit
  /-- MATRIX_CALL_COMPLETE, R189. A call completes when all its micro-tiles commit, setting its status, freeing its accumulators and emptying RETIRING tiles. -/
  | evMatrixCallComplete
  /-- MATRIX_MIGRATE, R363. An engine whose queue has emptied takes one allowed MIGRATE record from a neighbour in its cluster. -/
  | evMatrixMigrate
  /-- MIGRATION_RETURN, R204. A migrated record is stopped at its next micro-tile boundary when the executing core's own record arrives, and the rest runs at home. -/
  | evMigrationReturn
  /-- ACC_DRAIN_DONE, R183. A tst finishes reading its accumulator into the drain buffer, returning it from DRAINING to IDLE. -/
  | evAccDrainDone
  /-- COPY_COMPLETE, R293. A running copy command ends with its tag in DONE, NOSPACE, FENCED, LINK_LOST or FAULTED, sending a record for codes 4 to 6. -/
  | evCopyComplete
  /-- STEP_CURRENT, R358. A step record becomes current, its write leases are requested and its launch records are accepted once those are granted. -/
  | evStepCurrent
  /-- SCHEDULE_REREAD, R359. A step record whose NEXT is 0 is re-read every 10 µs until the chain is extended. -/
  | evScheduleReread
  /-- PROOFER_PREFETCH, R360. The Proofer takes read leases and issues bulk gets for the pages of steps ahead of the current one. -/
  | evProoferPrefetch
  /-- LEASE_RENEWAL, R421. Every 0.5 ms the Proofer renews each lease it keeps. -/
  | evLeaseRenewal
  /-- READ_LEASE_GRANT, R423. A read-lease grant moves the page to READ with D = E − 200 µs and fetches the page. -/
  | evReadLeaseGrant
  /-- LEASE_RETRY, R423. A RETRY reply causes a read-lease request to be sent again after a short delay. -/
  | evLeaseRetry
  /-- WRITE_LEASE_GRANT, R423. A write-lease grant at generation g moves the page to WRITE and can make the step's launches eligible. -/
  | evWriteLeaseGrant
  /-- RENEWAL_GRANT, R423. A granted renewal advances the lease's D. -/
  | evRenewalGrant
  /-- LEASE_FENCED, R423. A FENCED reply to a lease request, renewal or put drops the page and loses the step. -/
  | evLeaseFenced
  /-- LEASE_DEADLINE, R423. A lease reaching its local deadline D is dropped, and for a write lease the step is lost. -/
  | evLeaseDeadline
  /-- POOL_PAGE_ARRIVAL, R427. A fetched pool page arrives in the pool cache and the reads waiting on it are served. -/
  | evPoolPageArrival
  /-- PUT_ACKNOWLEDGE, R428. The pool acknowledges a put of a written sector. -/
  | evPutAcknowledge
  /-- POOL_CACHE_EVICT, R426. A pool-cache page is evicted after its puts are acknowledged, dropping its L2 and L1 copies and releasing its lease. -/
  | evPoolCacheEvict
  /-- STEP_COMMIT, R433. Once a step's launches and flush are complete, the command processor proposes its commit cell and records the outcome. -/
  | evStepCommit
  /-- STEP_LOST, R430. A lost step attempt has its launches cancelled and its leases withdrawn, and a step-commit record is written. -/
  | evStepLost
  /-- STEP_RERUN_CHECK, R432. Once a rerun's write leases are granted, the commit cell is read to decide between ALREADY, a fault and running the launches. -/
  | evStepRerunCheck
  /-- FLIT_RECEIVE, R435. A received DATA flit is delivered if in order, discarded as a duplicate, or discarded with a NAK sent. -/
  | evFlitReceive
  /-- NAK_RECEIVE, R435. A NAK causes the sender to replay from the named flit's successor, unless a replay in progress already covers it. -/
  | evNakReceive
  /-- REPLAY_TIMEOUT, R435. An acknowledgement that has not advanced for 4 µs while unacknowledged flits are held causes a replay. -/
  | evReplayTimeout
  /-- LANE_ERROR_THRESHOLD, R437. A lane whose error count in a window exceeds THRESH leaves its strand and retrains. -/
  | evLaneErrorThreshold
  /-- LANE_RETRAIN_END, R437. A retrained lane rejoins its strand at a flit boundary, or stays out after its third failure. -/
  | evLaneRetrainEnd
  /-- STRAND_LOSS, R437. A lane losing signal takes its strand out of service, and the sender replays on the other strand. -/
  | evStrandLoss
  /-- STRAND_RETURN, R437. A lost strand returns after retraining with every lane that trained. -/
  | evStrandReturn
  /-- LINK_LOST, R438. Both strands of a direction out for longer than 200 µs lose the link, and the accesses waiting on it are ended. -/
  | evLinkLost
  /-- UNCORRECTABLE_ERROR, R418. An uncorrectable SECDED or HBM error is dropped, retried, or poisons its data and loses the step, by its location. -/
  | evUncorrectableError
  /-- ATS_INVALIDATION, R395. An ATS invalidation of a host page completes only after every request that used the old translation has completed or been discarded. -/
  | evAtsInvalidation
  /-- RESUME, R403. A host command that resumes a held context from its checkpoint, or at a new pc. -/
  | evResume
  /-- KILL, R447. A host command that ends a launch KILLED, whether it is resident, placed or only accepted. -/
  | evKill
  /-- PREEMPT, R413. A host command that requests pre-emption of a resident launch. -/
  | evPreempt
  /-- STEP_ON, R412. A host command that turns on single-stepping for a context of a DEBUG launch. -/
  | evStepOn
  /-- STEP_OFF, R412. A host command that turns single-stepping off. -/
  | evStepOff
  /-- CANCEL, R364. A host command that cancels every launch bearing a token. -/
  | evCancel
  /-- INVAL_VA, R376. A host command that invalidates translations of an ASID over a virtual range. -/
  | evInvalVa
  /-- INVAL_ASID, R376. A host command that invalidates every translation of an ASID. -/
  | evInvalAsid
  /-- INVAL_S2, R376. A host command that invalidates the partition's stage 2 over a guest physical range. -/
  | evInvalS2
  /-- MBOX_OPEN, R447. A host command that opens a mailbox. -/
  | evMboxOpen
  /-- MBOX_CLOSE, R447. A host command that closes a mailbox. -/
  | evMboxClose
  /-- SCHEDULE, R359. A host command that sets or replaces the partition's schedule capability and first step offset. -/
  | evSchedule
  /-- GET_VERSION, R389. An SPDM request for the supported versions. -/
  | evGetVersion
  /-- GET_CAPABILITIES, R389. An SPDM request for the responder's capabilities. -/
  | evGetCapabilities
  /-- NEGOTIATE_ALGORITHMS, R389. An SPDM request that negotiates P-384, SHA-384 and AES-256-GCM. -/
  | evNegotiateAlgorithms
  /-- GET_DIGESTS, R392. An SPDM request for the certificate-chain digests, answered from a snapshot taken at acceptance. -/
  | evGetDigests
  /-- GET_CERTIFICATE, R392. An SPDM request for a slot's certificate chain, answered from a snapshot. -/
  | evGetCertificate
  /-- CHALLENGE, R392. An SPDM challenge answered with ECDSA and LMS signatures under the snapshotted slot. -/
  | evChallenge
  /-- GET_MEASUREMENTS, R389. An SPDM request for the firmware, configuration, partition and signer-table measurements. -/
  | evGetMeasurements
  /-- KEY_EXCHANGE, R389. An SPDM request that begins a secure session with P-384 DHE. -/
  | evKeyExchange
  /-- FINISH, R389. An SPDM request that completes the secure-session handshake. -/
  | evFinish
  /-- HEARTBEAT, R389. An SPDM request that keeps a session alive. -/
  | evHeartbeat
  /-- KEY_UPDATE, R389. An SPDM request that updates the session keys. -/
  | evKeyUpdate
  /-- END_SESSION, R389. An SPDM request that ends a secure session. -/
  | evEndSession
  /-- SET_CERTIFICATE, R392. An SPDM request that writes a slot's certificate chain and increases its generation, refused for slot 0. -/
  | evSetCertificate
  /-- GET_CSR, R389. An SPDM request for a certificate signing request. -/
  | evGetCsr
  /-- CHUNK_SEND, R389. An SPDM request that carries a chunk of a large message to the responder. -/
  | evChunkSend
  /-- CHUNK_GET, R389. An SPDM request that fetches a chunk of a large response. -/
  | evChunkGet
  /-- UNSUPPORTED_REQUEST, R389. PSK_EXCHANGE, mutual-authentication and encapsulated requests are answered with ERROR UnsupportedRequest. -/
  | evUnsupportedRequest
  /-- OWNER_AUTH, R391. A vendor message whose dual signatures make the session the owner of a partition. -/
  | evOwnerAuth
  /-- SET_KEY, R391. A vendor message from a partition owner that loads a key slot of a given kind. -/
  | evSetKey
  /-- CLEAR_KEY, R391. A vendor message from a partition owner that empties a key slot. -/
  | evClearKey
  /-- LOCK_INTERFACE, R394. A TDISP request that freezes the partition's configuration and moves its TDI towards RUN. -/
  | evLockInterface
  /-- STOP_INTERFACE, R394. A TDISP request that stops the TDI, as is needed to leave ERROR. -/
  | evStopInterface
  /-- TDI_ERROR, R394. A write to a frozen item or an IDE failure moves the TDI to ERROR, killing launches and emptying the partition's keys. -/
  | evTdiError
  /-- REMOTE_REQUEST_ARRIVAL, R44. A remote load or ldf through a window reaches its target core and is served, waits for a full word, or is held at the target package while the target context is saved. -/
  | evRemoteRequestArrival
  /-- REMOTE_REPLY, R388. A reply from a peer package or the pool controller arrives for a waiting remote load, ldf, atomic, cell operation or step proposal, completing it, or it carries a refusal that makes the sender resend. -/
  | evRemoteReply
  /-- PATROL_SCRUB, R418. The HBM patrol scrub reads and corrects stack memory in the background and sends its events from the stack's event source. -/
  | evPatrolScrub
  /-- TDI_RUN, R394. A partition's TDI moves from CONFIG_LOCKED to RUN, after which CONF segments are accepted. -/
  | evTdiRun
  /-- IDE_KM, R390. An IDE_KM message from a partition owner inside an SPDM secure session programs the IDE stream keys. -/
  | evIdeKm
  deriving DecidableEq, Repr

end Sys2Proof
end

