-- ==== Sys2Proof/WellFormed.lean ====
section
/-! DEFINITION. WellFormed.lean: the field rules of R64 to R76, R137, R147, R197 and the instructions' own descriptions
that an instruction's operands keep; a word whose fields break one raises ILLEGAL_FIELD (R69). The rules that need the
context (an accumulator below 2·ACCBANKS, a loaded routine) are checked where the bundle dispatches (R32, R76). -/
namespace Sys2Proof

/-- "Int" of Table 3.14: T from 0 to 7. -/
def intTy (t : Ty) : Bool := t.toNat < 8
/-- "Fp" of Table 3.14: fp16, bf16, fp32. -/
def fpTy (t : Ty) : Bool := t == 10 || t == 11 || t == 12
/-- i64 or n64, whose elements use register pairs (R104, R120). -/
def wideTy (t : Ty) : Bool := t == 3 || t == 7
/-- q8 or q4. -/
def codeTy (t : Ty) : Bool := t == 13 || t == 14
/-- The narrow types of `vpack` and `vunpack` (R143). -/
def narrowTy (t : Ty) : Bool := t == 0 || t == 1 || t == 4 || t == 5 || codeTy t
/-- The key types of `vhash.crc` (R163). -/
def keyTy (t : Ty) : Bool := t == 2 || t == 6 || wideTy t
/-- The types of `fcvt`: i32, i64, n32, n64, fp32, fp64 (Table 3.14a). -/
def cvtTy (t : Ty) : Bool := t == 2 || t == 3 || t == 6 || t == 7 || t == 12 || t == 15
def floatTy (t : Ty) : Bool := t == 12 || t == 15
/-- The bits of a type (Table 3.11). -/
def tyWidth (t : Ty) : Nat :=
  match t.toNat with
  | 0 | 4 | 8 | 9 | 13 => 8
  | 1 | 5 | 10 | 11 => 16
  | 2 | 6 | 12 => 32
  | 14 => 4
  | _ => 64

def isEven (r : BitVec 6) : Bool := r.getLsbD 0 == false
/-- A vector operand of a 64-bit type names an even register (R68, R120). -/
def evenPairs (t : Ty) (rs : List VReg) : Bool := !wideTy t || rs.all isEven
/-- The same where the pair is called for by something other than T. -/
def evenDbl (wide : Bool) (r : BitVec 6) : Bool := !wide || isEven r

def VSrc.notImm : VSrc → Bool
  | .v _ => true | .s _ => true | .imm _ => false
def VSrc.notReg : VSrc → Bool
  | .v _ => false | .s _ => true | .imm _ => true
/-- Operand b in its vector form follows the pair rule too. -/
def evenSrc (t : Ty) : VSrc → Bool
  | .v r => evenPairs t [r] | .s _ => true | .imm _ => true

/-- With SPACE 0b01 the capability field is zero (R65). -/
def spaceOk (s : Space) (cap : BitVec 4) : Bool := s != .sp || cap == 0
def Mem.spOk (m : Mem) : Bool := spaceOk m.space m.cap
/-- "Sp" of Table 3.15. -/
def Mem.spOnly (m : Mem) : Bool := m.space != .virt && m.spOk
/-- "Virt" of Table 3.15. -/
def Mem.virtOnly (m : Mem) : Bool := m.space == .virt
/-- R272: an LM2 form of the vector accesses refuses SPACE 0b10. -/
def Mem2.noWin (m : Mem2) : Bool := m.space != .win && spaceOk m.space m.cap
def Mem2.virtOnly (m : Mem2) : Bool := m.space == .virt
def XOpd.ok (o : XOpd) : Bool := spaceOk o.space o.cap
/-- The local side of `xget`, `xput` and `xsgather`: plain addresses without a capability, or scratchpad (Table 11.4). -/
def XOpd.landing (o : XOpd) : Bool := o.space == .sp || (o.space == .virt && o.cap == 0)

/-- Scope codes 5 to 7 are not assigned (R71). -/
def scopeOk (s : BitVec 3) : Bool := s.toNat ≤ 4
/-- R305. -/
def atomScope (s : BitVec 3) : Bool := s == 2 || s == 3 || s == 4
/-- Table 3.15: the cells' scopes. -/
def cellScope (s : BitVec 3) : Bool := s == 2 || s == 4
/-- Table 3.15: the sizes of the full/empty forms without data. -/
def feSize (s : BitVec 3) : Bool := s == 2 || s == 3 || s == 4

/-- The assigned numbers of Table 2.8. -/
def sysAssigned (n : BitVec 12) : Bool :=
  n.toNat ≤ 0x2F || (0x40 ≤ n.toNat && n.toNat ≤ 0x47)
/-- The P registers of Table 2.8: FPCTL, RACECTL, SEED and WAITLIMIT. -/
def sysProgram (n : BitVec 12) : Bool := 0x007 ≤ n.toNat && n.toNat ≤ 0x00A

/-- `pset`: a field of at most 32 bits (Table 8.11). -/
def PsetSrc.ok : PsetSrc → Bool
  | .imm _ => true
  | .param _ _ widthM1 => widthM1.toNat ≤ 31

/-- Every field holds a code its row allows. -/
def Instr.wf : Instr → Bool
  | .cNop _ => true
  | .cBr _ _ => true
  | .cCall _ _ => true
  | .cRet _ => true
  | .cBrs _ _ => true
  | .cCalls _ _ => true
  | .cLoop _ _ e => e != 0
  | .cLoopi _ _ e => e != 0
  | .cLbreak _ => true
  | .cLnext _ => true
  | .cYield _ => true
  | .cTrap _ _ => true
  | .cExit _ => true
  | .cBreak _ => true
  | .aAdd _ _ _ _ => true
  | .aSub _ _ _ _ => true
  | .aMul _ _ _ _ => true
  | .aMulh _ _ _ _ => true
  | .aMulhn _ _ _ _ => true
  | .aDiv _ _ _ _ => true
  | .aDivn _ _ _ _ => true
  | .aRem _ _ _ _ => true
  | .aRemn _ _ _ _ => true
  | .aAnd _ _ _ _ => true
  | .aOr _ _ _ _ => true
  | .aXor _ _ _ _ => true
  | .aAndn _ _ _ _ => true
  | .aShl _ _ _ _ => true
  | .aShr _ _ _ _ => true
  | .aSar _ _ _ _ => true
  | .aRotl _ _ _ _ => true
  | .aMin _ _ _ _ => true
  | .aMax _ _ _ _ => true
  | .aMinn _ _ _ _ => true
  | .aMaxn _ _ _ _ => true
  | .aSel _ _ _ _ _ => true
  | .aPopc _ _ _ => true
  | .aClz _ _ _ => true
  | .aCtz _ _ _ => true
  | .aBext _ _ _ _ => true
  | .aBins _ _ _ _ _ => true
  | .aLea _ _ _ _ _ => true
  | .aMadd _ _ _ _ _ => true
  | .aAddi _ _ _ _ => true
  | .aAndi _ _ _ _ => true
  | .aOri _ _ _ _ => true
  | .aXori _ _ _ _ => true
  | .aShli _ _ _ _ => true
  | .aShri _ _ _ _ => true
  | .aSari _ _ _ _ => true
  | .aMovi _ _ _ => true
  | .aMovhi _ _ _ _ => true
  | .aMuli _ _ _ _ => true
  | .aCmp _ _ _ _ _ => true
  | .aCmpi _ _ _ _ _ => true
  | .aPand _ _ _ _ => true
  | .aPor _ _ _ _ => true
  | .aPxor _ _ _ _ => true
  | .aPnot _ _ _ => true
  | .aPbit _ _ _ _ => true
  | .aFadd _ _ _ _ _ _ => true
  | .aFsub _ _ _ _ _ _ => true
  | .aFmul _ _ _ _ _ _ => true
  | .aFma _ _ _ _ _ _ _ => true
  | .aFdiv _ _ _ _ _ _ => true
  | .aFsqrt _ _ _ _ _ => true
  | .aFmin _ _ _ _ _ => true
  | .aFmax _ _ _ _ _ => true
  | .aFcmp _ _ _ _ _ _ => true
  | .aFcvt _ _ _ dt st _ _ => cvtTy dt && cvtTy st && dt != st && (floatTy dt || floatTy st)
  | .aFclass _ _ _ _ => true
  | .aSysrd _ _ n => sysAssigned n
  | .aSyswr _ _ n => sysProgram n
  | .aMpset _ _ _ => true
  | .aMpget _ _ _ => true
  | .aLidx _ _ n => n.toNat ≤ 5
  | .vAdd _ d a b t _ => intTy t && evenPairs t [d, a] && evenSrc t b
  | .vSub _ d a b t _ => intTy t && evenPairs t [d, a] && evenSrc t b
  | .vMul _ d a b t _ => intTy t && evenPairs t [d, a] && evenSrc t b
  | .vMulh _ d a b t _ => intTy t && evenPairs t [d, a] && evenSrc t b && b.notImm
  | .vMad _ d a b c t _ => intTy t && evenPairs t [d, a, c] && evenSrc t b && b.notImm
  | .vAbs _ d a t _ => t.toNat ≤ 3 && evenPairs t [d, a]
  | .vNeg _ d a t _ => t.toNat ≤ 3 && evenPairs t [d, a]
  | .vMin _ d a b t _ => intTy t && evenPairs t [d, a] && evenSrc t b
  | .vMax _ d a b t _ => intTy t && evenPairs t [d, a] && evenSrc t b
  | .vAnd _ d a b t _ => intTy t && evenPairs t [d, a] && evenSrc t b
  | .vOr _ d a b t _ => intTy t && evenPairs t [d, a] && evenSrc t b
  | .vXor _ d a b t _ => intTy t && evenPairs t [d, a] && evenSrc t b
  | .vAndn _ d a b t _ => intTy t && evenPairs t [d, a] && evenSrc t b
  | .vShl _ d a b t _ => intTy t && evenPairs t [d, a] && evenSrc t b
  | .vShr _ d a b t _ => intTy t && evenPairs t [d, a] && evenSrc t b
  | .vSar _ d a b t _ => intTy t && evenPairs t [d, a] && evenSrc t b
  | .vCmp _ d a b t _ combine _ => d != 0 && intTy t && evenPairs t [a] && evenSrc t b && b.notImm && (!combine || tyWidth t < 32)
  | .vSel _ d a b _ t _ => intTy t && evenPairs t [d, a, b]
  | .vMov _ _ _ _ => true
  | .vBcast _ d b t _ => (intTy t || fpTy t) && evenPairs t [d] && b.notReg
  | .vPopc _ d a t _ => intTy t && evenPairs t [d, a]
  | .vClz _ d a t _ => intTy t && evenPairs t [d, a]
  | .vAddsat _ d a b t _ => intTy t && evenPairs t [d, a] && evenSrc t b
  | .vSubsat _ d a b t _ => intTy t && evenPairs t [d, a] && evenSrc t b
  | .vLane _ d t _ => intTy t && evenPairs t [d]
  | .vFadd _ _ _ b t _ _ => fpTy t && b.notImm
  | .vFsub _ _ _ b t _ _ => fpTy t && b.notImm
  | .vFmul _ _ _ b t _ _ => fpTy t && b.notImm
  | .vFma _ _ _ b _ t _ _ => fpTy t && b.notImm
  | .vFms _ _ _ b _ t _ _ => fpTy t && b.notImm
  | .vFmin _ _ _ b t _ => fpTy t && b.notImm
  | .vFmax _ _ _ b t _ => fpTy t && b.notImm
  | .vFrcp _ _ _ t _ => fpTy t
  | .vFrsq _ _ _ t _ => fpTy t
  | .vFexp2 _ _ _ t _ => fpTy t
  | .vFlog2 _ _ _ t _ => fpTy t
  | .vFcmp _ d _ b t _ combine _ => d != 0 && fpTy t && b.notImm && (!combine || tyWidth t < 32)
  | .vFclass _ _ _ t _ => fpTy t
  | .vFabs _ _ _ t _ => fpTy t || t == 8 || t == 9
  | .vFneg _ _ _ t _ => fpTy t || t == 8 || t == 9
  | .vCvt _ d a dt st _ _ _ => dt != 15 && st != 15 && dt != st && evenPairs dt [d] && evenPairs st [a]
  | .vQuant _ _ _ _ t _ _ _ => codeTy t
  | .vDequant _ _ _ _ t _ => codeTy t
  | .vPack _ _ _ _ t _ => narrowTy t
  | .vUnpack _ d _ b t _ => narrowTy t && d != b
  | .vRed _ d a t _ op => intTy t && evenPairs t [d, a] && op.toNat ≤ 5
  | .vScan _ d a t _ op => intTy t && evenPairs t [d, a] && op.toNat ≤ 5
  | .vFred _ _ _ t _ _ op => fpTy t && op.toNat ≤ 2
  | .vFscan _ _ _ t _ _ op => fpTy t && op.toNat ≤ 2
  | .vPerm _ d a b t _ => t.toNat ≤ 13 && evenPairs t [d, a, b]
  | .vSlide _ d a b t _ => t.toNat ≤ 13 && evenPairs t [d, a] && b.notReg
  | .vRot _ d a b t _ => t.toNat ≤ 13 && evenPairs t [d, a] && b.notReg
  | .vCompress _ d a t _ => t.toNat ≤ 13 && evenPairs t [d, a]
  | .vExpand _ d a t _ => t.toNat ≤ 13 && evenPairs t [d, a]
  | .vZip _ d a b t _ _ => t.toNat ≤ 13 && evenPairs t [d, a, b]
  | .vUnzip _ d a b t _ _ => t.toNat ≤ 13 && evenPairs t [d, a, b]
  | .vExtr _ _ a _ t => t.toNat ≤ 13 && evenPairs t [a]
  | .vIns _ d _ _ t => t.toNat ≤ 13 && evenPairs t [d]
  | .vMpush _ _ => true
  | .vMinv _ => true
  | .vMpop _ => true
  | .vKmov _ d _ => d != 0
  | .vKop _ d _ b op => d != 0 && op.toNat ≤ 4 && (op != 4 || b == 0)
  | .vKpopc _ _ _ => true
  | .vSkip _ n => n != 0
  | .vHashCrc _ d a b t _ => keyTy t && evenPairs t [d, a, b]
  | .vHashMix _ d a b t _ => wideTy t && evenPairs t [d, a, b]
  | .vHashs _ _ _ _ _ _ => true
  | .vPart _ _ _ _ _ => true
  | .vPartCnt _ _ _ _ kc _ => kc != 0
  | .vScmp _ _ _ b _ _ => b.notImm
  | .vSfind _ _ _ b _ _ => b.notImm
  | .vSmatch _ d _ b _ _ => d != 0 && b.notImm
  | .vAccrd _ _ _ _ _ => true
  | .vAccwr _ _ _ _ _ => true
  | .lLd _ _ mem _ _ => mem.spOk
  | .lSt _ _ mem _ => mem.spOk
  | .lVld _ _ mem => mem.spOk
  | .lVst _ _ mem => mem.spOk
  | .lVldQueue _ _ _ off need _ => need != 0 && off.toNat < need.toNat
  | .lVstQueue _ _ _ off need _ => need != 0 && off.toNat < need.toNat
  | .lVlds _ d mem _ size => mem.noWin && evenDbl (size == 3) d
  | .lVsts _ d mem _ size => mem.noWin && evenDbl (size == 3) d
  | .lVgather _ d mem _ size => mem.noWin && evenDbl (size == 3) d
  | .lVscatter _ d mem _ size => mem.noWin && evenDbl (size == 3) d
  | .lVsgather _ _ mem x => mem.noWin && evenDbl true x
  | .lLdf _ _ mem scope _ => mem.spOnly && scopeOk scope
  | .lLdfTake _ _ mem scope _ => mem.spOnly && scopeOk scope
  | .lSte _ _ mem scope _ => mem.spOnly && scopeOk scope
  | .lStf _ _ mem scope _ => mem.spOnly && scopeOk scope
  | .lFset _ mem size => mem.spOnly && feSize size
  | .lFclr _ mem size => mem.spOnly && feSize size
  | .lFqry _ _ mem size => mem.spOnly && feSize size
  | .lTld _ _ _ _ => true
  | .lTst _ _ _ _ => true
  | .lTrel _ _ => true
  | .lTqry _ _ _ => true
  | .lQinit _ _ _ _ size _ => size != 0
  | .lQadvp _ _ _ _ => true
  | .lQadvc _ _ _ _ => true
  | .lQqry _ _ _ _ => true
  | .lAadd _ _ mem scope _ _ => mem.virtOnly && atomScope scope
  | .lAmin _ _ mem scope _ _ => mem.virtOnly && atomScope scope
  | .lAmax _ _ mem scope _ _ => mem.virtOnly && atomScope scope
  | .lAminn _ _ mem scope _ _ => mem.virtOnly && atomScope scope
  | .lAmaxn _ _ mem scope _ _ => mem.virtOnly && atomScope scope
  | .lAand _ _ mem scope _ _ => mem.virtOnly && atomScope scope
  | .lAor _ _ mem scope _ _ => mem.virtOnly && atomScope scope
  | .lAxor _ _ mem scope _ _ => mem.virtOnly && atomScope scope
  | .lAxchg _ _ mem scope _ _ => mem.virtOnly && atomScope scope
  | .lAcas _ d mem scope _ _ => mem.virtOnly && atomScope scope && evenDbl true d
  | .lAfadd _ _ mem scope _ _ => mem.virtOnly && atomScope scope
  | .lAinc _ _ mem scope _ _ => mem.virtOnly && atomScope scope
  | .lVscadd _ d mem _ scope dbl _ _ => mem.virtOnly && atomScope scope && evenDbl dbl d
  | .lDprop _ _ mem _ scope => mem.virtOnly && cellScope scope
  | .lDread _ _ mem _ scope => mem.virtOnly && cellScope scope
  | .lDrecycle _ _ mem scope => mem.virtOnly && cellScope scope
  | .lPf _ mem _ => mem.virtOnly
  | .lFence _ _ scope kind => scopeOk scope && kind != 0
  | .lBrel _ _ => true
  | .lCld _ d mem => d != 0 && mem.virtOnly
  | .lCdrop _ d => d != 0
  | .lDsync _ => true
  | .mCall _ routine _ _ _ _ mode => !mode.getLsbD 0 || routine == 0xF3
  | .mCommit _ _ => true
  | .mWait _ _ => true
  | .mStat _ _ _ => true
  | .mZero _ _ _ => true
  | .mProg _ _ _ => true
  | .mSbuild _ _ _ _ => true
  | .mSstat _ _ => true
  | .xGet _ _ dst src _ _ => dst.ok && dst.landing && src.ok
  | .xPut _ _ dst src _ _ => dst.ok && src.ok && src.landing
  | .xCopy _ _ dst src _ _ => dst.ok && src.ok
  | .xFill _ _ dst _ _ _ _ => dst.ok
  | .xStage _ _ dst src _ _ _ => dst.ok && dst.space == .sp && src.space == .virt
  | .xSeal _ _ dst src _ _ _ => dst.space == .virt && src.ok && src.space == .sp
  | .xSgather _ _ dst src _ _ desc => dst.ok && dst.landing && src.space == .virt && evenDbl true desc
  | .xWait _ _ => true
  | .xStat _ _ _ => true
  | .xCancel _ _ => true
  | .uFeeda _ lenM1 all => !all || lenM1 == 0
  | .uFeedb _ lenM1 all => !all || lenM1 == 0
  | .uMac => true
  | .uMacq => true
  | .uFold => true
  | .uAccl _ _ _ => true
  | .uNorm _ _ _ => true
  | .uDraw _ _ qM1 => 7 ≤ qM1.toNat && qM1.toNat ≤ 63
  | .uSgath _ => true
  | .uProbe _ _ => true
  | .uStoptest _ => true
  | .uSkipz _ n => n != 0
  | .uEdge _ _ => true
  | .uSwap _ _ => true
  | .uPset _ src => src.ok
  | .uPadd _ _ _ _ => true
  | .uPbr _ _ cond _ => cond.toNat ≤ 5
  | .uMloop _ _ off => 1 ≤ off.toNat && off.toNat ≤ 1023
  | .uWait _ _ => true
  | .uMend => true
  | .evPackageReset => true
  | .evRegisterWrite => true
  | .evClkcapWrite => true
  | .evClockStepChange => true
  | .evThermalTrip => true
  | .evTelemetrySample => true
  | .evClusterGate => true
  | .evClusterWake => true
  | .evLinkReset => true
  | .evEventRingConsume => true
  | .evEventRecordWrite => true
  | .evLaunchRecord => true
  | .evDispatchDecision => true
  | .evDictionaryLoad => true
  | .evLaunchIssuable => true
  | .evPriorityPreempt => true
  | .evLaunchComplete => true
  | .evReleaseFlush => true
  | .evCancellation => true
  | .evBundleDispatch => true
  | .evCheckpointCommit => true
  | .evTrapRollback => true
  | .evAsyncFaultReport => true
  | .evPreemptByBoundary => true
  | .evPreemptByRollback => true
  | .evContextSave => true
  | .evContextRestore => true
  | .evRemoteWriteArrival => true
  | .evReceiveQueuePerform => true
  | .evWriteAcceptance => true
  | .evRemoteBoundReply => true
  | .evPhaseArrival => true
  | .evTaggedWaitSatisfied => true
  | .evWaitTimeout => true
  | .evHostInboundWrite => true
  | .evSectorEvictWriteback => true
  | .evHomeProbe => true
  | .evTileFillComplete => true
  | .evTileFillFault => true
  | .evMatrixRecordStart => true
  | .evMicroTileCommit => true
  | .evMatrixCallComplete => true
  | .evMatrixMigrate => true
  | .evMigrationReturn => true
  | .evAccDrainDone => true
  | .evCopyComplete => true
  | .evStepCurrent => true
  | .evScheduleReread => true
  | .evProoferPrefetch => true
  | .evLeaseRenewal => true
  | .evReadLeaseGrant => true
  | .evLeaseRetry => true
  | .evWriteLeaseGrant => true
  | .evRenewalGrant => true
  | .evLeaseFenced => true
  | .evLeaseDeadline => true
  | .evPoolPageArrival => true
  | .evPutAcknowledge => true
  | .evPoolCacheEvict => true
  | .evStepCommit => true
  | .evStepLost => true
  | .evStepRerunCheck => true
  | .evFlitReceive => true
  | .evNakReceive => true
  | .evReplayTimeout => true
  | .evLaneErrorThreshold => true
  | .evLaneRetrainEnd => true
  | .evStrandLoss => true
  | .evStrandReturn => true
  | .evLinkLost => true
  | .evUncorrectableError => true
  | .evAtsInvalidation => true
  | .evResume => true
  | .evKill => true
  | .evPreempt => true
  | .evStepOn => true
  | .evStepOff => true
  | .evCancel => true
  | .evInvalVa => true
  | .evInvalAsid => true
  | .evInvalS2 => true
  | .evMboxOpen => true
  | .evMboxClose => true
  | .evSchedule => true
  | .evGetVersion => true
  | .evGetCapabilities => true
  | .evNegotiateAlgorithms => true
  | .evGetDigests => true
  | .evGetCertificate => true
  | .evChallenge => true
  | .evGetMeasurements => true
  | .evKeyExchange => true
  | .evFinish => true
  | .evHeartbeat => true
  | .evKeyUpdate => true
  | .evEndSession => true
  | .evSetCertificate => true
  | .evGetCsr => true
  | .evChunkSend => true
  | .evChunkGet => true
  | .evUnsupportedRequest => true
  | .evOwnerAuth => true
  | .evSetKey => true
  | .evClearKey => true
  | .evLockInterface => true
  | .evStopInterface => true
  | .evTdiError => true
  | .evRemoteRequestArrival => true
  | .evRemoteReply => true
  | .evPatrolScrub => true
  | .evTdiRun => true
  | .evIdeKm => true

end Sys2Proof
end

