-- ==== Sys2Proof/Decode.lean ====
section
/-! DEFINITION. Decode.lean: the opcode map (R59 to R77, R197). Each slot word is taken apart once into a constructor;
the word of an instruction is put together again from the same tables, and a word is legal when its opcode is
assigned, its fields hold allowed codes and nothing stands in a field its row does not use, that is, when it is the
very word of the instruction it names (R69). -/
namespace Sys2Proof

/-- `n` bits of a word from bit `lo` up. -/
def fld (w : BitVec 64) (lo n : Nat) : BitVec n := w.extractLsb' lo n
def bit (w : BitVec 64) (i : Nat) : Bool := w.getLsbD i
/-- A field placed at bit `lo`. -/
def put {n : Nat} (lo : Nat) (x : BitVec n) : BitVec 64 := x.setWidth 64 <<< lo
def put1 (lo : Nat) (b : Bool) : BitVec 64 := put lo (BitVec.ofBool b)

/-- The predicate of the A, V, L, M and X slots (R61). -/
def predOf (w : BitVec 64) : Pred := ⟨bit w 55, fld w 52 3⟩
/-- The predicate of the C slot (R61). -/
def predC (w : BitVec 64) : Pred := ⟨bit w 25, fld w 22 3⟩
/-- SPACE (R65); code 0b11 names no space, and such a word is not the word of what is read here. -/
def spaceOf (c : BitVec 2) : Space := if c == 0 then .virt else if c == 1 then .sp else .win
def memOf (w : BitVec 64) : Mem := ⟨fld w 40 6, fld w 20 20, fld w 16 4, fld w 6 4, spaceOf (fld w 4 2)⟩
def mem2Of (w : BitVec 64) : Mem2 := ⟨fld w 40 6, fld w 16 4, fld w 6 4, spaceOf (fld w 4 2)⟩
def tmemOf (w : BitVec 64) : TMem := ⟨fld w 41 6, fld w 21 20, fld w 17 4, fld w 13 4⟩
/-- Table 3.10: destination s [45:40], capability [27:24], DSPACE [1:0]. -/
def dstOf (w : BitVec 64) : XOpd := ⟨fld w 40 6, fld w 24 4, spaceOf (fld w 0 2)⟩
/-- Table 3.10: source s [39:34], capability [23:20], SSPACE [3:2]. -/
def srcOf (w : BitVec 64) : XOpd := ⟨fld w 34 6, fld w 20 4, spaceOf (fld w 2 2)⟩
/-- Operand b by the form selector (Table 3.7). -/
def opB (w : BitVec 64) : VSrc :=
  if fld w 10 2 == 1 then .imm (fld w 24 16) else if fld w 10 2 == 2 then .s (fld w 34 6) else .v (fld w 34 6)
/-- T by the form selector (Table 3.7). -/
def tyB (w : BitVec 64) : Ty := if fld w 10 2 == 1 then fld w 17 4 else fld w 24 4
def kSrcOf (w : BitVec 64) : KSrc := if fld w 10 2 == 2 then .s (fld w 34 6) else .k (fld w 40 3)
/-- `pset` (Table 8.11). -/
def psetOf (w : BitVec 64) : PsetSrc :=
  if bit w 31 then .param (fld w 0 3) (fld w 3 6) (fld w 9 6) else .imm (fld w 0 31)

/-- Tables 3.5 and 3.13. -/
def readC (w : BitVec 64) : Option Instr :=
  let q := predC w
  match (fld w 26 6).toNat with
  | 0x00 => some (.cNop q)
  | 0x01 => some (.cBr q (fld w 0 22))
  | 0x02 => some (.cCall q (fld w 0 22))
  | 0x03 => some (.cRet q)
  | 0x04 => some (.cBrs q (fld w 16 6))
  | 0x05 => some (.cCalls q (fld w 16 6))
  | 0x06 => some (.cLoop q (fld w 16 6) (fld w 0 16))
  | 0x07 => some (.cLoopi q (fld w 12 10) (fld w 0 12))
  | 0x08 => some (.cLbreak q)
  | 0x09 => some (.cLnext q)
  | 0x0A => some (.cYield q)
  | 0x0B => some (.cTrap q (fld w 0 16))
  | 0x0C => some (.cExit q)
  | 0x0D => some (.cBreak q)
  | _ => none

/-- Tables 3.6 and 3.14a. -/
def readA (w : BitVec 64) : Option Instr :=
  let q := predOf w
  match (fld w 56 8).toNat with
  | 0x00 => some (.aAdd q (fld w 46 6) (fld w 40 6) (fld w 34 6))
  | 0x01 => some (.aSub q (fld w 46 6) (fld w 40 6) (fld w 34 6))
  | 0x02 => some (.aMul q (fld w 46 6) (fld w 40 6) (fld w 34 6))
  | 0x03 => some (.aMulh q (fld w 46 6) (fld w 40 6) (fld w 34 6))
  | 0x04 => some (.aMulhn q (fld w 46 6) (fld w 40 6) (fld w 34 6))
  | 0x05 => some (.aDiv q (fld w 46 6) (fld w 40 6) (fld w 34 6))
  | 0x06 => some (.aDivn q (fld w 46 6) (fld w 40 6) (fld w 34 6))
  | 0x07 => some (.aRem q (fld w 46 6) (fld w 40 6) (fld w 34 6))
  | 0x08 => some (.aRemn q (fld w 46 6) (fld w 40 6) (fld w 34 6))
  | 0x09 => some (.aAnd q (fld w 46 6) (fld w 40 6) (fld w 34 6))
  | 0x0A => some (.aOr q (fld w 46 6) (fld w 40 6) (fld w 34 6))
  | 0x0B => some (.aXor q (fld w 46 6) (fld w 40 6) (fld w 34 6))
  | 0x0C => some (.aAndn q (fld w 46 6) (fld w 40 6) (fld w 34 6))
  | 0x0D => some (.aShl q (fld w 46 6) (fld w 40 6) (fld w 34 6))
  | 0x0E => some (.aShr q (fld w 46 6) (fld w 40 6) (fld w 34 6))
  | 0x0F => some (.aSar q (fld w 46 6) (fld w 40 6) (fld w 34 6))
  | 0x10 => some (.aRotl q (fld w 46 6) (fld w 40 6) (fld w 34 6))
  | 0x11 => some (.aMin q (fld w 46 6) (fld w 40 6) (fld w 34 6))
  | 0x12 => some (.aMax q (fld w 46 6) (fld w 40 6) (fld w 34 6))
  | 0x13 => some (.aMinn q (fld w 46 6) (fld w 40 6) (fld w 34 6))
  | 0x14 => some (.aMaxn q (fld w 46 6) (fld w 40 6) (fld w 34 6))
  | 0x15 => some (.aSel q (fld w 46 6) (fld w 40 6) (fld w 34 6) (fld w 28 6))
  | 0x16 => some (.aPopc q (fld w 46 6) (fld w 40 6))
  | 0x17 => some (.aClz q (fld w 46 6) (fld w 40 6))
  | 0x18 => some (.aCtz q (fld w 46 6) (fld w 40 6))
  | 0x19 => some (.aBext q (fld w 46 6) (fld w 40 6) (fld w 34 6))
  | 0x1A => some (.aBins q (fld w 46 6) (fld w 40 6) (fld w 34 6) (fld w 28 6))
  | 0x1B => some (.aLea q (fld w 46 6) (fld w 40 6) (fld w 34 6) (fld w 24 4))
  | 0x1C => some (.aMadd q (fld w 46 6) (fld w 40 6) (fld w 34 6) (fld w 28 6))
  | 0x20 => some (.aAddi q (fld w 46 6) (fld w 40 6) (fld w 8 32))
  | 0x21 => some (.aAndi q (fld w 46 6) (fld w 40 6) (fld w 8 32))
  | 0x22 => some (.aOri q (fld w 46 6) (fld w 40 6) (fld w 8 32))
  | 0x23 => some (.aXori q (fld w 46 6) (fld w 40 6) (fld w 8 32))
  | 0x24 => some (.aShli q (fld w 46 6) (fld w 40 6) (fld w 8 6))
  | 0x25 => some (.aShri q (fld w 46 6) (fld w 40 6) (fld w 8 6))
  | 0x26 => some (.aSari q (fld w 46 6) (fld w 40 6) (fld w 8 6))
  | 0x27 => some (.aMovi q (fld w 46 6) (fld w 8 32))
  | 0x28 => some (.aMovhi q (fld w 46 6) (fld w 40 6) (fld w 8 32))
  | 0x29 => some (.aMuli q (fld w 46 6) (fld w 40 6) (fld w 8 32))
  | 0x30 => some (.aCmp q (fld w 49 3) (fld w 43 6) (fld w 37 6) (fld w 27 3))
  | 0x31 => some (.aCmpi q (fld w 49 3) (fld w 43 6) (fld w 11 32) (fld w 7 3))
  | 0x32 => some (.aPand q (fld w 49 3) (fld w 43 3) (fld w 37 3))
  | 0x33 => some (.aPor q (fld w 49 3) (fld w 43 3) (fld w 37 3))
  | 0x34 => some (.aPxor q (fld w 49 3) (fld w 43 3) (fld w 37 3))
  | 0x35 => some (.aPnot q (fld w 49 3) (fld w 43 3))
  | 0x36 => some (.aPbit q (fld w 49 3) (fld w 43 6) (fld w 37 6))
  | 0x40 => some (.aFadd q (fld w 46 6) (fld w 40 6) (fld w 34 6) (bit w 27) (fld w 24 2))
  | 0x41 => some (.aFsub q (fld w 46 6) (fld w 40 6) (fld w 34 6) (bit w 27) (fld w 24 2))
  | 0x42 => some (.aFmul q (fld w 46 6) (fld w 40 6) (fld w 34 6) (bit w 27) (fld w 24 2))
  | 0x43 => some (.aFma q (fld w 46 6) (fld w 40 6) (fld w 34 6) (fld w 28 6) (bit w 27) (fld w 24 2))
  | 0x44 => some (.aFdiv q (fld w 46 6) (fld w 40 6) (fld w 34 6) (bit w 27) (fld w 24 2))
  | 0x45 => some (.aFsqrt q (fld w 46 6) (fld w 40 6) (bit w 27) (fld w 24 2))
  | 0x46 => some (.aFmin q (fld w 46 6) (fld w 40 6) (fld w 34 6) (bit w 27))
  | 0x47 => some (.aFmax q (fld w 46 6) (fld w 40 6) (fld w 34 6) (bit w 27))
  | 0x48 => some (.aFcmp q (fld w 49 3) (fld w 43 6) (fld w 37 6) (bit w 30) (fld w 27 3))
  | 0x49 => some (.aFcvt q (fld w 46 6) (fld w 40 6) (fld w 34 4) (fld w 28 4) (bit w 26) (fld w 24 2))
  | 0x4A => some (.aFclass q (fld w 46 6) (fld w 40 6) (bit w 27))
  | 0x50 => some (.aSysrd q (fld w 46 6) (fld w 8 12))
  | 0x51 => some (.aSyswr q (fld w 40 6) (fld w 8 12))
  | 0x52 => some (.aMpset q (fld w 46 3) (fld w 40 6))
  | 0x53 => some (.aMpget q (fld w 46 6) (fld w 40 3))
  | 0x54 => some (.aLidx q (fld w 46 6) (fld w 8 3))
  | _ => none

/-- Tables 3.7, 3.14 and 7.1. -/
def readV (w : BitVec 64) : Option Instr :=
  let q := predOf w
  match (fld w 56 8).toNat with
  | 0x00 => some (.vAdd q (fld w 46 6) (fld w 40 6) (opB w) (tyB w) (fld w 21 3))
  | 0x01 => some (.vSub q (fld w 46 6) (fld w 40 6) (opB w) (tyB w) (fld w 21 3))
  | 0x02 => some (.vMul q (fld w 46 6) (fld w 40 6) (opB w) (tyB w) (fld w 21 3))
  | 0x03 => some (.vMulh q (fld w 46 6) (fld w 40 6) (opB w) (tyB w) (fld w 21 3))
  | 0x04 => some (.vMad q (fld w 46 6) (fld w 40 6) (opB w) (fld w 28 6) (tyB w) (fld w 21 3))
  | 0x05 => some (.vAbs q (fld w 46 6) (fld w 40 6) (fld w 24 4) (fld w 21 3))
  | 0x06 => some (.vNeg q (fld w 46 6) (fld w 40 6) (fld w 24 4) (fld w 21 3))
  | 0x07 => some (.vMin q (fld w 46 6) (fld w 40 6) (opB w) (tyB w) (fld w 21 3))
  | 0x08 => some (.vMax q (fld w 46 6) (fld w 40 6) (opB w) (tyB w) (fld w 21 3))
  | 0x09 => some (.vAnd q (fld w 46 6) (fld w 40 6) (opB w) (tyB w) (fld w 21 3))
  | 0x0A => some (.vOr q (fld w 46 6) (fld w 40 6) (opB w) (tyB w) (fld w 21 3))
  | 0x0B => some (.vXor q (fld w 46 6) (fld w 40 6) (opB w) (tyB w) (fld w 21 3))
  | 0x0C => some (.vAndn q (fld w 46 6) (fld w 40 6) (opB w) (tyB w) (fld w 21 3))
  | 0x0D => some (.vShl q (fld w 46 6) (fld w 40 6) (opB w) (tyB w) (fld w 21 3))
  | 0x0E => some (.vShr q (fld w 46 6) (fld w 40 6) (opB w) (tyB w) (fld w 21 3))
  | 0x0F => some (.vSar q (fld w 46 6) (fld w 40 6) (opB w) (tyB w) (fld w 21 3))
  | 0x10 => some (.vCmp q (fld w 46 3) (fld w 40 6) (opB w) (tyB w) (fld w 21 3) (bit w 15) (fld w 12 3))
  | 0x11 => some (.vSel q (fld w 46 6) (fld w 40 6) (fld w 34 6) (fld w 28 3) (fld w 24 4) (fld w 21 3))
  | 0x12 => some (.vMov q (fld w 46 6) (fld w 40 6) (fld w 21 3))
  | 0x13 => some (.vBcast q (fld w 46 6) (opB w) (tyB w) (fld w 21 3))
  | 0x14 => some (.vPopc q (fld w 46 6) (fld w 40 6) (fld w 24 4) (fld w 21 3))
  | 0x15 => some (.vClz q (fld w 46 6) (fld w 40 6) (fld w 24 4) (fld w 21 3))
  | 0x16 => some (.vAddsat q (fld w 46 6) (fld w 40 6) (opB w) (tyB w) (fld w 21 3))
  | 0x17 => some (.vSubsat q (fld w 46 6) (fld w 40 6) (opB w) (tyB w) (fld w 21 3))
  | 0x18 => some (.vLane q (fld w 46 6) (fld w 24 4) (fld w 21 3))
  | 0x20 => some (.vFadd q (fld w 46 6) (fld w 40 6) (opB w) (tyB w) (fld w 21 3) (fld w 19 2))
  | 0x21 => some (.vFsub q (fld w 46 6) (fld w 40 6) (opB w) (tyB w) (fld w 21 3) (fld w 19 2))
  | 0x22 => some (.vFmul q (fld w 46 6) (fld w 40 6) (opB w) (tyB w) (fld w 21 3) (fld w 19 2))
  | 0x23 => some (.vFma q (fld w 46 6) (fld w 40 6) (opB w) (fld w 28 6) (tyB w) (fld w 21 3) (fld w 19 2))
  | 0x24 => some (.vFms q (fld w 46 6) (fld w 40 6) (opB w) (fld w 28 6) (tyB w) (fld w 21 3) (fld w 19 2))
  | 0x25 => some (.vFmin q (fld w 46 6) (fld w 40 6) (opB w) (tyB w) (fld w 21 3))
  | 0x26 => some (.vFmax q (fld w 46 6) (fld w 40 6) (opB w) (tyB w) (fld w 21 3))
  | 0x27 => some (.vFrcp q (fld w 46 6) (fld w 40 6) (fld w 24 4) (fld w 21 3))
  | 0x28 => some (.vFrsq q (fld w 46 6) (fld w 40 6) (fld w 24 4) (fld w 21 3))
  | 0x29 => some (.vFexp2 q (fld w 46 6) (fld w 40 6) (fld w 24 4) (fld w 21 3))
  | 0x2A => some (.vFlog2 q (fld w 46 6) (fld w 40 6) (fld w 24 4) (fld w 21 3))
  | 0x2B => some (.vFcmp q (fld w 46 3) (fld w 40 6) (opB w) (tyB w) (fld w 21 3) (bit w 15) (fld w 12 3))
  | 0x2C => some (.vFclass q (fld w 46 6) (fld w 40 6) (fld w 24 4) (fld w 21 3))
  | 0x2D => some (.vFabs q (fld w 46 6) (fld w 40 6) (fld w 24 4) (fld w 21 3))
  | 0x2E => some (.vFneg q (fld w 46 6) (fld w 40 6) (fld w 24 4) (fld w 21 3))
  | 0x40 => some (.vCvt q (fld w 46 6) (fld w 40 6) (fld w 24 4) (fld w 12 4) (fld w 21 3) (fld w 19 2) (bit w 18))
  | 0x41 => some (.vQuant q (fld w 46 6) (fld w 40 6) (fld w 34 6) (fld w 24 4) (fld w 21 3) (fld w 19 2) (bit w 18))
  | 0x42 => some (.vDequant q (fld w 46 6) (fld w 40 6) (fld w 34 6) (fld w 24 4) (fld w 21 3))
  | 0x43 => some (.vPack q (fld w 46 6) (fld w 40 6) (fld w 34 6) (fld w 24 4) (fld w 21 3))
  | 0x44 => some (.vUnpack q (fld w 46 6) (fld w 40 6) (fld w 34 6) (fld w 24 4) (fld w 21 3))
  | 0x50 => some (.vRed q (fld w 46 6) (fld w 40 6) (fld w 24 4) (fld w 21 3) (fld w 12 3))
  | 0x51 => some (.vScan q (fld w 46 6) (fld w 40 6) (fld w 24 4) (fld w 21 3) (fld w 12 3))
  | 0x52 => some (.vFred q (fld w 46 6) (fld w 40 6) (fld w 24 4) (fld w 21 3) (fld w 19 2) (fld w 12 3))
  | 0x53 => some (.vFscan q (fld w 46 6) (fld w 40 6) (fld w 24 4) (fld w 21 3) (fld w 19 2) (fld w 12 3))
  | 0x58 => some (.vPerm q (fld w 46 6) (fld w 40 6) (fld w 34 6) (fld w 24 4) (fld w 21 3))
  | 0x59 => some (.vSlide q (fld w 46 6) (fld w 40 6) (opB w) (tyB w) (fld w 21 3))
  | 0x5A => some (.vRot q (fld w 46 6) (fld w 40 6) (opB w) (tyB w) (fld w 21 3))
  | 0x5B => some (.vCompress q (fld w 46 6) (fld w 40 6) (fld w 24 4) (fld w 21 3))
  | 0x5C => some (.vExpand q (fld w 46 6) (fld w 40 6) (fld w 24 4) (fld w 21 3))
  | 0x5D => some (.vZip q (fld w 46 6) (fld w 40 6) (fld w 34 6) (fld w 24 4) (fld w 21 3) (bit w 12))
  | 0x5E => some (.vUnzip q (fld w 46 6) (fld w 40 6) (fld w 34 6) (fld w 24 4) (fld w 21 3) (bit w 12))
  | 0x5F => some (.vExtr q (fld w 46 6) (fld w 40 6) (fld w 34 6) (fld w 24 4))
  | 0x60 => some (.vIns q (fld w 46 6) (fld w 40 6) (fld w 34 6) (fld w 24 4))
  | 0x68 => some (.vMpush q (fld w 40 3))
  | 0x69 => some (.vMinv q)
  | 0x6A => some (.vMpop q)
  | 0x6B => some (.vKmov q (fld w 46 3) (kSrcOf w))
  | 0x6C => some (.vKop q (fld w 46 3) (fld w 40 3) (fld w 34 3) (fld w 12 3))
  | 0x6D => some (.vKpopc q (fld w 46 6) (fld w 40 3))
  | 0x6E => some (.vSkip q (fld w 24 16))
  | 0x70 => some (if fld w 12 2 == 0 then .vHashCrc q (fld w 46 6) (fld w 40 6) (fld w 34 6) (fld w 24 4) (fld w 21 3) else .vHashMix q (fld w 46 6) (fld w 40 6) (fld w 34 6) (fld w 24 4) (fld w 21 3))
  | 0x71 => some (.vHashs q (fld w 46 6) (fld w 40 6) (fld w 34 6) (fld w 28 6) (fld w 21 3))
  | 0x72 => some (if !bit w 12 then .vPart q (fld w 46 6) (fld w 40 6) (fld w 34 6) (fld w 21 3) else .vPartCnt q (fld w 46 6) (fld w 40 6) (fld w 34 6) (fld w 28 3) (fld w 21 3))
  | 0x73 => some (.vScmp q (fld w 46 6) (fld w 40 6) (opB w) (fld w 28 6) (fld w 21 3))
  | 0x74 => some (.vSfind q (fld w 46 6) (fld w 40 6) (opB w) (fld w 28 6) (fld w 21 3))
  | 0x75 => some (.vSmatch q (fld w 46 3) (fld w 40 6) (opB w) (fld w 28 6) (fld w 21 3))
  | 0x78 => some (.vAccrd q (fld w 46 6) (fld w 40 6) (fld w 34 6) (fld w 21 3))
  | 0x79 => some (.vAccwr q (fld w 46 6) (fld w 40 6) (fld w 34 6) (fld w 21 3))
  | _ => none

/-- Tables 3.8 and 3.15. -/
def readL (w : BitVec 64) : Option Instr :=
  let q := predOf w
  match (fld w 56 8).toNat with
  | 0x00 => some (.lLd q (fld w 46 6) (memOf w) (fld w 10 2) (bit w 0))
  | 0x01 => some (.lSt q (fld w 46 6) (memOf w) (fld w 10 2))
  | 0x02 => some (if fld w 4 2 != 3 then .lVld q (fld w 46 6) (memOf w) else .lVldQueue q (fld w 46 6) (fld w 42 4) (fld w 32 10) (fld w 24 8) (fld w 20 4))
  | 0x03 => some (if fld w 4 2 != 3 then .lVst q (fld w 46 6) (memOf w) else .lVstQueue q (fld w 46 6) (fld w 42 4) (fld w 32 10) (fld w 24 8) (fld w 20 4))
  | 0x04 => some (.lVlds q (fld w 46 6) (mem2Of w) (fld w 34 6) (fld w 10 2))
  | 0x05 => some (.lVsts q (fld w 46 6) (mem2Of w) (fld w 34 6) (fld w 10 2))
  | 0x06 => some (.lVgather q (fld w 46 6) (mem2Of w) (fld w 34 6) (fld w 10 2))
  | 0x07 => some (.lVscatter q (fld w 46 6) (mem2Of w) (fld w 34 6) (fld w 10 2))
  | 0x08 => some (.lVsgather q (fld w 46 6) (mem2Of w) (fld w 34 6))
  | 0x10 => some (if !bit w 0 then .lLdf q (fld w 46 6) (memOf w) (fld w 13 3) (bit w 10) else .lLdfTake q (fld w 46 6) (memOf w) (fld w 13 3) (bit w 10))
  | 0x11 => some (.lSte q (fld w 46 6) (memOf w) (fld w 13 3) (bit w 10))
  | 0x12 => some (.lStf q (fld w 46 6) (memOf w) (fld w 13 3) (bit w 10))
  | 0x13 => some (.lFset q (memOf w) (fld w 10 3))
  | 0x14 => some (.lFclr q (memOf w) (fld w 10 3))
  | 0x15 => some (.lFqry q (fld w 46 6) (memOf w) (fld w 10 3))
  | 0x18 => some (.lTld q (fld w 47 5) (tmemOf w) (fld w 7 6))
  | 0x19 => some (.lTst q (fld w 47 5) (fld w 7 6) (tmemOf w))
  | 0x1A => some (.lTrel q (fld w 47 5))
  | 0x1B => some (.lTqry q (fld w 47 5) (fld w 7 6))
  | 0x1C => some (.lQinit q (fld w 46 6) (fld w 42 4) (fld w 32 10) (fld w 24 8) (fld w 20 4))
  | 0x1D => some (.lQadvp q (fld w 42 4) (fld w 32 10) (fld w 20 4))
  | 0x1E => some (.lQadvc q (fld w 42 4) (fld w 32 10) (fld w 20 4))
  | 0x1F => some (.lQqry q (fld w 46 6) (fld w 42 4) (fld w 20 4))
  | 0x20 => some (.lAadd q (fld w 46 6) (memOf w) (fld w 13 3) (bit w 10) (bit w 0))
  | 0x21 => some (.lAmin q (fld w 46 6) (memOf w) (fld w 13 3) (bit w 10) (bit w 0))
  | 0x22 => some (.lAmax q (fld w 46 6) (memOf w) (fld w 13 3) (bit w 10) (bit w 0))
  | 0x23 => some (.lAminn q (fld w 46 6) (memOf w) (fld w 13 3) (bit w 10) (bit w 0))
  | 0x24 => some (.lAmaxn q (fld w 46 6) (memOf w) (fld w 13 3) (bit w 10) (bit w 0))
  | 0x25 => some (.lAand q (fld w 46 6) (memOf w) (fld w 13 3) (bit w 10) (bit w 0))
  | 0x26 => some (.lAor q (fld w 46 6) (memOf w) (fld w 13 3) (bit w 10) (bit w 0))
  | 0x27 => some (.lAxor q (fld w 46 6) (memOf w) (fld w 13 3) (bit w 10) (bit w 0))
  | 0x28 => some (.lAxchg q (fld w 46 6) (memOf w) (fld w 13 3) (bit w 10) (bit w 0))
  | 0x29 => some (.lAcas q (fld w 46 6) (memOf w) (fld w 13 3) (bit w 10) (bit w 0))
  | 0x2A => some (.lAfadd q (fld w 46 6) (memOf w) (fld w 13 3) (bit w 10) (bit w 0))
  | 0x2B => some (.lAinc q (fld w 46 6) (memOf w) (fld w 13 3) (bit w 10) (bit w 0))
  | 0x2C => some (.lVscadd q (fld w 46 6) (mem2Of w) (fld w 34 6) (fld w 13 3) (bit w 10) (bit w 0) (bit w 1))
  | 0x30 => some (.lDprop q (fld w 46 6) (mem2Of w) (fld w 34 6) (fld w 13 3))
  | 0x31 => some (.lDread q (fld w 46 6) (mem2Of w) (fld w 34 6) (fld w 13 3))
  | 0x32 => some (.lDrecycle q (fld w 46 6) (mem2Of w) (fld w 13 3))
  | 0x38 => some (.lPf q (memOf w) (bit w 0))
  | 0x39 => some (.lFence q (fld w 20 16) (fld w 13 3) (fld w 0 2))
  | 0x3A => some (.lBrel q (fld w 40 6))
  | 0x3B => some (.lCld q (fld w 46 4) (memOf w))
  | 0x3C => some (.lCdrop q (fld w 46 4))
  | 0x3D => some (.lDsync q)
  | _ => none

/-- Tables 3.9 and 3.16. -/
def readM (w : BitVec 64) : Option Instr :=
  let q := predOf w
  match (fld w 56 8).toNat with
  | 0x00 => some (.mCall q (fld w 44 8) (fld w 38 6) (fld w 32 6) (fld w 30 2) (fld w 22 8) (fld w 0 5))
  | 0x01 => some (.mCommit q (fld w 30 2))
  | 0x02 => some (.mWait q (fld w 30 2))
  | 0x03 => some (.mStat q (fld w 46 6) (fld w 30 2))
  | 0x04 => some (.mZero q (fld w 38 6) (fld w 32 6))
  | 0x05 => some (.mProg q (fld w 46 6) (fld w 40 6))
  | 0x06 => some (.mSbuild q (fld w 46 6) (fld w 40 6) (fld w 34 6))
  | 0x07 => some (.mSstat q (fld w 46 6))
  | _ => none

/-- Tables 3.10, 3.16 and 11.4. -/
def readX (w : BitVec 64) : Option Instr :=
  let q := predOf w
  match (fld w 56 8).toNat with
  | 0x00 => some (.xGet q (fld w 46 6) (dstOf w) (srcOf w) (fld w 28 6) (fld w 16 4))
  | 0x01 => some (.xPut q (fld w 46 6) (dstOf w) (srcOf w) (fld w 28 6) (fld w 16 4))
  | 0x02 => some (.xCopy q (fld w 46 6) (dstOf w) (srcOf w) (fld w 28 6) (fld w 16 4))
  | 0x03 => some (.xFill q (fld w 46 6) (dstOf w) (fld w 34 6) (fld w 28 6) (fld w 16 4) (fld w 4 2))
  | 0x04 => some (.xStage q (fld w 46 6) (dstOf w) (srcOf w) (fld w 28 6) (fld w 16 4) (fld w 8 8))
  | 0x05 => some (.xSeal q (fld w 46 6) (dstOf w) (srcOf w) (fld w 28 6) (fld w 16 4) (fld w 8 8))
  | 0x06 => some (.xSgather q (fld w 46 6) (dstOf w) (srcOf w) (fld w 28 6) (fld w 16 4) (fld w 8 6))
  | 0x07 => some (.xWait q (fld w 46 6))
  | 0x08 => some (.xStat q (fld w 40 6) (fld w 46 6))
  | 0x09 => some (.xCancel q (fld w 46 6))
  | _ => none

/-- Tables 3.17, 8.10 and 8.11. -/
def readMicro (w : BitVec 64) : Option Instr :=
  match (fld w 58 6).toNat with
  | 0x00 => some (.uFeeda (fld w 50 4) (fld w 0 9) (bit w 9))
  | 0x01 => some (.uFeedb (fld w 50 4) (fld w 0 9) (bit w 9))
  | 0x02 => some (.uMac)
  | 0x03 => some (.uMacq)
  | 0x04 => some (.uFold)
  | 0x05 => some (.uAccl (fld w 50 4) (fld w 0 6) (bit w 8))
  | 0x06 => some (.uNorm (fld w 50 4) (bit w 0) (bit w 1))
  | 0x07 => some (.uDraw (fld w 50 4) (fld w 46 4) (fld w 0 7))
  | 0x08 => some (.uSgath (fld w 50 4))
  | 0x09 => some (.uProbe (fld w 50 4) (fld w 0 6))
  | 0x0A => some (.uStoptest (fld w 16 16))
  | 0x0B => some (.uSkipz (bit w 0) (fld w 1 4))
  | 0x0C => some (.uEdge (fld w 50 4) (fld w 46 4))
  | 0x0D => some (.uSwap (fld w 50 4) (fld w 46 4))
  | 0x0E => some (.uPset (fld w 54 4) (psetOf w))
  | 0x0F => some (.uPadd (fld w 54 4) (fld w 50 4) (fld w 46 4) (fld w 0 32))
  | 0x10 => some (.uPbr (fld w 50 4) (fld w 46 4) (fld w 0 3) (fld w 16 16))
  | 0x11 => some (.uMloop (fld w 50 4) (fld w 0 16) (fld w 16 16))
  | 0x12 => some (.uWait (fld w 50 4) (fld w 0 16))
  | 0x13 => some (.uMend)
  | _ => none

/-- The constructor a slot word's opcode and form name; none for an unassigned opcode. -/
def readSlot (sl : Slot) (w : BitVec 64) : Option Instr :=
  match sl with
  | .c => readC w
  | .a => readA w
  | .v => readV w
  | .l => readL w
  | .m => readM w
  | .x => readX w

/-! The encoder: the word of an instruction, from the same tables. -/

def putP (q : Pred) : BitVec 64 := put1 55 q.neg ||| put 52 q.idx
def putC (q : Pred) : BitVec 64 := put1 25 q.neg ||| put 22 q.idx
def spaceCode : Space → BitVec 2
  | .virt => 0 | .sp => 1 | .win => 2
def putMem (m : Mem) : BitVec 64 :=
  put 40 m.base ||| put 20 m.off ||| put 16 m.cls ||| put 6 m.cap ||| put 4 (spaceCode m.space)
def putMem2 (m : Mem2) : BitVec 64 := put 40 m.base ||| put 16 m.cls ||| put 6 m.cap ||| put 4 (spaceCode m.space)
def putTMem (m : TMem) : BitVec 64 := put 41 m.base ||| put 21 m.off ||| put 17 m.cls ||| put 13 m.cap
def putDst (o : XOpd) : BitVec 64 := put 40 o.reg ||| put 24 o.cap ||| put 0 (spaceCode o.space)
def putSrc (o : XOpd) : BitVec 64 := put 34 o.reg ||| put 20 o.cap ||| put 2 (spaceCode o.space)
def putB (b : VSrc) (t : Ty) : BitVec 64 :=
  match b with
  | .v r => put 34 r ||| put 24 t
  | .s r => put 34 r ||| put 24 t ||| put 10 2#2
  | .imm i => put 24 i ||| put 17 t ||| put 10 1#2
def putKSrc : KSrc → BitVec 64
  | .k r => put 40 r
  | .s r => put 34 r ||| put 10 2#2
def putPset : PsetSrc → BitVec 64
  | .imm i => put 0 i
  | .param n lo widthM1 => put 31 1#1 ||| put 0 n ||| put 3 lo ||| put 9 widthM1

/-- The slot an operation stands in; none for an event and for a micro-operation. -/
def Instr.slotOf : Instr → Option Slot
  | .cNop _ => some .c
  | .cBr _ _ => some .c
  | .cCall _ _ => some .c
  | .cRet _ => some .c
  | .cBrs _ _ => some .c
  | .cCalls _ _ => some .c
  | .cLoop _ _ _ => some .c
  | .cLoopi _ _ _ => some .c
  | .cLbreak _ => some .c
  | .cLnext _ => some .c
  | .cYield _ => some .c
  | .cTrap _ _ => some .c
  | .cExit _ => some .c
  | .cBreak _ => some .c
  | .aAdd _ _ _ _ => some .a
  | .aSub _ _ _ _ => some .a
  | .aMul _ _ _ _ => some .a
  | .aMulh _ _ _ _ => some .a
  | .aMulhn _ _ _ _ => some .a
  | .aDiv _ _ _ _ => some .a
  | .aDivn _ _ _ _ => some .a
  | .aRem _ _ _ _ => some .a
  | .aRemn _ _ _ _ => some .a
  | .aAnd _ _ _ _ => some .a
  | .aOr _ _ _ _ => some .a
  | .aXor _ _ _ _ => some .a
  | .aAndn _ _ _ _ => some .a
  | .aShl _ _ _ _ => some .a
  | .aShr _ _ _ _ => some .a
  | .aSar _ _ _ _ => some .a
  | .aRotl _ _ _ _ => some .a
  | .aMin _ _ _ _ => some .a
  | .aMax _ _ _ _ => some .a
  | .aMinn _ _ _ _ => some .a
  | .aMaxn _ _ _ _ => some .a
  | .aSel _ _ _ _ _ => some .a
  | .aPopc _ _ _ => some .a
  | .aClz _ _ _ => some .a
  | .aCtz _ _ _ => some .a
  | .aBext _ _ _ _ => some .a
  | .aBins _ _ _ _ _ => some .a
  | .aLea _ _ _ _ _ => some .a
  | .aMadd _ _ _ _ _ => some .a
  | .aAddi _ _ _ _ => some .a
  | .aAndi _ _ _ _ => some .a
  | .aOri _ _ _ _ => some .a
  | .aXori _ _ _ _ => some .a
  | .aShli _ _ _ _ => some .a
  | .aShri _ _ _ _ => some .a
  | .aSari _ _ _ _ => some .a
  | .aMovi _ _ _ => some .a
  | .aMovhi _ _ _ _ => some .a
  | .aMuli _ _ _ _ => some .a
  | .aCmp _ _ _ _ _ => some .a
  | .aCmpi _ _ _ _ _ => some .a
  | .aPand _ _ _ _ => some .a
  | .aPor _ _ _ _ => some .a
  | .aPxor _ _ _ _ => some .a
  | .aPnot _ _ _ => some .a
  | .aPbit _ _ _ _ => some .a
  | .aFadd _ _ _ _ _ _ => some .a
  | .aFsub _ _ _ _ _ _ => some .a
  | .aFmul _ _ _ _ _ _ => some .a
  | .aFma _ _ _ _ _ _ _ => some .a
  | .aFdiv _ _ _ _ _ _ => some .a
  | .aFsqrt _ _ _ _ _ => some .a
  | .aFmin _ _ _ _ _ => some .a
  | .aFmax _ _ _ _ _ => some .a
  | .aFcmp _ _ _ _ _ _ => some .a
  | .aFcvt _ _ _ _ _ _ _ => some .a
  | .aFclass _ _ _ _ => some .a
  | .aSysrd _ _ _ => some .a
  | .aSyswr _ _ _ => some .a
  | .aMpset _ _ _ => some .a
  | .aMpget _ _ _ => some .a
  | .aLidx _ _ _ => some .a
  | .vAdd _ _ _ _ _ _ => some .v
  | .vSub _ _ _ _ _ _ => some .v
  | .vMul _ _ _ _ _ _ => some .v
  | .vMulh _ _ _ _ _ _ => some .v
  | .vMad _ _ _ _ _ _ _ => some .v
  | .vAbs _ _ _ _ _ => some .v
  | .vNeg _ _ _ _ _ => some .v
  | .vMin _ _ _ _ _ _ => some .v
  | .vMax _ _ _ _ _ _ => some .v
  | .vAnd _ _ _ _ _ _ => some .v
  | .vOr _ _ _ _ _ _ => some .v
  | .vXor _ _ _ _ _ _ => some .v
  | .vAndn _ _ _ _ _ _ => some .v
  | .vShl _ _ _ _ _ _ => some .v
  | .vShr _ _ _ _ _ _ => some .v
  | .vSar _ _ _ _ _ _ => some .v
  | .vCmp _ _ _ _ _ _ _ _ => some .v
  | .vSel _ _ _ _ _ _ _ => some .v
  | .vMov _ _ _ _ => some .v
  | .vBcast _ _ _ _ _ => some .v
  | .vPopc _ _ _ _ _ => some .v
  | .vClz _ _ _ _ _ => some .v
  | .vAddsat _ _ _ _ _ _ => some .v
  | .vSubsat _ _ _ _ _ _ => some .v
  | .vLane _ _ _ _ => some .v
  | .vFadd _ _ _ _ _ _ _ => some .v
  | .vFsub _ _ _ _ _ _ _ => some .v
  | .vFmul _ _ _ _ _ _ _ => some .v
  | .vFma _ _ _ _ _ _ _ _ => some .v
  | .vFms _ _ _ _ _ _ _ _ => some .v
  | .vFmin _ _ _ _ _ _ => some .v
  | .vFmax _ _ _ _ _ _ => some .v
  | .vFrcp _ _ _ _ _ => some .v
  | .vFrsq _ _ _ _ _ => some .v
  | .vFexp2 _ _ _ _ _ => some .v
  | .vFlog2 _ _ _ _ _ => some .v
  | .vFcmp _ _ _ _ _ _ _ _ => some .v
  | .vFclass _ _ _ _ _ => some .v
  | .vFabs _ _ _ _ _ => some .v
  | .vFneg _ _ _ _ _ => some .v
  | .vCvt _ _ _ _ _ _ _ _ => some .v
  | .vQuant _ _ _ _ _ _ _ _ => some .v
  | .vDequant _ _ _ _ _ _ => some .v
  | .vPack _ _ _ _ _ _ => some .v
  | .vUnpack _ _ _ _ _ _ => some .v
  | .vRed _ _ _ _ _ _ => some .v
  | .vScan _ _ _ _ _ _ => some .v
  | .vFred _ _ _ _ _ _ _ => some .v
  | .vFscan _ _ _ _ _ _ _ => some .v
  | .vPerm _ _ _ _ _ _ => some .v
  | .vSlide _ _ _ _ _ _ => some .v
  | .vRot _ _ _ _ _ _ => some .v
  | .vCompress _ _ _ _ _ => some .v
  | .vExpand _ _ _ _ _ => some .v
  | .vZip _ _ _ _ _ _ _ => some .v
  | .vUnzip _ _ _ _ _ _ _ => some .v
  | .vExtr _ _ _ _ _ => some .v
  | .vIns _ _ _ _ _ => some .v
  | .vMpush _ _ => some .v
  | .vMinv _ => some .v
  | .vMpop _ => some .v
  | .vKmov _ _ _ => some .v
  | .vKop _ _ _ _ _ => some .v
  | .vKpopc _ _ _ => some .v
  | .vSkip _ _ => some .v
  | .vHashCrc _ _ _ _ _ _ => some .v
  | .vHashMix _ _ _ _ _ _ => some .v
  | .vHashs _ _ _ _ _ _ => some .v
  | .vPart _ _ _ _ _ => some .v
  | .vPartCnt _ _ _ _ _ _ => some .v
  | .vScmp _ _ _ _ _ _ => some .v
  | .vSfind _ _ _ _ _ _ => some .v
  | .vSmatch _ _ _ _ _ _ => some .v
  | .vAccrd _ _ _ _ _ => some .v
  | .vAccwr _ _ _ _ _ => some .v
  | .lLd _ _ _ _ _ => some .l
  | .lSt _ _ _ _ => some .l
  | .lVld _ _ _ => some .l
  | .lVst _ _ _ => some .l
  | .lVldQueue _ _ _ _ _ _ => some .l
  | .lVstQueue _ _ _ _ _ _ => some .l
  | .lVlds _ _ _ _ _ => some .l
  | .lVsts _ _ _ _ _ => some .l
  | .lVgather _ _ _ _ _ => some .l
  | .lVscatter _ _ _ _ _ => some .l
  | .lVsgather _ _ _ _ => some .l
  | .lLdf _ _ _ _ _ => some .l
  | .lLdfTake _ _ _ _ _ => some .l
  | .lSte _ _ _ _ _ => some .l
  | .lStf _ _ _ _ _ => some .l
  | .lFset _ _ _ => some .l
  | .lFclr _ _ _ => some .l
  | .lFqry _ _ _ _ => some .l
  | .lTld _ _ _ _ => some .l
  | .lTst _ _ _ _ => some .l
  | .lTrel _ _ => some .l
  | .lTqry _ _ _ => some .l
  | .lQinit _ _ _ _ _ _ => some .l
  | .lQadvp _ _ _ _ => some .l
  | .lQadvc _ _ _ _ => some .l
  | .lQqry _ _ _ _ => some .l
  | .lAadd _ _ _ _ _ _ => some .l
  | .lAmin _ _ _ _ _ _ => some .l
  | .lAmax _ _ _ _ _ _ => some .l
  | .lAminn _ _ _ _ _ _ => some .l
  | .lAmaxn _ _ _ _ _ _ => some .l
  | .lAand _ _ _ _ _ _ => some .l
  | .lAor _ _ _ _ _ _ => some .l
  | .lAxor _ _ _ _ _ _ => some .l
  | .lAxchg _ _ _ _ _ _ => some .l
  | .lAcas _ _ _ _ _ _ => some .l
  | .lAfadd _ _ _ _ _ _ => some .l
  | .lAinc _ _ _ _ _ _ => some .l
  | .lVscadd _ _ _ _ _ _ _ _ => some .l
  | .lDprop _ _ _ _ _ => some .l
  | .lDread _ _ _ _ _ => some .l
  | .lDrecycle _ _ _ _ => some .l
  | .lPf _ _ _ => some .l
  | .lFence _ _ _ _ => some .l
  | .lBrel _ _ => some .l
  | .lCld _ _ _ => some .l
  | .lCdrop _ _ => some .l
  | .lDsync _ => some .l
  | .mCall _ _ _ _ _ _ _ => some .m
  | .mCommit _ _ => some .m
  | .mWait _ _ => some .m
  | .mStat _ _ _ => some .m
  | .mZero _ _ _ => some .m
  | .mProg _ _ _ => some .m
  | .mSbuild _ _ _ _ => some .m
  | .mSstat _ _ => some .m
  | .xGet _ _ _ _ _ _ => some .x
  | .xPut _ _ _ _ _ _ => some .x
  | .xCopy _ _ _ _ _ _ => some .x
  | .xFill _ _ _ _ _ _ _ => some .x
  | .xStage _ _ _ _ _ _ _ => some .x
  | .xSeal _ _ _ _ _ _ _ => some .x
  | .xSgather _ _ _ _ _ _ _ => some .x
  | .xWait _ _ => some .x
  | .xStat _ _ _ => some .x
  | .xCancel _ _ => some .x
  | .uFeeda _ _ _ => none
  | .uFeedb _ _ _ => none
  | .uMac => none
  | .uMacq => none
  | .uFold => none
  | .uAccl _ _ _ => none
  | .uNorm _ _ _ => none
  | .uDraw _ _ _ => none
  | .uSgath _ => none
  | .uProbe _ _ => none
  | .uStoptest _ => none
  | .uSkipz _ _ => none
  | .uEdge _ _ => none
  | .uSwap _ _ => none
  | .uPset _ _ => none
  | .uPadd _ _ _ _ => none
  | .uPbr _ _ _ _ => none
  | .uMloop _ _ _ => none
  | .uWait _ _ => none
  | .uMend => none
  | .evPackageReset => none
  | .evRegisterWrite => none
  | .evClkcapWrite => none
  | .evClockStepChange => none
  | .evThermalTrip => none
  | .evTelemetrySample => none
  | .evClusterGate => none
  | .evClusterWake => none
  | .evLinkReset => none
  | .evEventRingConsume => none
  | .evEventRecordWrite => none
  | .evLaunchRecord => none
  | .evDispatchDecision => none
  | .evDictionaryLoad => none
  | .evLaunchIssuable => none
  | .evPriorityPreempt => none
  | .evLaunchComplete => none
  | .evReleaseFlush => none
  | .evCancellation => none
  | .evBundleDispatch => none
  | .evCheckpointCommit => none
  | .evTrapRollback => none
  | .evAsyncFaultReport => none
  | .evPreemptByBoundary => none
  | .evPreemptByRollback => none
  | .evContextSave => none
  | .evContextRestore => none
  | .evRemoteWriteArrival => none
  | .evReceiveQueuePerform => none
  | .evWriteAcceptance => none
  | .evRemoteBoundReply => none
  | .evPhaseArrival => none
  | .evTaggedWaitSatisfied => none
  | .evWaitTimeout => none
  | .evHostInboundWrite => none
  | .evSectorEvictWriteback => none
  | .evHomeProbe => none
  | .evTileFillComplete => none
  | .evTileFillFault => none
  | .evMatrixRecordStart => none
  | .evMicroTileCommit => none
  | .evMatrixCallComplete => none
  | .evMatrixMigrate => none
  | .evMigrationReturn => none
  | .evAccDrainDone => none
  | .evCopyComplete => none
  | .evStepCurrent => none
  | .evScheduleReread => none
  | .evProoferPrefetch => none
  | .evLeaseRenewal => none
  | .evReadLeaseGrant => none
  | .evLeaseRetry => none
  | .evWriteLeaseGrant => none
  | .evRenewalGrant => none
  | .evLeaseFenced => none
  | .evLeaseDeadline => none
  | .evPoolPageArrival => none
  | .evPutAcknowledge => none
  | .evPoolCacheEvict => none
  | .evStepCommit => none
  | .evStepLost => none
  | .evStepRerunCheck => none
  | .evFlitReceive => none
  | .evNakReceive => none
  | .evReplayTimeout => none
  | .evLaneErrorThreshold => none
  | .evLaneRetrainEnd => none
  | .evStrandLoss => none
  | .evStrandReturn => none
  | .evLinkLost => none
  | .evUncorrectableError => none
  | .evAtsInvalidation => none
  | .evResume => none
  | .evKill => none
  | .evPreempt => none
  | .evStepOn => none
  | .evStepOff => none
  | .evCancel => none
  | .evInvalVa => none
  | .evInvalAsid => none
  | .evInvalS2 => none
  | .evMboxOpen => none
  | .evMboxClose => none
  | .evSchedule => none
  | .evGetVersion => none
  | .evGetCapabilities => none
  | .evNegotiateAlgorithms => none
  | .evGetDigests => none
  | .evGetCertificate => none
  | .evChallenge => none
  | .evGetMeasurements => none
  | .evKeyExchange => none
  | .evFinish => none
  | .evHeartbeat => none
  | .evKeyUpdate => none
  | .evEndSession => none
  | .evSetCertificate => none
  | .evGetCsr => none
  | .evChunkSend => none
  | .evChunkGet => none
  | .evUnsupportedRequest => none
  | .evOwnerAuth => none
  | .evSetKey => none
  | .evClearKey => none
  | .evLockInterface => none
  | .evStopInterface => none
  | .evTdiError => none
  | .evRemoteRequestArrival => none
  | .evRemoteReply => none
  | .evPatrolScrub => none
  | .evTdiRun => none
  | .evIdeKm => none

/-- The word of an operation (in bits [31:0] for the C slot) or of a micro-operation; an event has none. -/
def encode : Instr → Option (BitVec 64)
  | .cNop q => some (put 26 0x00#6 ||| putC q)
  | .cBr q o => some (put 26 0x01#6 ||| putC q ||| put 0 o)
  | .cCall q o => some (put 26 0x02#6 ||| putC q ||| put 0 o)
  | .cRet q => some (put 26 0x03#6 ||| putC q)
  | .cBrs q s => some (put 26 0x04#6 ||| putC q ||| put 16 s)
  | .cCalls q s => some (put 26 0x05#6 ||| putC q ||| put 16 s)
  | .cLoop q s e => some (put 26 0x06#6 ||| putC q ||| put 16 s ||| put 0 e)
  | .cLoopi q n e => some (put 26 0x07#6 ||| putC q ||| put 12 n ||| put 0 e)
  | .cLbreak q => some (put 26 0x08#6 ||| putC q)
  | .cLnext q => some (put 26 0x09#6 ||| putC q)
  | .cYield q => some (put 26 0x0A#6 ||| putC q)
  | .cTrap q code => some (put 26 0x0B#6 ||| putC q ||| put 0 code)
  | .cExit q => some (put 26 0x0C#6 ||| putC q)
  | .cBreak q => some (put 26 0x0D#6 ||| putC q)
  | .aAdd q d a b => some (put 56 0x00#8 ||| putP q ||| put 46 d ||| put 40 a ||| put 34 b)
  | .aSub q d a b => some (put 56 0x01#8 ||| putP q ||| put 46 d ||| put 40 a ||| put 34 b)
  | .aMul q d a b => some (put 56 0x02#8 ||| putP q ||| put 46 d ||| put 40 a ||| put 34 b)
  | .aMulh q d a b => some (put 56 0x03#8 ||| putP q ||| put 46 d ||| put 40 a ||| put 34 b)
  | .aMulhn q d a b => some (put 56 0x04#8 ||| putP q ||| put 46 d ||| put 40 a ||| put 34 b)
  | .aDiv q d a b => some (put 56 0x05#8 ||| putP q ||| put 46 d ||| put 40 a ||| put 34 b)
  | .aDivn q d a b => some (put 56 0x06#8 ||| putP q ||| put 46 d ||| put 40 a ||| put 34 b)
  | .aRem q d a b => some (put 56 0x07#8 ||| putP q ||| put 46 d ||| put 40 a ||| put 34 b)
  | .aRemn q d a b => some (put 56 0x08#8 ||| putP q ||| put 46 d ||| put 40 a ||| put 34 b)
  | .aAnd q d a b => some (put 56 0x09#8 ||| putP q ||| put 46 d ||| put 40 a ||| put 34 b)
  | .aOr q d a b => some (put 56 0x0A#8 ||| putP q ||| put 46 d ||| put 40 a ||| put 34 b)
  | .aXor q d a b => some (put 56 0x0B#8 ||| putP q ||| put 46 d ||| put 40 a ||| put 34 b)
  | .aAndn q d a b => some (put 56 0x0C#8 ||| putP q ||| put 46 d ||| put 40 a ||| put 34 b)
  | .aShl q d a b => some (put 56 0x0D#8 ||| putP q ||| put 46 d ||| put 40 a ||| put 34 b)
  | .aShr q d a b => some (put 56 0x0E#8 ||| putP q ||| put 46 d ||| put 40 a ||| put 34 b)
  | .aSar q d a b => some (put 56 0x0F#8 ||| putP q ||| put 46 d ||| put 40 a ||| put 34 b)
  | .aRotl q d a b => some (put 56 0x10#8 ||| putP q ||| put 46 d ||| put 40 a ||| put 34 b)
  | .aMin q d a b => some (put 56 0x11#8 ||| putP q ||| put 46 d ||| put 40 a ||| put 34 b)
  | .aMax q d a b => some (put 56 0x12#8 ||| putP q ||| put 46 d ||| put 40 a ||| put 34 b)
  | .aMinn q d a b => some (put 56 0x13#8 ||| putP q ||| put 46 d ||| put 40 a ||| put 34 b)
  | .aMaxn q d a b => some (put 56 0x14#8 ||| putP q ||| put 46 d ||| put 40 a ||| put 34 b)
  | .aSel q d a b c => some (put 56 0x15#8 ||| putP q ||| put 46 d ||| put 40 a ||| put 34 b ||| put 28 c)
  | .aPopc q d a => some (put 56 0x16#8 ||| putP q ||| put 46 d ||| put 40 a)
  | .aClz q d a => some (put 56 0x17#8 ||| putP q ||| put 46 d ||| put 40 a)
  | .aCtz q d a => some (put 56 0x18#8 ||| putP q ||| put 46 d ||| put 40 a)
  | .aBext q d a b => some (put 56 0x19#8 ||| putP q ||| put 46 d ||| put 40 a ||| put 34 b)
  | .aBins q d a b c => some (put 56 0x1A#8 ||| putP q ||| put 46 d ||| put 40 a ||| put 34 b ||| put 28 c)
  | .aLea q d a b f => some (put 56 0x1B#8 ||| putP q ||| put 46 d ||| put 40 a ||| put 34 b ||| put 24 f)
  | .aMadd q d a b c => some (put 56 0x1C#8 ||| putP q ||| put 46 d ||| put 40 a ||| put 34 b ||| put 28 c)
  | .aAddi q d a i => some (put 56 0x20#8 ||| putP q ||| put 46 d ||| put 40 a ||| put 8 i)
  | .aAndi q d a i => some (put 56 0x21#8 ||| putP q ||| put 46 d ||| put 40 a ||| put 8 i)
  | .aOri q d a i => some (put 56 0x22#8 ||| putP q ||| put 46 d ||| put 40 a ||| put 8 i)
  | .aXori q d a i => some (put 56 0x23#8 ||| putP q ||| put 46 d ||| put 40 a ||| put 8 i)
  | .aShli q d a i => some (put 56 0x24#8 ||| putP q ||| put 46 d ||| put 40 a ||| put 8 i)
  | .aShri q d a i => some (put 56 0x25#8 ||| putP q ||| put 46 d ||| put 40 a ||| put 8 i)
  | .aSari q d a i => some (put 56 0x26#8 ||| putP q ||| put 46 d ||| put 40 a ||| put 8 i)
  | .aMovi q d i => some (put 56 0x27#8 ||| putP q ||| put 46 d ||| put 8 i)
  | .aMovhi q d a i => some (put 56 0x28#8 ||| putP q ||| put 46 d ||| put 40 a ||| put 8 i)
  | .aMuli q d a i => some (put 56 0x29#8 ||| putP q ||| put 46 d ||| put 40 a ||| put 8 i)
  | .aCmp q d a b cond => some (put 56 0x30#8 ||| putP q ||| put 49 d ||| put 43 a ||| put 37 b ||| put 27 cond)
  | .aCmpi q d a i cond => some (put 56 0x31#8 ||| putP q ||| put 49 d ||| put 43 a ||| put 11 i ||| put 7 cond)
  | .aPand q d a b => some (put 56 0x32#8 ||| putP q ||| put 49 d ||| put 43 a ||| put 37 b)
  | .aPor q d a b => some (put 56 0x33#8 ||| putP q ||| put 49 d ||| put 43 a ||| put 37 b)
  | .aPxor q d a b => some (put 56 0x34#8 ||| putP q ||| put 49 d ||| put 43 a ||| put 37 b)
  | .aPnot q d a => some (put 56 0x35#8 ||| putP q ||| put 49 d ||| put 43 a)
  | .aPbit q d a b => some (put 56 0x36#8 ||| putP q ||| put 49 d ||| put 43 a ||| put 37 b)
  | .aFadd q d a b dbl rm => some (put 56 0x40#8 ||| putP q ||| put 46 d ||| put 40 a ||| put 34 b ||| put1 27 dbl ||| put 24 rm)
  | .aFsub q d a b dbl rm => some (put 56 0x41#8 ||| putP q ||| put 46 d ||| put 40 a ||| put 34 b ||| put1 27 dbl ||| put 24 rm)
  | .aFmul q d a b dbl rm => some (put 56 0x42#8 ||| putP q ||| put 46 d ||| put 40 a ||| put 34 b ||| put1 27 dbl ||| put 24 rm)
  | .aFma q d a b c dbl rm => some (put 56 0x43#8 ||| putP q ||| put 46 d ||| put 40 a ||| put 34 b ||| put 28 c ||| put1 27 dbl ||| put 24 rm)
  | .aFdiv q d a b dbl rm => some (put 56 0x44#8 ||| putP q ||| put 46 d ||| put 40 a ||| put 34 b ||| put1 27 dbl ||| put 24 rm)
  | .aFsqrt q d a dbl rm => some (put 56 0x45#8 ||| putP q ||| put 46 d ||| put 40 a ||| put1 27 dbl ||| put 24 rm)
  | .aFmin q d a b dbl => some (put 56 0x46#8 ||| putP q ||| put 46 d ||| put 40 a ||| put 34 b ||| put1 27 dbl)
  | .aFmax q d a b dbl => some (put 56 0x47#8 ||| putP q ||| put 46 d ||| put 40 a ||| put 34 b ||| put1 27 dbl)
  | .aFcmp q d a b dbl cond => some (put 56 0x48#8 ||| putP q ||| put 49 d ||| put 43 a ||| put 37 b ||| put1 30 dbl ||| put 27 cond)
  | .aFcvt q d a dt st sat rm => some (put 56 0x49#8 ||| putP q ||| put 46 d ||| put 40 a ||| put 34 dt ||| put 28 st ||| put1 26 sat ||| put 24 rm)
  | .aFclass q d a dbl => some (put 56 0x4A#8 ||| putP q ||| put 46 d ||| put 40 a ||| put1 27 dbl)
  | .aSysrd q d n => some (put 56 0x50#8 ||| putP q ||| put 46 d ||| put 8 n)
  | .aSyswr q a n => some (put 56 0x51#8 ||| putP q ||| put 40 a ||| put 8 n)
  | .aMpset q m a => some (put 56 0x52#8 ||| putP q ||| put 46 m ||| put 40 a)
  | .aMpget q d m => some (put 56 0x53#8 ||| putP q ||| put 46 d ||| put 40 m)
  | .aLidx q d n => some (put 56 0x54#8 ||| putP q ||| put 46 d ||| put 8 n)
  | .vAdd q d a b t m => some (put 56 0x00#8 ||| putP q ||| put 46 d ||| put 40 a ||| putB b t ||| put 21 m)
  | .vSub q d a b t m => some (put 56 0x01#8 ||| putP q ||| put 46 d ||| put 40 a ||| putB b t ||| put 21 m)
  | .vMul q d a b t m => some (put 56 0x02#8 ||| putP q ||| put 46 d ||| put 40 a ||| putB b t ||| put 21 m)
  | .vMulh q d a b t m => some (put 56 0x03#8 ||| putP q ||| put 46 d ||| put 40 a ||| putB b t ||| put 21 m)
  | .vMad q d a b c t m => some (put 56 0x04#8 ||| putP q ||| put 46 d ||| put 40 a ||| putB b t ||| put 28 c ||| put 21 m)
  | .vAbs q d a t m => some (put 56 0x05#8 ||| putP q ||| put 46 d ||| put 40 a ||| put 24 t ||| put 21 m)
  | .vNeg q d a t m => some (put 56 0x06#8 ||| putP q ||| put 46 d ||| put 40 a ||| put 24 t ||| put 21 m)
  | .vMin q d a b t m => some (put 56 0x07#8 ||| putP q ||| put 46 d ||| put 40 a ||| putB b t ||| put 21 m)
  | .vMax q d a b t m => some (put 56 0x08#8 ||| putP q ||| put 46 d ||| put 40 a ||| putB b t ||| put 21 m)
  | .vAnd q d a b t m => some (put 56 0x09#8 ||| putP q ||| put 46 d ||| put 40 a ||| putB b t ||| put 21 m)
  | .vOr q d a b t m => some (put 56 0x0A#8 ||| putP q ||| put 46 d ||| put 40 a ||| putB b t ||| put 21 m)
  | .vXor q d a b t m => some (put 56 0x0B#8 ||| putP q ||| put 46 d ||| put 40 a ||| putB b t ||| put 21 m)
  | .vAndn q d a b t m => some (put 56 0x0C#8 ||| putP q ||| put 46 d ||| put 40 a ||| putB b t ||| put 21 m)
  | .vShl q d a b t m => some (put 56 0x0D#8 ||| putP q ||| put 46 d ||| put 40 a ||| putB b t ||| put 21 m)
  | .vShr q d a b t m => some (put 56 0x0E#8 ||| putP q ||| put 46 d ||| put 40 a ||| putB b t ||| put 21 m)
  | .vSar q d a b t m => some (put 56 0x0F#8 ||| putP q ||| put 46 d ||| put 40 a ||| putB b t ||| put 21 m)
  | .vCmp q d a b t m combine cond => some (put 56 0x10#8 ||| putP q ||| put 46 d ||| put 40 a ||| putB b t ||| put 21 m ||| put1 15 combine ||| put 12 cond)
  | .vSel q d a b kc t m => some (put 56 0x11#8 ||| putP q ||| put 46 d ||| put 40 a ||| put 34 b ||| put 28 kc ||| put 24 t ||| put 21 m)
  | .vMov q d a m => some (put 56 0x12#8 ||| putP q ||| put 46 d ||| put 40 a ||| put 21 m)
  | .vBcast q d b t m => some (put 56 0x13#8 ||| putP q ||| put 46 d ||| putB b t ||| put 21 m)
  | .vPopc q d a t m => some (put 56 0x14#8 ||| putP q ||| put 46 d ||| put 40 a ||| put 24 t ||| put 21 m)
  | .vClz q d a t m => some (put 56 0x15#8 ||| putP q ||| put 46 d ||| put 40 a ||| put 24 t ||| put 21 m)
  | .vAddsat q d a b t m => some (put 56 0x16#8 ||| putP q ||| put 46 d ||| put 40 a ||| putB b t ||| put 21 m)
  | .vSubsat q d a b t m => some (put 56 0x17#8 ||| putP q ||| put 46 d ||| put 40 a ||| putB b t ||| put 21 m)
  | .vLane q d t m => some (put 56 0x18#8 ||| putP q ||| put 46 d ||| put 24 t ||| put 21 m)
  | .vFadd q d a b t m rm => some (put 56 0x20#8 ||| putP q ||| put 46 d ||| put 40 a ||| putB b t ||| put 21 m ||| put 19 rm)
  | .vFsub q d a b t m rm => some (put 56 0x21#8 ||| putP q ||| put 46 d ||| put 40 a ||| putB b t ||| put 21 m ||| put 19 rm)
  | .vFmul q d a b t m rm => some (put 56 0x22#8 ||| putP q ||| put 46 d ||| put 40 a ||| putB b t ||| put 21 m ||| put 19 rm)
  | .vFma q d a b c t m rm => some (put 56 0x23#8 ||| putP q ||| put 46 d ||| put 40 a ||| putB b t ||| put 28 c ||| put 21 m ||| put 19 rm)
  | .vFms q d a b c t m rm => some (put 56 0x24#8 ||| putP q ||| put 46 d ||| put 40 a ||| putB b t ||| put 28 c ||| put 21 m ||| put 19 rm)
  | .vFmin q d a b t m => some (put 56 0x25#8 ||| putP q ||| put 46 d ||| put 40 a ||| putB b t ||| put 21 m)
  | .vFmax q d a b t m => some (put 56 0x26#8 ||| putP q ||| put 46 d ||| put 40 a ||| putB b t ||| put 21 m)
  | .vFrcp q d a t m => some (put 56 0x27#8 ||| putP q ||| put 46 d ||| put 40 a ||| put 24 t ||| put 21 m)
  | .vFrsq q d a t m => some (put 56 0x28#8 ||| putP q ||| put 46 d ||| put 40 a ||| put 24 t ||| put 21 m)
  | .vFexp2 q d a t m => some (put 56 0x29#8 ||| putP q ||| put 46 d ||| put 40 a ||| put 24 t ||| put 21 m)
  | .vFlog2 q d a t m => some (put 56 0x2A#8 ||| putP q ||| put 46 d ||| put 40 a ||| put 24 t ||| put 21 m)
  | .vFcmp q d a b t m combine cond => some (put 56 0x2B#8 ||| putP q ||| put 46 d ||| put 40 a ||| putB b t ||| put 21 m ||| put1 15 combine ||| put 12 cond)
  | .vFclass q d a t m => some (put 56 0x2C#8 ||| putP q ||| put 46 d ||| put 40 a ||| put 24 t ||| put 21 m)
  | .vFabs q d a t m => some (put 56 0x2D#8 ||| putP q ||| put 46 d ||| put 40 a ||| put 24 t ||| put 21 m)
  | .vFneg q d a t m => some (put 56 0x2E#8 ||| putP q ||| put 46 d ||| put 40 a ||| put 24 t ||| put 21 m)
  | .vCvt q d a dt st m rm sat => some (put 56 0x40#8 ||| putP q ||| put 46 d ||| put 40 a ||| put 24 dt ||| put 12 st ||| put 21 m ||| put 19 rm ||| put1 18 sat)
  | .vQuant q d a b t m rm sat => some (put 56 0x41#8 ||| putP q ||| put 46 d ||| put 40 a ||| put 34 b ||| put 24 t ||| put 21 m ||| put 19 rm ||| put1 18 sat)
  | .vDequant q d a b t m => some (put 56 0x42#8 ||| putP q ||| put 46 d ||| put 40 a ||| put 34 b ||| put 24 t ||| put 21 m)
  | .vPack q d a b t m => some (put 56 0x43#8 ||| putP q ||| put 46 d ||| put 40 a ||| put 34 b ||| put 24 t ||| put 21 m)
  | .vUnpack q d a b t m => some (put 56 0x44#8 ||| putP q ||| put 46 d ||| put 40 a ||| put 34 b ||| put 24 t ||| put 21 m)
  | .vRed q d a t m op => some (put 56 0x50#8 ||| putP q ||| put 46 d ||| put 40 a ||| put 24 t ||| put 21 m ||| put 12 op)
  | .vScan q d a t m op => some (put 56 0x51#8 ||| putP q ||| put 46 d ||| put 40 a ||| put 24 t ||| put 21 m ||| put 12 op)
  | .vFred q d a t m rm op => some (put 56 0x52#8 ||| putP q ||| put 46 d ||| put 40 a ||| put 24 t ||| put 21 m ||| put 19 rm ||| put 12 op)
  | .vFscan q d a t m rm op => some (put 56 0x53#8 ||| putP q ||| put 46 d ||| put 40 a ||| put 24 t ||| put 21 m ||| put 19 rm ||| put 12 op)
  | .vPerm q d a b t m => some (put 56 0x58#8 ||| putP q ||| put 46 d ||| put 40 a ||| put 34 b ||| put 24 t ||| put 21 m)
  | .vSlide q d a b t m => some (put 56 0x59#8 ||| putP q ||| put 46 d ||| put 40 a ||| putB b t ||| put 21 m)
  | .vRot q d a b t m => some (put 56 0x5A#8 ||| putP q ||| put 46 d ||| put 40 a ||| putB b t ||| put 21 m)
  | .vCompress q d a t m => some (put 56 0x5B#8 ||| putP q ||| put 46 d ||| put 40 a ||| put 24 t ||| put 21 m)
  | .vExpand q d a t m => some (put 56 0x5C#8 ||| putP q ||| put 46 d ||| put 40 a ||| put 24 t ||| put 21 m)
  | .vZip q d a b t m hi => some (put 56 0x5D#8 ||| putP q ||| put 46 d ||| put 40 a ||| put 34 b ||| put 24 t ||| put 21 m ||| put1 12 hi)
  | .vUnzip q d a b t m hi => some (put 56 0x5E#8 ||| putP q ||| put 46 d ||| put 40 a ||| put 34 b ||| put 24 t ||| put 21 m ||| put1 12 hi)
  | .vExtr q d a b t => some (put 56 0x5F#8 ||| putP q ||| put 46 d ||| put 40 a ||| put 34 b ||| put 24 t ||| put 10 2#2)
  | .vIns q d a b t => some (put 56 0x60#8 ||| putP q ||| put 46 d ||| put 40 a ||| put 34 b ||| put 24 t ||| put 10 2#2)
  | .vMpush q ka => some (put 56 0x68#8 ||| putP q ||| put 40 ka)
  | .vMinv q => some (put 56 0x69#8 ||| putP q)
  | .vMpop q => some (put 56 0x6A#8 ||| putP q)
  | .vKmov q d src => some (put 56 0x6B#8 ||| putP q ||| put 46 d ||| putKSrc src)
  | .vKop q d a b op => some (put 56 0x6C#8 ||| putP q ||| put 46 d ||| put 40 a ||| put 34 b ||| put 12 op)
  | .vKpopc q d a => some (put 56 0x6D#8 ||| putP q ||| put 46 d ||| put 40 a)
  | .vSkip q n => some (put 56 0x6E#8 ||| putP q ||| put 24 n ||| put 10 1#2)
  | .vHashCrc q d a b t m => some (put 56 0x70#8 ||| putP q ||| put 46 d ||| put 40 a ||| put 34 b ||| put 24 t ||| put 21 m)
  | .vHashMix q d a b t m => some (put 56 0x70#8 ||| putP q ||| put 46 d ||| put 40 a ||| put 34 b ||| put 24 t ||| put 21 m ||| put 12 1#2)
  | .vHashs q d a b c m => some (put 56 0x71#8 ||| putP q ||| put 46 d ||| put 40 a ||| put 34 b ||| put 28 c ||| put 21 m)
  | .vPart q d a b m => some (put 56 0x72#8 ||| putP q ||| put 46 d ||| put 40 a ||| put 34 b ||| put 21 m)
  | .vPartCnt q d a b kc m => some (put 56 0x72#8 ||| putP q ||| put 46 d ||| put 40 a ||| put 34 b ||| put 28 kc ||| put 21 m ||| put 12 1#1)
  | .vScmp q d a b c m => some (put 56 0x73#8 ||| putP q ||| put 46 d ||| put 40 a ||| putB b 0 ||| put 28 c ||| put 21 m)
  | .vSfind q d a b c m => some (put 56 0x74#8 ||| putP q ||| put 46 d ||| put 40 a ||| putB b 0 ||| put 28 c ||| put 21 m)
  | .vSmatch q d a b c m => some (put 56 0x75#8 ||| putP q ||| put 46 d ||| put 40 a ||| putB b 0 ||| put 28 c ||| put 21 m)
  | .vAccrd q d acc b m => some (put 56 0x78#8 ||| putP q ||| put 46 d ||| put 40 acc ||| put 34 b ||| put 21 m ||| put 10 2#2)
  | .vAccwr q d acc b m => some (put 56 0x79#8 ||| putP q ||| put 46 d ||| put 40 acc ||| put 34 b ||| put 21 m ||| put 10 2#2)
  | .lLd q d mem size sx => some (put 56 0x00#8 ||| putP q ||| put 46 d ||| putMem mem ||| put 10 size ||| put1 0 sx)
  | .lSt q a mem size => some (put 56 0x01#8 ||| putP q ||| put 46 a ||| putMem mem ||| put 10 size)
  | .lVld q d mem => some (put 56 0x02#8 ||| putP q ||| put 46 d ||| putMem mem ||| put 10 4#3)
  | .lVst q d mem => some (put 56 0x03#8 ||| putP q ||| put 46 d ||| putMem mem ||| put 10 4#3)
  | .lVldQueue q d n off need cls => some (put 56 0x02#8 ||| putP q ||| put 46 d ||| put 42 n ||| put 32 off ||| put 24 need ||| put 20 cls ||| put 4 3#2)
  | .lVstQueue q d n off need cls => some (put 56 0x03#8 ||| putP q ||| put 46 d ||| put 42 n ||| put 32 off ||| put 24 need ||| put 20 cls ||| put 4 3#2)
  | .lVlds q d mem stride size => some (put 56 0x04#8 ||| putP q ||| put 46 d ||| putMem2 mem ||| put 34 stride ||| put 10 size)
  | .lVsts q d mem stride size => some (put 56 0x05#8 ||| putP q ||| put 46 d ||| putMem2 mem ||| put 34 stride ||| put 10 size)
  | .lVgather q d mem x size => some (put 56 0x06#8 ||| putP q ||| put 46 d ||| putMem2 mem ||| put 34 x ||| put 10 size)
  | .lVscatter q d mem x size => some (put 56 0x07#8 ||| putP q ||| put 46 d ||| putMem2 mem ||| put 34 x ||| put 10 size)
  | .lVsgather q d mem x => some (put 56 0x08#8 ||| putP q ||| put 46 d ||| putMem2 mem ||| put 34 x)
  | .lLdf q d mem scope dbl => some (put 56 0x10#8 ||| putP q ||| put 46 d ||| putMem mem ||| put 13 scope ||| put1 10 dbl ||| put 11 1#1)
  | .lLdfTake q d mem scope dbl => some (put 56 0x10#8 ||| putP q ||| put 46 d ||| putMem mem ||| put 13 scope ||| put1 10 dbl ||| put 11 1#1 ||| put 0 1#1)
  | .lSte q a mem scope dbl => some (put 56 0x11#8 ||| putP q ||| put 46 a ||| putMem mem ||| put 13 scope ||| put1 10 dbl ||| put 11 1#1)
  | .lStf q a mem scope dbl => some (put 56 0x12#8 ||| putP q ||| put 46 a ||| putMem mem ||| put 13 scope ||| put1 10 dbl ||| put 11 1#1)
  | .lFset q mem size => some (put 56 0x13#8 ||| putP q ||| putMem mem ||| put 10 size)
  | .lFclr q mem size => some (put 56 0x14#8 ||| putP q ||| putMem mem ||| put 10 size)
  | .lFqry q d mem size => some (put 56 0x15#8 ||| putP q ||| put 46 d ||| putMem mem ||| put 10 size)
  | .lTld q t mem shape => some (put 56 0x18#8 ||| putP q ||| put 47 t ||| putTMem mem ||| put 7 shape)
  | .lTst q t acc mem => some (put 56 0x19#8 ||| putP q ||| put 47 t ||| putTMem mem ||| put 7 acc)
  | .lTrel q t => some (put 56 0x1A#8 ||| putP q ||| put 47 t)
  | .lTqry q t d => some (put 56 0x1B#8 ||| putP q ||| put 47 t ||| put 7 d)
  | .lQinit q a n countM1 size cls => some (put 56 0x1C#8 ||| putP q ||| put 46 a ||| put 42 n ||| put 32 countM1 ||| put 24 size ||| put 20 cls ||| put 4 3#2)
  | .lQadvp q n nM1 cls => some (put 56 0x1D#8 ||| putP q ||| put 42 n ||| put 32 nM1 ||| put 20 cls ||| put 4 3#2)
  | .lQadvc q n nM1 cls => some (put 56 0x1E#8 ||| putP q ||| put 42 n ||| put 32 nM1 ||| put 20 cls ||| put 4 3#2)
  | .lQqry q d n cls => some (put 56 0x1F#8 ||| putP q ||| put 46 d ||| put 42 n ||| put 20 cls ||| put 4 3#2)
  | .lAadd q d mem scope dbl tok => some (put 56 0x20#8 ||| putP q ||| put 46 d ||| putMem mem ||| put 13 scope ||| put1 10 dbl ||| put1 0 tok ||| put 11 1#1)
  | .lAmin q d mem scope dbl tok => some (put 56 0x21#8 ||| putP q ||| put 46 d ||| putMem mem ||| put 13 scope ||| put1 10 dbl ||| put1 0 tok ||| put 11 1#1)
  | .lAmax q d mem scope dbl tok => some (put 56 0x22#8 ||| putP q ||| put 46 d ||| putMem mem ||| put 13 scope ||| put1 10 dbl ||| put1 0 tok ||| put 11 1#1)
  | .lAminn q d mem scope dbl tok => some (put 56 0x23#8 ||| putP q ||| put 46 d ||| putMem mem ||| put 13 scope ||| put1 10 dbl ||| put1 0 tok ||| put 11 1#1)
  | .lAmaxn q d mem scope dbl tok => some (put 56 0x24#8 ||| putP q ||| put 46 d ||| putMem mem ||| put 13 scope ||| put1 10 dbl ||| put1 0 tok ||| put 11 1#1)
  | .lAand q d mem scope dbl tok => some (put 56 0x25#8 ||| putP q ||| put 46 d ||| putMem mem ||| put 13 scope ||| put1 10 dbl ||| put1 0 tok ||| put 11 1#1)
  | .lAor q d mem scope dbl tok => some (put 56 0x26#8 ||| putP q ||| put 46 d ||| putMem mem ||| put 13 scope ||| put1 10 dbl ||| put1 0 tok ||| put 11 1#1)
  | .lAxor q d mem scope dbl tok => some (put 56 0x27#8 ||| putP q ||| put 46 d ||| putMem mem ||| put 13 scope ||| put1 10 dbl ||| put1 0 tok ||| put 11 1#1)
  | .lAxchg q d mem scope dbl tok => some (put 56 0x28#8 ||| putP q ||| put 46 d ||| putMem mem ||| put 13 scope ||| put1 10 dbl ||| put1 0 tok ||| put 11 1#1)
  | .lAcas q d mem scope dbl tok => some (put 56 0x29#8 ||| putP q ||| put 46 d ||| putMem mem ||| put 13 scope ||| put1 10 dbl ||| put1 0 tok ||| put 11 1#1)
  | .lAfadd q d mem scope dbl tok => some (put 56 0x2A#8 ||| putP q ||| put 46 d ||| putMem mem ||| put 13 scope ||| put1 10 dbl ||| put1 0 tok ||| put 11 1#1)
  | .lAinc q d mem scope dbl tok => some (put 56 0x2B#8 ||| putP q ||| put 46 d ||| putMem mem ||| put 13 scope ||| put1 10 dbl ||| put1 0 tok ||| put 11 1#1)
  | .lVscadd q d mem x scope dbl tok fl => some (put 56 0x2C#8 ||| putP q ||| put 46 d ||| putMem2 mem ||| put 34 x ||| put 13 scope ||| put1 10 dbl ||| put1 0 tok ||| put1 1 fl ||| put 11 1#1)
  | .lDprop q d mem ss scope => some (put 56 0x30#8 ||| putP q ||| put 46 d ||| putMem2 mem ||| put 34 ss ||| put 13 scope)
  | .lDread q d mem ss scope => some (put 56 0x31#8 ||| putP q ||| put 46 d ||| putMem2 mem ||| put 34 ss ||| put 13 scope)
  | .lDrecycle q ss mem scope => some (put 56 0x32#8 ||| putP q ||| put 46 ss ||| putMem2 mem ||| put 13 scope)
  | .lPf q mem drop => some (put 56 0x38#8 ||| putP q ||| putMem mem ||| put1 0 drop)
  | .lFence q mask scope kind => some (put 56 0x39#8 ||| putP q ||| put 20 mask ||| put 13 scope ||| put 0 kind)
  | .lBrel q a => some (put 56 0x3A#8 ||| putP q ||| put 40 a)
  | .lCld q d mem => some (put 56 0x3B#8 ||| putP q ||| put 46 d ||| putMem mem)
  | .lCdrop q d => some (put 56 0x3C#8 ||| putP q ||| put 46 d)
  | .lDsync q => some (put 56 0x3D#8 ||| putP q)
  | .mCall q routine acc countM1 batch use mode => some (put 56 0x00#8 ||| putP q ||| put 44 routine ||| put 38 acc ||| put 32 countM1 ||| put 30 batch ||| put 22 use ||| put 0 mode)
  | .mCommit q batch => some (put 56 0x01#8 ||| putP q ||| put 30 batch)
  | .mWait q batch => some (put 56 0x02#8 ||| putP q ||| put 30 batch)
  | .mStat q d batch => some (put 56 0x03#8 ||| putP q ||| put 46 d ||| put 30 batch)
  | .mZero q acc countM1 => some (put 56 0x04#8 ||| putP q ||| put 38 acc ||| put 32 countM1)
  | .mProg q a b => some (put 56 0x05#8 ||| putP q ||| put 46 a ||| put 40 b)
  | .mSbuild q a b c => some (put 56 0x06#8 ||| putP q ||| put 46 a ||| put 40 b ||| put 34 c)
  | .mSstat q d => some (put 56 0x07#8 ||| putP q ||| put 46 d)
  | .xGet q tag dst src len cls => some (put 56 0x00#8 ||| putP q ||| put 46 tag ||| putDst dst ||| putSrc src ||| put 28 len ||| put 16 cls)
  | .xPut q tag dst src len cls => some (put 56 0x01#8 ||| putP q ||| put 46 tag ||| putDst dst ||| putSrc src ||| put 28 len ||| put 16 cls)
  | .xCopy q tag dst src len cls => some (put 56 0x02#8 ||| putP q ||| put 46 tag ||| putDst dst ||| putSrc src ||| put 28 len ||| put 16 cls)
  | .xFill q tag dst val len cls unit => some (put 56 0x03#8 ||| putP q ||| put 46 tag ||| putDst dst ||| put 34 val ||| put 28 len ||| put 16 cls ||| put 4 unit)
  | .xStage q tag dst src len cls key => some (put 56 0x04#8 ||| putP q ||| put 46 tag ||| putDst dst ||| putSrc src ||| put 28 len ||| put 16 cls ||| put 8 key)
  | .xSeal q tag dst src len cls key => some (put 56 0x05#8 ||| putP q ||| put 46 tag ||| putDst dst ||| putSrc src ||| put 28 len ||| put 16 cls ||| put 8 key)
  | .xSgather q tag dst src len cls desc => some (put 56 0x06#8 ||| putP q ||| put 46 tag ||| putDst dst ||| putSrc src ||| put 28 len ||| put 16 cls ||| put 8 desc)
  | .xWait q tag => some (put 56 0x07#8 ||| putP q ||| put 46 tag)
  | .xStat q d tag => some (put 56 0x08#8 ||| putP q ||| put 46 tag ||| put 40 d)
  | .xCancel q tag => some (put 56 0x09#8 ||| putP q ||| put 46 tag)
  | .uFeeda a lenM1 all => some (put 58 0x00#6 ||| put 50 a ||| put 0 lenM1 ||| put1 9 all)
  | .uFeedb a lenM1 all => some (put 58 0x01#6 ||| put 50 a ||| put 0 lenM1 ||| put1 9 all)
  | .uMac => some (put 58 0x02#6)
  | .uMacq => some (put 58 0x03#6)
  | .uFold => some (put 58 0x04#6)
  | .uAccl a idx clr => some (put 58 0x05#6 ||| put 50 a ||| put 0 idx ||| put1 8 clr)
  | .uNorm a sideB add => some (put 58 0x06#6 ||| put 50 a ||| put1 0 sideB ||| put1 1 add)
  | .uDraw a b qM1 => some (put 58 0x07#6 ||| put 50 a ||| put 46 b ||| put 0 qM1)
  | .uSgath a => some (put 58 0x08#6 ||| put 50 a)
  | .uProbe a nM1 => some (put 58 0x09#6 ||| put 50 a ||| put 0 nM1)
  | .uStoptest off => some (put 58 0x0A#6 ||| put 16 off)
  | .uSkipz sideB n => some (put 58 0x0B#6 ||| put1 0 sideB ||| put 1 n)
  | .uEdge a b => some (put 58 0x0C#6 ||| put 50 a ||| put 46 b)
  | .uSwap a b => some (put 58 0x0D#6 ||| put 50 a ||| put 46 b)
  | .uPset d src => some (put 58 0x0E#6 ||| put 54 d ||| putPset src)
  | .uPadd d a b i => some (put 58 0x0F#6 ||| put 54 d ||| put 50 a ||| put 46 b ||| put 0 i)
  | .uPbr a b cond off => some (put 58 0x10#6 ||| put 50 a ||| put 46 b ||| put 0 cond ||| put 16 off)
  | .uMloop a cnt off => some (put 58 0x11#6 ||| put 50 a ||| put 0 cnt ||| put 16 off)
  | .uWait a n => some (put 58 0x12#6 ||| put 50 a ||| put 0 n)
  | .uMend => some (put 58 0x13#6)
  | .evPackageReset => none
  | .evRegisterWrite => none
  | .evClkcapWrite => none
  | .evClockStepChange => none
  | .evThermalTrip => none
  | .evTelemetrySample => none
  | .evClusterGate => none
  | .evClusterWake => none
  | .evLinkReset => none
  | .evEventRingConsume => none
  | .evEventRecordWrite => none
  | .evLaunchRecord => none
  | .evDispatchDecision => none
  | .evDictionaryLoad => none
  | .evLaunchIssuable => none
  | .evPriorityPreempt => none
  | .evLaunchComplete => none
  | .evReleaseFlush => none
  | .evCancellation => none
  | .evBundleDispatch => none
  | .evCheckpointCommit => none
  | .evTrapRollback => none
  | .evAsyncFaultReport => none
  | .evPreemptByBoundary => none
  | .evPreemptByRollback => none
  | .evContextSave => none
  | .evContextRestore => none
  | .evRemoteWriteArrival => none
  | .evReceiveQueuePerform => none
  | .evWriteAcceptance => none
  | .evRemoteBoundReply => none
  | .evPhaseArrival => none
  | .evTaggedWaitSatisfied => none
  | .evWaitTimeout => none
  | .evHostInboundWrite => none
  | .evSectorEvictWriteback => none
  | .evHomeProbe => none
  | .evTileFillComplete => none
  | .evTileFillFault => none
  | .evMatrixRecordStart => none
  | .evMicroTileCommit => none
  | .evMatrixCallComplete => none
  | .evMatrixMigrate => none
  | .evMigrationReturn => none
  | .evAccDrainDone => none
  | .evCopyComplete => none
  | .evStepCurrent => none
  | .evScheduleReread => none
  | .evProoferPrefetch => none
  | .evLeaseRenewal => none
  | .evReadLeaseGrant => none
  | .evLeaseRetry => none
  | .evWriteLeaseGrant => none
  | .evRenewalGrant => none
  | .evLeaseFenced => none
  | .evLeaseDeadline => none
  | .evPoolPageArrival => none
  | .evPutAcknowledge => none
  | .evPoolCacheEvict => none
  | .evStepCommit => none
  | .evStepLost => none
  | .evStepRerunCheck => none
  | .evFlitReceive => none
  | .evNakReceive => none
  | .evReplayTimeout => none
  | .evLaneErrorThreshold => none
  | .evLaneRetrainEnd => none
  | .evStrandLoss => none
  | .evStrandReturn => none
  | .evLinkLost => none
  | .evUncorrectableError => none
  | .evAtsInvalidation => none
  | .evResume => none
  | .evKill => none
  | .evPreempt => none
  | .evStepOn => none
  | .evStepOff => none
  | .evCancel => none
  | .evInvalVa => none
  | .evInvalAsid => none
  | .evInvalS2 => none
  | .evMboxOpen => none
  | .evMboxClose => none
  | .evSchedule => none
  | .evGetVersion => none
  | .evGetCapabilities => none
  | .evNegotiateAlgorithms => none
  | .evGetDigests => none
  | .evGetCertificate => none
  | .evChallenge => none
  | .evGetMeasurements => none
  | .evKeyExchange => none
  | .evFinish => none
  | .evHeartbeat => none
  | .evKeyUpdate => none
  | .evEndSession => none
  | .evSetCertificate => none
  | .evGetCsr => none
  | .evChunkSend => none
  | .evChunkGet => none
  | .evUnsupportedRequest => none
  | .evOwnerAuth => none
  | .evSetKey => none
  | .evClearKey => none
  | .evLockInterface => none
  | .evStopInterface => none
  | .evTdiError => none
  | .evRemoteRequestArrival => none
  | .evRemoteReply => none
  | .evPatrolScrub => none
  | .evTdiRun => none
  | .evIdeKm => none

/-! The decoder proper. -/

/-- What decoding a present slot's word gives (R78). -/
inductive Decoded where
  | ok (i : Instr)
  | illegalOpcode
  | illegalField
  deriving DecidableEq, Repr

/-- A legal word is the word of a well-formed instruction: no bit of it stands outside that instruction's fields (R69). -/
def legal (w : BitVec 64) : Option Instr → Decoded
  | none => .illegalOpcode
  | some i => if i.wf && encode i == some w then .ok i else .illegalField

def decodeSlot (sl : Slot) (w : BitVec 64) : Decoded := legal w (readSlot sl w)
def decodeMicro (w : BitVec 64) : Decoded := legal w (readMicro w)

/-- Little-endian bytes to a number. -/
def numOf : List Byte → Nat
  | [] => 0
  | b :: bs => b.toNat + 256 * numOf bs

/-- Twelve 32-bit words, word 0 first, from the 48 bytes of a bundle (R53, R59). -/
def bundleWords (bytes : List Byte) : List (BitVec 32) :=
  (List.range 12).map fun i => BitVec.ofNat 32 (numOf ((bytes.drop (4 * i)).take 4))

/-- The words of one slot as one number: word 1 for C; words 2k and 2k + 1, low half first, for the others (R59). -/
def slotWord (ws : List (BitVec 32)) (sl : Slot) : BitVec 64 :=
  let lo := ws.getD (2 * sl.toNat) 0
  let hi := ws.getD (2 * sl.toNat + 1) 0
  match sl with
  | .c => (ws.getD 1 0).setWidth 64
  | .a => hi ++ lo
  | .v => hi ++ lo
  | .l => hi ++ lo
  | .m => hi ++ lo
  | .x => hi ++ lo

/-- A decoded bundle: the header's marks and the operations of its present slots (R59, R60). -/
structure Bundle where
  ck   : Bool
  pp   : Bool
  sync : BitVec 6
  ops  : List (Slot × Instr)
  deriving DecidableEq, Repr

/-- The first encoding fault of a bundle's words, in the order of R79. -/
inductive BundleFault where
  | illegalBundle
  | illegalOpcode (sl : Slot)
  | illegalField (sl : Slot)
  deriving DecidableEq, Repr

def allSlots : List Slot := [.c, .a, .v, .l, .m, .x]
def presentSlots (h : BitVec 32) : List Slot := allSlots.filter fun sl => h.getLsbD sl.toNat

/-- R60: reserved header bits and the words of absent slots are zero. -/
def headerOk (ws : List (BitVec 32)) : Bool :=
  (ws.getD 0 0).extractLsb' 14 18 == 0 &&
    allSlots.all fun sl => (ws.getD 0 0).getLsbD sl.toNat || slotWord ws sl == 0

def firstBad (p : Decoded → Bool) (ds : List (Slot × Decoded)) : Option Slot :=
  (ds.find? fun d => p d.2).map (·.1)

/-- The operations of the present slots whose opcodes are assigned, whether or not they keep their field rules: what the rules on
two operations of one bundle look at (R36, R79). -/
def readOps (ws : List (BitVec 32)) : List (Slot × Instr) :=
  (presentSlots (ws.getD 0 0)).filterMap fun sl => (readSlot sl (slotWord ws sl)).map fun i => (sl, i)

def goodOps : List (Slot × Decoded) → List (Slot × Instr)
  | [] => []
  | (sl, .ok i) :: ds => (sl, i) :: goodOps ds
  | _ :: ds => goodOps ds

/-- A field rule that the word alone does not decide (R76). -/
def Decoded.allow (ok : Instr → Bool) : Decoded → Decoded
  | .ok i => if ok i then .ok i else .illegalField
  | d => d

/-- The faults that the twelve words raise, in the order of R79; `clash` says that two operations of a bundle may not stand
together, `ok` that an operation keeps the field rules of the context it runs in. -/
def decodeBundle (clash : List (Slot × Instr) → Bool) (ok : Instr → Bool) (ws : List (BitVec 32)) : Except BundleFault Bundle :=
  let h := ws.getD 0 0
  let ds := (presentSlots h).map fun sl => (sl, decodeSlot sl (slotWord ws sl))
  if !headerOk ws || clash (readOps ws) then .error .illegalBundle else
  let ds := ds.map fun d => (d.1, d.2.allow ok)
  match firstBad (· == .illegalOpcode) ds, firstBad (· == .illegalField) ds with
  | some sl, _ => .error (.illegalOpcode sl)
  | none, some sl => .error (.illegalField sl)
  | none, none => .ok ⟨h.getLsbD 12, h.getLsbD 13, h.extractLsb' 6 6, goodOps ds⟩

/-- The instruction the decoder reads from a word whose bits the table numbers: the table gives bits to the rows of the
C slot alone, whose words have 32 bits. -/
def decodeTableWord (nbits w : Nat) : Option Instr :=
  if nbits = 32 ∧ w < 2 ^ 32 then
    match decodeSlot .c (BitVec.ofNat 64 w) with
    | .ok i => some i
    | .illegalOpcode => none
    | .illegalField => none
  else none

/-- The bytes of a bundle's words, low byte first (R53). -/
def wordBytes (w : BitVec 32) : List Byte :=
  [w.extractLsb' 0 8, w.extractLsb' 8 8, w.extractLsb' 16 8, w.extractLsb' 24 8]

/-- The twelve words of a bundle (R59): the header, then each slot's words, zero where absent. -/
def encodeBundle (b : Bundle) : List (BitVec 32) :=
  let word (sl : Slot) : BitVec 64 :=
    match b.ops.find? (fun o => o.1 == sl) with
    | some (_, i) => (encode i).getD 0
    | none => 0
  let h : BitVec 32 := b.ops.foldl (fun h o => h ||| (1#32 <<< o.1.toNat))
    ((b.sync.setWidth 32 <<< 6) ||| ((BitVec.ofBool b.ck).setWidth 32 <<< 12) ||| ((BitVec.ofBool b.pp).setWidth 32 <<< 13))
  h :: (word .c).setWidth 32 ::
    [Slot.a, .v, .l, .m, .x].flatMap fun sl => [(word sl).setWidth 32, (word sl).extractLsb' 32 32]

end Sys2Proof
end

