-- ==== Sys2Proof/Config.lean ====
section
/-! DEFINITION. Config.lean: what the manual leaves to an implementation or does not state. Every constant
that has no body is a free value: no proof can see what it is (notes/assumptions 2, 8 to 12, 19, 21, 32, 53, 71, 74, 76). -/
namespace Sys2Proof.Config

/-- Which of several agents that may act acts next, at the clock's reading (R5, R38). DESIGN CHOICE, log 2. -/
opaque choose : Nat → Nat

/-- A free yes or no, at the clock's reading: whether a copy that may still be used is used (R231, R254, R374). Log 10. -/
opaque freeBool : Nat → Bool
/-- A free number, at the clock's reading (a value the manual leaves open). Log 2. -/
opaque freeNat : Nat → Nat

/-- The token table holds one entry more than this (R314 gives no size). Log 2. -/
opaque tokenEntries : Nat

/-- Entropy drawn by the package for a seed of 0, and for keys and nonces (R215). Log 11. -/
opaque entropy : Nat → Word

/-- `vfrcp`, `vfrsq`, `vfexp2`, `vflog2` of a finite operand, by type code: any value within the bound of Table 6.9. Log 9. -/
opaque approx : (op : Nat) → Ty → Nat → Nat

/-- SHA-384 of a byte string (the algorithm is named, not given). Log 8. -/
opaque sha384 : List Byte → List Byte
/-- AES-256-GCM tag: key, initialisation vector, additional data, plaintext. Log 8. -/
opaque gcmTag : List Byte → List Byte → List Byte → List Byte → List Byte
/-- AES-256-GCM encryption and decryption keystream: key, initialisation vector, text. Log 8. -/
opaque gcmCrypt : List Byte → List Byte → List Byte → List Byte
/-- AES-XTS of a sector: key, tweak, data; and its inverse. Log 8. -/
opaque xts : List Byte → Nat → List Byte → List Byte
opaque xtsInv : List Byte → Nat → List Byte → List Byte
/-- ECDSA over P-384: public key, digest, signature; private key, digest. Log 8. -/
opaque ecdsaVerify : List Byte → List Byte → List Byte → Bool
opaque ecdsaSign : List Byte → List Byte → List Byte
/-- LMS signature: private key, message. Log 8. -/
opaque lmsSign : List Byte → List Byte → List Byte
/-- LMS: public key, message, signature. Log 8. -/
opaque lmsVerify : List Byte → List Byte → List Byte → Bool
/-- HMAC and HKDF-Expand with SHA-384: key, data; secret, label, length. Log 8. -/
opaque hmac : List Byte → List Byte → List Byte
opaque hkdf : List Byte → List Byte → Nat → List Byte
/-- The ECDHE shared secret and the package's own public exchange value. Log 8. -/
opaque ecdhShared : List Byte → List Byte → List Byte
opaque ecdhPublic : List Byte → List Byte
/-- AES key wrap (RFC 5649 style unwrapping under an owner's key): key, wrapped key; none when its check fails. Log 8. -/
opaque keyUnwrap : List Byte → List Byte → Option (List Byte)

/-- The payload of the n-th flit that a transaction sends at the clock's reading (R434 does not state its packets). Log 19. -/
opaque packet : Nat → Nat → List Byte
/-- Which of the sixteen fabric links leads to a package (R11 states none). Log 19. -/
opaque route : Nat → Nat

/-- DATA of the trap record of a trap whose faulting operand the manual does not name, by the clock's reading (R404). Log 32. -/
opaque trapData : Nat → BitVec 64
/-- The bytes of a context save image, by serial and offset (Table 16.8 gives its parts and not their layout). Log 74. -/
opaque imageByte : Nat → Nat → BitVec 8

/-- The keys made into the part: the roots firmware is verified against, the device identity. Log 8. -/
opaque ecRoot : List Byte
opaque lmsRoot : List Byte
opaque devicePrivate : List Byte
opaque devicePublic : List Byte
/-- The private keys that belong to a certificate chain's leaf. Log 8. -/
opaque leafKey : List Byte → List Byte
/-- The identity chain of certificate slot 0, made at manufacture (R390), and what measurement block 2 measures (R389). Log 21. -/
opaque identityChain : List Byte
opaque spConfig : List Byte
/-- The body of a certificate signing request for what a requester sent, and the largest response that goes in one piece. Log 21. -/
opaque csr : List Byte → List Byte
opaque spdmSize : Nat
/-- The PCIe Vendor ID that physical function 0 reports (R391 gives none). Log 21. -/
opaque vendorId : BitVec 16
/-- The highest firmware security version burned into the part. Log 8. -/
opaque fuseSvn : BitVec 32

end Sys2Proof.Config
end

