-- ==== Sys2Proof/Machine/Memory.lean ====
section
/-! DEFINITION. Memory.lean: byte memories as sorted lists of address and byte pairs in one canonical form, little-endian
words over them, and sorted sets of word numbers (R229, R230, R250). -/
namespace Sys2Proof.Machine

/-- A byte memory: addresses strictly rising, no byte equal to 0, which is what an unlisted address reads as (log 4). -/
abbrev Memory := List Host.Cell

/-- The canonical form, from a lower bound on the addresses. -/
def Memory.wfFrom : Nat → Memory → Bool
  | _, [] => true
  | lo, (a, b) :: m => decide (lo ≤ a) && decide (b ≠ 0) && wfFrom (a + 1) m

/-- The canonical form of a memory. -/
def Memory.wf (m : Memory) : Bool := Memory.wfFrom 0 m

/-- The byte at an address; an unlisted address reads 0 (log 4). -/
def Memory.get : Memory → Nat → Byte
  | [], _ => 0
  | (a, b) :: m, x => if x < a then 0 else if x = a then b else Memory.get m x

/-- Put one byte, keeping the canonical form. -/
def Memory.put : Memory → Nat → Byte → Memory
  | [], x, v => if v = 0 then [] else [(x, v)]
  | (a, b) :: m, x, v =>
    if x < a then (if v = 0 then (a, b) :: m else (x, v) :: (a, b) :: m)
    else if x = a then (if v = 0 then m else (a, v) :: m)
    else (a, b) :: Memory.put m x v

/-- `n` bytes from an address upward. -/
def Memory.bytes (m : Memory) (a : Nat) : Nat → List Byte
  | 0 => []
  | n + 1 => Memory.get m a :: Memory.bytes m (a + 1) n

/-- Write bytes from an address upward. -/
def Memory.putBytes : Memory → Nat → List Byte → Memory
  | m, _, [] => m
  | m, a, b :: bs => Memory.putBytes (Memory.put m a b) (a + 1) bs

/-- Write the bytes whose mask is true, from an address upward. -/
def Memory.putMasked : Memory → Nat → List (Option Byte) → Memory
  | m, _, [] => m
  | m, a, none :: bs => Memory.putMasked m (a + 1) bs
  | m, a, some b :: bs => Memory.putMasked (Memory.put m a b) (a + 1) bs

/-- Forget every byte in `lo ≤ a < hi` (a bank cleared to zero). -/
def Memory.clear (m : Memory) (lo hi : Nat) : Memory := m.filter fun c => !(lo ≤ c.1 && c.1 < hi)

/-- The number that bytes stand for, lowest first. -/
def leNat : List Byte → Nat
  | [] => 0
  | b :: bs => b.toNat + 256 * leNat bs

/-- The `n` bytes of a number, lowest first. -/
def leBytes : Nat → Nat → List Byte
  | 0, _ => []
  | n + 1, x => BitVec.ofNat 8 x :: leBytes n (x / 256)

/-- A little-endian number of `n` bytes in memory. -/
def Memory.le (m : Memory) (a n : Nat) : Nat := leNat (m.bytes a n)

/-- A field of bytes taken out of a list, zero where the list ends. -/
def sliceBytes (l : List Byte) (off n : Nat) : List Byte :=
  (l.drop off).take n ++ List.replicate (n - (l.length - off)) 0

/-- A little-endian field of a byte list. -/
def leField (l : List Byte) (off n : Nat) : Nat := leNat (sliceBytes l off n)

/-- Overwrite bytes of a list from an offset. -/
def spliceBytes (l : List Byte) (off : Nat) (d : List Byte) : List Byte :=
  sliceBytes l 0 off ++ d ++ l.drop (off + d.length)

/-- A set of numbers as a strictly rising list. -/
abbrev NatSet := List Nat

def NatSet.has (l : NatSet) (n : Nat) : Bool := l.elem n

/-- Insert, keeping the list rising. -/
def NatSet.add : NatSet → Nat → NatSet
  | [], n => [n]
  | a :: l, n => if n < a then n :: a :: l else if n = a then a :: l else a :: NatSet.add l n

def NatSet.del (l : NatSet) (n : Nat) : NatSet := l.filter (· != n)

/-- Without the numbers from `a` on, `n` of them. -/
def NatSet.delRun (l : NatSet) (a n : Nat) : NatSet := l.filter fun x => !(decide (a ≤ x) && decide (x < a + n))

/-- Numbers `a, a+1, …` of count `n`. -/
def natRange (a : Nat) : Nat → List Nat
  | 0 => []
  | n + 1 => a :: natRange (a + 1) n

/-- Bits `[hi:lo]` of a number. -/
def bitsOf (x hi lo : Nat) : Nat := (x >>> lo) % 2 ^ (hi + 1 - lo)

/-- A sparse table: the value at a key, or a default. -/
def tabGet {α : Type} (d : α) : List (Nat × α) → Nat → α
  | [], _ => d
  | (k, v) :: l, x => if x = k then v else tabGet d l x

/-- Set the value at a key, keys rising. -/
def tabSet {α : Type} : List (Nat × α) → Nat → α → List (Nat × α)
  | [], x, v => [(x, v)]
  | (k, w) :: l, x, v =>
    if x < k then (x, v) :: (k, w) :: l else if x = k then (k, v) :: l else (k, w) :: tabSet l x v

def tabDel {α : Type} (l : List (Nat × α)) (x : Nat) : List (Nat × α) := l.filter (·.1 != x)

/-- Change the element at a position of a list. -/
def listSet {α : Type} : List α → Nat → α → List α
  | [], _, _ => []
  | _ :: l, 0, v => v :: l
  | a :: l, n + 1, v => a :: listSet l n v

/-- Change the elements that satisfy a test. -/
def mapIf {α : Type} (p : α → Bool) (f : α → α) (l : List α) : List α := l.map fun x => if p x then f x else x

end Sys2Proof.Machine
end

