-- ==== Sys2Proof/Machine/Context.lean ====
section
/-! DEFINITION. Context.lean: the state of one context, of one core, as plain data (R34, Table 2.4, Table 2.8, R399, R408). -/
namespace Sys2Proof.Machine

/-- A loop-stack entry (Table 13.3). -/
structure LoopEntry where
  index  : BitVec 32
  remain : BitVec 32
  last   : BitVec 32
  start  : BitVec 32
  deriving DecidableEq, Repr

/-- A pending transfer (R453): the target of a taken branch, or the bundles a taken `vskip` skips, with the delay-slot
bundles still to run and the pc of the transfer's bundle. -/
structure Xfer where
  target : Option (BitVec 32)
  skip   : Nat
  left   : Nat
  src    : BitVec 32
  deriving DecidableEq, Repr

/-- What rollback restores from duplicates and shadow copies (Table 2.4, Table 16.5). `loops` holds the innermost entry
first, so LD is its length. -/
structure Regs where
  s     : Vector Word 64
  p     : BitVec 8
  v     : Vector Vec 64
  k     : Vector Word 8
  mstk  : Vector Word 16
  mdep  : BitVec 5
  c     : Vector (BitVec 128) 16
  t     : Vector (BitVec 256) 32
  q     : Vector (BitVec 128) 16
  mp    : Vector Word 8
  pc    : BitVec 32
  loops : List LoopEntry
  xfer  : Option Xfer
  fpctl : Word
  racectl : Word
  seed  : Word
  waitlimit : Word
  deriving DecidableEq, Repr

/-- R352 step 4: every register zero, the mask stack at depth 1 with every lane executing. -/
def Regs.zero : Regs where
  s := Vector.replicate 64 0
  p := 0
  v := Vector.replicate 64 0
  k := Vector.replicate 8 0
  mstk := (Vector.replicate 16 0).set 0 (BitVec.allOnes 64)
  mdep := 1
  c := Vector.replicate 16 0
  t := Vector.replicate 32 0
  q := Vector.replicate 16 0
  mp := Vector.replicate 8 0
  pc := 0
  loops := []
  xfer := none
  fpctl := 0
  racectl := 0
  seed := 0
  waitlimit := 0

/-- A scoreboarded register (R36), the mask stack (R156) or a writable system register (R122, R133). -/
inductive RegName where
  | s (r : SReg) | p (r : PReg) | v (r : VReg) | k (r : KReg) | c (r : CReg) | t (r : TReg) | q (r : QReg)
  | mp (r : MpReg) | mask | sys (n : BitVec 12)
  deriving DecidableEq, Repr

/-- The value a register had before an operation of the same bundle wrote it (R36). -/
inductive OldValue where
  | s (r : SReg) (x : Word) | p (r : PReg) (x : Bool) | v (r : VReg) (x : Vec) | k (r : KReg) (x : Word)
  | c (r : CReg) (x : BitVec 128) | t (r : TReg) (x : BitVec 256) | q (r : QReg) (x : BitVec 128)
  | mp (r : MpReg) (x : Word) | mask (m : Vector Word 16) (d : BitVec 5) | sys (n : BitVec 12) (x : Word)
  deriving DecidableEq, Repr

/-- Which operation is at work: its bundle's number in dynamic flow (R341), its slot, the bundle's pc, and the loop indices
as they stood when the C slot dispatched the bundle (R35), innermost first. -/
structure OpId where
  seq  : Nat
  slot : Slot
  pc   : BitVec 32
  lidx : List (BitVec 32)
  deriving DecidableEq, Repr

/-- An operation in its slot's queue: with the sync bits of its bundle, and whether its bundle has CK, PP or single-stepping,
which drain every slot (R37, R412). -/
structure PendOp where
  id    : OpId
  instr : Instr
  sync  : BitVec 6
  drain : Bool
  deriving DecidableEq, Repr

/-- What a trap reports (Table 16.4). -/
structure TrapInfo where
  code  : Nat
  sub   : Nat := 0
  addr  : Word := 0
  elem  : Nat := 0
  info  : Nat := 0
  data  : Word := 0
  deriving DecidableEq, Repr

/-- A trap held until the rollback (R402): its bundle's number, its place in the order of R402 (0 asynchronous, then the slots
from 1), its pc, ASYNC, the SLOT code of Table 16.4 and the core that executed it. -/
structure Held where
  seq   : Nat
  rank  : Nat
  pc    : BitVec 32
  async : Bool
  kept  : Bool := false
  slot  : Nat
  exe   : BitVec 7
  info  : TrapInfo
  deriving DecidableEq, Repr

/-- What a withheld entry does when it is released (Table 16.1, R276, R277, R289, R307, R275, R312, R321, R322). -/
inductive EntryAct where
  | store
  | count (rel : Bool)                -- a queue counter, of `qadvp` or `qadvc` (R285)
  | ste | stf | fset | fclr
  | brel (mask : Word)
  | atom (op : AtomOp) (dbl tok : Bool) (v : Word) (dst : Option SReg)
  | take (dst : SReg) (dbl : Bool)
  | dprop (gen : BitVec 32) (value : List Byte) (vd : VReg) (ss : SReg)
  | drecycle (gen : BitVec 32)
  deriving DecidableEq, Repr

/-- An entry of the store-withholding buffer (R399): its cells are its bytes' places in address order, with the bytes that a
store writes (`none` where the mask is clear), and its place in the context's entry order (R236). -/
structure Entry where
  id    : OpId
  act   : EntryAct
  cells : List (Place × Option Byte)
  va    : Word
  cls   : BitVec 4
  scope : BitVec 3
  ser   : Nat
  deriving DecidableEq, Repr

/-- Kinds of state a tile register has (Table 8.4). -/
inductive TileSt where
  | empty | filling | ready | retiring
  deriving DecidableEq, Repr

/-- A tile register's tile-table state (R178 to R182): its state, the lines it pins, whether its bytes are there, its stored rows'
bytes and each element's side entry as the fill snapshot took them, the capability it reads through, the operation that loaded it,
whether it changed since the checkpoint, whether a refill at a rollback returns it to RETIRING, and the protected range of a tile
homed in scratchpad (R180), and the class and place in entry order of its `tld` (R245). -/
structure TileEntry where
  st     : TileSt
  lines  : Nat
  filled : Bool
  bytes  : List (List Byte)
  side   : List (List Nat)
  cap    : BitVec 128
  op     : Option OpId
  fresh  : Bool
  retire : Bool
  prot   : Option (Nat × Nat)
  cls    : BitVec 4 := 0
  ser    : Nat := 0
  deriving DecidableEq, Repr

def TileEntry.none : TileEntry := ⟨.empty, 0, true, [], [], 0, .none, false, false, .none, 0, 0⟩

/-- What a checkpoint keeps of a tile register for a rollback (R182): its state, and of the `tld` that loaded it the operation, the class and
place in entry order, and the capability it reads through. -/
structure TileBack where
  st  : TileSt
  op  : Option OpId
  cls : BitVec 4
  ser : Nat
  cap : BitVec 128
  deriving DecidableEq, Repr

def TileEntry.back (t : TileEntry) : TileBack := ⟨t.st, t.op, t.cls, t.ser, t.cap⟩

/-- An operand record of a matrix call or `mzero` (R187, R190): its MC field, parameters, captured tiles, serial, the seed of a
SAMPLE call, the launching operation, its launch slot and home core, how far it has run (R202), its completion status so far,
its batch's generation, the count of commits at its dispatch, the result word of a SAMPLE call so far (Table 9.3), the
clock at its dispatch (R363), its place in entry order (R236), and of a SAMPLE call the scratchpad as its runs read it and RELERR of
each `stoptest` of a run that has committed, which every later run repeats (R225, R227). -/
structure MRecord where
  zero    : Bool
  word0   : BitVec 52
  mp      : List Word
  tileA   : Option TReg
  tileB   : Option TReg
  descA   : BitVec 256
  descB   : BitVec 256
  snapA   : TileEntry
  snapB   : TileEntry
  serial  : Nat
  seed    : Word
  op      : OpId
  slot    : Bool
  home    : BitVec 7
  migrated : Bool
  waited  : Bool
  accOff  : Nat
  mtMask  : BitVec 32
  status  : BitVec 8
  gen     : Nat
  since   : Nat
  res     : Word
  born    : Nat
  ser     : Nat
  view    : Option Memory
  tests   : List Nat
  deriving DecidableEq, Repr

/-- An entry of the matrix resume table (R408). -/
structure ResumeEntry where
  serial   : Nat
  hash     : Word
  accOff   : Nat
  mtMask   : BitVec 32
  complete : Bool
  status   : BitVec 8
  seed     : Word
  res      : Word
  view     : Option Memory
  tests    : List Nat
  deriving DecidableEq, Repr

/-- The states of a copy tag (Table 11.5), and the copy commands (Table 11.4). -/
inductive TagSt where
  | idle | held | running | done | nospace | fenced | linkLost | cancelled | faulted
  deriving DecidableEq, Repr

inductive CopyKind where
  | get | put | copy | fill (unit : BitVec 2) (v : Word) | xstage (key : BitVec 8) | xseal (key : BitVec 8)
  | sgather (d0 d1 : Word)
  deriving DecidableEq, Repr

/-- One operand of a copy command as dispatched: its effective address, capability or window, the capability read. -/
structure Opd where
  space : Space
  num   : BitVec 4
  cap   : BitVec 128
  ea    : Word
  deriving DecidableEq, Repr

/-- A copy tag with its command (R293, R300): the bytes performed, the runs of bytes still to perform, the source's bytes where they have
to be read before any is written (R294, R298), the state it enters once what it has sent has performed, its place in entry order, and
whether it was issued since the checkpoint. -/
structure CopyTag where
  st   : TagSt
  done : Nat
  left : List (Nat × Nat)
  snap : Option (List Byte)
  ending : Option TagSt
  kind : CopyKind
  dst  : Opd
  src  : Opd
  len  : Nat
  cls  : BitVec 4
  op   : OpId
  ser  : Nat
  fresh : Bool
  sealKey : Option (Option (List Byte)) := Option.none -- the key of its slot as it started, once it has (R384)
  deriving DecidableEq, Repr

/-- A verified code block: its words and its start masks (R55 to R58). -/
structure Block where
  words : List (BitVec 16)
  masks : List (BitVec 64)
  deriving DecidableEq, Repr

/-- The code image a launch runs (R50 to R58, Table 15.5). -/
structure Image where
  codeLen : Nat
  codeBase : Nat
  sideBase : Nat
  dict    : List (BitVec 384)
  blocks  : List (Nat × Block)
  codeKey : BitVec 8
  nonce   : Word
  deriving DecidableEq, Repr

/-- The microprogram store's region and entry table of one launch slot (R191, R192): an entry is the first word and the
word count of a loaded routine; `bad` holds the poisoned words (R418). -/
structure MicroStore where
  region  : Nat
  words   : List (Nat × Word)
  entries : List (Nat × (Nat × Nat))
  bad     : NatSet
  deriving DecidableEq, Repr

/-- What holds a context from issuing (R403, R455, R339). -/
inductive Hold where
  | no
  | held        -- stopped after a trap that waits for the host (Hold or Service), or KEPT
  | exited      -- `exit` has dispatched
  deriving DecidableEq, Repr

/-- What the launch gave its context and the command processor uses (R344, R352, R370). -/
structure LaunchInfo where
  launchId : BitVec 32
  cancel   : BitVec 32
  pid      : BitVec 12
  part     : BitVec 3
  asid     : BitVec 16
  crew     : BitVec 32
  crewRank : BitVec 32
  step     : Word
  prio     : BitVec 6
  compq    : BitVec 5
  winKey   : BitVec 8
  conf     : Bool
  debug    : Bool
  deriving DecidableEq, Repr

/-- A commit in progress (R397): counted as forced, as full, the `dsync` of R355 that it completes, whether `exit` ends with it, and
whether held copy commands stay held, at a boundary where pre-emption lands (R302). -/
structure CommitReq where
  forced : Bool
  full   : Bool
  dsync  : Bool
  exit   : Bool
  keep   : Bool := false
  deriving DecidableEq, Repr

/-- A remote read that waits for its reply (R44, R454): the operation, the window and offset, its size in bytes, whether it takes
(R275), and the lane mask it dispatched under. -/
structure RemoteWait where
  op     : PendOp
  window : BitVec 4
  addr   : Nat
  size   : Nat
  take   : Bool
  mask   : Word
  deriving DecidableEq, Repr

/-- A long op that pre-emption stopped between two elements (R270): the operation, its elements (lane, address, the bytes to store or as
many to load), those it has not performed, and the bytes it has loaded. -/
structure LongOp where
  op    : PendOp
  all   : List (Nat × Word × List Byte)
  items : List (Nat × Word × List Byte)
  got   : List (Nat × List Byte)
  deriving DecidableEq, Repr

/-- Shadow state of a sector (R260): the writer or none, its interval, its level and phase. -/
structure RaceRec where
  writer   : Option Agent
  interval : Nat
  level    : BitVec 3
  phase    : BitVec 12
  deriving DecidableEq, Repr

/-- The write that stands at a location, as far as releases go (R248, R260): who made it and when it performed; the interval and scope of
the release that it is (`own`), and those of the latest release fence it came after. -/
structure RelRec where
  who   : Agent
  own   : Option (Nat × BitVec 3)
  fence : Option (Nat × BitVec 3)
  at_   : Nat
  deriving DecidableEq, Repr

/-- One context (R34, Table 2.8): what is restored at rollback is `regs`, its duplicate `ckpt`; everything else is kept or has
its own rule in Table 16.5. -/
structure Context where
  live      : Bool                -- a launch's context stands in this slot
  issuable  : Bool                -- R352 step 6
  hold      : Hold
  info      : LaunchInfo
  image     : Image
  regs      : Regs
  ckpt      : Regs
  shadow    : BitVec 64
  status    : Word
  ckstat    : Word
  progidx   : BitVec 32
  mtmask    : BitVec 32
  spLo      : Word
  spHi      : Word
  domain    : Word
  stepToken : Word
  partWord  : BitVec 32
  ctxId     : BitVec 32
  wallow    : Vector Word 16
  window    : Vector Word 16
  trapRec   : Vector Word 8
  tokSeq    : Nat
  arrived   : Option (BitVec 12)
  serial    : Nat
  tiles     : Vector TileEntry 32
  tileCkpt  : Vector TileBack 32    -- the tiles at the checkpoint (R182)
  batch     : Vector (BitVec 8) 4
  batchSeq  : Vector Nat 4
  resume    : List ResumeEntry
  micro     : MicroStore
  sampRes   : Word
  sampBuild : Word
  tags      : List (Nat × CopyTag)
  buffer    : List Entry
  queue     : List PendOp
  seq       : Nat
  saved     : List (Nat × OldValue)
  pending   : List RegName        -- destinations of withheld atomics, taking reads and proposals
  waiting   : Option OpId         -- the operation in a tagged wait (R365)
  remote    : Option RemoteWait
  trap      : Option Held
  fault     : List Held           -- faults of engine operations and of commits to be reported at a boundary (R402, R455, R315)
  commit    : Option CommitReq
  atCkpt    : Bool                -- the boundary before the next bundle has committed
  endCkpt   : Option CommitReq    -- the boundary after the last bundle is forced, and why
  yielded   : Bool
  ppPoint   : Bool                -- the boundary before the next bundle follows a `yield` bundle (R337, R342)
  backPoint : Bool                -- that boundary follows a bundle whose end-of-iteration action sent flow back to START (R342)
  breakOnce : Bool                -- the `break` at the pc acts as nop once (R340)
  released  : Word                -- banks the context has released by `brel` (R28, R289)
  relCkpt   : Word                -- those released at the checkpoint
  giving    : Word                -- banks whose release has committed and that have not passed yet (R289)
  brels     : Word                -- banks whose release the commit in progress has reached (R289, R397 step 4)
  applied   : Bool                -- the commit in progress has performed an atomic or a cell operation (R309)
  paged     : Bool                -- the operation tried last waits for a page of the pool (R402)
  interval  : Nat
  acqTab    : List (BitVec 27 × Nat) -- acquire table: package and core and slot, interval; latest first (R260)
  ckptSeq   : Nat                 -- the number of the first bundle after the checkpoint
  unc       : Nat                 -- UNCORRECTABLE STATE traps at this checkpoint (R418)
  preempt   : Bool                -- pre-emption requested (R413)
  parked    : Bool                -- it has taken its path and waits for its launch to be saved (R413)
  exited    : Bool                -- its `exit` has committed: it issues nothing more (R339)
  intact    : Bool                -- no translation invalidation is to be met by a forced boundary (R376)
  floors    : Vector Nat 80       -- by scope and class: loads of the class return no value older than this to observers of the scope (R238, R242, R254)
  lastRead  : Vector Nat 16       -- by class: the latest write time a load of the class has read (R242)
  seenAt    : List (Place × Nat)  -- the write times read or written at locations (R239)
  entries   : Nat                 -- the accesses that have entered the context's memory order (R236)
  fences    : List (Nat × BitVec 16) -- release and full fences: their place in entry order and their classes (R242)
  relFence  : Vector (Option (Nat × BitVec 3)) 16 -- by class: the interval and scope of the latest release fence (R248, R260)
  acqFence  : List (BitVec 4 × RelRec) -- writes after release fences that loads have read and no acquire fence has taken yet (R248, R260)
  longOp    : Option LongOp       -- a long op in flight (R270, R413)
  longCkpt  : Option LongOp       -- the one in flight at the checkpoint
  deriving DecidableEq, Repr

def LaunchInfo.none : LaunchInfo := ⟨0, 0, 0, 0, 0, 0, 0, 0, 0, 0, 0, false, false⟩
def Image.none : Image := ⟨0, 0, 0, [], [], 0, 0⟩

/-- A launch slot that holds nothing: every field 0 (log 6). -/
def Context.none : Context where
  live := false
  issuable := false
  hold := .no
  info := .none
  image := .none
  regs := .zero
  ckpt := .zero
  shadow := 0
  status := 0
  ckstat := 0
  progidx := 0
  mtmask := 0
  spLo := 0
  spHi := 0
  domain := 0
  stepToken := 0
  partWord := 0
  ctxId := 0
  wallow := Vector.replicate 16 0
  window := Vector.replicate 16 0
  trapRec := Vector.replicate 8 0
  tokSeq := 0
  arrived := Option.none
  serial := 0
  tiles := Vector.replicate 32 .none
  tileCkpt := Vector.replicate 32 TileEntry.none.back
  batch := Vector.replicate 4 0
  batchSeq := Vector.replicate 4 0
  resume := []
  micro := ⟨0, [], [], []⟩
  sampRes := 0
  sampBuild := 0
  tags := []
  buffer := []
  queue := []
  seq := 0
  saved := []
  pending := []
  waiting := Option.none
  remote := Option.none
  trap := Option.none
  fault := []
  commit := Option.none
  atCkpt := true
  endCkpt := Option.none
  yielded := false
  ppPoint := false
  backPoint := false
  breakOnce := false
  released := 0
  relCkpt := 0
  giving := 0
  brels := 0
  applied := false
  paged := false
  interval := 0
  acqTab := []
  ckptSeq := 0
  unc := 0
  preempt := false
  parked := false
  exited := false
  intact := true
  floors := Vector.replicate 80 0
  lastRead := Vector.replicate 16 0
  seenAt := []
  entries := 0
  fences := []
  relFence := Vector.replicate 16 Option.none
  acqFence := []
  longOp := Option.none
  longCkpt := Option.none

/-- A translation held by a core's translation cache (R375, R376): page of 64 KiB, device page, rights and attributes. -/
structure TlbEntry where
  pid   : BitVec 12
  asid  : BitVec 16
  vpage : Nat
  dpage : Nat
  r     : Bool
  w     : Bool
  r1    : Bool
  w1    : Bool
  fattr : BitVec 24
  sealed : Bool
  capPg : Bool
  size  : Nat
  gpa   : Nat
  deriving DecidableEq, Repr

/-- A copy of a decided cell (R323). -/
structure CellCopy where
  place : Place
  gen   : BitVec 32
  bytes : List Byte
  deriving DecidableEq, Repr

end Sys2Proof.Machine
end

