-- ==== Sys2Proof/Machine/State.lean ====
section
/-! DEFINITION. State.lean: the whole machine as plain data: the focused context and core, the other cores, the package, the
host's memory and the pool controller, with the acts that arrive from outside (INVENTORY.md, State). -/
namespace Sys2Proof.Machine

/-- Why the machine stops with a fault: the manual gives every act an effect, so nothing does. -/
inductive Fault where
  deriving DecidableEq, Repr

/-- Why an instruction has no meaning. -/
inductive Refusal where
  /-- Raised by an arm of `exec` whose meaning is not written. Safe: nothing can be proved of the instruction. -/
  | notModelled (mnemonic : String)
  deriving DecidableEq, Repr

/-- A phase record at a domain's home (R356): the phases filled and the arrivals counted for the next. -/
structure PhaseRec where
  level  : BitVec 3
  unit   : BitVec 7
  key    : BitVec 44
  phase  : BitVec 12
  count  : Nat
  filled : Option (BitVec 12)
  deriving DecidableEq, Repr

/-- A drain buffer (R185) with the `tst` that holds it: whether the accumulator is still being read (DRAINING, R183), and the
rows for a pool page or host memory, held until the next checkpoint commits. -/
structure Drain where
  slot    : Bool
  op      : OpId
  acc     : Nat
  reading : Bool
  held    : Bool
  rows    : List (List (Place × Option Byte))
  cls     : BitVec 4
  ser     : Nat
  deriving DecidableEq, Repr

/-- A block that `macq` started (R196, R199): its issue cycle, the distance to the port, and for each output element of the
micro-tile its cell number, the sum P and the scales of its row's and its column's group. -/
structure FoldBlock where
  cycle : Nat
  lag   : Nat
  sums  : List (Nat × Int × Nat × Nat)
  deriving DecidableEq, Repr

/-- How far a sampling block has come (R217). -/
inductive BlockStage where
  | none | drawn | gathered
  deriving DecidableEq, Repr

/-- What a SAMPLE call's run holds (R214 to R221): Q and the bounds of the sample count, the samples so far, the block's stage, its
drawn categories, its slabs (rows of a′ by sample and of b′ by sample), each probe's count, mean and M2, the sample sums by cell,
RELERR, and REASON with 0 for none yet; with them the category count of the last `draw`, and RELERR of each `stoptest` of the run. -/
structure SampRun where
  q      : Nat
  smin   : Nat
  smax   : Nat
  n      : Nat
  stage  : BlockStage
  mac    : Bool
  probe  : Bool
  ks     : List Nat
  slabA  : List (List Nat)
  slabB  : List (List Nat)
  probes : List (Nat × Nat × Nat)
  count  : Nat                        -- probes of the last `probe`
  sums   : List (Nat × Nat)
  relerr : Option Nat
  reason : Nat
  cats   : Nat
  tests  : List Nat
  deriving DecidableEq, Repr

/-- The micro-sequencer at work on a record (R198 to R202): the state of R200 for one micro-tile's run of the routine, with the
cycle count and the cycle at which the array is free (R199), the words a `skipz` still skips, the micro-tile's new elements by
cell, the norm vectors to be written, and how the run ended. -/
structure MicroRun where
  mrec   : MRecord
  mpc    : Nat
  w      : Vector (BitVec 32) 16
  cycle  : Nat
  busy   : Nat
  acur   : Nat
  loops  : List (Nat × Nat × Nat)     -- innermost first: start, end, iterations left
  winA   : Option (Nat × Nat)
  winB   : Option (Nat × Nat)
  rowOff : Nat
  colOff : Nat
  blocks : List FoldBlock
  paired : Nat
  skip   : Nat
  part   : List (Nat × Nat)
  norms  : List (Nat × List Byte)
  samp   : Option SampRun
  atEnd  : Bool
  fault  : Option TrapInfo
  deriving DecidableEq, Repr

/-- What one core holds beside its two contexts. -/
structure CoreSt where
  ram     : Memory
  full    : NatSet
  poison  : NatSet                    -- poisoned bytes of the scratchpad, accumulators among them (R418)
  owner   : Vector (Option Bool) 64
  current : Bool
  engine  : List MRecord
  run     : Option MicroRun
  drains  : List Drain
  recvq   : List RemoteWrite
  consider : Bool                    -- a queue of the cluster has become empty, and this empty engine considers migration (R363)
  evSeq   : BitVec 32
  tlb     : List TlbEntry
  l1      : NatSet
  cells   : List CellCopy
  race    : List (Nat × RaceRec)
  rel     : List (Nat × RelRec)
  deriving DecidableEq, Repr

def CoreSt.none : CoreSt where
  ram := []
  full := []
  poison := []
  owner := Vector.replicate 64 Option.none
  current := false
  engine := []
  run := Option.none
  drains := []
  recvq := []
  consider := false
  evSeq := 0
  tlb := []
  l1 := []
  cells := []
  race := []
  rel := []

/-- A core away from the focus: its shared part and its contexts in slots 0 and 1. -/
structure CoreBox where
  core : CoreSt
  ctx0 : Context
  ctx1 : Context
  deriving DecidableEq, Repr

def CoreBox.none : CoreBox := ⟨.none, .none, .none⟩

/-- Where a launch stands (R345 to R353, R413, R256, R257). -/
inductive LaunchSt where
  | accepted | loading | resident | saved | flushing
  deriving DecidableEq, Repr

/-- A launch the command processor has accepted: the record's 128 bytes, its partition and mailbox, its arrival number, where it
is placed (core and slot of each context in INDEX order), the cores it has completed on, what ends it, its segment's header as it was
verified (R352, R383), and the code blocks that it has verified (R57, R58). -/
structure Launch where
  bytes   : List Byte
  part    : Nat
  asid    : BitVec 16
  sched   : Bool
  seq     : Nat
  st      : LaunchSt
  place   : List (BitVec 7 × Bool)
  done    : List (BitVec 7)
  digest  : List Byte
  header  : List Byte
  blocks  : List (Nat × Block)
  pinned  : Bool                     -- a restored launch returns only to its own cores (R353)
  serials : List (BitVec 7 × Nat)    -- the serials of its live saves, by core (R414)
  cancelled : Bool
  preempt : Bool
  deriving DecidableEq, Repr

/-- A saved context (Table 16.8): the context, its core, its slot, its banks with their bytes and full bits, its engine
records, the serial of the save. -/
structure SavedCtx where
  launchId : BitVec 32
  part   : Nat
  core   : BitVec 7
  slot   : Bool
  ctx    : Context
  banks  : List Nat
  ram    : Memory
  full   : NatSet
  engine : List MRecord
  serial : Nat
  stack  : Nat                       -- the stack whose spare region holds the image (R10, R414)
  base   : Option Nat                -- the device address of the image there, and its units of 64 KiB; none where the share has no room
  units  : Nat
  bad    : Bool                      -- an uncorrectable error lies in an image without an address, or in a bank that it saves (R415)
  deriving DecidableEq, Repr

/-- An arrival log (R416, R417) of a context that is saved or not yet resident. -/
structure ArrivalLog where
  launchId : BitVec 32
  part   : Nat
  core   : BitVec 7
  stack  : Nat                       -- the stack whose spare region holds the log (R10, R416)
  base   : Option Nat                -- its device address there; none where the share has no room
  first  : Nat                       -- the number of its first entry
  writes : List RemoteWrite
  deriving DecidableEq, Repr

/-- A completion record on its way to a mailbox's ring (R347, R446), with the event records of its launch's cores that come before it
(R19). -/
structure HeldCmpl where
  mbox   : Nat
  record : List Byte
  after  : List (Nat × List Byte)
  part   : Nat
  deriving DecidableEq, Repr

/-- A partition's scheduler (R349 to R351): DC, the next arrival number, RES with RSET, the run of R351, and the events that a
dispatch decision is still to answer. -/
structure Sched where
  dc   : BitVec 32
  seq  : Nat
  res  : Option (BitVec 32 × List (BitVec 7))
  first : Option (BitVec 32 × Nat)
  due  : Nat
  deriving DecidableEq, Repr

/-- One range of a step record (Table 14.6). -/
structure Range where
  cap   : BitVec 128
  page  : BitVec 32
  count : Nat
  write : Bool
  deriving DecidableEq, Repr

/-- A step record read from the schedule (Table 14.6). -/
structure StepRec where
  step  : Word
  gen   : BitVec 32
  cellGen : BitVec 32
  launches : List (List Byte)
  ranges : List Range
  next  : Word
  at_   : Word
  cellOff : Word
  cellCap : BitVec 128
  deriving DecidableEq, Repr

/-- A step attempt at work (R360, R430 to R433): its record, whether its launches have been accepted, and the STEPTOKEN values of
those (R314). -/
structure Attempt where
  record  : StepRec
  opened  : Bool
  tokens  : List Word
  deriving DecidableEq, Repr

/-- A partition's schedule (R359): capability, the offsets of the record to be read next and of the one read last, the current attempt,
the records read ahead, the pages still to be got for them (capability, page, step; R360, R361), and the replacement. -/
structure Schedule where
  cap     : BitVec 128
  next    : Option Word
  last    : Option Word
  current : Option Attempt
  ahead   : List StepRec
  gets    : List (BitVec 128 × BitVec 32 × Word)
  replace : Option (BitVec 128 × Word)
  deriving DecidableEq, Repr

/-- Lease states of a pool-cache page (Table 17.2). -/
inductive LeaseSt where
  | rpend | read | wpend | write
  deriving DecidableEq, Repr

/-- A pool-cache page's lease (R423): deadline D, generation, the step attempt of a write lease (partition and step), the steps it has been
taken for, with none for a demand of no step (R360, R421), whether its bytes have arrived. -/
structure Lease where
  obj   : BitVec 48
  page  : BitVec 32
  st    : LeaseSt
  d     : Nat
  gen   : BitVec 32
  owner : Option (Nat × Word)
  users : List (Option (Nat × Word))
  part  : Nat := 0                   -- the partition whose tenancy key its requests carry (R379)
  attr  : Option (BitVec 24 × Bool × Bool) := none -- the page's copies of FATTR, SEALED and CAPPG, once its bytes are here (R426)
  get   : Bool := true               -- its bytes are fetched: they have been asked for (R441)
  here  : Bool := false
  ask   : Bool := false              -- a renewal has been sent
  leave : Bool := false              -- it is released once every put of the page has been answered (Table 17.2)
  demand : Bool := false             -- an access waits for it, not the Proofer alone (R361)
  deriving DecidableEq, Repr

/-- A lease is taken for one more user. -/
def Lease.use (l : Lease) (u : Option (Nat × Word)) (demand : Bool) : Lease :=
  { l with users := if l.users.elem u then l.users else u :: l.users, demand := l.demand || demand }

/-- A put on its way to the pool (R428). -/
structure Put where
  obj   : BitVec 48
  off   : Nat
  data  : List (Option Byte)         -- none where no store has written the byte
  gen   : BitVec 32
  stamp : Nat
  part  : Nat
  copy  : Option (BitVec 32 × BitVec 7 × BitVec 6 × Nat) := none -- of a copy command's put: its launch, core, tag and bundle (R246, R293)
  ver   : Option (BitVec 8 × BitVec 32) := none -- the last put of a sealed page: the entry its page gets (R386)
  deriving DecidableEq, Repr

/-- A key slot's kinds (R384). -/
inductive KeyKind where
  | xts | gcm | link
  deriving DecidableEq, Repr

/-- A lane of a strand (R437): active, waiting to retrain, in background retraining with its failed tries, out. -/
inductive LaneSt where
  | active | waiting | retraining (fails : Nat) | out
  deriving DecidableEq, Repr

/-- A strand (R437): in service or not, and its eight lanes. -/
structure Strand where
  up    : Bool
  lanes : Vector LaneSt 8
  deriving DecidableEq, Repr

/-- One direction of a link (R434 to R438): as a sender its next SEQ, the payloads that wait to be sent, those kept for replay from
the oldest with their SEQ, and the SEQ that a replay in progress began at; as a receiver the next SEQ expected. Outbound sends,
inbound receives. -/
structure LinkDir where
  nextSeq : BitVec 12
  queue   : List (List Byte)
  kept    : List (BitVec 12 × List Byte)
  replay  : Option (BitVec 12)
  expect  : BitVec 12
  strand  : Vector Strand 2
  evSeq   : BitVec 32
  deriving DecidableEq, Repr

def Strand.full : Strand := ⟨true, Vector.replicate 8 .active⟩
def LinkDir.fresh : LinkDir := ⟨0, [], [], none, 0, Vector.replicate 2 .full, 0⟩

/-- A link: both directions, whether it is lost (R438), the payloads its receiver has delivered, oldest first, and the flit
that the last NAK it sent names. -/
structure Link where
  outw : LinkDir
  inw  : LinkDir
  lost : Bool
  delivered : List (List Byte)
  nak  : Option (BitVec 12)
  deriving DecidableEq, Repr

def Link.fresh : Link := ⟨.fresh, .fresh, false, [], none⟩

/-- TDISP states of a partition's interface (R394). -/
inductive TdiSt where
  | unlocked | locked | run | error
  deriving DecidableEq, Repr

/-- An SPDM session (R389, R391): its id, whether FINISH has completed, the partition it owns, its keys' generation. -/
structure Session where
  id     : BitVec 32
  open_  : Bool
  owns   : Option (BitVec 12)
  secret : List Byte
  transcript : List Byte
  deriving DecidableEq, Repr

/-- The SPDM responder (R389 to R392). -/
structure Spdm where
  version  : Bool
  caps     : Bool
  algs     : Bool
  transcript : List Byte
  sessions : List Session
  nextId   : Nat
  certs    : Vector (List Byte) 8
  gens     : Vector (BitVec 32) 8
  chunkIn  : Option (BitVec 16 × List Byte)
  chunkOut : Option (BitVec 16 × List Byte)
  ide      : List (BitVec 8 × List Byte)
  answer   : List Byte               -- the last response sent
  fw       : List Byte               -- the firmware's measurement (R443, stage 2)
  deriving DecidableEq, Repr

/-- A near cache's sector state other than I (Table 10.2). -/
inductive NearSt where
  | shared | exclusive | modified
  deriving DecidableEq, Repr

/-- A sector of HBM in the near cache of a core (R233, R234), with the version of its grant. -/
structure NearSector where
  core   : BitVec 7
  sector : Nat
  st     : NearSt
  ver    : BitVec 16
  deriving DecidableEq, Repr

/-- A write-back on its way to a sector's home (R234): the holder that evicted it, the version of its grant, its bytes. -/
structure WriteBack where
  core   : BitVec 7
  sector : Nat
  ver    : BitVec 16
  data   : List Byte
  deriving DecidableEq, Repr

/-- A byte that a write has replaced at its home (R249, R251): its location, what stood there, when the write performed, and who made
it, with none for the host, another package or the pool. -/
structure OldByte where
  loc  : Place
  byte : Byte
  at_  : Nat
  who  : Option Agent
  deriving DecidableEq, Repr

/-- A decided cell that its home is clearing (R319): the first byte of the cell, its bytes before, and the clock at which it is OPEN. -/
structure Clearing where
  base : Nat
  old  : List Byte
  till : Nat
  deriving DecidableEq, Repr

/-- A multicast group registered with the fabric switches (R47): its key and its targets (package, core, BASE and SIZE in bytes). -/
structure McGroup where
  pid     : BitVec 12
  crew    : BitVec 32
  index   : BitVec 4
  targets : List (BitVec 19 × BitVec 7 × Nat × Nat)
  deriving DecidableEq, Repr

/-- A dictionary resident in a cluster's store (R52, R352), named by its header's digest. -/
structure DictEntry where
  cluster : Nat
  digest  : List Byte
  words   : List (BitVec 384)
  deriving DecidableEq, Repr

/-- A cancellation that a NONFINITE trap asks for (R364): partition, token, the raiser's launch and trap record. -/
structure CancelReq where
  part   : Nat
  token  : BitVec 32
  launch : BitVec 32
  trap   : Word × Word
  deriving DecidableEq, Repr

/-- What comes back to the sender of a remote access (R44, R45): an acceptance, REMOTE_BOUND, or the bytes read. -/
inductive AckKind where
  | accepted | bound | data (d : List Byte)
  deriving DecidableEq, Repr

/-- An answer on its way to a sender: its package, core, slot, window and launch. -/
structure RemoteAck where
  pkg    : BitVec 19
  core   : BitVec 7
  slot   : Bool
  window : BitVec 4
  launch : BitVec 32
  what   : AckKind
  src    : BitVec 32 × Nat × Word := (0, 7, 0) -- of the write it answers: what a trap record names (R404)
  cipher : Option (List Byte × List Byte × List Byte) := none -- of data for another package, from a confidential context: initialisation
                                     -- vector, ciphertext and tag (R388)
  deriving DecidableEq, Repr

/-- What the package holds beside its cores. -/
structure Package where
  hbm      : Memory
  lineVer  : List (Nat × BitVec 16)
  near     : List NearSector
  wbacks   : List WriteBack           -- write-backs on their way home (R234)
  hist     : List OldByte             -- replaced bytes that a load not ordered after the write may still return (R249), oldest first
  decSeq   : BitVec 32
  clearing : List Clearing            -- cells of package memory that their home is clearing (R319)
  retiring : List ((Nat × Word) × List Word) -- STEPTOKEN values of a decided step, by partition and step, while it still has write leases (R314)
  tenancy  : Vector Word 8            -- each partition's tenancy key (R379)
  limits   : BitVec 4 × BitVec 4      -- the clock steps that power and temperature allow (R449)
  cells    : List CellCopy            -- copies of decided pool cells in the pool cache (R323)
  race     : List (Nat × RaceRec)
  rel      : List (Nat × RelRec)
  losses   : List (Nat × LossCause)   -- step attempts to be declared lost, by partition (R430)
  poison   : NatSet                   -- poisoned bytes of HBM (R418)
  shape    : Word
  num      : BitVec 19
  regs     : List (Nat × Word)        -- housekeeping registers by offset (R445)
  mboxOpen : BitVec 16
  evtProd  : Vector (BitVec 32) 8
  events   : List (Nat × List Byte)   -- event records waiting for their ring, by partition
  parts    : Vector (Option PartDesc) 8
  sched    : Vector Sched 8
  schedule : Vector (Option Schedule) 8
  launches : List Launch
  saved    : List SavedCtx
  logs     : List ArrivalLog
  saveSerial : Nat
  headers  : List (Nat × List Byte)   -- verified segment headers, by partition and digest
  dicts    : List DictEntry
  cancels  : List CancelReq
  cpSeq    : BitVec 32
  cmpl     : List HeldCmpl            -- completion records held for room in their ring (R446), or for an event record before them (R19)
  stackSeq : List (Nat × BitVec 32)
  telSeq   : List (Nat × BitVec 32)
  stopped  : Bool
  phases   : List PhaseRec
  groups   : List McGroup
  leases   : List Lease
  cache    : Memory                   -- the pool cache's bytes, keyed as the pool's
  puts     : List Put
  now      : Nat
  wire     : List RemoteWrite         -- remote writes on their way to a core of this package
  sent     : List RemoteWrite         -- remote writes and requests sent to other packages
  accepted : List RemoteWrite         -- posted writes that another package has accepted and not yet performed (R244)
  acks     : List RemoteAck           -- answers on their way to senders of this package
  answers  : List RemoteAck           -- answers sent to other packages
  requests : List RemoteReq           -- remote reads of other packages that wait at this one
  gone     : List (BitVec 12 × BitVec 32 × BitVec 7) -- partition, crew, core of a discarded arrival log (R417)
  links    : Vector Link 32
  keys     : List (Nat × (KeyKind × List Byte))
  sealVer  : List (Nat × (BitVec 8 × BitVec 32)) -- of the page `n`, in the spare region of the stack that holds it (R10, R386)
  sealBad  : NatSet                   -- pages whose entry fails its tag (R386)
  saveKey  : List Byte                -- the package save key (R414)
  tdi      : Vector TdiSt 8
  frozen   : List (Nat × List Byte)   -- signer key tables as they were locked, by partition (R394)
  broken   : BitVec 8                 -- partitions whose frozen signer key table a write has met (R394)
  spdm     : Spdm
  gated    : BitVec 32
  atsOk    : NatSet                   -- host pages, by partition, that the host has granted and not invalidated (R395)
  atsWait  : List (BitVec 12 × Nat)   -- host pages, by partition, whose invalidation has not completed (R395)
  corrected : Nat
  inval    : BitVec 8                -- partitions whose invalidation command has dropped its entries and waits (R376)
  deriving DecidableEq, Repr

/-- A pool object's descriptor (R379). `stash` says that its pages are backed each at its first write, not at creation (Table 17.1). -/
structure PoolObj where
  pages    : Nat
  fattr    : BitVec 24
  tenant   : Word
  sealed   : Bool
  capPg    : Bool
  homeOnly : Bool
  stash    : Bool := false
  deriving DecidableEq, Repr

/-- A pool page's state (Table 17.3): holders with their expiry. -/
inductive PoolPageSt where
  | free
  | shared (holders : List (BitVec 19 × Nat))
  | writing (pkg : BitVec 19) (gen : BitVec 32) (e : Nat)
  deriving DecidableEq, Repr

/-- A pool page (R422, R424): its state, FGEN, and the write-lease requests that wait for it, the earliest first. -/
structure PoolPage where
  st     : PoolPageSt
  fgen   : BitVec 32
  queued : List (BitVec 19 × BitVec 32)
  deriving DecidableEq, Repr

/-- An entry of the token table (R314). -/
structure TokenEntry where
  key  : TokenKey
  obj  : BitVec 48
  off  : Nat
  code : Nat                          -- the opcode
  dbl  : Bool
  old  : Word
  deriving DecidableEq, Repr

/-- The pool controller (R314, R319, R379, R386, R422 to R425). -/
structure Pool where
  objs    : List (Nat × PoolObj)
  bytes   : Memory
  noRoom  : NatSet                    -- STASH pages the pool has no room to back
  backed  : NatSet
  pages   : List (Nat × PoolPage)
  tokens  : List TokenEntry
  retired : List Word
  decSeq  : BitVec 32
  sealVer : List (Nat × (BitVec 8 × BitVec 32))
  clearing : List Clearing            -- by the pool's key (R319)
  holds   : List (Nat × BitVec 19)    -- pages whose entry a package's `xseal` holds (R386)
  deriving DecidableEq, Repr

/-- One act: which core and slot it is about, what happens, and for an operation of a slot queue which one it is. -/
structure Act where
  core  : BitVec 7
  slot  : Bool
  instr : Instr
  op    : Option PendOp
  arg   : EventData := noEventData
  deriving DecidableEq, Repr

/-- The whole machine. The context and core in focus stand apart from the others, so that an act reads and writes them
directly; `Machine/Ops.lean` moves the focus. -/
structure State where
  ctx     : Context
  peer    : Context
  core    : CoreSt
  coreNum : BitVec 7
  slotNum : Bool
  cores   : List (Nat × CoreBox)
  pkg     : Package
  host    : Memory
  pool    : Pool
  cur     : Option PendOp
  arg     : EventData
  inbox   : List Act
  clock   : Nat
  deriving DecidableEq, Repr

/-- Table 1.5 for a part that lacks nothing (log 5). -/
def Package.fullShape : Word := 0xFFFFFFFF00081010

def Spdm.reset : Spdm := ⟨false, false, false, [], [], 1, Vector.replicate 8 [], Vector.replicate 8 0, none, none, [], [], []⟩

/-- Registers of Table 20.3 with a reset value: CLKCAP (log 6), PROOFDEPTH, PREEMPTWAIT, ARRLOGSIZE, THRESH of every LINKCTL. -/
def Package.regsReset : List (Nat × Word) :=
  [(0x18, 9), (0x30, 2), (0x38, 36000), (0x40, 4096)] ++ (natRange 0 32).map fun i => (0x100 + 8 * i, 2048)

/-- The package right after a package reset starts (R443 to R445, R349, R359, R437). -/
def Package.reset : Package where
  hbm := []
  lineVer := []
  near := []
  wbacks := []
  hist := []
  decSeq := 0
  clearing := []
  retiring := []
  tenancy := Vector.replicate 8 0
  limits := (9, 9)
  cells := []
  race := []
  rel := []
  losses := []
  poison := []
  shape := Package.fullShape
  num := 0
  regs := Package.regsReset
  mboxOpen := 0
  evtProd := Vector.replicate 8 0
  events := []
  parts := Vector.replicate 8 none
  sched := Vector.replicate 8 ⟨0, 0, none, none, 0⟩
  schedule := Vector.replicate 8 none
  launches := []
  saved := []
  logs := []
  saveSerial := 0
  headers := []
  dicts := []
  cancels := []
  cpSeq := 0
  cmpl := []
  stackSeq := []
  telSeq := []
  stopped := false
  phases := []
  groups := []
  leases := []
  cache := []
  puts := []
  now := 0
  wire := []
  sent := []
  accepted := []
  acks := []
  answers := []
  requests := []
  gone := []
  links := Vector.replicate 32 .fresh
  keys := []
  sealVer := []
  sealBad := []
  saveKey := []
  tdi := Vector.replicate 8 .unlocked
  frozen := []
  broken := 0
  spdm := .reset
  gated := 0
  atsOk := []
  atsWait := []
  corrected := 0
  inval := 0

def Pool.reset : Pool := ⟨[], [], [], [], [], [], [], 0, [], [], []⟩

/-- The machine right after a package reset (R443, R445); every value the manual does not give is named in log 6. -/
def State.reset : State where
  ctx := .none
  peer := .none
  core := .none
  coreNum := 0
  slotNum := false
  cores := []
  pkg := .reset
  host := []
  pool := .reset
  cur := none
  arg := noEventData
  inbox := []
  clock := 0

end Sys2Proof.Machine
end

