-- ==== Sys2Proof/Machine/Ops.lean ====
section
/-! DEFINITION. Ops.lean: the named operations over the state: the focus, the registers with the reads-before-writes order
of R36, the places of memory, and raising a trap (R402). -/
namespace Sys2Proof.Machine

/-- Every meaning answers this. -/
abbrev Out := Host.Outcome State Fault Refusal

/-! ### Focus -/

/-- The box of the core in focus, its contexts in slot order. -/
def State.box (s : State) : CoreBox :=
  if s.slotNum then ⟨s.core, s.peer, s.ctx⟩ else ⟨s.core, s.ctx, s.peer⟩

/-- The box of any core. -/
def State.boxOf (s : State) (c : BitVec 7) : CoreBox :=
  if c = s.coreNum then s.box else tabGet .none s.cores c.toNat

/-- The context in a slot of a core. -/
def State.ctxOf (s : State) (c : BitVec 7) (sl : Bool) : Context :=
  if sl then (s.boxOf c).ctx1 else (s.boxOf c).ctx0

/-- Move the focus. -/
def State.focus (s : State) (c : BitVec 7) (sl : Bool) : State :=
  if c = s.coreNum then
    if sl = s.slotNum then s else { s with ctx := s.peer, peer := s.ctx, slotNum := sl }
  else
    let b := tabGet .none s.cores c.toNat
    let cs := tabSet (tabDel s.cores c.toNat) s.coreNum.toNat s.box
    { s with ctx := if sl then b.ctx1 else b.ctx0, peer := if sl then b.ctx0 else b.ctx1, core := b.core,
             coreNum := c, slotNum := sl, cores := cs }

/-- Do something at another core and slot, and come back. -/
def State.at_ (s : State) (c : BitVec 7) (sl : Bool) (f : State → State) : State :=
  (f (s.focus c sl)).focus s.coreNum s.slotNum

/-- The cores that have held something: the one in focus and those of the table. -/
def State.coreList (s : State) : List (BitVec 7) := s.coreNum :: s.cores.map fun c => BitVec.ofNat 7 c.1

/-- Every live context with its core and slot. -/
def State.contexts (s : State) : List (BitVec 7 × Bool × Context) :=
  (s.coreList.flatMap fun c => [(c, false, s.ctxOf c false), (c, true, s.ctxOf c true)]).filter (·.2.2.live)

def State.mapCtx (s : State) (f : Context → Context) : State := { s with ctx := f s.ctx }
def State.mapCore (s : State) (f : CoreSt → CoreSt) : State := { s with core := f s.core }
def State.mapPkg (s : State) (f : Package → Package) : State := { s with pkg := f s.pkg }
def State.mapRegs (s : State) (f : Regs → Regs) : State := { s with ctx := { s.ctx with regs := f s.ctx.regs } }

/-! ### Fields of records -/

def bits (x : Nat) (hi lo : Nat) : Nat := bitsOf x hi lo

/-- A field of a word, as a number. -/
def wbits {w : Nat} (x : BitVec w) (hi lo : Nat) : Nat := bitsOf x.toNat hi lo

/-- Put a number into a field of a word. -/
def setBits {w : Nat} (x : BitVec w) (hi lo : Nat) (v : Nat) : BitVec w :=
  let m := BitVec.ofNat w ((2 ^ (hi + 1 - lo) - 1) <<< lo)
  (x &&& ~~~m) ||| (BitVec.ofNat w (v <<< lo) &&& m)

/-- INDEX, COUNT, SLOT and CORE of CTXID (Table 2.1). -/
def Context.index (c : Context) : BitVec 7 := BitVec.ofNat 7 (wbits c.ctxId 22 16)
/-- PHASE, MEMBERS, INDEX, KIND, LEVEL of DOMAIN (Table 2.6). -/
def Context.phase (c : Context) : BitVec 12 := BitVec.ofNat 12 (wbits c.domain 63 52)
def Context.members (c : Context) : Nat := wbits c.domain 51 28
def Context.level (c : Context) : BitVec 3 := BitVec.ofNat 3 (wbits c.domain 2 0)
/-- ACCBANKS and DONOR of PARTWORD (Table 2.2). -/
def Context.accBanks (c : Context) : Nat := wbits c.partWord 4 0
def Context.donor (c : Context) : Nat := wbits c.partWord 12 8

/-- The single-step and debug bits of STATUS (Table 16.6). -/
def Context.stepping (c : Context) : Bool := c.status.getLsbD 4
def Context.debug (c : Context) : Bool := c.status.getLsbD 3
def Context.conf (c : Context) : Bool := c.status.getLsbD 5

/-! ### Registers -/

def OldValue.name : OldValue → RegName
  | .s r _ => .s r | .p r _ => .p r | .v r _ => .v r | .k r _ => .k r | .c r _ => .c r | .t r _ => .t r
  | .q r _ => .q r | .mp r _ => .mp r | .mask _ _ => .mask | .sys n _ => .sys n

/-- The value the operation at work has to read although an operation of its bundle has written the register since (R36). -/
def State.old (s : State) {α : Type} (f : OldValue → Option α) : Option α :=
  match s.cur with
  | none => none
  | some o => s.ctx.saved.findSome? fun e => if e.1 = o.id.seq then f e.2 else none

/-- Keep the old value of a register for the operations of the same bundle that have not dispatched (R36). -/
def State.keep (s : State) (x : OldValue) : State :=
  match s.cur with
  | none => s
  | some o =>
    if s.ctx.queue.any (fun p => p.id.seq == o.id.seq)
        && !(s.ctx.saved.any fun e => e.1 == o.id.seq && e.2.name == x.name) then
      { s with ctx := { s.ctx with saved := (o.id.seq, x) :: s.ctx.saved } }
    else s

/-- s0 reads zero (Table 2.4). -/
def State.readS (s : State) (r : SReg) : Word :=
  if r = 0 then 0
  else (s.old fun | .s r' x => if r' = r then some x else none | _ => none).getD (s.ctx.regs.s[r.toNat]'r.isLt)

/-- s0 ignores writes (Table 2.4, R68). -/
def State.writeS (s : State) (r : SReg) (x : Word) : State :=
  if r = 0 then s
  else
    let s := s.keep (.s r (s.ctx.regs.s[r.toNat]'r.isLt))
    s.mapRegs fun g => { g with s := g.s.set r.toNat x r.isLt }

/-- p0 reads true (Table 2.4). -/
def State.readP (s : State) (r : PReg) : Bool :=
  if r = 0 then true
  else (s.old fun | .p r' x => if r' = r then some x else none | _ => none).getD (s.ctx.regs.p.getLsbD r.toNat)

def State.writeP (s : State) (r : PReg) (x : Bool) : State :=
  if r = 0 then s
  else
    let s := s.keep (.p r (s.ctx.regs.p.getLsbD r.toNat))
    s.mapRegs fun g => { g with p := setBits g.p r.toNat r.toNat x.toNat }

def State.readV (s : State) (r : VReg) : Vec :=
  (s.old fun | .v r' x => if r' = r then some x else none | _ => none).getD (s.ctx.regs.v[r.toNat]'r.isLt)

/-- The first write since the checkpoint sets the shadow bit (R398); the copy is in the duplicate. -/
def State.writeV (s : State) (r : VReg) (x : Vec) : State :=
  let s := s.keep (.v r (s.ctx.regs.v[r.toNat]'r.isLt))
  let s := s.mapRegs fun g => { g with v := g.v.set r.toNat x r.isLt }
  s.mapCtx fun c => { c with shadow := c.shadow ||| (1 <<< r.toNat) }

/-- k0 reads all ones (Table 2.4). -/
def State.readK (s : State) (r : KReg) : Word :=
  if r = 0 then BitVec.allOnes 64
  else (s.old fun | .k r' x => if r' = r then some x else none | _ => none).getD (s.ctx.regs.k[r.toNat]'r.isLt)

def State.writeK (s : State) (r : KReg) (x : Word) : State :=
  if r = 0 then s
  else
    let s := s.keep (.k r (s.ctx.regs.k[r.toNat]'r.isLt))
    s.mapRegs fun g => { g with k := g.k.set r.toNat x r.isLt }

/-- c0 is the null capability (R377, R378). -/
def State.readC (s : State) (r : CReg) : BitVec 128 :=
  if r = 0 then 0
  else (s.old fun | .c r' x => if r' = r then some x else none | _ => none).getD (s.ctx.regs.c[r.toNat]'r.isLt)

def State.writeC (s : State) (r : CReg) (x : BitVec 128) : State :=
  if r = 0 then s
  else
    let s := s.keep (.c r (s.ctx.regs.c[r.toNat]'r.isLt))
    s.mapRegs fun g => { g with c := g.c.set r.toNat x r.isLt }

def State.readT (s : State) (r : TReg) : BitVec 256 :=
  (s.old fun | .t r' x => if r' = r then some x else none | _ => none).getD (s.ctx.regs.t[r.toNat]'r.isLt)

def State.writeT (s : State) (r : TReg) (x : BitVec 256) : State :=
  let s := s.keep (.t r (s.ctx.regs.t[r.toNat]'r.isLt))
  s.mapRegs fun g => { g with t := g.t.set r.toNat x r.isLt }

def State.readQ (s : State) (r : QReg) : BitVec 128 :=
  (s.old fun | .q r' x => if r' = r then some x else none | _ => none).getD (s.ctx.regs.q[r.toNat]'r.isLt)

def State.writeQ (s : State) (r : QReg) (x : BitVec 128) : State :=
  let s := s.keep (.q r (s.ctx.regs.q[r.toNat]'r.isLt))
  s.mapRegs fun g => { g with q := g.q.set r.toNat x r.isLt }

def State.readMp (s : State) (r : MpReg) : Word :=
  (s.old fun | .mp r' x => if r' = r then some x else none | _ => none).getD (s.ctx.regs.mp[r.toNat]'r.isLt)

def State.writeMp (s : State) (r : MpReg) (x : Word) : State :=
  let s := s.keep (.mp r (s.ctx.regs.mp[r.toNat]'r.isLt))
  s.mapRegs fun g => { g with mp := g.mp.set r.toNat x r.isLt }

/-- The mask stack and its depth as the operation at work reads them: those from before its own bundle where that
bundle has dispatched a mask-stack instruction, else those of its dispatch (R38, R156). -/
def State.maskStack (s : State) : Vector Word 16 × BitVec 5 :=
  (s.old fun | .mask m d => some (m, d) | _ => none).getD (s.ctx.regs.mstk, s.ctx.regs.mdep)

/-- An entry of a mask stack; entry 0 is the lowest. -/
def maskAt (m : Vector Word 16) (i : Nat) : Word := m.toList.getD i 0

/-- The top of the mask stack, the execution mask (R154). -/
def State.maskTop (s : State) : Word := maskAt s.maskStack.1 (s.maskStack.2.toNat - 1)

def State.writeMask (s : State) (m : Vector Word 16) (d : BitVec 5) : State :=
  let s := s.keep (.mask s.ctx.regs.mstk s.ctx.regs.mdep)
  s.mapRegs fun g => { g with mstk := m, mdep := d }

/-- A writable system register as it stands. -/
def Regs.sys (g : Regs) (n : BitVec 12) : Word :=
  match n.toNat with
  | 0x007 => g.fpctl
  | 0x008 => g.racectl
  | 0x009 => g.seed
  | _ => g.waitlimit

/-- A writable system register as the operation at work is governed by it: with the value from before a `syswr` of its own bundle
(R122, R133). -/
def State.readSys (s : State) (n : BitVec 12) : Word :=
  (s.old fun | .sys m x => if m = n then some x else none | _ => none).getD (s.ctx.regs.sys n)

/-- FPCTL as the operation at work reads it (R122). -/
def State.readFpctl (s : State) : Word := s.readSys 0x007

/-- Whether the predicate of an operation holds (R61). -/
def State.holds (s : State) (q : Pred) : Bool := s.readP q.idx != q.neg

/-- An operation whose predicate is false changes no state and raises no execution trap (R61). -/
def State.under (s : State) (q : Pred) (f : State → State) : Out := .next (if s.holds q then f s else s)

/-! ### Traps, waits and boundaries -/

/-- The code by which R404 names a slot. -/
def slotCode : Slot → Nat := Slot.toNat

/-- Hold a trap unless one of an earlier operation is held (R402). -/
def State.hold (s : State) (h : Held) : State :=
  match s.ctx.trap with
  | none => { s with ctx := { s.ctx with trap := some h } }
  | some o => if h.seq < o.seq || (h.seq == o.seq && h.rank < o.rank) then { s with ctx := { s.ctx with trap := some h } } else s

/-- UNCORRECTABLE in the context in focus: 1 STATE, 2 DATA (R418). -/
def State.uncorrectable (s : State) (sub : Nat) : State :=
  if s.ctx.live then s.hold ⟨s.ctx.seq, 0, s.ctx.regs.pc, false, false, 7, s.coreNum, { code := 0x40, sub := sub }⟩ else s

/-- Put an operation back at its place in the queues. -/
def putBack (o : PendOp) : List PendOp → List PendOp
  | [] => [o]
  | p :: l =>
    if o.id.seq < p.id.seq || (o.id.seq == p.id.seq && o.id.slot.toNat ≤ p.id.slot.toNat) then o :: p :: l
    else p :: putBack o l

/-- The operation at work does not dispatch yet: it waits, in a tagged wait of R365 or in a stall. -/
def State.block (s : State) (tagged : Bool) : State :=
  match s.cur with
  | none => s
  | some o => { s with ctx := { s.ctx with queue := putBack o s.ctx.queue,
                                           waiting := if tagged then some o.id else s.ctx.waiting } }

/-- A fault of a finished operation, to be reported at the next boundary (R402, R455, R315); the earliest dispatched first. -/
def State.report (s : State) (id : OpId) (i : TrapInfo) : State :=
  { s with ctx := { s.ctx with fault := s.ctx.fault ++ [⟨id.seq, 0, id.pc, true, false, slotCode id.slot, s.coreNum, i⟩] } }

/-- A fault found after the write that caused it was released: KEPT, with no rollback (R405, R454). -/
def State.reportKept (s : State) (id : OpId) (i : TrapInfo) : State :=
  { s with ctx := { s.ctx with fault := s.ctx.fault ++ [⟨id.seq, 0, id.pc, true, true, slotCode id.slot, s.coreNum, i⟩] } }

/-- The operation id of the operation at work. -/
def State.opId (s : State) : OpId :=
  match s.cur with
  | none => ⟨s.ctx.seq, .c, s.ctx.regs.pc, []⟩
  | some o => o.id

/-- The operation at work raises a trap (R402). LINK_LOST is asynchronous: it is reported at the next boundary (R454). -/
def State.raise (s : State) (i : TrapInfo) : State :=
  if i.code = 0x42 then s.report s.opId i
  else match s.cur with
  | none => s.hold ⟨s.ctx.seq, 1, s.ctx.regs.pc, false, false, 7, s.coreNum, i⟩
  | some o => s.hold ⟨o.id.seq, o.id.slot.toNat + 1, o.id.pc, false, false, slotCode o.id.slot, s.coreNum, i⟩

/-- The boundary after the operation's bundle is a forced checkpoint (R307, R275, R339, R355). -/
def State.forceAfter (s : State) (r : CommitReq) : State :=
  { s with ctx := { s.ctx with endCkpt := some (match s.ctx.endCkpt with
      | none => r
      | some e => ⟨e.forced || r.forced, e.full || r.full, e.dsync || r.dsync, e.exit || r.exit, e.keep && r.keep⟩) } }

/-- One tick of the clock that free values are applied to. -/
def State.tick (s : State) : State := { s with clock := s.clock + 1 }

/-! ### Bytes at places -/

/-- The key of a pool byte. -/
def poolKey (obj : BitVec 48) (off : Nat) : Nat := obj.toNat * 2 ^ 48 + off
/-- The key of a pool page. -/
def pageKey (obj : BitVec 48) (page : Nat) : Nat := obj.toNat * 2 ^ 32 + page

def State.poolObj (s : State) (obj : BitVec 48) : Option PoolObj := (s.pool.objs.find? (·.1 == obj.toNat)).map (·.2)

def State.homeOnly (s : State) (obj : BitVec 48) : Bool := ((s.poolObj obj).map (·.homeOnly)).getD false

/-- Change the shared part of any core. -/
def State.mapCoreAt (s : State) (c : BitVec 7) (f : CoreSt → CoreSt) : State :=
  if c = s.coreNum then s.mapCore f
  else
    let b := tabGet .none s.cores c.toNat
    { s with cores := tabSet s.cores c.toNat { b with core := f b.core } }

/-- The cell that a byte of a memory lies in, while its home is clearing it: as it stood before (R319). -/
def clearingAt (l : List Clearing) (clock a : Nat) : Option Clearing :=
  l.find? fun c => decide (c.base ≤ a) && decide (a < c.base + 64) && decide (clock < c.till)

/-- A byte as a plain load reads it: of a cell in RECYCLING, STATE as 2 with the bytes beside it, and each other aligned 8 bytes as before
or as cleared (R319). -/
def cellByte (l : List Clearing) (clock a : Nat) (b : Byte) : Byte :=
  match clearingAt l clock a with
  | none => b
  | some c =>
    if a = c.base + 0x31 then 2
    else if (a - c.base) / 8 = 6 || Config.freeBool (clock * 8 + (a - c.base) / 8) then c.old.getD (a - c.base) 0
    else b

/-- The byte at a location of R230: a pool page's in the pool cache, or at the pool controller (R304, R427). -/
def State.byteAt (s : State) : Place → Byte
  | .sram a => s.core.ram.get a
  | .far p c a => if p = s.pkg.num then (s.boxOf c).core.ram.get a else 0
  | .hbm a => cellByte s.pkg.clearing s.clock a (s.pkg.hbm.get a)
  | .host a => s.host.get a
  | .pool o a => s.pkg.cache.get (poolKey o a)
  | .home o a => cellByte s.pool.clearing s.clock (poolKey o a) (s.pool.bytes.get (poolKey o a))
  | .win _ _ => 0

/-- Write the byte at a location; it is no longer poisoned (R418, log 69). -/
def State.putAt (s : State) (p : Place) (b : Byte) : State :=
  match p with
  | .sram a => s.mapCore fun c => { c with ram := c.ram.put a b, poison := c.poison.del a }
  | .far p c a => if p = s.pkg.num then s.mapCoreAt c fun k => { k with ram := k.ram.put a b, poison := k.poison.del a } else s
  | .hbm a => s.mapPkg fun k => { k with hbm := k.hbm.put a b, poison := k.poison.del a }
  | .host a => { s with host := s.host.put a b }
  | .pool o a => s.mapPkg fun k => { k with cache := k.cache.put (poolKey o a) b }
  | .home o a => { s with pool := { s.pool with bytes := s.pool.bytes.put (poolKey o a) b } }
  | .win _ _ => s

/-- A byte of scratchpad, an accumulator or HBM is poisoned (R418). -/
def State.spoiltAt (s : State) : Place → Bool
  | .sram a => s.core.poison.has a
  | .far p c a => p == s.pkg.num && (s.boxOf c).core.poison.has a
  | .hbm a => s.pkg.poison.has a
  | _ => false

/-- Write bytes at their places, where the mask is set. -/
def State.putCells (s : State) : List (Place × Option Byte) → State
  | [] => s
  | (p, some b) :: l => State.putCells (s.putAt p b) l
  | (_, none) :: l => State.putCells s l

/-- Whether a withheld entry's bytes forward to the context's own loads (R240, R274, R312). -/
def EntryAct.forwards : EntryAct → Bool
  | .store | .count _ | .ste | .stf => true
  | _ => false

/-- A window entry's fields (Table 2.7). -/
def winV (w : Word) : Bool := w.getLsbD 63
def winMC (w : Word) : Bool := w.getLsbD 62
def winPkg (w : Word) : BitVec 19 := BitVec.ofNat 19 (wbits w 61 43)
def winCore (w : Word) : BitVec 7 := BitVec.ofNat 7 (wbits w 42 36)
def winBase (w : Word) : Nat := wbits w 35 22 * 256
def winBytes (w : Word) : Nat := (wbits w 21 8 + 1) * 256

def Context.win (c : Context) (n : BitVec 4) : Word := c.window[n.toNat]'n.isLt

/-- One name for each location that a place may name: a window that leads to the core itself names its scratchpad, and
windows to another core name it alike (R43, R230). -/
def State.canon (s : State) (p : Place) : Place :=
  match p with
  | .win w a =>
    let e := s.ctx.win w
    if winMC e then p
    else if winPkg e = s.pkg.num && winCore e = s.coreNum then .sram (winBase e + a)
    else .far (winPkg e) (winCore e) (winBase e + a)
  | .far k c a => if k = s.pkg.num && c = s.coreNum then .sram a else p
  | _ => p

/-- The place `n` bytes on. -/
def placePlus (p : Place) (n : Nat) : Place :=
  match p with
  | .sram a => .sram (a + n)
  | .far k c a => .far k c (a + n)
  | .hbm a => .hbm (a + n)
  | .host a => .host (a + n)
  | .pool o a => .pool o (a + n)
  | .home o a => .home o (a + n)
  | .win w a => .win w (a + n)

/-! ### The context's own writes that have not performed (R239, R240) -/

/-- A write this context sent; a restored one may stand in the other slot. -/
def State.sentByUs (s : State) (x : RemoteWrite) : Bool :=
  x.pkg == s.pkg.num && x.core == s.coreNum && x.launch == s.ctx.info.launchId && x.pid == s.ctx.info.pid

/-- Writes sent to cores of this package that have not performed: on their way, in receive queues, in arrival logs. -/
def State.underway (s : State) : List RemoteWrite :=
  s.pkg.wire ++ (s.coreList.flatMap fun c => (s.boxOf c).core.recvq) ++ s.pkg.logs.flatMap fun g => g.writes

/-- The first place of a write. -/
def writePlace (x : RemoteWrite) : Place :=
  match x.home with
  | some (.sram a) => .far x.pkg x.target a
  | some p => p
  | none => match x.toPkg with | some k => .far k x.target x.addr | none => .win x.window x.addr

/-- What a remote write does, as a withheld entry has it. -/
def rwAct : RwKind → EntryAct
  | .store => .store | .ste => .ste | .stf => .stf | .fset => .fset | .fclr => .fclr
  | .count => .count true

/-- A write that has left the withholding buffer, in the form of an entry. -/
def writeEntry (x : RemoteWrite) : Entry :=
  ⟨⟨x.ser, .l, 0, []⟩, rwAct x.kind, x.data.zipIdx.map fun (b, i) => (placePlus (writePlace x) i, b), 0, x.cls, x.scope, x.ser⟩

/-- Put an entry at its place in entry order. -/
def insertEntry (e : Entry) : List Entry → List Entry
  | [] => [e]
  | x :: l => if e.ser < x.ser then e :: x :: l else x :: insertEntry e l

/-- The rows of a `tst` that wait in a drain buffer. -/
def Drain.entries (d : Drain) : List Entry := d.rows.map fun r => ⟨d.op, .store, r, 0, d.cls, 0, d.ser⟩

/-- Every write of the context that has not performed, in entry order: released ones, rows in drain buffers, withheld ones. -/
def State.ownWrites (s : State) : List Entry :=
  if s.pkg.wire.isEmpty && s.pkg.sent.isEmpty && s.pkg.accepted.isEmpty && s.pkg.logs.isEmpty && s.core.drains.isEmpty
      && s.coreList.all (fun c => (s.boxOf c).core.recvq.isEmpty) then s.ctx.buffer
  else
    (((s.underway ++ s.pkg.sent ++ s.pkg.accepted).filter s.sentByUs).map writeEntry
      ++ ((s.core.drains.filter fun d => d.slot == s.slotNum).flatMap Drain.entries) ++ s.ctx.buffer).foldl (fun l e => insertEntry e l) []

/-- A pool location under one name, whichever way an access reaches it. -/
def oneName : Place → Place
  | .home o a => .pool o a
  | p => p

/-- The byte that writes of the context forward to its own reads, the latest first (R240). -/
def State.forward (s : State) (buf : List Entry) (p : Place) : Option Byte :=
  let q := oneName (s.canon p)
  buf.reverse.findSome? fun e =>
    if e.act.forwards then e.cells.findSome? fun c => if oneName (s.canon c.1) = q then c.2 else none else none

/-- Those of the context's writes that entered before an access (R246, R227, R245). -/
def State.ownBefore (s : State) (ser : Nat) : List Entry := s.ownWrites.filter fun e => decide (e.ser < ser)

/-! ### What a load may return (R238, R239, R242, R249, R251, R254) -/

/-- The context in focus, as scopes and the race detector name it. -/
def State.agent (s : State) : Agent :=
  ⟨BitVec.ofNat 27 (s.pkg.num.toNat * 2 ^ 8 + s.coreNum.toNat * 2 + s.slotNum.toNat), s.ctx.info.pid, s.ctx.info.crew, s.ctx.info.launchId⟩

/-- The same context, whichever slot it stands in. -/
def sameAgent (a b : Agent) : Bool := a.id >>> 1 == b.id >>> 1 && a.pid == b.pid && a.launch == b.launch

/-- A scope covers two contexts when both lie in one unit of it (Table 10.3). A launch outside every crew has itself as crew scope. -/
def scopeCovers (scope : BitVec 3) (a b : Agent) : Bool :=
  match scope.toNat with
  | 0 => a.id >>> 1 == b.id >>> 1
  | 1 => a.id >>> 3 == b.id >>> 3
  | 2 => a.id >>> 8 == b.id >>> 8
  | 3 => a.pid == b.pid && a.crew == b.crew && (a.crew != 0 || a.launch == b.launch)
  | _ => true

/-- The classes whose accesses are ordered with those of a class (R238). -/
def classesOf (cls : BitVec 4) : List Nat := if cls = 0 then natRange 0 16 else [0, cls.toNat]

/-- The classes of a fence's mask, class 0 among them (R288). -/
def classesIn (mask : BitVec 16) : List Nat := (natRange 0 16).filter fun c => c == 0 || mask.getLsbD c

def Context.floor (c : Context) (scope cls : Nat) : Nat := c.floors.toList.getD (scope * 16 + cls) 0

/-- Loads of these classes return nothing that the observers of a scope had replaced by then. -/
def Context.raiseFloors (c : Context) (scope : Nat) (classes : List Nat) (t : Nat) : Context :=
  { c with floors := Vector.ofFn fun i =>
      if i.val / 16 == scope && classes.elem (i.val % 16) then max c.floors[i] t else c.floors[i] }

/-- The time before which a load of a class may not lie, as far as writes of an agent go. -/
def State.floorFor (s : State) (cls : BitVec 4) (w : Option Agent) : Nat :=
  ((natRange 0 5).map fun k =>
    if (match w with | some a => scopeCovers (BitVec.ofNat 3 k) a s.agent | none => decide (3 ≤ k)) then s.ctx.floor k cls.toNat else 0).foldl max 0

/-- The write that replaced a byte comes before a load of a class by the context in focus. -/
def State.settled (s : State) (cls : BitVec 4) (o : OldByte) : Bool :=
  (match o.who with | some a => sameAgent a s.agent | none => false) || decide (o.at_ ≤ s.floorFor cls o.who)
    || s.ctx.seenAt.any fun x => x.1 == o.loc && decide (o.at_ ≤ x.2)

/-- A time in the past that a free value picks for the i-th single-copy atomic unit of an access (R250). -/
def State.pickTime (s : State) (i : Nat) : Nat := s.clock - Config.freeNat (s.clock * 2 ^ 16 + i) % (s.clock + 1)

/-- The name by which every context of the package knows a location. -/
def State.loc (s : State) (p : Place) : Place :=
  match s.canon p with
  | .sram a => .far s.pkg.num s.coreNum a
  | q => q

/-- What a load reads at a location: the byte, when the write it reads performed, and whether it is the latest. -/
structure Seen where
  byte : Byte
  at_  : Nat
  last : Bool
  deriving DecidableEq, Repr

/-- The byte a load of a class returns at a location: the present one, or one that a write has replaced which nothing orders before
the load (R249, log 57). A write is seen by all of the package from one instant on (R251); of two accesses that race, the load returns
one of these bytes and nothing else comes of the race (R258). -/
def State.view (s : State) (cls : BitVec 4) (p : Place) (i : Nat) : Seen :=
  let p := s.loc p
  let old := s.pkg.hist.filter fun o => o.loc == p
  let open_ := (old.reverse.takeWhile fun o => !s.settled cls o).reverse
  let t := s.pickTime i
  match open_.find? fun o => decide (t < o.at_) with
  | some o => ⟨o.byte, ((old.filter fun x => decide (x.at_ < o.at_)).map (·.at_)).foldl max 0, false⟩
  | none => ⟨s.byteAt p, (old.map (·.at_)).foldl max 0, true⟩

/-- Values that were written at these times have been read: no later read of their locations goes back behind them (R239). -/
def Context.noteSeen (c : Context) (l : List (Place × Nat)) : Context :=
  { c with seenAt := l.foldl (fun m x => x :: m.filter fun y => !(y.1 == x.1 && decide (y.2 ≤ x.2))) c.seenAt }

/-- A load of a class has read, at these locations, what writes of these times left. -/
def Context.noteRead (c : Context) (cls : BitVec 4) (l : List (Place × Nat)) : Context :=
  let l := l.filter fun x => decide (0 < x.2)
  if l.isEmpty then c
  else
    let t := (l.map (·.2)).foldl max 0
    let c := c.raiseFloors 2 (classesOf cls) t
    { c.noteSeen l with lastRead := c.lastRead.set cls.toNat (max (c.lastRead[cls.toNat]'cls.isLt) t) cls.isLt }

/-- An acquire of a class at a scope that reads what was written by then (R242). -/
def Context.acquire (c : Context) (scope : BitVec 3) (cls : BitVec 4) (t : Nat) : Context :=
  { c.raiseFloors scope.toNat (classesOf cls) t with lastRead := c.lastRead.set cls.toNat (max (c.lastRead[cls.toNat]'cls.isLt) t) cls.isLt }

/-- Every access of the context up to now is ordered before its later ones, for the observers of a scope (R41, R256). -/
def Context.acquireAll (c : Context) (scope : BitVec 3) (t : Nat) : Context := c.raiseFloors scope.toNat (natRange 0 16) t

/-- Writes leave what they replace behind, for loads that nothing orders after them; a byte read only at the pool does not. -/
def State.keepOld (s : State) (who : Option Agent) (cells : List (Place × Option Byte)) : State :=
  let l := cells.filterMap fun (p, b) =>
    match b with
    | none => none
    | some b =>
      let q := s.loc p
      let away := match q with | .win _ _ => true | .home _ _ => true | _ => false
      if away || s.byteAt q = b then none else some (⟨q, s.byteAt q, s.clock, who⟩ : OldByte)
  if l.isEmpty then s else s.mapPkg fun k => { k with hist := k.hist ++ l }

/-- What the pool cache held of a page under a lease that has ended is nobody's to read (R427). -/
def State.forgetPage (s : State) (obj : BitVec 48) (page : Nat) : State :=
  s.mapPkg fun k => { k with hist := k.hist.filter fun o => match o.loc with
    | .pool x a => !(x == obj && a / 2 ^ 16 == page)
    | _ => true }

/-- What stood in a bank of a core before it passed is nobody's to read (R28). -/
def State.forgetBank (s : State) (core : BitVec 7) (b : Nat) : State :=
  s.mapPkg fun k => { k with hist := k.hist.filter fun o => match o.loc with
    | .far _ c a => !(c == core && a / 2 ^ 16 == b)
    | _ => true }

/-- Bytes perform at their home, at one instant for every observer of the package (R251): the package has one copy of them, stamped with
the clock, and what they replace stands on in `hist` only for loads that perform before that instant (`State.view`). -/
def State.performCells (s : State) (who : Option Agent) (cells : List (Place × Option Byte)) : State :=
  (s.keepOld who cells).putCells cells

/-- The byte a read of the context that is not a plain load sees at a location (R240): its own writes, else what stands at the home. -/
def State.loadByte (s : State) (p : Place) : Byte := (s.forward s.ownWrites p).getD (s.byteAt p)

/-- The byte a plain load of a class sees (R240, R249). -/
def State.loadAs (s : State) (cls : BitVec 4) (p : Place) (i : Nat) : Byte := (s.forward s.ownWrites p).getD (s.view cls p i).byte

/-- A little-endian word of device memory, as walkers and the command processor read it. -/
def State.devLe (s : State) (a n : Nat) : Nat :=
  if a.testBit 51 then s.host.le (a % 2 ^ 51) n else s.pkg.hbm.le a n

def State.devBytes (s : State) (a n : Nat) : List Byte :=
  if a.testBit 51 then s.host.bytes (a % 2 ^ 51) n else s.pkg.hbm.bytes a n

def State.devPut (s : State) (a : Nat) (d : List Byte) : State :=
  if a.testBit 51 then { s with host := s.host.putBytes (a % 2 ^ 51) d }
  else s.mapPkg fun k => { k with hbm := k.hbm.putBytes a d, poison := k.poison.delRun a d.length }

end Sys2Proof.Machine
end

