-- ==== Sys2Proof/Machine/Scoreboard.lean ====
section
/-! DEFINITION. Scoreboard.lean: which scoreboarded registers an operation reads and writes, and when its registers are
ready (R36, R37). The mask stack, system registers and memory are not scoreboarded (R38). -/
namespace Sys2Proof.Machine

/-- A vector operand, or the pair it names (R104). -/
def vPair (wide : Bool) (r : VReg) : List RegName := if wide then [.v r, .v (r + 1)] else [.v r]
def srcRegs (wide : Bool) : VSrc → List RegName
  | .v r => vPair wide r | .s r => [.s r] | .imm _ => []
def kSrcRegs : KSrc → List RegName
  | .k r => [.k r] | .s r => [.s r]
/-- The base of a memory operand, and its capability register in plain space. -/
def memRegs (base : SReg) (cap : BitVec 4) (space : Space) : List RegName :=
  if space = .virt && cap ≠ 0 then [.s base, .c cap] else [.s base]
/-- The tile word in mp0 names the tiles of a call (R187), so a call waits for every tile register. -/
def allTiles : List RegName := (List.range 32).map fun i => .t (BitVec.ofNat 5 i)

/-- The predicate an operation carries (R61). -/
def opPred : Instr → Option Pred
  | .cNop q => some q
  | .cBr q _ => some q
  | .cCall q _ => some q
  | .cRet q => some q
  | .cBrs q _ => some q
  | .cCalls q _ => some q
  | .cLoop q _ _ => some q
  | .cLoopi q _ _ => some q
  | .cLbreak q => some q
  | .cLnext q => some q
  | .cYield q => some q
  | .cTrap q _ => some q
  | .cExit q => some q
  | .cBreak q => some q
  | .aAdd q _ _ _ => some q
  | .aSub q _ _ _ => some q
  | .aMul q _ _ _ => some q
  | .aMulh q _ _ _ => some q
  | .aMulhn q _ _ _ => some q
  | .aDiv q _ _ _ => some q
  | .aDivn q _ _ _ => some q
  | .aRem q _ _ _ => some q
  | .aRemn q _ _ _ => some q
  | .aAnd q _ _ _ => some q
  | .aOr q _ _ _ => some q
  | .aXor q _ _ _ => some q
  | .aAndn q _ _ _ => some q
  | .aShl q _ _ _ => some q
  | .aShr q _ _ _ => some q
  | .aSar q _ _ _ => some q
  | .aRotl q _ _ _ => some q
  | .aMin q _ _ _ => some q
  | .aMax q _ _ _ => some q
  | .aMinn q _ _ _ => some q
  | .aMaxn q _ _ _ => some q
  | .aSel q _ _ _ _ => some q
  | .aPopc q _ _ => some q
  | .aClz q _ _ => some q
  | .aCtz q _ _ => some q
  | .aBext q _ _ _ => some q
  | .aBins q _ _ _ _ => some q
  | .aLea q _ _ _ _ => some q
  | .aMadd q _ _ _ _ => some q
  | .aAddi q _ _ _ => some q
  | .aAndi q _ _ _ => some q
  | .aOri q _ _ _ => some q
  | .aXori q _ _ _ => some q
  | .aShli q _ _ _ => some q
  | .aShri q _ _ _ => some q
  | .aSari q _ _ _ => some q
  | .aMovi q _ _ => some q
  | .aMovhi q _ _ _ => some q
  | .aMuli q _ _ _ => some q
  | .aCmp q _ _ _ _ => some q
  | .aCmpi q _ _ _ _ => some q
  | .aPand q _ _ _ => some q
  | .aPor q _ _ _ => some q
  | .aPxor q _ _ _ => some q
  | .aPnot q _ _ => some q
  | .aPbit q _ _ _ => some q
  | .aFadd q _ _ _ _ _ => some q
  | .aFsub q _ _ _ _ _ => some q
  | .aFmul q _ _ _ _ _ => some q
  | .aFma q _ _ _ _ _ _ => some q
  | .aFdiv q _ _ _ _ _ => some q
  | .aFsqrt q _ _ _ _ => some q
  | .aFmin q _ _ _ _ => some q
  | .aFmax q _ _ _ _ => some q
  | .aFcmp q _ _ _ _ _ => some q
  | .aFcvt q _ _ _ _ _ _ => some q
  | .aFclass q _ _ _ => some q
  | .aSysrd q _ _ => some q
  | .aSyswr q _ _ => some q
  | .aMpset q _ _ => some q
  | .aMpget q _ _ => some q
  | .aLidx q _ _ => some q
  | .vAdd q _ _ _ _ _ => some q
  | .vSub q _ _ _ _ _ => some q
  | .vMul q _ _ _ _ _ => some q
  | .vMulh q _ _ _ _ _ => some q
  | .vMad q _ _ _ _ _ _ => some q
  | .vAbs q _ _ _ _ => some q
  | .vNeg q _ _ _ _ => some q
  | .vMin q _ _ _ _ _ => some q
  | .vMax q _ _ _ _ _ => some q
  | .vAnd q _ _ _ _ _ => some q
  | .vOr q _ _ _ _ _ => some q
  | .vXor q _ _ _ _ _ => some q
  | .vAndn q _ _ _ _ _ => some q
  | .vShl q _ _ _ _ _ => some q
  | .vShr q _ _ _ _ _ => some q
  | .vSar q _ _ _ _ _ => some q
  | .vCmp q _ _ _ _ _ _ _ => some q
  | .vSel q _ _ _ _ _ _ => some q
  | .vMov q _ _ _ => some q
  | .vBcast q _ _ _ _ => some q
  | .vPopc q _ _ _ _ => some q
  | .vClz q _ _ _ _ => some q
  | .vAddsat q _ _ _ _ _ => some q
  | .vSubsat q _ _ _ _ _ => some q
  | .vLane q _ _ _ => some q
  | .vFadd q _ _ _ _ _ _ => some q
  | .vFsub q _ _ _ _ _ _ => some q
  | .vFmul q _ _ _ _ _ _ => some q
  | .vFma q _ _ _ _ _ _ _ => some q
  | .vFms q _ _ _ _ _ _ _ => some q
  | .vFmin q _ _ _ _ _ => some q
  | .vFmax q _ _ _ _ _ => some q
  | .vFrcp q _ _ _ _ => some q
  | .vFrsq q _ _ _ _ => some q
  | .vFexp2 q _ _ _ _ => some q
  | .vFlog2 q _ _ _ _ => some q
  | .vFcmp q _ _ _ _ _ _ _ => some q
  | .vFclass q _ _ _ _ => some q
  | .vFabs q _ _ _ _ => some q
  | .vFneg q _ _ _ _ => some q
  | .vCvt q _ _ _ _ _ _ _ => some q
  | .vQuant q _ _ _ _ _ _ _ => some q
  | .vDequant q _ _ _ _ _ => some q
  | .vPack q _ _ _ _ _ => some q
  | .vUnpack q _ _ _ _ _ => some q
  | .vRed q _ _ _ _ _ => some q
  | .vScan q _ _ _ _ _ => some q
  | .vFred q _ _ _ _ _ _ => some q
  | .vFscan q _ _ _ _ _ _ => some q
  | .vPerm q _ _ _ _ _ => some q
  | .vSlide q _ _ _ _ _ => some q
  | .vRot q _ _ _ _ _ => some q
  | .vCompress q _ _ _ _ => some q
  | .vExpand q _ _ _ _ => some q
  | .vZip q _ _ _ _ _ _ => some q
  | .vUnzip q _ _ _ _ _ _ => some q
  | .vExtr q _ _ _ _ => some q
  | .vIns q _ _ _ _ => some q
  | .vMpush q _ => some q
  | .vMinv q => some q
  | .vMpop q => some q
  | .vKmov q _ _ => some q
  | .vKop q _ _ _ _ => some q
  | .vKpopc q _ _ => some q
  | .vSkip q _ => some q
  | .vHashCrc q _ _ _ _ _ => some q
  | .vHashMix q _ _ _ _ _ => some q
  | .vHashs q _ _ _ _ _ => some q
  | .vPart q _ _ _ _ => some q
  | .vPartCnt q _ _ _ _ _ => some q
  | .vScmp q _ _ _ _ _ => some q
  | .vSfind q _ _ _ _ _ => some q
  | .vSmatch q _ _ _ _ _ => some q
  | .vAccrd q _ _ _ _ => some q
  | .vAccwr q _ _ _ _ => some q
  | .lLd q _ _ _ _ => some q
  | .lSt q _ _ _ => some q
  | .lVld q _ _ => some q
  | .lVst q _ _ => some q
  | .lVldQueue q _ _ _ _ _ => some q
  | .lVstQueue q _ _ _ _ _ => some q
  | .lVlds q _ _ _ _ => some q
  | .lVsts q _ _ _ _ => some q
  | .lVgather q _ _ _ _ => some q
  | .lVscatter q _ _ _ _ => some q
  | .lVsgather q _ _ _ => some q
  | .lLdf q _ _ _ _ => some q
  | .lLdfTake q _ _ _ _ => some q
  | .lSte q _ _ _ _ => some q
  | .lStf q _ _ _ _ => some q
  | .lFset q _ _ => some q
  | .lFclr q _ _ => some q
  | .lFqry q _ _ _ => some q
  | .lTld q _ _ _ => some q
  | .lTst q _ _ _ => some q
  | .lTrel q _ => some q
  | .lTqry q _ _ => some q
  | .lQinit q _ _ _ _ _ => some q
  | .lQadvp q _ _ _ => some q
  | .lQadvc q _ _ _ => some q
  | .lQqry q _ _ _ => some q
  | .lAadd q _ _ _ _ _ => some q
  | .lAmin q _ _ _ _ _ => some q
  | .lAmax q _ _ _ _ _ => some q
  | .lAminn q _ _ _ _ _ => some q
  | .lAmaxn q _ _ _ _ _ => some q
  | .lAand q _ _ _ _ _ => some q
  | .lAor q _ _ _ _ _ => some q
  | .lAxor q _ _ _ _ _ => some q
  | .lAxchg q _ _ _ _ _ => some q
  | .lAcas q _ _ _ _ _ => some q
  | .lAfadd q _ _ _ _ _ => some q
  | .lAinc q _ _ _ _ _ => some q
  | .lVscadd q _ _ _ _ _ _ _ => some q
  | .lDprop q _ _ _ _ => some q
  | .lDread q _ _ _ _ => some q
  | .lDrecycle q _ _ _ => some q
  | .lPf q _ _ => some q
  | .lFence q _ _ _ => some q
  | .lBrel q _ => some q
  | .lCld q _ _ => some q
  | .lCdrop q _ => some q
  | .lDsync q => some q
  | .mCall q _ _ _ _ _ _ => some q
  | .mCommit q _ => some q
  | .mWait q _ => some q
  | .mStat q _ _ => some q
  | .mZero q _ _ => some q
  | .mProg q _ _ => some q
  | .mSbuild q _ _ _ => some q
  | .mSstat q _ => some q
  | .xGet q _ _ _ _ _ => some q
  | .xPut q _ _ _ _ _ => some q
  | .xCopy q _ _ _ _ _ => some q
  | .xFill q _ _ _ _ _ _ => some q
  | .xStage q _ _ _ _ _ _ => some q
  | .xSeal q _ _ _ _ _ _ => some q
  | .xSgather q _ _ _ _ _ _ => some q
  | .xWait q _ => some q
  | .xStat q _ _ => some q
  | .xCancel q _ => some q
  | .uFeeda _ _ _ => none
  | .uFeedb _ _ _ => none
  | .uMac => none
  | .uMacq => none
  | .uFold => none
  | .uAccl _ _ _ => none
  | .uNorm _ _ _ => none
  | .uDraw _ _ _ => none
  | .uSgath _ => none
  | .uProbe _ _ => none
  | .uStoptest _ => none
  | .uSkipz _ _ => none
  | .uEdge _ _ => none
  | .uSwap _ _ => none
  | .uPset _ _ => none
  | .uPadd _ _ _ _ => none
  | .uPbr _ _ _ _ => none
  | .uMloop _ _ _ => none
  | .uWait _ _ => none
  | .uMend => none
  | .evPackageReset => none
  | .evRegisterWrite => none
  | .evClkcapWrite => none
  | .evClockStepChange => none
  | .evThermalTrip => none
  | .evTelemetrySample => none
  | .evClusterGate => none
  | .evClusterWake => none
  | .evLinkReset => none
  | .evEventRingConsume => none
  | .evEventRecordWrite => none
  | .evLaunchRecord => none
  | .evDispatchDecision => none
  | .evDictionaryLoad => none
  | .evLaunchIssuable => none
  | .evPriorityPreempt => none
  | .evLaunchComplete => none
  | .evReleaseFlush => none
  | .evCancellation => none
  | .evBundleDispatch => none
  | .evCheckpointCommit => none
  | .evTrapRollback => none
  | .evAsyncFaultReport => none
  | .evPreemptByBoundary => none
  | .evPreemptByRollback => none
  | .evContextSave => none
  | .evContextRestore => none
  | .evRemoteWriteArrival => none
  | .evReceiveQueuePerform => none
  | .evWriteAcceptance => none
  | .evRemoteBoundReply => none
  | .evPhaseArrival => none
  | .evTaggedWaitSatisfied => none
  | .evWaitTimeout => none
  | .evHostInboundWrite => none
  | .evSectorEvictWriteback => none
  | .evHomeProbe => none
  | .evTileFillComplete => none
  | .evTileFillFault => none
  | .evMatrixRecordStart => none
  | .evMicroTileCommit => none
  | .evMatrixCallComplete => none
  | .evMatrixMigrate => none
  | .evMigrationReturn => none
  | .evAccDrainDone => none
  | .evCopyComplete => none
  | .evStepCurrent => none
  | .evScheduleReread => none
  | .evProoferPrefetch => none
  | .evLeaseRenewal => none
  | .evReadLeaseGrant => none
  | .evLeaseRetry => none
  | .evWriteLeaseGrant => none
  | .evRenewalGrant => none
  | .evLeaseFenced => none
  | .evLeaseDeadline => none
  | .evPoolPageArrival => none
  | .evPutAcknowledge => none
  | .evPoolCacheEvict => none
  | .evStepCommit => none
  | .evStepLost => none
  | .evStepRerunCheck => none
  | .evFlitReceive => none
  | .evNakReceive => none
  | .evReplayTimeout => none
  | .evLaneErrorThreshold => none
  | .evLaneRetrainEnd => none
  | .evStrandLoss => none
  | .evStrandReturn => none
  | .evLinkLost => none
  | .evUncorrectableError => none
  | .evAtsInvalidation => none
  | .evResume => none
  | .evKill => none
  | .evPreempt => none
  | .evStepOn => none
  | .evStepOff => none
  | .evCancel => none
  | .evInvalVa => none
  | .evInvalAsid => none
  | .evInvalS2 => none
  | .evMboxOpen => none
  | .evMboxClose => none
  | .evSchedule => none
  | .evGetVersion => none
  | .evGetCapabilities => none
  | .evNegotiateAlgorithms => none
  | .evGetDigests => none
  | .evGetCertificate => none
  | .evChallenge => none
  | .evGetMeasurements => none
  | .evKeyExchange => none
  | .evFinish => none
  | .evHeartbeat => none
  | .evKeyUpdate => none
  | .evEndSession => none
  | .evSetCertificate => none
  | .evGetCsr => none
  | .evChunkSend => none
  | .evChunkGet => none
  | .evUnsupportedRequest => none
  | .evOwnerAuth => none
  | .evSetKey => none
  | .evClearKey => none
  | .evLockInterface => none
  | .evStopInterface => none
  | .evTdiError => none
  | .evRemoteRequestArrival => none
  | .evRemoteReply => none
  | .evPatrolScrub => none
  | .evTdiRun => none
  | .evIdeKm => none

/-- The registers an operation reads beside its predicate. -/
def opSources : Instr → List RegName
  | .cNop _ => []
  | .cBr _ _ => []
  | .cCall _ _ => []
  | .cRet _ => [.s 63]
  | .cBrs _ s => [.s s]
  | .cCalls _ s => [.s s]
  | .cLoop _ s _ => [.s s]
  | .cLoopi _ _ _ => []
  | .cLbreak _ => []
  | .cLnext _ => []
  | .cYield _ => []
  | .cTrap _ _ => []
  | .cExit _ => []
  | .cBreak _ => []
  | .aAdd _ _ a b => [.s a, .s b]
  | .aSub _ _ a b => [.s a, .s b]
  | .aMul _ _ a b => [.s a, .s b]
  | .aMulh _ _ a b => [.s a, .s b]
  | .aMulhn _ _ a b => [.s a, .s b]
  | .aDiv _ _ a b => [.s a, .s b]
  | .aDivn _ _ a b => [.s a, .s b]
  | .aRem _ _ a b => [.s a, .s b]
  | .aRemn _ _ a b => [.s a, .s b]
  | .aAnd _ _ a b => [.s a, .s b]
  | .aOr _ _ a b => [.s a, .s b]
  | .aXor _ _ a b => [.s a, .s b]
  | .aAndn _ _ a b => [.s a, .s b]
  | .aShl _ _ a b => [.s a, .s b]
  | .aShr _ _ a b => [.s a, .s b]
  | .aSar _ _ a b => [.s a, .s b]
  | .aRotl _ _ a b => [.s a, .s b]
  | .aMin _ _ a b => [.s a, .s b]
  | .aMax _ _ a b => [.s a, .s b]
  | .aMinn _ _ a b => [.s a, .s b]
  | .aMaxn _ _ a b => [.s a, .s b]
  | .aSel _ _ a b c => [.s a, .s b, .s c]
  | .aPopc _ _ a => [.s a]
  | .aClz _ _ a => [.s a]
  | .aCtz _ _ a => [.s a]
  | .aBext _ _ a b => [.s a, .s b]
  | .aBins _ _ a b c => [.s a, .s b, .s c]
  | .aLea _ _ a b _ => [.s a, .s b]
  | .aMadd _ _ a b c => [.s a, .s b, .s c]
  | .aAddi _ _ a _ => [.s a]
  | .aAndi _ _ a _ => [.s a]
  | .aOri _ _ a _ => [.s a]
  | .aXori _ _ a _ => [.s a]
  | .aShli _ _ a _ => [.s a]
  | .aShri _ _ a _ => [.s a]
  | .aSari _ _ a _ => [.s a]
  | .aMovi _ _ _ => []
  | .aMovhi _ _ a _ => [.s a]
  | .aMuli _ _ a _ => [.s a]
  | .aCmp _ _ a b _ => [.s a, .s b]
  | .aCmpi _ _ a _ _ => [.s a]
  | .aPand _ _ a b => [.p a, .p b]
  | .aPor _ _ a b => [.p a, .p b]
  | .aPxor _ _ a b => [.p a, .p b]
  | .aPnot _ _ a => [.p a]
  | .aPbit _ _ a b => [.s a, .s b]
  | .aFadd _ _ a b _ _ => [.s a, .s b]
  | .aFsub _ _ a b _ _ => [.s a, .s b]
  | .aFmul _ _ a b _ _ => [.s a, .s b]
  | .aFma _ _ a b c _ _ => [.s a, .s b, .s c]
  | .aFdiv _ _ a b _ _ => [.s a, .s b]
  | .aFsqrt _ _ a _ _ => [.s a]
  | .aFmin _ _ a b _ => [.s a, .s b]
  | .aFmax _ _ a b _ => [.s a, .s b]
  | .aFcmp _ _ a b _ _ => [.s a, .s b]
  | .aFcvt _ _ a _ _ _ _ => [.s a]
  | .aFclass _ _ a _ => [.s a]
  | .aSysrd _ _ _ => []
  | .aSyswr _ a _ => [.s a]
  | .aMpset _ _ a => [.s a]
  | .aMpget _ _ m => [.mp m]
  | .aLidx _ _ _ => []
  | .vAdd _ _ a b t m => [.k m] ++ vPair (wideTy t) a ++ srcRegs (wideTy t) b
  | .vSub _ _ a b t m => [.k m] ++ vPair (wideTy t) a ++ srcRegs (wideTy t) b
  | .vMul _ _ a b t m => [.k m] ++ vPair (wideTy t) a ++ srcRegs (wideTy t) b
  | .vMulh _ _ a b t m => [.k m] ++ vPair (wideTy t) a ++ srcRegs (wideTy t) b
  | .vMad _ _ a b c t m => [.k m] ++ vPair (wideTy t) a ++ srcRegs (wideTy t) b ++ vPair (wideTy t) c
  | .vAbs _ _ a t m => [.k m] ++ vPair (wideTy t) a
  | .vNeg _ _ a t m => [.k m] ++ vPair (wideTy t) a
  | .vMin _ _ a b t m => [.k m] ++ vPair (wideTy t) a ++ srcRegs (wideTy t) b
  | .vMax _ _ a b t m => [.k m] ++ vPair (wideTy t) a ++ srcRegs (wideTy t) b
  | .vAnd _ _ a b t m => [.k m] ++ vPair (wideTy t) a ++ srcRegs (wideTy t) b
  | .vOr _ _ a b t m => [.k m] ++ vPair (wideTy t) a ++ srcRegs (wideTy t) b
  | .vXor _ _ a b t m => [.k m] ++ vPair (wideTy t) a ++ srcRegs (wideTy t) b
  | .vAndn _ _ a b t m => [.k m] ++ vPair (wideTy t) a ++ srcRegs (wideTy t) b
  | .vShl _ _ a b t m => [.k m] ++ vPair (wideTy t) a ++ srcRegs (wideTy t) b
  | .vShr _ _ a b t m => [.k m] ++ vPair (wideTy t) a ++ srcRegs (wideTy t) b
  | .vSar _ _ a b t m => [.k m] ++ vPair (wideTy t) a ++ srcRegs (wideTy t) b
  | .vCmp _ _ a b t m _ _ => [.k m] ++ vPair (wideTy t) a ++ srcRegs (wideTy t) b
  | .vSel _ _ a b kc t m => [.k kc, .k m] ++ vPair (wideTy t) a ++ vPair (wideTy t) b
  | .vMov _ _ a m => [.v a, .k m]
  | .vBcast _ _ b t m => [.k m] ++ srcRegs (wideTy t) b
  | .vPopc _ _ a t m => [.k m] ++ vPair (wideTy t) a
  | .vClz _ _ a t m => [.k m] ++ vPair (wideTy t) a
  | .vAddsat _ _ a b t m => [.k m] ++ vPair (wideTy t) a ++ srcRegs (wideTy t) b
  | .vSubsat _ _ a b t m => [.k m] ++ vPair (wideTy t) a ++ srcRegs (wideTy t) b
  | .vLane _ _ _ m => [.k m]
  | .vFadd _ _ a b _ m _ => [.v a, .k m] ++ srcRegs (false) b
  | .vFsub _ _ a b _ m _ => [.v a, .k m] ++ srcRegs (false) b
  | .vFmul _ _ a b _ m _ => [.v a, .k m] ++ srcRegs (false) b
  | .vFma _ _ a b c _ m _ => [.v a, .v c, .k m] ++ srcRegs (false) b
  | .vFms _ _ a b c _ m _ => [.v a, .v c, .k m] ++ srcRegs (false) b
  | .vFmin _ _ a b _ m => [.v a, .k m] ++ srcRegs (false) b
  | .vFmax _ _ a b _ m => [.v a, .k m] ++ srcRegs (false) b
  | .vFrcp _ _ a _ m => [.v a, .k m]
  | .vFrsq _ _ a _ m => [.v a, .k m]
  | .vFexp2 _ _ a _ m => [.v a, .k m]
  | .vFlog2 _ _ a _ m => [.v a, .k m]
  | .vFcmp _ _ a b _ m _ _ => [.v a, .k m] ++ srcRegs (false) b
  | .vFclass _ _ a _ m => [.v a, .k m]
  | .vFabs _ _ a _ m => [.v a, .k m]
  | .vFneg _ _ a _ m => [.v a, .k m]
  | .vCvt _ _ a _ st m _ _ => [.k m] ++ vPair (wideTy st) a
  | .vQuant _ _ a b _ m _ _ => [.v a, .v b, .k m]
  | .vDequant _ _ a b _ m => [.v a, .v b, .k m]
  | .vPack _ _ a b _ m => [.v a, .v b, .k m]
  | .vUnpack _ _ a _ _ m => [.v a, .k m]
  | .vRed _ _ a t m _ => [.k m] ++ vPair (wideTy t) a
  | .vScan _ _ a t m _ => [.k m] ++ vPair (wideTy t) a
  | .vFred _ _ a _ m _ _ => [.v a, .k m]
  | .vFscan _ _ a _ m _ _ => [.v a, .k m]
  | .vPerm _ _ a b t m => [.k m] ++ vPair (wideTy t) a ++ vPair (wideTy t) b
  | .vSlide _ _ a b t m => [.k m] ++ vPair (wideTy t) a ++ srcRegs (wideTy t) b
  | .vRot _ _ a b t m => [.k m] ++ vPair (wideTy t) a ++ srcRegs (wideTy t) b
  | .vCompress _ _ a t m => [.k m] ++ vPair (wideTy t) a
  | .vExpand _ _ a t m => [.k m] ++ vPair (wideTy t) a
  | .vZip _ _ a b t m _ => [.k m] ++ vPair (wideTy t) a ++ vPair (wideTy t) b
  | .vUnzip _ _ a b t m _ => [.k m] ++ vPair (wideTy t) a ++ vPair (wideTy t) b
  | .vExtr _ _ a b t => [.s b] ++ vPair (wideTy t) a
  | .vIns _ _ a b _ => [.s a, .s b]
  | .vMpush _ ka => [.k ka]
  | .vMinv _ => []
  | .vMpop _ => []
  | .vKmov _ _ src => kSrcRegs src
  | .vKop _ _ a b _ => [.k a, .k b]
  | .vKpopc _ _ a => [.k a]
  | .vSkip _ _ => []
  | .vHashCrc _ _ a b t m => [.v b, .k m] ++ vPair (wideTy t) a
  | .vHashMix _ _ a b t m => [.k m] ++ vPair (wideTy t) a ++ vPair (wideTy t) b
  | .vHashs _ _ a b c m => [.v a, .v b, .v c, .k m]
  | .vPart _ _ a b m => [.v a, .v b, .k m]
  | .vPartCnt _ _ a b _ m => [.v a, .v b, .k m]
  | .vScmp _ _ a b c m => [.v a, .v c, .k m] ++ srcRegs (false) b
  | .vSfind _ _ a b c m => [.v a, .v c, .k m] ++ srcRegs (false) b
  | .vSmatch _ _ a b c m => [.v a, .v c, .k m] ++ srcRegs (false) b
  | .vAccrd _ _ _ b m => [.s b, .k m]
  | .vAccwr _ d _ b m => [.v d, .s b, .k m]
  | .lLd _ _ mem _ _ => memRegs mem.base mem.cap mem.space
  | .lSt _ a mem _ => [.s a] ++ memRegs mem.base mem.cap mem.space
  | .lVld _ _ mem => memRegs mem.base mem.cap mem.space
  | .lVst _ d mem => [.v d] ++ memRegs mem.base mem.cap mem.space
  | .lVldQueue _ _ n _ _ _ => [.q n]
  | .lVstQueue _ d n _ _ _ => [.v d, .q n]
  | .lVlds _ _ mem stride _ => [.s stride] ++ memRegs mem.base mem.cap mem.space
  | .lVsts _ d mem stride size => [.s stride] ++ vPair (size == 3) d ++ memRegs mem.base mem.cap mem.space
  | .lVgather _ _ mem x _ => [.v x] ++ memRegs mem.base mem.cap mem.space
  | .lVscatter _ d mem x size => [.v x] ++ vPair (size == 3) d ++ memRegs mem.base mem.cap mem.space
  | .lVsgather _ _ mem x => memRegs mem.base mem.cap mem.space ++ vPair true x
  | .lLdf _ _ mem _ _ => memRegs mem.base mem.cap mem.space
  | .lLdfTake _ _ mem _ _ => memRegs mem.base mem.cap mem.space
  | .lSte _ a mem _ _ => [.s a] ++ memRegs mem.base mem.cap mem.space
  | .lStf _ a mem _ _ => [.s a] ++ memRegs mem.base mem.cap mem.space
  | .lFset _ mem _ => memRegs mem.base mem.cap mem.space
  | .lFclr _ mem _ => memRegs mem.base mem.cap mem.space
  | .lFqry _ _ mem _ => memRegs mem.base mem.cap mem.space
  | .lTld _ _ mem shape => [.s shape, .s (shape + 1)] ++ memRegs mem.base mem.cap .virt
  | .lTst _ t _ mem => [.t t] ++ memRegs mem.base mem.cap .virt
  | .lTrel _ t => [.t t]
  | .lTqry _ t _ => [.t t]
  | .lQinit _ a _ _ _ _ => [.s a]
  | .lQadvp _ n _ _ => [.q n]
  | .lQadvc _ n _ _ => [.q n]
  | .lQqry _ _ n _ => [.q n]
  | .lAadd _ d mem _ _ _ => [.s d] ++ memRegs mem.base mem.cap mem.space
  | .lAmin _ d mem _ _ _ => [.s d] ++ memRegs mem.base mem.cap mem.space
  | .lAmax _ d mem _ _ _ => [.s d] ++ memRegs mem.base mem.cap mem.space
  | .lAminn _ d mem _ _ _ => [.s d] ++ memRegs mem.base mem.cap mem.space
  | .lAmaxn _ d mem _ _ _ => [.s d] ++ memRegs mem.base mem.cap mem.space
  | .lAand _ d mem _ _ _ => [.s d] ++ memRegs mem.base mem.cap mem.space
  | .lAor _ d mem _ _ _ => [.s d] ++ memRegs mem.base mem.cap mem.space
  | .lAxor _ d mem _ _ _ => [.s d] ++ memRegs mem.base mem.cap mem.space
  | .lAxchg _ d mem _ _ _ => [.s d] ++ memRegs mem.base mem.cap mem.space
  | .lAcas _ d mem _ _ _ => [.s d, .s (d + 1)] ++ memRegs mem.base mem.cap mem.space
  | .lAfadd _ d mem _ _ _ => [.s d] ++ memRegs mem.base mem.cap mem.space
  | .lAinc _ d mem _ _ _ => [.s d] ++ memRegs mem.base mem.cap mem.space
  | .lVscadd _ d mem x _ dbl _ _ => [.v x] ++ vPair dbl d ++ memRegs mem.base mem.cap mem.space
  | .lDprop _ d mem ss _ => [.s ss, .v d] ++ memRegs mem.base mem.cap mem.space
  | .lDread _ _ mem ss _ => [.s ss] ++ memRegs mem.base mem.cap mem.space
  | .lDrecycle _ ss mem _ => [.s ss] ++ memRegs mem.base mem.cap mem.space
  | .lPf _ mem _ => memRegs mem.base mem.cap mem.space
  | .lFence _ _ _ _ => []
  | .lBrel _ a => [.s a]
  | .lCld _ _ mem => memRegs mem.base mem.cap mem.space
  | .lCdrop _ _ => []
  | .lDsync _ => []
  | .mCall _ _ _ _ _ use _ => allTiles ++ (List.range 8).filterMap fun i => if use.getLsbD i then some (.mp (BitVec.ofNat 3 i)) else none
  | .mCommit _ _ => []
  | .mWait _ _ => []
  | .mStat _ _ _ => []
  | .mZero _ _ _ => []
  | .mProg _ a b => [.s a, .s b]
  | .mSbuild _ a b c => [.s a, .s b, .s c]
  | .mSstat _ _ => []
  | .xGet _ _ dst src len _ => [.s len] ++ memRegs dst.reg dst.cap dst.space ++ memRegs src.reg src.cap src.space
  | .xPut _ _ dst src len _ => [.s len] ++ memRegs dst.reg dst.cap dst.space ++ memRegs src.reg src.cap src.space
  | .xCopy _ _ dst src len _ => [.s len] ++ memRegs dst.reg dst.cap dst.space ++ memRegs src.reg src.cap src.space
  | .xFill _ _ dst val len _ _ => [.s val, .s len] ++ memRegs dst.reg dst.cap dst.space
  | .xStage _ _ dst src len _ _ => [.s len] ++ memRegs dst.reg dst.cap dst.space ++ memRegs src.reg src.cap src.space
  | .xSeal _ _ dst src len _ _ => [.s len] ++ memRegs dst.reg dst.cap dst.space ++ memRegs src.reg src.cap src.space
  | .xSgather _ _ dst src len _ desc => [.s len, .s desc, .s (desc + 1)] ++ memRegs dst.reg dst.cap dst.space ++ memRegs src.reg src.cap src.space
  | .xWait _ _ => []
  | .xStat _ _ _ => []
  | .xCancel _ _ => []
  | .uFeeda _ _ _ => []
  | .uFeedb _ _ _ => []
  | .uMac => []
  | .uMacq => []
  | .uFold => []
  | .uAccl _ _ _ => []
  | .uNorm _ _ _ => []
  | .uDraw _ _ _ => []
  | .uSgath _ => []
  | .uProbe _ _ => []
  | .uStoptest _ => []
  | .uSkipz _ _ => []
  | .uEdge _ _ => []
  | .uSwap _ _ => []
  | .uPset _ _ => []
  | .uPadd _ _ _ _ => []
  | .uPbr _ _ _ _ => []
  | .uMloop _ _ _ => []
  | .uWait _ _ => []
  | .uMend => []
  | .evPackageReset => []
  | .evRegisterWrite => []
  | .evClkcapWrite => []
  | .evClockStepChange => []
  | .evThermalTrip => []
  | .evTelemetrySample => []
  | .evClusterGate => []
  | .evClusterWake => []
  | .evLinkReset => []
  | .evEventRingConsume => []
  | .evEventRecordWrite => []
  | .evLaunchRecord => []
  | .evDispatchDecision => []
  | .evDictionaryLoad => []
  | .evLaunchIssuable => []
  | .evPriorityPreempt => []
  | .evLaunchComplete => []
  | .evReleaseFlush => []
  | .evCancellation => []
  | .evBundleDispatch => []
  | .evCheckpointCommit => []
  | .evTrapRollback => []
  | .evAsyncFaultReport => []
  | .evPreemptByBoundary => []
  | .evPreemptByRollback => []
  | .evContextSave => []
  | .evContextRestore => []
  | .evRemoteWriteArrival => []
  | .evReceiveQueuePerform => []
  | .evWriteAcceptance => []
  | .evRemoteBoundReply => []
  | .evPhaseArrival => []
  | .evTaggedWaitSatisfied => []
  | .evWaitTimeout => []
  | .evHostInboundWrite => []
  | .evSectorEvictWriteback => []
  | .evHomeProbe => []
  | .evTileFillComplete => []
  | .evTileFillFault => []
  | .evMatrixRecordStart => []
  | .evMicroTileCommit => []
  | .evMatrixCallComplete => []
  | .evMatrixMigrate => []
  | .evMigrationReturn => []
  | .evAccDrainDone => []
  | .evCopyComplete => []
  | .evStepCurrent => []
  | .evScheduleReread => []
  | .evProoferPrefetch => []
  | .evLeaseRenewal => []
  | .evReadLeaseGrant => []
  | .evLeaseRetry => []
  | .evWriteLeaseGrant => []
  | .evRenewalGrant => []
  | .evLeaseFenced => []
  | .evLeaseDeadline => []
  | .evPoolPageArrival => []
  | .evPutAcknowledge => []
  | .evPoolCacheEvict => []
  | .evStepCommit => []
  | .evStepLost => []
  | .evStepRerunCheck => []
  | .evFlitReceive => []
  | .evNakReceive => []
  | .evReplayTimeout => []
  | .evLaneErrorThreshold => []
  | .evLaneRetrainEnd => []
  | .evStrandLoss => []
  | .evStrandReturn => []
  | .evLinkLost => []
  | .evUncorrectableError => []
  | .evAtsInvalidation => []
  | .evResume => []
  | .evKill => []
  | .evPreempt => []
  | .evStepOn => []
  | .evStepOff => []
  | .evCancel => []
  | .evInvalVa => []
  | .evInvalAsid => []
  | .evInvalS2 => []
  | .evMboxOpen => []
  | .evMboxClose => []
  | .evSchedule => []
  | .evGetVersion => []
  | .evGetCapabilities => []
  | .evNegotiateAlgorithms => []
  | .evGetDigests => []
  | .evGetCertificate => []
  | .evChallenge => []
  | .evGetMeasurements => []
  | .evKeyExchange => []
  | .evFinish => []
  | .evHeartbeat => []
  | .evKeyUpdate => []
  | .evEndSession => []
  | .evSetCertificate => []
  | .evGetCsr => []
  | .evChunkSend => []
  | .evChunkGet => []
  | .evUnsupportedRequest => []
  | .evOwnerAuth => []
  | .evSetKey => []
  | .evClearKey => []
  | .evLockInterface => []
  | .evStopInterface => []
  | .evTdiError => []
  | .evRemoteRequestArrival => []
  | .evRemoteReply => []
  | .evPatrolScrub => []
  | .evTdiRun => []
  | .evIdeKm => []

/-- The registers an operation reads, its predicate among them (R61). -/
def opReads (i : Instr) : List RegName :=
  match opPred i with
  | some q => .p q.idx :: opSources i
  | none => opSources i

/-- The registers an operation writes. -/
def opWrites : Instr → List RegName
  | .cNop _ => []
  | .cBr _ _ => []
  | .cCall _ _ => [.s 63]
  | .cRet _ => []
  | .cBrs _ _ => []
  | .cCalls _ _ => [.s 63]
  | .cLoop _ _ _ => []
  | .cLoopi _ _ _ => []
  | .cLbreak _ => []
  | .cLnext _ => []
  | .cYield _ => []
  | .cTrap _ _ => []
  | .cExit _ => []
  | .cBreak _ => []
  | .aAdd _ d _ _ => [.s d]
  | .aSub _ d _ _ => [.s d]
  | .aMul _ d _ _ => [.s d]
  | .aMulh _ d _ _ => [.s d]
  | .aMulhn _ d _ _ => [.s d]
  | .aDiv _ d _ _ => [.s d]
  | .aDivn _ d _ _ => [.s d]
  | .aRem _ d _ _ => [.s d]
  | .aRemn _ d _ _ => [.s d]
  | .aAnd _ d _ _ => [.s d]
  | .aOr _ d _ _ => [.s d]
  | .aXor _ d _ _ => [.s d]
  | .aAndn _ d _ _ => [.s d]
  | .aShl _ d _ _ => [.s d]
  | .aShr _ d _ _ => [.s d]
  | .aSar _ d _ _ => [.s d]
  | .aRotl _ d _ _ => [.s d]
  | .aMin _ d _ _ => [.s d]
  | .aMax _ d _ _ => [.s d]
  | .aMinn _ d _ _ => [.s d]
  | .aMaxn _ d _ _ => [.s d]
  | .aSel _ d _ _ _ => [.s d]
  | .aPopc _ d _ => [.s d]
  | .aClz _ d _ => [.s d]
  | .aCtz _ d _ => [.s d]
  | .aBext _ d _ _ => [.s d]
  | .aBins _ d _ _ _ => [.s d]
  | .aLea _ d _ _ _ => [.s d]
  | .aMadd _ d _ _ _ => [.s d]
  | .aAddi _ d _ _ => [.s d]
  | .aAndi _ d _ _ => [.s d]
  | .aOri _ d _ _ => [.s d]
  | .aXori _ d _ _ => [.s d]
  | .aShli _ d _ _ => [.s d]
  | .aShri _ d _ _ => [.s d]
  | .aSari _ d _ _ => [.s d]
  | .aMovi _ d _ => [.s d]
  | .aMovhi _ d _ _ => [.s d]
  | .aMuli _ d _ _ => [.s d]
  | .aCmp _ d _ _ _ => [.p d]
  | .aCmpi _ d _ _ _ => [.p d]
  | .aPand _ d _ _ => [.p d]
  | .aPor _ d _ _ => [.p d]
  | .aPxor _ d _ _ => [.p d]
  | .aPnot _ d _ => [.p d]
  | .aPbit _ d _ _ => [.p d]
  | .aFadd _ d _ _ _ _ => [.s d]
  | .aFsub _ d _ _ _ _ => [.s d]
  | .aFmul _ d _ _ _ _ => [.s d]
  | .aFma _ d _ _ _ _ _ => [.s d]
  | .aFdiv _ d _ _ _ _ => [.s d]
  | .aFsqrt _ d _ _ _ => [.s d]
  | .aFmin _ d _ _ _ => [.s d]
  | .aFmax _ d _ _ _ => [.s d]
  | .aFcmp _ d _ _ _ _ => [.p d]
  | .aFcvt _ d _ _ _ _ _ => [.s d]
  | .aFclass _ d _ _ => [.s d]
  | .aSysrd _ d _ => [.s d]
  | .aSyswr _ _ _ => []
  | .aMpset _ m _ => [.mp m]
  | .aMpget _ d _ => [.s d]
  | .aLidx _ d _ => [.s d]
  | .vAdd _ d _ _ t _ => vPair (wideTy t) d
  | .vSub _ d _ _ t _ => vPair (wideTy t) d
  | .vMul _ d _ _ t _ => vPair (wideTy t) d
  | .vMulh _ d _ _ t _ => vPair (wideTy t) d
  | .vMad _ d _ _ _ t _ => vPair (wideTy t) d
  | .vAbs _ d _ t _ => vPair (wideTy t) d
  | .vNeg _ d _ t _ => vPair (wideTy t) d
  | .vMin _ d _ _ t _ => vPair (wideTy t) d
  | .vMax _ d _ _ t _ => vPair (wideTy t) d
  | .vAnd _ d _ _ t _ => vPair (wideTy t) d
  | .vOr _ d _ _ t _ => vPair (wideTy t) d
  | .vXor _ d _ _ t _ => vPair (wideTy t) d
  | .vAndn _ d _ _ t _ => vPair (wideTy t) d
  | .vShl _ d _ _ t _ => vPair (wideTy t) d
  | .vShr _ d _ _ t _ => vPair (wideTy t) d
  | .vSar _ d _ _ t _ => vPair (wideTy t) d
  | .vCmp _ d _ _ _ _ _ _ => [.k d]
  | .vSel _ d _ _ _ t _ => vPair (wideTy t) d
  | .vMov _ d _ _ => [.v d]
  | .vBcast _ d _ t _ => vPair (wideTy t) d
  | .vPopc _ d _ t _ => vPair (wideTy t) d
  | .vClz _ d _ t _ => vPair (wideTy t) d
  | .vAddsat _ d _ _ t _ => vPair (wideTy t) d
  | .vSubsat _ d _ _ t _ => vPair (wideTy t) d
  | .vLane _ d t _ => vPair (wideTy t) d
  | .vFadd _ d _ _ _ _ _ => [.v d]
  | .vFsub _ d _ _ _ _ _ => [.v d]
  | .vFmul _ d _ _ _ _ _ => [.v d]
  | .vFma _ d _ _ _ _ _ _ => [.v d]
  | .vFms _ d _ _ _ _ _ _ => [.v d]
  | .vFmin _ d _ _ _ _ => [.v d]
  | .vFmax _ d _ _ _ _ => [.v d]
  | .vFrcp _ d _ _ _ => [.v d]
  | .vFrsq _ d _ _ _ => [.v d]
  | .vFexp2 _ d _ _ _ => [.v d]
  | .vFlog2 _ d _ _ _ => [.v d]
  | .vFcmp _ d _ _ _ _ _ _ => [.k d]
  | .vFclass _ d _ _ _ => [.v d]
  | .vFabs _ d _ _ _ => [.v d]
  | .vFneg _ d _ _ _ => [.v d]
  | .vCvt _ d _ dt _ _ _ _ => vPair (wideTy dt) d
  | .vQuant _ d _ _ _ _ _ _ => [.v d]
  | .vDequant _ d _ _ _ _ => [.v d]
  | .vPack _ d _ _ _ _ => [.v d]
  | .vUnpack _ d _ b _ _ => [.v d, .v b]
  | .vRed _ d _ t _ _ => vPair (wideTy t) d
  | .vScan _ d _ t _ _ => vPair (wideTy t) d
  | .vFred _ d _ _ _ _ _ => [.v d]
  | .vFscan _ d _ _ _ _ _ => [.v d]
  | .vPerm _ d _ _ t _ => vPair (wideTy t) d
  | .vSlide _ d _ _ t _ => vPair (wideTy t) d
  | .vRot _ d _ _ t _ => vPair (wideTy t) d
  | .vCompress _ d _ t _ => vPair (wideTy t) d
  | .vExpand _ d _ t _ => vPair (wideTy t) d
  | .vZip _ d _ _ t _ _ => vPair (wideTy t) d
  | .vUnzip _ d _ _ t _ _ => vPair (wideTy t) d
  | .vExtr _ d _ _ _ => [.s d]
  | .vIns _ d _ _ t => vPair (wideTy t) d
  | .vMpush _ _ => []
  | .vMinv _ => []
  | .vMpop _ => []
  | .vKmov _ d _ => [.k d]
  | .vKop _ d _ _ _ => [.k d]
  | .vKpopc _ d _ => [.s d]
  | .vSkip _ _ => []
  | .vHashCrc _ d _ _ _ _ => [.v d]
  | .vHashMix _ d _ _ t _ => vPair (wideTy t) d
  | .vHashs _ d _ _ _ _ => [.v d]
  | .vPart _ d _ _ _ => [.v d]
  | .vPartCnt _ d _ _ kc _ => [.s d, .k kc]
  | .vScmp _ d _ _ _ _ => [.v d]
  | .vSfind _ d _ _ _ _ => [.v d]
  | .vSmatch _ d _ _ _ _ => [.k d]
  | .vAccrd _ d _ _ _ => [.v d]
  | .vAccwr _ _ _ _ _ => []
  | .lLd _ d _ _ _ => [.s d]
  | .lSt _ _ _ _ => []
  | .lVld _ d _ => [.v d]
  | .lVst _ _ _ => []
  | .lVldQueue _ d n _ _ _ => [.v d, .q n]
  | .lVstQueue _ _ n _ _ _ => [.q n]
  | .lVlds _ d _ _ size => vPair (size == 3) d
  | .lVsts _ _ _ _ _ => []
  | .lVgather _ d _ _ size => vPair (size == 3) d
  | .lVscatter _ _ _ _ _ => []
  | .lVsgather _ d _ _ => [.v d]
  | .lLdf _ d _ _ _ => [.s d]
  | .lLdfTake _ d _ _ _ => [.s d]
  | .lSte _ _ _ _ _ => []
  | .lStf _ _ _ _ _ => []
  | .lFset _ _ _ => []
  | .lFclr _ _ _ => []
  | .lFqry _ d _ _ => [.s d]
  | .lTld _ t _ _ => [.t t]
  | .lTst _ _ _ _ => []
  | .lTrel _ t => [.t t]
  | .lTqry _ _ d => [.s d]
  | .lQinit _ _ n _ _ _ => [.q n]
  | .lQadvp _ n _ _ => [.q n]
  | .lQadvc _ n _ _ => [.q n]
  | .lQqry _ d n _ => [.s d, .q n]
  | .lAadd _ d _ _ _ _ => [.s d]
  | .lAmin _ d _ _ _ _ => [.s d]
  | .lAmax _ d _ _ _ _ => [.s d]
  | .lAminn _ d _ _ _ _ => [.s d]
  | .lAmaxn _ d _ _ _ _ => [.s d]
  | .lAand _ d _ _ _ _ => [.s d]
  | .lAor _ d _ _ _ _ => [.s d]
  | .lAxor _ d _ _ _ _ => [.s d]
  | .lAxchg _ d _ _ _ _ => [.s d]
  | .lAcas _ d _ _ _ _ => [.s d]
  | .lAfadd _ d _ _ _ _ => [.s d]
  | .lAinc _ d _ _ _ _ => [.s d]
  | .lVscadd _ _ _ _ _ _ _ _ => []
  | .lDprop _ d _ ss _ => [.v d, .s ss]
  | .lDread _ d _ ss _ => [.v d, .s ss]
  | .lDrecycle _ _ _ _ => []
  | .lPf _ _ _ => []
  | .lFence _ _ _ _ => []
  | .lBrel _ _ => []
  | .lCld _ d _ => [.c d]
  | .lCdrop _ d => [.c d]
  | .lDsync _ => []
  | .mCall _ _ _ _ _ _ _ => []
  | .mCommit _ _ => []
  | .mWait _ _ => []
  | .mStat _ d _ => [.s d]
  | .mZero _ _ _ => []
  | .mProg _ _ _ => []
  | .mSbuild _ _ _ _ => []
  | .mSstat _ d => [.s d]
  | .xGet _ _ _ _ _ _ => []
  | .xPut _ _ _ _ _ _ => []
  | .xCopy _ _ _ _ _ _ => []
  | .xFill _ _ _ _ _ _ _ => []
  | .xStage _ _ _ _ _ _ _ => []
  | .xSeal _ _ _ _ _ _ _ => []
  | .xSgather _ _ _ _ _ _ _ => []
  | .xWait _ _ => []
  | .xStat _ d _ => [.s d]
  | .xCancel _ _ => []
  | .uFeeda _ _ _ => []
  | .uFeedb _ _ _ => []
  | .uMac => []
  | .uMacq => []
  | .uFold => []
  | .uAccl _ _ _ => []
  | .uNorm _ _ _ => []
  | .uDraw _ _ _ => []
  | .uSgath _ => []
  | .uProbe _ _ => []
  | .uStoptest _ => []
  | .uSkipz _ _ => []
  | .uEdge _ _ => []
  | .uSwap _ _ => []
  | .uPset _ _ => []
  | .uPadd _ _ _ _ => []
  | .uPbr _ _ _ _ => []
  | .uMloop _ _ _ => []
  | .uWait _ _ => []
  | .uMend => []
  | .evPackageReset => []
  | .evRegisterWrite => []
  | .evClkcapWrite => []
  | .evClockStepChange => []
  | .evThermalTrip => []
  | .evTelemetrySample => []
  | .evClusterGate => []
  | .evClusterWake => []
  | .evLinkReset => []
  | .evEventRingConsume => []
  | .evEventRecordWrite => []
  | .evLaunchRecord => []
  | .evDispatchDecision => []
  | .evDictionaryLoad => []
  | .evLaunchIssuable => []
  | .evPriorityPreempt => []
  | .evLaunchComplete => []
  | .evReleaseFlush => []
  | .evCancellation => []
  | .evBundleDispatch => []
  | .evCheckpointCommit => []
  | .evTrapRollback => []
  | .evAsyncFaultReport => []
  | .evPreemptByBoundary => []
  | .evPreemptByRollback => []
  | .evContextSave => []
  | .evContextRestore => []
  | .evRemoteWriteArrival => []
  | .evReceiveQueuePerform => []
  | .evWriteAcceptance => []
  | .evRemoteBoundReply => []
  | .evPhaseArrival => []
  | .evTaggedWaitSatisfied => []
  | .evWaitTimeout => []
  | .evHostInboundWrite => []
  | .evSectorEvictWriteback => []
  | .evHomeProbe => []
  | .evTileFillComplete => []
  | .evTileFillFault => []
  | .evMatrixRecordStart => []
  | .evMicroTileCommit => []
  | .evMatrixCallComplete => []
  | .evMatrixMigrate => []
  | .evMigrationReturn => []
  | .evAccDrainDone => []
  | .evCopyComplete => []
  | .evStepCurrent => []
  | .evScheduleReread => []
  | .evProoferPrefetch => []
  | .evLeaseRenewal => []
  | .evReadLeaseGrant => []
  | .evLeaseRetry => []
  | .evWriteLeaseGrant => []
  | .evRenewalGrant => []
  | .evLeaseFenced => []
  | .evLeaseDeadline => []
  | .evPoolPageArrival => []
  | .evPutAcknowledge => []
  | .evPoolCacheEvict => []
  | .evStepCommit => []
  | .evStepLost => []
  | .evStepRerunCheck => []
  | .evFlitReceive => []
  | .evNakReceive => []
  | .evReplayTimeout => []
  | .evLaneErrorThreshold => []
  | .evLaneRetrainEnd => []
  | .evStrandLoss => []
  | .evStrandReturn => []
  | .evLinkLost => []
  | .evUncorrectableError => []
  | .evAtsInvalidation => []
  | .evResume => []
  | .evKill => []
  | .evPreempt => []
  | .evStepOn => []
  | .evStepOff => []
  | .evCancel => []
  | .evInvalVa => []
  | .evInvalAsid => []
  | .evInvalS2 => []
  | .evMboxOpen => []
  | .evMboxClose => []
  | .evSchedule => []
  | .evGetVersion => []
  | .evGetCapabilities => []
  | .evNegotiateAlgorithms => []
  | .evGetDigests => []
  | .evGetCertificate => []
  | .evChallenge => []
  | .evGetMeasurements => []
  | .evKeyExchange => []
  | .evFinish => []
  | .evHeartbeat => []
  | .evKeyUpdate => []
  | .evEndSession => []
  | .evSetCertificate => []
  | .evGetCsr => []
  | .evChunkSend => []
  | .evChunkGet => []
  | .evUnsupportedRequest => []
  | .evOwnerAuth => []
  | .evSetKey => []
  | .evClearKey => []
  | .evLockInterface => []
  | .evStopInterface => []
  | .evTdiError => []
  | .evRemoteRequestArrival => []
  | .evRemoteReply => []
  | .evPatrolScrub => []
  | .evTdiRun => []
  | .evIdeKm => []

/-- Destinations s0, p0 and k0 never conflict and hold no value (R36, R68). -/
def hardWired : RegName → Bool
  | .s r => r == 0 | .p r => r == 0 | .k r => r == 0 | .c r => r == 0
  | .v _ => false | .t _ => false | .q _ => false | .mp _ => false | .mask => false | .sys _ => false

def realRegs (l : List RegName) : List RegName := l.filter fun r => !hardWired r

def meets (a b : List RegName) : Bool := a.any fun r => b.elem r

/-- The accumulators an `mcall` or `mzero` covers and the one a V- or L-slot operation names (R184). -/
def accRange : Instr → Option (Nat × Nat)
  | .mCall _ _ acc countM1 _ _ _ => some (acc.toNat, acc.toNat + countM1.toNat)
  | .mZero _ acc countM1 => some (acc.toNat, acc.toNat + countM1.toNat)
  | _ => none

def accNamed : Instr → Option Nat
  | .vAccrd _ _ acc _ _ => some acc.toNat
  | .vAccwr _ _ acc _ _ => some acc.toNat
  | .lTst _ _ acc _ => some acc.toNat
  | _ => none

/-- ILLEGAL_BUNDLE between the operations of one bundle: one destination twice (R36), or an accumulator named beside a call that
covers it (R184). -/
def clash (ops : List (Slot × Instr)) : Bool :=
  ops.any fun a => ops.any fun b =>
    (a.1.toNat < b.1.toNat && meets (realRegs (opWrites a.2)) (realRegs (opWrites b.2)))
    || (match accRange a.2, accNamed b.2 with
        | some (lo, hi), some n => decide (lo ≤ n) && decide (n ≤ hi)
        | _, _ => false)

/-- The field rules that need the context: accumulators below 2·ACCBANKS (R32, R68), a loaded routine (R76). -/
def ctxFieldOk (c : Context) (i : Instr) : Bool :=
  (match accNamed i with | some n => decide (n < 2 * c.accBanks) | Option.none => true)
  && (match accRange i with | some (_, hi) => decide (hi < 2 * c.accBanks) | Option.none => true)
  && (match i with
      | .mCall _ routine _ _ _ _ _ => c.micro.entries.any fun e => e.1 == routine.toNat
      | _ => true)

/-- The register that an operation writes later than its dispatch, which it does not name: mp7, at the completion of a SAMPLE call
(R222). -/
def opOwes : Instr → List RegName
  | .mCall _ _ _ _ _ _ mode => if mode.getLsbD 0 then [.mp 7] else []
  | _ => []

/-- Registers ready under R36 for an operation whose bundle is `seq`: no earlier operation that has not dispatched writes what it
reads or writes, or reads what it writes, and no withheld operation still owes one of them. -/
def Context.regsReady (c : Context) (seq : Nat) (i : Instr) : Bool :=
  let r := realRegs (opReads i)
  let w := realRegs (opWrites i ++ opOwes i)
  !meets (r ++ w) c.pending && c.queue.all fun p =>
    decide (seq ≤ p.id.seq) ||
      (!meets (r ++ w) (realRegs (opWrites p.instr ++ opOwes p.instr)) && !meets w (realRegs (opReads p.instr)))

/-- A call of the matrix engine, and what it waits for in the L and V slots (R185). -/
def isCall : Instr → Bool
  | .mCall .. => true
  | .mZero .. => true
  | _ => false

def beforeCall : Instr → Bool
  | .lTld .. => true
  | .lTst .. => true
  | .lTrel .. => true
  | .vAccrd .. => true
  | .vAccwr .. => true
  | _ => false

def isMcall : Instr → Bool
  | .mCall .. => true
  | _ => false

/-- An operation that moves a tile's state; it dispatches after an `mcall` of its own bundle, which reads the state from before the
bundle (R36). -/
def movesTile : Instr → Bool
  | .lTld .. => true
  | .lTrel .. => true
  | _ => false

/-- The mask-stack instructions (R154), and the accesses of the L slot that the mask top governs (R156). -/
def isMaskOp : Instr → Bool
  | .vMpush .. => true
  | .vMinv .. => true
  | .vMpop .. => true
  | _ => false

def usesMask : Instr → Bool
  | .lVld .. => true
  | .lVst .. => true
  | .lVldQueue .. => true
  | .lVstQueue .. => true
  | .lVlds .. => true
  | .lVsts .. => true
  | .lVgather .. => true
  | .lVscatter .. => true
  | .lVsgather .. => true
  | .lVscadd .. => true
  | _ => false

/-- R37 for an operation in a slot's queue, with R184 and R185 beside it. An access that the mask top governs, in a bundle with a mask-stack
instruction, reads the stack from before that bundle: while that instruction waits, it waits for those of earlier bundles (R156). -/
def Context.opReady (c : Context) (o : PendOp) : Bool :=
  (c.queue.all fun p => !(p.id.slot == o.id.slot && decide (p.id.seq < o.id.seq)))
  && c.regsReady o.id.seq o.instr
  && (c.queue.all fun p => decide (o.id.seq < p.id.seq + 16))
  && (c.queue.all fun p => !(o.sync.getLsbD p.id.slot.toNat && decide (p.id.seq < o.id.seq)))
  && (!o.drain || c.queue.all fun p => decide (o.id.seq ≤ p.id.seq))
  && (match accNamed o.instr with
      | some _ => c.queue.all fun p => !(isCall p.instr && decide (p.id.seq < o.id.seq))
      | Option.none => true)
  && (!isCall o.instr || c.queue.all fun p => !(beforeCall p.instr && decide (p.id.seq < o.id.seq)))
  && (!movesTile o.instr || c.queue.all fun p => !(isMcall p.instr && p.id.seq == o.id.seq))
  && (!(usesMask o.instr && c.queue.any fun p => isMaskOp p.instr && p.id.seq == o.id.seq)
      || c.queue.all fun p => !(isMaskOp p.instr && decide (p.id.seq < o.id.seq)))

end Sys2Proof.Machine
end

