-- ==== Sys2Proof/Machine/Float.lean ====
section
/-! DEFINITION. Float.lean: the number formats of 05_number_formats: exact values, rounding and saturation (R97 to R110), and
the exact operations the arithmetic instructions round. -/
namespace Sys2Proof.Machine

/-- A floating-point format of Table 5.1: exponent and fraction widths; `e4` for fp8e4, which has no infinities (R98). -/
structure Fmt where
  eb : Nat
  fb : Nat
  e4 : Bool := false
  deriving DecidableEq, Repr

def fp64 : Fmt := { eb := 11, fb := 52 }
def fp32 : Fmt := { eb := 8, fb := 23 }
def fp16 : Fmt := { eb := 5, fb := 10 }
def bf16 : Fmt := { eb := 8, fb := 7 }
def fp8e5 : Fmt := { eb := 5, fb := 2 }
def fp8e4 : Fmt := { eb := 4, fb := 3, e4 := true }

/-- The floating format of a type code (Table 3.11); fp32 where the code is none. -/
def fmtOf (t : Ty) : Fmt :=
  match t.toNat with
  | 8 => fp8e4 | 9 => fp8e5 | 10 => fp16 | 11 => bf16 | 15 => fp64 | _ => fp32

def isFloatTy (t : Ty) : Bool := (8 ≤ t.toNat && t.toNat ≤ 12) || t.toNat == 15

def Fmt.bias (f : Fmt) : Nat := 2 ^ (f.eb - 1) - 1
def Fmt.width (f : Fmt) : Nat := 1 + f.eb + f.fb
def Fmt.signBit (f : Fmt) : Nat := 2 ^ (f.eb + f.fb)
/-- Exponent of the least significant bit of a subnormal. -/
def Fmt.lsb (f : Fmt) : Int := 1 - (f.bias : Int) - f.fb

/-- The canonical NaN (Table 5.2). -/
def Fmt.nan (f : Fmt) : Nat :=
  if f.e4 then 0x7F else (2 ^ f.eb - 1) * 2 ^ f.fb + 2 ^ (f.fb - 1)

/-- The largest finite magnitude's encoding (Table 5.1). -/
def Fmt.maxFinite (f : Fmt) : Nat :=
  if f.e4 then 0x7E else (2 ^ f.eb - 1) * 2 ^ f.fb - 1

/-- An infinite result (R98, R107). -/
def Fmt.infOf (f : Fmt) (neg sat : Bool) : Nat :=
  if sat then neg.toNat * f.signBit + f.maxFinite
  else if f.e4 then f.nan
  else neg.toNat * f.signBit + (2 ^ f.eb - 1) * 2 ^ f.fb

/-- An exact value: not a number, an infinity, or (−1)^neg × m × 2^e, a little more than that in magnitude when `st` (a part
below the last bit of m that rounding has to know of). -/
inductive FVal where
  | nan
  | inf (neg : Bool)
  | fin (neg : Bool) (m : Nat) (e : Int) (st : Bool)
  deriving DecidableEq, Repr

/-- The value an encoding stands for (R97, R98). -/
def Fmt.decode (f : Fmt) (x : Nat) : FVal :=
  let neg := x.testBit (f.eb + f.fb)
  let E := (x >>> f.fb) % 2 ^ f.eb
  let F := x % 2 ^ f.fb
  if E = 0 then .fin neg F f.lsb false
  else if f.e4 then
    if E = 15 && F = 7 then .nan else .fin neg (2 ^ f.fb + F) (f.lsb + (E - 1 : Nat)) false
  else if E = 2 ^ f.eb - 1 then (if F = 0 then .inf neg else .nan)
  else .fin neg (2 ^ f.fb + F) (f.lsb + (E - 1 : Nat)) false

/-- Whether the magnitude is rounded away from zero (R105): the mode, the sign, whether the kept part is odd, the part dropped
out of `2^d`, and a part below it. -/
def roundsUp (rm : Rm) (neg odd : Bool) (r d : Nat) (st : Bool) : Bool :=
  let inexact := r != 0 || st
  match rm.toNat with
  | 0 => decide (2 * r > 2 ^ d) || (decide (2 * r = 2 ^ d) && decide (d > 0) && (st || odd))
  | 1 => false
  | 2 => !neg && inexact
  | _ => neg && inexact

/-- Round an exact value into a format (R101, R105 to R107, Table 5.4). -/
def Fmt.round (f : Fmt) (rm : Rm) (sat : Bool) : FVal → Nat
  | .nan => f.nan
  | .inf neg => f.infOf neg sat
  | .fin neg m e st =>
    let sg := neg.toNat * f.signBit
    if m = 0 && !st then sg
    else
      let len : Nat := if m = 0 then 0 else Nat.log2 m + 1
      let q : Int := max (e + len - (f.fb + 1)) f.lsb
      let d := (q - e).toNat
      let M := if q ≤ e then m * 2 ^ (e - q).toNat else m >>> d
      let r := if q ≤ e then 0 else m % 2 ^ d
      let M := if roundsUp rm neg (M % 2 == 1) r (if q ≤ e then 0 else d) st then M + 1 else M
      let carry := decide (M = 2 ^ (f.fb + 1))
      let M := if carry then 2 ^ f.fb else M
      let q := if carry then q + 1 else q
      if M < 2 ^ f.fb then sg + M
      else
        let E := (q - f.lsb).toNat + 1
        let F := M - 2 ^ f.fb
        let tooBig := if f.e4 then decide (E > 15) || (E == 15 && F == 7) else decide (E ≥ 2 ^ f.eb - 1)
        if tooBig then
          if sat then sg + f.maxFinite
          else
            match rm.toNat, neg with
            | 0, _ => f.infOf neg false
            | 1, _ => sg + f.maxFinite
            | 2, false => f.infOf false false
            | 2, true => sg + f.maxFinite
            | _, false => sg + f.maxFinite
            | _, true => f.infOf true false
        else sg + E * 2 ^ f.fb + F

def FVal.isNan : FVal → Bool
  | .nan => true | _ => false
def FVal.isFin : FVal → Bool
  | .fin .. => true | _ => false
def FVal.isZero : FVal → Bool
  | .fin _ 0 _ false => true | _ => false
def FVal.neg? : FVal → Bool
  | .inf n => n | .fin n _ _ _ => n | .nan => false
def FVal.negate : FVal → FVal
  | .nan => .nan | .inf n => .inf (!n) | .fin n m e st => .fin (!n) m e st

/-- A finite value as an integer over 2^e, for an e no higher than its own exponent. -/
def scaled (neg : Bool) (m : Nat) (e lo : Int) : Int :=
  let a : Int := (m : Int) * 2 ^ (e - lo).toNat
  if neg then -a else a

def ofInt (i lo : Int) (zeroNeg : Bool) : FVal :=
  if i = 0 then .fin zeroNeg 0 lo false else .fin (i < 0) i.natAbs lo false

/-- Exact sum; an exact zero takes the sign of R102. -/
def FVal.add (rm : Rm) : FVal → FVal → FVal
  | .nan, _ => .nan
  | _, .nan => .nan
  | .inf a, .inf b => if a = b then .inf a else .nan
  | .inf a, _ => .inf a
  | _, .inf b => .inf b
  | .fin na ma ea sa, .fin nb mb eb sb =>
    let lo := min ea eb
    let i := scaled na ma ea lo + scaled nb mb eb lo
    let zn := if ma = 0 && mb = 0 && na = nb then na else rm == 3
    match ofInt i lo zn with
    | .fin n m e _ => .fin n m e (sa || sb)
    | v => v

/-- Exact product. -/
def FVal.mul : FVal → FVal → FVal
  | .nan, _ => .nan
  | _, .nan => .nan
  | .inf a, .inf b => .inf (a != b)
  | .inf a, .fin b m _ _ => if m = 0 then .nan else .inf (a != b)
  | .fin a m _ _, .inf b => if m = 0 then .nan else .inf (a != b)
  | .fin na ma ea _, .fin nb mb eb _ => .fin (na != nb) (ma * mb) (ea + eb) false

/-- Quotient to `p` bits and a part below them. -/
def FVal.div (p : Nat) : FVal → FVal → FVal
  | .nan, _ => .nan
  | _, .nan => .nan
  | .inf _, .inf _ => .nan
  | .inf a, .fin b _ _ _ => .inf (a != b)
  | .fin a _ _ _, .inf b => .fin (a != b) 0 0 false
  | .fin na ma ea _, .fin nb mb eb _ =>
    if mb = 0 then (if ma = 0 then .nan else .inf (na != nb))
    else if ma = 0 then .fin (na != nb) 0 0 false
    else
      let k := p + Nat.log2 mb + 1
      let n := ma * 2 ^ k
      .fin (na != nb) (n / mb) (ea - eb - k) (decide (n % mb ≠ 0))

/-- Integer square root, bit by bit from 2^b downward. -/
def isqrtFrom (x : Nat) : Nat → Nat → Nat
  | 0, r => if (r + 1) * (r + 1) ≤ x then r + 1 else r
  | b + 1, r => isqrtFrom x b (if (r + 2 ^ (b + 1)) * (r + 2 ^ (b + 1)) ≤ x then r + 2 ^ (b + 1) else r)

def isqrt (x : Nat) : Nat := isqrtFrom x (Nat.log2 x / 2 + 1) 0

/-- Square root to `p` bits and a part below them; −0 gives −0. -/
def FVal.sqrt (p : Nat) : FVal → FVal
  | .nan => .nan
  | .inf n => if n then .nan else .inf false
  | .fin n m e _ =>
    if m = 0 then .fin n 0 e false
    else if n then .nan
    else
      let k := 2 * p + (if (e % 2 = 0) then 0 else 1)
      let x := m * 2 ^ k
      let r := isqrt x
      .fin false r ((e - k) / 2) (decide (r * r ≠ x))

/-- Order of two values that are not NaN: −1, 0, 1. Zeros are equal. -/
def FVal.cmp : FVal → FVal → Int
  | .inf a, .inf b => if a = b then 0 else if a then -1 else 1
  | .inf a, _ => if a then -1 else 1
  | _, .inf b => if b then 1 else -1
  | .fin na ma ea _, .fin nb mb eb _ =>
    let lo := min ea eb
    let d := scaled na ma ea lo - scaled nb mb eb lo
    if d < 0 then -1 else if d = 0 then 0 else 1
  | _, _ => 0

/-- Round a finite value to an integer by a mode (R108). -/
def roundToInt (rm : Rm) (neg : Bool) (m : Nat) (e : Int) (st : Bool) : Int :=
  let a : Nat :=
    if 0 ≤ e then m * 2 ^ e.toNat
    else
      let d := (-e).toNat
      let q := m >>> d
      if roundsUp rm neg (q % 2 == 1) (m % 2 ^ d) d st then q + 1 else q
  if neg then -(a : Int) else a

/-! ### Integers (R103) and conversions (R108) -/

/-- Width in bits of a type code (Table 3.11). -/
def tyBits (t : Ty) : Nat :=
  match t.toNat with
  | 0 | 4 | 8 | 9 | 13 => 8
  | 1 | 5 | 10 | 11 => 16
  | 2 | 6 | 12 => 32
  | 14 => 4
  | _ => 64

/-- Signed integer type codes 0 to 3. -/
def tySigned (t : Ty) : Bool := decide (t.toNat ≤ 3)

/-- The value of a w-bit pattern. -/
def intVal (signed : Bool) (w x : Nat) : Int :=
  let x := x % 2 ^ w
  if signed && x.testBit (w - 1) then (x : Int) - 2 ^ w else x

/-- The low w bits of an integer. -/
def intBits (w : Nat) (i : Int) : Nat := (i % 2 ^ w).toNat

def intMin (signed : Bool) (w : Nat) : Int := if signed then -(2 ^ (w - 1)) else 0
def intMax (signed : Bool) (w : Nat) : Int := if signed then 2 ^ (w - 1) - 1 else 2 ^ w - 1

def inRange (signed : Bool) (w : Nat) (i : Int) : Bool := decide (intMin signed w ≤ i) && decide (i ≤ intMax signed w)

def clampInt (signed : Bool) (w : Nat) (i : Int) : Int := max (intMin signed w) (min i (intMax signed w))

/-- The indefinite integer of R108. -/
def indefinite (signed : Bool) (w : Nat) : Nat := if signed then 2 ^ (w - 1) else 2 ^ w - 1

/-- Table 5.5, float to integer. -/
def floatToInt (rm : Rm) (sat signed : Bool) (w : Nat) : FVal → Nat
  | .nan => if sat then 0 else indefinite signed w
  | .inf n => if sat then intBits w (if n then intMin signed w else intMax signed w) else indefinite signed w
  | .fin n m e st =>
    let i := roundToInt rm n m e st
    if inRange signed w i then intBits w i
    else if sat then intBits w (clampInt signed w i) else indefinite signed w

/-- Table 5.5: convert an element between any two types of codes 0 to 12 and 15 (q8 and q4 as unsigned codes). -/
def convert (rm : Rm) (sat : Bool) (dt st : Ty) (x : Nat) : Nat :=
  if isFloatTy st then
    let v := (fmtOf st).decode x
    if isFloatTy dt then (fmtOf dt).round rm sat v
    else floatToInt rm sat (tySigned dt) (tyBits dt) v
  else
    let i := intVal (tySigned st) (tyBits st) x
    if isFloatTy dt then (fmtOf dt).round rm sat (ofInt i 0 false)
    else if sat then intBits (tyBits dt) (clampInt (tySigned dt) (tyBits dt) i) else intBits (tyBits dt) i

/-- A quantised code's value σ × (c − z) in fp32 (R109). -/
def dequant (scale : Nat) (z c : Nat) : Nat :=
  fp32.round 0 false ((fp16.decode scale).mul (ofInt ((c : Int) - z) 0 false))

/-- Round the exact sum, difference, product, fused sum, quotient and root of encodings. -/
def Fmt.addBits (f : Fmt) (rm : Rm) (x y : Nat) : Nat := f.round rm false ((f.decode x).add rm (f.decode y))
def Fmt.subBits (f : Fmt) (rm : Rm) (x y : Nat) : Nat := f.round rm false ((f.decode x).add rm (f.decode y).negate)
def Fmt.mulBits (f : Fmt) (rm : Rm) (x y : Nat) : Nat := f.round rm false ((f.decode x).mul (f.decode y))
def Fmt.fmaBits (f : Fmt) (rm : Rm) (x y z : Nat) : Nat :=
  f.round rm false (((f.decode x).mul (f.decode y)).add rm (f.decode z))
def Fmt.divBits (f : Fmt) (rm : Rm) (x y : Nat) : Nat := f.round rm false ((f.decode x).div (2 * f.fb + 5) (f.decode y))
def Fmt.sqrtBits (f : Fmt) (rm : Rm) (x : Nat) : Nat := f.round rm false ((f.decode x).sqrt (f.fb + 3))

end Sys2Proof.Machine
end

