-- ==== Sys2Proof/Machine/Operands.lean ====
section
/-! DEFINITION. Operands.lean: the elements of vector registers and pairs, operand b in its forms, the lane mask, and the
writing of result elements (R104, R119 to R121). -/
namespace Sys2Proof.Machine

/-- Elements of a width in a register, or in a pair for width 64 (Table 5.3). -/
def elemCount (w : Nat) : Nat := if w = 64 then 64 else 2048 / w

/-- The elements of a register, lowest first. -/
def vecElems (w : Nat) (x : Vec) : List Nat := (natRange 0 (2048 / w)).map fun i => (x.extractLsb' (w * i) w).toNat

/-- The register that holds these elements. -/
def packElems (w : Nat) : List Nat → Nat
  | [] => 0
  | e :: l => e % 2 ^ w + 2 ^ w * packElems w l

def elemVec (w : Nat) (l : List Nat) : Vec := BitVec.ofNat 2048 (packElems w l)

/-- The elements of an operand: a 64-bit type takes the pair r, r + 1 (R104). -/
def State.readElems (s : State) (w : Nat) (r : VReg) : List Nat :=
  if w = 64 then ((vecElems 32 (s.readV r)).zip (vecElems 32 (s.readV (r + 1)))).map fun (lo, hi) => lo + hi * 2 ^ 32
  else vecElems w (s.readV r)

/-- Write every element of a register, or of a pair. -/
def State.writeElems (s : State) (w : Nat) (d : VReg) (l : List Nat) : State :=
  if w = 64 then (s.writeV d (elemVec 32 (l.map (· % 2 ^ 32)))).writeV (d + 1) (elemVec 32 (l.map (· / 2 ^ 32)))
  else s.writeV d (elemVec w l)

/-- The low w bits that imm16 stands for (R120, R135). -/
def immElem (t : Ty) (x : BitVec 16) : Nat :=
  if t.toNat = 12 then x.toNat * 2 ^ 16
  else if tySigned t then (x.signExtend 64).toNat % 2 ^ tyBits t
  else x.toNat % 2 ^ tyBits t

/-- Operand b in every element (R120). -/
def State.operandB (s : State) (t : Ty) : VSrc → List Nat
  | .v r => s.readElems (tyBits t) r
  | .s r => List.replicate (elemCount (tyBits t)) ((s.readS r).toNat % 2 ^ tyBits t)
  | .imm x => List.replicate (elemCount (tyBits t)) (immElem t x)

/-- The lane mask L (R121); k0 reads all ones, so M = 0 is the mask top alone. -/
def State.laneMask (s : State) (m : KReg) : Word := s.maskTop &&& s.readK m

/-- Whether element i of width w executes under L (R121). -/
def laneOn (l : Word) (w i : Nat) : Bool := if w = 64 then l.getLsbD i else l.getLsbD (i * w / 32)

/-- New elements where they execute, old ones elsewhere. -/
def mergeElems (l : Word) (w : Nat) (old new : List Nat) : List Nat :=
  (old.zip new).zipIdx.map fun ((o, n), i) => if laneOn l w i then n else o

/-- Write the executing elements of vd. -/
def State.putElems (s : State) (w : Nat) (d : VReg) (m : KReg) (new : List Nat) : State :=
  s.writeElems w d (mergeElems (s.laneMask m) w (s.readElems w d) new)

/-- An element-wise instruction of one vector operand. -/
def State.map1 (s : State) (q : Pred) (d a : VReg) (t : Ty) (m : KReg) (f : Nat → Nat) : Out :=
  s.under q fun s => s.putElems (tyBits t) d m ((s.readElems (tyBits t) a).map f)

/-- An element-wise instruction of va and operand b. -/
def State.map2 (s : State) (q : Pred) (d a : VReg) (b : VSrc) (t : Ty) (m : KReg) (f : Nat → Nat → Nat) : Out :=
  s.under q fun s => s.putElems (tyBits t) d m (List.zipWith f (s.readElems (tyBits t) a) (s.operandB t b))

/-- An element-wise instruction of va, operand b and vc. -/
def State.map3 (s : State) (q : Pred) (d a : VReg) (b : VSrc) (c : VReg) (t : Ty) (m : KReg) (f : Nat → Nat → Nat → Nat) : Out :=
  s.under q fun s =>
    let ab := (s.readElems (tyBits t) a).zip (s.operandB t b)
    s.putElems (tyBits t) d m (List.zipWith (fun x y => f x.1 x.2 y) ab (s.readElems (tyBits t) c))

/-- Lane bits from a test of each lane; lanes that do not execute read 0 (R121). -/
def laneBits (l : Word) (f : Nat → Bool) : Word :=
  BitVec.ofNat 64 ((natRange 0 64).foldl (fun x i => if l.getLsbD i && f i then x + 2 ^ i else x) 0)

/-- The elements of lane i of a register of width w ≤ 32; for width 64 the one element. -/
def laneElems {α : Type} (w : Nat) (l : List α) (i : Nat) : List α := if w = 64 then (l.drop i).take 1 else (l.drop (i * (32 / w))).take (32 / w)

end Sys2Proof.Machine
end

