-- ==== Sys2Proof/Machine/Wire.lean ====
section
/-! DEFINITION. Wire.lean: flits and the sending half of a link: which link carries a request, sequence numbers and the replay
buffer (R429, R434, R435, Tables 17.5 and 17.6). -/
namespace Sys2Proof.Machine

/-! ### The flit -/

/-- One byte of CRC-32, reflected (R434). -/
def crcBit : Nat → BitVec 32 → BitVec 32
  | 0, x => x
  | n + 1, x => crcBit n (if x.getLsbD 0 then (x >>> 1) ^^^ 0xEDB88320 else x >>> 1)

def crcBytes : BitVec 32 → List Byte → BitVec 32
  | x, [] => x
  | x, b :: l => crcBytes (crcBit 8 (x ^^^ b.setWidth 32)) l

def crc32 (l : List Byte) : BitVec 32 := ~~~(crcBytes 0xFFFFFFFF l)

/-- The 256 bytes of a flit, and its header's fields (Table 17.6). -/
def flitBytes (f : BitVec 2048) : List Byte := (natRange 0 256).map fun i => (f >>> (8 * i)).setWidth 8

structure FlitHead where
  len  : Nat
  kind : Nat
  ackv : Bool
  ack  : BitVec 12
  seq  : BitVec 12
  deriving DecidableEq, Repr

def flitHead (f : BitVec 2048) : FlitHead :=
  ⟨wbits f 47 32, wbits f 27 25, f.getLsbD 24, BitVec.ofNat 12 (wbits f 23 12), BitVec.ofNat 12 (wbits f 11 0)⟩

/-- What a receiver does not discard (R434). -/
def flitOk (f : BitVec 2048) : Bool :=
  let b := flitBytes f
  decide ((crc32 (b.take 252)).toNat = leNat (b.drop 252)) && decide (wbits f 27 25 < 3) && decide (wbits f 47 32 ≤ 244)
    && wbits f 63 48 == 0 && wbits f 31 28 == 0

def flitPayload (f : BitVec 2048) : List Byte := sliceBytes (flitBytes f) 8 (wbits f 47 32)

/-- A flit as a sender forms it, with its acknowledgement. -/
def flitForm (kind : Nat) (ack seq : BitVec 12) (payload : List Byte) : BitVec 2048 :=
  let head := leBytes 8 (payload.length * 2 ^ 32 + kind * 2 ^ 25 + 2 ^ 24 + ack.toNat * 2 ^ 12 + seq.toNat)
  let body := head ++ payload ++ List.replicate (244 - payload.length) 0
  BitVec.ofNat 2048 (leNat (body ++ leBytes 4 (crc32 body).toNat))

/-! ### Sending -/

def LinkDir.inService (d : LinkDir) : Bool := d.strand.toList.any (·.up)

/-- Send what waits, up to 4,095 unacknowledged flits, each under the next SEQ; nothing while both strands are out (R435, R438). A new
flit goes only after a replay. -/
def LinkDir.pump (d : LinkDir) : LinkDir :=
  if !d.inService then d
  else
    let n := 4095 - d.kept.length
    let new := d.queue.take n
    { d with
      kept := d.kept ++ new.zipIdx.map fun (b, i) => (d.nextSeq + BitVec.ofNat 12 i, b)
      queue := d.queue.drop n
      nextSeq := d.nextSeq + BitVec.ofNat 12 new.length
      replay := if new.isEmpty then d.replay else none }

/-- The DATA flits that a direction has sent and not seen acknowledged, as they stand on its strands, with an acknowledgement of the
opposite direction (Tables 17.5 and 17.6). -/
def LinkDir.flits (d : LinkDir) (ack : BitVec 12) : List (BitVec 2048) := d.kept.map fun f => flitForm 1 ack f.1 f.2

/-- The flits buffered for replay from a sequence number on. -/
def LinkDir.from (d : LinkDir) (seq : BitVec 12) : List (BitVec 12 × List Byte) := d.kept.dropWhile fun f => f.1 != seq

def Package.link (k : Package) (i : Nat) : Link := k.links.toList.getD i .fresh
def Package.setLink (k : Package) (i : Nat) (l : Link) : Package :=
  { k with links := Vector.ofFn fun j => if j.val = i then l else k.links[j] }

/-- A link is there (R15, Table 1.5): POOLMASK names links 0 to 15, FABMASK links 16 to 31. -/
def Package.linkPresent (k : Package) (i : Nat) : Bool := decide (i < 32) && (wbits k.shape 63 32).testBit i

/-- Nothing goes over a link that is absent or lost. -/
def Package.linkLost (k : Package) (i : Nat) : Bool := !k.linkPresent i || (k.link i).lost

/-- The flits that a transaction with `n` bytes of data takes: one for each 128 bytes. -/
def flitsFor (n : Nat) : Nat := max 1 ((n + 127) / 128)

/-- The 16-byte transaction header, which holds the stamp of R425 (R434). Where in it the stamp stands and what the rest holds is not
stated: the model puts the stamp first, and the rest is a free value (log 19). -/
def packetHead (clock stamp : Nat) : List Byte := leBytes 8 stamp ++ sliceBytes (Config.packet clock 0) 0 8

/-- A transaction goes out over a link (R434): a packet that begins with its header. What it holds beside that is not stated, so the rest
of each payload is a free value. -/
def Package.sendOn (k : Package) (clock i n : Nat) (stamp : Nat := 0) : Package :=
  let l := k.link i
  if k.linkLost i then k
  else
    let new := (natRange 0 n).map fun (j : Nat) => ((if j = 0 then packetHead clock stamp else []) ++ Config.packet clock (j + 1)).take 244
    k.setLink i { l with outw := { l.outw with queue := l.outw.queue ++ new }.pump }

/-! ### Which link -/

/-- The present pool links in increasing order (Table 1.5). -/
def Package.poolLinks (k : Package) : List Nat := (natRange 0 16).filter fun i => (wbits k.shape 47 32).testBit i

/-- A page's pool link (R429). -/
def Package.pageLink (k : Package) (obj : BitVec 48) (page : Nat) : Option Nat :=
  k.poolLinks[(obj.toNat + page) % k.poolLinks.length]?

/-- No request of the page can be answered: its link is absent or lost (R429, R438). -/
def Package.pageLost (k : Package) (obj : BitVec 48) (page : Nat) : Bool :=
  match k.pageLink obj page with
  | none => true
  | some i => k.linkLost i

/-- Nothing goes over a link for now: it is absent or lost, or both strands of a direction are out (R438). -/
def Package.linkOut (k : Package) (i : Nat) : Bool := k.linkLost i || !(k.link i).outw.inService || !(k.link i).inw.inService

/-- No request for the page is sent or answered for now (R438). -/
def Package.pageOut (k : Package) (obj : BitVec 48) (page : Nat) : Bool :=
  match k.pageLink obj page with
  | none => true
  | some i => k.linkOut i

/-- The present fabric links in increasing order (Table 1.5). -/
def Package.fabricLinks (k : Package) : List Nat := (natRange 16 16).filter k.linkPresent

/-- The fabric link over which a request for another package goes: one of those present, and 32 where there is none; the manual
names none, so it is a free value. -/
def Package.fabricLink (k : Package) (pkg : BitVec 19) : Nat :=
  (k.fabricLinks[Config.route pkg.toNat % k.fabricLinks.length]?).getD 32

def Package.pkgLost (k : Package) (pkg : BitVec 19) : Bool := k.linkLost (k.fabricLink pkg)

/-- The trap LINK_LOST (R454), by subcode: 1 LOAD, 2 ATOMIC, 3 CELL, 4 FILL, 5 WINDOW. -/
def trapLink (sub : Nat) (addr : Word) (elem : Nat := 0) : TrapInfo := { code := 0x42, sub := sub, addr := addr, elem := elem }

end Sys2Proof.Machine
end

