-- ==== Sys2Proof/Machine/Access.lean ====
section
/-! DEFINITION. Access.lean: where an access goes and what it is checked for: bounds, windows, capabilities, the nested
translation, attributes, leases, the race detector (R31, R44, R229 to R235, R254, R260 to R267, R371 to R380, R427). -/
namespace Sys2Proof.Machine

/-! ### Trap codes (Table 16.3) -/

def trapBound (addr : Word) (elem : Nat := 0) : TrapInfo := { code := 0x10, addr := addr, elem := elem }
def trapAlign (addr : Word) (elem : Nat := 0) : TrapInfo := { code := 0x11, addr := addr, elem := elem }
def trapCap (sub : Nat) (addr : Word) (elem : Nat := 0) : TrapInfo := { code := 0x12, sub := sub, addr := addr, elem := elem }
/-- UNCORRECTABLE, subcode DATA: a read of a poisoned location (R418). -/
def trapData (addr : Word) (elem : Nat := 0) : TrapInfo := { code := 0x40, sub := 2, addr := addr, elem := elem }
/-- The kind by which a walk says that an entry it read is poisoned; no kind of Table 15.3. -/
def kindSpoilt : Nat := 16
def trapPage (stage kind : Nat) (addr : Word) (elem : Nat := 0) : TrapInfo :=
  if kind = kindSpoilt then trapData addr elem else { code := 0x13, addr := addr, elem := elem, info := kind + 16 * (stage - 1) }
def trapSealed (addr : Word) (elem : Nat := 0) : TrapInfo := { code := 0x14, addr := addr, elem := elem }
def trapFormat (addr : Word) (elem : Nat := 0) : TrapInfo := { code := 0x15, addr := addr, elem := elem }
def trapAtomic (sub : Nat) (addr : Word) (elem : Nat := 0) : TrapInfo := { code := 0x16, sub := sub, addr := addr, elem := elem }
def trapQueue (addr : Word) : TrapInfo := { code := 0x17, addr := addr }
def trapOverwrite (addr : Word) (elem : Nat := 0) : TrapInfo := { code := 0x21, addr := addr, elem := elem }
def trapRace (addr : Word) (elem : Nat := 0) : TrapInfo := { code := 0x1C, addr := addr, elem := elem }

/-! ### The nested walk (R371 to R375) -/

/-- Stacks present, and the size in bytes of a region: of the whole of regions 0 to 2, of one stack's region 3 (R372, R444). -/
def Package.stackCount (k : Package) : Nat := wbits k.shape 19 16
def Package.reg (k : Package) (off : Nat) : Word := tabGet 0 k.regs off
def Package.setReg (k : Package) (off : Nat) (v : Word) : Package := { k with regs := tabSet k.regs off v }

def Package.regionSize (k : Package) (r : Nat) : Nat :=
  let h := k.reg 0x20
  let poolc := wbits h 7 0
  let hostw := wbits h 15 8
  let spare := wbits h 23 16
  let g := 2 ^ 30
  match r with
  | 0 => poolc * g * k.stackCount
  | 1 => (64 - poolc - hostw - spare) * g * k.stackCount
  | 2 => hostw * g * k.stackCount
  | _ => spare * g

/-- The region, the stack of region 3, and the offset within the region (R372). -/
def dpaRegion (a : Nat) : Nat := bits a 43 42
def dpaOffset (a : Nat) : Nat := if dpaRegion a = 3 then bits a 36 0 else bits a 41 0

/-- A device physical address below bit 51 that names no memory (R372). -/
def Package.noMemory (k : Package) (a : Nat) : Bool :=
  bits a 50 44 != 0 || decide (dpaOffset a ≥ k.regionSize (dpaRegion a)) ||
    (dpaRegion a == 3 && (a.testBit 41 || decide (bits a 40 37 ≥ k.stackCount)))

/-- A range of device addresses names memory. -/
def State.devOk (s : State) (a n : Nat) : Bool :=
  a.testBit 51 || (!s.pkg.noMemory a && (n == 0 || !s.pkg.noMemory (a + n - 1)))

/-- A byte of a range of device addresses is poisoned (R418). -/
def State.devSpoilt (s : State) (a n : Nat) : Bool := !a.testBit 51 && s.pkg.poison.any fun x => decide (a ≤ x) && decide (x < a + n)

/-- A range that can be read without a fault: it names memory, and no byte of it is poisoned (R418). -/
def State.devGood (s : State) (a n : Nat) : Bool := s.devOk a n && !s.devSpoilt a n

/-- Bytes that the command processor reads. What an address that names no memory reads as is not stated: a free value (log 59). -/
def State.cpBytes (s : State) (a n : Nat) : List Byte :=
  if s.devOk a n then s.devBytes a n else (natRange a n).map fun x => BitVec.ofNat 8 (Config.freeNat (s.clock * 2 ^ 52 + x))
def State.cpLe (s : State) (a n : Nat) : Nat := leNat (s.cpBytes a n)

/-- A partition's share of a region, as 64 MiB units: base and size (Table 15.1). -/
def partShare (d : PartDesc) (r : Nat) : Nat × Nat :=
  let x := d.region.getD r 0
  (wbits x 31 16, wbits x 15 0)

def partInShare (d : PartDesc) (a : Nat) : Bool :=
  let sh := partShare d (dpaRegion a)
  let u := dpaOffset a / 2 ^ 26
  decide (sh.1 ≤ u) && decide (u < sh.1 + sh.2)

/-- Fields of a translation entry (Table 15.2). -/
def teV (x : Nat) : Bool := x.testBit 0
def teLeaf (x : Nat) : Bool := x.testBit 1
def teR (x : Nat) : Bool := x.testBit 2
def teW (x : Nat) : Bool := x.testBit 3
def teCapPg (x : Nat) : Bool := x.testBit 4
def teSealed (x : Nat) : Bool := x.testBit 5
def teOA (x : Nat) : Nat := bits x 63 16 * 2 ^ 16
def teFattr (x : Nat) : BitVec 24 := BitVec.ofNat 24 (bits x 127 104)

/-- log2 of the bytes a leaf of a level maps, and the index into a level's table (R371). -/
def lvlShift : Nat → Nat
  | 0 => 39 | 1 => 30 | 2 => 21 | _ => 16
def lvlIndex (l a : Nat) : Nat := if l = 3 then bits a 20 16 else (a >>> lvlShift l) % 512

/-- Check of R373: the kind of the fault, or none. Kinds are those of Table 15.3. -/
def checkEntry (x l : Nat) (stage2 : Bool) : Option Nat :=
  if !teV x then some 0
  else if bits x 103 64 != 0 || bits x 15 6 != 0
      || (teLeaf x && l == 0) || (!teLeaf x && l == 3)
      || (teLeaf x && teOA x % 2 ^ lvlShift l != 0)
      || (!(stage2 && teLeaf x) && (teFattr x != 0 || teSealed x || teCapPg x))
      || (!teLeaf x && (teR x || teW x))
      || (teLeaf x && teCapPg x && (bits (teOA x) 51 51 == 1 || dpaRegion (teOA x) == 2)) then some 1
  else none

/-- The stage-2 leaf of a guest physical address: the entry and log2 of its size, or a fault kind. -/
def State.stage2 (s : State) (root gpa : Nat) : Nat → Nat → Nat → Except Nat (Nat × Nat)
  | 0, _, _ => .error 1
  | n + 1, l, t =>
    let at_ := t + 16 * lvlIndex l gpa
    let x := s.devLe at_ 16
    if s.devSpoilt at_ 16 then .error kindSpoilt
    else match checkEntry x l true with
    | some k => .error k
    | none => if teLeaf x then .ok (x, lvlShift l) else State.stage2 s root gpa n (l + 1) (teOA x)

/-- The device physical address of a guest physical one (for table reads and the command processor). -/
def State.gpaDpa (s : State) (root gpa : Nat) : Except Nat Nat :=
  match s.stage2 root gpa 4 0 root with
  | .error k => .error k
  | .ok (y, sh) => .ok (teOA y + gpa % 2 ^ sh)

/-- Stage 1 from a level-0 table at a guest physical address. -/
def State.stage1 (s : State) (root va : Nat) : Nat → Nat → Nat → Except (Nat × Nat) (Nat × Nat)
  | 0, _, _ => .error (1, 1)
  | n + 1, l, t =>
    match s.gpaDpa root (t + 16 * lvlIndex l va) with
    | .error k => .error (2, k)
    | .ok d =>
      let x := s.devLe d 16
      if s.devSpoilt d 16 then .error (1, kindSpoilt)
      else match checkEntry x l false with
      | some k => .error (1, k)
      | none => if teLeaf x then .ok (x, lvlShift l) else State.stage1 s root va n (l + 1) (teOA x)

/-- The partition of the context in focus. -/
def State.part (s : State) : Option PartDesc := s.pkg.parts.toList.getD s.ctx.info.part.toNat none

/-- The boot has failed: BOOTSTAT gives an ERROR (R443). -/
def Package.bootFailed (k : Package) : Bool := wbits (k.reg 0) 15 8 != 0

/-- The partition whose signer key table a range of device addresses meets (R382). -/
def Package.signerTable (k : Package) (a n : Nat) : Option Nat :=
  (natRange 0 8).find? fun p => match k.parts.toList.getD p none with
    | some d => decide (a < d.signTab.toNat + 2048) && decide (d.signTab.toNat < a + n)
    | none => false

/-- A nested walk for a virtual address (R373): stage and kind of the fault, or the translation of its 64 KiB page. Whether the host grants a
page that it has not granted yet is its own to say: a free value (R395, log 53). Where the
leaves of the two stages differ in size, the page whose base and group numbers count is the smaller (R113; DEDUCED, log 64). A page that
holds a signer key table, which only firmware writes, acts as though W were clear (R382; DEDUCED, log 77). -/
def State.walk (s : State) (va : Nat) : Except (Nat × Nat) TlbEntry :=
  if va ≥ 2 ^ 48 then .error (1, 3)
  else
    match s.part with
    | none => .error (1, 5)
    | some d =>
      let e := s.devLe (d.asidTab.toNat + 16 * s.ctx.info.asid.toNat) 16
      if s.devSpoilt (d.asidTab.toNat + 16 * s.ctx.info.asid.toNat) 16 then .error (1, kindSpoilt)
      else if !teV e then .error (1, 5)
      else
        match s.stage1 d.s2Root.toNat va 4 0 (teOA e) with
        | .error f => .error f
        | .ok (x, sh1) =>
          let gpa := teOA x + va % 2 ^ sh1
          match s.stage2 d.s2Root.toNat gpa 4 0 d.s2Root.toNat with
          | .error k => .error (2, k)
          | .ok (y, sh2) =>
            let dpa := (teOA y + gpa % 2 ^ sh2) % 2 ^ 52
            if !dpa.testBit 51 && (s.pkg.noMemory dpa || !partInShare d dpa) then .error (2, 4)
            else if dpa.testBit 51 && !NatSet.has s.pkg.atsOk (d.pid.toNat * 2 ^ 52 + dpa / 2 ^ 16)
                && Config.freeBool s.clock then .error (2, 6)
            else .ok { pid := d.pid, asid := s.ctx.info.asid, vpage := va / 2 ^ 16, dpage := dpa / 2 ^ 16,
                       r := teR x && teR y, w := teW x && teW y && (s.pkg.signerTable (dpa / 2 ^ 16 * 2 ^ 16) (2 ^ 16)).isNone, r1 := teR x, w1 := teW x, fattr := teFattr y,
                       sealed := teSealed y, capPg := teCapPg y, size := min sh1 sh2, gpa := gpa / 2 ^ 16 * 2 ^ 16 }

/-- A translation, from the walk or from an entry the core's translation cache may still hold (R375, log 10). -/
def State.translate (s : State) (va : Nat) : Except (Nat × Nat) TlbEntry :=
  let fresh := s.walk va
  match s.core.tlb.find? fun e => e.pid == (s.part.map (·.pid)).getD 0 && e.asid == s.ctx.info.asid && e.vpage == va / 2 ^ 16 with
  | none => fresh
  | some e =>
    if (match fresh with | .ok f => f == e | .error _ => false) then fresh
    else if Config.freeBool s.clock then .ok e else fresh

/-- What an access needs of the page. -/
inductive Need where
  | read | write | both
  deriving DecidableEq, Repr

def Need.reads : Need → Bool
  | .write => false | _ => true
def Need.writes : Need → Bool
  | .read => false | _ => true

/-- The stage whose RIGHTS fault a translation raises, if any (R373, R380). -/
def rightsFault (e : TlbEntry) (n : Need) : Option Nat :=
  if (n.reads && !e.r1) || (n.writes && !e.w1) then some 1
  else if (n.reads && !e.r) || (n.writes && !e.w) || (n.writes && e.capPg) then some 2
  else none

/-- The attribute is consistent (R113). -/
def attrOk (f : BitVec 24) : Bool :=
  let fmt := wbits f 3 0
  let grp := wbits f 5 4
  ((grp != 0) == (fmt == 13 || fmt == 14)) && (grp == 0 || wbits f 21 6 != 0) && wbits f 23 22 == 0

def dpaPlace (a : Nat) : Place := if a.testBit 51 then .host (a % 2 ^ 51) else .hbm a

/-! ### Capabilities (R264, R377 to R379) -/

def capObject (c : BitVec 128) : BitVec 48 := BitVec.ofNat 48 (wbits c 127 80)
def capFirst (c : BitVec 128) : Nat := wbits c 79 48
def capPages (c : BitVec 128) : Nat := wbits c 47 16
def capLease (c : BitVec 128) : Nat := wbits c 11 8

/-- Rights of a capability: R, W, A, D. -/
inductive Right where
  | r | w | a | d
  deriving DecidableEq, Repr

def capHas (c : BitVec 128) : Right → Bool
  | .r => c.getLsbD 12 | .w => c.getLsbD 13 | .a => c.getLsbD 14 | .d => c.getLsbD 15

/-- The CAP_FAULT subcode of an access through a capability, if any: NULL, FLAGS, BOUNDS, RIGHTS in this order (log 16). -/
def capFault (c : BitVec 128) (ea : Nat) (n : Nat) (rs : List Right) : Option Nat :=
  if capPages c = 0 then some 1
  else if wbits c 7 2 != 0 || (capLease c ≥ 2 && capLease c ≤ 14) then some 4
  else if n != 0 && (ea / 2 ^ 16 < capFirst c || (ea + n - 1) / 2 ^ 16 ≥ capFirst c + capPages c) then some 2
  else if rs.all (capHas c) then none else some 3

/-- A partition's tenancy key (R379). -/
def State.tenant (s : State) (p : Nat) : Word := s.pkg.tenancy.toList.getD p 0

/-- The pool grants a request for a page: the object exists, the page lies below its page count, and the tenancy key is the owner's
(R379). -/
def Pool.grants (p : Pool) (tenant : Word) (obj : BitVec 48) (page : Nat) : Bool :=
  match p.objs.find? (·.1 == obj.toNat) with
  | none => false
  | some (_, o) => decide (page < o.pages) && o.tenant == tenant

/-- A page's lease. -/
def State.lease (s : State) (obj : BitVec 48) (page : Nat) : Option Lease :=
  s.pkg.leases.find? fun l => l.obj == obj && l.page.toNat == page

/-- A page's FATTR, SEALED and CAPPG: the page's own copies while the pool cache holds it, else the descriptor's (R379, R426). -/
def State.pageAttr (s : State) (obj : BitVec 48) (page : Nat) : BitVec 24 × Bool × Bool :=
  ((s.lease obj page).bind (·.attr)).getD (((s.poolObj obj).map fun (o : PoolObj) => (o.fattr, o.sealed, o.capPg)).getD (0, false, false))

/-- The CAP_FAULT subcode of an access that the pool refuses, or that would write a capability page (R379, R380). -/
def State.objectFault (s : State) (c : BitVec 128) (lastPage : Nat) (writes : Bool) : Option Nat :=
  if !s.pool.grants (s.tenant s.ctx.info.part.toNat) (capObject c) lastPage then some 6
  else if writes && (s.pageAttr (capObject c) lastPage).2.2 then some 3
  else none

/-- Accesses through the capability go to the pool controller, past the pool cache: class HOMEONLY, or a HOMEONLY object (R304,
Table 17.1). -/
def State.direct (s : State) (c : BitVec 128) : Bool := capLease c == 15 || s.homeOnly (capObject c)

/-- A byte of an object as an access through a capability reaches it. -/
def State.capPlace (s : State) (c : BitVec 128) (off : Nat) : Place := if s.direct c then .home (capObject c) off else .pool (capObject c) off

/-! ### Leases (R423, R427) -/

/-- A read of a pool-cache page is served only under a live lease with its bytes arrived (R427). -/
def State.leaseReads (s : State) (obj : BitVec 48) (page : Nat) : Bool :=
  match s.lease obj page with
  | none => false
  | some l => (l.st == .read || l.st == .write) && l.here && decide (s.pkg.now < l.d)

/-- A lease whose request has just been made, for a partition. -/
def Lease.asked (obj : BitVec 48) (page : BitVec 32) (st : LeaseSt) (part : Nat) (user : Option (Nat × Word)) : Lease :=
  { obj := obj, page := page, st := st, d := 0, gen := 0, owner := none, users := [user], part := part }

/-- The pool-cache region has room for one more page (R10, R426); before firmware has divided HBM nothing bounds it. -/
def Package.cacheRoom (k : Package) : Bool := k.reg 0x20 == 0 || decide (k.leases.length < k.regionSize 0 / 2 ^ 16)

/-- A miss takes a read lease (Table 17.2): the request is sent and the access waits; it belongs to the launch's step (R421). Under a
lease that the package has, its bytes are asked for; one whose D is past ends first. Where the cache has no room the access waits for
an eviction. -/
def State.wantRead (s : State) (obj : BitVec 48) (page : Nat) : State :=
  let u := if s.ctx.info.step = 0 then none else some (s.ctx.info.part.toNat, s.ctx.info.step)
  let p := fun (x : Lease) => x.obj == obj && x.page.toNat == page
  match s.lease obj page with
  | some l =>
    if l.st == .rpend then s.mapPkg fun k => { k with leases := mapIf p (fun x => x.use u true) k.leases }
    else s.mapPkg fun k => { k with leases := mapIf p (fun x => { x with get := true }) k.leases }
  | none =>
    if s.pkg.cacheRoom then
      s.mapPkg fun k => { k with
        leases := k.leases ++ [{ Lease.asked obj (BitVec.ofNat 32 page) .rpend s.ctx.info.part.toNat u with demand := true }] }
    else s

/-! ### Checking one access -/

/-- An access reads a poisoned location (R418). -/
def State.poisoned (s : State) (need : Need) (ps : List Place) : Bool := need.reads && ps.any s.spoiltAt

/-- What checking an access answers: its bytes' places in address order with the translations used, a trap, or a stall (with the
requests the stall sends). -/
inductive Acc where
  | ok (ps : List Place) (xs : List TlbEntry)
  | trap (i : TrapInfo)
  | stall (s : State)
  deriving Repr

def State.opd (s : State) (m : Mem) : Opd :=
  ⟨m.space, m.cap, if m.space = .virt then s.readC m.cap else 0, s.readS m.base + m.off.signExtend 64⟩

def State.opd2 (s : State) (m : Mem2) : Opd :=
  ⟨m.space, m.cap, if m.space = .virt then s.readC m.cap else 0, s.readS m.base⟩

/-- Bounds of R31 over the whole 64-bit value, and released banks (R28). -/
def State.spBound (s : State) (ea n : Nat) : Bool :=
  decide (s.ctx.spLo.toNat ≤ ea) && decide (ea + n - 1 ≤ s.ctx.spHi.toNat) && decide (ea + n - 1 < 2 ^ 22)
    && (natRange (ea / 2 ^ 16) ((ea + n - 1) / 2 ^ 16 + 1 - ea / 2 ^ 16)).all fun b => !s.ctx.released.getLsbD b

/-- Every bank of a range belongs to the context's slot (R28). -/
def State.spOwned (s : State) (ea n : Nat) : Bool :=
  (natRange (ea / 2 ^ 16) ((ea + n - 1) / 2 ^ 16 + 1 - ea / 2 ^ 16)).all fun b =>
    s.core.owner.toList.getD b none == some s.slotNum

/-- The first bytes of a range that lie in one 64 KiB page, then the rest: at most two pages for an access of at most 64 KiB. -/
def pageSplit (va n : Nat) : List (Nat × Nat) :=
  let k := 2 ^ 16 - va % 2 ^ 16
  if n ≤ k then [(va, n)] else [(va, k), ((va + k) % 2 ^ 64, n - k)]

/-- Translate every page of a plain virtual range: the first page fault, or the translations in address order (R267, R374). -/
def State.translateAll (s : State) (need : Need) (elem : Nat) : List (Nat × Nat) → Except TrapInfo (List (TlbEntry × Nat × Nat))
  | [] => .ok []
  | (va, n) :: l =>
    match s.translate va with
    | .error (st, k) => .error (trapPage st k (BitVec.ofNat 64 va) elem)
    | .ok e =>
      match rightsFault e need with
      | some st => .error (trapPage st 2 (BitVec.ofNat 64 va) elem)
      | none =>
        match State.translateAll s need elem l with
        | .error t => .error t
        | .ok r => .ok ((e, va, n) :: r)

/-- A tile range that a store into the context's scratchpad would overwrite (R180). -/
def State.overwrites (s : State) (ea n : Nat) : Bool :=
  s.ctx.tiles.toList.any fun t => (t.st == .ready || t.st == .retiring) &&
    (match t.prot with | none => false | some (lo, hi) => decide (ea ≤ hi) && decide (lo < ea + n))

/-- Check an access of `n` bytes (R264 to R267): BOUND, CAP_FAULT, ALIGN, OPERAND_OVERWRITE, PAGE_FAULT, SEALED_SOURCE, the
caller's own check of the places (ATOMIC_FAULT, R316), BAD_FORMAT, UNCORRECTABLE (R418). `align` is the multiple R265 asks, 1 for none; `rs` the
capability's rights; `guard` is set by the stores that R180 names, `cell` by a `dread`, whose link counts only where no copy serves it. -/
def State.check (s : State) (o : Opd) (n : Nat) (need : Need) (rs : List Right) (align : Nat) (elem : Nat)
    (extra : Place → Option TrapInfo := fun _ => none) (guard : Bool := false) (cell : Bool := false) : Acc :=
  let ea := o.ea.toNat
  let misaligned := decide (ea % align ≠ 0)
  match o.space with
  | .sp =>
    if !s.spBound ea n then .trap (trapBound o.ea elem)
    else if misaligned then .trap (trapAlign o.ea elem)
    else if guard && s.overwrites ea n then .trap (trapOverwrite o.ea elem)
    else if !s.spOwned ea n then .stall s
    else if s.poisoned need ((natRange ea n).map .sram) then .trap (trapData o.ea elem)
    else .ok ((natRange ea n).map .sram) []
  | .win =>
    let w := s.ctx.win o.num
    if !winV w || decide (ea + n > winBytes w) || (winMC w && need.reads) then .trap (trapBound o.ea elem)
    else if misaligned then .trap (trapAlign o.ea elem)
    else .ok ((natRange ea n).map (.win o.num)) []
  | .virt =>
    if o.num = 0 then
      if misaligned then .trap (trapAlign o.ea elem)
      else
        match s.translateAll need elem (pageSplit ea n) with
        | .error t => .trap t
        | .ok xs =>
          let ps := xs.flatMap fun (e, va, k) => (natRange (e.dpage * 2 ^ 16 + va % 2 ^ 16) k).map dpaPlace
          match xs.find? (·.1.sealed) with
          | some x => .trap (trapSealed (BitVec.ofNat 64 x.2.1) elem)
          | none =>
            match ps.findSome? extra with
            | some t => .trap t
            | none =>
              match xs.find? (fun x => !attrOk x.1.fattr) with
              | some x => .trap (trapFormat (BitVec.ofNat 64 x.2.1) elem)
              | none =>
                if s.poisoned need ps then .trap (trapData o.ea elem) else .ok ps (xs.map (·.1))
    else
      let obj := capObject o.cap
      let last := (ea + n - 1) / 2 ^ 16
      match (capFault o.cap ea n rs).or (s.objectFault o.cap last need.writes) with
      | some k => .trap (trapCap k o.ea elem)
      | none =>
        if misaligned then .trap (trapAlign o.ea elem)
        else
            let ps := (natRange ea n).map (s.capPlace o.cap)
            let out := s.pkg.pageOut obj (ea / 2 ^ 16) || s.pkg.pageOut obj last
            if (s.pageAttr obj (ea / 2 ^ 16)).2.1 || (s.pageAttr obj last).2.1 then .trap (trapSealed o.ea elem)
            else
              match ps.findSome? extra with
              | some t => .trap t
              | none =>
                if !(attrOk (s.pageAttr obj (ea / 2 ^ 16)).1 && attrOk (s.pageAttr obj last).1) then .trap (trapFormat o.ea elem)
                else if need.writes || cell || (!s.direct o.cap && s.leaseReads obj (ea / 2 ^ 16) && s.leaseReads obj last) then .ok ps []
                else if s.pkg.pageLost obj (ea / 2 ^ 16) || s.pkg.pageLost obj last then .trap (trapLink 1 o.ea elem)
                else if s.direct o.cap then (if out then .stall (s.mapCtx fun c => { c with paged := true }) else .ok ps [])
                else .stall (((s.wantRead obj (ea / 2 ^ 16)).wantRead obj last).mapCtx fun c => { c with paged := true })

/-! ### Runs of bytes -/

/-- A place lies in the run of `n` places that begins at `start`. -/
def within (start p : Place) (n : Nat) : Bool :=
  match start, p with
  | .sram b, .sram a => decide (b ≤ a) && decide (a < b + n)
  | .far k c b, .far k' c' a => k == k' && c == c' && decide (b ≤ a) && decide (a < b + n)
  | .hbm b, .hbm a => decide (b ≤ a) && decide (a < b + n)
  | .host b, .host a => decide (b ≤ a) && decide (a < b + n)
  | .pool o b, .pool o' a => o == o' && decide (b ≤ a) && decide (a < b + n)
  | .home o b, .home o' a => o == o' && decide (b ≤ a) && decide (a < b + n)
  | .pool o b, .home o' a => o == o' && decide (b ≤ a) && decide (a < b + n)
  | .home o b, .pool o' a => o == o' && decide (b ≤ a) && decide (a < b + n)
  | .win w b, .win w' a => w == w' && decide (b ≤ a) && decide (a < b + n)
  | _, _ => false

/-- Two runs have a byte in common. -/
def runsMeet (a b : Place × Nat) : Bool := within a.1 b.1 a.2 || within b.1 a.1 b.2

/-- The pages of 64 KiB that a range touches, each as the address and the length of its part. -/
def pagesOf (ea n : Nat) : List (Nat × Nat) :=
  if n = 0 then []
  else (natRange (ea / 2 ^ 16) ((ea + n - 1) / 2 ^ 16 + 1 - ea / 2 ^ 16)).map fun pg =>
    let lo := max ea (pg * 2 ^ 16)
    (lo, min (ea + n) ((pg + 1) * 2 ^ 16) - lo)

/-- The runs that a range of an operand names; a page that does not translate names none. -/
def State.runsOf (s : State) (o : Opd) (n : Nat) : List (Place × Nat) :=
  let ea := o.ea.toNat
  match o.space with
  | .sp => [(.sram ea, n)]
  | .win => [(s.canon (.win o.num ea), n)]
  | .virt =>
    if o.num ≠ 0 then [(s.capPlace o.cap ea, n)]
    else (pagesOf ea n).filterMap fun (lo, k) =>
      match s.translate lo with
      | .error _ => none
      | .ok e => some (dpaPlace (e.dpage * 2 ^ 16 + lo % 2 ^ 16), k)

/-- An operand's range of `n` bytes covers a place. -/
def State.covers (s : State) (o : Opd) (n : Nat) (p : Place) : Bool := (s.runsOf o n).any fun r => within r.1 (s.canon p) r.2

/-! ### What an access leaves in the caches (R231 to R235, R254) -/

/-- Translations that an access used enter the core's cache; the host pages among them are granted (R395). -/
def State.fillTlb (s : State) (xs : List TlbEntry) : State :=
  let s := s.mapCore fun c => { c with tlb := xs.foldl (fun l x =>
    x :: l.filter fun e => !(e.pid == x.pid && e.asid == x.asid && e.vpage == x.vpage)) c.tlb }
  if xs.any fun x => x.dpage.testBit 35 then
    s.mapPkg fun k => { k with atsOk := xs.foldl (fun n x => if x.dpage.testBit 35 then NatSet.add n (x.pid.toNat * 2 ^ 52 + x.dpage) else n) k.atsOk }
  else s

def sectorsOf (ps : List Place) : NatSet :=
  ps.foldl (fun l p => match p with | .hbm a => NatSet.add l (a / 64) | _ => l) []

def bumpLine (k : Package) (sector : Nat) : Package :=
  { k with lineVer := tabSet k.lineVer (sector / 4) (tabGet 0 k.lineVer (sector / 4) + 1) }

def Package.version (k : Package) (sector : Nat) : BitVec 16 := tabGet 0 k.lineVer (sector / 4)

/-- A holder has evicted a sector of the line from M under its present version: its bytes are still on their way home (R234). -/
def WriteBack.live (k : Package) (sector : Nat) (w : WriteBack) : Bool := w.sector / 4 == sector / 4 && w.ver == k.version sector

/-- A near cache holds E or M of a sector of the line. -/
def NearSector.owns (n : NearSector) (sector : Nat) : Bool := n.sector / 4 == sector / 4 && n.st != .shared

/-- The home takes a line's E and M sectors from their holder by a probe (R234), and leaves it clean copies: the reply carries the bytes of M
sectors home, and the version goes up by one, which cancels a write-back under way. A version is a line's, so a grant of one of its sectors
goes with those of the others (DEDUCED, log 75). -/
def takeLine (k : Package) (sector : Nat) : Package :=
  if k.near.any (·.owns sector) || k.wbacks.any (WriteBack.live k sector) then
    bumpLine { k with near := mapIf (·.owns sector) (fun n => { n with st := .shared }) k.near } sector
  else k

/-- The home grants a core E of a sector: the version goes up by one, and what the core holds of the line is one grant (R234). -/
def grantE (core : BitVec 7) (k : Package) (sector : Nat) : Package :=
  let k := bumpLine k sector
  let ver := k.version sector
  { k with near := ⟨core, sector, .exclusive, ver⟩ :: mapIf (fun n => n.owns sector) (fun n => { n with ver := ver }) k.near }

/-- A load of a sector by a core that misses its near cache (R233, R234): it is granted S where another near cache holds a copy, of which an E
or M one is taken by a probe first; else E, once the line has no other holder of E or M. -/
def nearLoad (core : BitVec 7) (k : Package) (sector : Nat) : Package :=
  if k.near.any fun n => n.core == core && n.sector == sector then k
  else
    let other := k.near.any (fun n => n.core != core && n.owns sector) || k.wbacks.any (WriteBack.live k sector)
    let k := if other then takeLine k sector else k
    if k.near.any (fun n => n.sector == sector) then
      { k with near := ⟨core, sector, .shared, k.version sector⟩ :: k.near }
    else grantE core k sector

/-- A store of a sector by a core: in place when it holds E or M, else at the home, which invalidates every other copy (R233). -/
def nearStore (core : BitVec 7) (k : Package) (sector : Nat) : Package :=
  if k.near.any fun n => n.core == core && n.sector == sector && n.st != .shared then
    { k with near := mapIf (fun n => n.core == core && n.sector == sector) (fun n => { n with st := .modified }) k.near }
  else
    let k := if k.near.any (fun n => n.sector == sector && n.st != .shared) || k.wbacks.any (WriteBack.live k sector) then takeLine k sector else k
    { k with near := k.near.filter fun n => !(n.core != core && n.sector == sector) }

/-- A write at a sector's home by no near cache: every copy is given up (R233, R254, R303). -/
def nearTake (k : Package) (sector : Nat) : Package :=
  let k := if k.near.any (fun n => n.sector == sector && n.st != .shared) || k.wbacks.any (WriteBack.live k sector) then takeLine k sector else k
  { k with near := k.near.filter fun n => n.sector != sector }

/-- The L1 copies of sectors are invalidated, but for those of a core that writes them itself and so updates its own (R231, R233). -/
def State.dropL1 (s : State) (keep : Option (BitVec 7)) (secs : NatSet) : State :=
  if secs.isEmpty then s
  else
    let f := fun (c : BitVec 7) (k : CoreSt) => if keep = some c then k else { k with l1 := k.l1.filter fun x => !NatSet.has secs x }
    { s with core := f s.coreNum s.core, cores := s.cores.map fun b => (b.1, { b.2 with core := f (BitVec.ofNat 7 b.1) b.2.core }) }

/-- A page of the pool cache is used: the leases stand in the order of their last use (R426). -/
def State.usePage (s : State) (obj : BitVec 48) (page : Nat) : State :=
  let p := fun (l : Lease) => l.obj == obj && l.page.toNat == page
  if s.pkg.leases.any p then s.mapPkg fun k => { k with leases := (k.leases.filter fun l => !p l) ++ k.leases.filter p } else s

/-- The pages of an access, by its first and its last place. -/
def State.usePages (s : State) (ps : List Place) : State :=
  let use := fun (s : State) (p : Option Place) => match p with | some (.pool obj o) => s.usePage obj (o / 2 ^ 16) | _ => s
  use (use s ps.head?) ps.getLast?

/-- A load has read these places. Its sectors enter the L1 and the near cache, but for one whose fill an invalidation has overtaken
(`late`): that fill serves this load alone (R253). -/
def State.noteLoad (s : State) (ps : List Place) (xs : List TlbEntry) (late : NatSet := []) : State :=
  let secs := (sectorsOf ps).filter fun x => !NatSet.has late x
  let s := (if xs.isEmpty then s else s.fillTlb xs).usePages ps
  if secs.isEmpty then s
  else { s with core := { s.core with l1 := secs.foldl NatSet.add s.core.l1 }, pkg := secs.foldl (nearLoad s.coreNum) s.pkg }

/-- A store of the core in focus has performed at these places: other cores' copies are gone (R231, R233). -/
def State.noteStore (s : State) (ps : List Place) : State :=
  let secs := sectorsOf ps
  ({ s with pkg := secs.foldl (nearStore s.coreNum) s.pkg } : State).dropL1 (some s.coreNum) secs

/-- A write at its home by an engine, an atomic, the host or another package has performed at these places (R254, R303). -/
def State.noteHome (s : State) (ps : List Place) : State :=
  let secs := sectorsOf ps
  ({ s with pkg := secs.foldl nearTake s.pkg } : State).dropL1 none secs

/-- Bytes that firmware or the command processor writes, at their home; where no memory is, nothing changes (R372). -/
def State.fwPut (s : State) (a : Nat) (d : List Byte) : State :=
  if s.devOk a d.length then (s.devPut a d).noteHome ((natRange a d.length).map dpaPlace) else s

/-- A write that meets a signer key table and is not firmware's does not perform; one that meets a frozen table is noted (R382, R394;
DEDUCED, log 77). -/
def State.unlessSigners (s : State) (a n : Nat) (f : State → State) : State :=
  match s.pkg.signerTable a n with
  | none => f s
  | some p => if s.pkg.frozen.any (·.1 == p) then s.mapPkg fun k => { k with broken := k.broken ||| (1 <<< p) } else s

/-- Bytes that the command processor writes. -/
def State.cpPut (s : State) (a : Nat) (d : List Byte) : State := s.unlessSigners a d.length fun s => s.fwPut a d

/-- The bytes a read that is no plain load sees at its places, lowest first. -/
def State.loadBytes (s : State) (ps : List Place) : List Byte := ps.map s.loadByte

/-! ### The race detector (R258 to R262) -/

/-- A sector of shadow state: of package memory, or of a core's scratchpad. A window into this package leads to its target. -/
def State.raceSector (s : State) : Place → Option (Option (BitVec 7) × Nat)
  | .sram a => some (some s.coreNum, a / 64)
  | .hbm a => some (none, a / 64)
  | .win w a =>
    let e := s.ctx.win w
    if winMC e || winPkg e != s.pkg.num then none else some (some (winCore e), (winBase e + a) / 64)
  | _ => none

/-- The sectors that places touch, each with the address of the first byte touched, in the access's own space. -/
def State.raceSectors (s : State) (ps : List (Place × Word)) : List ((Option (BitVec 7) × Nat) × Word) :=
  ps.foldl (fun l p => match s.raceSector p.1 with
    | some x => if l.any (·.1 == x) then l else l ++ [(x, p.2)]
    | none => l) []

def State.raceRec (s : State) (x : Option (BitVec 7) × Nat) : RaceRec :=
  match x.1 with
  | none => tabGet ⟨none, 0, 0, 0⟩ s.pkg.race x.2
  | some c => tabGet ⟨none, 0, 0, 0⟩ (s.boxOf c).core.race x.2

/-- Whether a writer's domain at a level holds another context (R40, R261): the contexts of its launch, or at level 4 of its crew, in
its unit of that level. -/
def sameDomain (level : BitVec 3) (a b : Agent) : Bool :=
  match level.toNat with
  | 4 => a.pid == b.pid && a.crew == b.crew && (a.crew != 0 || a.launch == b.launch)
  | l => a.pid == b.pid && a.launch == b.launch && a.id >>> 8 == b.id >>> 8 &&
      (match l with | 0 => a.id >>> 1 == b.id >>> 1 | 1 => a.id >>> 3 == b.id >>> 3 | 2 => a.id >>> 7 == b.id >>> 7 | _ => true)

/-- A sector conflicts with the access (R261). -/
def State.raceHit (s : State) (x : Option (BitVec 7) × Nat) : Bool :=
  let r := s.raceRec x
  match r.writer with
  | none => false
  | some w =>
    !(sameAgent w s.agent
      || s.ctx.acqTab.any (fun e => e.1 == w.id && decide (e.2 ≥ r.interval))
      || (sameDomain r.level w s.agent && s.ctx.phase != r.phase))

/-- Shadow state of package memory lasts while its line is in L2 (R260): what a free value says has left it is gone (log 33). -/
def State.shadowLeaves (s : State) (x : Option (BitVec 7) × Nat) : State :=
  if x.1.isNone && Config.freeBool (s.clock * 2 ^ 48 + x.2) then s.mapPkg fun k => { k with race := tabDel k.race x.2 } else s

/-- Record a write in the shadow of the core in focus and of package memory (R260). -/
def State.raceNote (s : State) (ps : List Place) (r : RaceRec) : State :=
  ps.foldl (fun s p => match p with
    | .sram a => s.mapCore fun c => { c with race := tabSet c.race (a / 64) r }
    | .far k c a => if k = s.pkg.num then s.mapCoreAt c fun k => { k with race := tabSet k.race (a / 64) r } else s
    | .hbm a => s.mapPkg fun k => { k with race := tabSet k.race (a / 64) r }
    | _ => s) s

/-- A plain write of the context in focus, or a write of the host, a peer package or an engine: writer none. -/
def State.raceWrite (s : State) (ps : List Place) (mine : Bool) : State :=
  s.raceNote ps (if mine then ⟨some s.agent, s.ctx.interval, s.ctx.level, s.ctx.phase⟩ else ⟨none, 0, 0, 0⟩)

/-- The trap a write to a page of the log region raises, if any, in the order of R267: rights, SEALED_SOURCE, BAD_FORMAT. -/
def logFault (e : TlbEntry) (base : Word) : Option TrapInfo :=
  match rightsFault e .write with
  | some st => some (trapPage st 2 base)
  | none => if e.sealed then some (trapSealed base) else if !attrOk e.fattr then some (trapFormat base) else none

/-- One race-log record (Table 10.13) at an index, and the header's counts: engine writes, performed at their home. A log region
that faults on write stops logging, and the fault is a trap of the context (R262). -/
def State.raceLog (s : State) (store : Bool) (x : Option (BitVec 7) × Nat) (addr : Word) : State ⊕ TrapInfo :=
  let base := wbits (s.readSys 0x008) 63 16 * 2 ^ 16
  let stop := fun (i : TrapInfo) => Sum.inr (α := State) i
  match s.translate base with
  | .error (st, k) => stop (trapPage st k (BitVec.ofNat 64 base))
  | .ok e =>
    match logFault e (BitVec.ofNat 64 base) with
    | some i => stop i
    | none =>
      let d := e.dpage * 2 ^ 16
      let put := fun (s : State) (a : Nat) (b : List Byte) =>
        let ps := (natRange a b.length).map dpaPlace
        (s.performCells none (ps.zip (b.map some))).noteHome ps
      let count := s.devLe d 4
      let full := decide (count ≥ 2047) && !(s.readSys 0x008).getLsbD 3
      if full then .inl (put s (d + 4) (leBytes 4 (s.devLe (d + 4) 4 + 1)))
      else
        let r := s.raceRec x
        let w := (r.writer.map (·.id.toNat)).getD 0
        let idx := count % 2047 + 1
        let kind := store.toNat * 128 + x.1.isSome.toNat * 64 + r.level.toNat
        let who := (w / 256) * 2 ^ 13 + (w / 2 % 128) * 2 ^ 6 + w % 2 * 2 ^ 5
        .inl (put (put s (d + 32 * idx) (leBytes 8 (addr.toNat / 64 * 64) ++ leBytes 8 s.opId.pc.toNat ++ leBytes 4 kind
          ++ leBytes 4 who ++ leBytes 4 r.interval ++ leBytes 4 0)) d (leBytes 4 (count + 1)))

/-- Check a plain access (R261): the one place where a race is reported (R258), its places with their addresses: the state after its log records when it may perform, or a trap. -/
def State.raceCheck (s : State) (ps : List (Place × Word)) (store : Bool) : State ⊕ TrapInfo :=
  let ctl := (s.readSys 0x008)
  if !ctl.getLsbD 0 then .inl s
  else
    let s := (s.raceSectors ps).foldl (fun s x => s.shadowLeaves x.1) s
    let hits := (s.raceSectors ps).filter fun x => (x.1.1.isNone || ctl.getLsbD 1) && s.raceHit x.1
    match hits with
    | [] => .inl s
    | h :: _ =>
      if !ctl.getLsbD 2 then .inr (trapRace h.2)
      else hits.foldl (fun r x => match r with | .inl s => s.raceLog store x.1 x.2 | .inr t => .inr t) (.inl s)

end Sys2Proof.Machine
end

