-- ==== Sys2Proof/Machine/Home.lean ====
section
/-! DEFINITION. Home.lean: what is performed at a location's home: atomics (R310 to R312), decide-once cells (R317 to R319),
the token table (R313, R314) and the pool controller's pages (R422 to R425). -/
namespace Sys2Proof.Machine

/-! ### Atomics -/

def atomWidth (dbl : Bool) : Nat := if dbl then 64 else 32

/-- f(old, v) of Table 12.1 and R311, on w-bit patterns. -/
def atomApply (op : AtomOp) (dbl : Bool) (old v : Nat) : Nat :=
  let w := atomWidth dbl
  let old := old % 2 ^ w
  let v := v % 2 ^ w
  let sm := intVal true w
  match op with
  | .add => (old + v) % 2 ^ w
  | .min => if sm v < sm old then v else old
  | .max => if sm old < sm v then v else old
  | .minn => min old v
  | .maxn => max old v
  | .and => old &&& v
  | .or => old ||| v
  | .xor => old ^^^ v
  | .xchg => v
  | .cas new => if old = v then new.toNat % 2 ^ w else old
  | .fadd => (if dbl then fp64 else fp32).addBits 0 old v
  | .inc => if old ≥ v then 0 else old + 1

/-- The opcode, as the token table compares it (R314): that of `vscadd` when the operation is one of its elements (R312). -/
def atomCode (scatter : Bool) : AtomOp → Nat
  | .add => if scatter then 0x2C else 0x20
  | .min => 0x21 | .max => 0x22 | .minn => 0x23 | .maxn => 0x24 | .and => 0x25 | .or => 0x26 | .xor => 0x27 | .xchg => 0x28
  | .cas _ => 0x29
  | .fadd => if scatter then 0x2C else 0x2A
  | .inc => 0x2B

/-! ### Decide-once cells -/

/-- The reply of a cell operation (R320): STATUS and the decision's fields. -/
structure CellReply where
  status : Nat
  value  : List Byte
  len    : Nat
  wpkg   : Nat
  wcore  : Nat
  cpw    : Bool
  dseq   : Nat
  gen    : BitVec 32
  deriving DecidableEq, Repr

def cellLen (c : List Byte) : Nat := leField c 0x30 1
def cellState (c : List Byte) : Nat := leField c 0x31 1
def cellGen (c : List Byte) : BitVec 32 := BitVec.ofNat 32 (leField c 0x34 4)

/-- STATE above 2, LEN above 48 or a reserved bit set (R319). -/
def cellInvalid (c : List Byte) : Bool :=
  decide (cellState c > 2) || decide (cellLen c > 48) || decide (leField c 0x32 1 ≥ 128)
    || decide (leField c 0x33 1 ≥ 2) || decide (leField c 0x38 4 ≥ 2 ^ 19)

/-- A cleared cell at the next generation (Table 12.5). -/
def cellCleared (c : List Byte) : List Byte :=
  List.replicate 0x34 0 ++ leBytes 4 (cellGen c + 1).toNat ++ List.replicate 8 0

def cellReply (status : Nat) (withWinner : Bool) (c : List Byte) : CellReply :=
  if withWinner then
    ⟨status, sliceBytes c 0 (cellLen c) ++ List.replicate (48 - cellLen c) 0, cellLen c, leField c 0x38 4, leField c 0x32 1,
      decide (leField c 0x33 1 = 1), leField c 0x3C 4, cellGen c⟩
  else ⟨status, List.replicate 48 0, 0, 0, 0, false, 0, cellGen c⟩

/-- The relation of an operation's generation to the cell's (R318): current, EARLY, STALE. -/
inductive GenRel where
  | current | early | stale
  deriving DecidableEq, Repr

def genRel (p c : BitVec 32) : GenRel :=
  let d := (p - c).toNat
  if d = 0 then .current else if d < 2 ^ 31 then .early else .stale

/-- One operation at a cell in OPEN or DECIDED (Table 12.5): its reply, the cell's bytes after it, and whether a decision was made. A
cell that plain stores left in STATE 2 is cleared first (R319). -/
def cellStep (op : CellOp) (gen : BitVec 32) (dseq : BitVec 32) (c : List Byte) : CellReply × List Byte × Bool :=
  if cellInvalid c then (cellReply 7 false c, c, false)
  else
    let c := if cellState c = 2 then cellCleared c else c
    match op, genRel gen (cellGen c) with
    | .prop value wpkg wcore cpw, .current =>
      if cellState c = 0 then
        let c' := sliceBytes value 0 value.length ++ List.replicate (48 - value.length) 0 ++
          [BitVec.ofNat 8 value.length, 1, BitVec.ofNat 8 (if cpw then 0 else wcore.toNat), if cpw then 1 else 0]
          ++ leBytes 4 gen.toNat ++ leBytes 4 wpkg.toNat ++ leBytes 4 dseq.toNat
        (cellReply 1 true c', c', true)
      else (cellReply 2 true c, c, false)
    | .read, .current => if cellState c = 0 then (cellReply 5 false c, c, false) else (cellReply 6 true c, c, false)
    | .recycle, .current => if cellState c = 1 then (cellReply 0 false c, cellCleared c, false) else (cellReply 0 false c, c, false)
    | .recycle, _ => (cellReply 0 false c, c, false)
    | _, .early => (cellReply 4 false c, c, false)
    | _, .stale => (cellReply 3 false c, c, false)

/-- One operation at a cell in RECYCLING, by the cell as it stood (Table 12.5): none where it is held until the cell is OPEN. -/
def cellRecycling (op : CellOp) (gen : BitVec 32) (c : List Byte) : Option CellReply :=
  match op, genRel gen (cellGen c) with
  | .prop .., .current => some (cellReply 2 true c)
  | .read, .current => some (cellReply 6 true c)
  | .recycle, _ => some (cellReply 0 false c)
  | _, .early => if gen = cellGen c + 1 then none else some (cellReply 4 false c)
  | _, .stale => some (cellReply 3 false c)

/-- An operation at its home: its reply, the cell's bytes at the home, whether a decision was made, and the cells being cleared. -/
structure CellMove where
  reply   : CellReply
  bytes   : List Byte
  decided : Bool
  clearing : List Clearing
  deriving DecidableEq, Repr

/-- How long the home takes to clear a cell: a bounded time that the manual does not give, so a free value (log 71). -/
def clearTime (clock : Nat) : Nat := Config.freeNat clock % 16

/-- An operation arrives at the cell at `base`, whose bytes are `c` once those being cleared are (R319): a `drecycle` that takes effect
leaves the cell in RECYCLING for a time. -/
def cellMove (l : List Clearing) (clock base : Nat) (c : List Byte) (op : CellOp) (gen dseq : BitVec 32) : CellMove :=
  let rest := l.filter fun x => x.base != base
  let go := fun (_ : Unit) =>
    let (r, b, d) := cellStep op gen dseq c
    let starts := op == .recycle && !cellInvalid c && cellState c == 1 && genRel gen (cellGen c) == .current
    (⟨r, b, d, if starts then ⟨base, c, clock + clearTime clock⟩ :: rest else rest⟩ : CellMove)
  match clearingAt l clock base with
  | none => go ()
  | some x => match cellRecycling op gen x.old with
    | some r => ⟨r, c, false, l⟩
    | none => go ()

/-! ### The pool controller -/

/-- What the pool answers a request. -/
inductive PoolReply where
  | grant (e : Nat)
  | retry
  | fenced
  | wait
  | done
  | noSpace
  | old (x : Word)
  | mismatch
  | retired
  | object                            -- the pool refuses the object (R379)
  | cell (r : CellReply)
  deriving DecidableEq, Repr

/-- Lease terms and guard, in microseconds of pool time (R420, R421; log 7). -/
def leaseTerm : Nat := 2000
def leaseGuard : Nat := 200

def Pool.page (p : Pool) (obj : BitVec 48) (page : Nat) : PoolPage := tabGet ⟨.free, 0, []⟩ p.pages (pageKey obj page)
def Pool.setPage (p : Pool) (obj : BitVec 48) (page : Nat) (x : PoolPage) : Pool :=
  { p with pages := tabSet p.pages (pageKey obj page) x }

/-- The write-lease request that waits first is granted once no lease of another package is live (R422, R424); one below FGEN is refused. -/
def PoolPage.grantNext (x : PoolPage) (t : Nat) : PoolPage :=
  match x.queued.filter fun q => decide (x.fgen.toNat ≤ q.2.toNat) with
  | [] => { x with queued := [] }
  | (q, g) :: l =>
    let free := match x.st with
      | .free => true
      | .shared hs => hs.all fun h => h.1 == q
      | .writing .. => false
    if free then ⟨.writing q g (t + leaseTerm), g, l⟩ else { x with queued := (q, g) :: l }

/-- The time at which the last lease of a package other than the first waiting one expires. -/
def PoolPage.lastOther (x : PoolPage) : Nat :=
  match x.st, x.queued with
  | .free, _ => 0
  | .shared hs, q :: _ => ((hs.filter fun h => h.1 != q.1).map (·.2)).foldl max 0
  | .shared hs, [] => (hs.map (·.2)).foldl max 0
  | .writing _ _ e, _ => e

/-- Leases whose E has been reached are over, and a request that waits is granted as the last of them ends (R423, R424); one turn for
each request that waits. -/
def PoolPage.settleN : Nat → PoolPage → Nat → PoolPage
  | 0, x, _ => x
  | n + 1, x, now =>
    match x.st with
    | .free => x
    | .shared hs =>
      if !x.queued.isEmpty && decide (x.lastOther ≤ now) then
        PoolPage.settleN n (({ x with st := .shared (hs.filter fun h => decide (x.lastOther < h.2)) } : PoolPage).grantNext x.lastOther) now
      else
        let hs := hs.filter fun h => decide (now < h.2)
        { x with st := if hs.isEmpty then .free else .shared hs }
    | .writing _ _ e => if now < e then x else PoolPage.settleN n (({ x with st := .free } : PoolPage).grantNext e) now

def PoolPage.settle (x : PoolPage) (now : Nat) : PoolPage := x.settleN (x.queued.length + 2) now

/-- A page for which a package's own request waits no longer. -/
def PoolPage.unqueue (x : PoolPage) (pkg : BitVec 19) : PoolPage := { x with queued := x.queued.filter fun q => q.1 != pkg }

/-- A page once a package's lease on it, and its request for one, is over: the request that waits first may be granted. -/
def PoolPage.drop (y : PoolPage) (pkg : BitVec 19) (now : Nat) : PoolPage :=
  let x := y.unqueue pkg
  match x.st with
  | .free => x
  | .shared hs =>
    let hs := hs.filter fun h => h.1 != pkg
    ({ x with st := if hs.isEmpty then .free else .shared hs } : PoolPage).grantNext now
  | .writing p _ _ => if p = pkg then ({ x with st := .free } : PoolPage).grantNext now else x

/-- A write-lease request: granted now, or refused, or it waits behind those that came before (R422). One that has been granted is told so
again. -/
def PoolPage.ask (x : PoolPage) (pkg : BitVec 19) (g : BitVec 32) (now : Nat) : PoolPage × PoolReply :=
  match x.st with
  | .writing p h e =>
    if p = pkg && h = g then (x, .grant e)
    else if g.toNat < x.fgen.toNat then (x.unqueue pkg, .fenced)
    else (if x.queued.any fun q => q == (pkg, g) then x else { x.unqueue pkg with queued := (x.unqueue pkg).queued ++ [(pkg, g)] }, .wait)
  | _ =>
    if g.toNat < x.fgen.toNat then (x.unqueue pkg, .fenced)
    else
      let y := if x.queued.any fun q => q == (pkg, g) then x else { x.unqueue pkg with queued := (x.unqueue pkg).queued ++ [(pkg, g)] }
      let y := y.grantNext now
      match y.st with
      | .writing p _ e => if p = pkg then (y, .grant e) else (y, .wait)
      | _ => (y, .wait)

/-- The decision counter of the pool and its cell bytes. -/
def Pool.cellAt (p : Pool) (obj : BitVec 48) (off : Nat) : List Byte := p.bytes.bytes (poolKey obj (off / 64 * 64)) 64

/-- The page a request is for, by which its link is chosen. -/
def poolPage : PoolOp → Option (BitVec 48 × Nat)
  | .readLease _ o p | .writeLease _ o p _ | .renew _ o p _ | .release _ o p | .expire _ o p | .sealHold _ o p | .sealDone _ o p _ =>
    some (o, p.toNat)
  | .put _ o a _ _ _ | .store o a _ | .atom _ o a _ _ _ _ | .cell o a _ _ _ => some (o, a / 2 ^ 16)
  | .retire _ => none

/-- The last page a request touches (R306). -/
def poolLast : PoolOp → Nat
  | .atom _ _ a _ _ dbl _ => (a + atomWidth dbl / 8 - 1) / 2 ^ 16
  | .store _ a d => (a + d.length - 1) / 2 ^ 16
  | o => ((poolPage o).map (·.2)).getD 0

/-- A page that the pool may refuse for want of space (R295): of an object whose pages are backed as they are first written
(Table 17.1). -/
def Pool.noSpace (p : Pool) (obj : BitVec 48) (page : Nat) : Bool :=
  (match p.objs.find? (·.1 == obj.toNat) with | some (_, o) => o.stash | none => false)
    && NatSet.has p.noRoom (pageKey obj page) && !NatSet.has p.backed (pageKey obj page)

/-- A cell operation at the pool (R319): a cell in RECYCLING answers by its row while it is being cleared, and one that is held until
then finds it OPEN. -/
def Pool.cellOp (p : Pool) (clock : Nat) (key : Nat) (gen : BitVec 32) (op : CellOp) : Pool × CellReply :=
  let c := cellMove p.clearing clock key (p.bytes.bytes key 64) op gen p.decSeq
  ({ p with bytes := p.bytes.putBytes key c.bytes, decSeq := if c.decided then p.decSeq + 1 else p.decSeq, clearing := c.clearing }, c.reply)

/-- One request that the pool grants, at pool time `now` (R314, R319, R422 to R425). -/
def Pool.serveOp (p : Pool) (now clock : Nat) : PoolOp → Pool × PoolReply
  | .readLease pkg obj page =>
    let x := (p.page obj page.toNat).settle now
    match x.st, x.queued with
    | .free, [] => (p.setPage obj page.toNat { x with st := .shared [(pkg, now + leaseTerm)] }, .grant (now + leaseTerm))
    | .shared hs, [] =>
      (p.setPage obj page.toNat { x with st := .shared ((hs.filter fun h => h.1 != pkg) ++ [(pkg, now + leaseTerm)]) },
        .grant (now + leaseTerm))
    | _, _ => (p.setPage obj page.toNat x, .retry)
  | .writeLease pkg obj page g =>
    let (x, r) := ((p.page obj page.toNat).settle now).ask pkg g now
    (p.setPage obj page.toNat x, r)
  | .renew pkg obj page stamp =>
    let x := (p.page obj page.toNat).settle now
    if stamp < now then (p.setPage obj page.toNat x, .fenced)
    else
      match x.st with
      | .free => (p.setPage obj page.toNat x, .fenced)
      | .shared hs =>
        if !hs.any (fun h => h.1 == pkg) then (p.setPage obj page.toNat x, .fenced)
        else if !x.queued.isEmpty then (p.setPage obj page.toNat x, .retry)
        else (p.setPage obj page.toNat
          { x with st := .shared (mapIf (fun h => h.1 == pkg) (fun h => (h.1, now + leaseTerm)) hs) }, .grant (now + leaseTerm))
      | .writing q g _ =>
        if q = pkg then (p.setPage obj page.toNat { x with st := .writing q g (now + leaseTerm) }, .grant (now + leaseTerm))
        else (p.setPage obj page.toNat x, .retry)
  | .release pkg obj page => (p.setPage obj page.toNat (((p.page obj page.toNat).settle now).drop pkg now), .done)
  | .expire pkg obj page => (p.setPage obj page.toNat (((p.page obj page.toNat).settle now).drop pkg now), .done)
  | .put pkg obj off data gen stamp =>
    let page := off / 2 ^ 16
    let x := (p.page obj page).settle now
    match x.st with
    | .writing q g _ =>
      if q = pkg && g = gen && now ≤ stamp then
        if p.noSpace obj page then (p, .noSpace)
        else ({ p with bytes := p.bytes.putMasked (poolKey obj off) data, backed := NatSet.add p.backed (pageKey obj page) }, .done)
      else (p.setPage obj page x, .fenced)
    | _ => (p.setPage obj page x, .fenced)
  | .store obj off data => ({ p with bytes := p.bytes.putBytes (poolKey obj off) data }, .done)
  | .atom key obj off op scatter dbl v =>
    let n := atomWidth dbl / 8
    let old := p.bytes.le (poolKey obj off) n
    let run := { p with bytes := p.bytes.putBytes (poolKey obj off) (leBytes n (atomApply op dbl old v.toNat)) }
    match key with
    | none => (run, .old (BitVec.ofNat 64 old))
    | some k =>
      if p.retired.elem k.token then (p, .retired)
      else
        match p.tokens.find? (·.key == k) with
        | none =>
          if Config.tokenEntries < p.tokens.length then (p, .wait)
          else ({ run with tokens := p.tokens ++ [⟨k, obj, off, atomCode scatter op, dbl, BitVec.ofNat 64 old⟩] }, .old (BitVec.ofNat 64 old))
        | some e => if e.obj = obj && e.off = off && e.code = atomCode scatter op && e.dbl = dbl then (p, .old e.old) else (p, .mismatch)
  | .cell obj off gen op stamp =>
    if stamp ≠ 0 && stamp < now then (p, .fenced)
    else
      let (p, r) := p.cellOp clock (poolKey obj (off / 64 * 64)) gen op
      (p, .cell r)
  | .retire token => ({ p with tokens := p.tokens.filter fun e => e.key.token != token, retired := token :: p.retired }, .done)
  | .sealHold pkg obj page =>
    if p.holds.any fun h => h.1 == pageKey obj page.toNat then (p, .wait) else ({ p with holds := (pageKey obj page.toNat, pkg) :: p.holds }, .done)
  | .sealDone pkg obj page key =>
    let k := pageKey obj page.toNat
    ({ p with sealVer := tabSet p.sealVer k (key, (tabGet (0, 0) p.sealVer k).2 + 1), holds := p.holds.filter fun h => h != (k, pkg) }, .done)

/-- One request at the pool controller (R379): it grants the pages of its object, or it answers OBJECT and does nothing. -/
def Pool.serve (p : Pool) (now clock : Nat) (r : PoolReq) : Pool × PoolReply :=
  match poolPage r.op with
  | some (obj, page) =>
    if p.grants r.tenant obj page && p.grants r.tenant obj (poolLast r.op) then p.serveOp now clock r.op else (p, .object)
  | none => p.serveOp now clock r.op

/-- Requests of other packages that the pool controller serves first. -/
def Pool.serveAll (p : Pool) (now clock : Nat) (l : List PoolReq) : Pool := l.foldl (fun p o => (p.serve now clock o).1) p

/-- How many bytes of data a request brings, and its stamp (R425). -/
def poolSize : PoolOp → Nat
  | .put _ _ _ d _ _ | .store _ _ d => d.length
  | .cell _ _ _ (.prop v _ _ _) _ => v.length
  | _ => 8

def poolStamp : PoolOp → Nat
  | .renew _ _ _ t | .put _ _ _ _ _ t | .cell _ _ _ _ t => t
  | _ => 0

/-- A request of this package, for a partition; while the page's link is out of service nothing is sent and it waits (R438). -/
def State.ask (s : State) (part : Nat) (o : PoolOp) : State × PoolReply :=
  if (match poolPage o with | some (obj, pg) => s.pkg.pageOut obj pg | none => false) then (s, .wait)
  else
    let (p, r) := s.pool.serve s.pkg.now s.clock ⟨s.tenant part, o⟩
    let s := match poolPage o with
      | some (obj, pg) => (match s.pkg.pageLink obj pg with
          | some i => s.mapPkg fun k => k.sendOn s.clock i (flitsFor (poolSize o)) (poolStamp o)
          | none => s)
      | none => s
    ({ s with pool := p }, r)

/-- The token key of the next tokened operation (R313). -/
def State.tokenKey (s : State) : TokenKey := ⟨s.ctx.stepToken, s.ctx.index, s.ctx.tokSeq⟩

/-- An atomic at a package location (R303, R306): the old value; its home gives up every copy. -/
def State.atomAt (s : State) (ps : List Place) (op : AtomOp) (dbl : Bool) (v : Word) : State × Word :=
  let old := leNat (ps.map s.byteAt)
  let new := atomApply op dbl old v.toNat
  ((s.performCells (some s.agent) (ps.zip ((leBytes ps.length new).map some))).noteHome ps, BitVec.ofNat 64 old)

/-- A cell operation at a cell of package memory (R303, R317, R319); one that writes the cell gives up every copy of its sector. -/
def State.cellAt (s : State) (base : Nat) (op : CellOp) (gen : BitVec 32) : State × CellReply :=
  let old := s.pkg.hbm.bytes base 64
  let m := cellMove s.pkg.clearing s.clock base old op gen s.pkg.decSeq
  if m.bytes = old then ((if m.clearing = s.pkg.clearing then s else s.mapPkg fun k => { k with clearing := m.clearing }), m.reply)
  else
    let ps := (natRange base 64).map Place.hbm
    let s := (s.performCells (some s.agent) (ps.zip (m.bytes.map some))).noteHome ps
    (s.mapPkg fun k => { k with decSeq := if m.decided then k.decSeq + 1 else k.decSeq, clearing := m.clearing }, m.reply)

end Sys2Proof.Machine
end

