-- ==== Sys2Proof/Machine/Commit.lean ====
section
/-! DEFINITION. Commit.lean: full and empty words, remote writes, bank hand-over, the release of withheld entries, and the
commit of a checkpoint (R27, R28, R44 to R46, R274 to R277, R289, R307, R315, R353, R397 to R401). -/
namespace Sys2Proof.Machine

/-! ### Full and empty words -/

/-- The 32-bit words that `n` bytes at an address cover. -/
def wordsOf (a n : Nat) : List Nat := natRange (a / 4) ((n + 3) / 4)

def CoreSt.allFull (c : CoreSt) (a n : Nat) : Bool := (wordsOf a n).all (NatSet.has c.full)
def CoreSt.allEmpty (c : CoreSt) (a n : Nat) : Bool := (wordsOf a n).all fun w => !NatSet.has c.full w
def CoreSt.setFull (c : CoreSt) (a n : Nat) : CoreSt := { c with full := (wordsOf a n).foldl NatSet.add c.full }
def CoreSt.setEmpty (c : CoreSt) (a n : Nat) : CoreSt := { c with full := (wordsOf a n).foldl NatSet.del c.full }

def CoreSt.putCells (c : CoreSt) (a : Nat) : List (Option Byte) → CoreSt
  | d => { c with ram := c.ram.putMasked a d,
                  poison := if c.poison.isEmpty then [] else d.zipIdx.foldl (fun l (b, i) => if b.isSome then l.del (a + i) else l) c.poison }

/-! ### Acquires and releases (R242, R248, R254, R260) -/

/-- What is known of the release that wrote the bytes at places: nothing more, or a new one. -/
def State.setRel (s : State) (ps : List Place) (r : Option RelRec) : State :=
  let f := fun (l : List (Nat × RelRec)) (a : Nat) => match r with | some r => tabSet l a r | none => if l.isEmpty then l else tabDel l a
  ps.foldl (fun s p => match s.canon p with
    | .sram a => s.mapCore fun c => { c with rel := f c.rel a }
    | .far k c a => if k = s.pkg.num then s.mapCoreAt c fun x => { x with rel := f x.rel a } else s
    | .hbm a => s.mapPkg fun k => { k with rel := f k.rel a }
    | .pool o a | .home o a => s.mapPkg fun k => { k with rel := f k.rel (2 ^ 100 + poolKey o a) }
    | _ => s) s

/-- A release of a class by the context in focus of the words at some places: each release ends an interval (R260). -/
def State.noteRelease (s : State) (ps : List Place) (scope : BitVec 3) (cls : BitVec 4) : State :=
  (s.setRel ps (some ⟨s.agent, some (s.ctx.interval, scope), s.ctx.relFence[cls.toNat]'cls.isLt, s.clock⟩)).mapCtx fun c =>
    { c with interval := c.interval + 1 }

/-- A release that writes no word. -/
def Context.endInterval (c : Context) : Context := { c with interval := c.interval + 1 }

/-- The release last recorded at a place. -/
def State.relAt (s : State) (p : Place) : Option RelRec :=
  let get := fun (l : List (Nat × RelRec)) (a : Nat) => (l.find? (·.1 == a)).map (·.2)
  match s.canon p with
  | .sram a => get s.core.rel a
  | .far k c a => if k = s.pkg.num then get (s.boxOf c).core.rel a else none
  | .hbm a => get s.pkg.rel a
  | .pool o a | .home o a => get s.pkg.rel (2 ^ 100 + poolKey o a)
  | _ => none

/-- The release that an acquire has read enters the table of 16, the least recently used entry giving way (R260). -/
def Context.learn (c : Context) (who : Agent) (interval : Nat) : Context :=
  { c with acqTab := ((who.id, interval) :: c.acqTab.filter fun e => e.1 != who.id).take 16 }

/-- An acquire of some classes takes a release, or a release fence, of a write it has read: both scopes have to cover both contexts
(R248). -/
def State.acquireOf (s : State) (r : RelRec) (release : Option (Nat × BitVec 3)) (scope : BitVec 3) (classes : List Nat) : State :=
  match release with
  | none => s
  | some (i, sc) =>
    if scopeCovers scope r.who s.agent && scopeCovers sc r.who s.agent then
      s.mapCtx fun c => (c.raiseFloors scope.toNat classes r.at_).learn r.who i
    else s

/-- An acquire that reads bytes: it learns each release that wrote any of them, once. -/
def State.noteAcquire (s : State) (ps : List Place) (scope : BitVec 3) (cls : BitVec 4) : State :=
  (ps.filterMap s.relAt).eraseDups.foldl (fun s r => s.acquireOf r r.own scope (classesOf cls)) s

/-- An acquire of a class that performs at some places now (R242, R248): accesses of its class that enter later come after it, so they
see what observers of its scope had written by then; one of system scope has waited for every invalidation under way toward its
core (R254). -/
def State.acquireAt (s : State) (ps : List Place) (scope : BitVec 3) (cls : BitVec 4) : State :=
  (s.noteAcquire ps scope cls).mapCtx fun c => c.acquire scope cls s.clock

/-- The context that sent a write of this package: its slot, while it is resident. -/
def State.senderSlot (s : State) (w : RemoteWrite) : Option Bool :=
  let ok := fun (c : Context) => c.live && c.info.launchId == w.launch && c.info.pid == w.pid
  if ok (s.ctxOf w.core false) then some false else if ok (s.ctxOf w.core true) then some true else none

/-! ### Reads through a window within the package (R44, R369) -/

inductive WinRead where
  | bytes (d : List Byte)
  | bound                       -- the target answers REMOTE_BOUND
  | spoilt                      -- a location is poisoned (R418)
  | wait (saved : Bool)         -- held at the target, which is saved (R413), not resident yet, or does not own the bank yet (R28)
  | remote                      -- the target lies on another package
  deriving DecidableEq, Repr

/-- The resident context of a partition and crew on a core: its slot (R369). A launch outside every crew is a crew of its own. -/
def State.findCrew (s : State) (core : BitVec 7) (pid : BitVec 12) (crew launch : BitVec 32) : Option Bool :=
  let ok := fun (c : Context) => c.live && c.issuable && c.info.pid == pid && c.info.crew == crew && (crew != 0 || c.info.launchId == launch)
  if ok (s.ctxOf core false) then some false else if ok (s.ctxOf core true) then some true else none

/-- The partition that owns a core's cluster (R368). -/
def State.corePart (s : State) (core : BitVec 7) : Option PartDesc :=
  (s.pkg.parts.toList.findSome? fun d => match d with
    | some d => if d.clMask.getLsbD (core.toNat / 4) then some d else none
    | none => none)

/-- An access of `n` bytes lies within a target context's bounds and its banks (R44). -/
def Context.targetOk (c : Context) (a n : Nat) : Bool :=
  decide (c.spLo.toNat ≤ a) && decide (a + n - 1 ≤ c.spHi.toNat) && decide (a + n - 1 < 2 ^ 22)

/-- A bank of a range belongs to a launch slot of a core (R28). -/
def CoreSt.owns (c : CoreSt) (slot : Bool) (a n : Nat) : Bool :=
  (natRange (a / 2 ^ 16) ((a + n - 1) / 2 ^ 16 + 1 - a / 2 ^ 16)).all fun b => c.owner.toList.getD b Option.none == some slot

/-- The context of this crew on a core is saved. -/
def State.targetSaved (s : State) (core : BitVec 7) : Bool :=
  s.pkg.saved.any fun v => v.core == core && v.ctx.info.pid == s.ctx.info.pid && v.ctx.info.crew == s.ctx.info.crew
    && (s.ctx.info.crew != 0 || v.launchId == s.ctx.info.launchId)

/-- A read of `n` bytes through a window (R44, R28, R369): it waits while the target is not resident or does not own the bank yet. -/
def State.winRead (s : State) (w : BitVec 4) (a n : Nat) : WinRead :=
  let e := s.ctx.win w
  if winPkg e != s.pkg.num then .remote
  else
    let core := winCore e
    if ((s.corePart core).map (·.pid)).getD 0 != s.ctx.info.pid then .bound
    else
      match s.findCrew core s.ctx.info.pid s.ctx.info.crew s.ctx.info.launchId with
      | none => .wait (s.targetSaved core)
      | some sl =>
        let b := s.boxOf core
        let c := if sl then b.ctx1 else b.ctx0
        if !c.targetOk (winBase e + a) n then .bound
        else if !b.core.owns sl (winBase e + a) n then .wait false
        else if (natRange (winBase e + a) n).any b.core.poison.has then .spoilt
        else .bytes ((natRange (winBase e + a) n).map fun x => b.core.ram.get x)

/-! ### Remote writes -/

def Context.outCount (c : Context) (n : BitVec 4) : Nat := wbits (c.wallow[n.toNat]'n.isLt) 9 0
def Context.outLimit (c : Context) (n : BitVec 4) : Nat := wbits (c.wallow[n.toNat]'n.isLt) 25 16

def Context.setOut (c : Context) (n : BitVec 4) (v : Nat) : Context :=
  { c with wallow := c.wallow.set n.toNat (setBits (c.wallow[n.toNat]'n.isLt) 9 0 v) n.isLt }

/-- The group index of a multicast window (Table 2.7). -/
def winGroup (w : Word) : BitVec 4 := BitVec.ofNat 4 (wbits w 46 43)

/-- A key slot as a partition sees it: outside its range, empty or of another kind it acts as EMPTY (R384). -/
def State.keyFor (s : State) (slot : BitVec 8) (kind : KeyKind) : Option (List Byte) :=
  match s.part with
  | none => none
  | some d =>
    if slot.toNat < d.keyLo.toNat || d.keyHi.toNat < slot.toNat then none
    else match s.pkg.keys.find? (·.1 == slot.toNat) with
      | some (_, k, b) => if k = kind then some b else none
      | none => none

/-- Data between packages under a LINK key (R388): initialisation vector, ciphertext and tag. The manual does not say which vector: a free
value (log 76). A key that is not there seals nothing that its receiver can open. -/
def linkSeal (key : Option (List Byte)) (clock : Nat) (d : List Byte) : List Byte × List Byte × List Byte :=
  let iv := leBytes 12 (Config.freeNat clock)
  match key with
  | some k => (iv, Config.gcmCrypt k iv d, Config.gcmTag k iv [] d)
  | none => (iv, [], [])

/-- The data of a sealed message; none where its tag check fails. -/
def linkOpen (key : Option (List Byte)) (c : List Byte × List Byte × List Byte) : Option (List Byte) :=
  match key with
  | some k => let d := Config.gcmCrypt k c.1 c.2.1; if Config.gcmTag k c.1 [] d = c.2.2 then some d else none
  | none => none

/-- The LINK key in WINKEY of the context in focus. -/
def State.winKey (s : State) : Option (List Byte) := s.keyFor s.ctx.info.winKey .link

/-- The remote write a store through a window sends (R44, R47, R369); one to a multicast group carries its offset in the window.
One of a confidential context that leaves the package is sealed (R388). -/
def State.remoteWrite (s : State) (w : BitVec 4) (a : Nat) (kind : RwKind) (data : List (Option Byte)) (cls : BitVec 4)
    (scope : BitVec 3) (ser : Nat) : RemoteWrite :=
  let e := s.ctx.win w
  { pid := s.ctx.info.pid, crew := s.ctx.info.crew, pkg := s.pkg.num, core := s.coreNum, slot := s.slotNum, window := w, cls := cls,
    scope := scope, target := winCore e, addr := if winMC e then a else winBase e + a,
    limit := if winMC e then winBytes e else winBase e + winBytes e, kind := kind, data := data,
    posted := kind == .store, launch := s.ctx.info.launchId, ser := ser,
    toPkg := if winMC e then none else some (winPkg e), group := if winMC e then some (winGroup e) else none,
    cipher := if s.ctx.conf && (winMC e || winPkg e != s.pkg.num) then some (linkSeal s.winKey s.clock (data.map fun b => b.getD 0)) else none }

/-- A write of the context's own to a place of this package that is released before it may perform (R238). -/
def State.localWrite (s : State) (p : Place) (kind : RwKind) (data : List (Option Byte)) (cls : BitVec 4) (scope : BitVec 3) (ser : Nat) :
    RemoteWrite :=
  { pid := s.ctx.info.pid, crew := s.ctx.info.crew, pkg := s.pkg.num, core := s.coreNum, slot := s.slotNum, window := 0, cls := cls,
    scope := scope, target := s.coreNum, addr := (match p with | .sram a => a | _ => 0), limit := 0, kind := kind, data := data,
    posted := false, launch := s.ctx.info.launchId, ser := ser, toPkg := some s.pkg.num, home := some p }

/-- A write of the context's own L slot carries its interval, level and phase for the race detector, and the release fence before it
(R248, R260). -/
def State.ownWrite (s : State) (x : RemoteWrite) : RemoteWrite :=
  { x with shadow := some (s.ctx.interval, s.ctx.level, s.ctx.phase), fence := s.ctx.relFence[x.cls.toNat]'x.cls.isLt }

/-- A write leaves for another package, or for the fabric switch. -/
def State.sendOut (s : State) (x : RemoteWrite) : State :=
  s.mapPkg fun k => ({ k with sent := k.sent ++ [x] } : Package).sendOn s.clock (k.fabricLink (x.toPkg.getD 0)) (flitsFor x.data.length)

/-- Send it: to a core of this package, or out over the fabric, where one that earlier accesses hold back waits first (`hold`); a
posted write counts in OUT (R45). -/
def State.send (s : State) (x : RemoteWrite) (hold : Bool := false) : State :=
  let s := if x.toPkg = some s.pkg.num || hold then s.mapPkg fun k => { k with wire := k.wire ++ [x] } else s.sendOut x
  if x.posted then s.mapCtx fun c => c.setOut x.window (c.outCount x.window + 1) else s

/-- A write that a tagged word makes wait: only `ste` (R46, R276). -/
def CoreSt.writable (c : CoreSt) (x : RemoteWrite) : Bool :=
  match x.kind with
  | .ste => c.allEmpty x.addr x.data.length
  | _ => true

/-- The sender, as scopes and the race detector name it. -/
def writeAgent (x : RemoteWrite) : Agent :=
  ⟨BitVec.ofNat 27 (x.pkg.toNat * 2 ^ 8 + x.core.toNat * 2 + x.slot.toNat), x.pid, x.crew, x.launch⟩

/-- A remote write, or a queued local `ste`, performs at the core in focus (R44, R274 to R277). -/
def State.performWrite (s : State) (x : RemoteWrite) : State :=
  let n := x.data.length
  let ps := (natRange x.addr n).map Place.sram
  let rel := fun (s : State) => match x.shadow with
    | some (i, _, _) => s.setRel ps (some ⟨writeAgent x, some (i, x.scope), x.fence, s.clock⟩)
    | none => s
  let after := if x.fence.isSome then some ⟨writeAgent x, none, x.fence, s.clock⟩ else none
  let s := s.keepOld (some (writeAgent x)) (ps.zip x.data)
  match x.kind with
  | .store | .count =>
    let r : RaceRec := match x.shadow with
      | some (i, l, p) => ⟨some (writeAgent x), i, l, p⟩
      | none => ⟨none, 0, 0, 0⟩
    let qs := ((ps.zip x.data).filter fun c => c.2.isSome).map (·.1)
    let s := ((s.raceNote qs r).setRel qs after).mapCore fun c => c.putCells x.addr x.data
    if x.kind == .count then rel s else s
  | .ste | .stf => (rel s).mapCore fun c => (c.putCells x.addr x.data).setFull x.addr n
  | .fset => s.mapCore fun c => c.setFull x.addr n
  | .fclr => s.mapCore fun c => c.setEmpty x.addr n

/-- Two writes of one window of one sender under one class (R46). -/
def sameStream (a b : RemoteWrite) : Bool :=
  a.pkg == b.pkg && a.core == b.core && a.slot == b.slot && a.window == b.window && a.cls == b.cls
    && (a.limit == 0) == (b.limit == 0)

/-! ### Banks -/

/-- The banks a context's partition word and scratchpad bounds use (R27, R30). -/
def Context.usesBank (c : Context) (b : Nat) : Bool :=
  c.live && decide (b ≠ 0) && (decide (b ≤ c.accBanks + c.donor) ||
    (decide (c.spLo.toNat / 2 ^ 16 ≤ b) && decide (b ≤ c.spHi.toNat / 2 ^ 16)))

/-- A bank cleared to zero with every word empty (R28). -/
def CoreSt.clearBank (c : CoreSt) (b : Nat) : CoreSt :=
  { c with ram := c.ram.clear (b * 2 ^ 16) ((b + 1) * 2 ^ 16), poison := c.poison.delRun (b * 2 ^ 16) (2 ^ 16), full := c.full.filter fun w => w / 2 ^ 14 != b }

def CoreSt.setOwner (c : CoreSt) (b : Nat) (o : Option Bool) : CoreSt :=
  { c with owner := Vector.ofFn fun i => if i.val = b then o else c.owner[i] }

/-- Those of them it has not released by a `brel` that has committed (R27, R289). -/
def Context.holdsBank (c : Context) (b : Nat) : Bool := c.usesBank b && !c.relCkpt.getLsbD b

/-- A bank leaves the context in focus: to the next launch when that uses it, with its contents when both are of one partition
and `keep` allows it, else cleared; otherwise to nobody (R27, R28, R353). -/
def State.passBank (s : State) (keep : Bool) (b : Nat) : State :=
  let s := s.forgetBank s.coreNum b
  if s.peer.holdsBank b then
    let c := if keep && s.peer.info.pid = s.ctx.info.pid then s.core else s.core.clearBank b
    { s with core := c.setOwner b (some (!s.slotNum)) }
  else s.mapCore fun c => c.setOwner b none

/-- A tile in the bank, or a started copy command on it, keeps a released bank (R289). -/
def State.bankBusy (s : State) (b : Nat) : Bool :=
  (s.ctx.tiles.toList.any fun t => (t.st == .ready || t.st == .retiring) &&
    (match t.prot with | none => false | some (lo, hi) => decide (lo / 2 ^ 16 ≤ b) && decide (b ≤ hi / 2 ^ 16)))
  || (s.ctx.tags.any fun (_, t) => t.st == .running && ([t.dst, t.src].any fun e => e.space == .sp &&
      decide (e.ea.toNat / 2 ^ 16 ≤ b) && decide (b ≤ (e.ea.toNat + t.len - 1) / 2 ^ 16)))

/-- Released banks pass once nothing of the context holds them (R289). -/
def State.giveBanks (s : State) : State :=
  (natRange 1 63).foldl (fun s b =>
    if s.ctx.giving.getLsbD b && !s.bankBusy b then
      (s.passBank true b).mapCtx fun c => { c with giving := c.giving &&& ~~~(1 <<< b : Word) }
    else s) s

/-! ### Releasing one withheld entry -/

/-- What a trap record names of an entry (R404): pc, SLOT code and address. -/
def Entry.src (e : Entry) : BitVec 32 × Nat × Word := (e.id.pc, slotCode e.id.slot, e.va)

/-- The first place and address of an entry. -/
def Entry.place? (e : Entry) : Option Place := e.cells.head?.map (·.1)

/-- The bytes that a write of pool bytes brings to a 64-byte sector. -/
def sectorBytes (obj : BitVec 48) (sector : Nat) (cells : List (Place × Option Byte)) : List (Option Byte) :=
  (natRange (sector * 64) 64).map fun o => cells.reverse.findSome? fun c => if c.1 == .pool obj o then c.2 else none

/-- The puts that writing these pool bytes sends, one for each written 64-byte sector (R428): the written bytes of it. -/
def putsFor (obj : BitVec 48) (cells : List (Place × Option Byte)) (l : Lease) (copy : Option (BitVec 32 × BitVec 7 × BitVec 6 × Nat)) :
    List Put :=
  let secs := cells.foldl (fun n c => match c.1, c.2 with | .pool _ o, some _ => NatSet.add n (o / 64) | _, _ => n) []
  secs.map fun x => ⟨obj, x * 64, sectorBytes obj x cells, l.gen, l.d, l.part, copy, none⟩

/-- The attempt at a step that a partition is at work on will be lost (R430); a step that is not its current one loses nothing. -/
def State.loseAttempt (s : State) (p : Nat) (step : Word) (c : LossCause) : State :=
  match (s.pkg.schedule.toList.getD p none).bind (·.current) with
  | some a => if a.record.step = step then s.mapPkg fun k => { k with losses := k.losses ++ [(p, c)] } else s
  | none => s

/-- The context's step attempt will be lost, if its launch belongs to a step (R430). -/
def State.loseStep (s : State) (c : LossCause) : State :=
  if s.ctx.info.step = 0 then s else s.loseAttempt s.ctx.info.part.toNat s.ctx.info.step c

/-- The offset a place ends with. -/
def placeOff : Place → Nat
  | .sram a | .far _ _ a | .hbm a | .host a | .pool _ a | .home _ a | .win _ a => a

/-- Plain bytes of one page perform at their home (R251): the pool cache takes them only under a live write lease (R428), and sends the
puts. -/
def State.storePage (s : State) (cells : List (Place × Option Byte)) (copy : Option (BitVec 6 × Nat)) (by_ : Option Agent) : State :=
  let ps : List Place := (cells.filter fun c => c.2.isSome).map (·.1)
  let who := by_.or (some s.agent)
  match ps.head? with
  | some (.home obj off) =>
    if s.pkg.pageLost obj (off / 2 ^ 16) then s.loseStep .linkLost
    else
      let s := (s.performCells who cells).setRel ps none
      match s.pkg.pageLink obj (off / 2 ^ 16) with
      | some i => s.mapPkg fun k => k.sendOn s.clock i (flitsFor ps.length)
      | none => s
  | some (.pool obj off) =>
    match s.lease obj (off / 2 ^ 16) with
    | none => s.loseStep .fenced
    | some l =>
      if l.st == .write && decide (s.pkg.now < l.d) then
        let s := ((s.performCells who cells).setRel ps none).usePages ps
        let from_ := copy.map fun c => (s.ctx.info.launchId, s.coreNum, c.1, c.2)
        s.mapPkg fun k => { k with puts := k.puts ++ putsFor obj cells l from_ }
      else s.loseStep .fenced
  | _ => ((s.performCells who cells).setRel ps none).noteStore ps

/-- Plain bytes of the context in focus perform, those of a second page after those of the first. -/
def State.storeCells (s : State) (cells : List (Place × Option Byte)) (copy : Option (BitVec 6 × Nat) := none) (by_ : Option Agent := none) :
    State :=
  let page := fun (c : Place × Option Byte) => placeOff c.1 / 2 ^ 16
  let first := fun (c : Place × Option Byte) => some (page c) == cells.head?.map page
  let s := s.storePage (cells.takeWhile first) copy by_
  if (cells.dropWhile first).isEmpty then s else s.storePage (cells.dropWhile first) copy by_

/-- The result registers of a cell operation (R320). -/
def cellVec (r : CellReply) : Vec :=
  let winner := r.status == 1 || r.status == 2 || r.status == 6
  let lanes := if winner then
      sliceBytes r.value 0 48 ++ leBytes 4 r.len ++ leBytes 4 (r.wpkg * 128 + r.wcore + if r.cpw then 2 ^ 31 else 0) ++ leBytes 4 r.dseq
    else List.replicate 60 0
  BitVec.ofNat 2048 (leNat (lanes ++ leBytes 4 r.gen.toNat))

def cellWord (r : CellReply) : Word := BitVec.ofNat 64 (r.gen.toNat * 2 ^ 32 + r.status)

/-- A reply of WON, LOST or DECIDED leaves a copy of the cell at the core that asked (`core`), and one of a pool cell in the pool cache
(R323). -/
def State.installCell (s : State) (p : Place) (r : CellReply) (core : Bool := true) : State :=
  if r.status == 1 || r.status == 2 || r.status == 6 then
    let bytes := sliceBytes r.value 0 48 ++ [BitVec.ofNat 8 r.len, 1, BitVec.ofNat 8 r.wcore, if r.cpw then 1 else 0]
      ++ leBytes 4 r.gen.toNat ++ leBytes 4 r.wpkg ++ leBytes 4 r.dseq
    let add := fun (l : List CellCopy) => ⟨p, r.gen, bytes⟩ :: l.filter fun x => !(x.place == p && x.gen == r.gen)
    let s := if core then s.mapCore fun c => { c with cells := add c.cells } else s
    match p with
    | .home .. => s.mapPkg fun k => { k with cells := add k.cells }
    | _ => s
  else s

/-- A copy of a decided cell that serves an operation (R323); replacement may have dropped it (log 10). -/
def State.cellCopy (s : State) (p : Place) (gen : BitVec 32) : Option CellCopy :=
  let here := if Config.freeBool s.clock then [] else s.core.cells
  let near := if Config.freeBool (s.clock + 1) then [] else s.pkg.cells
  (here ++ near).find? fun c => c.place == p && c.gen == gen

/-- A request of the context in focus to the pool. -/
def State.askPool (s : State) (r : PoolOp) : State × PoolReply := s.ask s.ctx.info.part.toNat r

/-- A cell operation at its home; none while a cell in RECYCLING holds it or the page's link is out of service (Table 12.5, R438). -/
def State.cellHome (s : State) (p : Place) (op : CellOp) (gen : BitVec 32) : Option (State × CellReply) :=
  match p with
  | .hbm a => some (s.cellAt a op gen)
  | .home obj off =>
    match s.askPool (.cell obj off gen op 0) with
    | (s, .cell r) => some (s, r)
    | (_, .wait) => none
    | (s, _) => some (s, cellReply 7 false [])
  | _ => some (s, cellReply 7 false [])

/-! ### What a released write performs after (R238, R239, R241, R242, R244, R245) -/

/-- The mask of the classes ordered with a class. -/
def classMask (cls : BitVec 4) : BitVec 16 := if cls = 0 then BitVec.allOnes 16 else 1 ||| (1 <<< cls.toNat)

/-- The accesses that a write performs after: those of its class that entered before it, and those of a fence's classes that entered
before a release or full fence it stands after. The order that a release gives (`rel`) and that of a fence take in what class order alone
does not. -/
def Context.waitsOf (c : Context) (cls : BitVec 4) (ser : Nat) (rel : Bool := false) : List (BitVec 16 × Nat × Bool) :=
  (classMask cls, ser, rel) ::
    ((c.fences.filter fun f => decide (f.1 ≤ ser) && (cls == 0 || f.2.getLsbD cls.toNat)).map fun f => (f.2 ||| 1, f.1, true))

/-- An access is among them. -/
def waitsFor (ws : List (BitVec 16 × Nat × Bool)) (cls : BitVec 4) (ser : Nat) : Bool := ws.any fun w => w.1.getLsbD cls.toNat && decide (ser < w.2.1)
/-- By a fence or a release: class order alone does not order the writes of an X-slot command before later accesses. -/
def waitsForCopy (ws : List (BitVec 16 × Nat × Bool)) (cls : BitVec 4) (ser : Nat) : Bool := waitsFor (ws.filter fun w => w.2.2) cls ser

def overlap (a b : List Place) : Bool := a.any b.elem

/-- The SAMPLE bit of a record's mode (R66, R213). -/
def MRecord.sample (r : MRecord) : Bool := r.word0.getLsbD 0

/-- A SAMPLE call that has not ended: its reads entered at its dispatch (R227, R236). -/
def MRecord.reads (r : MRecord) : Bool := r.sample && !r.zero

/-- A record of the context in focus. -/
def State.ours (s : State) (r : MRecord) : Bool := r.slot == s.slotNum && r.home == s.coreNum

/-- Every unfinished record of the context in focus: queued here, running here, or migrated to a core of its cluster. -/
def State.records (s : State) : List MRecord :=
  ((s.core.run.map (·.mrec)).toList ++ s.core.engine ++
    (s.cores.filter fun b => b.1 / 4 == s.coreNum.toNat / 4).flatMap fun b =>
      (b.2.core.run.map (·.mrec)).toList ++ b.2.core.engine).filter s.ours

/-- A tile captured by an unfinished call (R181). -/
def State.tileCaptured (s : State) (t : TReg) : Bool := s.records.any fun r => r.tileA == some t || r.tileB == some t

def tagBusy (t : CopyTag) : Bool := t.st == .held || t.st == .running

/-- A tile register is EMPTY once it retires and no call holds it any more, or once its context has exited and every call and copy
command of it has ended (R181, R339); released banks that only a tile held then pass (R289). -/
def State.settleTiles (s : State) : State :=
  let ended := s.ctx.exited && s.records.isEmpty && s.ctx.tags.all fun t => !tagBusy t.2
  ({ s with ctx := { s.ctx with tiles := Vector.ofFn fun i =>
      let t := s.ctx.tiles[i]
      if ended || (t.st == .retiring && !s.tileCaptured (BitVec.ofNat 5 i.val)) then .none else t } } : State).giveBanks

/-- A copy command still reads or writes bytes of some runs; a fill reads none. -/
def State.copyMeets (s : State) (t : CopyTag) (rs : List (Place × Nat)) : Bool :=
  (s.runsOf t.dst t.len ++ (match t.kind with | .fill .. => [] | _ => s.runsOf t.src t.len)).any fun r => rs.any (runsMeet r)

/-- A drain of the context in focus with rows to write. -/
def State.ourDrain (s : State) (d : Drain) : Bool := d.slot == s.slotNum && !d.rows.isEmpty

/-- What waits for the next checkpoint to commit, a held copy command or the rows of a `tst`, is ordered before a write with these waits. -/
def State.heldFor (s : State) (ws : List (BitVec 16 × Nat × Bool)) : Bool :=
  (s.ctx.tags.any fun t => t.2.st == .held && waitsForCopy ws t.2.cls t.2.ser)
    || s.core.drains.any fun d => s.ourDrain d && d.held && waitsForCopy ws d.cls d.ser

/-- The released writes of the context that cannot perform before the next checkpoint commits: what is held is ordered before them, or
before one that they follow. A commit in progress does not wait for them. -/
def State.heldBack (s : State) : List RemoteWrite :=
  s.pkg.wire.foldl (fun l x => if s.sentByUs x && (s.heldFor x.waits || l.any fun y => waitsFor x.waits y.cls y.ser) then l ++ [x] else l) []

/-- Nor for a fill that such a write, or held rows of a `tst`, stand before (R245). -/
def State.fillHeld (s : State) (t : TileEntry) : Bool :=
  let ws := s.ctx.waitsOf t.cls t.ser
  (s.core.drains.any fun d => s.ourDrain d && d.held && waitsFor ws d.cls d.ser) || s.heldBack.any fun x => waitsFor ws x.cls x.ser

/-- Something that entered before a write of the context in focus, with these waits and runs of bytes, has not performed. The runs are
named from its core. A `tld` that has not read its lines comes before every later store (R241). `held` counts what waits for the next
checkpoint. Rows of a drain buffer go to the pool or the host, toward which a class gives no order (R238): only a fence, a release, or the
same bytes order them. -/
def State.mustWait (s : State) (ws : List (BitVec 16 × Nat × Bool)) (ser : Nat) (rs : List (Place × Nat)) (held : Bool := true) : Bool :=
  (s.underway.any fun x => s.sentByUs x && decide (x.ser < ser) && (held || !s.heldBack.elem x) &&
      ((if x.copy.isSome then waitsForCopy ws x.cls x.ser else waitsFor ws x.cls x.ser)
        || rs.any (runsMeet (s.canon (writePlace x), x.data.length))))
  || (s.ctx.tiles.toList.any fun t => t.st != .empty && !t.filled && decide (t.ser < ser) && (held || !s.fillHeld t))
  || (s.core.drains.any fun d => d.slot == s.slotNum && !d.rows.isEmpty && (held || !d.held) && decide (d.ser < ser) &&
      (waitsForCopy ws d.cls d.ser || d.rows.any fun r => r.any fun c => rs.any fun x => within x.1 c.1 x.2))
  || s.records.any (fun r => r.reads && decide (r.ser < ser))
  || (s.ctx.tags.any fun t => (t.2.st == .running || (held && t.2.st == .held)) && decide (t.2.ser < ser) && (waitsForCopy ws t.2.cls t.2.ser || s.copyMeets t.2 rs))

/-- The places of an entry, each a run of one byte. -/
def State.entryRuns (s : State) (cells : List (Place × Option Byte)) : List (Place × Nat) := cells.map fun c => (s.canon c.1, 1)

/-- Every write of the context that a test picks, by class and place in entry order, has performed at its target (R244, crew scope): those
on their way, and those another package has not performed yet; without `held`, but for those that wait for the next checkpoint. -/
def State.crewQuiet (s : State) (pick : BitVec 4 → Nat → Bool) (held : Bool := true) : Bool :=
  (s.underway ++ s.pkg.sent ++ s.pkg.accepted).all fun x => !s.sentByUs x || !pick x.cls x.ser || (!held && s.heldBack.elem x)

/-- Every access of the context that a test picks has performed within the package: fills, copy commands, drains, writes; with `held`
those too that wait for the next checkpoint. -/
def State.pkgQuiet (s : State) (pick : BitVec 4 → Nat → Bool) (held : Bool := false) : Bool :=
  s.ctx.tiles.toList.all (fun t => t.st == .empty || t.filled || !pick t.cls t.ser || (!held && s.fillHeld t))
    && s.ctx.tags.all (fun t => !(t.2.st == .running || (held && t.2.st == .held)) || !pick t.2.cls t.2.ser)
    && s.core.drains.all (fun d => d.slot != s.slotNum || (!held && d.held) || !pick d.cls d.ser)
    && s.underway.all (fun x => !s.sentByUs x || !pick x.cls x.ser || (!held && s.heldBack.elem x))
    && (s.records.all fun r => !r.reads || !pick 0 r.ser)

/-- What a release of a scope waits for (R244): at crew scope performance at every target, at system scope the pool's acknowledgements
too; host writes complete at once. A fence, and what performs within a commit, do not wait for what that or the next commit starts. -/
def State.scopeQuiet (s : State) (scope : BitVec 3) (pick : BitVec 4 → Nat → Bool) (held : Bool := false) : Bool :=
  decide (scope.toNat < 3) || (s.pkgQuiet pick held && s.crewQuiet pick held && (decide (scope.toNat < 4) || s.pkg.puts.isEmpty))

/-- Accesses of the classes ordered with a class that entered before a place in entry order. -/
def ordered (cls : BitVec 4) (ser : Nat) (c : BitVec 4) (x : Nat) : Bool := (cls == c || cls == 0 || c == 0) && decide (x < ser)

/-- A store for a fence (R243): every entry but a bank release, which stores nothing. -/
def Entry.isStore (e : Entry) : Bool := match e.act with | .brel _ => false | _ => true

/-- Entries that are releases at their scope (R242, R310, R321). -/
def EntryAct.releases : EntryAct → Bool
  | .ste | .stf | .atom .. | .dprop .. | .drecycle .. => true
  | _ => false

/-- The full/empty effect of a withheld entry (R274). -/
def EntryAct.fullBit : EntryAct → Option Bool
  | .ste | .stf | .fset => some true
  | .fclr => some false
  | _ => none

/-- A write of the context's own that entered before an access is still to change the full/empty bits of its words (R274). -/
def State.bitsAhead (s : State) (ser : Nat) (ps : List Place) : Bool :=
  (s.ownBefore ser).any fun e => e.act.fullBit.isSome && overlap (e.cells.map fun c => s.canon c.1) (ps.map s.canon)

/-- The bytes that an access reads at its places, where `d` stands at the home: the context's own earlier writes come first (R239). -/
def State.ownBytes (s : State) (ser : Nat) (ps : List Place) (d : List Byte) : List Byte :=
  let own := s.ownBefore ser
  if own.isEmpty then d else (ps.zip d).map fun (p, b) => (s.forward own p).getD b

/-- Every covered word of a window's target in this package is full. -/
def State.winFull (s : State) (w : BitVec 4) (a n : Nat) : Bool :=
  let e := s.ctx.win w
  (s.boxOf (winCore e)).core.allFull (winBase e + a) n

/-- The home of a location at the pool cannot be reached: its link is lost, or for now out of service (R438). -/
def State.placeLost (s : State) : Place → Bool
  | .home obj off => s.pkg.pageLost obj (off / 2 ^ 16)
  | _ => false
def State.placeOut (s : State) : Place → Bool
  | .home obj off => s.pkg.pageOut obj (off / 2 ^ 16)
  | _ => false

/-- The bytes a withheld store sends, from its first place on: a lane that did not execute leaves a gap (R268). -/
def gapData : Nat → List (Place × Option Byte) → List (Option Byte)
  | _, [] => []
  | x, (.win _ a, b) :: l => List.replicate (a - x) none ++ b :: gapData (a + 1) l
  | x, (.sram a, b) :: l => List.replicate (a - x) none ++ b :: gapData (a + 1) l
  | x, (.hbm a, b) :: l => List.replicate (a - x) none ++ b :: gapData (a + 1) l
  | x, (.host a, b) :: l => List.replicate (a - x) none ++ b :: gapData (a + 1) l
  | x, (.pool _ a, b) :: l => List.replicate (a - x) none ++ b :: gapData (a + 1) l
  | x, (.home _ a, b) :: l => List.replicate (a - x) none ++ b :: gapData (a + 1) l
  | x, (.far _ _ a, b) :: l => List.replicate (a - x) none ++ b :: gapData (a + 1) l

/-- A plain store after a release fence of its class carries that release for an acquire fence to find (R248, R260). -/
def State.fenceRel (s : State) (cls : BitVec 4) (ps : List Place) : State :=
  match s.ctx.relFence[cls.toNat]'cls.isLt with
  | some f => s.setRel ps (some ⟨s.agent, none, some f, s.clock⟩)
  | none => s

/-- Plain bytes of a released store perform. -/
def State.performStore (s : State) (cells : List (Place × Option Byte)) (cls : BitVec 4) : State :=
  let ps := (cells.filter fun c => c.2.isSome).map (·.1)
  ((s.storeCells cells).raceWrite ps true).fenceRel cls ps

/-- A request whose reply is lost with its link: whether it applied at its home is not known (R454). -/
def State.mayAsk (s : State) (r : PoolOp) : State :=
  if Config.freeBool s.clock then { s with pool := (s.askPool r).1.pool } else s

/-- The bytes of the cell at a place. -/
def State.cellBytes (s : State) : Place → List Byte
  | .hbm a => s.pkg.hbm.bytes a 64
  | .home obj off => s.pool.cellAt obj off
  | _ => []

/-- A store to another package leaves after the earlier stores of its window and class that have not left (R46, R238), after those of a fence
it stands after, and after those of the same bytes. -/
def State.windowWaits (s : State) (x : RemoteWrite) (ws : List (BitVec 16 × Nat × Bool)) (rs : List (Place × Nat)) : Bool :=
  s.pkg.wire.any (sameStream x) || s.mustWait (ws.filter fun w => w.2.2) x.ser rs

/-- An atomic or a cell operation of the commit in progress performs (R309). -/
def State.apply (s : State) : State := s.mapCtx fun c => { c with applied := true }

/-- Release one entry (R240, R275 to R277, R307, R312, R321, R322); none while the commit has to wait for it: for full words, for the
window's allowance (R45), for what an atomic or a cell operation is ordered after (what only starts in step 4 of R397 it does not wait
for), for a link that is out of service. A store, a counter or a tagged write that has to wait is released all the same and performs
later (R238, R244); so does one of them, as a free value says, that nothing orders before what follows (log 57). -/
def State.release (s : State) (e : Entry) : Option State :=
  let ps := e.cells.map (·.1)
  let n := e.cells.length
  let data := e.cells.map (·.2)
  let ws := s.ctx.waitsOf e.cls e.ser e.act.releases
  let wait := s.mustWait ws e.ser (s.entryRuns e.cells) || Config.freeBool s.clock
  let stuck := s.mustWait ws e.ser (s.entryRuns e.cells) false || !s.scopeQuiet e.scope (ordered e.cls e.ser) || (e.place?.map fun p => s.placeOut p && !s.placeLost p).getD false
  let quiet := !e.act.releases || s.scopeQuiet e.scope (ordered e.cls e.ser) true
  let late := fun (p : Place) (k : RwKind) (d : List (Option Byte)) =>
    some (s.send { s.ownWrite (s.localWrite p k d e.cls e.scope e.ser) with waits := ws, src := e.src })
  let far := fun (w : BitVec 4) (a : Nat) (k : RwKind) (d : List (Option Byte)) =>
    let x := { s.ownWrite (s.remoteWrite w a k d e.cls e.scope e.ser) with waits := ws, src := e.src }
    some (s.send x (if k == .store then s.windowWaits x ws (s.entryRuns e.cells) else wait || !quiet))
  match e.act, e.place? with
  | .store, some (.win w a) => if s.ctx.outCount w < s.ctx.outLimit w then far w a .store (gapData a e.cells) else none
  | .store, some p => if wait || s.placeOut p && !s.placeLost p then late p .store (gapData (placeOff p) e.cells) else some (s.performStore e.cells e.cls)
  | .count rel, some p =>
    if wait then late p (if rel then .count else .store) data
    else
      let s := s.storeCells e.cells
      some (if rel then s.noteRelease ps 2 e.cls else s)
  | .ste, some (.win w a) => (far w a .ste data).map fun s => s.mapCtx Context.endInterval
  | .stf, some (.win w a) => (far w a .stf data).map fun s => s.mapCtx Context.endInterval
  | .fset, some (.win w a) => far w a .fset data
  | .fclr, some (.win w a) => far w a .fclr data
  | .ste, some (.sram a) =>
    if wait || !quiet || (!s.core.allEmpty a n && decide (256 ≤ s.core.recvq.length)) then (late (.sram a) .ste data).map fun s => s.mapCtx Context.endInterval
    else if s.core.allEmpty a n then some (((s.noteRelease ps e.scope e.cls).performCells (some s.agent) e.cells).mapCore fun c => c.setFull a n)
    else
      let x := { s.ownWrite (s.localWrite (.sram a) .ste data e.cls e.scope e.ser) with src := e.src, into := some s.ctx.info.launchId }
      some ((s.mapCore fun c => { c with recvq := c.recvq ++ [x] }).mapCtx Context.endInterval)
  | .stf, some (.sram a) =>
    if wait || !quiet then (late (.sram a) .stf data).map fun s => s.mapCtx Context.endInterval
    else some (((s.noteRelease ps e.scope e.cls).performCells (some s.agent) e.cells).mapCore fun c => c.setFull a n)
  | .fset, some (.sram a) => if wait then late (.sram a) .fset data else some (s.mapCore fun c => c.setFull a n)
  | .fclr, some (.sram a) => if wait then late (.sram a) .fclr data else some (s.mapCore fun c => c.setEmpty a n)
  | .brel m, _ => some (s.mapCtx fun c => { c with brels := c.brels ||| m })
  | .take dst _, some (.sram a) =>
    if s.core.allFull a n && !s.bitsAhead e.ser ps then
      let x := BitVec.ofNat 64 (leNat (s.ownBytes e.ser ps (ps.map s.byteAt)))
      some (((s.acquireAt ps e.scope e.cls).mapCore fun c => c.setEmpty a n).writeS dst x)
    else none
  | .take dst _, some (.win w a) =>
    match s.winRead w a n with
    | .bytes d =>
      if s.winFull w a n && !s.bitsAhead e.ser ps then
        let e' := s.ctx.win w
        some (((s.acquireAt ps e.scope e.cls).mapCoreAt (winCore e') fun c =>
          c.setEmpty (winBase e' + a) n).writeS dst (BitVec.ofNat 64 (leNat (s.ownBytes e.ser ps d))))
      else none
    | .bound => some (s.reportKept e.id { code := 0x1B, addr := e.va })
    | .spoilt => some (s.report e.id { code := 0x40, sub := 2, addr := e.va })
    | _ => none
  | .atom op dbl tok v dst, some p =>
    if stuck then none
    else
      let s := ((s.acquireAt ps e.scope e.cls).noteRelease ps e.scope e.cls).apply
      let put := fun (s : State) (x : Word) => match dst with | none => s | some d => s.writeS d x
      match p with
      | .home obj off =>
        let key := if tok then some s.tokenKey else none
        if s.pkg.pageLost obj (off / 2 ^ 16) || s.pkg.pageLost obj ((off + n - 1) / 2 ^ 16) then
          let s := s.mayAsk (.atom key obj off op dst.isNone dbl v)
          let s := if tok then s.mapCtx fun c => { c with tokSeq := c.tokSeq + 1 } else s
          some ((put s 0).reportKept e.id (trapLink 2 e.va))
        else
          let s' := if tok then s.mapCtx fun c => { c with tokSeq := c.tokSeq + 1 } else s
          match s.askPool (.atom key obj off op dst.isNone dbl v) with
          | (_, .wait) => none
          | (t, .old x) => some (put { t with ctx := s'.ctx } x)
          | (t, _) => some ((put { t with ctx := s'.ctx } 0).report e.id (trapAtomic 4 e.va))
      | _ =>
        let (s, old) := s.atomAt ps op dbl v
        some (put s old)
  | .dprop gen value vd ss, some p =>
    if stuck then none
    else
      let s := (s.acquireAt ps e.scope e.cls).apply
      match s.cellCopy p gen with
      | some c =>
        let r := cellReply 2 true c.bytes
        some (((s.mapCtx fun x => (x.acquire 4 e.cls s.clock).endInterval).writeV vd (cellVec r)).writeS ss (cellWord r))
      | none =>
        if s.placeLost p then
          let s := match p with | .home obj off => s.mayAsk (.cell obj off gen (.prop value s.pkg.num s.coreNum false) 0) | _ => s
          some (((s.writeV vd 0).writeS ss 0).reportKept e.id (trapLink 3 e.va))
        else
          (s.cellHome p (.prop value s.pkg.num s.coreNum false) gen).map fun (s, r) =>
            let s := if r.status == 1 then s.noteRelease ps e.scope e.cls else s.mapCtx Context.endInterval
            ((s.installCell p r).writeV vd (cellVec r)).writeS ss (cellWord r)
  | .drecycle gen, some p =>
    if stuck then none
    else if s.placeLost p then some (s.reportKept e.id (trapLink 3 e.va))
    else (s.cellHome p .recycle gen).map fun (t, _) =>
      if t.cellBytes p = s.cellBytes p then t.apply.mapCtx Context.endInterval else t.apply.noteRelease ps e.scope e.cls
  | _, _ => some s

/-- The withheld entry that entered first is released, if it can be (R240, R269). -/
def State.releaseFirst (s : State) : Option State :=
  match s.ctx.buffer with
  | [] => none
  | e :: l => (s.release e).map fun t => (t.mapCtx fun c => { c with buffer := l }).tick

/-- Release up to `n` of the withheld entries in entry order, as far as the first that has to wait; one turn for each of them. -/
def State.releaseSome : List Entry → Nat → State → State
  | [], _, s => s
  | _ :: l, n, s =>
    if n = 0 then s
    else match s.releaseFirst with
      | none => s
      | some t => State.releaseSome l (n - 1) t

/-! ### The commit -/

/-- CKSTAT after one more commit (R401). -/
def ckstatNext (x : Word) (r : CommitReq) : Word :=
  let x := setBits x 63 32 (wbits x 63 32 + 1)
  let x := if r.forced then setBits x 31 16 (wbits x 31 16 + 1) else x
  if r.full then setBits x 15 0 (wbits x 15 0 + 1) else x

/-- A sealing command as it starts: it runs to its end under the key its slot then holds (R384). -/
def State.takeKey (s : State) (t : CopyTag) : CopyTag :=
  match t.sealKey, t.kind with
  | none, .xstage k => { t with sealKey := some (s.keyFor k .xts) }
  | none, .xseal k => { t with sealKey := some (s.keyFor k .xts) }
  | _, _ => t

/-- A command as it is dispatched: one that is not held starts. -/
def State.startTag (s : State) (t : CopyTag) : CopyTag := if t.st == .running then s.takeKey t else t

/-- Held copy commands start (R292, R397 step 4), but at the boundary where pre-emption lands, where they stay held (R302, R413). -/
def State.startHeld (s : State) (keep : Bool) : List (Nat × CopyTag) :=
  s.ctx.tags.map fun (n, t) =>
    (n, if t.st == .held && !keep then s.takeKey { t with st := .running, fresh := false } else { t with fresh := false })

/-- `dsync` step 5 (R355): PHASE moves on, KIND is inverted, the arrival flag is cleared. -/
def Context.passPhase (c : Context) : Context :=
  { c with domain := setBits (setBits c.domain 63 52 (wbits c.domain 63 52 + 1)) 3 3 (1 - wbits c.domain 3 3), arrived := Option.none }

/-- The scope R41 maps a level to. -/
def levelScope (level : BitVec 3) : BitVec 3 :=
  match level.toNat with
  | 0 => 0 | 1 => 1 | 4 => 3 | _ => 2

/-- A `dsync` boundary is a release and an acquire at its level's scope (R41, Table 10.5). -/
def State.passDomain (s : State) : State :=
  s.mapCtx fun c => (c.acquireAll (levelScope c.level) s.clock).endInterval.passPhase

/-- Fences are forgotten once no access that entered before them is still to perform. -/
def State.dropFences (s : State) : State :=
  if s.pkgQuiet (fun _ _ => true) && s.crewQuiet (fun _ _ => true) then s.mapCtx fun c => { c with fences := [] } else s

/-- Steps 4 and 5 of R397, the withheld entries having been released; `exit` ends the context (R339), and single-stepping raises STEP
(R412). -/
def State.finishCommit (s : State) (r : CommitReq) : State :=
  let s := (if r.dsync then s.passDomain else s).dropFences
  let s := { s with ctx := { s.ctx with tags := s.startHeld r.keep, relCkpt := s.ctx.released, giving := s.ctx.giving ||| s.ctx.brels, brels := 0 } }
  let s := { s with core := { s.core with drains := s.core.drains.map fun (d : Drain) =>
      if d.slot = s.slotNum then { d with held := false } else d } }
  let s := { s with ctx := { s.ctx with
      hold := if r.exit then .exited else s.ctx.hold
      exited := s.ctx.exited || r.exit
      ckpt := s.ctx.regs
      shadow := 0
      serial := 0
      resume := []
      ckstat := ckstatNext s.ctx.ckstat r
      tileCkpt := s.ctx.tiles.map TileEntry.back
      tiles := s.ctx.tiles.map fun (t : TileEntry) => { t with fresh := false }
      longCkpt := s.ctx.longOp
      pending := []
      commit := none
      applied := false
      endCkpt := none
      atCkpt := true
      ckptSeq := s.ctx.seq
      unc := 0
      intact := true } }
  let s := s.settleTiles
  if s.ctx.stepping then s.hold ⟨s.ctx.seq, 0, s.ctx.regs.pc, false, false, 7, s.coreNum, { code := 0x3A }⟩ else s

/-- The `ldf.take` that a commit in progress waits in, a tagged wait (R275, R365): the entry that is next. Once an atomic of the commit has
performed nothing gives the commit up (R309, R397; log 63). -/
def Context.takeWaits (c : Context) : Option OpId :=
  match c.buffer with
  | e :: _ => if c.applied then Option.none else match e.act with | .take _ _ => some e.id | _ => Option.none
  | [] => Option.none

/-- Release one or more of the entries, as many as a free value says, then finish the commit once none is left, or go on later: other
agents may act between two of them (R5, R312). -/
def State.commit (s : State) (r : CommitReq) : State :=
  let s := s.mapCtx fun c => { c with waiting := none }
  let go := fun (s : State) =>
    if s.ctx.buffer.isEmpty then s.finishCommit r
    else if s.releaseFirst.isNone then s.mapCtx fun c => { c with waiting := c.takeWaits } else s
  match s.releaseFirst with
  | none => go s
  | some t => go (t.releaseSome t.ctx.buffer (Config.freeNat t.clock))

end Sys2Proof.Machine
end

