-- ==== Sys2Proof/Machine/Records.lean ====
section
/-! DEFINITION. Records.lean: the engine queue's operand records, accumulator states, and the resume table
(R183, R187, R189, R203, R408 to R410). -/
namespace Sys2Proof.Machine

/-- Fields of a record's MC word (Table 3.9, R66). -/
def MRecord.routine (r : MRecord) : Nat := wbits r.word0 51 44
def MRecord.first (r : MRecord) : Nat := wbits r.word0 43 38
def MRecord.count (r : MRecord) : Nat := wbits r.word0 37 32 + 1
def MRecord.batch (r : MRecord) : Nat := wbits r.word0 31 30
def MRecord.zskip (r : MRecord) : Bool := r.word0.getLsbD 1
def MRecord.migrates (r : MRecord) : Bool := r.word0.getLsbD 2

def MRecord.names (r : MRecord) (acc : Nat) : Bool := decide (r.first ≤ acc) && decide (acc < r.first + r.count)

/-- The 64-bit mix of R164. -/
def mix (k z : Word) : Word :=
  let x := k ^^^ z
  let x := x ^^^ (x >>> 31)
  let x := x * 0x9E6B3A5D2C714F07
  let x := x ^^^ (x >>> 29)
  let x := x * 0xC2B8E41F6D5A3097
  x ^^^ (x >>> 32)

def descWords (d : BitVec 256) : List Word := (natRange 0 4).map fun i => (d >>> (64 * i)).truncate 64

/-- The hash of R409 over the record's 17 words. -/
def MRecord.hash (r : MRecord) : Word :=
  ([r.word0.setWidth 64] ++ r.mp ++ (if r.tileA.isSome then descWords r.descA else [0, 0, 0, 0])
    ++ (if r.tileB.isSome then descWords r.descB else [0, 0, 0, 0])).foldl (fun h w => mix w h) 0

def Context.commits (c : Context) : Nat := wbits c.ckstat 63 32

/-- PENDING (R183). -/
def State.accPending (s : State) (acc : Nat) : Bool := s.records.any (·.names acc)
/-- DRAINING (R183). -/
def State.accDraining (s : State) (acc : Nat) : Bool :=
  s.core.drains.any fun d => d.slot == s.slotNum && d.acc == acc && d.reading

/-- The completion status of a record that ends: its own bits with MIGRATED and SAMPLED, and CANCELLED (Table 8.5, R222). -/
def MRecord.ended (r : MRecord) (cancelled : Bool) : BitVec 8 :=
  r.status ||| (if r.migrated then 2 else 0) ||| (if r.sample && !r.zero then 8 else 0) ||| (if cancelled then 0x10 else 0)

/-- A completed or cancelled call's status bits enter its batch's generation (R189, Table 8.5). -/
def State.batchStatus (s : State) (r : MRecord) (st : BitVec 8) : State :=
  if r.zero then s
  else s.mapCtx fun c =>
    if c.batchSeq.toList.getD r.batch 0 = r.gen then
      { c with batch := Vector.ofFn fun i => if i.val = r.batch then c.batch[i] ||| st else c.batch[i] }
    else c

/-- Enter or update a record in the resume table (R408). -/
def ResumeEntry.put (l : List ResumeEntry) (e : ResumeEntry) : List ResumeEntry :=
  e :: l.filter fun x => x.serial != e.serial

def MRecord.entry (r : MRecord) (complete : Bool) : ResumeEntry :=
  ⟨r.serial, r.hash, r.accOff, r.mtMask, complete, r.status, r.seed, r.res, r.view, r.tests⟩

/-- An engine's queue holds a record, running ones among them. -/
def CoreSt.busy (c : CoreSt) : Bool := c.run.isSome || !c.engine.isEmpty

/-- Do something to the shared part of every core of the cluster. -/
def State.mapCluster (s : State) (f : CoreSt → CoreSt) : State :=
  { s with core := f s.core,
           cores := s.cores.map fun b => if b.1 / 4 == s.coreNum.toNat / 4 then (b.1, { b.2 with core := f b.2.core }) else b }

/-- A queue of the cluster has become empty: its empty engines consider migration (R363). -/
def State.queueEmptied (s : State) : State := s.mapCluster fun c => { c with consider := !c.busy }

/-- A core without some records. -/
def CoreSt.dropRecords (c : CoreSt) (p : MRecord → Bool) : CoreSt :=
  { c with
    engine := c.engine.filter fun r => !p r
    run := match c.run with | some m => if p m.mrec then Option.none else some m | Option.none => Option.none }

/-- Take records out of every engine of the cluster. -/
def State.dropRecords (s : State) (p : MRecord → Bool) : State :=
  let emptied := fun (c : CoreSt) => c.busy && !(c.dropRecords p).busy
  let t := s.mapCluster fun c => c.dropRecords p
  if emptied s.core || s.cores.any (fun b => b.1 / 4 == s.coreNum.toNat / 4 && emptied b.2.core) then t.queueEmptied else t

/-- Rollback's effect on the context's records (Table 16.5, R203, R408): those dispatched since the checkpoint stop at a micro-tile
boundary, enter the resume table and complete CANCELLED. -/
def State.stopRecords (s : State) : State :=
  let stop := fun (r : MRecord) => s.ours r && r.since == s.ctx.commits
  let rs := s.records.filter stop
  let s := rs.foldl (fun s r => (s.mapCtx fun c => { c with resume := ResumeEntry.put c.resume (r.entry false) }).batchStatus r (r.ended true)) s
  s.dropRecords stop

/-- A killed or cancelled context's records end (R364): they complete CANCELLED. -/
def State.cancelRecords (s : State) : State :=
  let rs := s.records
  let s := rs.foldl (fun s r => s.batchStatus r (r.ended true)) s
  s.dropRecords s.ours

end Sys2Proof.Machine
end

