-- ==== Sys2Proof/Machine/Spare.lean ====
section
/-! DEFINITION. Spare.lean: what lies in the stacks' spare regions: version tables, context save images, arrival logs
(R10, R372, R386, R388, R414 to R417). The manual says in which stack's share each of them lies and gives no address in it: the
model takes a table at the share's beginning, and an image or a log where there is room behind it (DESIGN CHOICE, log 74). -/
namespace Sys2Proof.Machine

/-- The stack that holds a device address (R10, R372). -/
def State.stackOf (s : State) (a : Nat) : Nat :=
  if dpaRegion a = 3 then bits a 40 37 else (dpaOffset a / 2 ^ 16) % max 1 s.pkg.stackCount

/-- A device address in a stack's spare region. -/
def spareAddr (stack off : Nat) : Nat := 3 * 2 ^ 42 + stack * 2 ^ 37 + off

/-- A core's save stack (R414), which holds its saves and arrival logs. -/
def Package.saveStack (k : Package) (core : Nat) : Nat := core / 16 % max k.stackCount 1

/-- A partition's share of a stack's spare region, as device addresses. -/
def spareShare (d : PartDesc) (stack : Nat) : Nat × Nat :=
  let x := partShare d 3
  (spareAddr stack (x.1 * 2 ^ 26), spareAddr stack ((x.1 + x.2) * 2 ^ 26))

/-! ### Version tables (R386) -/

/-- The bytes of a version table: an entry of 8 bytes for each of the 2^20 pages of a stack. -/
def tableBytes : Nat := 2 ^ 23

/-- A package page's number within its stack, whose regions follow each other (Table 1.3). -/
def State.stackPage (s : State) (a : Nat) : Nat :=
  let n := max 1 s.pkg.stackCount
  let r := dpaRegion a
  ((natRange 0 r).map fun i => s.pkg.regionSize i / n / 2 ^ 16).sum + dpaOffset a / 2 ^ 16 / (if r = 3 then 1 else n)

/-- The device address of the table entry of the page at a device address: in the share of the page's stack that the partition which holds
the page has. -/
def State.tableAt (s : State) (a : Nat) : Option Nat :=
  match s.pkg.parts.toList.findSome? fun d => d.filter fun d => partInShare d a with
  | some d =>
    let sh := spareShare d (s.stackOf a)
    let at_ := sh.1 + 8 * s.stackPage a
    if !a.testBit 51 && at_ + 8 ≤ sh.2 && !s.pkg.noMemory at_ then some at_ else none
  | none => none

def entryBytes (e : BitVec 8 × BitVec 32) : List Byte := leBytes 8 (e.1.toNat * 2 ^ 32 + e.2.toNat)

/-- The entry of the package page at a device address changes, with its bytes in the table. -/
def State.putEntry (s : State) (a : Nat) (e : BitVec 8 × BitVec 32) : State :=
  let s := s.mapPkg fun k => { k with sealVer := tabSet k.sealVer (a / 2 ^ 16) e }
  match s.tableAt a with
  | some t => s.cpPut t (entryBytes e)
  | none => s

/-- An entry fails its tag (R386): an error lies in it, or its bytes in the table are not those it was written with. -/
def State.entryLost (s : State) (a : Nat) : Bool :=
  NatSet.has s.pkg.sealBad (a / 2 ^ 16) || (match s.tableAt a with
    | some t => s.devSpoilt t 8 || s.devBytes t 8 != entryBytes (tabGet (0, 0) s.pkg.sealVer (a / 2 ^ 16))
    | none => false)

/-! ### Room for images and logs -/

/-- ARRLOGSIZE (R416). -/
def State.logSize (s : State) : Nat := wbits (s.pkg.reg 0x40) 31 0

/-- The 64 KiB pages of an arrival log, with entries of 288 bytes. -/
def State.logPages (s : State) : Nat := (288 * s.logSize + 2 ^ 16 - 1) / 2 ^ 16

/-- What images, each with a page for its tags, and logs occupy: their addresses and lengths. -/
def State.spareUsed (s : State) : List (Nat × Nat) :=
  (s.pkg.saved.filterMap fun v => v.base.map fun b => (b, (v.units + 1) * 2 ^ 16))
    ++ s.pkg.logs.filterMap fun g => g.base.map fun b => (b, s.logPages * 2 ^ 16)

/-- The first place in a partition's share of a stack's spare region with room for so many pages. -/
def State.spareFit (s : State) (part stack pages : Nat) : Option Nat :=
  match s.pkg.parts.toList.getD part none with
  | none => none
  | some d =>
    let sh := spareShare d stack
    let used := s.spareUsed
    let n := pages * 2 ^ 16
    ((sh.1 + tableBytes) :: used.map fun x => x.1 + x.2).find? fun c =>
      decide (sh.1 + tableBytes ≤ c) && decide (c + n ≤ sh.2) && !s.pkg.noMemory (c + n - 1)
        && used.all fun x => decide (x.1 + x.2 ≤ c) || decide (c + n ≤ x.1)

/-! ### Arrival logs (R416, R417) -/

/-- An arrival log is opened for a context of a launch. -/
def State.openLog (s : State) (id : BitVec 32) (part : Nat) (core : BitVec 7) : State :=
  let st := s.pkg.saveStack core.toNat
  let base := s.spareFit part st s.logPages
  s.mapPkg fun k => { k with logs := k.logs ++ [⟨id, part, core, st, base, 0, []⟩] }

def rwCode : RwKind → Nat
  | .store => 0 | .ste => 1 | .stf => 2 | .fset => 3 | .fclr => 4 | .count => 5

/-- An entry: a header of 32 bytes, whose layout is the model's (log 74), and up to 256 bytes of data. -/
def logEntry (w : RemoteWrite) : List Byte :=
  [BitVec.ofNat 8 w.window.toNat, BitVec.ofNat 8 w.cls.toNat, BitVec.ofNat 8 w.scope.toNat, BitVec.ofNat 8 (rwCode w.kind)]
    ++ leBytes 4 w.data.length ++ leBytes 8 w.addr ++ List.replicate 16 0 ++ sliceBytes (w.data.map fun b => b.getD 0) 0 256

/-- The address of the i-th entry that a log holds. -/
def State.logAt (s : State) (g : ArrivalLog) (i : Nat) : Option Nat := g.base.map fun b => b + 288 * ((g.first + i) % max 1 s.logSize)

def sameLog (a b : ArrivalLog) : Bool := a.launchId == b.launchId && a.part == b.part && a.core == b.core

def State.setLog (s : State) (g : ArrivalLog) : State :=
  s.mapPkg fun k => { k with logs := mapIf (sameLog g) (fun _ => g) k.logs }

/-- A write is appended to a log. -/
def State.appendLog (s : State) (g : ArrivalLog) (w : RemoteWrite) : State :=
  let s := match s.logAt g g.writes.length with
    | some a => s.cpPut a (logEntry w)
    | none => s
  s.setLog { g with writes := g.writes ++ [w] }

/-- The first write of a log as its entry holds it: its data are those that stand there. -/
def State.logHead (s : State) (g : ArrivalLog) (w : RemoteWrite) : RemoteWrite :=
  match s.logAt g 0 with
  | some a => { w with data := w.data.zipIdx.map fun (b, i) => b.map fun x => if i < 256 then (s.devBytes (a + 32 + i) 1).headD 0 else x }
  | none => w

/-- An error lies in its data (R418). -/
def State.logSpoilt (s : State) (g : ArrivalLog) (w : RemoteWrite) : Bool :=
  match s.logAt g 0 with
  | some a => s.devSpoilt (a + 32) w.data.length
  | none => false

end Sys2Proof.Machine
end

