-- ==== Sys2Proof/Machine/CopyRun.lean ====
section
/-! DEFINITION. CopyRun.lean: what a copy command does while it runs: its bytes, units, pages and ends
(R244, R246, R292 to R298, R385, R386, R428). -/
namespace Sys2Proof.Machine

def trapCopy (sub : Nat) (addr : Word) : TrapInfo := { code := 0x18, sub := sub, addr := addr }
def trapSealKey (addr : Word) : TrapInfo := { code := 0x19, addr := addr }
def trapSealVersion (addr : Word) : TrapInfo := { code := 0x1A, addr := addr }
def trapRemoteBound (addr : Word) : TrapInfo := { code := 0x1B, addr := addr }

def Opd.plus (o : Opd) (n : Nat) : Opd := { o with ea := o.ea + BitVec.ofNat 64 n }

/-! ### Bytes of one piece -/

/-- The most bytes of a command that go in one piece from an offset: within one page of either operand, at most 256 toward or from a
window, a sealed unit of 256 bytes for `xstage` (R296), a page for `xseal` (R297). -/
def CopyTag.pieceLen (t : CopyTag) (off : Nat) : Nat :=
  let room := fun (o : Opd) => match o.space with
    | .sp => t.len
    | .win => 256
    | .virt => 2 ^ 16 - (o.ea.toNat + off) % 2 ^ 16
  match t.kind with
  | .xstage _ => 256
  | .xseal _ => 2 ^ 16
  | .fill .. => room t.dst
  | .sgather .. => room t.dst
  | _ => min (room t.dst) (room t.src)

/-- Bytes of a command from an offset on that are one piece. -/
def CopyTag.pieceAt (t : CopyTag) (off hi : Nat) : Nat × Nat := (off, min (hi - off) (t.pieceLen off))

/-- Its pages, its windows' 256-byte writes and its sealed units are taken in increasing order. -/
def CopyTag.inOrder (t : CopyTag) : Bool :=
  t.dst.space == .win || (t.dst.space == .virt && t.dst.num != 0) || (match t.kind with | .xseal _ => true | _ => false)

/-- The piece that performs next: the first of what is left, or any 256-byte unit of the destination (R246). -/
def CopyTag.nextPiece (t : CopyTag) (whole : Bool) (x : Nat) : Option (Nat × Nat) :=
  match t.left with
  | [] => none
  | (lo, hi) :: _ =>
    if whole || t.inOrder then some (t.pieceAt lo hi)
    else
      let x := x % (t.len + 1)
      let (lo, hi) := (t.left.find? fun r => decide (r.1 ≤ x) && decide (x < r.2)).getD (lo, hi)
      let start := match t.kind with
        | .xstage _ => max lo (x / 256 * 256)
        | _ => max lo (x - (t.dst.ea.toNat + x) % 256)
      let start := if start < hi then start else lo
      some (t.pieceAt start (min hi (start + 256 - (match t.kind with | .xstage _ => 0 | _ => (t.dst.ea.toNat + start) % 256))))

/-- Take a piece out of what is left. -/
def cutRun (off n : Nat) : List (Nat × Nat) → List (Nat × Nat)
  | [] => []
  | (lo, hi) :: l =>
    if lo ≤ off && off < hi then
      (if lo < off then [(lo, off)] else []) ++ (if off + n < hi then [(off + n, hi)] else []) ++ l
    else (lo, hi) :: cutRun off n l

/-- What a piece meets. -/
inductive PieceEnd where
  | ok | wait | page (obj : BitVec 48) (page : Nat) | fault (i : TrapInfo) | noSpace | fenced | bound
  deriving DecidableEq, Repr

/-- Check an access of a command that has been dispatched: banks released since are its own until it ends (R289). -/
def State.copyCheck (s : State) (o : Opd) (n : Nat) (need : Need) (rs : List Right) : Acc :=
  match o.space with
  | .sp =>
    let ps := (natRange o.ea.toNat n).map Place.sram
    if !s.spOwned o.ea.toNat n then .stall s else if s.poisoned need ps then .trap (trapData o.ea) else .ok ps []
  | _ => s.check o n need rs 1 0

/-- Why a piece waits: for a bank, for a link, or for a page of the pool (R427). -/
def State.copyStall (s : State) (o : Opd) (n : Nat) : PieceEnd :=
  if o.space = .virt && o.num != 0 && !s.direct o.cap then
    match (natRange (o.ea.toNat / 2 ^ 16) ((o.ea.toNat + n - 1) / 2 ^ 16 + 1 - o.ea.toNat / 2 ^ 16)).find? fun p => !s.leaseReads (capObject o.cap) p with
    | some p => .page (capObject o.cap) p
    | none => .wait
  else .wait

/-- Bytes a command reads at places: withheld stores of the issuer that entered before it are seen (R246). -/
def State.copyRead (s : State) (ser : Nat) (ps : List Place) : List Byte := s.ownBytes ser ps (ps.map s.byteAt)

/-- The source bytes of a piece. -/
def State.pieceBytes (s : State) (t : CopyTag) (remote : List Byte) (off n : Nat) : List Byte × PieceEnd :=
  match t.snap, t.kind with
  | some d, _ => (sliceBytes d off n, .ok)
  | none, .fill u v =>
    let k := 2 ^ u.toNat
    ((natRange off n).map fun i => BitVec.ofNat 8 (v.toNat >>> (8 * (i % k))), .ok)
  | none, _ =>
    match t.src.space with
    | .win =>
      let a := t.src.ea.toNat + off
      match s.winRead t.src.num a n with
      | .bytes d => (s.ownBytes t.ser ((natRange a n).map (.win t.src.num)) d, .ok)
      | .bound => ([], .bound)
      | .spoilt => ([], .fault (trapData t.src.ea))
      | .wait _ => ([], .wait)
      | .remote =>
        if s.pkg.pkgLost (winPkg (s.ctx.win t.src.num)) then ([], .fault (trapLink 5 t.src.ea))
        else if off + n ≤ remote.length then (sliceBytes remote off n, .ok) else ([], .wait)
    | _ =>
      match s.copyCheck (t.src.plus off) n .read [.r] with
      | .trap i => ([], .fault i)
      | .stall _ => ([], s.copyStall (t.src.plus off) n)
      | .ok ps _ => (s.copyRead t.ser ps, .ok)

/-- Bytes that an engine of the core writes perform at their home: it gives up every copy, and their writer is none (R246, R260). -/
def State.engineCells (s : State) (cells : List (Place × Option Byte)) : State :=
  let ps := cells.map (·.1)
  (((s.performCells (some s.agent) cells).setRel ps none).noteHome ps).raceWrite ps false

/-- Bytes of the context that entered before a write of an engine and still are withheld come before it: where the two overlap, the
later bytes stand (R239). -/
def State.supersede (s : State) (ser : Nat) (ps : List Place) : State :=
  if s.ctx.buffer.isEmpty then s
  else s.mapCtx fun c => { c with buffer := c.buffer.map fun e =>
    if e.ser < ser && e.act == .store then { e with cells := e.cells.map fun (p, b) => (p, if ps.elem (s.canon p) then none else b) } else e }

/-- A piece's bytes to their places: to a pool page under the room the pool has and its lease (R295, R428), else at their home. `copy`
names the command in what it sends. -/
def State.putPiece (s : State) (t : CopyTag) (copy : BitVec 6 × Nat) (ps : List Place) (d : List Byte) : State × PieceEnd :=
  let cells := ps.zip (d.map some)
  match ps.head? with
  | some (.home obj o) =>
    if s.pkg.pageLost obj (o / 2 ^ 16) then (s, .fault (trapLink 1 t.dst.ea))
    else if s.pkg.pageOut obj (o / 2 ^ 16) then (s, .wait)
    else (s.engineCells cells, .ok)
  | some (.pool obj o) =>
    let page := o / 2 ^ 16
    if s.pool.noSpace obj page then (s, .noSpace)
    else
      match s.lease obj page with
      | some l => if l.st == .write && decide (s.pkg.now < l.d) then (s.storeCells cells (some copy), .ok) else (s, .fenced)
      | none => (s, .fenced)
  | _ => ((s.supersede t.ser ps).engineCells cells, .ok)

/-- Write the bytes of a piece. -/
def State.pieceWrite (s : State) (t : CopyTag) (copy : BitVec 6 × Nat) (off : Nat) (d : List Byte) : State × PieceEnd :=
  match t.dst.space with
  | .win =>
    let e := s.ctx.win t.dst.num
    if (winMC e || winPkg e != s.pkg.num) && s.pkg.pkgLost (winPkg e) then (s, .fault (trapLink 5 t.dst.ea))
    else if s.ctx.outCount t.dst.num < s.ctx.outLimit t.dst.num then
      let x := s.remoteWrite t.dst.num (t.dst.ea.toNat + off) .store (d.map some) t.cls 0 t.ser
      (s.send { x with copy := some copy, src := (t.op.pc, slotCode t.op.slot, t.dst.ea + BitVec.ofNat 64 off), waits := s.ctx.waitsOf t.cls t.ser }, .ok)
    else (s, .wait)
  | _ =>
    match s.copyCheck (t.dst.plus off) d.length .write [.w] with
    | .trap i => (s, .fault i)
    | .stall _ => (s, .wait)
    | .ok ps xs => (if xs.isEmpty then s else s.fillTlb xs).putPiece t copy ps d

/-- Overlapping source and destination: a byte in both takes its old or its copied value (R294). -/
def State.overlapMix (s : State) (t : CopyTag) (off : Nat) (d : List Byte) : List Byte :=
  if t.snap.isNone then d
  else
    let src := s.runsOf t.src t.len
    match s.copyCheck (t.dst.plus off) d.length .write [.w] with
    | .ok ps _ => (d.zip ps).zipIdx.map fun ((b, p), i) =>
        if src.any (fun r => within r.1 p r.2) && Config.freeBool (s.clock + i) then s.byteAt p else b
    | _ => d

/-! ### Sealed pages (R296, R297, R385, R386) -/

/-- What names a page for sealing: pool object and page, or a package page by its device page and guest page. -/
structure SealPage where
  pool  : Bool
  key   : Nat
  objId : Nat
  page  : Nat
  sealed : Bool
  attr  : BitVec 24
  direct : Bool
  deriving DecidableEq, Repr

/-- The page an operand's byte lies in, with its places, for reading or writing sealed bytes. -/
def State.sealPage (s : State) (o : Opd) (n : Nat) (write : Bool) : List Place × SealPage ⊕ TrapInfo :=
  let ea := o.ea.toNat
  if o.num = 0 then
    match s.translateAll (if write then .write else .read) 0 [(ea, n)] with
    | .error t => .inr t
    | .ok xs =>
      match xs with
      | (e, va, k) :: _ =>
        .inl ((natRange (e.dpage * 2 ^ 16 + va % 2 ^ 16) k).map dpaPlace, ⟨false, e.dpage, 0, e.gpa / 2 ^ 16, e.sealed, e.fattr, false⟩)
      | [] => .inr (trapFormat o.ea)
  else
    match capFault o.cap ea n [if write then .w else .r] with
    | some k => .inr (trapCap k o.ea)
    | none =>
      match s.objectFault o.cap (ea / 2 ^ 16) write with
      | some k => .inr (trapCap k o.ea)
      | none =>
        let obj := capObject o.cap
        .inl ((natRange ea n).map (s.capPlace o.cap), ⟨true, pageKey obj (ea / 2 ^ 16), obj.toNat, ea / 2 ^ 16,
          (s.pageAttr obj (ea / 2 ^ 16)).2.1, (s.pageAttr obj (ea / 2 ^ 16)).1, s.direct o.cap⟩)

def State.sealEntry (s : State) (g : SealPage) : BitVec 8 × BitVec 32 :=
  tabGet (0, 0) (if g.pool then s.pool.sealVer else s.pkg.sealVer) g.key

/-- The tweak of R385. -/
def sealTweak (g : SealPage) (ver : BitVec 32) (unit : Nat) : Nat :=
  g.objId * 2 ^ 80 + g.page * 2 ^ 48 + ver.toNat * 2 ^ 16 + unit

/-- XTS over whole 256-byte units, the first of them unit `u` of its page. -/
def sealUnits (f : Nat → List Byte → List Byte) : Nat → Nat → List Byte → List Byte
  | 0, _, _ => []
  | n + 1, u, d => f u (d.take 256) ++ sealUnits f n (u + 1) (d.drop 256)

/-- The version that a copy of a sealed page carries, in the pool cache or HBM (R386). -/
def State.sealCopy (s : State) (g : SealPage) (ver : BitVec 32) : BitVec 32 :=
  tabGet ver (s.pkg.sealVer.map fun x => (x.1, x.2.2)) (g.key + (if g.pool then 2 ^ 90 else 2 ^ 91))

/-- An `xseal` to the page, of this package or another, has not performed: it holds the page's entry (R386). -/
def State.sealHeld (s : State) (g : SealPage) : Bool := g.pool && s.pool.holds.any (·.1 == g.key)

/-- SAVE_CORRUPT: the page's entry in the package's version table fails its tag (R386). -/
def State.sealLost (s : State) (g : SealPage) : Bool := !g.pool && s.entryLost (g.key * 2 ^ 16)

def trapSaveCorrupt (addr : Word) : TrapInfo := { code := 0x41, addr := addr }

/-- The entry a page gets as its write performs (R297, R386): at once, or with the last of the puts that bring it to the pool. -/
def State.setSeal (s : State) (g : SealPage) (e : BitVec 8 × BitVec 32) : State :=
  if !g.pool then (s.putEntry (g.key * 2 ^ 16) e).mapPkg fun k => { k with sealVer := tabSet k.sealVer (g.key + 2 ^ 91) e }
  else if g.direct then (s.askPool (.sealDone s.pkg.num (BitVec.ofNat 48 g.objId) (BitVec.ofNat 32 g.page) e.1)).1
  else s.mapPkg fun k => { k with
    puts := match k.puts.getLast? with | some p => k.puts.dropLast ++ [{ p with ver := some e }] | none => []
    sealVer := tabSet k.sealVer (g.key + 2 ^ 90) e }

/-- One unit of `xstage`: sealed bytes into scratchpad. -/
def State.stagePiece (s : State) (t : CopyTag) (copy : BitVec 6 × Nat) (key : BitVec 8) (off n : Nat) : State × PieceEnd :=
  let o := t.src.plus off
  match s.sealPage o n false with
  | .inr i => (s, .fault i)
  | .inl (ps, g) =>
    if !g.sealed then (s, .fault (trapCopy 4 o.ea))
    else if !attrOk g.attr then (s, .fault (trapFormat o.ea))
    else if g.pool && !(!g.direct && s.leaseReads (capObject o.cap) g.page) && s.pkg.pageLost (capObject o.cap) g.page then
      (s, .fault (trapLink 1 o.ea))
    else if g.pool && g.direct && s.pkg.pageOut (capObject o.cap) g.page then (s, .wait)
    else if g.pool && !g.direct && !s.leaseReads (capObject o.cap) g.page then (s, .page (capObject o.cap) g.page)
    else if s.sealHeld g then (s, .wait)
    else if s.sealLost g then (s, .fault (trapSaveCorrupt o.ea))
    else if ps.any s.spoiltAt then (s, .fault (trapData o.ea))
    else
      let e := s.sealEntry g
      match t.sealKey.join with
      | none => (s, .fault (trapSealKey o.ea))
      | some k =>
        if e.1 != key then (s, .fault (trapSealKey o.ea))
        else if s.sealCopy g e.2 != e.2 then (s, .fault (trapSealVersion o.ea))
        else
          s.pieceWrite t copy off (sealUnits (fun u => Config.xtsInv k (sealTweak g e.2 u)) (n / 256) (o.ea.toNat % 2 ^ 16 / 256) (ps.map s.byteAt))

/-- An `xseal` asks the pool to hold a page's entry for it (R386). -/
def State.holdSeal (s : State) (g : SealPage) : Option State :=
  if !g.pool then some s
  else match s.askPool (.sealHold s.pkg.num (BitVec.ofNat 48 g.objId) (BitVec.ofNat 32 g.page)) with
    | (t, .done) => some t
    | _ => none

/-- One page of `xseal`: scratchpad bytes as ciphertext under the next version (R386). -/
def State.sealPiece (s : State) (t : CopyTag) (copy : BitVec 6 × Nat) (key : BitVec 8) (off n : Nat) : State × PieceEnd :=
  let o := t.dst.plus off
  match s.sealPage o n true with
  | .inr i => (s, .fault i)
  | .inl (ps, g) =>
    if !g.sealed then (s, .fault (trapCopy 4 o.ea))
    else if s.sealHeld g then (s, .wait)
    else if s.sealLost g then (s, .fault (trapSaveCorrupt o.ea))
    else
      match t.sealKey.join with
      | none => (s, .fault (trapSealKey o.ea))
      | some k =>
        let (d, r) := s.pieceBytes t [] off n
        if r != .ok then (s, r)
        else
          let ver := (s.sealEntry g).2 + 1
          match s.holdSeal g with
          | none => (s, .wait)
          | some h => match h.putPiece t copy ps (sealUnits (fun u => Config.xts k (sealTweak g ver u)) (n / 256) 0 d) with
            | (h, .ok) => (h.setSeal g (key, ver), .ok)
            | (_, r) => (s, r)

/-! ### The stride gather (R115, R298) -/

/-- The attribute of the page that holds an operand's byte, and its page base. -/
def State.opdAttr (s : State) (o : Opd) : (BitVec 24 × Nat × Bool) ⊕ TrapInfo :=
  if o.num = 0 then
    match s.translate o.ea.toNat with
    | .error (st, k) => .inr (trapPage st k o.ea)
    | .ok e => .inl (e.fattr, o.ea.toNat / 2 ^ e.size * 2 ^ e.size, e.dpage.testBit 35)
  else
    match s.objectFault o.cap (o.ea.toNat / 2 ^ 16) false with
    | some k => .inr (trapCap k o.ea)
    | none => .inl ((s.pageAttr (capObject o.cap) (o.ea.toNat / 2 ^ 16)).1, o.ea.toNat / 2 ^ 16 * 2 ^ 16, false)

/-- The page of an element has an attribute that is consistent and is the one its access began with (R113, R114). -/
def sameAttr (attr : BitVec 24) (fmt grp : Nat) : Bool := attrOk attr && wbits attr 3 0 == fmt && wbits attr 5 4 == grp

/-- Both pages of an element of `n` bytes have the attribute that its access began with (R113, R114). -/
def State.elemAttr (s : State) (o : Opd) (a n fmt grp : Nat) : Option TrapInfo :=
  [a, a + n - 1].findSome? fun x => match s.opdAttr { o with ea := BitVec.ofNat 64 x } with
    | .inr i => some i
    | .inl (attr, _, _) => if sameAttr attr fmt grp then none else some (trapFormat (BitVec.ofNat 64 x))

/-- Bytes read for an engine at an address of the operand's space, as an access that entered at a place in entry order. -/
def State.opdBytes (s : State) (ser : Nat) (o : Opd) (ea n : Nat) : List Byte ⊕ PieceEnd :=
  match s.copyCheck { o with ea := BitVec.ofNat 64 ea } n .read [.r] with
  | .trap i => .inr (.fault i)
  | .stall _ => .inr (s.copyStall { o with ea := BitVec.ofNat 64 ea } n)
  | .ok ps _ => .inl (s.copyRead ser ps)

/-- Group size in elements of a GRP code (Table 5.8). -/
def groupSize (grp : Nat) : Nat := match grp with | 1 => 32 | 2 => 64 | 3 => 128 | _ => 0

/-- A side-array entry of the group that holds the byte at an address, checked (R111, R113): the page's own base, attribute and group
number. -/
def State.sideEntry (s : State) (ser : Nat) (o : Opd) (fmt grp : Nat) (a : Nat) : Nat ⊕ PieceEnd :=
  match s.opdAttr { o with ea := BitVec.ofNat 64 a } with
  | .inr i => .inr (.fault i)
  | .inl (attr, base, _) =>
    let gBytes := groupSize grp * tyBits (BitVec.ofNat 4 fmt) / 8
    if !sameAttr attr fmt grp then .inr (.fault (trapFormat (BitVec.ofNat 64 a)))
    else match s.opdBytes ser o (base + wbits attr 21 6 * 2 ^ 16 + 4 * ((a - base) / gBytes)) 4 with
    | .inr e => .inr e
    | .inl b =>
      let x := leNat b
      if bits x 31 24 != 0 || (fmt == 14 && bits x 23 20 != 0) then .inr (.fault (trapFormat (BitVec.ofNat 64 a))) else .inl x

/-- Whether a run of bits holds an element inside the extent: `rows` rows of `row` bits each, `stride` bits apart from `src` on. -/
def extentMeets (src stride rows row lo hi : Nat) : Bool :=
  if row = 0 || hi ≤ src then false
  else
    let r := if lo < src + row then 0 else if stride = 0 then rows else (lo - src - row) / stride + 1
    decide (r < rows) && decide (src + r * stride < hi)

/-- One element of the gather as a code of its width (R115): the stored element within the extent; beyond it zero, or for
quantised data the zero point of a group that reaches into the extent. -/
def State.gatherElem (s : State) (t : CopyTag) (fmt grp : Nat) (stride extRows extCols r c : Nat) : Nat ⊕ PieceEnd :=
  let w := tyBits (BitVec.ofNat 4 fmt)
  let ea0 := t.src.ea.toNat + r * stride
  let addr := ea0 + c * w / 8
  if r < extRows && c < extCols then
    match s.elemAttr t.src addr ((w + 7) / 8) fmt grp with
    | some i => .inr (.fault i)
    | none => match s.opdBytes t.ser t.src addr ((w + 7) / 8) with
      | .inr e => .inr e
      | .inl d => .inl ((leNat d >>> (c * w % 8)) % 2 ^ w)
  else if fmt != 13 && fmt != 14 then .inl 0
  else
    let gBytes := groupSize grp * w / 8
    let lo := addr / gBytes * gBytes
    if extentMeets (8 * t.src.ea.toNat) (8 * stride) extRows (extCols * w) (8 * lo) (8 * (lo + gBytes)) then
      match s.sideEntry t.ser t.src fmt grp addr with
      | .inr e => .inr e
      | .inl x => .inl (bits x 23 16 % 2 ^ w)
    else .inl 0

/-- Every element in destination order. -/
def State.gatherAll (s : State) (t : CopyTag) (fmt grp stride er ec : Nat) : List (Nat × Nat) → List Nat ⊕ PieceEnd
  | [] => .inl []
  | (r, c) :: l =>
    match s.gatherElem t fmt grp stride er ec r c with
    | .inr e => .inr e
    | .inl x => match State.gatherAll s t fmt grp stride er ec l with
      | .inr e => .inr e
      | .inl xs => .inl (x :: xs)

def packNibbles : List Nat → List Byte
  | a :: b :: l => BitVec.ofNat 8 (a + 16 * b) :: packNibbles l
  | [a] => [BitVec.ofNat 8 a]
  | [] => []

/-- Rows and columns that an `xsgather` takes for an element width in bits, and those of them within the extent (R298). -/
def gatherShape (w len : Nat) (d0 d1 : Word) : Nat × Nat × Nat × Nat :=
  let cols := wbits d0 31 16 + 1
  let rows := len * 8 / (cols * w)
  (rows, cols, min rows (wbits d1 63 32), min cols (wbits d1 31 0))

/-- The ranges of an `xsgather`'s source rows within the extent, for an element width. -/
def gatherRanges (o : Opd) (w len : Nat) (d0 d1 : Word) : List (Opd × Nat) :=
  let (_, _, er, ec) := gatherShape w len d0 d1
  if ec = 0 then [] else (natRange 0 er).map fun r => (o.plus (r * wbits d0 63 32), (ec * w + 7) / 8)

/-- A range reaches into host memory. -/
def State.inHost (s : State) (o : Opd) (n : Nat) : Bool :=
  (s.runsOf o n).any fun r => match r.1 with | .host _ => true | _ => false

/-- The destination bytes of `xsgather` (R298), or what it meets. -/
def State.gatherBytes (s : State) (t : CopyTag) (d0 d1 : Word) : List Byte ⊕ PieceEnd :=
  match s.opdAttr t.src with
  | .inr i => .inr (.fault i)
  | .inl (attr, _, _) =>
    if !attrOk attr then .inr (.fault (trapFormat t.src.ea))
    else
      let fmt := wbits attr 3 0
      let grp := wbits attr 5 4
      let w := tyBits (BitVec.ofNat 4 fmt)
      let (rows, cols, _, _) := gatherShape w t.len d0 d1
      let quant := fmt == 13 || fmt == 14
      if (gatherRanges t.src w t.len d0 d1).any fun r => s.inHost r.1 r.2 then .inr (.fault (trapCopy 2 t.src.ea))
      else if wbits d0 15 0 != 0 || t.len * 8 % (cols * w) != 0 || (fmt == 14 && rows * cols % 2 == 1) then
        .inr (.fault (trapCopy 1 t.src.ea))
      else if !(fmt == 10 || fmt == 11 || fmt == 8 || fmt == 9 || fmt == 0 || quant)
          || (quant && wbits d0 63 32 % (groupSize grp * w / 8) != 0) then .inr (.fault (trapFormat t.src.ea))
      else
        let order := (natRange 0 cols).flatMap fun c => (natRange 0 rows).map fun r => (r, c)
        match s.gatherAll t fmt grp (wbits d0 63 32) (wbits d1 63 32) (wbits d1 31 0) order with
        | .inr e => .inr e
        | .inl xs => .inl (if w = 4 then packNibbles xs else xs.flatMap fun x => leBytes (w / 8) x)

/-! ### Running -/

/-- The check a command makes when it starts (R292, R298): a plain destination of `xget` or `xsgather` in host memory. -/
def State.startFault (s : State) (t : CopyTag) : Option TrapInfo :=
  let plain := match t.kind with | .get | .sgather .. => t.dst.space == .virt && t.dst.num == 0 | _ => false
  if plain && s.inHost t.dst t.len then some (trapCopy 2 t.dst.ea) else none

/-- A command whose source and destination overlap reads its source before it writes (R294), and `xsgather` forms its elements first. -/
def State.readsFirst (s : State) (t : CopyTag) : Bool :=
  match t.kind with
  | .sgather .. => true
  | .fill .. | .xstage _ | .xseal _ => false
  | _ => t.snap.isNone && (s.runsOf t.src t.len).any fun r => (s.runsOf t.dst t.len).any (runsMeet r)

/-- The source bytes of a whole command. -/
def State.wholeSource (s : State) (t : CopyTag) (remote : List Byte) : Nat → Nat → List Byte ⊕ PieceEnd
  | 0, _ => .inl []
  | fuel + 1, off =>
    if t.len ≤ off then .inl []
    else
      let n := (t.pieceAt off t.len).2
      match s.pieceBytes t remote off n with
      | (d, .ok) => (match State.wholeSource s t remote fuel (off + n) with | .inl r => .inl (d ++ r) | .inr e => .inr e)
      | (_, e) => .inr e

/-- The command with its source read first where it has to be. -/
def State.snapshot (s : State) (t : CopyTag) (remote : List Byte) : CopyTag ⊕ PieceEnd :=
  if t.snap.isSome || !s.readsFirst t then .inl t
  else
    let d := match t.kind with
      | .sgather d0 d1 => s.gatherBytes t d0 d1
      | _ => s.wholeSource t remote (t.len + 1) 0
    match d with
    | .inl d => .inl { t with snap := some d }
    | .inr e => .inr e

/-- One piece of a command performs. -/
def State.onePiece (s : State) (t : CopyTag) (copy : BitVec 6 × Nat) (remote : List Byte) (off n : Nat) : State × PieceEnd :=
  match t.kind with
  | .xstage key => s.stagePiece t copy key off n
  | .xseal key => s.sealPiece t copy key off n
  | _ =>
    let (d, e) := s.pieceBytes t remote off n
    if e != PieceEnd.ok then (s, e) else s.pieceWrite t copy off (match t.kind with | .sgather .. => d | _ => s.overlapMix t off d)

/-- The runs of bytes that a command writes and reads. -/
def State.copyRuns (s : State) (t : CopyTag) : List (Place × Nat) :=
  s.runsOf t.dst t.len ++ (match t.kind with | .fill .. => [] | _ => s.runsOf t.src t.len)

/-- A running command waits for the next checkpoint to commit: what it follows is withheld or held until then (R246, R239). -/
def State.copyHeld (s : State) (t : CopyTag) : Bool :=
  let ws := s.ctx.waitsOf t.cls t.ser
  (s.ctx.buffer.any fun e => e.isStore && waitsFor ws e.cls e.ser)
    || (s.core.drains.any fun d => s.ourDrain d && d.held && waitsFor ws d.cls d.ser)
    || (s.ctx.tags.any fun x => x.2.st == .held && decide (x.2.ser < t.ser) && (waitsForCopy ws x.2.cls x.2.ser || s.copyMeets x.2 (s.copyRuns t)))
    || s.heldBack.any fun x => waitsFor ws x.cls x.ser

/-- A running command may perform nothing yet: something of its class that entered before it, or an access of the same bytes, has not
performed (R246, R239). -/
def State.copyWaits (s : State) (t : CopyTag) : Bool :=
  s.copyHeld t || (s.core.drains.any fun d => s.ourDrain d && waitsFor (s.ctx.waitsOf t.cls t.ser) d.cls d.ser)
    || s.mustWait (s.ctx.waitsOf t.cls t.ser) t.ser (s.copyRuns t)

/-- Pieces of a command perform: one that a free value picks, or one after another to the end (`whole`). -/
def State.runPieces (copy : BitVec 6 × Nat) (remote : List Byte) (whole : Bool) (x : Nat) :
    Nat → State → CopyTag → State × CopyTag × PieceEnd
  | 0, s, t => (s, t, .ok)
  | fuel + 1, s, t =>
    match t.nextPiece whole x with
    | none => (s, t, .ok)
    | some (off, n) =>
      match s.onePiece t copy remote off n with
      | (s', .ok) =>
        let t := { t with done := t.done + n, left := cutRun off n t.left }
        if whole then State.runPieces copy remote whole x fuel s' t else (s', t, .ok)
      | (s', e) => (s', t, e)

/-- A RUNNING command goes on. -/
def State.runCopy (s : State) (n : Nat) (t : CopyTag) (remote : List Byte) (whole : Bool) (x : Nat) : State × CopyTag × PieceEnd :=
  if s.copyWaits t then (s, t, .wait)
  else
    match (if t.done = 0 then s.startFault t else none) with
    | some i => (s, t, .fault i)
    | none =>
      match s.snapshot t remote with
      | .inr e => (s, t, e)
      | .inl t => State.runPieces (BitVec.ofNat 6 n, t.op.seq) remote whole x (t.len + 1) s t

def Context.tag (c : Context) (n : Nat) : Option CopyTag := (c.tags.find? (·.1 == n)).map (·.2)
def Context.setTag (c : Context) (n : Nat) (t : CopyTag) : Context := { c with tags := tabSet c.tags n t }

/-- Window writes of a command that have not performed, and puts that the pool has not acknowledged (R246, R293). -/
def State.copyOut (s : State) (n : Nat) (t : CopyTag) : Bool :=
  ((s.underway ++ s.pkg.sent ++ s.pkg.accepted).any fun x => s.sentByUs x && x.copy == some (BitVec.ofNat 6 n, t.op.seq))
    || s.pkg.puts.any fun p => p.copy == some (s.ctx.info.launchId, s.coreNum, BitVec.ofNat 6 n, t.op.seq)

/-- A command that stops before its end (R301): a held one is discarded; of a running one no further write is made, and its tag leaves RUNNING
once those it has sent have performed. -/
def State.stoppedTag (s : State) (n : Nat) (t : CopyTag) (st : TagSt) : CopyTag :=
  if t.st == .held then { t with st := st, done := 0, left := [] }
  else if s.copyOut n t then { t with left := [], ending := some st } else { t with st := st, left := [] }

def State.stopCopy (s : State) (n : Nat) (t : CopyTag) (st : TagSt) : State := s.mapCtx fun c => c.setTag n (s.stoppedTag n t st)

/-- Every busy tag that a test picks is stopped. -/
def State.stopCopies (s : State) (p : CopyTag → Bool) (st : TagSt) : State :=
  s.mapCtx fun c => { c with tags := c.tags.map fun (n, t) => (n, if tagBusy t && p t then s.stoppedTag n t st else t) }

end Sys2Proof.Machine
end

