-- ==== Sys2Proof/Machine/TileGeom.lean ====
section
/-! DEFINITION. TileGeom.lean: the fields of a tile descriptor and where a tile's stored rows lie (R173 to R180). -/
namespace Sys2Proof.Machine

/-- Fields of a descriptor (Table 8.3) and of the shape in it (Table 8.1). -/
def dBase (d : BitVec 256) : Word := d.truncate 64
def dShape (d : BitVec 256) : Word := (d >>> 64).truncate 64
def dExtent (d : BitVec 256) : Word := (d >>> 128).truncate 64
def dCap (d : BitVec 256) : BitVec 4 := BitVec.ofNat 4 (wbits d 195 192)
def dFmt (d : BitVec 256) : Ty := BitVec.ofNat 4 (wbits d 199 196)
def dGrp (d : BitVec 256) : Nat := wbits d 201 200

def shStride (w : Word) : Nat := wbits w 63 32
def shFmt (w : Word) : Nat := wbits w 31 28
def shGrp (w : Word) : Nat := wbits w 27 26
def shSph (w : Word) : Bool := w.getLsbD 25
def shTrans (w : Word) : Bool := w.getLsbD 24
def shKin (w : Word) : Bool := w.getLsbD 23
def shRole (w : Word) : Nat := wbits w 22 21
def shExt (w : Word) : Nat := wbits w 20 14
def shSat (w : Word) : Bool := w.getLsbD 11
def shRm (w : Word) : Rm := BitVec.ofNat 2 (wbits w 10 9)
def shDepth (w : Word) : Nat := wbits w 8 0

/-- Stored rows and elements per stored row (Table 8.2). -/
def shRows (w : Word) : Nat := if shKin w then shExt w + 1 else shDepth w + 1
def shCols (w : Word) : Nat := if shKin w then shDepth w + 1 else shExt w + 1

def quantTy (t : Ty) : Bool := t.toNat == 13 || t.toNat == 14

/-- Bytes of a stored row of an element type. -/
def rowBytes (w : Word) (t : Ty) : Nat := (shCols w * tyBits t + 7) / 8

/-- Lowest byte and the number of bytes from it through the highest stored byte. -/
def tileSpan (w : Word) (t : Ty) : Nat := (shRows w - 1) * shStride w + rowBytes w t

/-- The side array of a quantised tile homed in scratchpad: base and bytes per stored row (R177). -/
def sideBase (base : Nat) (w : Word) : Nat := (base + shRows w * shStride w + 63) / 64 * 64
def sideRow (w : Word) (grp : Nat) : Nat := 4 * ((shCols w + groupSize grp - 1) / groupSize grp)

/-- The protected range of an A or B tile homed in scratchpad (R180). -/
def tileProt (base : Nat) (w : Word) (t : Ty) (grp : Nat) : Nat × Nat :=
  let hi := base + tileSpan w t - 1
  if quantTy t then (base, max hi (sideBase base w + shRows w * sideRow w grp - 1)) else (base, hi)

def descProt (d : BitVec 256) : Option (Nat × Nat) :=
  let w := dShape d
  if shSph w && shRole w != 2 then some (tileProt (dBase d).toNat w (dFmt d) (dGrp d)) else none

/-- Stored rows, and elements of a stored row, that are read from memory: those within the extent of a TRANS tile (R175). -/
def dRowsIn (d : BitVec 256) : Nat :=
  if shTrans (dShape d) then min (shRows (dShape d)) (wbits (dExtent d) 63 32) else shRows (dShape d)
def dColsIn (d : BitVec 256) : Nat :=
  if shTrans (dShape d) then min (shCols (dShape d)) (wbits (dExtent d) 31 0) else shCols (dShape d)

/-- Bytes that are read of a stored row. -/
def dRowBytes (d : BitVec 256) : Nat := (dColsIn d * tyBits (dFmt d) + 7) / 8

/-- A tile that is filled from memory (Table 8.4). -/
def memTile (d : BitVec 256) : Bool := !shSph (dShape d) && shRole (dShape d) != 2

/-- The bytes that are read of a tile's stored rows, which a capability value serves. -/
def State.tileRuns (s : State) (d : BitVec 256) (cap : BitVec 128) : List (Place × Nat) :=
  (natRange 0 (dRowsIn d)).flatMap fun r =>
    s.runsOf ⟨.virt, dCap d, cap, dBase d + BitVec.ofNat 64 (r * shStride (dShape d))⟩ (dRowBytes d)

/-- A fill of the context that has not read its lines covers one of these places: a later load of them is ordered after it (R239). -/
def State.fillMeets (s : State) (ps : List Place) : Bool :=
  s.ctx.tiles.toList.zipIdx.any fun (x, i) => x.st != .empty && !x.filled &&
    (s.tileRuns (s.ctx.regs.t.toList.getD i 0) x.cap).any fun r => ps.any fun p => within r.1 (s.canon p) r.2

/-- The distinct 256-byte lines a memory-homed tile touches (R179). -/
def descLines (d : BitVec 256) : Nat :=
  let n := dRowBytes d
  if !memTile d || n = 0 then 0
  else ((natRange 0 (dRowsIn d)).foldl (fun l r =>
    let a := (dBase d).toNat + r * shStride (dShape d)
    (natRange (a / 256) ((a + n - 1) / 256 + 1 - a / 256)).foldl NatSet.add l) []).length

end Sys2Proof.Machine
end

