-- ==== Sys2Proof/Machine/Loads.lean ====
section
/-! DEFINITION. Loads.lean: the meanings of the scalar and vector loads and stores, the strided, gathered and scattered forms
and the string gather (R263 to R273), with the reading of an access's bytes that other families share. -/
namespace Sys2Proof.Machine

/-! ### Reading -/

/-- What reading the bytes of an access gives: its bytes, a trap, a stall, a request to another package, REMOTE_BOUND. -/
inductive Got where
  | bytes (d : List Byte) (s : State)
  | trap (i : TrapInfo)
  | stall (s : State)
  | remote (w : BitVec 4) (a : Nat)
  | bound (ea : Word)

/-- The addresses of bytes from one upward, in the access's own space. -/
def addrsFrom (ea : Word) (n : Nat) : List Word := (natRange 0 n).map fun i => ea + BitVec.ofNat 64 i

/-- What a plain load of a class reads at places: its own writes, else what stands or stood there. With it, what its context has then
seen (R239, R248) and the sectors whose fill an invalidation has overtaken (R253). A load that races with a write raises nothing here: it
reads what R249 and R250 allow (R258). `unit` numbers the single-copy atomic units (R250). -/
def State.plainRead (s : State) (cls : BitVec 4) (ps : List Place) (unit : Nat → Nat) : List Byte × NatSet × State :=
  let own := s.ownWrites
  let r : List (Place × Byte × Option Seen) := ps.zipIdx.map fun (p, i) =>
    match (if own.isEmpty then none else s.forward own p) with
    | some b => (p, b, none)
    | none => let v := s.view cls p (unit i); (p, v.byte, some v)
  let read := r.filterMap fun x => x.2.2.map fun v => (s.loc x.1, v.at_)
  let rels := ((r.filterMap fun x => if (x.2.2.map (·.last)).getD false then s.relAt x.1 else none).filter fun x => x.fence.isSome).eraseDups
  let late := r.foldl (fun l x => match x with | (.hbm a, _, some v) => if v.last then l else NatSet.add l (a / 64) | _ => l) []
  let s := s.mapCtx fun c => c.noteRead cls read
  (r.map (·.2.1), late, if rels.isEmpty then s else s.mapCtx fun c =>
    { c with acqFence := c.acqFence ++ (rels.map fun x => (cls, x)).filter fun x => !c.acqFence.elem x })

/-- When the bytes at places that a read at the home returns were written. -/
def State.writeTimes (s : State) (ps : List Place) : List (Place × Nat) :=
  ps.map fun p => (s.loc p, ((s.pkg.hist.filter fun o => o.loc == s.loc p).map (·.at_)).foldl max 0)

/-- A load of a class has read these places at their home (R239, R242, R248): what it read is what their latest writes left. -/
def State.noteHomeRead (s : State) (cls : BitVec 4) (ps : List Place) : State :=
  let times := s.writeTimes ps
  let rels := ((ps.filterMap s.relAt).filter fun x => x.fence.isSome).eraseDups
  s.mapCtx fun c => let c := c.noteRead cls times
    { c with acqFence := c.acqFence ++ (rels.map fun x => (cls, x)).filter fun x => !c.acqFence.elem x }

/-- The single-copy atomic unit of byte `i` of an element of `n` bytes at an address: all of it when it is aligned, else the byte
(R250). -/
def unitNo (elem ea n i : Nat) : Nat :=
  let u := if n == 16 then 8 else if [1, 2, 4, 8].elem n then n else 1
  elem * 64 + (if ea % u = 0 then i / u else i)

/-- The bytes at places that have passed their checks (R240, R44); a wait for a saved target counts as a tagged wait (R413). A plain load
names its class; it is checked for races (R261) and reads as R249 allows, any other read at the home. -/
def State.gotAt (s : State) (plain : Option (BitVec 4)) (ps : List (Place × Word)) (xs : List TlbEntry) (unit : Nat → Nat := id) : Got :=
  if s.fillMeets (ps.map (·.1)) then .stall s
  else match (if plain.isSome then s.raceCheck ps false else .inl s) with
  | .inr t => .trap t
  | .inl s =>
    let ls : List Place := ps.map (·.1)
    match ls.head? with
    | some (.win w a) =>
      match s.winRead w a ls.length with
      | .bytes d =>
        (match plain with
          | some cls => let (b, _, t) := s.plainRead cls ls unit; .bytes b t
          | none => .bytes (s.ownBytes s.ctx.entries ls d) s)
      | .bound => .bound ((ps.map (·.2)).headD 0)
      | .spoilt => .trap (trapData 0)
      | .wait saved => .stall (if saved then s.mapCtx fun c => { c with waiting := some s.opId } else s)
      | .remote => .remote w a
    | _ =>
      match plain with
      | some cls => let (b, late, t) := s.plainRead cls ls unit; .bytes b (t.noteLoad ls xs late)
      | none => .bytes (s.loadBytes ls) (if xs.isEmpty then s else s.fillTlb xs)

/-- A contiguous load of `n` bytes; a plain one names its class. -/
def State.got (s : State) (o : Opd) (n align elem : Nat) (plain : Option (BitVec 4)) : Got :=
  match s.check o n .read [.r] align elem with
  | .trap i => .trap i
  | .stall t => .stall t
  | .ok ps xs => s.gotAt plain (ps.zip (addrsFrom o.ea n)) xs (unitNo elem o.ea.toNat n)

/-- A remote read is under way: the operation waits at the head of its slot for the reply (R44). -/
def State.waitRemote (s : State) (w : BitVec 4) (a n : Nat) (take : Bool) (mask : Word) : State :=
  match s.cur with
  | none => s
  | some o =>
    let s := s.mapPkg fun k => k.sendOn s.clock (k.fabricLink (winPkg (s.ctx.win w))) 1
    (s.mapCtx fun c => { c with remote := some ⟨o, w, a, n, take, mask⟩ }).block false

/-- Finish an operation by what its read gave. -/
def State.onGot (s : State) (n : Nat) (g : Got) (f : State → List Byte → State) : State :=
  match g with
  | .bytes d t => f t d
  | .trap i => s.raise i
  | .stall t => t.block false
  | .remote w a => s.waitRemote w a n false s.maskTop
  | .bound ea => s.reportKept s.opId (trapRemoteBound ea)

/-- The value a load writes: zero- or sign-extended (R271). -/
def extendBytes (sx : Bool) (d : List Byte) : Word :=
  let x := leNat d
  if sx then BitVec.ofInt 64 (intVal true (8 * d.length) x) else BitVec.ofNat 64 x

/-- The effect of `ld` once its bytes are there. -/
def State.finishLd (s : State) (d : SReg) (sx : Bool) (b : List Byte) : State := s.writeS d (extendBytes sx b)

def execLLd (q : Pred) (d : SReg) (mem : Mem) (size : BitVec 2) (sx : Bool) (s : State) : Out :=
  s.under q fun s =>
    let n := 2 ^ size.toNat
    s.onGot n (s.got (s.opd mem) n 1 0 (some mem.cls)) fun s b => s.finishLd d sx b

/-! ### Vector accesses of one instruction (R268) -/

/-- The lanes that execute under a mask. -/
def lanesOf (l : Word) : List Nat := (natRange 0 64).filter fun i => l.getLsbD i

/-- The order in which failing checks are raised (R267). -/
def trapRank (i : TrapInfo) : Nat :=
  match i.code with
  | 0x10 => 0 | 0x12 => 1 | 0x11 => 2 | 0x21 => 3 | 0x13 => 4 | 0x14 => 5 | _ => 6

/-- What checking a vector access gives. -/
inductive LaneAcc where
  | ok (ps : List (Nat × List (Place × Word))) (xs : List TlbEntry)
  | trap (i : TrapInfo)
  | stall (s : State)

/-- Check the executing lanes of a 64-lane access of 4 bytes each: the first failing check in the order of R267, the lowest lane
first within it. -/
def State.checkLanes (s : State) (o : Opd) (need : Need) (rs : List Right) : List Nat → LaneAcc
  | [] => .ok [] []
  | i :: l =>
    let e := o.plus (4 * i)
    let rest := State.checkLanes s o need rs l
    match s.check e 4 need rs 1 0 (guard := need.writes) with
    | .ok ps xs =>
      match rest with
      | .ok ps' xs' => .ok ((i, ps.zip (addrsFrom e.ea 4)) :: ps') (xs ++ xs')
      | r => r
    | .trap t =>
      match rest with
      | .trap t' => if trapRank t' < trapRank t then .trap t' else .trap t
      | _ => .trap t
    | .stall t =>
      match rest with
      | .trap t' => .trap t'
      | _ => .stall t

/-- Put 4-byte lanes into a register. -/
def State.putLanes (s : State) (d : VReg) (new : List (Nat × List Byte)) : State :=
  s.writeElems 32 d ((s.readElems 32 d).zipIdx.map fun (o, i) =>
    match new.find? (·.1 == i) with | some (_, b) => leNat b | none => o)

/-- Cut a list into pieces of 4. -/
def cut4 : Nat → List Byte → List (List Byte)
  | 0, _ => []
  | n + 1, d => d.take 4 :: cut4 n (d.drop 4)

/-- The effect of `vld` once its bytes are there: 256 bytes of which the lanes of the mask are written. -/
def State.finishVld (s : State) (d : VReg) (mask : Word) (b : List Byte) : State :=
  s.putLanes d ((lanesOf mask).map fun i => (i, sliceBytes b (4 * i) 4))

def firstPlace (l : List (Place × Word)) : Option Place := l.head?.map Prod.fst

/-- A vector load of a class whose lanes have been checked. -/
def State.loadLanes (s : State) (d : VReg) (cls : BitVec 4) (ea : Word) (a : LaneAcc) (f : State → State) : State :=
  match a with
  | .trap i => s.raise i
  | .stall t => t.block false
  | .ok ps xs =>
    let all : List (Place × Word) := ps.flatMap (·.2)
    let unit := fun (j : Nat) => unitNo (j / 4) ea.toNat 4 (j % 4)
    match firstPlace all with
    | some (.win w _) =>
      if winPkg (s.ctx.win w) != s.pkg.num then s.waitRemote w ea.toNat 256 false s.maskTop
      else
        let rs := ps.map fun (i, p) => (i, s.gotAt none p [])
        match rs.findSome? fun r => (match r.2 with | .bound ea => some ea | _ => none) with
        | some ea => s.reportKept s.opId (trapRemoteBound ea)
        | none =>
        if rs.any fun r => (match r.2 with | .trap _ => true | _ => false) then s.raise (trapData ea)
        else if rs.any fun r => (match r.2 with | .stall _ => true | _ => false) then s.block (s.targetSaved (winCore (s.ctx.win w)))
        else
          match s.raceCheck all false with
          | .inr t => s.raise t
          | .inl s =>
            let (b, _, t) := s.plainRead cls (all.map (·.1)) unit
            f (t.putLanes d ((ps.map (·.1)).zip (cut4 ps.length b)))
    | _ =>
      match s.gotAt (some cls) all xs unit with
      | .bytes b t => f (t.putLanes d ((ps.map (·.1)).zip (cut4 ps.length b)))
      | .trap i => s.raise i
      | .stall t => t.block false
      | _ => s

def execLVld (q : Pred) (d : VReg) (mem : Mem) (s : State) : Out :=
  s.under q fun s => s.loadLanes d mem.cls (s.opd mem).ea (s.checkLanes (s.opd mem) .read [.r] (lanesOf s.maskTop)) id

/-! ### Withheld stores -/

/-- Enter the context's memory order and the withholding buffer (R236, R399). -/
def State.withhold (s : State) (act : EntryAct) (cells : List (Place × Option Byte)) (va : Word) (cls : BitVec 4) (scope : BitVec 3) :
    State :=
  s.mapCtx fun c => { c with buffer := c.buffer ++ [⟨s.opId, act, cells, va, cls, scope, c.entries⟩], entries := c.entries + 1 }

/-- Cells by the aligned 256-byte block of their address: one entry each (Table 16.1). -/
def byBlock : List (Place × Word × Byte) → List (Word × List (Place × Option Byte))
  | [] => []
  | (p, a, b) :: l =>
    match byBlock l with
    | [] => [(a, [(p, some b)])]
    | (a', c) :: r => if a >>> 8 = a' >>> 8 then (a, (p, some b) :: c) :: r else (a, [(p, some b)]) :: (a', c) :: r

/-- A store's bytes enter the buffer, one entry for each aligned 256-byte block. -/
def State.storeBlocks (s : State) (cells : List (Place × Word × Byte)) (cls : BitVec 4) : State :=
  (byBlock cells).foldl (fun s (a, c) => s.withhold .store c a cls 0) s

/-- What storing gives. -/
inductive Stored where
  | done (s : State)
  | trap (i : TrapInfo)
  | stall (s : State)

def State.onStored (s : State) : Stored → State
  | .done t => t
  | .trap i => s.raise i
  | .stall t => t.block false

/-- Check a store of bytes and withhold it: in entries by block, or in one entry for an element (Table 16.1). -/
def State.storeTo (s : State) (o : Opd) (d : List Byte) (cls : BitVec 4) (elem : Nat) (perElem : Bool) : Stored :=
  match s.check o d.length .write [.w] 1 elem (guard := true) with
  | .trap i => .trap i
  | .stall t => .stall t
  | .ok ps xs =>
    let at_ := ps.zip (addrsFrom o.ea d.length)
    match s.raceCheck at_ true with
    | .inr t => .trap { t with elem := elem }
    | .inl s =>
      let s := if xs.isEmpty then s else s.fillTlb xs
      if perElem then .done (s.withhold .store (ps.zip (d.map some)) o.ea cls 0)
      else .done (s.storeBlocks ((at_.zip d).map fun ((p, a), b) => (p, a, b)) cls)

def execLSt (q : Pred) (a : SReg) (mem : Mem) (size : BitVec 2) (s : State) : Out :=
  s.under q fun s =>
    s.onStored (s.storeTo (s.opd mem) (leBytes (2 ^ size.toNat) (s.readS a).toNat) mem.cls 0 false)

/-- A vector store whose lanes have been checked: the bytes of executing lanes. -/
def State.storeLanes (s : State) (d : VReg) (cls : BitVec 4) (a : LaneAcc) : State :=
  match a with
  | .trap i => s.raise i
  | .stall t => t.block false
  | .ok ps xs =>
    let v := s.readElems 32 d
    match s.raceCheck (ps.flatMap (·.2)) true with
    | .inr t => s.raise t
    | .inl s =>
      let s := if xs.isEmpty then s else s.fillTlb xs
      s.storeBlocks (ps.flatMap fun (i, p) => (p.zip (leBytes 4 (v.getD i 0))).map fun ((p, a), b) => (p, a, b)) cls

def execLVst (q : Pred) (d : VReg) (mem : Mem) (s : State) : Out :=
  s.under q fun s => s.storeLanes d mem.cls (s.checkLanes (s.opd mem) .write [.w] (lanesOf s.maskTop))

/-! ### Long ops (R270): elements in increasing index -/

/-- Addresses of the elements of `vlds` and `vsts`, and of `vgather` and `vscatter` (Table 11.2). -/
def strideAddr (ea stride : Word) (i : Nat) : Word := ea + BitVec.ofNat 64 i * stride
def State.indexAddr (s : State) (ea : Word) (x : VReg) (i : Nat) : Word :=
  ea + (BitVec.ofNat 32 ((s.readElems 32 x).getD i 0)).signExtend 64

/-- An element of a long op: its lane, its address, the bytes it stores or as many zeros as it loads. -/
abbrev LongElem := Nat × Word × List Byte

/-- Load elements of a class in order; a trap or a stall of one ends the operation with none of its destination written. -/
def State.loadElems (s : State) (o : Opd) (cls : BitVec 4) : List LongElem → List (Nat × List Byte) → State × Option (List (Nat × List Byte))
  | [], acc => (s, some acc)
  | (i, ea, z) :: l, acc =>
    if z.isEmpty then State.loadElems s o cls l ((i, []) :: acc)
    else
      match s.got { o with ea := ea } z.length 1 i (some cls) with
      | .bytes d t => State.loadElems t o cls l ((i, d) :: acc)
      | .trap t => (s.raise { t with elem := i }, none)
      | .stall t => (t.block false, none)
      | .remote _ _ => (s, none)
      | .bound _ => (s, none)

/-- Store elements in order, one entry each (Table 16.1). -/
def State.storeElems (s : State) (o : Opd) (cls : BitVec 4) (s0 : State) : List LongElem → State × Bool
  | [] => (s, true)
  | (i, ea, d) :: l =>
    match s.storeTo { o with ea := ea } d cls i true with
    | .trap t => (s.raise { t with elem := i }, false)
    | .stall t => (({ t with ctx := { t.ctx with buffer := s0.ctx.buffer } } : State).block false, false)
    | .done t => State.storeElems t o cls s0 l

/-- A long op's elements, those it still has to perform, and what it has loaded: from the start, or from where it was stopped (R270). -/
def State.longLeft (s : State) (all : List LongElem) : List LongElem × List LongElem × List (Nat × List Byte) :=
  match s.ctx.longOp with
  | some l => if l.op.id = s.opId then (l.all, l.items, l.got) else (all, all, [])
  | none => (all, all, [])

/-- How many of its elements perform now: all, or with pre-emption asked for any number of them. -/
def State.longCount (s : State) (n : Nat) : Nat :=
  if s.ctx.preempt && Config.freeBool s.clock then Config.freeNat s.clock % (n + 1) else n

/-- The op stops between two elements: ELEM names the first not performed, and the op waits with its operands; or it is complete and ELEM
is cleared (R270, R411). -/
def State.longEnd (s : State) (all rest : List LongElem) (got : List (Nat × List Byte)) (f : State → State) : State :=
  match rest, s.cur with
  | (i, x) :: l, some o =>
    (s.mapCtx fun c => { c with longOp := some ⟨o, all, (i, x) :: l, got⟩, progidx := setBits c.progidx 6 0 i }).block false
  | _, _ => f (s.mapCtx fun c => { c with longOp := none, progidx := setBits c.progidx 6 0 0 })

/-- A long op that loads, from its operand, class and elements. -/
def State.longLoad (s : State) (o : Opd) (cls : BitVec 4) (all : List LongElem) (f : State → List (Nat × List Byte) → State) : State :=
  let (all, items, got) := s.longLeft all
  let k := s.longCount items.length
  match s.loadElems o cls (items.take k) got with
  | (t, none) => t
  | (t, some new) => t.longEnd all (items.drop k) new fun t => f t new

/-- A long op that stores. -/
def State.longStore (s : State) (o : Opd) (cls : BitVec 4) (all : List LongElem) : State :=
  let (all, items, _) := s.longLeft all
  let k := s.longCount items.length
  match s.storeElems o cls s (items.take k) with
  | (t, false) => t
  | (t, true) => t.longEnd all (items.drop k) [] id

/-- Write loaded elements of a size: in the lane, or the low half here and the high half in the next register (R272). -/
def State.putSized (s : State) (d : VReg) (size : BitVec 2) (new : List (Nat × List Byte)) : State :=
  let get := fun (i : Nat) => new.find? (·.1 == i)
  if size.toNat = 3 then
    s.writeElems 64 d ((s.readElems 64 d).zipIdx.map fun (o, i) => match get i with | some (_, b) => leNat b | none => o)
  else s.putLanes d new

/-- The bytes of an element to store. -/
def State.sizedBytes (s : State) (d : VReg) (size : BitVec 2) (i : Nat) : List Byte :=
  if size.toNat = 3 then leBytes 8 ((s.readElems 64 d).getD i 0)
  else leBytes (2 ^ size.toNat) ((s.readElems 32 d).getD i 0)

/-- The executing elements of a strided or indexed access of a size. -/
def State.sizedElems (s : State) (size : BitVec 2) (ea : Word) (addr : Word → Nat → Word) (f : Nat → List Byte) : List LongElem :=
  (lanesOf s.maskTop).map fun i => (i, addr ea i, sliceBytes (f i) 0 (2 ^ size.toNat))

def State.sizedLoad (s : State) (d : VReg) (mem : Mem2) (size : BitVec 2) (addr : Word → Nat → Word) : State :=
  let o := s.opd2 mem
  s.longLoad o mem.cls (s.sizedElems size o.ea addr fun _ => []) fun t new => t.putSized d size new

def State.sizedStore (s : State) (d : VReg) (mem : Mem2) (size : BitVec 2) (addr : Word → Nat → Word) : State :=
  let o := s.opd2 mem
  s.longStore o mem.cls (s.sizedElems size o.ea addr (s.sizedBytes d size))

def execLVlds (q : Pred) (d : VReg) (mem : Mem2) (stride : SReg) (size : BitVec 2) (s : State) : Out :=
  s.under q fun s => s.sizedLoad d mem size fun ea i => strideAddr ea (s.readS stride) i
def execLVsts (q : Pred) (d : VReg) (mem : Mem2) (stride : SReg) (size : BitVec 2) (s : State) : Out :=
  s.under q fun s => s.sizedStore d mem size fun ea i => strideAddr ea (s.readS stride) i
def execLVgather (q : Pred) (d : VReg) (mem : Mem2) (x : VReg) (size : BitVec 2) (s : State) : Out :=
  s.under q fun s => s.sizedLoad d mem size fun ea i => s.indexAddr ea x i
def execLVscatter (q : Pred) (d : VReg) (mem : Mem2) (x : VReg) (size : BitVec 2) (s : State) : Out :=
  s.under q fun s => s.sizedStore d mem size fun ea i => s.indexAddr ea x i

/-- `vsgather` (R273): up to four bytes of each lane's string; a lane with none reads nothing and writes zero. -/
def execLVsgather (q : Pred) (d : VReg) (mem : Mem2) (x : VReg) (s : State) : Out :=
  s.under q fun s =>
    let o := s.opd2 mem
    let offs := s.readElems 32 x
    let lens := s.readElems 32 (x + 1)
    s.longLoad o mem.cls ((lanesOf s.maskTop).map fun i =>
        (i, o.ea + BitVec.ofNat 64 (offs.getD i 0), List.replicate (min 4 (lens.getD i 0 % 2 ^ 16)) 0)) fun t new => t.putLanes d new

end Sys2Proof.Machine
end

