-- ==== Sys2Proof/Machine/Rollback.lean ====
section
/-! DEFINITION. Rollback.lean: rollback to the last checkpoint, the trap record and event records
(R19, R182, R302, R402 to R407, R448). -/
namespace Sys2Proof.Machine

/-! ### Event records (R19, R448) -/

/-- A 64-byte entry of an event ring: source kind, source number, the source's record. -/
def eventEntry (kind num : Nat) (data : List Byte) : List Byte :=
  [BitVec.ofNat 8 kind, 0] ++ leBytes 2 num ++ List.replicate 12 0 ++ sliceBytes data 0 48

/-- A record for a partition's ring, behind those that wait. -/
def State.emit (s : State) (part kind num : Nat) (data : List Byte) : State :=
  s.mapPkg fun k => { k with events := k.events ++ [(part, eventEntry kind num data)] }

/-- A record of the core in focus (Table 1.6). -/
def State.emitCore (s : State) (data : List Byte) : State :=
  (s.emit s.ctx.info.part.toNat 1 s.coreNum.toNat data).mapCore fun c => { c with evSeq := c.evSeq + 1 }

/-- A copy-tag completion record (R293); its layout is the model's (log 17): tag, state, DONE, sequence number. -/
def State.emitTag (s : State) (n : Nat) (code : Nat) (done : Nat) : State :=
  s.emitCore (leBytes 4 n ++ leBytes 4 code ++ leBytes 8 done ++ leBytes 4 s.core.evSeq.toNat)

/-! ### The trap record (Table 16.4) -/

/-- The record of Table 16.4. DATA is the faulting operand value: of NONFINITE the result element; of every other trap the manual does not
say which operand that is, so it is a free value (DESIGN CHOICE, log 32). -/
def trapRecord (s : State) (h : Held) : Vector Word 8 :=
  let w := fun (n : Nat) => BitVec.ofNat 64 n
  let i := h.info
  #v[w (s.core.evSeq.toNat * 2 ^ 32 + i.code * 2 ^ 24 + i.sub * 2 ^ 16 + h.async.toNat * 2 ^ 15 + h.kept.toNat * 2 ^ 14
        + h.exe.toNat * 2 ^ 7 + h.slot * 2 ^ 4 + s.slotNum.toNat * 2 ^ 3),
     w (h.pc.toNat * 2 ^ 32 + s.ctx.ckpt.pc.toNat),
     i.addr,
     w (i.elem * 2 ^ 32 + i.info * 2 ^ 16),
     w (s.ctx.info.launchId.toNat * 2 ^ 32 + s.ctx.info.cancel.toNat),
     0,
     if s.ctx.conf then 0 else if i.code = 0x30 then i.data else Config.trapData s.clock,
     0]

/-- The record is written and sent from the core's event source (R404). -/
def State.recordTrap (s : State) (h : Held) : State :=
  let r := trapRecord s h
  let s := s.mapCtx fun c => { c with trapRec := r }
  s.emitCore ((r.toList.take 6).flatMap fun x => leBytes 8 x.toNat)

/-! ### Rollback (R406) -/

/-- A tile register at rollback (R182). A refill is a fill of the `tld` that loaded the register: it reads through the capability that this
one read (DEDUCED, log 31), in its place in the context's order, and its fault is attributed to it (R181). -/
def tileBack (t : TileEntry) (ck : TileBack) (now back : BitVec 256) : TileEntry :=
  if !t.fresh && t.st == ck.st && now == back then t
  else if ck.st == .empty then .none
  else
    let base := { TileEntry.none with op := ck.op, cls := ck.cls, ser := ck.ser, cap := ck.cap }
    if shSph (dShape back) || shRole (dShape back) == 2 then
      { base with st := if ck.st == .retiring then .retiring else .ready, prot := descProt back }
    else { base with st := .filling, filled := false, lines := descLines back, retire := ck.st == .retiring }

/-- Everything of Table 16.5 but the trap record. A long op that was in flight at the checkpoint starts again from element 0. Pending faults
of operations that execute again are discarded (R402); those of earlier ones stay (R455). -/
def State.rollback (s : State) : State :=
  let s := s.stopRecords
  let s := s.stopCopies (fun t => t.fresh) .cancelled
  let s := s.mapCore fun c => { c with drains := c.drains.filter fun d => !(d.slot == s.slotNum && d.held) }
  ({ s with ctx := { s.ctx with
      regs := s.ctx.ckpt
      shadow := 0
      tiles := Vector.ofFn fun i => tileBack s.ctx.tiles[i] s.ctx.tileCkpt[i] s.ctx.regs.t[i] s.ctx.ckpt.t[i]
      buffer := []
      queue := s.ctx.longCkpt.toList.map fun (l : LongOp) => l.op
      longOp := s.ctx.longCkpt.map fun (l : LongOp) => { l with items := l.all, got := [] }
      fault := s.ctx.fault.filter fun (h : Held) => h.kept || h.seq < s.ctx.ckptSeq
      saved := []
      pending := []
      waiting := none
      remote := none
      trap := none
      commit := none
      endCkpt := none
      atCkpt := true
      yielded := false
      ppPoint := false
      backPoint := false
      released := s.ctx.relCkpt
      brels := 0
      applied := false
      serial := 0
      intact := true
      status := setBits s.ctx.status 47 32 (wbits s.ctx.status 47 32 + 1) } } : State).settleTiles

end Sys2Proof.Machine
end

