-- ==== Sys2Proof/Machine/Tiles.lean ====
section
/-! DEFINITION. Tiles.lean: the meanings of `tld`, `tst`, `trel`, `tqry`, `accrd` and `accwr`, the fill of a tile and the drain of
an accumulator (R173 to R185, R194, R278 to R280). -/
namespace Sys2Proof.Machine

def trapShape : TrapInfo := { code := 0x24 }
def trapTileEmpty : TrapInfo := { code := 0x22 }
def trapAccBusy : TrapInfo := { code := 0x20 }
def trapCapacity : TrapInfo := { code := 0x23 }

def Context.tile (c : Context) (t : TReg) : TileEntry := c.tiles[t.toNat]'t.isLt
def Context.setTile (c : Context) (t : TReg) (x : TileEntry) : Context := { c with tiles := c.tiles.set t.toNat x t.isLt }

/-! ### The checks of `tld` (R176, R278) -/

/-- BAD_SHAPE by the shape register alone: its number, its word, the capability field. -/
def badShape (ss : SReg) (w : Word) (cap : BitVec 4) : Bool :=
  let role := shRole w
  wbits w 13 12 != 0 || role == 3
    || (role == 1 && decide (shExt w > 63)) || (role == 2 && decide (shDepth w > 63))
    || (role != 2 && (shSat w || shRm w != 0))
    || (!shSph w && role != 2 && (shFmt w != 0 || shGrp w != 0))
    || (shSph w && (shTrans w || cap != 0))
    || (shTrans w && (ss.getLsbD 0 || shKin w))
    || (role == 2 && !shKin w)

/-- Element types a tile may hold (Table 5.9). -/
def tileTy (fmt : Nat) : Bool := [0, 8, 9, 10, 11, 13, 14].elem fmt

/-- The checks that depend on the element type (R113, R114, R176). -/
def badType (w : Word) (attr : BitVec 24) (ea : Word) : Option TrapInfo :=
  if quantTy (BitVec.ofNat 4 (wbits attr 3 0)) && !shKin w then some trapShape
  else if !attrOk attr || !tileTy (wbits attr 3 0) then some (trapFormat ea) else none

/-- The descriptor of Table 8.3. -/
def mkDesc (ea shape extent : Word) (cap : BitVec 4) (fmt grp : Nat) : BitVec 256 :=
  BitVec.ofNat 256 (ea.toNat + shape.toNat * 2 ^ 64 + extent.toNat * 2 ^ 128 + cap.toNat * 2 ^ 192 + fmt * 2 ^ 196 + grp * 2 ^ 200)

/-- The format attribute of a memory-homed tile from the line of its lowest byte, after the checks of its range. -/
def State.tileAttr (s : State) (o : Opd) (w extent : Word) : BitVec 24 ⊕ TrapInfo :=
  if o.num = 0 then
    match s.translate o.ea.toNat with
    | .error (st, k) => .inr (trapPage st k o.ea)
    | .ok e =>
      match rightsFault e .read with
      | some st => .inr (trapPage st 2 o.ea)
      | none => if e.sealed then .inr (trapSealed o.ea) else .inl e.fattr
  else
    let (attr, sealed, _) := s.pageAttr (capObject o.cap) (o.ea.toNat / 2 ^ 16)
    let d := mkDesc o.ea w extent o.num (wbits attr 3 0) 0
    let n := if dRowsIn d = 0 || dRowBytes d = 0 then 0 else (dRowsIn d - 1) * shStride w + dRowBytes d
    match capFault o.cap o.ea.toNat n [.r] with
    | some k => .inr (trapCap k o.ea)
    | none =>
      match s.objectFault o.cap (o.ea.toNat / 2 ^ 16) false with
      | some k => .inr (trapCap k o.ea)
      | none => if sealed then .inr (trapSealed o.ea) else .inl attr

/-- The lines a context pins (R179). -/
def Context.pinned (c : Context) : Nat := (c.tiles.toList.map (·.lines)).sum

/-- `tld` once its tile is EMPTY. -/
def State.loadTile (s : State) (t : TReg) (mem : TMem) (ss : SReg) : State :=
  let w := s.readS ss
  let ea := s.readS mem.base + mem.off.signExtend 64
  let extent := if shTrans w then s.readS (ss + 1) else 0
  let cap := s.readC mem.cap
  let enter := fun (d : BitVec 256) (x : TileEntry) => (s.writeT t d).mapCtx fun c =>
    { c.setTile t { x with op := some s.opId, fresh := true, cls := mem.cls, ser := c.entries } with entries := c.entries + 1 }
  if badShape ss w mem.cap then s.raise trapShape
  else if shRole w = 2 then enter (mkDesc ea w extent mem.cap (shFmt w) (shGrp w)) { TileEntry.none with st := .ready }
  else if shSph w then
    let fmt : Ty := BitVec.ofNat 4 (shFmt w)
    let (lo, hi) := tileProt ea.toNat w fmt (shGrp w)
    if !s.spBound lo (hi + 1 - lo) then s.raise (trapBound ea)
    else
      match badType w (BitVec.ofNat 24 (shFmt w + 16 * shGrp w + if shGrp w = 0 then 0 else 64)) ea with
      | some i => s.raise i
      | none =>
        if !s.spOwned lo (hi + 1 - lo) then s.block false
        else enter (mkDesc ea w extent mem.cap (shFmt w) (shGrp w)) { TileEntry.none with st := .ready, prot := some (lo, hi) }
  else
    match s.tileAttr ⟨.virt, mem.cap, cap, ea⟩ w extent with
    | .inr i => s.raise i
    | .inl attr =>
      match badType w attr ea with
      | some i => s.raise i
      | none =>
        let d := mkDesc ea w extent mem.cap (wbits attr 3 0) (wbits attr 5 4)
        let n := descLines d
        if s.ctx.pinned + n > 3072 then s.raise trapCapacity
        else enter d { TileEntry.none with st := .filling, filled := false, lines := n, cap := cap }

/-- `tld` waits while its tile is not EMPTY (R182, R278). -/
def execLTld (q : Pred) (t : TReg) (mem : TMem) (shape : SReg) (s : State) : Out :=
  s.under q fun s => if (s.ctx.tile t).st != .empty then s.block true else s.loadTile t mem shape

/-! ### Filling (R179, R181, R245) -/

/-- The operand through which a tile's bytes are read. -/
def tileOpd (d : BitVec 256) (x : TileEntry) : Opd := ⟨if shSph (dShape d) then .sp else .virt, dCap d, x.cap, dBase d⟩

/-- The side entries of a stored row's elements, each group's read once. -/
def State.sideRowEntries (s : State) (ser : Nat) (o : Opd) (fmt grp ea : Nat) (last : Option (Nat × Nat)) :
    List Nat → List Nat ⊕ PieceEnd
  | [] => .inl []
  | k :: l =>
    let a := ea + k * tyBits (BitVec.ofNat 4 fmt) / 8
    let gBytes := groupSize grp * tyBits (BitVec.ofNat 4 fmt) / 8
    let x : Nat ⊕ PieceEnd := match last with
      | some (g, x) => if g = a / gBytes then .inl x else s.sideEntry ser o fmt grp a
      | none => s.sideEntry ser o fmt grp a
    match x with
    | .inr e => .inr e
    | .inl x =>
      match State.sideRowEntries s ser o fmt grp ea (some (a / gBytes, x)) l with
      | .inr e => .inr e
      | .inl r => .inl (x :: r)

/-- One stored row of a fill: its bytes, +0 beyond the extent (R115), its elements' side entries, the places read. -/
def State.fillRow (s : State) (d : BitVec 256) (x : TileEntry) (r : Nat) :
    (List Byte × List Nat × List Place) ⊕ PieceEnd :=
  let o := tileOpd d x
  let full := rowBytes (dShape d) (dFmt d)
  let n := dRowBytes d
  let ea := ((dBase d).toNat + r * shStride (dShape d)) % 2 ^ 64
  if r ≥ dRowsIn d || n = 0 then .inl (List.replicate full 0, [], [])
  else
    match s.check { o with ea := BitVec.ofNat 64 ea } n .read [.r] 1 0 with
    | .trap i => .inr (.fault i)
    | .stall _ => .inr .wait
    | .ok ps xs =>
      if xs.any fun e => wbits e.fattr 3 0 != (dFmt d).toNat || wbits e.fattr 5 4 != dGrp d then .inr (.fault (trapFormat (BitVec.ofNat 64 ea)))
      else
        let b := sliceBytes (s.copyRead x.ser ps) 0 full
        if quantTy (dFmt d) then
          match s.sideRowEntries x.ser o (dFmt d).toNat (dGrp d) ea none (natRange 0 (shCols (dShape d))) with
          | .inr e => .inr e
          | .inl es => .inl (b, es, ps)
        else .inl (b, [], ps)

def State.fillRows (s : State) (d : BitVec 256) (x : TileEntry) :
    List Nat → (List (List Byte) × List (List Nat) × List Place) ⊕ PieceEnd
  | [] => .inl ([], [], [])
  | r :: l =>
    match s.fillRow d x r with
    | .inr e => .inr e
    | .inl (b, es, ps) =>
      match State.fillRows s d x l with
      | .inr e => .inr e
      | .inl (bs, ess, pss) => .inl (b :: bs, es :: ess, ps ++ pss)

/-- A tile register whose fill is under way. -/
def State.filling (s : State) (t : TReg) : Bool :=
  s.ctx.live && (s.ctx.tile t).st != .empty && !(s.ctx.tile t).filled

/-- A fill waits for the next checkpoint to commit: stores of its class that entered before it are withheld or held until then (R245). -/
def State.fillLater (s : State) (x : TileEntry) : Bool :=
  (s.ctx.buffer.any fun e => e.isStore && waitsFor (s.ctx.waitsOf x.cls x.ser) e.cls e.ser) || s.fillHeld x

/-- A fill reads no line before every access of its class that entered before its `tld` has performed, and those of a fence it stands after:
stores withheld or on their way, rows of a `tst`, other fills (R245). The writes of an X-slot command are not ordered before it (Table
10.4). -/
def State.fillWaits (s : State) (x : TileEntry) : Bool :=
  let ws := s.ctx.waitsOf x.cls x.ser
  s.fillLater x || (s.core.drains.any fun d => s.ourDrain d && waitsFor ws d.cls d.ser)
    || (s.underway.any fun y => s.sentByUs y && y.copy.isNone && waitsFor ws y.cls y.ser)
    || s.mustWait (ws.filter fun w => w.2.2) x.ser []

/-- What the fill of a tile gives; it sees the context's writes that entered before the `tld` (R239). -/
def State.fillTile (s : State) (t : TReg) : (List (List Byte) × List (List Nat) × List Place) ⊕ PieceEnd :=
  let x := s.ctx.tile t
  let d := s.ctx.regs.t[t.toNat]'t.isLt
  if s.fillWaits x then .inr .wait
  else match s.fillRows d x (natRange 0 (shRows (dShape d))) with
    | .inr (.fault i) => .inr (.fault (if i.code = 0x42 then { i with sub := 4 } else i))
    | r => r

/-- The pages of a capability-space tile and of its side arrays: a fill asks for read leases on them (R427). -/
def State.wantTile (s : State) (t : TReg) : State :=
  let x := s.ctx.tile t
  let d := s.ctx.regs.t[t.toNat]'t.isLt
  if dCap d = 0 || s.direct x.cap then s
  else
    let attr := (s.pageAttr (capObject x.cap) ((dBase d).toNat / 2 ^ 16)).1
    let rows := (natRange 0 (dRowsIn d)).flatMap fun r =>
      let a := (dBase d).toNat + r * shStride (dShape d)
      natRange (a / 2 ^ 16) ((a + dRowBytes d - 1) / 2 ^ 16 + 1 - a / 2 ^ 16)
    let pages := rows.foldl NatSet.add []
    let pages := if quantTy (dFmt d) then pages ++ pages.map fun p => p + wbits attr 21 6 else pages
    pages.foldl (fun s p => s.wantRead (capObject x.cap) p) s

/-- The fill pins the last line; while pages it needs are not there, it asks for them. -/
def execEvTileFillComplete (s : State) : Out :=
  let t := s.arg.tile
  .next (if !s.filling t then s
    else match s.fillTile t with
      | .inr (.fault _) => s
      | .inr _ => s.wantTile t
      | .inl (b, es, ps) =>
        let x := s.ctx.tile t
        let st := if x.st == .filling then (if x.retire then TileSt.retiring else .ready) else x.st
        (((s.mapCtx fun c => c.setTile t { x with st := st, filled := true, bytes := b, side := es }).noteLoad ps []).mapCtx fun c => c.noteSeen ((s.writeTimes ps).filter fun x => decide (0 < x.2))).settleTiles)

/-- A fault empties the tile and is a trap of the context, attributed to the `tld` (Table 8.4). -/
def execEvTileFillFault (s : State) : Out :=
  let t := s.arg.tile
  .next (if !s.filling t then s
    else match s.fillTile t with
      | .inr (.fault i) =>
        let op := (s.ctx.tile t).op.getD s.opId
        (s.mapCtx fun c => c.setTile t .none).report op i
      | _ => s)

/-! ### Accumulators (R183, R194) -/

/-- The scratchpad address of an accumulator's element (R30, R183). -/
def accAddr (n i j : Nat) : Nat := (1 + n / 2) * 2 ^ 16 + n % 2 * 0x8000 + 256 * i + 4 * j

def CoreSt.accGet (c : CoreSt) (n i j : Nat) : Nat := c.ram.le (accAddr n i j) 4
def CoreSt.accPut (c : CoreSt) (n i j v : Nat) : CoreSt := { c with ram := c.ram.putBytes (accAddr n i j) (leBytes 4 v), poison := c.poison.delRun (accAddr n i j) 4 }

/-- An element of an accumulator is poisoned (R418). -/
def CoreSt.accSpoilt (c : CoreSt) (n i j : Nat) : Bool := !c.poison.isEmpty && (natRange (accAddr n i j) 4).any c.poison.has

/-- The rules of R184 for one accumulator: ACC_BUSY while PENDING, and for a writer while DRAINING; a bank that is not the
context's yet makes the operation wait (R28). -/
def State.onAcc (s : State) (acc : AccReg) (writes : Bool) (f : State → State) : State :=
  if s.accPending acc.toNat || (writes && s.accDraining acc.toNat) then s.raise trapAccBusy
  else if !s.spOwned (accAddr acc.toNat 0 0) 0x8000 then s.block false else f s

def execVAccrd (q : Pred) (d : VReg) (acc : AccReg) (b : SReg) (m : KReg) (s : State) : Out :=
  s.under q fun s => s.onAcc acc false fun s =>
    let row := (s.readS b).toNat
    if row < 128 && (lanesOf (s.laneMask m)).any (s.core.accSpoilt acc.toNat row) then s.raise (trapData 0)
    else s.putElems 32 d m ((natRange 0 64).map fun l => if row < 128 then s.core.accGet acc.toNat row l else 0)

def execVAccwr (q : Pred) (d : VReg) (acc : AccReg) (b : SReg) (m : KReg) (s : State) : Out :=
  s.under q fun s => s.onAcc acc true fun s =>
    let row := (s.readS b).toNat
    if row < 128 then
      let v := s.readElems 32 d
      let l := s.laneMask m
      s.mapCore fun c => (lanesOf l).foldl (fun c i => c.accPut acc.toNat row i (v.getD i 0)) c
    else s

/-! ### Draining (R185, R279) -/

/-- Types a `tst` cannot write (Table 5.9). -/
def badDrainTy (fmt : Nat) : Bool := [3, 7, 13, 14, 15].elem fmt

/-- The bytes of a row: fp32 copied, else converted by the D tile's RM and SAT. -/
def State.drainRow (s : State) (acc : Nat) (w : Word) (fmt : Ty) (i : Nat) : List Byte :=
  (natRange 0 (shDepth w + 1)).flatMap fun j =>
    let x := s.core.accGet acc i j
    leBytes (tyBits fmt / 8) (if fmt.toNat = 12 then x else convert (shRm w) (shSat w) fmt 12 x)

/-- The places of every row, or what checking them meets: the first failing check in the order of R267, of the lowest row. -/
def State.drainPlaces (s : State) (o : Opd) (w : Word) (n : Nat) : List Nat → List (Word × List Place) ⊕ (TrapInfo ⊕ State)
  | [] => .inl []
  | i :: l =>
    let e := o.plus (i * shStride w)
    match s.check e n .write [.w] 1 0, State.drainPlaces s o w n l with
    | .trap t, .inr (.inl t') => .inr (.inl (if trapRank t' < trapRank t then t' else t))
    | .trap t, _ => .inr (.inl t)
    | _, .inr (.inl t) => .inr (.inl t)
    | .stall t, _ => .inr (.inr t)
    | .ok _ _, .inr r => .inr r
    | .ok ps _, .inl r => .inl ((e.ea, ps) :: r)

def farPlace : List Place → Bool
  | .pool _ _ :: _ => true
  | .home _ _ :: _ => true
  | .host _ :: _ => true
  | _ => false

/-- The destination type of a `tst`: the tile's, or the FMT of the page of its first byte. Rows in pages of another FMT take that type
too (DESIGN CHOICE, log 64). -/
def State.drainType (s : State) (o : Opd) (w : Word) (tfmt : Nat) : Ty ⊕ TrapInfo :=
  if shSph w then .inl (BitVec.ofNat 4 tfmt)
  else match s.opdAttr o with
    | .inl (a, _, _) => .inl (BitVec.ofNat 4 (wbits a 3 0))
    | .inr i => .inr i

/-- `tst` into the rectangle of a D tile: rows for package memory or scratchpad enter the withholding buffer; others stay in the
drain buffer until the next checkpoint commits. The destination type is checked last; where no type can be read, the rows' checks that come
first are those of fp32 rows (R267, log 31). -/
def State.drain (s : State) (acc : AccReg) (mem : TMem) (w : Word) (tfmt : Nat) : State :=
  let ea := s.readS mem.base + mem.off.signExtend 64
  let o : Opd := ⟨if shSph w then .sp else .virt, mem.cap, s.readC mem.cap, ea⟩
  let rowsOf := fun (fmt : Ty) => s.drainPlaces o w (((shDepth w + 1) * tyBits fmt + 7) / 8) (natRange 0 (shExt w + 1))
  match s.drainType o w tfmt with
  | .inr i => s.raise (match rowsOf 12 with | .inr (.inl t) => if trapRank t ≤ trapRank i then t else i | _ => i)
  | .inl fmt =>
    match rowsOf fmt with
    | .inr (.inl i) => s.raise i
    | .inr (.inr t) => if badDrainTy fmt.toNat then s.raise (trapFormat ea) else t.block false
    | .inl rows =>
      if badDrainTy fmt.toNat then s.raise (trapFormat ea)
      else if s.core.drains.length ≥ 2 then s.block false
      else if (natRange 0 (shExt w + 1)).any fun i => (natRange 0 (shDepth w + 1)).any (s.core.accSpoilt acc.toNat i) then s.raise (trapData ea)
      else
        let cells := rows.zipIdx.map fun ((a, ps), i) => (a, ps.zip ((s.drainRow acc.toNat w fmt i).map some))
        let isFar := fun (c : Word × List (Place × Option Byte)) => farPlace (c.2.map (·.1))
        let far := cells.filter isFar
        let dr : Drain := ⟨s.slotNum, s.opId, acc.toNat, true, !far.isEmpty, far.map (·.2), mem.cls, s.ctx.entries⟩
        let s := s.mapCore fun c => { c with drains := c.drains ++ [dr] }
        let s := if far.isEmpty then s else s.mapCtx fun c => { c with entries := c.entries + 1 }
        (cells.filter fun c => !isFar c).foldl (fun s (a, c) => s.withhold .store c a mem.cls 0) s

/-- `tst` (R184, R267, R279): the tile's state and shape, then the accumulator's state, then the destination's checks (DEDUCED, log 31). -/
def execLTst (q : Pred) (t : TReg) (acc : AccReg) (mem : TMem) (s : State) : Out :=
  s.under q fun s =>
    let d := s.readT t
    if (s.ctx.tile t).st != .ready then s.raise trapTileEmpty
    else if shRole (dShape d) != 2 || (shSph (dShape d) && mem.cap != 0) then s.raise trapShape
    else if s.accDraining acc.toNat && !s.accPending acc.toNat then s.block false
    else s.onAcc acc false fun s => s.drain acc mem (dShape d) (dFmt d).toNat

/-- The rows of a drain may be written: its checkpoint has committed, and what orders them after other accesses has let them go (R185,
R238, R239). -/
def State.drainReady (s : State) (d : Drain) : Bool :=
  !d.held && !s.mustWait (s.ctx.waitsOf d.cls d.ser) d.ser (d.rows.flatMap s.entryRuns)
    && (d.rows.all fun r => r.all fun c => !s.placeOut c.1 || s.placeLost c.1)

/-- A drain has read its accumulator: it is IDLE again; a far destination's rows are written once its checkpoint has committed. -/
def execEvAccDrainDone (s : State) : Out :=
  let mine := fun (d : Drain) => d.slot == s.slotNum
  .next (match s.core.drains.find? fun d => mine d && (d.reading || s.drainReady d) with
    | none => s
    | some d =>
      let rest := s.core.drains.filter (· != d)
      if d.reading then
        s.mapCore fun c => { c with drains := if d.rows.isEmpty then rest else { d with reading := false } :: rest }
      else d.rows.foldl (fun s r => s.performStore r d.cls) (s.mapCore fun c => { c with drains := rest }))

/-! ### `trel` and `tqry` (R280) -/

/-- Table 8.4: FILLING and READY become RETIRING, and EMPTY at once when no call holds the tile. -/
def State.retireTile (s : State) (t : TReg) : State :=
  let x := s.ctx.tile t
  if x.st == .filling || x.st == .ready then s.mapCtx fun c => c.setTile t { x with st := .retiring, fresh := true } else s

def execLTrel (q : Pred) (t : TReg) (s : State) : Out := s.under q fun s => (s.retireTile t).settleTiles

def tileCode : TileSt → Nat
  | .empty => 0 | .filling => 1 | .ready => 2 | .retiring => 3

/-- While a fill runs, the number of lines pinned so far is free (R280, Table 5.11). -/
def execLTqry (q : Pred) (t : TReg) (d : SReg) (s : State) : Out :=
  s.under q fun s =>
    let x := s.ctx.tile t
    let n := if x.filled then x.lines else Config.freeNat s.clock % (x.lines + 1)
    s.writeS d (BitVec.ofNat 64 (tileCode x.st + 256 * n))

end Sys2Proof.Machine
end

