-- ==== Sys2Proof/Machine/Flags.lean ====
section
/-! DEFINITION. Flags.lean: the conditions of compares, FPCTL's conditions and NONFINITE, and the least and greatest of two
encodings (R122, R123, R126, R129, R130, R131, R137). -/
namespace Sys2Proof.Machine

/-- Table 6.4. -/
def intCond {w : Nat} (cond : BitVec 3) (a b : BitVec w) : Bool :=
  match cond.toNat with
  | 0 => a == b
  | 1 => a != b
  | 2 => a.slt b
  | 3 => a.sle b
  | 4 => a.ult b
  | 5 => a.ule b
  | 6 => b.slt a
  | _ => b.sle a

/-- Table 6.4 as `vcmp` reads it: lt, le, gt and ge follow the signedness of T (R137). -/
def vecCond (signed : Bool) (w : Nat) (cond : BitVec 3) (a b : Nat) : Bool :=
  let x := intVal signed w a
  let y := intVal signed w b
  match cond.toNat with
  | 0 => x == y
  | 1 => x != y
  | 2 => decide (x < y)
  | 3 => decide (x ≤ y)
  | 4 => decide (a < b)
  | 5 => decide (a ≤ b)
  | 6 => decide (y < x)
  | _ => decide (y ≤ x)

/-- Table 6.6. -/
def fpCond (cond : BitVec 3) (a b : FVal) : Bool :=
  let un := a.isNan || b.isNan
  let c := a.cmp b
  match cond.toNat with
  | 0 => !un && c == 0
  | 1 => un || c != 0
  | 2 => !un && decide (c < 0)
  | 3 => !un && decide (c ≤ 0)
  | 4 => !un && decide (c > 0)
  | 5 => !un && decide (c ≥ 0)
  | 6 => un
  | _ => !un

/-- A result raises NONFINITE under FPCTL (Table 6.1), its operands being those given. -/
def fpBad (ctl : Word) (res : FVal) (ops : List FVal) : Bool :=
  let nan := res.isNan
  let inf := !nan && !res.isFin
  (inf && ctl.getLsbD 3) || (nan && ctl.getLsbD 2) || (inf && ctl.getLsbD 1 && ops.all FVal.isFin)
    || (nan && ctl.getLsbD 0 && ops.all fun o => !o.isNan)

/-- NONFINITE with the lowest offending element and its result (R123). -/
def trapNonfinite (elem result : Nat) : TrapInfo := { code := 0x30, elem := elem, data := BitVec.ofNat 64 result }

/-- `a` counts as less than `b` for min and max: −0 is less than +0 (R129). -/
def fpLess (f : Fmt) (a b : Nat) : Bool :=
  let x := f.decode a
  let y := f.decode b
  decide (x.cmp y < 0) || (x.cmp y == 0 && x.neg? && !y.neg?)

/-- The smaller operand bit for bit, the canonical NaN when either is a NaN (R129). -/
def Fmt.minBits (f : Fmt) (a b : Nat) : Nat :=
  if (f.decode a).isNan || (f.decode b).isNan then f.nan else if fpLess f b a then b else a
def Fmt.maxBits (f : Fmt) (a b : Nat) : Nat :=
  if (f.decode a).isNan || (f.decode b).isNan then f.nan else if fpLess f a b then b else a

/-- Table 6.7. -/
def Fmt.classBits (f : Fmt) (x : Nat) : Nat :=
  match f.decode x with
  | .nan => 2 ^ 8
  | .inf n => if n then 1 else 2 ^ 7
  | .fin n m _ _ =>
    if m = 0 then (if n then 2 ^ 3 else 2 ^ 4)
    else if m < 2 ^ f.fb then (if n then 2 ^ 2 else 2 ^ 5)
    else if n then 2 else 2 ^ 6

/-- A governed scalar result: written zero-extended, or NONFINITE (R119, R123). -/
def State.setF (s : State) (d : SReg) (res : Nat) (v : FVal) (ops : List FVal) : State :=
  if fpBad s.readFpctl v ops then s.raise (trapNonfinite 0 res) else s.writeS d (BitVec.ofNat 64 res)

/-- The first offending element among those that execute: results with their values' operands. -/
def firstBad (ctl : Word) (l : Word) (w : Nat) (f : Fmt) (res : List (Nat × List FVal)) : Option (Nat × Nat) :=
  (res.zipIdx.find? fun ((r, ops), i) => laneOn l w i && fpBad ctl (f.decode r) ops).map fun ((r, _), i) => (i, r)

/-- A governed element-wise instruction: it writes its executing elements, or nothing and raises NONFINITE (R123). -/
def State.putF (s : State) (t : Ty) (d : VReg) (m : KReg) (res : List (Nat × List FVal)) : State :=
  match firstBad s.readFpctl (s.laneMask m) (tyBits t) (fmtOf t) res with
  | some (i, r) => s.raise (trapNonfinite i r)
  | none => s.putElems (tyBits t) d m (res.map (·.1))

end Sys2Proof.Machine
end

