-- ==== Sys2Proof/Machine/Approx.lean ====
section
/-! DEFINITION. Approx.lean: the approximate functions of R139: their special values and exact results (Tables 6.9, 6.10), and
between those any value within the error bound, which `Config.approx` picks (log 9). -/
namespace Sys2Proof.Machine

/-- Fixed-point fraction bits of the reference values. -/
def fixBits : Nat := 256

/-- 2^(2⁻ⁱ) for i from `k` to `k + n − 1`, in fixed point, from the value before them. -/
def rootList : Nat → Nat → List Nat
  | 0, _ => []
  | n + 1, x => let r := isqrt (x * 2 ^ fixBits); r :: rootList n r

/-- 2^f for a fraction f of `fixBits` bits, in fixed point. -/
def exp2Fix (f : Nat) : Nat :=
  ((rootList fixBits (2 * 2 ^ fixBits)).zipIdx).foldl (fun acc (r, i) =>
    if f.testBit (fixBits - 1 - i) then acc * r / 2 ^ fixBits else acc) (2 ^ fixBits)

/-- Fraction bits of log₂ of a fixed-point value in [1, 2), highest first. -/
def log2Bits : Nat → Nat → Nat → Nat
  | 0, _, acc => acc
  | n + 1, x, acc =>
    let y := x * x / 2 ^ fixBits
    if y ≥ 2 * 2 ^ fixBits then log2Bits n (y / 2) (2 * acc + 1) else log2Bits n y (2 * acc)

/-- A magnitude with its sign. -/
def signed (neg : Bool) (m : Nat) : Int := if neg then -(m : Int) else m

/-- A reference value: sign, magnitude over 2^`e`, a part below. -/
def refVal (op : Nat) (neg : Bool) (m : Nat) (e : Int) : FVal :=
  let x : FVal := .fin neg m e false
  match op with
  | 0 => (FVal.fin false 1 0 false).div 80 x
  | 1 =>
    -- 1/√x as √(2^k / x), k even
    let len := Nat.log2 m + 1
    let q := 2 ^ (200 + 2 * len) / m
    let odd := decide (e % 2 ≠ 0)
    let q := if odd then q / 2 else q
    let e' := if odd then e - 1 else e
    .fin false (isqrt q) ((-(200 + 2 * len : Nat) - e') / 2) true
  | 2 =>
    -- floor and fraction of x
    let v : Int := if 0 ≤ e + fixBits then signed neg (m * 2 ^ (e + fixBits).toNat) else signed neg m / 2 ^ (-(e + fixBits)).toNat
    let n := v / 2 ^ fixBits
    .fin false (exp2Fix (v % 2 ^ fixBits).toNat) (n - fixBits) true
  | _ =>
    let len := Nat.log2 m
    let x := if len ≤ fixBits then m * 2 ^ (fixBits - len) else m / 2 ^ (len - fixBits)
    let fr := log2Bits 128 x 0
    let v : Int := (e + len) * 2 ^ 128 + fr
    ofInt v (-128) false

/-- The power of two that every value compared is a multiple of. -/
def approxLo : Int := -1024

/-- How many units of its last place a reference value may lie below the exact one: each of its steps rounds down. -/
def refSlack (op : Nat) (below : Bool) : Int :=
  match op with
  | 0 => if below then 1 else 0
  | 2 => 2 ^ 12
  | _ => 2

/-- One unit in the last place of fp32 at a value, over 2^lo. -/
def ulpAt (v : FVal) (lo : Int) : Int :=
  match v with
  | .fin _ m e _ =>
    2 ^ ((if m = 0 then -149 else max (e + Nat.log2 m - 23) (-149)) - lo).toNat
  | _ => 0

/-- The error bound of Table 6.9, over 2^lo. -/
def approxBound (op : Nat) (ref : FVal) (lo : Int) : Int :=
  match op with
  | 0 => ulpAt ref lo
  | 3 => max (2 * ulpAt ref lo) (2 ^ (-24 - lo).toNat)
  | _ => 2 * ulpAt ref lo

/-- A value lies within the bound of an exact value that is the reference or up to its slack beyond it; the bound is that at the end
nearer zero. -/
def approxOk (op : Nat) (ref v : FVal) : Bool :=
  match ref, v with
  | .fin n m e s, .fin n' m' e' _ =>
    let a := scaled n m e approxLo
    let w := refSlack op s * 2 ^ (e - approxLo).toNat
    let least := if n && op == 0 then a - w else a
    let x := scaled n' m' e' approxLo
    let b := approxBound op (if n && op == 3 then .fin n (m - (refSlack op s).toNat) e s else ref) approxLo
    decide (x ≤ least + b) && decide (least + w - b ≤ x)
  | _, _ => false

/-- x is a power of two: its exponent. -/
def powTwo (m : Nat) (e : Int) : Option Int := if m ≠ 0 ∧ m = 2 ^ Nat.log2 m then some (e + Nat.log2 m) else none

def fp32Of (v : FVal) : Nat := fp32.round 0 false v

/-- The exact results of Table 6.9. -/
def approxExact (op : Nat) (neg : Bool) (m : Nat) (e : Int) : Option Nat :=
  match op with
  | 0 => match powTwo m e with
    | some k => if -126 ≤ -k then some (fp32Of (.fin neg 1 (-k) false)) else none
    | none => none
  | 1 => match powTwo m e with
    | some k => if k % 2 = 0 then some (fp32Of (.fin false 1 (-k / 2) false)) else none
    | none => none
  | 2 =>
    let whole := decide (0 ≤ e) || decide (m % 2 ^ (-e).toNat = 0)
    let n : Int := if 0 ≤ e then (m : Int) * 2 ^ e.toNat else (m / 2 ^ (-e).toNat : Nat)
    let n := if neg then -n else n
    if whole && decide (-149 ≤ n) && decide (n ≤ 127) then some (fp32Of (.fin false 1 n false)) else none
  | _ => match powTwo m e with
    | some k => some (fp32Of (ofInt k 0 false))
    | none => none

/-- The functions 0 `vfrcp`, 1 `vfrsq`, 2 `vfexp2`, 3 `vflog2` of an fp32 encoding (R139). -/
def approx32 (op x : Nat) : Nat :=
  match op, fp32.decode x with
  | _, .nan => fp32.nan
  | 0, .inf n => if n then fp32.signBit else 0
  | 1, .inf n => if n then fp32.nan else 0
  | 2, .inf n => if n then 0 else fp32.infOf false false
  | _, .inf n => if n then fp32.nan else fp32.infOf false false
  | op, .fin neg m e _ =>
    if m = 0 then
      match op with
      | 2 => fp32Of (.fin false 1 0 false)
      | 3 => fp32.infOf true false
      | _ => fp32.infOf neg false
    else if neg && (op == 1 || op == 3) then fp32.nan
    else
      match approxExact op neg m e with
      | some r => r
      | none =>
        let huge := op == 2 && decide (e + Nat.log2 m ≥ 9)
        if huge && !neg then fp32.infOf false false
        else
          let ref := if huge then .fin false 0 (-524) true else refVal op neg m e
          let near := fp32Of ref
          if (fp32.decode near).isFin && approxOk op ref (fp32.decode (Config.approx op 12 x)) then Config.approx op 12 x % 2 ^ 32 else near

/-- For fp16 and bf16: widened exactly, then rounded to T by RNE (R139). -/
def approxElem (op : Nat) (t : Ty) (x : Nat) : Nat :=
  if t.toNat = 12 then approx32 op x
  else (fmtOf t).round 0 false (fp32.decode (approx32 op (fp32.round 0 false ((fmtOf t).decode x))))

end Sys2Proof.Machine
end

