-- ==== Sys2Proof/Machine/VectorFp.lean ====
section
/-! DEFINITION. VectorFp.lean: the meanings of the vector floating-point instructions and the floating reductions and scans
(R138, R139, R145). -/
namespace Sys2Proof.Machine

/-- A governed element-wise instruction over lists of operands (R123, R138). -/
def State.fmap (s : State) (q : Pred) (d : VReg) (t : Ty) (m : KReg) (ins : State → List (List Nat)) (f : List Nat → Nat) : Out :=
  s.under q fun s => s.putF t d m ((ins s).map fun xs => (f xs, xs.map (fmtOf t).decode))

/-- The operand lists of va; of va and b; of va, b and vc. -/
def State.ins1 (s : State) (t : Ty) (a : VReg) : List (List Nat) := (s.readElems (tyBits t) a).map fun x => [x]
def State.ins2 (s : State) (t : Ty) (a : VReg) (b : VSrc) : List (List Nat) :=
  List.zipWith (fun x y => [x, y]) (s.readElems (tyBits t) a) (s.operandB t b)
def State.ins3 (s : State) (t : Ty) (a : VReg) (b : VSrc) (c : VReg) : List (List Nat) :=
  List.zipWith (fun l z => l ++ [z]) (s.ins2 t a b) (s.readElems (tyBits t) c)

def fpTwo (f : Nat → Nat → Nat) : List Nat → Nat
  | [x, y] => f x y
  | _ => 0

/-- a × b − c, rounded once. -/
def Fmt.fmsBits (f : Fmt) (rm : Rm) (x y z : Nat) : Nat :=
  f.round rm false (((f.decode x).mul (f.decode y)).add rm (f.decode z).negate)

def execVFadd (q : Pred) (d a : VReg) (b : VSrc) (t : Ty) (m : KReg) (rm : Rm) (s : State) : Out :=
  s.fmap q d t m (fun s => s.ins2 t a b) (fpTwo ((fmtOf t).addBits rm))
def execVFsub (q : Pred) (d a : VReg) (b : VSrc) (t : Ty) (m : KReg) (rm : Rm) (s : State) : Out :=
  s.fmap q d t m (fun s => s.ins2 t a b) (fpTwo ((fmtOf t).subBits rm))
def execVFmul (q : Pred) (d a : VReg) (b : VSrc) (t : Ty) (m : KReg) (rm : Rm) (s : State) : Out :=
  s.fmap q d t m (fun s => s.ins2 t a b) (fpTwo ((fmtOf t).mulBits rm))
def execVFma (q : Pred) (d a : VReg) (b : VSrc) (c : VReg) (t : Ty) (m : KReg) (rm : Rm) (s : State) : Out :=
  s.fmap q d t m (fun s => s.ins3 t a b c) fun | [x, y, z] => (fmtOf t).fmaBits rm x y z | _ => 0
def execVFms (q : Pred) (d a : VReg) (b : VSrc) (c : VReg) (t : Ty) (m : KReg) (rm : Rm) (s : State) : Out :=
  s.fmap q d t m (fun s => s.ins3 t a b c) fun | [x, y, z] => (fmtOf t).fmsBits rm x y z | _ => 0
def execVFmin (q : Pred) (d a : VReg) (b : VSrc) (t : Ty) (m : KReg) (s : State) : Out :=
  s.fmap q d t m (fun s => s.ins2 t a b) (fpTwo (fmtOf t).minBits)
def execVFmax (q : Pred) (d a : VReg) (b : VSrc) (t : Ty) (m : KReg) (s : State) : Out :=
  s.fmap q d t m (fun s => s.ins2 t a b) (fpTwo (fmtOf t).maxBits)

def State.approxOp (s : State) (op : Nat) (q : Pred) (d a : VReg) (t : Ty) (m : KReg) : Out :=
  s.fmap q d t m (fun s => s.ins1 t a) fun | [x] => approxElem op t x | _ => 0

def execVFrcp (q : Pred) (d a : VReg) (t : Ty) (m : KReg) (s : State) : Out := s.approxOp 0 q d a t m
def execVFrsq (q : Pred) (d a : VReg) (t : Ty) (m : KReg) (s : State) : Out := s.approxOp 1 q d a t m
def execVFexp2 (q : Pred) (d a : VReg) (t : Ty) (m : KReg) (s : State) : Out := s.approxOp 2 q d a t m
def execVFlog2 (q : Pred) (d a : VReg) (t : Ty) (m : KReg) (s : State) : Out := s.approxOp 3 q d a t m

def execVFcmp (q : Pred) (d : KReg) (a : VReg) (b : VSrc) (t : Ty) (m : KReg) (combine : Bool) (cond : BitVec 3) (s : State) : Out :=
  s.under q fun s =>
    let f := fmtOf t
    let holds := List.zipWith (fun x y => fpCond cond (f.decode x) (f.decode y)) (s.readElems (tyBits t) a) (s.operandB t b)
    let l := s.laneMask m
    s.writeK d (laneBits l fun i =>
      let h := laneElems (tyBits t) holds i
      if combine then h.any id else h.all id)

def execVFclass (q : Pred) (d a : VReg) (t : Ty) (m : KReg) (s : State) : Out := s.map1 q d a t m (fmtOf t).classBits

/-- `vfabs` clears and `vfneg` flips bit w − 1 and nothing else (R138). -/
def execVFabs (q : Pred) (d a : VReg) (t : Ty) (m : KReg) (s : State) : Out :=
  s.map1 q d a t m fun x => x % 2 ^ (tyBits t - 1)
def execVFneg (q : Pred) (d a : VReg) (t : Ty) (m : KReg) (s : State) : Out :=
  s.map1 q d a t m fun x => x ^^^ 2 ^ (tyBits t - 1)

/-! ### The reduction tree (R145) -/

/-- Combine two nodes; an absent one passes the other through. -/
def joinNodes (f : Nat → Nat → Nat) : Option Nat → Option Nat → Option Nat
  | none, b => b
  | a, none => a
  | some a, some b => some (f a b)

/-- The next level of the tree. -/
def pairUp (f : Nat → Nat → Nat) : List (Option Nat) → List (Option Nat)
  | a :: b :: l => joinNodes f a b :: pairUp f l
  | l => l

/-- Levels 0 to n of the tree. -/
def treeLevels (f : Nat → Nat → Nat) : Nat → List (Option Nat) → List (List (Option Nat))
  | 0, l => [l]
  | n + 1, l => l :: treeLevels f n (pairUp f l)

/-- Operation codes 0 add, 1 min, 2 max on fp32. -/
def fredOp (rm : Rm) (op : BitVec 3) : Nat → Nat → Nat :=
  match op.toNat with
  | 0 => fp32.addBits rm
  | 1 => fp32.minBits
  | _ => fp32.maxBits

/-- What no active element gives: +0, +∞, −∞. -/
def fredEmpty (t : Ty) (op : BitVec 3) : Nat :=
  match op.toNat with
  | 0 => 0
  | 1 => (fmtOf t).infOf false false
  | _ => (fmtOf t).infOf true false

/-- Round a node to T by RM. -/
def nodeResult (t : Ty) (rm : Rm) (op : BitVec 3) : Option Nat → Nat
  | none => fredEmpty t op
  | some x => (fmtOf t).round rm false (fp32.decode x)

/-- Active elements widened to fp32, the others absent. -/
def leaves (t : Ty) (l : Word) (xs : List Nat) : List (Option Nat) :=
  xs.zipIdx.map fun (x, i) => if laneOn l (tyBits t) i then some (fp32.round 0 false ((fmtOf t).decode x)) else none

/-- The blocks that tile elements 0 to i, from the largest (R145). -/
def prefixNode (f : Nat → Nat → Nat) (levels : List (List (Option Nat))) (n : Nat) : Nat → Nat → Option Nat → Option Nat
  | 0, pos, y => if n.testBit 0 then joinNodes f y ((levels.getD 0 []).getD pos none) else y
  | l + 1, pos, y =>
    if n.testBit (l + 1) then
      prefixNode f levels n l (pos + 2 ^ (l + 1)) (joinNodes f y ((levels.getD (l + 1) []).getD (pos / 2 ^ (l + 1)) none))
    else prefixNode f levels n l pos y

/-- Levels above the leaves: 6 for 64 elements, 7 for 128. -/
def treeDepth (t : Ty) : Nat := if tyBits t = 32 then 6 else 7

/-- `vfred` (R145). The infinity that min or max writes when every element is masked off has no operand that is not finite, so FPCTL
INFNEW traps it as a new one (DESIGN CHOICE, log 68). -/
def execVFred (q : Pred) (d a : VReg) (t : Ty) (m : KReg) (rm : Rm) (op : BitVec 3) (s : State) : Out :=
  s.under q fun s =>
    let xs := leaves t (s.laneMask m) (s.readElems (tyBits t) a)
    let root := ((treeLevels (fredOp rm op) (treeDepth t) xs).getD (treeDepth t) []).getD 0 none
    let r := nodeResult t rm op root
    if fpBad s.readFpctl ((fmtOf t).decode r) (xs.filterMap fun x => x.map fp32.decode) then s.raise (trapNonfinite 0 r)
    else s.writeElems (tyBits t) d (r :: List.replicate (elemCount (tyBits t) - 1) 0)

def execVFscan (q : Pred) (d a : VReg) (t : Ty) (m : KReg) (rm : Rm) (op : BitVec 3) (s : State) : Out :=
  s.under q fun s =>
    let xs := leaves t (s.laneMask m) (s.readElems (tyBits t) a)
    let f := fredOp rm op
    let levels := treeLevels f (treeDepth t) xs
    let res := (natRange 0 (elemCount (tyBits t))).map fun i =>
      (nodeResult t rm op (prefixNode f levels (i + 1) 7 0 none), (xs.take (i + 1)).filterMap fun x => x.map fp32.decode)
    s.putF t d m res

end Sys2Proof.Machine
end

