-- ==== Sys2Proof/Machine/Matrix.lean ====
section
/-! DEFINITION. Matrix.lean: the meanings of the M-slot operations: calls and batches, `mzero`, `mprog`, `sbuild` and `sstat`
(R186 to R193, R201, R211, R212, R215, R223, R408 to R410). -/
namespace Sys2Proof.Machine

def trapMcall (sub : Nat) (elem : Nat := 0) : TrapInfo := { code := 0x25, sub := sub, elem := elem }
def trapMprog : TrapInfo := { code := 0x08 }
def trapSifter : TrapInfo := { code := 0x26 }
def trapResume : TrapInfo := { code := 0x27 }

/-! ### Records (R187, R189, R190) -/

/-- The MC field of a call, at its MC positions (Table 3.9); zero outside its own fields for `mzero`. -/
def callWord (routine : BitVec 8) (acc : AccReg) (countM1 : BitVec 6) (batch : BitVec 2) (use : BitVec 8) (mode : BitVec 5) : BitVec 52 :=
  BitVec.ofNat 52 (routine.toNat * 2 ^ 44 + acc.toNat * 2 ^ 38 + countM1.toNat * 2 ^ 32 + batch.toNat * 2 ^ 30 + use.toNat * 2 ^ 22 + mode.toNat)

/-- Records this core's queue holds: its own waiting and running ones (Table 8.5). One handed to another core's engine is not counted, so
its return can bring the queue to nine: the manual does not say (DESIGN CHOICE, log 80). -/
def State.queued (s : State) : Nat :=
  ((s.core.run.map (·.mrec)).toList ++ s.core.engine).countP fun r => r.home == s.coreNum

/-- The bits of a tile word for one tile: its number, or none (R187). -/
def tileNo (tw : Word) (b : Bool) : Option TReg :=
  let w := if b then tw >>> 8 else tw
  if w.getLsbD 7 then none else some (w.truncate 5)

/-- A record as the M slot builds it, before the resume table is consulted. -/
def State.newRecord (s : State) (zero : Bool) (w : BitVec 52) (mp : List Word) (a b : Option TReg) : MRecord :=
  let desc := fun (t : Option TReg) => match t with | some t => s.readT t | none => 0
  let batch := wbits w 31 30
  { zero := zero, word0 := w, mp := mp, tileA := a, tileB := b, descA := desc a, descB := desc b,
    snapA := .none, snapB := .none, serial := s.ctx.serial,
    seed := if s.readSys 0x009 = 0 then Config.entropy s.clock else s.readSys 0x009,
    op := s.opId, slot := s.slotNum, home := s.coreNum, migrated := false,
    waited := decide (0 < s.queued),
    accOff := 0, mtMask := 0, status := 0, gen := s.ctx.batchSeq.toList.getD batch 0, since := s.ctx.commits,
    res := 0x7F80000050000000, born := s.clock, ser := s.ctx.entries, view := none, tests := [] }

/-- A SAMPLE call's completion writes mp7, and is the last one `sstat` sees (R222, R223). -/
def State.sampleDone (s : State) (r : MRecord) : State :=
  if r.reads then
    { s with ctx := { s.ctx with sampRes := r.res, regs := { s.ctx.regs with mp := s.ctx.regs.mp.set 7 r.res } } }
  else s

/-- A record's completion may write mp7: operations of its bundle that name mp7 have dispatched, and SAMPLE calls before it have ended
(R36, R222). -/
def State.mp7Free (s : State) (r : MRecord) : Bool :=
  !r.reads || ((s.ctx.queue.all fun p => p.id.seq != r.op.seq || !meets [.mp 7] (opReads p.instr ++ opWrites p.instr))
    && s.records.all fun x => !x.reads || decide (r.ser ≤ x.ser))

/-- Queue a record (R187, R410): it resumes by its entry of the resume table, completes at once when that is COMPLETE, and is not
queued when the hashes differ. -/
def State.queueRecord (s : State) (r : MRecord) (last : List TReg) : State :=
  let enter := fun (s : State) => last.foldl State.retireTile (s.mapCtx fun c => { c with serial := c.serial + 1, entries := c.entries + 1 })
  match s.ctx.resume.find? (·.serial == r.serial) with
  | none => (enter s).mapCore fun c => { c with engine := c.engine ++ [r] }
  | some e =>
    if e.hash != r.hash then s.raise trapResume
    else if e.complete && !s.mp7Free r then s.block false
    else
      let r := { r with accOff := e.accOff, mtMask := e.mtMask, status := e.status, seed := e.seed, res := e.res, view := e.view,
                        tests := e.tests }
      let s := enter s
      if e.complete then ((s.batchStatus r e.status).sampleDone r).settleTiles
      else s.mapCore fun c => { c with engine := c.engine ++ [r] }

/-- The banks of the accumulators from one on belong to the context (R28). -/
def State.accOwned (s : State) (acc : AccReg) (countM1 : BitVec 6) : Bool :=
  (natRange acc.toNat (countM1.toNat + 1)).all fun n => s.spOwned (accAddr n 0 0) 0x8000

/-- A tile a call names: TILE_EMPTY, or MCALL_FAULT with subcode ROLE (R187). -/
def State.callTile (s : State) (t : Option TReg) (role : Nat) : Option TrapInfo :=
  match t with
  | none => none
  | some t =>
    let st := (s.ctx.tile t).st
    if st == .empty || st == .retiring then some trapTileEmpty
    else if shRole (dShape (s.readT t)) != role then some (trapMcall 6) else none

/-- `mcall` (R187): it waits while the queue holds 8 records. -/
def State.call (s : State) (routine : BitVec 8) (acc : AccReg) (countM1 : BitVec 6) (batch : BitVec 2) (use : BitVec 8) (mode : BitVec 5) :
    State :=
  if s.queued ≥ 8 || !s.accOwned acc countM1 then s.block false
  else
    let mp := (natRange 0 8).map fun i => if use.getLsbD i then s.readMp (BitVec.ofNat 3 i) else 0
    let tw := if use.getLsbD 0 then mp.headD 0 else 0x8080
    if wbits tw 6 5 != 0 || wbits tw 14 13 != 0 then s.raise (trapMcall 1)
    else
      let a := tileNo tw false
      let b := tileNo tw true
      match (s.callTile a 0).or (s.callTile b 1) with
      | some i => s.raise i
      | none =>
        let last := (if mode.getLsbD 3 then a.toList else []) ++ (if mode.getLsbD 4 then b.toList else [])
        s.queueRecord (s.newRecord false (callWord routine acc countM1 batch use mode) mp a b) last

def execMCall (q : Pred) (routine : BitVec 8) (acc : AccReg) (countM1 : BitVec 6) (batch : BitVec 2) (use : BitVec 8) (mode : BitVec 5)
    (s : State) : Out :=
  s.under q fun s => s.call routine acc countM1 batch use mode

def execMZero (q : Pred) (acc : AccReg) (countM1 : BitVec 6) (s : State) : Out :=
  s.under q fun s =>
    if s.queued ≥ 8 || !s.accOwned acc countM1 then s.block false
    else s.queueRecord (s.newRecord true (callWord 0 acc countM1 0 0 0) (List.replicate 8 0) none none) []

def execMCommit (q : Pred) (batch : BitVec 2) (s : State) : Out :=
  s.under q fun s => s.mapCtx fun c => { c with
    batch := Vector.ofFn fun i => if i.val = batch.toNat then 0 else c.batch[i]
    batchSeq := Vector.ofFn fun i => if i.val = batch.toNat then c.batchSeq[i] + 1 else c.batchSeq[i] }

/-- Unfinished calls of a batch. -/
def State.openCalls (s : State) (batch : BitVec 2) : Nat := (s.records.filter fun r => !r.zero && r.batch == batch.toNat).length

def execMWait (q : Pred) (batch : BitVec 2) (s : State) : Out :=
  s.under q fun s => if s.openCalls batch = 0 then s else s.block false

/-- Table 8.5. -/
def execMStat (q : Pred) (d : SReg) (batch : BitVec 2) (s : State) : Out :=
  s.under q fun s => s.writeS d (BitVec.ofNat 64
    (s.ctx.serial * 2 ^ 32 + (s.ctx.batch.toList.getD batch.toNat 0).toNat * 2 ^ 16 + s.queued * 2 ^ 8 + s.openCalls batch))

/-! ### The microprogram store (R191, R192, R201) -/

/-- The word at a region address; one never loaded reads as `mend`. -/
def MicroStore.word (m : MicroStore) (a : Nat) : Instr :=
  match m.words.find? (·.1 == a) with
  | none => .uMend
  | some (_, w) => match decodeMicro w with | .ok i => i | _ => .uMend

def offset16 (o : BitVec 16) (a : Nat) : Int := (a : Int) + o.toInt

/-- Where a branch or a loop of a word leads. -/
def microTarget (a : Nat) : Instr → Option Int
  | .uPbr _ _ _ off => some (offset16 off a)
  | .uStoptest off => some (offset16 off a)
  | .uMloop _ _ off => some (a + off.toNat : Nat)
  | _ => none

/-- Words a `skipz` may not skip: `macq`, `fold` and the control words. -/
def unskippable : Instr → Bool
  | .uMacq => true | .uFold => true | .uPbr _ _ _ _ => true | .uMloop _ _ _ => true | .uStoptest _ => true | .uMend => true
  | _ => false

/-- The words that end an `mloop` body. -/
def MicroStore.loopEnds (m : MicroStore) : List Nat :=
  m.words.filterMap fun (a, _) => match m.word a with | .uMloop _ _ off => some (a + off.toNat) | _ => none

/-- A word within a `skipz` that breaks R201. -/
def MicroStore.badSkipped (m : MicroStore) (ends : List Nat) (a : Nat) : Bool :=
  decide (m.region ≤ a) || unskippable (m.word a) || ends.elem a

/-- What `mprog` rejects about words first to first + count − 1 of the store as it will stand. -/
def MicroStore.badLoad (m : MicroStore) (first count : Nat) : Bool :=
  let ends := m.loopEnds
  ((natRange first count).any fun a =>
    (match microTarget a (m.word a) with | some t => decide (t < 0) || decide ((m.region : Int) ≤ t) | none => false)
    || (match m.word a with | .uSkipz _ n => (natRange (a + 1) n.toNat).any (m.badSkipped ends) | _ => false))
  || (m.words.any fun (a, _) => match m.word a with
      | .uSkipz _ n => (natRange (a + 1) n.toNat).any fun x => decide (first ≤ x) && decide (x < first + count) && m.badSkipped ends x
      | _ => false)

def MicroStore.load (m : MicroStore) (first : Nat) (ws : List Word) (entry : Option Nat) : MicroStore :=
  { m with words := (ws.zipIdx).foldl (fun l (w, i) => tabSet l (first + i) w) m.words
           entries := match entry with | some e => tabSet m.entries e (first, ws.length) | none => m.entries
           bad := m.bad.delRun first ws.length }

/-- The words `mprog` read, as 64-bit words. -/
def microWords : Nat → List Byte → List Word
  | 0, _ => []
  | n + 1, d => BitVec.ofNat 64 (leNat (d.take 8)) :: microWords n (d.drop 8)

/-- `mprog` once every earlier call of the context has completed. -/
def State.mprog (s : State) (sa sb : Word) : State :=
  let first := wbits sb 9 0
  let count := wbits sb 26 16
  if wbits sb 54 27 != 0 || wbits sb 15 10 != 0 || count = 0 || first + count > s.ctx.micro.region then s.raise trapMprog
  else
    s.onGot 8 (s.got ⟨.virt, 0, 0, sa⟩ (8 * count) 1 0 (some 0)) fun s d =>
      let ws := microWords count d
      let m := s.ctx.micro.load first ws (if sb.getLsbD 55 then some (wbits sb 63 56) else none)
      if (ws.any fun w => match decodeMicro w with | .ok _ => false | _ => true) || m.badLoad first count then s.raise trapMprog
      else s.mapCtx fun c => { c with micro := m }

def execMProg (q : Pred) (a b : SReg) (s : State) : Out :=
  s.under q fun s => if s.records.any (fun r => !r.zero) then s.block false else s.mprog (s.readS a) (s.readS b)

/-! ### Building the alias table (R211, R212) -/

/-- Add and round to fp32 by RNE, and the other roundings R212 names. -/
def add32 (a b : Nat) : Nat := fp32.addBits 0 a b
def mul32 (a b : Nat) : Nat := fp32.mulBits 0 a b
def div32 (a b : Nat) : Nat := fp32.divBits 0 a b
def sqrt32 (a : Nat) : Nat := fp32.sqrtBits 0 a
/-- An integer in fp32. -/
def nat32 (n : Nat) : Nat := fp32.round 0 false (ofInt n 0 false)
def less32 (a b : Nat) : Bool := fpCond 2 (fp32.decode a) (fp32.decode b)
def isZero32 (a : Nat) : Bool := (fp32.decode a).isZero

/-- NaN, infinite or below −0. -/
def badNorm (x : Nat) : Bool := match fp32.decode x with | .fin n m _ _ => n && m != 0 | _ => true

/-- The root of the tree of R145 over any number of leaves. -/
def treeRoot (f : Nat → Nat → Nat) : Nat → List (Option Nat) → Nat
  | 0, l => (l.headD none).getD 0
  | n + 1, l => treeRoot f n (pairUp f l)

/-- One round of Vose's method for each unit of fuel: `small` and `large` with the current q of each category. -/
def vose : Nat → List (Nat × Nat) → List (Nat × Nat) → List (Nat × Nat) → List (Nat × Nat) × List Nat
  | n + 1, (l, ql) :: small, (g, qg) :: large, out =>
    let q := fp32.round 0 false (((fp32.decode qg).add 0 (fp32.decode 0xBF800000)).add 0 (fp32.decode ql))
    let out := (l, g * 2 ^ 32 + ql) :: out
    if less32 q 0x3F800000 then vose n (small ++ [(g, q)]) large out else vose n small (large ++ [(g, q)]) out
  | _, small, large, out => (out, (small ++ large).map (·.1))

/-- The lowest category of greatest weight. -/
def heaviest (ws : List Nat) : Nat :=
  (ws.zipIdx.foldl (fun (b : Nat × Nat) (w, k) => if less32 b.1 w then (w, k) else b) (ws.headD 0, 0)).2

/-- Entries, probabilities and status of R212. -/
def aliasTable (nA nB : List Nat) : List Nat × List Nat × Nat :=
  let n := nA.length
  let w := List.zipWith (fun a b => sqrt32 (mul32 a b)) nA nB
  let sum := treeRoot add32 17 (w.map some)
  let bad := nA.any badNorm || nB.any badNorm || sum == 0x7F800000
  if bad then (List.replicate n (2 * 2 ^ 48), List.replicate n 0, 4)
  else if isZero32 sum then (List.replicate n (2 ^ 48), List.replicate n 0, 3)
  else
    let p := w.map fun x => div32 x sum
    let drop := p.map fun x => less32 x 0x00800000
    let p := List.zipWith (fun x d => if d then 0 else x) p drop
    let w := List.zipWith (fun x d => if d then 0 else x) w drop
    let q := (w.map fun x => div32 (mul32 x (nat32 n)) sum).zipIdx.map fun (x, k) => (k, x)
    let (made, left) := vose n (q.filter fun x => less32 x.2 0x3F800000) (q.filter fun x => !less32 x.2 0x3F800000) []
    let m := heaviest w
    let made := made ++ left.map fun k => (k, if isZero32 (w.getD k 0) then m * 2 ^ 32 else k * 2 ^ 32 + 0x3F800000)
    ((natRange 0 n).map fun k => ((made.find? (·.1 == k)).map (·.2)).getD 0, p, if drop.any id then 2 else 1)

/-- fp32 values in scratchpad as the context's loads see them (R227). -/
def State.spWords (s : State) (a n : Nat) : List Nat :=
  (cut4 n (s.copyRead s.ctx.entries ((natRange a (4 * n)).map .sram))).map leNat

/-- Engine writes to the context's scratchpad (R226), after the writes that entered before a place in entry order. -/
def State.spWrite (s : State) (ser a : Nat) (d : List Byte) : State :=
  let ps := (natRange a d.length).map Place.sram
  (s.supersede ser ps).engineCells (ps.zip (d.map some))

/-- `sbuild` waits for accesses of the same bytes that entered before it, and for what a fence or a SAMPLE call's reads put before it
(R239, R241, R242). -/
def State.sbuildWaits (s : State) (a b n : Nat) : Bool :=
  s.mustWait ((s.ctx.waitsOf 0 s.ctx.entries).filter fun w => w.2.2) s.ctx.entries [(.sram a, 8 * n), (.sram b, 12 * n)] false

def State.sbuild (s : State) (sa sb sc : Word) : State :=
  let a := sa.toNat / 4 * 4
  let b := sb.toNat / 8 * 8
  let n := sc.toNat
  if n = 0 || n > 65536 then s.raise trapSifter
  else if !s.spBound a (8 * n) then s.raise (trapBound (BitVec.ofNat 64 a))
  else if !s.spBound b (12 * n) then s.raise (trapBound (BitVec.ofNat 64 b))
  else if s.overwrites b (12 * n) then s.raise (trapOverwrite (BitVec.ofNat 64 b))
  else if !s.spOwned a (8 * n) || !s.spOwned b (12 * n) || s.sbuildWaits a b n then s.block false
  else if (natRange a (8 * n)).any fun x => s.spoiltAt (.sram x) then s.raise (trapData (BitVec.ofNat 64 a))
  else
    let (es, ps, st) := aliasTable (s.spWords a n) (s.spWords (a + 4 * n) n)
    (s.spWrite s.ctx.entries b (es.flatMap (leBytes 8) ++ ps.flatMap (leBytes 4))).mapCtx fun c =>
      { c with sampBuild := BitVec.ofNat 64 st, entries := c.entries + 1 }

def execMSbuild (q : Pred) (a b c : SReg) (s : State) : Out := s.under q fun s => s.sbuild (s.readS a) (s.readS b) (s.readS c)

/-- `sstat` waits for every earlier SAMPLE call of its context (R223). -/
def execMSstat (q : Pred) (d : SReg) (s : State) : Out :=
  s.under q fun s =>
    if s.records.any fun r => r.sample && !r.zero then s.block false
    else s.writeS d (s.ctx.sampRes + s.ctx.sampBuild * 2 ^ 24)

end Sys2Proof.Machine
end

