-- ==== Sys2Proof/Machine/Engine.lean ====
section
/-! DEFINITION. Engine.lean: what the micro-operations work on: the tiles of a record as values, the cells of a micro-tile, the
run of a routine with its cycles, windows and loops (R174, R177, R179, R195 to R202). -/
namespace Sys2Proof.Machine

/-! ### The record's home -/

/-- The state with a record's home context in focus (R204). -/
def State.homeOf (s : State) (r : MRecord) : State := s.focus r.home r.slot

/-- The scratchpad as a SAMPLE call reads it: with the context's writes that entered before the call (R227). Its reads perform together,
as it starts (DEDUCED, log 65). -/
def State.sramView (h : State) (ser : Nat) : Memory :=
  (h.ownBefore ser).foldl (fun m e => if !e.act.forwards then m else e.cells.foldl (fun m c =>
    match h.canon c.1, c.2 with
    | .sram a, some b => m.put a b
    | _, _ => m) m) h.core.ram

/-- Bytes of the home's scratchpad as the record reads them (R180, R227). -/
def State.recBytes (h : State) (r : MRecord) (a n : Nat) : List Byte :=
  match r.view with
  | some v => v.bytes a n
  | none => h.copyRead r.ser ((natRange a n).map .sram)

/-! ### Tiles as values -/

/-- A tile as a call reads it: its type and group code, rows of A or columns of B, depth, stored rows, and the side entries of
their elements. -/
structure TileView where
  base  : Nat
  shape : Word
  bad   : NatSet                      -- poisoned bytes of the scratchpad it is read from (R418)
  fmt   : Ty
  grp   : Nat
  outer : Nat
  depth : Nat
  kin   : Bool
  rows  : List (List Byte)
  side  : List (List Nat)

/-- Stored row and index of element (o, k) (Table 8.2). -/
def TileView.at_ (v : TileView) (o k : Nat) : Nat × Nat := if v.kin then (o, k) else (k, o)

def TileView.code (v : TileView) (o k : Nat) : Nat :=
  let (r, i) := v.at_ o k
  let w := tyBits v.fmt
  (leNat (sliceBytes (v.rows.getD r []) (i * w / 8) ((w + 7) / 8)) >>> (i * w % 8)) % 2 ^ w

/-- The side entry of an element's group; scale 1.0 and zero point 0 where the type has none (R196). -/
def TileView.entry (v : TileView) (o k : Nat) : Nat :=
  if quantTy v.fmt then (let (r, i) := v.at_ o k; (v.side.getD r []).getD i 0) else 0x3C00
def TileView.scale (v : TileView) (o k : Nat) : Nat := v.entry o k % 2 ^ 16
def TileView.zero (v : TileView) (o k : Nat) : Nat := if quantTy v.fmt then bits (v.entry o k) 23 16 else 0

/-- A reserved bit of a side entry is set (R111). -/
def badSide (fmt : Ty) (x : Nat) : Bool := bits x 31 24 != 0 || (fmt.toNat == 14 && bits x 23 20 != 0)

/-- A code with its side entry as fp32, exactly (R109, R209). -/
def widen (fmt : Ty) (code entry : Nat) : Nat :=
  if quantTy fmt then dequant (entry % 2 ^ 16) (bits entry 23 16) code else convert 0 false 12 fmt code

def TileView.val (v : TileView) (o k : Nat) : Nat := widen v.fmt (v.code o k) (v.entry o k)
/-- The value of a floating-point element. -/
def TileView.fval (v : TileView) (o k : Nat) : FVal := (fmtOf v.fmt).decode (v.code o k)
/-- The integer a − z that `macq` multiplies (R196). -/
def TileView.int (v : TileView) (o k : Nat) : Int :=
  if quantTy v.fmt then (v.code o k : Int) - v.zero o k else intVal true (tyBits v.fmt) (v.code o k)

/-- A window's element counts as zero (R201). -/
def TileView.isZero (v : TileView) (o k : Nat) : Bool :=
  if quantTy v.fmt then v.code o k == v.zero o k && (fp16.decode (v.scale o k)).isFin
  else if isFloatTy v.fmt then (v.fval o k).isZero else v.code o k == 0

/-- The flag of R179: some element of a block of 32 depth elements is not finite. -/
def TileView.nonfin (v : TileView) (block : Nat) : Bool :=
  (natRange 0 v.outer).any fun o => (natRange (32 * block) (min 32 (v.depth - 32 * block))).any fun k =>
    !(fp32.decode (v.val o k)).isFin

/-- One of a record's tiles as its calls read it: the snapshot of its fill, or scratchpad in place. -/
def State.tileView (h : State) (r : MRecord) (b : Bool) : Option TileView :=
  match (if b then r.tileB else r.tileA) with
  | none => none
  | some _ =>
    let d := if b then r.descB else r.descA
    let x := if b then r.snapB else r.snapA
    let w := dShape d
    let base := (dBase d).toNat
    let n := rowBytes w (dFmt d)
    let rows := if shSph w then (natRange 0 (shRows w)).map fun i => h.recBytes r (base + i * shStride w) n else x.bytes
    let g := groupSize (dGrp d)
    let side := if !quantTy (dFmt d) then []
      else if shSph w then (natRange 0 (shRows w)).map fun i =>
        let es := (natRange 0 ((shCols w + g - 1) / g)).map fun j =>
          leNat (h.recBytes r (sideBase base w + i * sideRow w (dGrp d) + 4 * j) 4)
        (natRange 0 (shCols w)).map fun k => es.getD (k / g) 0
      else x.side
    some ⟨base, w, if shSph w then h.core.poison else [], dFmt d, dGrp d, shExt w + 1, shDepth w + 1, shKin w, rows, side⟩

/-- A side entry that is read for some rows or columns and depths has a reserved bit set (R111). -/
def TileView.badIn (v : TileView) (os ks : List Nat) : Bool := quantTy v.fmt && os.any fun o => ks.any fun k => badSide v.fmt (v.entry o k)

/-- An element that is read for some rows or columns and depths, or its side entry, is poisoned (R418). -/
def TileView.spoilt (v : TileView) (os ks : List Nat) : Bool :=
  !v.bad.isEmpty && os.any fun o => ks.any fun k =>
    let (r, i) := v.at_ o k
    let w := tyBits v.fmt
    (natRange (v.base + r * shStride v.shape + i * w / 8) ((w + 7) / 8)).any v.bad.has
      || quantTy v.fmt && (natRange (sideBase v.base v.shape + r * sideRow v.shape v.grp + 4 * (i / groupSize v.grp)) 4).any v.bad.has

/-- Bytes of scratchpad that the record reads are poisoned. -/
def State.recSpoilt (h : State) (a n : Nat) : Bool := !h.core.poison.isEmpty && (natRange a n).any h.core.poison.has

/-! ### The run of a routine -/

/-- The micro-tile in progress: the first that has not committed (R202). -/
def MRecord.microTile (r : MRecord) : Nat := ((natRange 0 32).find? fun m => !r.mtMask.getLsbD m).getD 0

/-- Number of a cell, its row and its column. -/
def cellNo (i j : Nat) : Nat := 64 * i + j

/-- The fresh state of R200 for the record's next micro-tile; an `mzero` has no routine and writes +0 (R190). -/
def MicroRun.start (r : MRecord) (first : Option Nat) : MicroRun :=
  let m := r.microTile
  { mrec := r, mpc := first.getD 0, w := Vector.replicate 16 0, cycle := 0, busy := 0, acur := 0, loops := [], winA := none, winB := none,
    rowOff := 0, colOff := 0, blocks := [], paired := 0, skip := 0,
    part := if r.zero then (natRange (16 * (m / 4)) 16).flatMap fun i => (natRange (16 * (m % 4)) 16).map fun j => (cellNo i j, 0) else []
    norms := [], samp := none, atEnd := r.zero || first.isNone, fault := none }

/-- The fresh run of a record, its routine's entry looked up in its home's table (R192). -/
def State.freshRun (h : State) (r : MRecord) : MicroRun :=
  MicroRun.start r ((h.ctx.micro.entries.find? (·.1 == r.routine)).map (·.2.1))

/-- w0 reads zero and ignores writes. -/
def MicroRun.get (m : MicroRun) (a : WReg) : BitVec 32 := if a = 0 then 0 else m.w[a.toNat]'a.isLt
def MicroRun.put (m : MicroRun) (a : WReg) (x : BitVec 32) : MicroRun := if a = 0 then m else { m with w := m.w.set a.toNat x a.isLt }

/-- The accumulator in progress is ACUR. -/
def MicroRun.here (m : MicroRun) : Bool := m.acur == m.mrec.accOff

/-- The cells of an edge region of `rows` by `cols` that lie in the micro-tile in progress. -/
def MicroRun.cells (m : MicroRun) (rows cols : Nat) : List (Nat × Nat) :=
  let t := m.mrec.microTile
  ((natRange (16 * (t / 4)) 16).filter fun i => decide (m.rowOff ≤ i) && decide (i < m.rowOff + rows)).flatMap fun i =>
    ((natRange (16 * (t % 4)) 16).filter fun j => decide (m.colOff ≤ j) && decide (j < m.colOff + cols)).map fun j => (i, j)

def MicroRun.outside (m : MicroRun) (rows cols : Nat) : Bool := decide (m.rowOff + rows > 128) || decide (m.colOff + cols > 64)

/-- The value of a cell of the accumulator in progress as the run has left it. -/
def State.cellOf (h : State) (m : MicroRun) (i j : Nat) : Nat :=
  match m.part.find? (·.1 == cellNo i j) with
  | some (_, x) => x
  | none => h.core.accGet (m.mrec.first + m.mrec.accOff) i j

/-- An element of the accumulator in progress that the run has not written is poisoned (R418). -/
def State.cellsSpoilt (h : State) (m : MicroRun) (cs : List (Nat × Nat)) : Bool :=
  !h.core.poison.isEmpty && m.here && cs.any fun (i, j) =>
    (m.part.all fun x => x.1 != cellNo i j) && h.core.accSpoilt (m.mrec.first + m.mrec.accOff) i j

def MicroRun.setCell (m : MicroRun) (i j x : Nat) : MicroRun := { m with part := tabSet m.part (cellNo i j) x }

/-- What a micro-word does: it ends, and the next follows; it branches; the routine ends; the call ends with a fault; it waits. -/
inductive MRes where
  | go (m : MicroRun)
  | jump (m : MicroRun) (at_ : Int)
  | ends (m : MicroRun)
  | fault (i : TrapInfo)
  | wait (h : State)

/-- MCALL_FAULT with its subcode and the micro-tile (R200, Table 16.4). -/
def MicroRun.bad (m : MicroRun) (sub : Nat) : MRes := .fault (trapMcall sub m.mrec.microTile)

/-- Past a word: one cycle, and the ends of the loops whose last word it is (R198, R199). -/
def closeLoops (pc : Nat) : List (Nat × Nat × Nat) → List (Nat × Nat × Nat) × Nat
  | [] => ([], pc + 1)
  | (start, last, left) :: l =>
    if last = pc then (if left ≤ 1 then closeLoops pc l else ((start, last, left - 1) :: l, start)) else ((start, last, left) :: l, pc + 1)

/-- The micro-pc moves; leaving the region is RUNOFF (R200). -/
def MicroRun.moveTo (m : MicroRun) (region : Nat) (pc : Int) : MicroRun :=
  if pc < 0 || (region : Int) ≤ pc then { m with fault := some (trapMcall 5 m.mrec.microTile) } else { m with mpc := pc.toNat }

/-- Run one micro-word on the routine in progress at the core in focus; a poisoned word ends the call (R418). A skipped
word performs nothing (R201); `timing` is what even a skipped word does to the cycle count. A `pbr` that leaves the body of an `mloop`
leaves its entry on the loop stack (R198; DESIGN CHOICE, log 66). The cycles that a skipped word takes are those it would take in the
state as it stands, in which no skipped word has changed anything: the manual does not say (DESIGN CHOICE, log 80). -/
def State.micro (s : State) (timing : State → MicroRun → MicroRun) (f : State → MicroRun → MRes) : Out :=
  .next (match s.core.run with
    | none => s
    | some m =>
      if m.atEnd || m.fault.isSome then s
      else
        let h := s.homeOf m.mrec
        let region := h.ctx.micro.region
        let next := fun (m : MicroRun) =>
          let (ls, pc) := closeLoops m.mpc m.loops
          ({ m with loops := ls, cycle := m.cycle + 1 } : MicroRun).moveTo region pc
        let put := fun (m : MicroRun) => s.mapCore fun c => { c with run := some m }
        let m := timing h m
        if h.ctx.micro.bad.has m.mpc then put { m with fault := some (trapData 0) }
        else if m.skip > 0 then put (next { m with skip := m.skip - 1 })
        else
          match f h m with
          | .go m => put (next m)
          | .jump m w => put (({ m with cycle := m.cycle + 1 } : MicroRun).moveTo region w)
          | .ends m => put { m with atEnd := true }
          | .fault i => put { m with fault := some i }
          | .wait h => h.focus s.coreNum s.slotNum)

def noTiming (_ : State) (m : MicroRun) : MicroRun := m

end Sys2Proof.Machine
end

