-- ==== Sys2Proof/Machine/Micro.lean ====
section
/-! DEFINITION. Micro.lean: the meanings of the micro-operations on the routine that runs at the core in focus (R195 to R201,
R209, R213 to R221, Table 8.11). -/
namespace Sys2Proof.Machine

/-! ### Windows and control -/

/-- A window of a tile's depth; RANGE outside it (R200). -/
def tileWindow (v : Option TileView) (start : Nat) (lenM1 : BitVec 9) (all : Bool) : Option (Nat × Nat) :=
  match v with
  | none => none
  | some v =>
    let len := if all then v.depth - start else lenM1.toNat + 1
    if len = 0 || start + len > v.depth then none else some (start, len)

def execUFeeda (a : WReg) (lenM1 : BitVec 9) (all : Bool) (s : State) : Out :=
  s.micro noTiming fun h m =>
    match tileWindow (h.tileView m.mrec false) (m.get a).toNat lenM1 all with
    | none => m.bad 1
    | some w => .go { m with winA := some w }

def execUFeedb (a : WReg) (lenM1 : BitVec 9) (all : Bool) (s : State) : Out :=
  s.micro noTiming fun h m =>
    match tileWindow (h.tileView m.mrec true) (m.get a).toNat lenM1 all with
    | none => m.bad 1
    | some w => .go { m with winB := some w }

/-- Rows of A and columns of B: the extents of the edge region (R200). -/
def State.extents (h : State) (r : MRecord) : Nat × Nat :=
  (((h.tileView r false).map (·.outer)).getD 0, ((h.tileView r true).map (·.outer)).getD 0)

def execUAccl (a : WReg) (idx : BitVec 6) (clr : Bool) (s : State) : Out :=
  s.micro noTiming fun h m =>
    let acur := (m.get a + idx.setWidth 32).toNat
    if acur ≥ m.mrec.count then m.bad 1
    else
      let m := { m with acur := acur }
      if !clr then .go m
      else
        let (rows, cols) := h.extents m.mrec
        .go (if m.here then (m.cells rows cols).foldl (fun m (i, j) => m.setCell i j 0) m else m)

/-- RANGE for an edge region outside the accumulator (R200). -/
def execUEdge (a b : WReg) (s : State) : Out :=
  s.micro noTiming fun h m =>
    let m := { m with rowOff := (m.get a).toNat, colOff := (m.get b).toNat }
    let (rows, cols) := h.extents m.mrec
    if m.outside rows cols then m.bad 1 else .go m

def execUSwap (a b : WReg) (s : State) : Out :=
  s.micro noTiming fun _ m => .go ((m.put a (m.get b)).put b (m.get a))

def execUPset (d : WReg) (src : PsetSrc) (s : State) : Out :=
  s.micro noTiming fun _ m => .go (m.put d (match src with
    | .imm i => i.signExtend 32
    | .param n lo widthM1 =>
      BitVec.ofNat 32 (((m.mrec.mp.getD n.toNat 0).toNat >>> lo.toNat) % 2 ^ (widthM1.toNat + 1))))

def execUPadd (d a b : WReg) (i : BitVec 32) (s : State) : Out :=
  s.micro noTiming fun _ m => .go (m.put d (m.get a + m.get b + i))

/-- The conditions of `pbr` (Table 8.11). -/
def microCond (cond : BitVec 3) (a b : BitVec 32) : Bool :=
  match cond.toNat with
  | 0 => a == b
  | 1 => a != b
  | 2 => a.slt b
  | 3 => b.sle a
  | 4 => a.ult b
  | _ => b.ule a

def execUPbr (a b : WReg) (cond : BitVec 3) (off : BitVec 16) (s : State) : Out :=
  s.micro noTiming fun _ m => if microCond cond (m.get a) (m.get b) then .jump m (m.mpc + off.toInt) else .go m

/-- No iteration when the count is 0: the words through the labelled one are passed, and that ends an enclosing loop whose last word it
is; LOOP at a fifth nested loop (R200). Whether a fifth one of count 0 raises LOOP the manual does not say: it nests nothing and does not
(DESIGN CHOICE, log 80). -/
def execUMloop (a : WReg) (cnt off : BitVec 16) (s : State) : Out :=
  s.micro noTiming fun _ m =>
    let n := (m.get a + cnt.setWidth 32).toNat
    if n = 0 then
      let (ls, pc) := closeLoops (m.mpc + off.toNat) m.loops
      .jump { m with loops := ls } (pc : Nat)
    else if m.loops.length ≥ 4 then m.bad 4
    else .go { m with loops := (m.mpc + 1, m.mpc + off.toNat, n) :: m.loops }

/-- The next word issues max(1, w[A] + n) cycles later, also for a skipped `wait`. -/
def execUWait (a : WReg) (n : BitVec 16) (s : State) : Out :=
  s.micro (fun _ m => { m with cycle := m.cycle + (max 1 ((m.get a).toInt + n.toNat) - 1).toNat }) fun _ m => .go m

def execUMend (s : State) : Out := s.micro noTiming fun _ m => .ends m

/-- `skipz` (R201): the words it skips perform nothing. It reads the side entries of the opposing blocks only when its own window is all
zero (R111). A window that is empty does not make it skip (DESIGN CHOICE, log 66). -/
def execUSkipz (sideB : Bool) (n : BitVec 4) (s : State) : Out :=
  s.micro noTiming fun h m =>
    let mine := if sideB then m.winB else m.winA
    let other := if sideB then m.winA else m.winB
    if !m.mrec.zskip then .go m
    else match mine, h.tileView m.mrec sideB with
    | some (k0, len), some v =>
      let ks := natRange k0 len
      let zero := (natRange 0 v.outer).all fun o => ks.all fun k => v.isZero o k
      let blocks := match other with
        | some (k1, len1) => natRange (k1 / 32) ((k1 + len1 - 1) / 32 + 1 - k1 / 32)
        | none => []
      let v1 := h.tileView m.mrec (!sideB)
      let reads := fun (f : TileView → List Nat → List Nat → Bool) => zero && match v1 with
        | some v1 => f v1 (natRange 0 v1.outer) (blocks.flatMap fun b => natRange (32 * b) (min 32 (v1.depth - 32 * b)))
        | none => false
      if v.spoilt (natRange 0 v.outer) ks then .fault (trapData 0)
      else if v.badIn (natRange 0 v.outer) ks then .fault (trapFormat (dBase (if sideB then m.mrec.descB else m.mrec.descA)))
      else if reads TileView.spoilt then .fault (trapData 0)
      else if reads TileView.badIn then .fault (trapFormat (dBase (if sideB then m.mrec.descA else m.mrec.descB)))
      else if zero && !(match v1 with | some v1 => blocks.any v1.nonfin | none => false) then
        .go { m with skip := n.toNat, mrec := { m.mrec with status := m.mrec.status ||| 0x04 } }
      else .go m
    | _, _ => .go m

/-! ### Products (R195, R196, R199) -/

/-- Cycles the array is busy, and the distance from a `macq` to its sum at the port (R199). -/
def arrayRate (t : Ty) : Nat := match t.toNat with | 10 | 11 => 1 | 14 => 4 | _ => 2
def pairRate (a b : Ty) : Nat := min (arrayRate a) (arrayRate b)

/-- A `mac` or `macq` holds issue until the array is free and then occupies it. -/
def arrayTiming (h : State) (m : MicroRun) : MicroRun :=
  match h.tileView m.mrec false, h.tileView m.mrec true with
  | some a, some b =>
    let c := max m.cycle m.busy
    let rate := pairRate a.fmt b.fmt
    let len := (m.winA.map (·.2)).getD 0
    { m with cycle := c, busy := c + (len + rate - 1) / rate }
  | _, _ => m

/-- The group of products that is summed exactly: quads of 16-bit types, octets of 8-bit ones; none for another pair (Table 8.8). -/
def macGroup (a b : Ty) : Option Nat :=
  let x := a.toNat
  let y := b.toNat
  if (x == 10 && y == 10) || (x == 11 && y == 11) then some 4
  else if (x == 8 || x == 9) && (y == 8 || y == 9) then some 8 else none

/-- An exact sum of products, rounded once to fp32. -/
def sumOnce (l : List (FVal × FVal)) : Nat :=
  fp32.round 0 false ((l.map fun (x, y) => x.mul y).foldl (fun acc p => match acc with | none => some p | some a => some (a.add 0 p))
    none |>.getD (.fin false 0 0 false))

/-- Add the groups of a list of products into an accumulator element in increasing order. -/
def addGroups (g : Nat) : Nat → List (FVal × FVal) → Nat → Nat
  | 0, _, acc => acc
  | n + 1, l, acc => if l.isEmpty then acc else addGroups g n (l.drop g) (add32 acc (sumOnce (l.take g)))

/-- Two windows that may be multiplied: their starts and length; WINDOW when their lengths differ, TYPE where a tile is missing. A
window that no word has set is empty: its length is 0 (R200). -/
inductive Wins where
  | ok (a b : TileView) (ka kb len : Nat)
  | bad (sub : Nat)

def State.windows (h : State) (m : MicroRun) : Wins :=
  let (ka, la) := m.winA.getD (0, 0)
  let (kb, lb) := m.winB.getD (0, 0)
  if la ≠ lb then .bad 2
  else match h.tileView m.mrec false, h.tileView m.mrec true with
    | some a, some b => .ok a b ka kb la
    | _, _ => .bad 3

/-- `mac` of a call without SAMPLE (R195). -/
def State.macDense (h : State) (m : MicroRun) : MRes :=
  match h.windows m with
  | .bad k => m.bad k
  | .ok a b ka kb len =>
    match macGroup a.fmt b.fmt with
    | none => m.bad 3
    | some g =>
      let os := m.cells a.outer b.outer
      if a.spoilt (os.map fun c => c.1 - m.rowOff) (natRange ka len) || b.spoilt (os.map fun c => c.2 - m.colOff) (natRange kb len)
          || h.cellsSpoilt m os then .fault (trapData 0)
      else if !m.here then .go m
      else .go ((m.cells a.outer b.outer).foldl (fun m (i, j) =>
        let ps := (natRange 0 len).map fun t => (a.fval (i - m.rowOff) (ka + t), b.fval (j - m.colOff) (kb + t))
        m.setCell i j (addGroups g len ps (h.cellOf m i j))) m)

/-- Integer operand types of `macq`. -/
def intOperand (t : Ty) : Bool := t.toNat == 0 || quantTy t

/-- A window is one group of a quantised operand (R200). -/
def oneGroup (v : TileView) (k len : Nat) : Bool := !quantTy v.fmt || (k % groupSize v.grp == 0 && len == groupSize v.grp)

/-- `macq` starts a block (R196). -/
def State.macBlock (h : State) (m : MicroRun) : MRes :=
  match h.windows m with
  | .bad k => m.bad k
  | .ok a b ka kb len =>
    if !intOperand a.fmt || !intOperand b.fmt || !oneGroup a ka len || !oneGroup b kb len then m.bad 3
    else
      let cs := m.cells a.outer b.outer
      let badA := a.badIn (cs.map fun c => c.1 - m.rowOff) [ka]
      let badB := b.badIn (cs.map fun c => c.2 - m.colOff) [kb]
      let sum := fun (i j : Nat) => (natRange 0 len).foldl (fun (acc : Int) t =>
        acc + a.int (i - m.rowOff) (ka + t) * b.int (j - m.colOff) (kb + t)) 0
      let blk : FoldBlock := ⟨m.cycle, if a.fmt.toNat = 14 && b.fmt.toNat = 14 then 18 else 14,
        cs.map fun (i, j) => (cellNo i j, sum i j, a.scale (i - m.rowOff) ka, b.scale (j - m.colOff) kb)⟩
      if a.spoilt (cs.map fun c => c.1 - m.rowOff) (natRange ka len) || b.spoilt (cs.map fun c => c.2 - m.colOff) (natRange kb len) then
        .fault (trapData 0)
      else if badA || badB then .fault (trapFormat (if badA then dBase m.mrec.descA else dBase m.mrec.descB))
      else .go { m with blocks := m.blocks ++ [blk] }

def execUMacq (s : State) : Out :=
  s.micro arrayTiming fun h m => if m.mrec.sample then m.bad 7 else h.macBlock m

/-- acc := RNE(acc + RNE(RNE32(P) × RNE(σa × σb))). -/
def foldAdd (acc : Nat) (p : Int) (sa sb : Nat) : Nat :=
  add32 acc (mul32 (fp32.round 0 false (ofInt p 0 false)) (mul32 (convert 0 false 12 10 sa) (convert 0 false 12 10 sb)))

/-- `fold` reads the port at its fixed distance (R199). -/
def State.fold (h : State) (m : MicroRun) : MRes :=
  let (rows, cols) := h.extents m.mrec
  if h.cellsSpoilt m (m.cells rows cols) then .fault (trapData 0)
  else match m.blocks[m.paired]? with
  | none =>
    .go (if m.here then (m.cells rows cols).foldl (fun m (i, j) => m.setCell i j (add32 (h.cellOf m i j) 0)) m else m)
  | some g =>
    let due := g.cycle + g.lag
    let used := if m.cycle = due then some g
      else if m.cycle < due && m.paired > 0 then m.blocks[m.paired - 1]? else none
    let m1 := { m with paired := m.paired + 1 }
    if !m.here then .go m1
    else .go (g.sums.foldl (fun m (c, _) =>
      let i := c / 64
      let j := c % 64
      match used.bind fun b => b.sums.find? (·.1 == c) with
      | some (_, p, sa, sb) => m.setCell i j (foldAdd (h.cellOf m i j) p sa sb)
      | none => m.setCell i j (add32 (h.cellOf m i j) 0)) m1)

def execUFold (s : State) : Out :=
  s.micro noTiming fun h m => if m.mrec.sample then m.bad 7 else h.fold m

/-! ### Norm vectors (R209) -/

/-- An entry of a norm vector as the earlier `norm` words of the run left it. -/
def State.normEntry (h : State) (m : MicroRun) (a : Nat) : Nat :=
  match m.norms.reverse.find? fun n => decide (n.1 ≤ a) && decide (a < n.1 + n.2.length) with
  | some n => leField n.2 (a - n.1) 4
  | none => leNat (h.recBytes m.mrec a 4)

/-- `norm` (R209). On a window that `sgath` filled it takes the tile's own elements at depths 0 to b − 1: the manual does not say which
elements of a slab it means (DESIGN CHOICE, log 80). -/
def execUNorm (a : WReg) (sideB add : Bool) (s : State) : Out :=
  s.micro noTiming fun h m =>
    if m.mrec.accOff ≠ 0 || m.mrec.microTile ≠ 0 then .go m
    else
      match (if sideB then m.winB else m.winA), h.tileView m.mrec sideB with
      | some (k0, len), some v =>
        let base := (m.get a).toNat / 4 * 4
        if !h.spBound base (4 * len) || h.overwrites base (4 * len) then m.bad 1
        else if v.spoilt (natRange 0 v.outer) (natRange k0 len) || (add && h.recSpoilt base (4 * len)) then .fault (trapData 0)
        else if v.badIn (natRange 0 v.outer) (natRange k0 len) then .fault (trapFormat (dBase (if sideB then m.mrec.descB else m.mrec.descA)))
        else
          let d := (natRange 0 len).flatMap fun i =>
            leBytes 4 ((natRange 0 v.outer).foldl (fun x o => add32 x (mul32 (v.val o (k0 + i)) (v.val o (k0 + i))))
              (if add then h.normEntry m (base + 4 * i) else 0))
          .go { m with norms := m.norms ++ [(base, d)] }
      | _, _ => .go m

/-! ### Sampling (R213 to R221) -/

/-- Table 9.2 breached: a reserved bit, s_min above s_max, or Q outside 8 to 64 (R214). Of the words only rsmp reads, the rest is
checked for that routine. -/
def badSampling (r : MRecord) : Bool :=
  let mp := fun i => r.mp.getD i 0
  wbits (mp 2) 63 39 != 0 || wbits (mp 3) 63 32 != 0 || wbits (mp 5) 63 38 != 0
    || decide (wbits (mp 2) 15 0 > wbits (mp 2) 31 16) || decide (wbits (mp 2) 38 32 < 7) || decide (wbits (mp 2) 38 32 > 63)
    || (r.routine == 0xF3 && (wbits (mp 0) 63 16 != 0 || wbits (mp 1) 63 22 != 0 || wbits (mp 1) 15 7 != 0
        || wbits (mp 4) 63 48 != 0 || wbits (mp 6) 63 32 != 0))

def sampStart (r : MRecord) : SampRun :=
  let w := r.mp.getD 2 0
  ⟨wbits w 38 32 + 1, wbits w 15 0 + 1, wbits w 31 16 + 1, 0, .none, false, false, [], [], [], [], 0, [], none, 0, 0, []⟩

/-- The sampling state of a run; SAMPLE for a call that is none (R213), RANGE for its parameters. -/
def MicroRun.sampling (m : MicroRun) (f : SampRun → MRes) : MRes :=
  if !m.mrec.sample then m.bad 7
  else
    match m.samp with
    | some p => f p
    | none => if badSampling m.mrec then m.bad 1 else f (sampStart m.mrec)

/-- The current block lacks its `mac` or its `probe` (R217). -/
def SampRun.blockOpen (p : SampRun) : Bool :=
  match p.stage with | .none => false | .drawn => true | .gathered => !(p.mac && p.probe)

/-- r<23:0> < THRESHOLD × 2^24, exactly (R215). -/
def belowThreshold (r th : Nat) : Bool :=
  match fp32.decode th with
  | .nan => false
  | .inf neg => !neg
  | v => fpCond 2 (.fin false r (-24) false) v

/-- What a draw of one sample gives (R215, R216, R221). -/
inductive Drawn where
  | cat (k : Nat) | zero | nonfinite | range | spoilt

/-- The draw of one sample. Of an entry at fault as R216 has it whose STATE also ends sampling (R221), the manual does not say which comes
first: the fault does (DESIGN CHOICE, log 80). -/
def State.drawOne (h : State) (r : MRecord) (tab n t : Nat) : Drawn :=
  let x := mix (BitVec.ofNat 64 t) r.seed
  let slot := (x.toNat / 2 ^ 32 * n) / 2 ^ 32
  let e := leNat (h.recBytes r (tab + 8 * slot) 8)
  let st := bits e 49 48
  if h.recSpoilt (tab + 8 * slot) 8 then .spoilt
  else if st = 3 || bits e 63 50 != 0 || bits e 47 32 ≥ n then .range
  else if st = 1 then .zero
  else if st = 2 then .nonfinite
  else .cat (if belowThreshold (x.toNat % 2 ^ 24) (bits e 31 0) then slot else bits e 47 32)

def State.drawMany (h : State) (r : MRecord) (tab n : Nat) : List Nat → List Nat ⊕ Drawn
  | [] => .inl []
  | t :: l =>
    match h.drawOne r tab n t with
    | .cat k => match State.drawMany h r tab n l with
      | .inl ks => .inl (k :: ks)
      | .inr e => .inr e
    | e => .inr e

def execUDraw (a b : WReg) (qM1 : BitVec 7) (s : State) : Out :=
  s.micro noTiming fun h m => m.sampling fun p =>
    let n := (m.get b).toNat
    let k := min (qM1.toNat + 1) (min p.q (p.smax - p.n))
    if p.blockOpen then m.bad 7
    else if k = 0 || n = 0 || n > 65536 || !h.spBound (m.get a).toNat (8 * n) then m.bad 1
    else
      match h.drawMany m.mrec (m.get a).toNat n (natRange p.n k) with
      | .inl ks => .go { m with samp := some { p with n := p.n + k, stage := .drawn, mac := false, probe := false, ks := ks, cats := n,
                                                      slabA := [], slabB := [] } }
      | .inr .zero => .ends { m with samp := some { p with n := 0, sums := [], relerr := some 0, reason := 3 } }
      | .inr .nonfinite => .ends { m with samp := some { p with n := 0, sums := [], relerr := some 0x7FC00000, reason := 4 } }
      | .inr .spoilt => .fault (trapData 0)
      | .inr _ => m.bad 1

/-- Where an element of a tile in memory lies: its byte address and the bit within it (Table 8.2). -/
def elemPlace (d : BitVec 256) (o k : Nat) : Nat × Nat :=
  let w := tyBits (dFmt d)
  let (r, i) := if shKin (dShape d) then (o, k) else (k, o)
  (((dBase d).toNat + r * shStride (dShape d) + i * w / 8) % 2 ^ 64, i * w % 8)

/-- An element read from memory now through the tile's capability, as fp32 (R213, R216); its page has the tile's type (R113, R114). -/
def State.liveElem (h : State) (r : MRecord) (b : Bool) (o k : Nat) : Nat ⊕ PieceEnd :=
  let d := if b then r.descB else r.descA
  let x := if b then r.snapB else r.snapA
  let opd := tileOpd d x
  let w := tyBits (dFmt d)
  let (a, sh) := elemPlace d o k
  match h.elemAttr opd a ((w + 7) / 8) (dFmt d).toNat (dGrp d), h.opdBytes r.ser opd a ((w + 7) / 8) with
  | some i, _ => .inr (.fault i)
  | _, .inr e => .inr e
  | none, .inl by_ =>
    let code := (leNat by_ >>> sh) % 2 ^ w
    if quantTy (dFmt d) then
      match h.sideEntry r.ser opd (dFmt d).toNat (dGrp d) a with
      | .inr e => .inr e
      | .inl en => .inl (widen (dFmt d) code en)
    else .inl (widen (dFmt d) code 0x3C00)

def State.liveRow (h : State) (r : MRecord) (b : Bool) (k : Nat) : List Nat → List Nat ⊕ PieceEnd
  | [] => .inl []
  | o :: l =>
    match h.liveElem r b o k with
    | .inr e => .inr e
    | .inl x => match State.liveRow h r b k l with
      | .inr e => .inr e
      | .inl xs => .inl (x :: xs)

/-- The slabs of a block: for each drawn category its column of A, and its row of B times 1/p. -/
def State.slabs (h : State) (r : MRecord) (rows cols : Nat) : List (Nat × Nat) → (List (List Nat) × List (List Nat)) ⊕ PieceEnd
  | [] => .inl ([], [])
  | (k, g) :: l =>
    match h.liveRow r false k (natRange 0 rows), h.liveRow r true k (natRange 0 cols) with
    | .inl a, .inl b =>
      match State.slabs h r rows cols l with
      | .inr e => .inr e
      | .inl (as_, bs) => .inl (a :: as_, b.map (fun x => mul32 x g) :: bs)
    | .inr e, _ => .inr e
    | _, .inr e => .inr e

/-- The pages of the drawn elements that a gather waits for: read leases are asked for. -/
def State.wantDrawn (h : State) (r : MRecord) (ks : List Nat) : State :=
  [false, true].foldl (fun h b =>
    let d := if b then r.descB else r.descA
    let x := if b then r.snapB else r.snapA
    if dCap d = 0 || h.direct x.cap then h
    else
      let attr := (h.pageAttr (capObject x.cap) ((dBase d).toNat / 2 ^ 16)).1
      let pages := (ks.flatMap fun k => (natRange 0 (shExt (dShape d) + 1)).map fun o => (elemPlace d o k).1 / 2 ^ 16).foldl NatSet.add []
      let pages := if quantTy (dFmt d) then pages ++ pages.map fun p => p + wbits attr 21 6 else pages
      pages.foldl (fun h p => h.wantRead (capObject x.cap) p) h) h

/-- `sgath` directly after `draw` (R216, R217); a gather that waits for pool pages asks for their leases at the home. -/
def State.gather (h : State) (m : MicroRun) (p : SampRun) (base : Nat) : MRes :=
  match p.stage with
  | .drawn =>
    if !h.spBound base (4 * p.cats) then m.bad 1
    else if p.ks.any fun k => h.recSpoilt (base + 4 * k) 4 then .fault (trapData 0)
    else
      let g := p.ks.map fun k => div32 0x3F800000 (leNat (h.recBytes m.mrec (base + 4 * k) 4))
      let (rows, cols) := h.extents m.mrec
      match h.slabs m.mrec rows cols (p.ks.zip g) with
      | .inr (.fault i) => .fault i
      | .inr _ => .wait (h.wantDrawn m.mrec p.ks)
      | .inl (a, b) => .go { m with samp := some { p with stage := .gathered, slabA := a, slabB := b },
                                    winA := some (0, p.ks.length), winB := some (0, p.ks.length) }
  | _ => m.bad 7

def execUSgath (a : WReg) (s : State) : Out :=
  s.micro noTiming fun h m => m.sampling fun p => h.gather m p (m.get a).toNat

/-- `mac` on a slab: quads of consecutive samples into S (R216). A `feeda` or `feedb` since `sgath` does not take the slab away, and the
windows it set are not compared: the manual does not say (DESIGN CHOICE, log 80). -/
def State.macSlab (h : State) (m : MicroRun) (p : SampRun) : MRes :=
  if p.stage != .gathered || p.mac then m.bad 7
  else
    let (rows, cols) := h.extents m.mrec
    let val := fun (l : List (List Nat)) (t i : Nat) => fp32.decode ((l.getD t []).getD i 0)
    let n := p.ks.length
    let sums := (m.cells rows cols).foldl (fun ss (i, j) =>
      let ps := (natRange 0 n).map fun t => (val p.slabA t (i - m.rowOff), val p.slabB t (j - m.colOff))
      tabSet ss (cellNo i j) (addGroups 4 n ps (tabGet 0 ss (cellNo i j)))) p.sums
    .go { m with samp := some { p with mac := true, sums := sums } }

def execUMac (s : State) : Out :=
  s.micro arrayTiming fun h m => if m.mrec.sample then m.sampling (h.macSlab m) else h.macDense m

/-- One sample of a probe (R218). -/
def welford (st : Nat × Nat × Nat) (x : Nat) : Nat × Nat × Nat :=
  let (c, mean, m2) := st
  let sub := fp32.subBits 0
  let d := sub x mean
  let mean' := add32 mean (div32 d (nat32 (c + 1)))
  (c + 1, mean', add32 m2 (mul32 d (sub x mean')))

/-- `probe` (R218); RANGE for a probe outside the tiles or the scratchpad bounds (R214). -/
def State.probe (h : State) (m : MicroRun) (p : SampRun) (base nM1 : Nat) : MRes :=
  if p.stage != .gathered || p.probe then m.bad 7
  else
    let cnt := min (nM1 + 1) (wbits (m.mrec.mp.getD 5 0) 37 32 + 1)
    let (rows, cols) := h.extents m.mrec
    if !h.spBound base (4 * cnt) then m.bad 1
    else if h.recSpoilt base (4 * cnt) then .fault (trapData 0)
    else
      let es := (natRange 0 cnt).map fun i => leNat (h.recBytes m.mrec (base + 4 * i) 4)
      if es.any fun e => bits e 31 14 != 0 || e.testBit 7 || bits e 6 0 ≥ rows || bits e 13 8 ≥ cols then m.bad 1
      else
        let old := fun i => p.probes.getD i (0, 0, 0)
        let new := es.zipIdx.map fun (e, i) => (natRange 0 p.ks.length).foldl (fun st t =>
          welford st (mul32 ((p.slabA.getD t []).getD (bits e 6 0) 0) ((p.slabB.getD t []).getD (bits e 13 8) 0))) (old i)
        .go { m with samp := some { p with probe := true, count := cnt, probes := new ++ p.probes.drop cnt } }

def execUProbe (a : WReg) (nM1 : BitVec 6) (s : State) : Out :=
  s.micro noTiming fun h m => m.sampling fun p => h.probe m p (m.get a).toNat nM1.toNat

/-- The largest relative standard error (R219). -/
def relErr (p : SampRun) : Nat :=
  if p.n < 2 then 0x7F800000
  else (p.probes.take p.count).foldl (fun r (_, mean, m2) =>
    let e := sqrt32 (div32 m2 (nat32 (p.n * (p.n - 1))))
    fp32.maxBits r (if isZero32 e then 0 else if isZero32 mean then 0x7F800000 else div32 e (mean % 2 ^ 31))) 0xFF800000

/-- The stop rule (R219); after the call's first micro-tile every run repeats the decisions of the first (R225). -/
def execUStoptest (off : BitVec 16) (s : State) : Out :=
  s.micro noTiming fun _ m => m.sampling fun p =>
    if p.blockOpen then m.bad 7
    else
      let r := m.mrec.tests.getD p.tests.length (relErr p)
      let tau := wbits (m.mrec.mp.getD 3 0) 31 0
      let put := fun reason => { m with samp := some { p with relerr := some r, reason := reason, tests := p.tests ++ [r] } }
      if p.n ≥ p.smin && fpCond 3 (fp32.decode r) (fp32.decode tau) then .jump (put 1) (m.mpc + off.toInt)
      else if p.n ≥ p.smax then .jump (put 2) (m.mpc + off.toInt)
      else .go (put 0)

end Sys2Proof.Machine
end

