-- ==== Sys2Proof/Machine/EngineEvents.lean ====
section
/-! DEFINITION. EngineEvents.lean: records start, micro-tiles commit, calls complete, records migrate and return
(R187, R189, R200, R202, R204, R220 to R222, R363). -/
namespace Sys2Proof.Machine

/-- Do something at a record's home context, and come back. -/
def State.atHome (s : State) (r : MRecord) (f : State → State) : State := s.at_ r.home r.slot f

/-- PROGIDX's ACCOFF and MTMASK follow the record in progress (R202). -/
def Context.progress (c : Context) (accOff : Nat) (mask : BitVec 32) : Context :=
  { c with progidx := setBits c.progidx 21 16 accOff, mtmask := mask }

/-- Two records name an accumulator in common. -/
def MRecord.shares (a b : MRecord) : Bool := (natRange a.first a.count).any b.names

/-- A record may start: its tiles are there and filled, none of its accumulators is DRAINING, and no record before it that still runs
elsewhere names one of them (R185, R187, R204). -/
def State.canStart (s : State) (r : MRecord) : Bool :=
  let h := s.homeOf r
  h.ctx.live
    && [r.tileA, r.tileB].all (fun t => match t with | some t => (h.ctx.tile t).st != .empty && (h.ctx.tile t).filled | none => true)
    && ((natRange r.first r.count).all fun n => !h.accDraining n)
    && h.records.all fun x => !(decide (x.ser < r.ser) && r.shares x)

/-- The record with its tiles' bytes as their fills left them. -/
def State.takeTiles (s : State) (r : MRecord) : MRecord :=
  let h := s.homeOf r
  let snap := fun (t : Option TReg) => match t with | some t => h.ctx.tile t | none => .none
  { r with snapA := snap r.tileA, snapB := snap r.tileB }

/-- Requirements of a SAMPLE call on its tiles (R213). -/
def sampleTilesBad (r : MRecord) : Bool :=
  r.sample && !r.zero && (r.tileA.isNone || r.tileB.isNone || [r.descA, r.descB].any fun d => shSph (dShape d) || shTrans (dShape d))

/-- The run that starts on a record. -/
def State.firstRun (s : State) (r : MRecord) : MicroRun :=
  let m := (s.homeOf r).freshRun r
  if sampleTilesBad r then { m with fault := some (trapMcall 7 r.microTile) } else m

/-- Start a record at the core in focus; a SAMPLE call's scratchpad reads perform (R227). -/
def State.startRecord (s : State) (r : MRecord) : State :=
  let r := s.takeTiles r
  let r := { r with view := if r.reads then r.view.or (some ((s.homeOf r).sramView r.ser)) else none }
  let m := s.firstRun r
  (s.mapCore fun c => { c with run := some m }).atHome r fun h => h.mapCtx fun c => c.progress r.accOff r.mtMask

/-- Records start in queue order (R187). -/
def execEvMatrixRecordStart (s : State) : Out :=
  .next (match s.core.run, s.core.engine with
    | none, r :: l => if s.canStart r then (s.mapCore fun c => { c with engine := l }).startRecord r else s
    | _, _ => s)

/-! ### Committing a micro-tile -/

/-- What a SAMPLE call's run commits (R220, R221), and its result word (R222). S belongs to the accumulator in progress: a routine that ends
with ACUR at another commits no S there, which the manual leaves open (DESIGN CHOICE, log 80). -/
def State.sampleCommit (h : State) (m : MicroRun) : MicroRun :=
  let p := m.samp.getD (sampStart m.mrec)
  let res : Word := BitVec.ofNat 64 ((p.relerr.getD 0x7F800000) * 2 ^ 32 + (if p.reason = 0 then 5 else p.reason) * 2 ^ 28 + p.n)
  let m := { m with mrec := { m.mrec with res := res, tests := if m.mrec.tests.isEmpty then p.tests else m.mrec.tests } }
  let (rows, cols) := h.extents m.mrec
  if p.reason = 4 then
    let t := m.mrec.microTile
    { m with part := (natRange (16 * (t / 4)) 16).flatMap fun i => (natRange (16 * (t % 4)) 16).map fun j => (cellNo i j, 0x7FC00000) }
  else if p.n = 0 then { m with part := [] }
  else if !m.here then m
  else (m.cells rows cols).foldl (fun m (i, j) =>
    m.setCell i j (add32 (h.cellOf m i j) (div32 (tabGet 0 p.sums (cellNo i j)) (nat32 p.n)))) m

/-- A run's results reach the accumulator in one act (R202), with the norm vectors of the first micro-tile (R209). -/
def State.commitTile (s : State) (m0 : MicroRun) : State :=
  let h := s.homeOf m0.mrec
  let m := if m0.mrec.sample && !m0.mrec.zero then h.sampleCommit m0 else m0
  let r := m.mrec
  let acc := r.first + r.accOff
  let bad := m.part.any fun (_, x) => !(fp32.decode x).isFin
  let mask := r.mtMask ||| BitVec.ofNat 32 (2 ^ r.microTile)
  let all := mask == BitVec.allOnes 32
  let last := all && r.accOff + 1 = r.count
  let r' := { r with status := if bad then r.status ||| 1 else r.status,
                     accOff := if all then r.accOff + 1 else r.accOff, mtMask := if all then 0 else mask }
  let s := s.atHome r fun h =>
    let h := h.mapCore fun c => m.part.foldl (fun c (n, x) => c.accPut acc (n / 64) (n % 64) x) c
    let h := m.norms.foldl (fun h (a, d) => h.spWrite r.ser a d) h
    h.mapCtx fun c => if last then c.progress r.accOff mask else c.progress r'.accOff r'.mtMask
  let next := if last then { m with mrec := r', atEnd := true } else (s.homeOf r').freshRun r'
  s.mapCore fun c => { c with run := some next }

def execEvMicroTileCommit (s : State) : Out :=
  .next (match s.core.run with
    | some m => if m.atEnd && m.fault.isNone && m.mrec.accOff < m.mrec.count then s.commitTile m else s
    | none => s)

/-! ### The end of a call -/

/-- A record ends at its home: its status enters its batch, its resume entry stands while its checkpoint does, tiles that only it held
become EMPTY; a fault is reported at the next boundary, attributed to the `mcall` (R189, R200, R203, R408). -/
def State.endRecord (s : State) (m : MicroRun) : State :=
  let exe := s.coreNum
  let st := m.mrec.ended false
  let r := { m.mrec with status := st }
  let s := s.mapCore fun c => { c with run := none }
  (if s.core.busy then s else s.queueEmptied).atHome r fun h =>
    let h := if r.since = h.ctx.commits then h.mapCtx fun c => { c with resume := ResumeEntry.put c.resume (r.entry m.fault.isNone) } else h
    let h := h.batchStatus r st
    let h := match m.fault with
      | some i => h.mapCtx fun c => { c with fault := c.fault ++ [(⟨r.op.seq, 0, r.op.pc, true, false, slotCode r.op.slot, exe, i⟩ : Held)] }
      | none => h.sampleDone r
    h.settleTiles

def execEvMatrixCallComplete (s : State) : Out :=
  .next (match s.core.run with
    | some m => if m.fault.isSome || (m.mrec.accOff ≥ m.mrec.count && (s.homeOf m.mrec).mp7Free m.mrec) then s.endRecord m else s
    | none => s)

/-! ### Migration (R204, R205, R363) -/

/-- The first record of an origin's queue that may be handed to the core in focus; `before` holds the origin's earlier records. -/
def migrant (ok : MRecord → Bool) : List MRecord → List MRecord → Option MRecord
  | _, [] => none
  | before, r :: l =>
    if r.migrates && r.waited && !before.any r.shares && ok r then some r else migrant ok (before ++ [r]) l

/-- What the engine in focus would take from a neighbour: of the records allowed, the one that dispatched earliest. -/
def State.toMigrate (s : State) : Option MRecord :=
  let y := s.ctxOf s.coreNum s.core.current
  let ok := fun (core : Nat) (r : MRecord) =>
    let x := s.ctxOf r.home r.slot
    r.home.toNat == core && !r.zero && decide ((r.count + 2) / 2 ≤ y.donor) && y.live && y.info.launchId == x.info.launchId
      && y.info.part == x.info.part && !((s.homeOf r).records.any fun b => decide (b.ser < r.ser) && r.shares b)
  let cs := (s.cores.filter fun b => b.1 / 4 == s.coreNum.toNat / 4).filterMap fun b =>
    migrant (ok b.1) ((b.2.core.run.map (·.mrec)).toList) b.2.core.engine
  cs.foldl (fun best r => match best with
    | none => some r
    | some b => if r.born < b.born || (r.born == b.born && r.home.toNat < b.home.toNat) then some r else best) none

/-- The empty engine in focus considers migration; the record it takes goes into its own queue (R204, R363). -/
def execEvMatrixMigrate (s : State) : Out :=
  .next (if !s.core.consider then s
    else
      let s := s.mapCore fun c => { c with consider := false }
      if s.core.busy then s
      else match s.toMigrate with
        | none => s
        | some r =>
          let s := s.mapCore fun c => { c with engine := [{ r with migrated := true, status := r.status ||| 2 }] }
          s.at_ r.home r.slot fun h =>
            let h := h.mapCore fun c => { c with engine := c.engine.filter (· != r) }
            if h.core.busy then h else h.queueEmptied)

/-- A migrated record that stands at a micro-tile boundary while a record of the core's own waits (R204). -/
def State.goesHome (s : State) : Option MRecord :=
  let own := s.core.engine.any fun r => r.home == s.coreNum
  let away := fun (r : MRecord) => own && r.home != s.coreNum
  match s.core.run, s.core.engine with
  | some m, _ => if away m.mrec && m.cycle == 0 && m.fault.isNone && decide (m.mrec.accOff < m.mrec.count) then some m.mrec else none
  | none, r :: _ => if away r then some r else none
  | none, [] => none

/-- When a record of the core's own arrives, a migrated one stops at its next micro-tile boundary and goes home, ahead of later ones (R204).
It goes to the front of the queue, ahead of records queued before it too, whose places the manual does not say (DESIGN CHOICE, log 80). -/
def execEvMigrationReturn (s : State) : Out :=
  .next (match s.goesHome with
    | some r =>
      (s.mapCore fun c => { c with engine := c.engine.filter (· != r), run := none }).at_ r.home r.slot fun h =>
        h.mapCore fun c => { c with engine := r :: c.engine }
    | none => s)

end Sys2Proof.Machine
end

