-- ==== Sys2Proof/Machine/Copy.lean ====
section
/-! DEFINITION. Copy.lean: the meanings of the X-slot operations, and the end of a running command (R292 to R301, R246). -/
namespace Sys2Proof.Machine

/-- A copy operand as dispatched. -/
def State.xopd (s : State) (o : XOpd) : Opd := ⟨o.space, o.cap, if o.space = .virt then s.readC o.cap else 0, s.readS o.reg⟩

/-- BOUND of a whole range (R31, R44): scratchpad bounds, the window's bytes, and no read through a multicast window. -/
def State.rangeBound (s : State) (o : Opd) (n : Nat) (write : Bool) : Option TrapInfo :=
  match o.space with
  | .sp => if s.spBound o.ea.toNat n then none else some (trapBound o.ea)
  | .win =>
    let w := s.ctx.win o.num
    if !winV w || decide (o.ea.toNat + n > winBytes w) || (winMC w && !write) then some (trapBound o.ea) else none
  | .virt => none

/-- CAP_FAULT of a whole range (R264). -/
def rangeCap (o : Opd) (n : Nat) (write : Bool) : Option TrapInfo :=
  if o.space = .virt && o.num != 0 then (capFault o.cap o.ea.toNat n [if write then .w else .r]).map fun k => trapCap k o.ea else none

/-- The trap of a command's whole ranges at its dispatch (R292), in the order of R267. -/
def State.rangeTrap (s : State) (dst : Opd) (n : Nat) (reads : List (Opd × Nat)) : Option TrapInfo :=
  (s.rangeBound dst n true).or <| (reads.findSome? fun x => s.rangeBound x.1 x.2 false).or <|
    (rangeCap dst n true).or <| (reads.findSome? fun x => rangeCap x.1 x.2 false).or <|
      if dst.space = .sp && s.overwrites dst.ea.toNat n then some (trapOverwrite dst.ea) else none

/-- A destination in the pool, behind a window or in host memory (R292): the command is held until the next commit. A plain
virtual destination is looked up in every page it takes. -/
def State.heldDst (s : State) (dst : Opd) (n : Nat) : Bool :=
  match dst.space with
  | .sp => false
  | .win => true
  | .virt => dst.num != 0 || s.inHost dst n

/-- Dispatch a copy command. `reads` gives the source ranges that its dispatch checks. -/
def State.copyCmd (s : State) (tag : BitVec 6) (kind : CopyKind) (dst : Opd) (src : Option Opd) (len : Word) (cls : BitVec 4)
    (bad : Nat → Option TrapInfo) (reads : Opd → Nat → List (Opd × Nat) := fun o n => [(o, n)]) : State :=
  let n := wbits len 39 0
  let busy := match s.ctx.tag tag.toNat with | some t => tagBusy t | none => false
  if busy then s.block false
  else if wbits len 63 40 != 0 then s.raise (trapCopy 1 dst.ea)
  else
    match bad n with
    | some t => s.raise t
    | none =>
      let new := fun (st : TagSt) (left : List (Nat × Nat)) => s.mapCtx fun c =>
        { c.setTag tag.toNat (s.startTag ⟨st, 0, left, none, none, kind, dst, src.getD dst, n, cls, s.opId, c.entries, true, none⟩) with entries := c.entries + 1 }
      if n = 0 then new .done []
      else
        let rs := match src with | some o => reads o n | none => []
        match s.rangeTrap dst n rs with
        | some t => s.raise t
        | none =>
          let owned := fun (x : Opd × Nat) => x.1.space != .sp || s.spOwned x.1.ea.toNat x.2
          if !((dst, n) :: rs).all owned then s.block false
          else new (if s.heldDst dst n then .held else .running) [(0, n)]

def execXGet (q : Pred) (tag : BitVec 6) (dst src : XOpd) (len : SReg) (cls : BitVec 4) (s : State) : Out :=
  s.under q fun s => s.copyCmd tag .get (s.xopd dst) (some (s.xopd src)) (s.readS len) cls fun _ => none

def execXPut (q : Pred) (tag : BitVec 6) (dst src : XOpd) (len : SReg) (cls : BitVec 4) (s : State) : Out :=
  s.under q fun s => s.copyCmd tag .put (s.xopd dst) (some (s.xopd src)) (s.readS len) cls fun _ => none

def execXCopy (q : Pred) (tag : BitVec 6) (dst src : XOpd) (len : SReg) (cls : BitVec 4) (s : State) : Out :=
  s.under q fun s => s.copyCmd tag .copy (s.xopd dst) (some (s.xopd src)) (s.readS len) cls fun _ => none

/-- `xfill` (R294): the length is a multiple of the unit of 1, 2, 4 or 8 bytes. -/
def execXFill (q : Pred) (tag : BitVec 6) (dst : XOpd) (val len : SReg) (cls : BitVec 4) (unit : BitVec 2) (s : State) : Out :=
  s.under q fun s => s.copyCmd tag (.fill unit (s.readS val)) (s.xopd dst) none (s.readS len) cls fun n =>
    if n % 2 ^ unit.toNat ≠ 0 then some (trapCopy 1 (s.xopd dst).ea) else none

/-- `xstage` (R296). -/
def execXStage (q : Pred) (tag : BitVec 6) (dst src : XOpd) (len : SReg) (cls : BitVec 4) (key : BitVec 8) (s : State) : Out :=
  s.under q fun s => s.copyCmd tag (.xstage key) (s.xopd dst) (some (s.xopd src)) (s.readS len) cls fun n =>
    if n % 256 ≠ 0 || (s.xopd src).ea.toNat % 256 ≠ 0 then some (trapCopy 3 (s.xopd src).ea) else none

/-- `xseal` (R297). -/
def execXSeal (q : Pred) (tag : BitVec 6) (dst src : XOpd) (len : SReg) (cls : BitVec 4) (key : BitVec 8) (s : State) : Out :=
  s.under q fun s => s.copyCmd tag (.xseal key) (s.xopd dst) (some (s.xopd src)) (s.readS len) cls fun n =>
    if n % 65536 ≠ 0 || (s.xopd dst).ea.toNat % 65536 ≠ 0 then some (trapCopy 3 (s.xopd dst).ea) else none

/-- The source ranges of an `xsgather` for the element width of its page: the stored rows within the extent. -/
def State.gatherReads (s : State) (d0 d1 : Word) (o : Opd) (n : Nat) : List (Opd × Nat) :=
  match s.opdAttr o with
  | .inl (attr, _, _) => gatherRanges o (tyBits (BitVec.ofNat 4 (wbits attr 3 0))) n d0 d1
  | .inr _ => []

/-- `xsgather` (R298). -/
def execXSgather (q : Pred) (tag : BitVec 6) (dst src : XOpd) (len : SReg) (cls : BitVec 4) (desc : SReg) (s : State) : Out :=
  s.under q fun s => s.copyCmd tag (.sgather (s.readS desc) (s.readS (desc + 1))) (s.xopd dst) (some (s.xopd src)) (s.readS len) cls
    (fun _ => none) (s.gatherReads (s.readS desc) (s.readS (desc + 1)))

/-! ### Tags -/

/-- `xwait` (R299). -/
def execXWait (q : Pred) (tag : BitVec 6) (s : State) : Out :=
  s.under q fun s =>
    match s.ctx.tag tag.toNat with
    | some t => if tagBusy t then s.block false else s
    | none => s

/-- The codes of Table 11.5. -/
def tagCode : TagSt → Nat
  | .idle => 0 | .held => 1 | .running => 2 | .done => 3 | .nospace => 4 | .fenced => 5 | .linkLost => 6 | .cancelled => 7
  | .faulted => 8

/-- `xstat` (R300). -/
def CopyTag.word (t : CopyTag) : Word :=
  BitVec.ofNat 64 ((if t.st = .done then t.len else t.done) * 2 ^ 24 + tagCode t.st)

def execXStat (q : Pred) (d : SReg) (tag : BitVec 6) (s : State) : Out :=
  s.under q fun s => s.writeS d (match s.ctx.tag tag.toNat with | some t => t.word | none => 0)

/-- `xcancel` (R301). -/
def execXCancel (q : Pred) (tag : BitVec 6) (s : State) : Out :=
  s.under q fun s =>
    match s.ctx.tag tag.toNat with
    | some t => if tagBusy t then (s.stopCopy tag.toNat t .cancelled).giveBanks else s
    | none => s

/-! ### The end of a running command -/

/-- A command ends in a state: at once, or once the window writes and puts it has sent have performed, which a lost link
prevents; codes 4 to 6 send a record
(R246, R293, R301). What waited for it goes on (R289, R339). -/
def State.endCopy (s : State) (n : Nat) (t : CopyTag) (st : TagSt) : State :=
  if st != .linkLost && s.copyOut n t then s.mapCtx fun c => c.setTag n { t with left := [], ending := some st }
  else
    let s := s.mapCtx fun c => c.setTag n { t with st := st, left := [], snap := none, ending := none }
    (if st == .nospace || st == .fenced || st == .linkLost then s.emitTag n (tagCode st) t.done else s).settleTiles

/-- What a running command meets as it goes on: it stops where one of its pieces does (R292, R293, R295). -/
def State.copyStep (s : State) (n : Nat) (t : CopyTag) : PieceEnd → State
  | .ok => if t.left.isEmpty then s.endCopy n t .done else s.mapCtx fun c => c.setTag n t
  | .wait => s.mapCtx fun c => c.setTag n t
  | .page obj page => (s.mapCtx fun c => c.setTag n t).wantRead obj page
  | .fault i => if i.code = 0x42 then (s.endCopy n t .linkLost).loseStep .linkLost else (s.endCopy n t .faulted).report t.op i
  | .noSpace => s.endCopy n t .nospace
  | .fenced => (s.endCopy n t .fenced).loseStep .fenced
  | .bound => (s.endCopy n t .faulted).reportKept t.op (trapRemoteBound t.src.ea)

/-- The pages of the pool cache that a command works on are used (R426). -/
def State.copyPages (s : State) (t : CopyTag) : State :=
  [t.dst, t.src].foldl (fun s o => if o.space == .virt && o.num != 0 then
    (pagesOf o.ea.toNat t.len).foldl (fun s p => s.usePage (capObject o.cap) (p.1 / 2 ^ 16)) s else s) s

/-- A running command of the context in focus goes on (R293): with one of its pieces, or with all that is left (`last`); `off` picks the
piece, and `remote` is what a source on another package brought, to a confidential context sealed with `data` and `verify` (R388). A link lost beyond the replay window ends it. -/
def execEvCopyComplete (s : State) : Out :=
  .next (
    let n := s.arg.tag.toNat
    match s.ctx.tag n with
    | none => s
    | some t =>
      if t.st != .running then s
      else if t.left.isEmpty then s.endCopy n t (t.ending.getD .done)
      else
        match s.arg.copyEnd with
        | .linkLost => (s.endCopy n t .linkLost).loseStep .linkLost
        | .done remote =>
          let remote := if s.ctx.conf then (linkOpen s.winKey (s.arg.data, remote, s.arg.verify)).getD [] else remote
          let (s', t', e) := s.runCopy n t remote s.arg.last s.arg.off.toNat
          (s'.copyPages t).copyStep n t' e
        | _ => s)

end Sys2Proof.Machine
end

