-- ==== Sys2Proof/Machine/FullEmpty.lean ====
section
/-! DEFINITION. FullEmpty.lean: the meanings of the full/empty instructions (R274 to R277). -/
namespace Sys2Proof.Machine

/-- The bit that the context's own writes that have not performed leave at the word of a place, if any (R274). -/
def State.ownFull (s : State) (p : Place) : Option Bool :=
  let q := s.canon p
  s.ownWrites.reverse.findSome? fun e =>
    match e.act.fullBit with
    | none => none
    | some b => if e.cells.any fun c => s.canon c.1 == q then some b else none

/-- Whether the word at a place is full as the context's tagged reads see it: its own withheld effects first (R274). -/
def State.wordFull (s : State) (p : Place) : Bool :=
  let home := match p with
    | .sram a => NatSet.has s.core.full (a / 4)
    | .win w a =>
      let e := s.ctx.win w
      NatSet.has (s.boxOf (winCore e)).core.full ((winBase e + a) / 4)
    | _ => false
  (s.ownFull p).getD home

/-- Every second, fourth …: the places of the first bytes of the 32-bit words. -/
def wordPlaces : List Place → List Place
  | a :: _ :: _ :: _ :: l => a :: wordPlaces l
  | _ => []

/-- Bytes covered by a size code: 4, 8 or 256 (Table 3.15). -/
def feBytes (size : BitVec 3) : Nat := if size.toNat = 4 then 256 else 2 ^ size.toNat
def dblBytes (dbl : Bool) : Nat := if dbl then 8 else 4

/-- A tagged read: its bytes at the home it names, or what stands in the way. -/
def State.taggedRead (s : State) (o : Opd) (n : Nat) : Got × List Place :=
  match s.check o n .read [.r] n 0 with
  | .trap i => (.trap i, [])
  | .stall t => (.stall t, [])
  | .ok ps _ => (s.gotAt none (ps.zip (addrsFrom o.ea n)) [], ps)

/-- The effect of `ldf` once its bytes are there: zero-extended. -/
def State.finishLdf (s : State) (d : SReg) (b : List Byte) : State := s.writeS d (BitVec.ofNat 64 (leNat b))

/-- `ldf` waits until every word it covers is full (R275); it is an acquire. One of another package's words waits there, but not for a
word the context has itself left full; one that it has left empty is not full before its own write has performed (R274). -/
def execLLdf (q : Pred) (d : SReg) (mem : Mem) (scope : BitVec 3) (dbl : Bool) (s : State) : Out :=
  s.under q fun s =>
    let n := dblBytes dbl
    let (g, ps) := s.taggedRead (s.opd mem) n
    match g with
    | .bytes b t =>
      if (wordPlaces ps).all s.wordFull then
        let t := t.acquireAt ps scope mem.cls
        t.finishLdf d b
      else s.block true
    | .remote w a =>
      if (wordPlaces ps).any fun p => s.ownFull p == some false then s.block true
      else (s.waitRemote w a n false s.maskTop).mapCtx fun c => { c with waiting := some s.opId }
    | g => s.onGot n g fun s _ => s

/-- `ldf.take` performs in the commit forced after its bundle (R275). -/
def execLLdfTake (q : Pred) (d : SReg) (mem : Mem) (scope : BitVec 3) (dbl : Bool) (s : State) : Out :=
  s.under q fun s =>
    let o := s.opd mem
    let n := dblBytes dbl
    match s.check o n .read [] n 0 with
    | .trap i => s.raise i
    | .stall t => t.block false
    | .ok ps _ =>
      let s := s.withhold (.take d dbl) (ps.map fun p => (p, none)) o.ea mem.cls scope
      (s.mapCtx fun c => { c with pending := .s d :: c.pending }).forceAfter ⟨true, false, false, false, false⟩

/-- A tagged write of data enters the buffer (R276). -/
def State.taggedStore (s : State) (act : EntryAct) (a : SReg) (mem : Mem) (scope : BitVec 3) (dbl : Bool) : State :=
  let o := s.opd mem
  let n := dblBytes dbl
  match s.check o n .write [.w] n 0 (guard := true) with
  | .trap i => s.raise i
  | .stall t => t.block false
  | .ok ps _ => s.withhold act (ps.zip ((leBytes n (s.readS a).toNat).map some)) o.ea mem.cls scope

def execLSte (q : Pred) (a : SReg) (mem : Mem) (scope : BitVec 3) (dbl : Bool) (s : State) : Out :=
  s.under q fun s => s.taggedStore .ste a mem scope dbl
def execLStf (q : Pred) (a : SReg) (mem : Mem) (scope : BitVec 3) (dbl : Bool) (s : State) : Out :=
  s.under q fun s => s.taggedStore .stf a mem scope dbl

/-- A write of full/empty bits alone (R277). -/
def State.feBits (s : State) (act : EntryAct) (mem : Mem) (size : BitVec 3) : State :=
  let o := s.opd mem
  let n := feBytes size
  match s.check o n .write [] n 0 with
  | .trap i => s.raise i
  | .stall t => t.block false
  | .ok ps _ => s.withhold act (ps.map fun p => (p, none)) o.ea mem.cls 0

def execLFset (q : Pred) (mem : Mem) (size : BitVec 3) (s : State) : Out := s.under q fun s => s.feBits .fset mem size
def execLFclr (q : Pred) (mem : Mem) (size : BitVec 3) (s : State) : Out := s.under q fun s => s.feBits .fclr mem size

/-- One bit per covered word in address order (R277). -/
def bitWord (l : List Bool) : Word := BitVec.ofNat 64 (l.foldr (fun b n => b.toNat + 2 * n) 0)

def execLFqry (q : Pred) (d : SReg) (mem : Mem) (size : BitVec 3) (s : State) : Out :=
  s.under q fun s =>
    let n := feBytes size
    let (g, ps) := s.taggedRead (s.opd mem) n
    match g with
    | .bytes _ t => t.writeS d (bitWord ((wordPlaces ps).map s.wordFull))
    | g => s.onGot 8 g fun s _ => s

end Sys2Proof.Machine
end

