-- ==== Sys2Proof/Machine/Fences.lean ====
section
/-! DEFINITION. Fences.lean: the meanings of the prefetch, the fence, bank release, capability loads, and the domain phase
synchronisation `dsync` (R39 to R42, R242 to R244, R287 to R291, R354 to R357). -/
namespace Sys2Proof.Machine

/-! ### Prefetch and capabilities -/

/-- The sectors of the 256-byte lines that places lie in. -/
def linesOf (ps : List Place) : NatSet :=
  ps.foldl (fun l p => match p with
    | .hbm a => (natRange (a / 256 * 4) 4).foldl NatSet.add l
    | _ => l) []

/-- `pf` (R287): the line of the byte enters the near cache; without DROP a fault is raised at the next bundle boundary. A pool page is
asked for and comes into the pool cache later. -/
def execLPf (q : Pred) (mem : Mem) (drop : Bool) (s : State) : Out :=
  s.under q fun s =>
    match s.check (s.opd mem) 1 .read [.r] 1 0 with
    | .trap i => if drop then s else s.report s.opId i
    | .stall t => t
    | .ok ps xs => (if xs.isEmpty then s else s.fillTlb xs).mapPkg fun k => (linesOf ps).foldl (nearLoad s.coreNum) k

/-- Some byte of a capability load lies in a page that is no capability page (R290); CAP_FAULT comes before ALIGN and PAGE_FAULT (R267),
so a page that does not translate says nothing yet. -/
def State.capMissing (s : State) (o : Opd) : Bool :=
  if o.num = 0 then
    (pagesOf o.ea.toNat 16).any fun (lo, _) => match s.translate lo with
      | .ok e => !e.capPg
      | .error _ => false
  else
    ((capFault o.cap o.ea.toNat 16 [.r]).or (s.objectFault o.cap ((o.ea.toNat + 15) / 2 ^ 16) false)).isNone
      && !((s.pageAttr (capObject o.cap) (o.ea.toNat / 2 ^ 16)).2.2 && (s.pageAttr (capObject o.cap) ((o.ea.toNat + 15) / 2 ^ 16)).2.2)

def execLCld (q : Pred) (d : CReg) (mem : Mem) (s : State) : Out :=
  s.under q fun s =>
    let o := s.opd mem
    if s.capMissing o then s.raise (trapCap 5 o.ea)
    else s.onGot 16 (s.got o 16 16 0 (some mem.cls)) fun s b => s.writeC d (BitVec.ofNat 128 (leNat b))

def execLCdrop (q : Pred) (d : CReg) (s : State) : Out := s.under q fun s => s.writeC d 0

/-! ### Bank release (R289) -/

/-- Bits for bank 0, for accumulator and donor banks, and for banks the context does not own are ignored. -/
def State.releasable (s : State) (x : Word) : Word :=
  BitVec.ofNat 64 ((natRange 0 64).foldl (fun m b =>
    if x.getLsbD b && decide (b > s.ctx.accBanks + s.ctx.donor) && s.core.owner.toList.getD b none == some s.slotNum then m + 2 ^ b else m) 0)

def execLBrel (q : Pred) (a : SReg) (s : State) : Out :=
  s.under q fun s =>
    let m := s.releasable (s.readS a)
    let s := s.withhold (.brel m) [] 0 0 0
    s.mapCtx fun c => { c with released := c.released ||| m }

/-! ### Fences (R242 to R244, R288) -/

/-- A class that a fence orders: those of its mask, and class 0. -/
def inMask (mask : BitVec 16) (c : BitVec 4) : Bool := c == 0 || mask.getLsbD c.toNat

def fencePick (mask : BitVec 16) (c : BitVec 4) (_ : Nat) : Bool := inMask mask c

/-- When the latest write of the context in focus performed, as far as it replaced a byte. -/
def State.lastWrite (s : State) : Nat :=
  s.pkg.hist.foldl (fun t o => if (match o.who with | some a => sameAgent a s.agent | none => false) then max t o.at_ else t) 0

/-- The acquire of a fence (Table 10.5): what the loads of its classes have read, and for a full fence what its context has written, comes
before every later access of them, for the observers of its scope; what those loads have read of writes that follow a release fence is
acquired with it (R248). -/
def State.fenceAcquire (s : State) (mask : BitVec 16) (scope : BitVec 3) (full : Bool) : State :=
  let classes := classesIn mask
  let t := (classes.map fun c => s.ctx.lastRead.toList.getD c 0).foldl max (if full then s.lastWrite else 0)
  let mine := s.ctx.acqFence.filter fun e => inMask mask e.1
  let s := s.mapCtx fun c => { c.raiseFloors scope.toNat classes t with acqFence := c.acqFence.filter fun e => !inMask mask e.1 }
  mine.foldl (fun s e => s.acquireOf e.2 e.2.fence scope classes) s

/-- The release of a fence: stores of its classes that enter later perform after what has entered by now (R242), and carry the release
(R248, R260). -/
def Context.fenceRelease (c : Context) (mask : BitVec 16) (scope : BitVec 3) : Context :=
  { c with fences := c.fences ++ [(c.entries, mask)],
           relFence := Vector.ofFn fun i => if i.val == 0 || mask.getLsbD i.val then some (c.interval, scope) else c.relFence[i] }.endInterval

/-- Kinds: 1 acquire, 2 release, 3 both (Table 3.15). A release of crew or system scope waits as R244 gives, and a full fence until every
access of its classes has performed. The forced checkpoints of R243 and R288 come before the bundle. -/
def execLFence (q : Pred) (mask : BitVec 16) (scope : BitVec 3) (kind : BitVec 2) (s : State) : Out :=
  s.under q fun s =>
    let rel := kind.getLsbD 1
    let full := rel && kind.getLsbD 0
    if (rel && !s.scopeQuiet scope (fencePick mask)) || (full && !s.pkgQuiet (fencePick mask)) then s.block false
    else
      let s := if rel then s.mapCtx fun c => c.fenceRelease mask scope else s
      let s := if kind.getLsbD 0 then s.fenceAcquire mask scope full else s
      s.mapCtx fun c => { c with entries := c.entries + 1 }

/-! ### Domain phases -/

/-- The unit of the context's domain at its level (R40). -/
def unitOf (level : BitVec 3) (core : BitVec 7) : BitVec 7 :=
  match level.toNat with
  | 0 => core | 1 => core >>> 2 | 2 => core >>> 6 | _ => 0

/-- What names the domain: the partition with the launch, or with the crew (R40). -/
def Context.domainKey (c : Context) : BitVec 44 := c.info.pid ++ (if c.level = 4 then c.info.crew else c.info.launchId)

def samePhase (level : BitVec 3) (unit : BitVec 7) (key : BitVec 44) (r : PhaseRec) : Bool :=
  r.level == level && r.unit == unit && r.key == key

/-- An arrival at a domain's home (R356): at the last member's the phase word is filled and the count begins again. -/
def Package.arrive (k : Package) (level : BitVec 3) (unit : BitVec 7) (key : BitVec 44) (phase : BitVec 12) (members : Nat) : Package :=
  let r := (k.phases.find? (samePhase level unit key)).getD ⟨level, unit, key, phase, 0, none⟩
  let n := r.count + 1
  let r := if n ≥ members then { r with phase := phase + 1, count := 0, filled := some phase } else { r with phase := phase, count := n }
  { k with phases := r :: k.phases.filter fun x => !samePhase level unit key x }

/-- The home of a domain on another package has filled its phase word, as this package hears (R356). -/
def Package.phaseFilled (k : Package) (level : BitVec 3) (unit : BitVec 7) (key : BitVec 44) (phase : BitVec 12) : Package :=
  { k with phases := ⟨level, unit, key, phase + 1, 0, some phase⟩ :: k.phases.filter fun x => !samePhase level unit key x }

/-- The phase word for a phase is full. -/
def Package.phaseFull (k : Package) (level : BitVec 3) (unit : BitVec 7) (key : BitVec 44) (phase : BitVec 12) : Bool :=
  match k.phases.find? (samePhase level unit key) with
  | some r => r.filled == some phase
  | none => false

/-- This package holds the home of a domain: every home but that of a crew of which another package holds rank 0 (R356). -/
def State.domainHere (s : State) : Bool :=
  s.ctx.level != 4 || s.ctx.info.crewRank == 0
    || (s.pkg.launches.any fun l => leField l.bytes 0x10 4 == s.ctx.info.crew.toNat && leField l.bytes 0x14 4 == 0
        && l.part == s.ctx.info.part.toNat)

/-- A member's arrival goes to its domain's home (R355 step 3); the manual does not say how the way to another package's home is
known, so a free value names the link (log 19). -/
def State.sendArrival (s : State) : State :=
  let c := s.ctx
  let s := s.mapCtx fun c => { c with arrived := some c.phase }
  if s.domainHere then s.mapPkg fun k => k.arrive c.level (unitOf c.level s.coreNum) c.domainKey c.phase c.members
  else s.mapPkg fun k => k.sendOn s.clock (k.fabricLinks.getD (Config.freeNat s.clock % (k.fabricLinks.length + 1)) 32) 1

/-- Every access that entered before has performed at the scope of a level (R355 step 2): fills, copies, drains and writes, at crew scope
as R244 gives. -/
def State.levelQuiet (s : State) (level : BitVec 3) : Bool :=
  s.pkgQuiet (fun _ _ => true) && s.ctx.tags.all (fun t => t.2.st != .held)
    && s.core.drains.all (fun d => d.slot != s.slotNum) && (level != 4 || s.crewQuiet fun _ _ => true)

def execLDsync (q : Pred) (s : State) : Out :=
  s.under q fun s =>
    let level := s.ctx.level
    let pass := fun (s : State) => s.forceAfter ⟨true, false, true, false, false⟩
    if !s.levelQuiet level then s.block false
    else if level = 0 then pass s
    else
      let s := if s.ctx.arrived = some s.ctx.phase then s else s.sendArrival
      if s.pkg.phaseFull level (unitOf level s.coreNum) s.ctx.domainKey s.ctx.phase then pass s else s.block true

end Sys2Proof.Machine
end

