-- ==== Sys2Proof/Machine/Launch.lean ====
section
/-! DEFINITION. Launch.lean: launch records, segment headers, placement, completion, kill and cancellation
(R25 to R32, R40, R47, R192, R256, R344 to R353, R364, R381 to R383, R446). -/
namespace Sys2Proof.Machine

/-! ### Launch records (Table 14.1) -/

def Launch.f (l : Launch) (off n : Nat) : Nat := leField l.bytes off n
def Launch.control (l : Launch) : Nat := l.f 0 4
def Launch.id (l : Launch) : BitVec 32 := BitVec.ofNat 32 (l.f 4 4)
def Launch.partWord (l : Launch) : BitVec 32 := BitVec.ofNat 32 (l.f 8 4)
def Launch.cancel (l : Launch) : BitVec 32 := BitVec.ofNat 32 (l.f 0xC 4)
def Launch.crew (l : Launch) : Nat := l.f 0x10 4
def Launch.step (l : Launch) : Word := BitVec.ofNat 64 (l.f 0x68 8)
def Launch.prio (l : Launch) : Nat := bits l.control 5 0
def Launch.count (l : Launch) : Nat := bits l.control 14 8 + 1
def Launch.exact (l : Launch) : Bool := l.control.testBit 15
def Launch.level (l : Launch) : Nat := bits l.control 18 16
def Launch.debug (l : Launch) : Bool := l.control.testBit 19
def Launch.compq (l : Launch) : Nat := l.f 0x60 8
def Launch.coreset (l : Launch) : Nat := l.f 0x50 16
def Launch.segment (l : Launch) : Nat := l.f 0x20 8
def Launch.preds (l : Launch) : List Nat := (natRange 0 4).map fun i => l.f (0x40 + 4 * i) 4

def State.partAt (s : State) (p : Nat) : Option PartDesc := s.pkg.parts.toList.getD p none

/-- A core that exists in the part (R14). -/
def Package.coreExists (k : Package) (c : Nat) : Bool :=
  let cl := if c < 64 then wbits k.shape 4 0 else wbits k.shape 12 8
  decide (c < 128) && decide ((c % 64) / 4 < cl)

/-- The cores of a partition that a record's CORESET allows, in increasing number. -/
def State.allowedCores (s : State) (l : Launch) : List (BitVec 7) :=
  match s.partAt l.part with
  | none => []
  | some d => ((natRange 0 128).filter fun c => s.pkg.coreExists c && d.clMask.getLsbD (c / 4) && l.coreset.testBit c).map
      (BitVec.ofNat 7)

/-- R47: MCTAB beside a record of no crew or of another rank, or a used group descriptor with a reserved bit or a COUNT above 64. -/
def State.badGroups (s : State) (l : Launch) : Bool :=
  let mc := l.f 0x78 8
  mc != 0 && (l.crew == 0 || l.f 0x14 4 != 0 || s.devOk mc 16640 && (natRange 0 16).any fun i =>
    let h := s.cpBytes (mc + 1040 * i) 1040
    let n := bits (leField h 0 1) 6 0
    n != 0 && ((leField h 0 16 != n) || decide (n > 64) || (natRange 0 n).any fun j =>
      let e := sliceBytes h (16 + 16 * j) 16
      decide (leField e 0 4 ≥ 2 ^ 19) || decide (leField e 4 1 ≥ 128) || leField e 5 1 != 0
        || decide (leField e 6 2 ≥ 2 ^ 14) || decide (leField e 8 2 ≥ 2 ^ 14) || leField e 10 6 != 0))

/-- BAD_RECORD (R345). -/
def State.badRecord (s : State) (l : Launch) : Bool :=
  bits l.control 31 20 != 0 || bits l.control 7 6 != 0 || l.f 0x74 4 != 0
  || decide (l.compq ≥ 32) || (!l.sched && l.compq.testBit 4)
  || l.id == 0 || (s.pkg.launches.any fun x => x.part == l.part && x.id == l.id)
  || decide (l.level ≥ 5) || (l.level == 4 && l.crew == 0)
  || (l.crew == 0 && (l.f 0x1C 4 != 0 || l.f 0x18 4 != 0 || l.f 0x70 4 != 0))
  || (l.crew != 0 && decide (l.f 0x14 4 ≥ l.f 0x18 4))
  || (s.devOk (l.f 0x30 8) 256 && (natRange 0 16).any fun i =>
      let w := s.cpLe (l.f 0x30 8 + 16 * i) 8
      let a := s.cpLe (l.f 0x30 8 + 16 * i + 8) 8
      w.testBit 63 && !(decide (1 ≤ bits a 25 16) && decide (bits a 25 16 ≤ 512)))
  || (l.exact && ((natRange 0 128).filter l.coreset.testBit).length != l.count)
  || ((natRange 0 128).any fun c => l.coreset.testBit c &&
      !(s.pkg.coreExists c && (match s.partAt l.part with | some d => d.clMask.getLsbD (c / 4) | none => false)))
  || (l.preds.any fun p => p == l.id.toNat) || s.badGroups l

/-- BAD_PARTITION (R32), with the bounds of the segment header. -/
def badPartition (pw : BitVec 32) (lo hi : Nat) : Bool :=
  let acc := wbits pw 4 0
  let don := wbits pw 12 8
  decide (acc > 24) || decide (don > 8) || wbits pw 31 13 != 0 || wbits pw 7 5 != 0
    || decide (lo > hi) || decide (lo < (acc + don + 1) * 2 ^ 16) || decide (hi > 0x3FFFFF)

/-! ### Completion records (R347, R446) -/

def State.mboxBase (s : State) (m : Nat) : Nat := (s.pkg.reg (0x1008 + 16 * m)).toNat

/-- Write the held completion records whose ring has room and whose sources' earlier event records have been written, each ring in order. -/
def State.deliver (s : State) : List HeldCmpl → List HeldCmpl → State
  | [], kept => s.mapPkg fun k => { k with cmpl := kept }
  | h :: l, kept =>
    let b := s.mboxBase h.mbox
    let sz := 2 ^ (s.cpLe (b + 8) 1)
    let prod := s.cpLe (b + 16) 4
    let cons := s.cpLe (b + 20) 4
    if kept.any (·.mbox == h.mbox) || h.after.any s.pkg.events.elem || decide ((prod + 2 ^ 32 - cons) % 2 ^ 32 ≥ sz) then
      State.deliver s l (kept ++ [h])
    else
      let s := s.cpPut (b + 64 + 128 * sz + 32 * (prod % sz)) h.record
      let s := s.cpPut (b + 16) (leBytes 4 (prod + 1))
      State.deliver s l kept

/-- A stopped command processor sends nothing (R442). -/
def State.flushCmpl (s : State) : State := if s.pkg.stopped then s else s.deliver s.pkg.cmpl []

/-- Statuses of Table 14.2. -/
def stDone : Nat := 1
def stCancelled : Nat := 2
def stKilled : Nat := 3
def stBadRecord : Nat := 4
def stBadPartition : Nat := 5
def stBadSegment : Nat := 6

/-- The event records that wait for their ring and come before a completion record (R19): those of its launch's cores, and the command
processor's own in its partition. -/
def Package.waitingOf (k : Package) (part : Nat) (cores : List Nat) : List (Nat × List Byte) :=
  k.events.filter fun e => (leField e.2 0 1 == 1 && cores.elem (leField e.2 2 2)) || (leField e.2 0 1 == 4 && e.1 == part)

/-- A record of the command processor waits behind a completion record that it produced earlier in the partition and still holds (R19). -/
def Package.afterCmpl (k : Package) (e : Nat × List Byte) : Bool :=
  leField e.2 0 1 == 4 && k.cmpl.any fun h => h.part == e.1 &&
    (let d := (leField e.2 32 4 + 2 ^ 32 - leField h.record 12 4) % 2 ^ 32
     decide (0 < d) && decide (d < 2 ^ 31))

/-- A completion record to the mailbox COMPQ names (R347); a record from the schedule only with REPORT. It comes after the trap records
of its launch's cores, and after the step-commit records before it (R19). -/
def State.complete (s : State) (l : Launch) (status : Nat) (trap : Word × Word) : State :=
  if l.sched && !l.compq.testBit 4 then s
  else
    let r := leBytes 4 l.id.toNat ++ leBytes 4 l.cancel.toNat ++ leBytes 4 status ++ leBytes 4 s.pkg.cpSeq.toNat
      ++ leBytes 8 trap.1.toNat ++ leBytes 8 trap.2.toNat
    (s.mapPkg fun k => { k with cmpl := k.cmpl ++ [⟨l.compq % 16, r, k.waitingOf l.part (l.place.map fun x => x.1.toNat), l.part⟩], cpSeq := k.cpSeq + 1 }).flushCmpl

/-! ### Launches by name -/

def State.findLaunch (s : State) (part : Nat) (id : BitVec 32) : Option Launch :=
  s.pkg.launches.find? fun l => l.part == part && l.id == id

def State.setLaunch (s : State) (l : Launch) : State :=
  s.mapPkg fun k => { k with launches := mapIf (fun x => x.part == l.part && x.id == l.id) (fun _ => l) k.launches }

/-- A dispatch decision is due in a partition (R349). -/
def State.wantDecision (s : State) (p : Nat) : State :=
  s.mapPkg fun k => { k with sched := Vector.ofFn fun i =>
    let x := k.sched[i]
    if i.val = p then { x with due := x.due + 1 } else x }

/-- A launch ends: its log goes, with what it still held, its run of R351 and what asks for its cancellation; writes aimed at one that never
became resident are discarded (R417). -/
def State.dropLaunch (s : State) (l : Launch) : State :=
  let pid := ((s.partAt l.part).map fun (d : PartDesc) => d.pid).getD 0
  s.mapPkg fun k => { k with
    gone := if l.st == .accepted || l.st == .loading then
        k.gone ++ (k.logs.filter fun x => x.part == l.part && x.launchId == l.id).map fun x => (pid, BitVec.ofNat 32 l.crew, x.core)
      else k.gone
    launches := k.launches.filter fun x => !(x.part == l.part && x.id == l.id)
    cancels := k.cancels.filter fun x => !(x.part == l.part && x.launch == l.id)
    sched := Vector.ofFn fun i =>
      let x := k.sched[i]
      if i.val = l.part && x.first.map (·.1) == some l.id then { x with first := none } else x
    logs := k.logs.filter fun x => !(x.part == l.part && x.launchId == l.id)
    phases := k.phases.filter fun x =>
      let pid := (((k.parts.toList.getD l.part none).map fun (d : PartDesc) => d.pid).getD 0).toNat
      !((x.level.toNat < 4 && x.key.toNat == pid * 2 ^ 32 + l.id.toNat)
        || (x.level.toNat == 4 && x.key.toNat == pid * 2 ^ 32 + l.crew
            && !(k.launches.any fun y => y.part == l.part && y.crew == l.crew && y.id != l.id)))
    saved := k.saved.filter fun x => !(x.part == l.part && x.launchId == l.id) }

/-- The launch of the context in focus. -/
def State.launchHere (s : State) : Option Launch := s.findLaunch s.ctx.info.part.toNat s.ctx.info.launchId

/-! ### Leaving a core -/

/-- The context in focus leaves its slot: its banks pass (R27, R353), the other slot becomes current (R25). The next-launch slot becomes
free when both were taken (R349). -/
def State.leaveCore (s : State) (keep : Bool) : State :=
  let mine := (natRange 1 63).filter fun b => s.core.owner.toList.getD b none == some s.slotNum
  let s := mine.foldl (fun s b => s.passBank keep b) s
  let s := s.cancelRecords
  let s := if s.peer.live then s.wantDecision s.ctx.info.part.toNat else s
  { s with ctx := .none,
           core := { s.core with
             drains := s.core.drains.filter fun d => d.slot != s.slotNum
             current := if s.peer.live then !s.slotNum else s.core.current } }

/-- A context of a launch that is killed or cancelled (R364): rolled back, its copies stopped, its tiles emptied; its slot is
freed and its banks pass with no contents. -/
def State.killHere (s : State) : State :=
  let s := s.rollback
  let s := s.stopCopies (fun _ => true) .cancelled
  (s.mapCtx fun c => { c with tiles := Vector.replicate 32 .none, fault := [] }).leaveCore false

def State.killAll (s : State) (l : Launch) : State :=
  l.place.foldl (fun s (c, sl) => s.at_ c sl fun s => if s.ctx.live && s.ctx.info.launchId == l.id && s.ctx.info.part.toNat == l.part
    then s.killHere else s) s

/-- A reservation held by a record that ends, ends (R350). -/
def State.dropRes (s : State) (l : Launch) : State :=
  s.mapPkg fun k => { k with sched := Vector.ofFn fun i =>
    let x := k.sched[i]
    if i.val = l.part && x.res.map (·.1) == some l.id then { x with res := none } else x }

/-- The step attempt that a launch belongs to, by its schedule or by its STEP (Table 14.1), is to be declared lost (R430). -/
def State.loseStepOf (s : State) (l : Launch) (c : LossCause) : State :=
  match (s.pkg.schedule.toList.getD l.part none).bind (·.current) with
  | some a => if l.sched then s.loseAttempt l.part a.record.step c else if l.step = 0 then s else s.loseAttempt l.part l.step c
  | none => s

/-- The crew registrations of a partition that no launch of it uses any more are withdrawn (R47). -/
def State.dropGroups (s : State) (p : Nat) : State :=
  let pid := ((s.partAt p).map fun (d : PartDesc) => d.pid).getD 0
  let used := fun (k : Package) (crew : BitVec 32) => k.launches.any fun l => l.part == p && BitVec.ofNat 32 l.crew == crew
  s.mapPkg fun k => { k with groups := k.groups.filter fun g => g.pid != pid || used k g.crew }

/-- A launch ends KILLED, with the trap record of the context that ended it (R347, R403). -/
def State.killLaunch (s : State) (l : Launch) (trap : Word × Word) : State :=
  let s := (s.killAll l).dropRes l
  (((s.dropLaunch l).complete l stKilled trap).dropGroups l.part).loseStepOf l .fault

/-- A launch ends CANCELLED (R364). -/
def State.cancelLaunch (s : State) (l : Launch) : State :=
  let s := (s.killAll l).dropRes l
  (s.dropLaunch l).complete l stCancelled (0, 0)

/-- A cancellation of a token in a partition (R364): the launch that raised NONFINITE ends KILLED with its trap record. -/
def State.cancelToken (s : State) (part : Nat) (token : BitVec 32) (raiser : Option (BitVec 32 × Word × Word)) : State :=
  let hit := fun (l : Launch) => l.part == part && l.st != .flushing &&
    ((token != 0 && l.cancel == token) || (match raiser with | some r => r.1 == l.id | none => false))
  let ls := s.pkg.launches.filter hit
  let s := ls.foldl (fun s l => s.setLaunch { l with cancelled := true }) s
  let s := ls.foldl (fun s l => (s.killAll l).dropRes l) s
  let s := ls.foldl (fun s l => match raiser with
    | some (id, a, b) => if id = l.id then (s.dropLaunch l).complete l stKilled (a, b) else (s.dropLaunch l).complete l stCancelled (0, 0)
    | none => (s.dropLaunch l).complete l stCancelled (0, 0)) s
  let s := (s.wantDecision part).dropGroups part
  ls.foldl (fun s l => s.loseStepOf l .cancelled) s

/-! ### Segment headers (R381 to R383) -/

structure Segment where
  base : Nat
  head : List Byte
  deriving DecidableEq, Repr

/-- The header that a placed launch holds (R352, R383). -/
def Launch.seg (l : Launch) : Segment := ⟨l.segment, l.header⟩
def Segment.f (g : Segment) (off n : Nat) : Nat := leField g.head off n
def Segment.conf (g : Segment) : Bool := (g.f 6 2).testBit 0
def Segment.codeLen (g : Segment) : Nat := g.f 0x18 4

/-- A byte range lies in the partition's share of the local region (R383). -/
def State.inLocal (s : State) (d : PartDesc) (a n : Nat) : Bool :=
  n == 0 || (!a.testBit 51 && dpaRegion a == 1 && !s.pkg.noMemory a && !s.pkg.noMemory (a + n - 1) && dpaRegion (a + n - 1) == 1
    && partInShare d a && partInShare d (a + n - 1))

/-- The signatures of a segment against its signer's table entry (R381, R382). -/
def State.segmentSigned (s : State) (d : PartDesc) (g : Segment) : Bool :=
  let e := s.cpBytes (d.signTab.toNat + 256 * g.f 0xC 4) 256
  let dig := Config.sha384 (g.head.take 0x120)
  let lms := s.cpBytes (g.base + 0x180) (g.f 0x110 2)
  decide (g.f 0xC 4 < 8) && (leField e 0 1).testBit 0
    && Config.ecdsaVerify (sliceBytes e 0x10 97) dig (sliceBytes g.head 0x120 96)
    && Config.lmsVerify (sliceBytes e 0x80 56) dig lms
    && Config.sha384 (s.cpBytes (g.base + g.f 0x40 8) (g.f 0x48 8)) == sliceBytes g.head 0xE0 48
    && Config.sha384 (s.cpBytes (g.base + g.f 0x30 8) (8 * g.f 0x38 4)) == sliceBytes g.head 0xB0 48

def State.keyLoaded (s : State) (d : PartDesc) (slot : Nat) (kind : KeyKind) : Bool :=
  decide (d.keyLo.toNat ≤ slot) && decide (slot ≤ d.keyHi.toNat) &&
    (match s.pkg.keys.find? (·.1 == slot) with | some (_, k, _) => k == kind | none => false)

/-- BAD_SEGMENT at step 2 of R352 (R383, R394) for the header that has been read; `held` when its digest is already verified for the
partition. -/
def State.badSegment (s : State) (l : Launch) (held : Bool) : Bool :=
  match s.partAt l.part with
  | none => true
  | some d =>
    let g := l.seg
    let wt := fun i => s.cpLe (l.f 0x30 8 + 16 * i) 8
    let ct := fun i => BitVec.ofNat 128 (s.cpLe (l.f 0x28 8 + 16 * i) 16)
    let tdi := s.pkg.tdi.toList.getD l.part .unlocked
    g.f 0 4 != 0x43524D53 || g.f 4 2 != 1 || decide (g.f 6 2 ≥ 2) || g.f 0x5E 2 != 0 || g.f 0x64 4 != 0 || g.f 0x78 8 != 0
      || g.f 0x112 14 != 0 || (g.f 0x5C 2).testBit 0
    || decide (g.f 8 4 < d.minSvn.toNat)
    || (!held && !s.segmentSigned d g)
    || g.f 0x60 4 != l.partWord.toNat
    || (g.conf && l.debug) || (g.conf && tdi != .run)
    || decide (g.f 0x1C 4 > 16384)
    || !(s.inLocal d g.base (0x180 + g.f 0x110 2) && s.inLocal d (g.base + g.f 0x10 8) (2 * g.codeLen)
        && s.inLocal d (g.base + g.f 0x28 8) (256 * ((g.codeLen + 1023) / 1024))
        && s.inLocal d (g.base + g.f 0x20 8) (48 * g.f 0x1C 4)
        && s.inLocal d (g.base + g.f 0x30 8) (8 * g.f 0x38 4) && s.inLocal d (g.base + g.f 0x40 8) (g.f 0x48 8))
    || !s.keyLoaded d (g.f 0x58 1) .gcm
    || (g.conf && l.crew != 0 && !s.keyLoaded d (g.f 0x59 1) .link)
    || decide (g.f 0x3C 4 > 512) || decide (g.f 0x38 4 > g.f 0x3C 4)
    || (s.devGood (l.f 0x28 8) 256 && (natRange 1 15).any fun i => (g.f 0x5C 2).testBit i && Sys2Proof.Machine.capPages (ct i) == 0)
    || (s.devGood (l.f 0x30 8) 256 && (natRange 0 16).any fun i => (g.f 0x5A 2).testBit i && !(wt i).testBit 63)
    || !s.devGood g.base (0x180 + g.f 0x110 2)

/-! ### Placement (R352) -/

/-- The slot a launch takes on a core: the next one, or the current one of an idle core (R25, log 18). -/
def State.nextSlot (s : State) (c : BitVec 7) : Option Bool :=
  let b := s.boxOf c
  let cur := b.core.current
  let liveAt := fun (sl : Bool) => if sl then b.ctx1.live else b.ctx0.live
  if !liveAt cur then (if liveAt (!cur) then none else some cur)
  else if liveAt (!cur) then none else some (!cur)

def State.freeSet (s : State) (p : Nat) : List (BitVec 7) :=
  match s.partAt p with
  | none => []
  | some d => ((natRange 0 128).filter fun c => s.pkg.coreExists c && d.clMask.getLsbD (c / 4)).map (BitVec.ofNat 7)
      |>.filter fun c => (s.nextSlot c).isSome

/-- DOMAIN at launch (R39, R40, R344) for the context of INDEX `i` on a core, the launch being on `cores`. -/
def domainAt (l : Launch) (cores : List (BitVec 7)) (i : Nat) (core : BitVec 7) : Word :=
  let unit := fun (c : BitVec 7) => match l.level with
    | 0 => c.toNat | 1 => c.toNat / 4 | 2 => c.toNat / 64 | _ => 0
  let mates := cores.filter fun c => unit c == unit core
  let (members, index) := if l.level = 4 then (l.f 0x1C 4, l.f 0x70 4 + i)
    else (mates.length, (mates.filter fun c => decide (c.toNat < core.toNat)).length)
  BitVec.ofNat 64 (members % 2 ^ 24 * 2 ^ 28 + index % 2 ^ 24 * 2 ^ 4 + l.level)

/-- A window entry as the command processor writes it (R4, R43): reserved bits zero; one that names no context of the launch or its crew is
not written. A crew has one launch on a package (R24); which cores its other members take is not known here (log 60). -/
def State.windowEntry (s : State) (l : Launch) (cores : List (BitVec 7)) (x : Nat) : Word :=
  let w := BitVec.ofNat 64 x
  let w := if winMC w then setBits (setBits (setBits w 61 47 0) 42 36 0) 7 0 0 else setBits w 7 0 0
  let here := !winMC w && winPkg w == s.pkg.num
  if (here && !cores.elem (winCore w)) || (l.crew == 0 && !here) then 0 else w

/-- The first state of a context (R352 step 4). -/
def State.firstContext (s : State) (l : Launch) (cores : List (BitVec 7)) (i : Nat) (core : BitVec 7) (slot : Bool)
    (dict : List (BitVec 384)) : Context :=
  let g := l.seg
  let cap := fun (n : Nat) => BitVec.ofNat 128 (s.cpLe (l.f 0x28 8 + 16 * n) 16)
  let regs := { Regs.zero with c := Vector.ofFn fun n => if n.val = 0 then 0 else cap n.val }
  let wt := l.f 0x30 8
  { Context.none with
    live := true
    info := { launchId := l.id, cancel := l.cancel, pid := ((s.partAt l.part).map (·.pid)).getD 0, part := BitVec.ofNat 3 l.part,
              asid := l.asid, crew := BitVec.ofNat 32 l.crew, crewRank := BitVec.ofNat 32 (l.f 0x14 4), step := l.step,
              prio := BitVec.ofNat 6 l.prio, compq := BitVec.ofNat 5 l.compq, winKey := BitVec.ofNat 8 (g.f 0x59 1),
              conf := g.conf, debug := l.debug }
    image := { codeLen := g.codeLen, codeBase := g.base + g.f 0x10 8, sideBase := g.base + g.f 0x28 8,
               dict := dict, blocks := [], codeKey := BitVec.ofNat 8 (g.f 0x58 1), nonce := BitVec.ofNat 64 (g.f 0x50 8) }
    regs := regs
    ckpt := regs
    status := BitVec.ofNat 64 ((if l.debug then 8 else 0) + g.conf.toNat * 32)
    spLo := BitVec.ofNat 64 (g.f 0x68 8)
    spHi := BitVec.ofNat 64 (g.f 0x70 8)
    domain := domainAt l cores i core
    stepToken := BitVec.ofNat 64 (l.f 0x38 8)
    partWord := l.partWord
    ctxId := BitVec.ofNat 32 (i * 2 ^ 16 + (l.count - 1) * 2 ^ 8 + slot.toNat * 2 ^ 7 + core.toNat)
    window := Vector.ofFn fun n => s.windowEntry l cores (s.cpLe (wt + 16 * n.val) 8)
    wallow := Vector.ofFn fun n => BitVec.ofNat 64 (bits (s.cpLe (wt + 16 * n.val + 8) 8) 25 16 * 2 ^ 16)
    micro := ⟨g.f 0x3C 4, [], [], []⟩ }

/-- Banks at admission (R27, R28, R353): each bank the new launch uses that has no owner and that the current launch does not hold, cleared.
A bank that the current launch holds, or has released without its having passed, passes from it later. -/
def State.admitBanks (s : State) : State :=
  (natRange 1 63).foldl (fun s b =>
    if s.ctx.holdsBank b && (s.core.owner.toList.getD b none).isNone && !(s.peer.holdsBank b && s.core.current != s.slotNum) then
      { s with core := (s.core.clearBank b).setOwner b (some s.slotNum) }
    else s) s

/-- What stands in a slot that is taken before its context is set (R352 step 1), with what names its banks. -/
def slotTaken (l : Launch) (pid : BitVec 12) (spLo spHi released : Word) : Context := { Context.none with
  live := true, info := { LaunchInfo.none with launchId := l.id, part := BitVec.ofNat 3 l.part, pid := pid },
  partWord := l.partWord, spLo := spLo, spHi := spHi, relCkpt := released }

/-- The chosen record ends before its contexts issue, and frees its slots (R352). -/
def State.endPlaced (s : State) (l : Launch) (status : Nat) : State :=
  let s := l.place.foldl (fun s (c, sl) => s.at_ c sl fun s => if s.ctx.info.launchId == l.id && s.ctx.info.part.toNat == l.part
    then s.leaveCore false else s) s
  (((s.dropRes l).dropLaunch l).complete l status (0, 0)).loseStepOf l .fault

/-- Of a crew's targets on this package only the cores that its launch takes are contexts of the crew (R24, R47). -/
def State.settleGroups (s : State) (l : Launch) (cores : List (BitVec 7)) : State :=
  let pid := ((s.partAt l.part).map fun (d : PartDesc) => d.pid).getD 0
  let mine := fun (g : McGroup) => g.pid == pid && l.crew != 0 && g.crew == BitVec.ofNat 32 l.crew
  let left := fun (g : McGroup) => { g with targets := g.targets.filter fun t => t.1 != s.pkg.num || cores.elem t.2.1 }
  s.mapPkg fun k => { k with groups := mapIf mine left k.groups }

/-- Steps 1 and 2 of R352 on chosen cores: the header is read once, and held. -/
def State.placeOn (s : State) (l : Launch) (cores : List (BitVec 7)) : State :=
  let place := cores.map fun c => (c, (s.nextSlot c).getD false)
  let l := { l with place := place, st := .loading, header := s.cpBytes l.segment 0x180, blocks := [] }
  let s := s.setLaunch l
  let pid := ((s.partAt l.part).map fun (d : PartDesc) => d.pid).getD 0
  let take := fun (s : State) (lo hi : Word) => place.foldl (fun s (c, sl) => s.at_ c sl fun s => { s with ctx := slotTaken l pid lo hi 0 }) s
  let s := take s 0 0
  let dig := Config.sha384 l.header
  let held := s.pkg.headers.elem (l.part, dig)
  if s.badSegment l held then s.endPlaced l stBadSegment
  else
    let g := l.seg
    if badPartition l.partWord (g.f 0x68 8) (g.f 0x70 8) then s.endPlaced l stBadPartition
    else
      let s := if held then s else s.mapPkg fun k => { k with headers := (l.part, dig) :: k.headers }
      ((take s (BitVec.ofNat 64 (g.f 0x68 8)) (BitVec.ofNat 64 (g.f 0x70 8))).setLaunch { l with digest := dig }).settleGroups l cores

/-- The dictionary of a launch in a cluster's store. -/
def State.dictIn (s : State) (l : Launch) (cl : Nat) : Option DictEntry :=
  s.pkg.dicts.find? fun e => e.cluster == cl && e.digest == l.digest

/-- Steps 4 and 5 of R352 once the dictionary is loaded; a table that cannot be read ends the launch KILLED (log 59). -/
def State.setContexts (s : State) (l : Launch) : State :=
  if !s.devGood (l.f 0x28 8) 256 || !s.devGood (l.f 0x30 8) 256 then s.endPlaced l stKilled else
  let cores := l.place.map (·.1)
  let s := l.place.zipIdx.foldl (fun s ((c, sl), i) =>
    let ctx := s.firstContext l cores i c sl (((s.dictIn l (c.toNat / 4)).map fun (e : DictEntry) => e.words).getD [])
    s.at_ c sl fun s => ({ s with ctx := ctx } : State).admitBanks) s
  s.setLaunch { l with st := .resident }

/-- A launch completes on the core in focus (R256): `exit` has dispatched and committed, its calls and copies have ended, its
posted writes are accepted, its stores have performed: at a core of this package none waits in its receive queue or in an arrival log. -/
def State.coreDone (s : State) : Bool :=
  s.ctx.live && s.ctx.hold == .exited && s.ctx.commit.isNone && s.ctx.endCkpt.isNone && s.ctx.queue.isEmpty && s.ctx.buffer.isEmpty
    && s.records.isEmpty && s.ctx.tags.all (fun t => !tagBusy t.2) && s.ctx.trap.isNone && s.ctx.fault.isEmpty
    && (s.core.drains.all fun d => d.slot != s.slotNum)
    && ((natRange 0 16).all fun n => s.ctx.outCount (BitVec.ofNat 4 n) == 0)
    && s.pkg.wire.all (fun w => !s.sentByUs w) && s.pkg.sent.all (fun w => !s.sentByUs w)
    && (s.coreList.all fun c => (s.boxOf c).core.recvq.all fun w => !s.sentByUs w)
    && s.pkg.logs.all fun g => g.writes.all fun w => !s.sentByUs w

end Sys2Proof.Machine
end

