-- ==== Sys2Proof/Machine/Remote.lean ====
section
/-! DEFINITION. Remote.lean: remote writes and requests at their target, their answers at the sender, domain arrivals, and the
writes of the host and of peer packages at a home (R44 to R47, R233, R234, R254, R356, R369, R416, R417). -/
namespace Sys2Proof.Machine

/-! ### Answers -/

/-- Send an answer to the sender of a write: within the package, or to another one. -/
def State.answer (s : State) (a : RemoteAck) : State :=
  if a.pkg = s.pkg.num then s.mapPkg fun k => { k with acks := k.acks ++ [a] }
  else
    let n := match a.what with | .data d => d.length | _ => 0
    s.mapPkg fun k => ({ k with answers := k.answers ++ [a] } : Package).sendOn s.clock (k.fabricLink a.pkg) (flitsFor n)

/-- The answer to a write. -/
def State.answerWrite (s : State) (w : RemoteWrite) (what : AckKind) : State :=
  s.answer { pkg := w.pkg, core := w.core, slot := w.slot, window := w.window, launch := w.launch, what := what, src := w.src }

/-- A write that has been accepted (R45): a posted one returns an acceptance. -/
def State.acceptWrite (s : State) (w : RemoteWrite) : State := if w.posted then s.answerWrite w .accepted else s

/-! ### A write at its target -/

/-- Entries of the arrival log of a context (R416, R417). A launch outside every crew is a crew of its own. -/
def State.findLog (s : State) (w : RemoteWrite) : Option ArrivalLog :=
  s.pkg.logs.find? fun g => g.core == w.target &&
    (match s.findLaunch g.part g.launchId with
      | some l => BitVec.ofNat 32 l.crew == w.crew && (w.crew != 0 || l.id == w.launch)
          && ((s.partAt g.part).map fun (d : PartDesc) => d.pid) == some w.pid
      | none => false)

/-- What becomes of a write that reaches its target core. -/
inductive Arrival where
  | taken (s : State)     -- performed, queued, logged or discarded
  | refused               -- the sender resends it
  deriving Repr

/-- A write at a core in focus performs, or is queued behind a word that is full or behind a queued write of its stream (R44, R46); a full
receive queue refuses every new write. -/
def State.takeWrite (s : State) (w : RemoteWrite) : Arrival :=
  if 256 ≤ s.core.recvq.length then .refused
  else if s.core.recvq.any (sameStream w) || !s.core.writable w then
    .taken ((s.mapCore fun c => { c with recvq := c.recvq ++ [{ w with into := some s.ctx.info.launchId }] }).acceptWrite w)
  else .taken ((s.performWrite w).acceptWrite w)

/-- A write at the resident context of a core, in focus: outside the window or branch, or the context's bounds, it is discarded
(R44, R47); a bank the context does not own yet holds it off (R28). -/
def State.writeHere (s : State) (w : RemoteWrite) : Arrival :=
  let n := w.data.length
  if decide (w.addr + n > w.limit) || !s.ctx.targetOk w.addr n then .taken (s.answerWrite w .bound)
  else if !s.spOwned w.addr n then .refused
  else s.takeWrite w

/-- A write that has come over the fabric for a confidential context, or not, as its target reads it: sealed data are opened under the LINK
key, and none is left where the tag check fails (R388). One sealed for a context that is not confidential, or not sealed for one that is,
fails it (log 76). -/
def State.opened (s : State) (conf : Bool) (key : Option (List Byte)) (w : RemoteWrite) : Option RemoteWrite :=
  if w.pkg == s.pkg.num && w.cipher.isNone then some w
  else match conf, w.cipher with
    | false, none => some w
    | true, some c => (linkOpen key c).bind fun d =>
        if d.length = w.data.length then some { w with data := (w.data.zip d).map fun (m, b) => m.map fun _ => b, cipher := none } else none
    | _, _ => none

/-- A launch that is not resident, as its arrivals are opened: whether it is confidential, and its LINK key. -/
def State.logKey (s : State) (g : ArrivalLog) : Bool × Option (List Byte) :=
  match s.findLaunch g.part g.launchId, s.partAt g.part with
  | some l, some d =>
    let h : Segment := ⟨l.segment, if l.header.isEmpty then s.cpBytes l.segment 0x180 else l.header⟩
    let slot := h.f 0x59 1
    (h.conf, if s.keyLoaded d slot .link then (s.pkg.keys.find? (·.1 == slot)).map (·.2.2) else none)
  | _, _ => (false, none)

/-- A write reaches its target core (R44, R369, R388, R417). -/
def State.arrive (s : State) (w : RemoteWrite) : Arrival :=
  if ((s.corePart w.target).map fun (d : PartDesc) => d.pid) != some w.pid then .taken (s.answerWrite w .bound)
  else
    match s.findCrew w.target w.pid w.crew w.launch with
    | some sl =>
      let t := s.focus w.target sl
      match t.opened t.ctx.conf t.winKey w with
      | none => .taken (s.answerWrite w .bound)
      | some w =>
        match t.writeHere w with
        | .taken t => .taken (t.focus s.coreNum s.slotNum)
        | .refused => .refused
    | none =>
      match s.findLog w with
      | some g =>
        if s.logSize ≤ g.writes.length then .refused
        else match s.opened (s.logKey g).1 (s.logKey g).2 w with
          | none => .taken (s.answerWrite w .bound)
          | some w => .taken ((s.appendLog g w).acceptWrite w)
      | none => if s.pkg.gone.elem (w.pid, w.crew, w.target) then .taken (s.answerWrite w .bound) else .refused

/-! ### Released writes that perform later (R238 to R244) -/

/-- A write that is a release waits at crew and system scope for what it orders (R244). -/
def State.writeQuiet (s : State) (w : RemoteWrite) : Bool :=
  match w.kind with
  | .ste | .stf => s.scopeQuiet w.scope (ordered w.cls w.ser)
  | _ => true

/-- Nothing that entered before a write of this package, and that it has to follow, is still to perform. Once its context has left the
core, everything has. -/
def State.mayPerform (s : State) (w : RemoteWrite) : Bool :=
  match s.senderSlot w with
  | none => true
  | some sl =>
    let t := s.focus w.core sl
    !t.mustWait w.waits w.ser [(t.canon (writePlace w), w.data.length)] && t.writeQuiet w

/-- A released store or counter of a core in focus performs at its home in package memory, at the host or at the pool. -/
def State.performHome (s : State) (w : RemoteWrite) (p : Place) : State :=
  let cells := w.data.zipIdx.map fun (b, i) => (placePlus p i, b)
  let ps := (cells.filter fun c => c.2.isSome).map (·.1)
  let who := writeAgent w
  let own := match w.kind, w.shadow with | .count, some (i, _, _) => some (i, w.scope) | _, _ => none
  let s := s.storeCells cells none (some who)
  let s := match w.kind, w.shadow with
    | .store, some (i, l, ph) => s.raceNote ps ⟨some who, i, l, ph⟩
    | _, _ => s
  if own.isSome || w.fence.isSome then s.setRel ps (some ⟨who, own, w.fence, s.clock⟩) else s

/-- A write of this package that may perform now: it reaches its target, its home, or leaves for another package; none when it is
refused. -/
def State.deliverWrite (s : State) (w : RemoteWrite) : Option State :=
  match w.home with
  | some (.sram _) =>
    if w.kind == .ste then
      (match (s.focus w.core w.slot).takeWrite w with
        | .taken t => some (t.focus s.coreNum s.slotNum)
        | .refused => none)
    else some (s.at_ w.core w.slot fun s => s.performWrite w)
  | some p => some (s.at_ w.core ((s.senderSlot w).getD w.slot) fun s => s.performHome w p)
  | none =>
    if w.toPkg = some s.pkg.num then (match s.arrive w with | .taken t => some t | .refused => none)
    else some (s.sendOut w)

/-- A write on its way may perform when no earlier write of its stream is on its way and nothing it has to follow is left. -/
def State.wireReady (s : State) (w : RemoteWrite) : Bool :=
  !(s.pkg.wire.takeWhile (· != w)).any (sameStream w) && s.mayPerform w

def State.onWire (s : State) (w : RemoteWrite) : Bool := s.pkg.wire.elem w

/-- The write that an arrival names: one on its way within the package, or one of another package or a fabric switch. -/
def State.arriveWire (s : State) (w : RemoteWrite) : State :=
  if s.onWire w then
    if !s.wireReady w then s
    else
      match (s.mapPkg fun k => { k with wire := k.wire.erase w }).deliverWrite w with
      | some t => t
      | none => s
  else
    match s.arrive w with
    | .taken t => t
    | .refused => s

def execEvRemoteWriteArrival (s : State) : Out :=
  .next (match s.arg.write with | some w => s.arriveWire w | none => s)

/-- Perform a queued write of the core in focus that nothing holds (R46). A write that waits stays queued when the context that it was for
completes or is killed, and performs once its words are empty, whichever context then owns the bank: the manual says nothing of it
(DESIGN CHOICE, log 78). -/
def recvNext (c : CoreSt) : List RemoteWrite → List RemoteWrite → Option (RemoteWrite × List RemoteWrite)
  | _, [] => none
  | before, w :: l =>
    if c.writable w && !before.any (sameStream w) then some (w, before ++ l) else recvNext c (before ++ [w]) l

def execEvReceiveQueuePerform (s : State) : Out :=
  .next (match recvNext s.core [] s.core.recvq with
    | some (w, l) => (s.mapCore fun c => { c with recvq := l }).performWrite w
    | none => s)

/-! ### Answers at the sender -/

def forWindow (w : BitVec 4) (what : AckKind) (core : BitVec 7) (launch : BitVec 32) (a : RemoteAck) : Bool :=
  a.core == core && a.window == w && a.what == what && a.launch == launch

/-- The first write that another package has accepted, or else one sent, that a test picks, taken out. -/
def State.takeSent (s : State) (p : RemoteWrite → Bool) : Option (RemoteWrite × State) :=
  match s.pkg.sent.find? p with
  | none => none
  | some w => some (w, s.mapPkg fun k => { k with sent := k.sent.erase w })
def State.takeAccepted (s : State) (p : RemoteWrite → Bool) : Option (RemoteWrite × State) :=
  (s.pkg.accepted.find? p).map fun w => (w, s.mapPkg fun k => { k with accepted := k.accepted.erase w })

/-- OUT of a window counts down (R45). -/
def Context.accept (c : Context) (w : BitVec 4) : Context := c.setOut w (c.outCount w - 1)

/-- The registration of a multicast write's group, where this package's command processor has made it (R47). -/
def State.groupOf (s : State) (w : RemoteWrite) : Option McGroup :=
  s.pkg.groups.find? fun g => g.pid == w.pid && g.crew == w.crew && some g.index == w.group

/-- The crew's rank 0 is on this package, so its groups are registered from here. -/
def State.rankZero (s : State) (crew : BitVec 32) (part : Nat) : Bool :=
  s.pkg.launches.any fun l => l.part == part && l.crew == crew.toNat && l.f 0x14 4 == 0

/-- A switch holds a multicast write's copy only under a registration (R47); one made from another package is not seen here. -/
def State.switchTakes (s : State) (w : RemoteWrite) : Bool :=
  w.toPkg.isSome || (s.groupOf w).isSome || !s.rankZero w.crew s.ctx.info.part.toNat

/-- The copies that a switch releases to targets on this package, and whether any goes to another (R47). -/
def State.switchCopies (s : State) (w : RemoteWrite) : List RemoteWrite × Bool :=
  match s.groupOf w with
  | none => ([], true)
  | some g =>
    ((g.targets.filter fun t => t.1 == s.pkg.num).map fun t =>
        { w with target := t.2.1, addr := t.2.2.1 + w.addr, limit := t.2.2.1 + t.2.2.2, posted := false, toPkg := some s.pkg.num, waits := [] },
      g.targets.any fun t => t.1 != s.pkg.num)

/-- An acceptance returns to the context in focus: of a write within the package, or of one sent to another package or to the
fabric switch (R45, R47). The write has performed there (`ok`), or performs later. -/
def execEvWriteAcceptance (s : State) : Out :=
  .next (
    let w := s.arg.window
    match s.pkg.acks.find? (forWindow w .accepted s.coreNum s.ctx.info.launchId) with
    | some a => (s.mapPkg fun k => { k with acks := k.acks.erase a }).mapCtx fun c => c.accept w
    | none =>
      match s.takeSent fun x => s.sentByUs x && x.window == w && x.posted && s.switchTakes x with
      | some (x, t) =>
        let (here, away) := if x.toPkg.isSome then ([], true) else s.switchCopies x
        (t.mapPkg fun k => { k with wire := k.wire ++ here, accepted := if away && !s.arg.ok then k.accepted ++ [x] else k.accepted }).mapCtx
          fun c => c.accept w
      | none => s)

/-- The taking read through a window to another package that the commit in progress waits for, once it is next. -/
def State.takeRemote (s : State) (w : BitVec 4) : Option Entry :=
  if s.ctx.commit.isNone then none
  else s.ctx.buffer.head?.filter fun e => match e.act, e.place? with
    | .take _ _, some (.win x _) => x == w && winPkg (s.ctx.win x) != s.pkg.num && !s.bitsAhead e.ser (e.cells.map (·.1))
    | _, _ => false

/-- REMOTE_BOUND of a write, under the pc, the slot and the address of its launching bundle (R404, R405). -/
def State.boundBy (s : State) (src : BitVec 32 × Nat × Word) : State :=
  s.mapCtx fun c => { c with fault := c.fault ++ [⟨c.seq, 0, src.1, true, true, src.2.1, s.coreNum, trapRemoteBound src.2.2⟩] }

/-- REMOTE_BOUND returns to the context in focus (R44): its launch ends with a trap record, KEPT set. It names a write (`ok`), accepted or
not, or else the read that waits. A write that was posted is no longer counted. -/
def execEvRemoteBoundReply (s : State) : Out :=
  .next (
    let w := s.arg.window
    let write := fun (s : State) =>
      match s.pkg.acks.find? (forWindow w .bound s.coreNum s.ctx.info.launchId) with
      | some a => (s.mapPkg fun k => { k with acks := k.acks.erase a }).boundBy a.src
      | none =>
        match s.takeAccepted fun x => s.sentByUs x && x.window == w with
        | some (x, t) => t.boundBy x.src
        | none =>
          match s.takeSent fun x => s.sentByUs x && x.window == w with
          | some (x, t) => (if x.posted then t.mapCtx fun c => c.accept w else t).boundBy x.src
          | none => s
    if s.arg.ok then write s
    else
      match s.ctx.remote with
      | some r =>
        if r.window = w then
          ({ s with ctx := { s.ctx with remote := none, waiting := none, queue := s.ctx.queue.filter fun p => p.id != r.op.id } } : State).reportKept
            r.op.id (trapRemoteBound (BitVec.ofNat 64 r.addr))
        else write s
      | none =>
        match s.takeRemote w with
        | some e => (s.mapCtx fun c => { c with buffer := c.buffer.erase e }).reportKept e.id (trapRemoteBound e.va)
        | none => write s)

/-! ### Requests of other packages -/

/-- A remote load or `ldf` of another package reaches its target core, or is tried again there (R44, R388, R413): it is served, waits
for full words or for the bank's hand-over (R28), or is held while the target context is not resident. -/
def State.serveRequest (s : State) (r : RemoteReq) : State :=
  let reply := fun (s : State) (k : AckKind) (c : Option (List Byte × List Byte × List Byte)) =>
    (s.mapPkg fun p => { p with requests := p.requests.filter (· != r) }).answer
      { pkg := r.pkg, core := r.core, slot := r.slot, window := r.window, launch := 0, what := k, cipher := c }
  let hold := if s.pkg.requests.elem r then s else s.mapPkg fun k => { k with requests := k.requests ++ [r] }
  if ((s.corePart r.target).map fun (d : PartDesc) => d.pid) != some r.pid then reply s .bound none
  else
    match s.findCrew r.target r.pid r.crew 0 with
    | none => hold
    | some sl =>
      let t := s.focus r.target sl
      if !t.ctx.targetOk r.addr r.size then reply s .bound none
      else if !t.core.owns sl r.addr r.size || (r.full && !t.core.allFull r.addr r.size) then hold
      else
        let d := t.core.ram.bytes r.addr r.size
        let t := if r.take then t.mapCore fun c => c.setEmpty r.addr r.size else t
        reply (t.focus s.coreNum s.slotNum) (.data d) (if t.ctx.conf then some (linkSeal t.winKey t.clock d) else none)

def execEvRemoteRequestArrival (s : State) : Out :=
  .next (match s.arg.request with | some r => s.serveRequest r | none => s)

/-! ### Replies to this package's requests -/

/-- The bits of an `fqry` reply, under those that the context's own writes still to perform leave (R274). -/
def State.replyBits (s : State) (r : RemoteWait) (x : Nat) (n : Nat) : Word :=
  bitWord ((natRange 0 n).map fun i => (s.ownFull (.win r.window (r.addr + 4 * i))).getD (x.testBit i))

/-- Finish the operation that waited for a reply, its bytes under the context's own writes still to perform (R240); the bits of an `fqry`
come as a number. -/
def State.finishRemote (s : State) (r : RemoteWait) (d : List Byte) : State :=
  let s := { s with cur := some r.op,
                    ctx := { s.ctx with remote := none, waiting := none, queue := s.ctx.queue.filter fun p => p.id != r.op.id } }
  let ps := (natRange r.addr r.size).map (Place.win r.window)
  let b := s.ownBytes s.ctx.entries ps (sliceBytes d 0 r.size)
  let s := match r.op.instr with
    | .lLd _ dst _ _ sx => s.finishLd dst sx b
    | .lVld _ dst _ => s.finishVld dst r.mask b
    | .lLdf _ dst mem scope _ => (s.acquireAt ps scope mem.cls).finishLdf dst b
    | .lFqry _ dst _ size => s.writeS dst (s.replyBits r (leNat d) (feBytes size / 4))
    | _ => s
  { s with cur := none }

/-- The reply of a taking read that a commit waits for (R275). -/
def State.finishTake (s : State) (e : Entry) (d : List Byte) : State :=
  let ps := e.cells.map (·.1)
  let b := s.ownBytes e.ser ps (sliceBytes d 0 ps.length)
  let s := (s.mapCtx fun c => { c with buffer := c.buffer.erase e, waiting := none }).acquireAt ps e.scope e.cls
  match e.act with
  | .take dst _ => s.writeS dst (BitVec.ofNat 64 (leNat b))
  | _ => s

/-- A notice that another package has performed a write that it had accepted, or a tagged write (R44, R244). -/
def State.writeDone (s : State) (w : BitVec 4) : State :=
  match s.takeAccepted fun x => s.sentByUs x && x.window == w with
  | some (_, t) => t
  | none => ((s.takeSent fun x => s.sentByUs x && x.window == w && !x.posted).map (·.2)).getD s

/-- The bytes that a reply brings to the context in focus (R388): a confidential one opens them under its LINK key, with the initialisation
vector and the tag that came (`data`, `verify`); a reply whose tag check fails is discarded. -/
def State.openReply (s : State) (d : List Byte) : Option (List Byte) :=
  if s.ctx.conf then linkOpen s.winKey (s.arg.data, d, s.arg.verify) else some d

/-- A reply arrives (R44, R388): a notice of a write (`ok`), or the bytes of a remote read. The pool controller's own replies to this package
come with its requests; others' requests that it served meanwhile take effect. After a refusal the request is sent again. -/
def execEvRemoteReply (s : State) : Out :=
  .next (
    let s := { s with pool := s.pool.serveAll s.pkg.now s.clock s.arg.others }
    match s.arg.reply with
    | .data d =>
      if s.arg.ok then s.writeDone s.arg.window
      else
        match s.ctx.remote, s.openReply d with
        | some r, some d => if r.window = s.arg.window then s.finishRemote r d else s
        | some _, none => s
        | none, d =>
          match s.takeRemote s.arg.window, d with
          | some e, some d => s.finishTake e d
          | some _, none => s
          | none, _ => s.writeDone s.arg.window
    | _ => s)

/-! ### Domain arrivals (R356) -/

/-- An arrival of a member on another package, or (`ok`) what the home on another package says once its phase word is full. -/
def execEvPhaseArrival (s : State) : Out :=
  .next (s.mapPkg fun k =>
    if s.arg.ok then k.phaseFilled s.arg.level s.arg.unit s.arg.key s.arg.phase
    else k.arrive s.arg.level s.arg.unit s.arg.key s.arg.phase s.arg.members.toNat)

/-! ### Coherence (R233, R234, R254) -/

/-- A write from outside performs at its home, which invalidates every near-cache and L1 copy; a load that
nothing orders after it may still read what stood there (R254). A completion record that waited for room in its ring may follow
it (R446). -/
def State.inboundWrite (s : State) (a : Nat) (d : List Byte) : State :=
  let s :=
    if a.testBit 51 then
      let ps := (natRange (a % 2 ^ 51) d.length).map Place.host
      s.performCells none (ps.zip (d.map some))
    else
      let ps := (natRange a d.length).map Place.hbm
      (((s.performCells none (ps.zip (d.map some))).noteHome ps).setRel ps none).raceWrite ps false
  if s.pkg.stopped then s else s.flushCmpl

/-- Where a write from outside reaches: host memory, and of HBM the host-visible region (R393); nothing on a package whose boot has failed
(R443). -/
def State.inboundOk (s : State) (a n : Nat) : Bool :=
  a.testBit 51 || (s.devOk a n && dpaRegion a == 2 && (n == 0 || dpaRegion (a + n - 1) == 2) && !s.pkg.bootFailed)

/-- An address that names no memory (R372) takes no write; a signer key table takes none either (R382). -/
def execEvHostInboundWrite (s : State) : Out :=
  .next (
    let a := s.arg.addr.toNat
    if s.inboundOk a s.arg.data.length then s.unlessSigners a s.arg.data.length fun s => s.inboundWrite a s.arg.data else s)

def nearOf (core : BitVec 7) (sector : Nat) (n : NearSector) : Bool := n.core == core && n.sector == sector

/-- A holder gives up a sector; one in M sends its bytes home under its grant's version. A write-back that reaches the home performs when
its version is the line's, and is cancelled otherwise (R234). The model keeps an M sector's bytes at the home as well. -/
def execEvSectorEvictWriteback (s : State) : Out :=
  .next (
    let sec := s.arg.addr.toNat
    match s.pkg.near.find? (nearOf s.arg.core sec) with
    | some n => s.mapPkg fun k => { k with
        near := k.near.erase n
        wbacks := if n.st == .modified then k.wbacks ++ [⟨n.core, sec, n.ver, k.hbm.bytes (sec * 64) 64⟩] else k.wbacks }
    | none =>
      match s.pkg.wbacks.find? fun w => w.core == s.arg.core && w.sector == sec with
      | some w => s.mapPkg fun k => { k with
          wbacks := k.wbacks.erase w
          hbm := if w.ver == k.version sec then k.hbm.putBytes (sec * 64) w.data else k.hbm
          poison := if w.ver == k.version sec then k.poison.delRun (sec * 64) 64 else k.poison }
      | none => s)

/-- The home takes E or M of a line from its holder: the version goes up by one, and an M sector's bytes come home in the reply (R234). -/
def execEvHomeProbe (s : State) : Out := .next (s.mapPkg fun k => takeLine k s.arg.addr.toNat)

end Sys2Proof.Machine
end

