-- ==== Sys2Proof/Machine/Scheduler.lean ====
section
/-! DEFINITION. Scheduler.lean: launch records, dispatch decisions, placement, completion and cancellation (R25, R52, R256, R257,
R344 to R353, R362, R364, R417, R446). -/
namespace Sys2Proof.Machine

/-! ### Accepting a record -/

/-- A record as it arrives in a partition (R344). -/
def State.newLaunch (s : State) (part : Nat) (bytes : List Byte) (asid : BitVec 16) (sched : Bool) : Launch :=
  { bytes := bytes, part := part, asid := asid, sched := sched, seq := ((s.pkg.sched.toList[part]?).map fun (x : Sched) => x.seq).getD 0,
    st := .accepted, place := [], done := [], digest := [], header := [], blocks := [], pinned := false, serials := [], cancelled := false,
    preempt := false }

def State.mapSched (s : State) (p : Nat) (f : Sched → Sched) : State :=
  s.mapPkg fun k => { k with sched := Vector.ofFn fun i => if i.val = p then f k.sched[i] else k.sched[i] }

/-- A member of a crew with EXACT = 1 has an arrival log on each of its cores from its acceptance on (R417). -/
def State.logsOf (s : State) (l : Launch) : State :=
  if l.exact && l.crew != 0 then
    ((natRange 0 128).filter l.coreset.testBit).foldl (fun s c => s.openLog l.id l.part (BitVec.ofNat 7 c)) s
  else s

/-- The groups that a rank-0 record's table describes, as they are registered (R47): of the targets on this package only cores that the
record's launch may take are contexts of the crew (R24); those on other packages are theirs to name. -/
def State.groupsOf (s : State) (l : Launch) (pid : BitVec 12) : List McGroup :=
  let mc := l.f 0x78 8
  if mc = 0 || !s.devOk mc 16640 then []
  else (natRange 0 16).filterMap fun i =>
    let h := s.cpBytes (mc + 1040 * i) 1040
    let n := bits (leField h 0 1) 6 0
    if n = 0 then none
    else
      let ts := (natRange 0 n).map fun j =>
        let e := sliceBytes h (16 + 16 * j) 16
        (BitVec.ofNat 19 (leField e 0 4), BitVec.ofNat 7 (leField e 4 1), leField e 6 2 * 256, (leField e 8 2 + 1) * 256)
      some ⟨pid, BitVec.ofNat 32 l.crew, BitVec.ofNat 4 i, ts.filter fun t => t.1 != s.pkg.num || (s.allowedCores l).elem t.2.1⟩

/-- Accept a record or reject it (R345); the crew's multicast groups are registered with its rank 0 (R47). -/
def State.acceptLaunch (s : State) (l : Launch) : State :=
  if s.badRecord l then (s.complete l stBadRecord (0, 0)).loseStepOf l .fault
  else
    let pid := ((s.partAt l.part).map fun (d : PartDesc) => d.pid).getD 0
    let crew := BitVec.ofNat 32 l.crew
    let s := s.mapPkg fun k => { k with
      launches := k.launches ++ [l]
      gone := if l.exact && l.crew != 0 then k.gone.filter fun g => !(g.1 == pid && g.2.1 == crew && l.coreset.testBit g.2.2.toNat) else k.gone
      groups := if l.f 0x78 8 != 0 then s.groupsOf l pid ++ k.groups.filter fun g => !(g.pid == pid && g.crew == crew) else k.groups }
    ((s.logsOf l).mapSched l.part fun x => { x with seq := x.seq + 1 }).wantDecision l.part

/-- The partition that a mailbox is bound to (R346). -/
def State.mboxPart (s : State) (m : Nat) : Option Nat :=
  (natRange 0 8).find? fun p => match s.partAt p with | some d => d.mboxMask.getLsbD m | none => false

/-- A record of a mailbox waits to be read (R346): the doorbell's PRODUCER is ahead of CONSUMER, and the host's write of PRODUCER that covers
the slot stands in the header. Where no memory is, no such write ever does. -/
def State.recordWaits (s : State) (m : Nat) : Bool :=
  let b := s.mboxBase m
  let cons := s.cpLe (b + 4) 4
  let ahead := fun (prod : Nat) => let d := (prod + 2 ^ 32 - cons) % 2 ^ 32; decide (0 < d) && decide (d < 2 ^ 31)
  s.devOk b 64 && ahead (wbits (s.pkg.reg (0x1000 + 16 * m)) 31 0) && ahead (s.cpLe b 4)

/-- The command processor reads the next record of a mailbox (R346). -/
def execEvLaunchRecord (s : State) : Out :=
  .next (
    let m := s.arg.mbox.toNat
    let b := s.mboxBase m
    match s.mboxPart m with
    | none => s
    | some p =>
      if !s.pkg.mboxOpen.getLsbD m || !s.recordWaits m then s
      else
        let cons := s.cpLe (b + 4) 4
        let sz := 2 ^ s.cpLe (b + 8) 1
        let l := s.newLaunch p (s.cpBytes (b + 64 + 128 * (cons % sz)) 128) (BitVec.ofNat 16 (s.cpLe (b + 12) 2)) false
        (s.cpPut (b + 4) (leBytes 4 (cons + 1))).acceptLaunch l)

/-! ### Dispatch decisions (R348 to R351) -/

/-- A launch of the partition by this name has not completed, ended or gone (R348). -/
def State.unfinished (s : State) (p id : Nat) : Bool :=
  s.pkg.launches.any fun l => l.part == p && l.id.toNat == id && l.st != .flushing

/-- The write leases of a record's step have been granted (R348): the step is the schedule's current one, and open. -/
def State.stepOpen (s : State) (l : Launch) : Bool :=
  l.step == 0 || (match s.pkg.schedule.toList.getD l.part none with
    | some x => (match x.current with | some a => a.record.step == l.step && a.opened | none => false)
    | none => false)

def State.eligible (s : State) (l : Launch) : Bool :=
  !l.cancelled && (l.st == .saved || (l.st == .accepted && s.stepOpen l && l.preds.all fun p => p == 0 || !s.unfinished l.part p))

def Launch.better (a b : Launch) : Bool := decide (a.prio > b.prio) || (a.prio == b.prio && decide (a.seq < b.seq))

def pickBy (better : Launch → Launch → Bool) : List Launch → Option Launch
  | [] => none
  | l :: r => match pickBy better r with
    | none => some l
    | some m => if better m l then some m else some l

/-- Target (R349, R353): the cores of a restored launch, CORESET when EXACT, else the lowest allowed ones. -/
def State.target (s : State) (l : Launch) : List (BitVec 7) :=
  if l.pinned then l.place.map (·.1)
  else if l.exact then s.allowedCores l else (s.allowedCores l).take l.count

/-- Every bank a saved launch owned is unowned (R353). -/
def State.banksFree (s : State) (l : Launch) : Bool :=
  s.pkg.saved.all fun v => !(v.part == l.part && v.launchId == l.id) ||
    v.banks.all fun b => ((s.boxOf v.core).core.owner.toList.getD b none).isNone

/-- The cores a placement takes in S, if it is possible there. -/
def State.placeable (s : State) (l : Launch) (S : List (BitVec 7)) : Option (List (BitVec 7)) :=
  if l.pinned || l.exact then
    let t := s.target l
    if t.all S.elem && (!l.pinned || s.banksFree l) then some t else none
  else
    let t := (s.allowedCores l).filter S.elem
    if t.length ≥ l.count then some (t.take l.count) else none

/-- A saved launch takes the slots it returns to (R353). -/
def State.placeSaved (s : State) (l : Launch) (cores : List (BitVec 7)) : State :=
  let place := cores.map fun c => (c, (s.nextSlot c).getD false)
  let s := s.setLaunch { l with place := place, st := .loading }
  let pid := ((s.partAt l.part).map fun (d : PartDesc) => d.pid).getD 0
  place.foldl (fun s (c, sl) => s.at_ c sl fun s =>
    match s.pkg.saved.find? fun v => v.part == l.part && v.launchId == l.id && v.core == c with
    | some v => { s with ctx := slotTaken l pid v.ctx.spLo v.ctx.spHi v.ctx.relCkpt }
    | none => { s with ctx := slotTaken l pid 0 0 0 }) s

def State.place (s : State) (l : Launch) (cores : List (BitVec 7)) : State :=
  (if l.pinned then s.placeSaved l cores else s.placeOn l cores).wantDecision l.part

/-- One dispatch decision (R349), when an event asks for one. -/
def execEvDispatchDecision (s : State) : Out :=
  .next (
    let p := s.arg.p.toNat
    match s.pkg.sched.toList[p]? with
    | none => s
    | some x =>
      if x.due = 0 then s
      else
        let dc := x.dc + 1
        let s := s.mapSched p fun x => { x with due := x.due - 1, dc := dc }
        let E := s.pkg.launches.filter fun l => l.part == p && s.eligible l
        let free := s.freeSet p
        let rset := match x.res with | some (_, r) => r | none => []
        let isRes := fun (l : Launch) => match x.res with | some (id, _) => id == l.id | none => false
        let unreserved := free.filter fun c => !rset.elem c
        let noRes := fun (s : State) => s.mapSched p fun x => { x with res := none }
        if E.isEmpty then s
        else if dc.toNat % 64 = 0 then
          match pickBy (fun a b => decide (a.seq < b.seq)) E with
          | none => s
          | some r =>
            let S := if x.res.isNone || isRes r then free else unreserved
            match s.placeable r S with
            | some cores =>
              let s := if isRes r then noRes s else s
              (s.mapSched p fun x => { x with first := match x.first with | some (id, n) => if id = r.id then none else some (id, n) | none => none }).place r cores
            | none => if x.res.isNone then s.mapSched p fun x => { x with res := some (r.id, s.target r) } else s
        else
          let way := fun (l : Launch) => s.placeable l (if isRes l then free.filter rset.elem else unreserved)
          let first := pickBy Launch.better E
          let chosen := pickBy Launch.better (E.filter fun l => (way l).isSome)
          let run := match first with
            | none => x.first
            | some f =>
              if (chosen.map (·.id)) = some f.id then none
              else match x.first with
                | some (id, n) => if id = f.id then some (id, n + 1) else some (f.id, 1)
                | none => some (f.id, 1)
          let s := s.mapSched p fun x => { x with first := run }
          match chosen with
          | none => s
          | some r => match way r with
            | none => s
            | some cores => (if isRes r then noRes s else s).place r cores)

/-! ### Pre-emption by priority (R351) -/

/-- Ask every context of a launch for pre-emption (R413). -/
def State.askPreempt (s : State) (l : Launch) : State :=
  let s := s.setLaunch { l with preempt := true }
  l.place.foldl (fun s (c, sl) => s.at_ c sl fun s => s.mapCtx fun c => { c with preempt := true }) s

/-- A core whose next-launch slot is free, or will be once the launches asked have been saved. -/
def State.willFree (s : State) (c : BitVec 7) : Bool :=
  (s.nextSlot c).isSome || s.pkg.launches.any fun l => l.preempt && l.st == .resident && l.place.any fun x => x.1 == c

/-- The banks that a restored record needs beside its cores (R353): those that its contexts owned at their save. -/
def State.needsBanks (s : State) (r : Launch) : List (BitVec 7 × Nat) :=
  (s.pkg.saved.filter fun v => v.part == r.part && v.launchId == r.id).flatMap fun v => v.banks.map fun b => (v.core, b)

/-- The context in a slot of a core keeps a bank that a record needs from being unowned: it holds it, and it has not been asked to leave. -/
def State.keepsBank (s : State) (need : BitVec 7 × Nat) (x : BitVec 7 × Bool) : Bool :=
  x.1 == need.1 && (s.ctxOf x.1 x.2).holdsBank need.2
    && !s.pkg.launches.any fun l => l.preempt && l.st == .resident && l.place.elem x

/-- Target of a record can be placed, once the launches asked have been saved. -/
def State.willPlace (s : State) (r : Launch) (t : List (BitVec 7)) : Bool :=
  t.all s.willFree && (s.needsBanks r).all fun b => !s.keepsBank b (b.1, false) && !s.keepsBank b (b.1, true)

/-- Ask the lowest, oldest resident launches below a record's level that stand in its way, until its Target can be placed. -/
def State.preemptFor (s : State) (r : Launch) (t : List (BitVec 7)) : Nat → State
  | 0 => s
  | n + 1 =>
    if s.willPlace r t then s
    else
      let cand := s.pkg.launches.filter fun l => l.part == r.part && l.st == .resident && !l.preempt && decide (l.prio < r.prio)
        && l.place.any fun x => (t.elem x.1 && !s.willFree x.1) || (s.needsBanks r).any fun b => s.keepsBank b x
      match pickBy (fun a b => decide (a.prio < b.prio) || (a.prio == b.prio && decide (a.seq < b.seq))) cand with
      | none => s
      | some l => State.preemptFor (s.askPreempt l) r t n

def execEvPriorityPreempt (s : State) : Out :=
  .next (
    let p := s.arg.p.toNat
    match (s.pkg.sched.toList[p]?).bind fun (x : Sched) => x.first with
    | some (id, n) =>
      match s.findLaunch p id with
      | some r => if n ≥ 64 && r.prio ≥ 56 && s.eligible r then s.preemptFor r (s.target r) s.pkg.launches.length else s
      | none => s
    | none => s)

/-! ### From placement to the first bundle (R352) -/

/-- A dictionary that a resident launch of the cluster uses. -/
def State.dictUsed (s : State) (e : DictEntry) : Bool :=
  s.pkg.launches.any fun l => l.st == .resident && l.digest == e.digest && l.place.any fun x => x.1.toNat / 4 == e.cluster

/-- The entries of a store: 16,384 (Table 1.2). -/
def dictRoom : Nat := 16384

/-- The dictionary a launch brings: from its segment, or as it was saved. -/
def State.dictWords (s : State) (l : Launch) : List (BitVec 384) :=
  match s.pkg.saved.find? fun v => v.part == l.part && v.launchId == l.id with
  | some v => v.ctx.image.dict
  | none =>
    let g := l.seg
    (natRange 0 (g.f 0x1C 4)).map fun n => BitVec.ofNat 384 (s.cpLe (g.base + g.f 0x20 8 + 48 * n) 48)

/-- A placed launch has its dictionary loaded once each cluster is awake (R451) and its store has room (R352 step 3), is checked against DICTHASH, and has
its contexts set. -/
def execEvDictionaryLoad (s : State) : Out :=
  .next (
    match s.findLaunch s.arg.p.toNat s.arg.launch with
    | none => s
    | some l =>
      if l.st != .loading then s
      else
        let cls := (l.place.map fun x => x.1.toNat / 4).eraseDups
        let lack := cls.filter fun c => (s.dictIn l c).isNone
        let w := s.dictWords l
        let kept := s.pkg.dicts.filter fun e => !lack.elem e.cluster || s.dictUsed e
        let fits := lack.all fun c => decide (((kept.filter fun e => e.cluster == c).map fun e => e.words.length).sum + w.length ≤ dictRoom)
        if !fits || cls.any s.pkg.gated.getLsbD then s
        else
          let g := l.seg
          let fresh := !lack.isEmpty && !l.pinned
          if fresh && !s.devGood (g.base + g.f 0x20 8) (48 * g.f 0x1C 4) then s.endPlaced l stKilled
          else if fresh && Config.sha384 (w.flatMap fun x => leBytes 48 x.toNat) != sliceBytes g.head 0x80 48 then s.endPlaced l stBadSegment
          else
            let s := s.mapPkg fun k => { k with dicts := kept ++ lack.map fun c => ⟨c, l.digest, w⟩ }
            if l.pinned then s.setLaunch { l with st := .resident } else s.setContexts l)

/-- Perform an arrival log in order as though its writes had just arrived (R416), with the data that its entries hold: the state, and whether
all of it has performed. Replay waits at one that is refused. An error in an entry is an error in data of HBM for the context that reads it
(R418). -/
def State.replayLog (s : State) (g : ArrivalLog) : List RemoteWrite → State × Bool
  | [] => (s.setLog { g with writes := [] }, true)
  | w :: l =>
    if s.logSpoilt g w then ((s.setLog { g with writes := w :: l }).uncorrectable 2, false)
    else match s.writeHere { s.logHead g w with posted := false } with
    | .taken t => State.replayLog t { g with first := g.first + 1 } l
    | .refused => (s.setLog { g with writes := w :: l }, false)

/-- The context in focus becomes issuable once its set-up is complete and its arrival log performed (R352 step 6, R415, R417). -/
def execEvLaunchIssuable (s : State) : Out :=
  .next (
    match s.launchHere with
    | none => s
    | some l =>
      if !s.ctx.live || s.ctx.issuable || l.st != .resident || (s.pkg.saved.any fun v => v.part == l.part && v.launchId == l.id) then s
      else
        let s := if l.preds.any (· != 0) then s.mapCtx fun c => c.acquireAll 2 s.clock else s
        match s.pkg.logs.find? (sameLog ⟨l.id, l.part, s.coreNum, 0, none, 0, []⟩) with
        | none => s.mapCtx fun c => { c with issuable := true }
        | some g =>
          let (s, all) := s.replayLog g g.writes
          if all then (s.mapPkg fun k => { k with logs := k.logs.filter fun x => !sameLog g x }).mapCtx fun c => { c with issuable := true }
          else s)

/-! ### Completion -/

/-- A completion record is written for a launch (R347). -/
def Launch.reports (l : Launch) : Bool := !l.sched || l.compq.testBit 4

/-- A launch completes on the core in focus, and as a whole once it has on every core (R25, R256). Its flush is deferred (R257): one that
writes no record and belongs to no step has nothing on this package that waits for it. -/
def execEvLaunchComplete (s : State) : Out :=
  .next (
    match s.launchHere with
    | none => s
    | some l =>
      if !s.coreDone then s
      else
        let l := { l with done := s.coreNum :: l.done }
        let s := s.leaveCore true
        if l.place.all fun x => l.done.elem x.1 then
          (if l.reports || l.step != 0 then s.setLaunch { l with st := .flushing } else s.dropLaunch l).wantDecision l.part
        else s.setLaunch l)

/-- Every write of a launch has performed at system scope (R244, R257). -/
def State.flushQuiet (s : State) (l : Launch) : Bool :=
  let pid := ((s.partAt l.part).map fun (d : PartDesc) => d.pid).getD 0
  let mine := fun (x : RemoteWrite) => x.pkg == s.pkg.num && x.launch == l.id && x.pid == pid
  s.pkg.puts.isEmpty && (s.pkg.wire ++ s.pkg.sent ++ s.pkg.accepted ++ s.pkg.logs.flatMap fun g => g.writes).all (fun x => !mine x)
    && s.coreList.all fun c => (s.boxOf c).core.recvq.all fun x => !mine x

/-- Something asks for the flush of a completed launch (R257): its completion record, or the commit of its step, which every launch of the
step has to have completed for (R362). -/
def State.flushDue (s : State) (l : Launch) : Bool :=
  l.reports || s.pkg.launches.all fun x => !(x.part == l.part && x.step == l.step) || x.st == .flushing

/-- The flush of a completed launch, then its completion record or its part of the step's commit (R257, R347, R362). -/
def execEvReleaseFlush (s : State) : Out :=
  .next (
    match s.findLaunch s.arg.p.toNat s.arg.launch with
    | some l => if l.st == .flushing && s.flushDue l && s.flushQuiet l then (s.dropLaunch l).complete l stDone (0, 0) else s
    | none => s)

/-! ### Cancellation (R364) -/

/-- A cancellation: of the token that a NONFINITE trap asks for, or of one from outside. -/
def execEvCancellation (s : State) : Out :=
  .next (
    let p := s.arg.p.toNat
    match s.arg.raiser with
    | some id =>
      match s.pkg.cancels.find? fun c => c.part == p && c.launch == id with
      | some c => (s.mapPkg fun k => { k with cancels := k.cancels.erase c }).cancelToken p c.token (some (id, c.trap.1, c.trap.2))
      | none => s
    | none => s.cancelToken p s.arg.token none)

end Sys2Proof.Machine
end

