-- ==== Sys2Proof/Machine/Steps.lean ====
section
/-! DEFINITION. Steps.lean: published schedules, step attempts, the Proofer, leases, the pool cache and step commits
(R312 to R326, R358 to R361, R420 to R433, R441). -/
namespace Sys2Proof.Machine

/-! ### Lease bookkeeping -/

/-- The clock never runs back. -/
def State.setNow (s : State) (t : Nat) : State := s.mapPkg fun k => { k with now := max k.now t }

/-- The pool controller serves others' requests first, at the time the act names. -/
def State.serveOthers (s : State) : State :=
  let s := s.setNow s.arg.now
  { s with pool := s.pool.serveAll s.pkg.now s.clock s.arg.others }

def isPage (obj : BitVec 48) (page : BitVec 32) (l : Lease) : Bool := l.obj == obj && l.page == page

def State.mapLease (s : State) (obj : BitVec 48) (page : BitVec 32) (f : Lease → Lease) : State :=
  s.mapPkg fun k => { k with leases := mapIf (isPage obj page) f k.leases }

/-- The package whose attempt won retires its STEPTOKEN values once the write leases of the step have been released (R314); a stopped command
processor retires none. -/
def State.retireDue (s : State) : State :=
  let due := s.pkg.retiring.filter fun r => !s.pkg.stopped && !s.pkg.leases.any fun l => l.owner == some r.1 && l.st == .write
  due.foldl (fun s r => r.2.foldl (fun s t => (s.ask r.1.1 (.retire t)).1) (s.mapPkg fun k => { k with retiring := k.retiring.erase r })) s

/-- A page and its lease leave the package, with the copies made from it and what it held before (Table 17.2, R427). -/
def State.dropPage (s : State) (obj : BitVec 48) (page : BitVec 32) : State :=
  let lo := poolKey obj (page.toNat * 2 ^ 16)
  ((s.mapPkg fun k => { k with
    leases := k.leases.filter fun l => !isPage obj page l
    cache := k.cache.clear lo (lo + 2 ^ 16)
    sealVer := tabDel k.sealVer (pageKey obj page.toNat + 2 ^ 90) }).forgetPage obj page.toNat).retireDue

def putOf (obj : BitVec 48) (page : BitVec 32) (p : Put) : Bool := p.obj == obj && p.off / 2 ^ 16 == page.toNat

def State.putsLeft (s : State) (obj : BitVec 48) (page : BitVec 32) : Bool := s.pkg.puts.any (putOf obj page)

/-- The bytes of a copy command that a put carries. -/
def CopyTag.putBytes (t : CopyTag) (p : Put) : Nat :=
  min (p.off + p.data.length) (t.dst.ea.toNat + t.len) - max p.off t.dst.ea.toNat

/-- A put of a copy command has been refused: the command sends nothing more, and ends NOSPACE with the bytes in the pages below the put's
(R295), or FENCED with those that have performed (R293, R430). -/
def State.copyRefused (s : State) (p : Put) (st : TagSt) : State :=
  match p.copy with
  | none => s
  | some (launch, core, tag, seq) => [false, true].foldl (fun s sl => s.at_ core sl fun s =>
      match s.ctx.tag tag.toNat with
      | none => s
      | some t =>
        if !s.ctx.live || s.ctx.info.launchId != launch || t.op.seq != seq || t.st != .running then s
        else
          let n := if st == .nospace then min t.done (p.off / 2 ^ 16 * 2 ^ 16 - t.dst.ea.toNat) else t.done - t.putBytes p
          s.mapCtx fun c => c.setTag tag.toNat { t with left := [], ending := t.ending.or (some st), done := n }) s

/-- Puts that will not be sent any more (Table 17.2); an `xseal` whose last put is among them holds its page's entry no longer. -/
def State.dropPuts (s : State) (obj : BitVec 48) (page : BitVec 32) : State :=
  let gone := s.pkg.puts.filter (putOf obj page)
  let s := gone.foldl (fun s p => s.copyRefused p .fenced) s
  let s := s.mapPkg fun k => { k with puts := k.puts.filter fun p => !putOf obj page p }
  if gone.any fun p => p.ver.isSome then
    { s with pool := { s.pool with holds := s.pool.holds.filter fun h => h != (pageKey obj page.toNat, s.pkg.num) } }
  else s

/-- Release a lease before its D, and drop the page. -/
def State.releasePage (s : State) (l : Lease) : State :=
  let s := if s.pkg.now < l.d then (s.ask l.part (.release s.pkg.num l.obj l.page)).1 else s
  s.dropPage l.obj l.page

def State.schedule (s : State) (p : Nat) : Option Schedule := s.pkg.schedule.toList.getD p none

/-- The attempt that a write lease belongs to is lost (R430), if it is still at work: a later attempt loses nothing by it. -/
def State.loseLease (s : State) (l : Lease) (c : LossCause) : State :=
  match l.owner with
  | some (p, step) =>
    match (s.schedule p).bind (·.current) with
    | some a => if a.record.gen = l.gen then s.loseAttempt p step c else s
    | none => s
  | none => s

/-- A FENCED answer to a request that relies on a lease: the page is dropped, and a write lease's step is lost (Table 17.2). -/
def State.fencedPage (s : State) (l : Lease) : State :=
  let s := (s.dropPuts l.obj l.page).dropPage l.obj l.page
  if l.st == .write || l.st == .wpend then s.loseLease l .fenced else s

/-- A page of an object is got for a step or for none, in a partition: a read lease is taken where the package holds none. -/
def State.wantPage (s : State) (obj : BitVec 48) (page : BitVec 32) (part : Nat) (u : Option (Nat × Word)) (demand : Bool) : State :=
  if s.pkg.leases.any (isPage obj page) then s.mapLease obj page fun l => { l.use u demand with get := true }
  else if s.pkg.cacheRoom then
    s.mapPkg fun k => { k with leases := k.leases ++ [{ Lease.asked obj page .rpend part u with demand := demand }] }
  else s

/-- A page is released by a step that is over; a step ahead for which it has been taken takes a read lease on it (R360). -/
def State.leavePage (s : State) (l : Lease) : State :=
  (l.users.filter Option.isSome).foldl (fun s u => s.wantPage l.obj l.page l.part u false) (s.releasePage l)

/-- A page as the pool holds it, under the puts that are on their way, enters the pool cache, with the copies of its object's FATTR, SEALED and
CAPPG and of its version (R386, R426). -/
def State.fetchPage (s : State) (obj : BitVec 48) (page : BitVec 32) : State :=
  let lo := poolKey obj (page.toNat * 2 ^ 16)
  let new := s.pool.bytes.filter fun c => decide (lo ≤ c.1) && decide (c.1 < lo + 2 ^ 16)
  let cache := new.foldl (fun (m : Memory) c => m.put c.1 c.2) (s.pkg.cache.clear lo (lo + 2 ^ 16))
  let cache := (s.pkg.puts.filter (putOf obj page)).foldl (fun m p => m.putMasked (poolKey obj p.off) p.data) cache
  let key := pageKey obj page.toNat
  let attr := (s.poolObj obj).map fun (o : PoolObj) => (o.fattr, o.sealed, o.capPg)
  (s.mapPkg fun k => { k with
    cache := cache
    sealVer := if (attr.map fun x => x.2.1) == some true then tabSet k.sealVer (key + 2 ^ 90) (tabGet (0, 0) s.pool.sealVer key)
      else tabDel k.sealVer (key + 2 ^ 90) }).mapLease obj page fun l => { l with here := true, attr := attr }

/-! ### Requests and their replies (Table 17.2, Table 17.3) -/

/-- The read-lease request of an RPEND page is answered: GRANT moves it to READ with D = E − 200 µs; RETRY leaves it, or drops a get of
the Proofer that no access waits for (R361). -/
def State.askRead (s : State) (obj : BitVec 48) (page : BitVec 32) : State :=
  match s.pkg.leases.find? (isPage obj page) with
  | some l =>
    if l.st != .rpend then s
    else
      match s.ask l.part (.readLease s.pkg.num obj page) with
      | (s, .wait) => s
      | (s, .grant e) => s.mapLease obj page fun l => { l with st := .read, d := e - leaseGuard, here := false, demand := false }
      | (s, _) => if l.demand then s else s.dropPage obj page
  | none => s

def execEvReadLeaseGrant (s : State) : Out := .next (s.serveOthers.askRead s.arg.obj s.arg.page)

/-- After RETRY the request is sent again (Table 17.2). -/
def execEvLeaseRetry (s : State) : Out := .next (s.serveOthers.askRead s.arg.obj s.arg.page)

/-- The write-lease request of a WPEND page: GRANT moves it to WRITE, FENCED loses the step, else it waits at the pool (R422). The
bytes of a read lease that was live until the grant stay. -/
def State.askWrite (s : State) (l : Lease) : State :=
  match s.ask l.part (.writeLease s.pkg.num l.obj l.page l.gen) with
  | (s, .grant e) =>
    s.mapLease l.obj l.page fun l => { l with st := .write, d := e - leaseGuard, here := l.here && decide (s.pkg.now < l.d) }
  | (s, .fenced) => s.fencedPage l
  | (s, .object) => (s.dropPage l.obj l.page).loseLease l .fault
  | (s, _) => s

def execEvWriteLeaseGrant (s : State) : Out :=
  .next (
    let s := s.serveOthers
    match s.pkg.leases.find? (isPage s.arg.obj s.arg.page) with
    | some l => if l.st == .wpend then s.askWrite l else s
    | none => s)

/-- A renewal, stamped with D (R425): GRANT advances D; after RETRY the holder keeps the lease until D; FENCED drops the page. -/
def State.askRenew (s : State) (l : Lease) : State :=
  match s.ask l.part (.renew s.pkg.num l.obj l.page l.d) with
  | (s, .wait) => s
  | (s, .grant e) => s.mapLease l.obj l.page fun l => { l with d := e - leaseGuard, ask := false }
  | (s, .fenced) => s.fencedPage l
  | (s, _) => s.mapLease l.obj l.page fun l => { l with ask := false }

def execEvRenewalGrant (s : State) : Out :=
  .next (
    let s := s.serveOthers
    match s.pkg.leases.find? (isPage s.arg.obj s.arg.page) with
    | some l => if l.ask && (l.st == .read || l.st == .write) then s.askRenew l else s
    | none => s)

/-- A lease that waits for its puts is released after the last. -/
def State.afterPut (s : State) : Option Lease → State
  | some l => if l.leave && !s.putsLeft l.obj l.page then s.leavePage l else s
  | none => s

/-- The oldest put of a page, at the pool (R428): acknowledged, refused for want of space, or FENCED. A lease that waits for its puts
is released after the last. -/
def State.askPut (s : State) (p : Put) (page : BitVec 32) : State :=
  let lease := s.pkg.leases.find? (isPage p.obj page)
  let done := fun (s : State) => s.mapPkg fun k => { k with puts := k.puts.erase p }
  match s.ask p.part (.put s.pkg.num p.obj p.off p.data p.gen p.stamp) with
  | (s, .done) =>
    let s := match p.ver with
      | some e => (s.ask p.part (.sealDone s.pkg.num p.obj page e.1)).1
      | none => s
    (done s).afterPut lease
  | (s, .noSpace) =>
    let s := done s
    (if p.copy.isSome then
      (s.copyRefused p .nospace).mapPkg fun k => { k with puts := k.puts.filter fun x => !(x.copy == p.copy && decide (page.toNat ≤ x.off / 2 ^ 16)) }
    else match lease with | some l => s.loseLease l .noSpace | none => s).afterPut lease
  | (s, .fenced) => (match lease with | some l => s.fencedPage l | none => s.dropPuts p.obj page)
  | (s, _) => s

def execEvPutAcknowledge (s : State) : Out :=
  .next (
    let s := s.serveOthers
    match s.pkg.puts.find? (putOf s.arg.obj s.arg.page) with
    | some p => s.askPut p s.arg.page
    | none => s)

/-- A FENCED reply: the outstanding request of the page, a renewal, a write-lease request or a put, is served now. -/
def execEvLeaseFenced (s : State) : Out :=
  .next (
    let s := s.serveOthers
    match s.pkg.leases.find? (isPage s.arg.obj s.arg.page) with
    | some l =>
      if l.st == .wpend then s.askWrite l
      else match s.pkg.puts.find? (putOf s.arg.obj s.arg.page) with
        | some p => s.askPut p s.arg.page
        | none => if l.ask then s.askRenew l else s
    | none => s)

/-- A lease reaches its D: READ is dropped; WRITE loses the step, and sends no further put (Table 17.2, R430). -/
def execEvLeaseDeadline (s : State) : Out :=
  .next (
    match s.pkg.leases.find? (isPage s.arg.obj s.arg.page) with
    | some l =>
      if !(l.st == .read || l.st == .write) || s.pkg.now < l.d then s
      else
        let t := (s.dropPuts l.obj l.page).dropPage l.obj l.page
        if l.st == .write then t.loseLease l .lapsed else t
    | none => s)

/-- A page whose bytes have been asked for (R427, R441), over a link in service. -/
def State.arriving (s : State) (l : Lease) : Bool :=
  (l.st == .read || l.st == .write) && l.get && !l.here && !s.pkg.pageOut l.obj l.page.toNat

/-- A fetched page arrives, and the reads that wait on it are served (R427). -/
def execEvPoolPageArrival (s : State) : Out :=
  .next (
    match s.pkg.leases.find? (isPage s.arg.obj s.arg.page) with
    | some l =>
      if s.arriving l then s.fetchPage l.obj l.page else s
    | none => s)

/-- A step of a partition is its current one. -/
def State.stepNow (s : State) (p : Nat) (step : Word) : Bool :=
  match (s.schedule p).bind (·.current) with | some a => a.record.step == step | none => false

/-- Or a launch of it is unfinished (R361). -/
def State.stepHolds (s : State) (p : Nat) (step : Word) : Bool :=
  s.stepNow p step || s.pkg.launches.any fun l => l.part == p && l.step == step

/-- It is the current one, or lies ahead (R360, R421). -/
def State.stepKept (s : State) (p : Nat) (step : Word) : Bool :=
  s.stepNow p step || (match s.schedule p with | some x => x.ahead.any fun r => r.step == step | none => false)

/-- A page that may be evicted: no current or earlier unfinished step holds it, and its puts have been acknowledged (R361, R426). -/
def State.evictable (s : State) (l : Lease) : Bool :=
  l.st == .read && (l.users.all fun u => match u with | some (p, step) => !s.stepHolds p step | none => true) && !s.putsLeft l.obj l.page

/-- Replacement takes the least recently used page of those that it may evict (R361, R426). -/
def execEvPoolCacheEvict (s : State) : Out :=
  .next (
    match s.pkg.leases.find? (isPage s.arg.obj s.arg.page) with
    | some l =>
      if s.pkg.leases.find? s.evictable == some l then s.releasePage l else s
    | none => s)

/-- Every 0.5 ms the Proofer sends a renewal for each lease it keeps (R360, R421); a stopped command processor sends none (R442). -/
def execEvLeaseRenewal (s : State) : Out :=
  .next (
    let s := s.setNow s.arg.now
    if s.pkg.stopped then s
    else s.mapPkg fun k => { k with leases := mapIf (fun l => (l.st == .read || l.st == .write) && !l.leave &&
        l.users.any fun u => match u with | some (p, step) => s.stepKept p step | none => true) (fun l => { l with ask := true }) k.leases })

/-! ### The schedule (R358, R359) -/

/-- The pages of a range of an object. -/
def pageRange (off n : Nat) : List Nat := natRange (off / 2 ^ 16) ((off + n - 1) / 2 ^ 16 + 1 - off / 2 ^ 16)

/-- A range of the schedule's object that its capability and the pool grant the partition (R377, R379). -/
def State.schedGrants (s : State) (p : Nat) (cap : BitVec 128) (off n : Nat) : Bool :=
  (capFault cap off n [.r]).isNone && (pageRange off n).all fun g => s.pool.grants (s.tenant p) (capObject cap) g

/-- Bytes of the schedule's object, at the pool for HOMEONLY, else under live read leases; of a range that is not granted there are
none. -/
def State.schedBytes (s : State) (p : Nat) (cap : BitVec 128) (off n : Nat) : Option (List Byte) :=
  let obj := capObject cap
  if !s.schedGrants p cap off n then none
  else if s.direct cap then
    if (pageRange off n).any (s.pkg.pageOut obj) then none else some (s.pool.bytes.bytes (poolKey obj off) n)
  else if (pageRange off n).all fun g => s.leaseReads obj g then some (s.pkg.cache.bytes (poolKey obj off) n) else none

/-- Ask for the pages of a range of the schedule's object. -/
def State.wantSched (s : State) (p : Nat) (cap : BitVec 128) (off n : Nat) : State :=
  if !s.schedGrants p cap off n || s.direct cap then s
  else (pageRange off n).foldl (fun s g => s.wantPage (capObject cap) (BitVec.ofNat 32 g) p none true) s

/-- One range (Table 14.6). -/
def rangeOf (b : List Byte) : Range :=
  let w := leField b 8 8
  ⟨BitVec.ofNat 128 (leField b 16 16), BitVec.ofNat 32 (bits w 31 0), bits w 62 32, w.testBit 63⟩

/-- A step record with its ranges and its launch records, if its bytes can be read. -/
def State.readStep (s : State) (p : Nat) (cap : BitVec 128) (off : Nat) : Option StepRec :=
  match s.schedBytes p cap off 64 with
  | none => none
  | some h =>
    let nl := leField h 0x10 4
    let nr := leField h 0x14 4
    let part := fun (a n : Nat) => if n = 0 then some [] else s.schedBytes p cap a n
    match part (off + 64) (32 * nr), part (leField h 0x18 8) (128 * nl) with
    | some r, some l => some {
        step := BitVec.ofNat 64 (leField h 0 8), gen := BitVec.ofNat 32 (leField h 8 4), cellGen := BitVec.ofNat 32 (leField h 12 4),
        launches := (natRange 0 nl).map fun i => sliceBytes l (128 * i) 128,
        ranges := (natRange 0 nr).map fun i => rangeOf (sliceBytes r (32 * i) 32),
        next := BitVec.ofNat 64 (leField h 0x20 8), at_ := BitVec.ofNat 64 off,
        cellOff := BitVec.ofNat 64 (leField h 0x28 8), cellCap := BitVec.ofNat 128 (leField h 0x30 16) }
    | _, _ => none

/-- Ask for what reading a step record needs, as far as it is known. -/
def State.wantStep (s : State) (p : Nat) (cap : BitVec 128) (off : Nat) : State :=
  let t := s.wantSched p cap off 64
  match s.schedBytes p cap off 64 with
  | none => t
  | some h =>
    let nl := leField h 0x10 4
    let nr := leField h 0x14 4
    let t := if nr = 0 then t else t.wantSched p cap (off + 64) (32 * nr)
    if nl = 0 then t else t.wantSched p cap (leField h 0x18 8) (128 * nl)

def State.setSchedule (s : State) (p : Nat) (x : Option Schedule) : State :=
  s.mapPkg fun k => { k with schedule := Vector.ofFn fun i => if i.val = p then x else k.schedule[i] }

/-- The walk after a record: its NEXT, 0 being the end of the published part. -/
def nextOf (r : StepRec) : Option Word := if r.next = 0 then none else some r.next

/-- The next record of the walk, with the schedule after reading it. -/
def State.walkStep (s : State) (p : Nat) (x : Schedule) : Option (StepRec × Schedule) :=
  match x.ahead with
  | r :: l => some (r, { x with ahead := l })
  | [] =>
    match x.next with
    | none => none
    | some off =>
      match s.readStep p x.cap off.toNat with
      | none => none
      | some r => some (r, { x with next := nextOf r, last := some off })

/-- The pages of a record's W ranges that take leases, in increasing order of object id and page (R360). -/
def State.writePages (s : State) (r : StepRec) : List (BitVec 48 × BitVec 32) :=
  let ps := (r.ranges.filter fun x => x.write && !s.direct x.cap).flatMap fun x =>
    (natRange x.page.toNat x.count).map fun p => (capObject x.cap, BitVec.ofNat 32 p)
  ps.foldl (fun l p => if l.elem p then l else
    l.takeWhile (fun q => decide (pageKey q.1 q.2.toNat < pageKey p.1 p.2.toNat)) ++ p ::
    l.dropWhile fun q => decide (pageKey q.1 q.2.toNat < pageKey p.1 p.2.toNat)) []

/-- A W range whose capability does not grant its pages (R377): it is null, a reserved flag is set, a page lies outside it, or W is missing. What
becomes of the attempt is not stated: it is lost with FAULT (DEDUCED, log 73). -/
def badRanges (r : StepRec) : Bool :=
  r.ranges.any fun x => x.write && x.count != 0 && (capFault x.cap (x.page.toNat * 2 ^ 16) (x.count * 2 ^ 16) [.w]).isSome

/-- The attempt holds the write lease of a page. -/
def Lease.holds (l : Lease) (p : Nat) (r : StepRec) : Bool := l.st == .write && l.owner == some (p, r.step) && l.gen == r.gen && !l.leave

/-- The next write-lease request of a step attempt, one page after the other in their order (R360): NONE and READ go to WPEND (Table 17.2). A
page on which the package has another request, or that the cache has no room for, is waited for. -/
def State.wantWrites (s : State) (p : Nat) (r : StepRec) : State :=
  let u := some (p, r.step)
  match (s.writePages r).find? fun (obj, page) => !s.pkg.leases.any fun l => isPage obj page l && l.holds p r with
  | none => s
  | some (obj, page) =>
    match s.pkg.leases.find? (isPage obj page) with
    | none =>
      if !s.pkg.cacheRoom then s
      else s.mapPkg fun k => { k with leases := k.leases ++ [{ Lease.asked obj page .wpend p u with gen := r.gen, owner := u, get := false }] }
    | some l =>
      if l.st == .read then
        s.mapLease obj page fun l => ({ l with st := .wpend, gen := r.gen, owner := u, part := p, ask := false } : Lease).use u false
      else s

/-- The launches of an attempt: those of its record, and those from a mailbox that name its step (Table 14.1). -/
def State.stepLaunches (s : State) (p : Nat) (r : StepRec) : List Launch :=
  s.pkg.launches.filter fun l => l.part == p && (l.sched || l.step == r.step)

/-- Accept an attempt's launch records, under SCHEDASID (R358, R370). -/
def State.acceptStep (s : State) (p : Nat) (r : StepRec) : State :=
  let asid := ((s.partAt p).map fun (d : PartDesc) => d.schedAsid).getD 0
  r.launches.foldl (fun s b => s.acceptLaunch (s.newLaunch p b asid true)) s

/-- A step record becomes current once the previous one has finished: its launch records are accepted, and its write leases requested
(R358 to R360); a replacement takes effect first (R359). -/
def execEvStepCurrent (s : State) : Out :=
  .next (
    let p := s.arg.p.toNat
    match s.schedule p with
    | none => s
    | some x =>
      match x.current with
      | some a => if a.opened || s.pkg.losses.any (fun l => l.1 == p) then s else s.wantWrites p a.record
      | none =>
        if s.pkg.losses.any (fun l => l.1 == p) then s
        else match x.replace with
        | some (cap, off) =>
          s.setSchedule p (if capPages cap = 0 then none else some ⟨cap, some off, none, none, [], [], none⟩)
        | none =>
          match s.walkStep p x with
          | some (r, x) =>
            let named := (s.stepLaunches p r).filter fun l => !l.sched
            let tokens := (r.launches ++ named.map (·.bytes)).map fun b => BitVec.ofNat 64 (leField b 0x38 8)
            let x := { x with current := some ⟨r, false, tokens⟩, gets := x.gets.filter fun g => g.2.2 != r.step }
            let s := (s.setSchedule p (some x)).acceptStep p r
            if badRanges r then s.loseAttempt p r.step .fault else s.wantWrites p r
          | none => match x.next with
            | some off => s.wantStep p x.cap off.toNat
            | none => s)

/-- The last record is read again until its NEXT is nonzero (R359). -/
def execEvScheduleReread (s : State) : Out :=
  .next (
    let p := s.arg.p.toNat
    match s.schedule p with
    | none => s
    | some x =>
      match x.next, x.last with
      | none, some off =>
        match s.schedBytes p x.cap (off.toNat + 0x20) 8 with
        | some b =>
          let n := BitVec.ofNat 64 (leNat b)
          if n = 0 then s else s.setSchedule p (some { x with next := some n })
        | none => s.wantSched p x.cap (off.toNat + 0x20) 8
      | _, _ => s)

/-! ### The Proofer (R360, R441) -/

/-- A capability's PROOF flag. -/
def capProof (c : BitVec 128) : Bool := c.getLsbD 1

/-- The pages of a record's ranges, in record order and increasing page order. -/
def State.proofPages (s : State) (r : StepRec) : List (BitVec 128 × BitVec 32 × Word) :=
  (r.ranges.filter fun x => capProof x.cap && !s.direct x.cap).flatMap fun x =>
    (natRange x.page.toNat x.count).map fun pg => (x.cap, BitVec.ofNat 32 pg, r.step)

/-- A get that would fault (R264, R361, R379) is dropped. -/
def State.getFaults (s : State) (p : Nat) (c : BitVec 128) (page : Nat) : Bool :=
  (capFault c (page * 2 ^ 16) (2 ^ 16) [.r]).isSome || !s.pool.grants (s.tenant p) (capObject c) page

/-- The Proofer gets one more page for a step ahead of the current one, while the cache has room (R361), or walks one step further. -/
def execEvProoferPrefetch (s : State) : Out :=
  .next (
    let p := s.arg.p.toNat
    match s.schedule p with
    | none => s
    | some x =>
      if x.current.isNone then s
      else
        match x.gets with
        | (c, page, step) :: l =>
          let t := s.setSchedule p (some { x with gets := l })
          if s.getFaults p c page.toNat then t
          else if s.pkg.leases.any (isPage (capObject c) page) || s.pkg.cacheRoom then
            t.wantPage (capObject c) page p (some (p, step)) false
          else s
        | [] =>
          if x.replace.isSome || x.ahead.length ≥ wbits (s.pkg.reg 0x30) 3 0 then s
          else
            match x.next with
            | none => s
            | some off =>
              match s.readStep p x.cap off.toNat with
              | none => s.wantStep p x.cap off.toNat
              | some r => s.setSchedule p
                  (some { x with next := nextOf r, last := some off, ahead := x.ahead ++ [r], gets := s.proofPages r }))

/-! ### The end of an attempt (R430, R431, R433) -/

/-- Outcomes of Table 17.4. -/
def lossCode : LossCause → Nat
  | .cancelled => 4 | .fenced => 5 | .lapsed => 6 | .linkLost => 7 | .noSpace => 8 | .fault => 9

/-- A step-commit record from the command processor's event source. -/
def State.recordStep (s : State) (p : Nat) (r : StepRec) (outcome : Nat) : State :=
  let d := leBytes 8 r.step.toNat ++ leBytes 4 r.gen.toNat ++ leBytes 4 outcome ++ leBytes 4 s.pkg.cpSeq.toNat
  (s.emit p 4 0 d).mapPkg fun k => { k with cpSeq := k.cpSeq + 1 }

/-- The leases of a step are withdrawn: requests dropped, at the pool too where one waits there, write leases released once their puts
have been answered, and read leases that were taken for no other step. -/
def State.withdraw (s : State) (p : Nat) (step : Word) : State :=
  let u := some (p, step)
  (s.pkg.leases.filter fun l => l.users.elem u).foldl (fun s l =>
    let l := { l with users := l.users.filter (· != u) }
    let keep := s.mapLease l.obj l.page fun _ => l
    if l.owner == u && l.st == .wpend then
      (keep.ask l.part (.release s.pkg.num l.obj l.page)).1.leavePage { l with d := 0 }
    else if l.owner == u && l.st == .write then
      if s.putsLeft l.obj l.page then s.mapLease l.obj l.page fun _ => { l with leave := true } else keep.leavePage l
    else if !l.users.isEmpty then keep
    else if l.st == .rpend then s.dropPage l.obj l.page
    else s.releasePage l) s

/-- An attempt ends with an outcome. -/
def State.endAttempt (s : State) (p : Nat) (x : Schedule) (a : Attempt) (outcome : Nat) : State :=
  let s := (s.setSchedule p (some { x with current := none })).mapPkg fun k => { k with losses := k.losses.filter fun l => l.1 != p }
  ((s.withdraw p a.record.step).recordStep p a.record outcome).dropGroups p

/-- Every write lease of the attempt is live. -/
def State.leasesLive (s : State) (p : Nat) (r : StepRec) : Bool :=
  !badRanges r && (s.writePages r).all fun (obj, page) => s.pkg.leases.any fun l => isPage obj page l && l.holds p r && decide (s.pkg.now < l.d)

/-- The record's commit cell lies behind a lost link (R438). -/
def State.cellLost (s : State) (r : StepRec) : Bool := s.pkg.pageLost (capObject r.cellCap) (r.cellOff.toNat / 2 ^ 16)

/-- A loss of the attempt that a partition is at work on. -/
def State.addLoss (s : State) (p : Nat) (c : LossCause) : State := s.mapPkg fun k => { k with losses := k.losses ++ [(p, c)] }

/-- An operation of the command processor at a step's commit cell (R326, R432): a copy of the decided cell in the pool cache serves it, or
the reply leaves one there (R323). A cell that its capability does not grant is answered as one the pool refuses (R377). -/
def State.stepCell (s : State) (p : Nat) (r : StepRec) (op : CellOp) (stamp : Nat) : State × PoolReply :=
  let right := match op with | .read => Right.r | _ => Right.a
  let home := Place.home (capObject r.cellCap) (r.cellOff.toNat / 64 * 64)
  if (capFault r.cellCap r.cellOff.toNat 64 [right]).isSome then (s, .object)
  else
    match (if Config.freeBool s.clock then [] else s.pkg.cells).find? fun c => c.place == home && c.gen == r.cellGen with
    | some c => (s, .cell (cellReply (match op with | .read => 6 | _ => 2) true c.bytes))
    | none =>
      match s.ask p (.cell (capObject r.cellCap) r.cellOff.toNat r.cellGen op stamp) with
      | (s, .cell c) => (s.installCell home c false, .cell c)
      | (s, x) => (s, x)

/-- Once every write lease is granted, the commit cell is read at CELLGEN (R432): an open cell makes the launches eligible, which asks for a
dispatch decision (DEDUCED, log 67); a decided or recycled one ends the attempt ALREADY with none of them run, and EARLY or INVALID
loses it. -/
def execEvStepRerunCheck (s : State) : Out := .next (
  let s := s.serveOthers
  let p := s.arg.p.toNat
  match s.schedule p with
  | none => s
  | some x =>
    match x.current with
    | none => s
    | some a =>
      if a.opened || !s.leasesLive p a.record || s.pkg.losses.any (fun l => l.1 == p) then s
      else if s.cellLost a.record then s.addLoss p .linkLost
      else
        match s.stepCell p a.record .read 0 with
        | (s, .cell c) =>
          if c.status = 5 then (s.setSchedule p (some { x with current := some { a with opened := true } })).wantDecision p
          else if c.status = 6 || c.status = 3 then
            ((s.stepLaunches p a.record).foldl (fun s l => (s.dropRes l).dropLaunch l) s).endAttempt p x a 3
          else s.addLoss p .fault
        | (s, .object) => s.addLoss p .fault
        | (s, _) => s)

/-- The proposal of R326: the attempt's generation, the package, the step. -/
def State.stepProposal (s : State) (r : StepRec) : CellOp :=
  .prop (leBytes 4 r.gen.toNat ++ leBytes 4 s.pkg.num.toNat ++ leBytes 8 r.step.toNat) s.pkg.num 0 true

/-- The earliest D among the step's write leases; 0 for none (R425). -/
def State.stamp (s : State) (p : Nat) (r : StepRec) : Nat :=
  (s.pkg.leases.filter fun l => l.owner == some (p, r.step) && l.st == .write).foldl (fun t l => if t = 0 then l.d else min t l.d) 0

/-- Once every launch of the attempt has completed and been flushed, its commit is proposed (R433); the winner retires its tokens
(R314). -/
def execEvStepCommit (s : State) : Out :=
  .next (
    let s := s.serveOthers
    let p := s.arg.p.toNat
    match s.schedule p with
    | none => s
    | some x =>
      match x.current with
      | none => s
      | some a =>
        if !a.opened || !(s.stepLaunches p a.record).isEmpty || s.pkg.losses.any (fun l => l.1 == p) then s
        else if !s.leasesLive p a.record then s.addLoss p .lapsed
        else if s.cellLost a.record then s.addLoss p .linkLost
        else
          match s.stepCell p a.record (s.stepProposal a.record) (s.stamp p a.record) with
          | (s, .cell c) =>
            if c.status = 1 then
              ((s.mapPkg fun k => { k with retiring := k.retiring ++ [((p, a.record.step), a.tokens)] }).endAttempt p x a 1).retireDue
            else if c.status = 2 || c.status = 3 then s.endAttempt p x a 2
            else s.addLoss p .fault
          | (s, .fenced) => s.endAttempt p x a 5
          | (s, .object) => s.addLoss p .fault
          | (s, _) => s)

/-- A step attempt is lost (R430): its launches are cancelled, its leases withdrawn, and its outcome recorded. -/
def execEvStepLost (s : State) : Out :=
  .next (
    let p := s.arg.p.toNat
    match s.pkg.losses.find? fun l => l.1 == p with
    | none => s
    | some (_, c) =>
      let s := s.mapPkg fun k => { k with losses := k.losses.filter fun l => l.1 != p }
      match s.schedule p with
      | none => s
      | some x =>
        match x.current with
        | none => s
        | some a =>
          let ls := (s.stepLaunches p a.record).filter fun l => l.st != .flushing
          let s := ls.foldl State.cancelLaunch s
          let s := if ls.isEmpty then s else s.wantDecision p
          match s.schedule p with
          | some x => s.endAttempt p x a (lossCode c)
          | none => s)

end Sys2Proof.Machine
end

