-- ==== Sys2Proof/Machine/Links.lean ====
section
/-! DEFINITION. Links.lean: the optical links: receiving flits, acknowledgement and replay, lanes and strands, the loss of a link
and its reset (R434 to R439, R454). -/
namespace Sys2Proof.Machine

/-! ### Link events (R439) -/

/-- A link record goes to every configured partition's ring (R448). -/
def State.emitAll (s : State) (kind num : Nat) (data : List Byte) : State :=
  (natRange 0 8).foldl (fun s p => if (s.partAt p).isSome then s.emit p kind num data else s) s

def State.setLink (s : State) (i : Nat) (l : Link) : State := s.mapPkg fun k => k.setLink i l

def Link.dir (l : Link) (outbound : Bool) : LinkDir := if outbound then l.outw else l.inw
def Link.setDir (l : Link) (outbound : Bool) (d : LinkDir) : Link := if outbound then { l with outw := d } else { l with inw := d }

/-- A record of a link direction: KIND, the lane or strand, the link, a SEQ, the source's own number. -/
def State.linkEvent (s : State) (i : Nat) (outbound : Bool) (kind which : Nat) (seq : BitVec 12) : State :=
  let l := s.pkg.link i
  let d := l.dir outbound
  let s := s.emitAll 2 (i * 2 + if outbound then 0 else 1)
    ([BitVec.ofNat 8 kind, BitVec.ofNat 8 which, BitVec.ofNat 8 i, 0] ++ leBytes 4 seq.toNat ++ leBytes 4 d.evSeq.toNat ++ List.replicate 4 0)
  s.setLink i (l.setDir outbound { d with evSeq := d.evSeq + 1 })

/-- The oldest flit kept. -/
def LinkDir.oldest (d : LinkDir) : Option (BitVec 12) := d.kept.head?.map (·.1)

/-- The first DATA flit of a direction under a new state: inbound the one expected; outbound, where the new state begins with a replay from
the last acknowledged flit (R437, R438), the oldest one kept, and else the one that is sent next, which of those not acknowledged no
state shows (log 48). -/
def LinkDir.nextFlit (d : LinkDir) (outbound replays : Bool) (pick : Nat) : BitVec 12 :=
  if !outbound then d.expect
  else if replays then d.oldest.getD d.nextSeq
  else (d.kept.map (·.1))[pick % (d.kept.length + 1)]?.getD d.nextSeq

/-- A lane or strand event, under the state just entered. -/
def State.laneEvent (s : State) (i : Nat) (outbound : Bool) (kind which : Nat) (replays : Bool := false) : State :=
  s.linkEvent i outbound kind which (((s.pkg.link i).dir outbound).nextFlit outbound replays (Config.freeNat s.clock))

/-! ### Acknowledgement and replay (R435) -/

/-- An acknowledgement frees every buffered flit up to it; one that names no buffered flit frees none. -/
def LinkDir.acked (d : LinkDir) (ack : BitVec 12) : LinkDir :=
  if d.kept.any (·.1 == ack) then
    let rest := (d.kept.dropWhile fun f => f.1 != ack).drop 1
    ({ d with kept := rest, replay := if rest.isEmpty then none else d.replay }).pump
  else d

/-- A replay from a buffered flit: while both strands are out nothing is sent (R438). -/
def State.replayFrom (s : State) (i : Nat) (seq : BitVec 12) : State :=
  let l := s.pkg.link i
  if l.outw.inService && !(l.outw.from seq).isEmpty then
    (s.setLink i { l with outw := { l.outw with replay := some seq } }).linkEvent i true 6 0 seq
  else s

def State.replayAll (s : State) (i : Nat) : State :=
  match (s.pkg.link i).outw.oldest with
  | some q => s.replayFrom i q
  | none => s

/-- A replay in progress will resend a flit, if it has not come to its end yet. -/
def State.replaying (s : State) (d : LinkDir) (seq : BitVec 12) : Bool :=
  match d.replay with
  | some r => (d.from r).any (·.1 == seq) && Config.freeBool s.clock
  | none => false

/-- A NAK names the last flit delivered: it acknowledges up to it, and the sender replays from its successor. -/
def State.takeNak (s : State) (i : Nat) (ack : BitVec 12) : State :=
  let l := s.pkg.link i
  if s.pkg.linkLost i then s
  else
    let d := l.outw.acked ack
    let s := s.setLink i { l with outw := d }
    if s.replaying d (ack + 1) then s else s.replayFrom i (ack + 1)

/-- A DATA flit at the receiver: the expected one is delivered, a duplicate is discarded, any other is answered by a NAK. -/
def Link.receive (l : Link) (seq : BitVec 12) (payload : List Byte) : Link :=
  let e := l.inw.expect
  if seq = e then { l with inw := { l.inw with expect := e + 1 }, delivered := l.delivered ++ [payload] }
  else if (e - seq).toNat ≤ 2047 then l
  else { l with nak := some (e - 1) }

/-- A flit arrives (R434 to R436). -/
def State.takeFlit (s : State) (i : Nat) (f : BitVec 2048) : State :=
  let l := s.pkg.link i
  if s.pkg.linkLost i || !l.inw.inService || !flitOk f then s
  else
    let h := flitHead f
    let s := if h.ackv && h.kind != 2 then s.setLink i { l with outw := l.outw.acked h.ack } else s
    if h.kind = 1 then s.setLink i ((s.pkg.link i).receive h.seq (flitPayload f))
    else if h.kind = 2 && h.ackv then s.takeNak i h.ack
    else s

def execEvFlitReceive (s : State) : Out := .next (s.takeFlit s.arg.link.toNat s.arg.flit)

def execEvNakReceive (s : State) : Out := .next (s.takeNak s.arg.link.toNat s.arg.ack)

/-- The acknowledgement has not advanced for 4 µs while flits are unacknowledged. -/
def execEvReplayTimeout (s : State) : Out :=
  .next (if s.pkg.linkLost s.arg.link.toNat then s else s.replayAll s.arg.link.toNat)

/-! ### Lanes (R437) -/

def LinkDir.lane (d : LinkDir) (n : BitVec 4) : Bool × LaneSt :=
  let st := d.strand[n.toNat / 8]'(by omega)
  (st.up, st.lanes[n.toNat % 8]'(by omega))

def Strand.setLane (st : Strand) (n : Nat) (x : LaneSt) : Strand :=
  { st with lanes := Vector.ofFn fun j => if j.val = n then x else st.lanes[j] }

def LinkDir.setStrand (d : LinkDir) (k : Nat) (st : Strand) : LinkDir :=
  { d with strand := Vector.ofFn fun j => if j.val = k then st else d.strand[j] }

def LinkDir.setLane (d : LinkDir) (n : BitVec 4) (x : LaneSt) : LinkDir :=
  d.setStrand (n.toNat / 8) ((d.strand[n.toNat / 8]'(by omega)).setLane (n.toNat % 8) x)

def LaneSt.retrains : LaneSt → Bool
  | .retraining _ => true
  | _ => false

/-- THRESH of a link (Table 20.3). -/
def State.thresh (s : State) (i : Nat) : Nat := wbits (s.pkg.reg (0x100 + 8 * i)) 15 0

/-- A lane leaves the active set to retrain. -/
def State.startRetrain (s : State) (i : Nat) (outbound : Bool) (n : BitVec 4) : State :=
  let l := s.pkg.link i
  (s.setLink i (l.setDir outbound ((l.dir outbound).setLane n (.retraining 0)))).laneEvent i outbound 1 n.toNat

/-- The first lane of a strand that waits to retrain starts, if none retrains. -/
def State.nextRetrain (s : State) (i : Nat) (outbound : Bool) (k : Nat) : State :=
  let d := (s.pkg.link i).dir outbound
  let lanes := (natRange (8 * k) 8).map fun n => (n, d.lane (BitVec.ofNat 4 n))
  if lanes.any fun x => x.2.2.retrains then s
  else match lanes.find? fun x => x.2.2 == .waiting with
    | some x => s.startRetrain i outbound (BitVec.ofNat 4 x.1)
    | none => s

/-- A lane's count exceeds THRESH in one window: it retrains, or waits while another lane of its strand does. -/
def execEvLaneErrorThreshold (s : State) : Out :=
  .next (
    let i := s.arg.link.toNat
    let l := s.pkg.link i
    let d := l.dir s.arg.outbound
    if s.pkg.linkLost i || decide (s.arg.errors ≤ s.thresh i) then s
    else
      match d.lane s.arg.lane with
      | (true, .active) =>
        (s.setLink i (l.setDir s.arg.outbound (d.setLane s.arg.lane .waiting))).nextRetrain i s.arg.outbound (s.arg.lane.toNat / 8)
      | _ => s)

/-- A background retrain ends: the lane rejoins, tries again, or after its third failure stays out; then the next lane that waits
starts. -/
def execEvLaneRetrainEnd (s : State) : Out :=
  .next (
    let i := s.arg.link.toNat
    let l := s.pkg.link i
    let out := s.arg.outbound
    let n := s.arg.lane
    let d := l.dir out
    match d.lane n with
    | (true, .retraining k) =>
      if s.pkg.linkLost i then s
      else if s.arg.ok then
        ((s.setLink i (l.setDir out (d.setLane n .active))).laneEvent i out 2 n.toNat).nextRetrain i out (n.toNat / 8)
      else if k + 1 ≥ 3 then
        ((s.setLink i (l.setDir out (d.setLane n .out))).laneEvent i out 3 n.toNat).nextRetrain i out (n.toNat / 8)
      else s.setLink i (l.setDir out (d.setLane n (.retraining (k + 1))))
    | _ => s)

/-! ### Strands (R437, R438) -/

/-- A lane loses signal: its strand leaves service, every lane of it retrains, and the sender replays on the other strand. -/
def execEvStrandLoss (s : State) : Out :=
  .next (
    let i := s.arg.link.toNat
    let out := s.arg.outbound
    let l := s.pkg.link i
    let d := l.dir out
    let k := s.arg.lane.toNat / 8
    if s.pkg.linkLost i || !(d.lane s.arg.lane).1 then s
    else
      let d := d.setStrand k ⟨false, Vector.replicate 8 (.retraining 0)⟩
      let s := (s.setLink i (l.setDir out d)).laneEvent i out 4 k true
      if out then s.replayAll i else s)

/-- A strand returns with every lane that trained; one on which none trains stays out. After an outage of both strands the sender
replays from the last acknowledged flit. -/
def execEvStrandReturn (s : State) : Out :=
  .next (
    let i := s.arg.link.toNat
    let out := s.arg.outbound
    let l := s.pkg.link i
    let d := l.dir out
    let k := s.arg.strand.toNat
    if s.pkg.linkLost i || (d.lane (BitVec.ofNat 4 (8 * k))).1 || s.arg.trained = 0 then s
    else
      let st : Strand := ⟨true, Vector.ofFn fun (j : Fin 8) => if s.arg.trained.getLsbD j.val then .active else .out⟩
      let wasOut := !d.inService
      let s := (s.setLink i (l.setDir out (d.setStrand k st))).laneEvent i out 5 k wasOut
      let s := (natRange 0 8).foldl (fun s j => if s.arg.trained.getLsbD j then s else s.laneEvent i out 3 (8 * k + j) wasOut) s
      if out && wasOut then
        let s := s.replayAll i
        let l := s.pkg.link i
        s.setLink i { l with outw := l.outw.pump }
      else s)

/-! ### The loss of a link (R438, R454) -/

/-- A window's accesses travel over a lost link. -/
def State.winLost (s : State) (w : BitVec 4) : Bool :=
  let e := s.ctx.win w
  (winMC e || winPkg e != s.pkg.num) && s.pkg.pkgLost (winPkg e)

/-- A running command has an operand, or a put that is not answered, beyond a lost link. -/
def State.copyLost (s : State) (n : Nat) (t : CopyTag) : Bool :=
  t.st == .running && (([t.dst, t.src].any fun e => e.space == .win && s.winLost e.num)
    || s.pkg.puts.any fun p => p.copy == some (s.ctx.info.launchId, s.coreNum, BitVec.ofNat 6 n, t.op.seq) && s.pkg.pageLost p.obj (p.off / 2 ^ 16))

/-- A taking read that the commit in progress waits in, toward a lost link. -/
def State.takeLost (s : State) : Option Entry :=
  if s.ctx.commit.isNone then none
  else s.ctx.buffer.head?.filter fun e => match e.act, e.place? with
    | .take _ _, some (.win w _) => s.winLost w
    | _, _ => false

/-- A taking read ends so (R454): it writes nothing, and its context rolls back out of the commit; but once an atomic of the commit has
performed, which nothing may apply twice (R309), the commit goes on without it (DEDUCED, log 36). -/
def State.loseTake (s : State) (e : Entry) : State :=
  let i := trapLink 5 e.va
  if s.ctx.applied then (s.mapCtx fun c => { c with buffer := c.buffer.erase e }).reportKept e.id i
  else (s.mapCtx fun c => { c with commit := none, waiting := none }).hold ⟨s.ctx.seq, 0, e.id.pc, true, false, slotCode e.id.slot, s.coreNum, i⟩

/-- What the context in focus has waiting on lost links ends: a remote read traps without a result, a taking read of the
commit too; running copies end LINK_LOST and lose their step. -/
def State.loseAccesses (s : State) : State :=
  let s := match s.ctx.remote with
    | some r => if s.winLost r.window then
        ({ s with ctx := { s.ctx with remote := none, queue := s.ctx.queue.filter fun p => p.id != r.op.id } } : State).report r.op.id
          (trapLink 5 (BitVec.ofNat 64 r.addr))
      else s
    | none => s
  let s := match s.takeLost with
    | some e => s.loseTake e
    | none => s
  s.ctx.tags.foldl (fun s (n, t) => if s.copyLost n t then (s.endCopy n t .linkLost).loseStep .linkLost else s) s

/-- A context whose write over a lost link has not been accepted: the write is discarded, and it raises LINK_LOST, KEPT, at the write's
launching bundle (R404); not for a copy command, whose tag says it. -/
def Context.loseWrite (c : Context) (core : BitVec 7) (x : RemoteWrite) : Context :=
  let c := if x.posted then c.accept x.window else c
  if x.copy.isSome then c
  else { c with fault := c.fault ++ [⟨c.seq, 0, x.src.1, true, true, x.src.2.1, core, trapLink 5 x.src.2.2⟩] }

/-- A write sent over a lost link and not accepted: its context is resident, in either slot, or saved. -/
def State.loseWrite (s : State) (x : RemoteWrite) : State :=
  match s.senderSlot x with
  | some sl => s.at_ x.core sl fun s => s.mapCtx fun c => c.loseWrite x.core x
  | none =>
    let its := fun (v : SavedCtx) => v.core == x.core && v.launchId == x.launch && v.ctx.info.pid == x.pid
    s.mapPkg fun k => { k with saved := mapIf its (fun v => { v with ctx := v.ctx.loseWrite x.core x }) k.saved }

/-- Writes and requests beyond lost links: those not accepted are lost, and nothing waits for those accepted any more (log 34). -/
def State.loseWrites (s : State) : State :=
  let gone := fun (x : RemoteWrite) => s.pkg.pkgLost (x.toPkg.getD 0)
  let xs := s.pkg.sent.filter gone
  let s := s.mapPkg fun k => { k with sent := k.sent.filter fun x => !gone x, accepted := k.accepted.filter fun x => !gone x }
  xs.foldl State.loseWrite s

/-- Lease requests on lost pool links end: an RPEND page is dropped, a WPEND page loses its step, and a write lease whose puts are
unanswered loses its step; granted leases lapse at their D. -/
def State.loseRequests (s : State) : State :=
  (s.pkg.leases.filter fun l => s.pkg.pageLost l.obj l.page.toNat).foldl (fun s l =>
    match l.st with
    | .rpend => s.dropPage l.obj l.page
    | .wpend => (s.dropPage l.obj l.page).loseLease l .linkLost
    | .write =>
      if s.putsLeft l.obj l.page && !(match l.owner with | some (p, _) => s.pkg.losses.any fun x => x.1 == p | none => true) then s.loseLease l .linkLost
      else s
    | .read => s) s

/-- Everything that waits on a lost link ends. -/
def State.loseAll (s : State) : State :=
  let s := s.contexts.foldl (fun s (c, sl, _) => s.at_ c sl State.loseAccesses) s
  s.loseWrites.loseRequests

/-- No strand of a direction returned within 200 µs: the whole link is lost until firmware resets it. What waits on it then, or comes to
wait on it later, ends. -/
def execEvLinkLost (s : State) : Out :=
  .next (
    let i := s.arg.link.toNat
    let l := s.pkg.link i
    if l.lost then s.loseAll
    else if l.outw.inService && l.inw.inService then s
    else
      let s := s.setLink i { l with lost := true }
      let s := if l.outw.inService then s else s.laneEvent i true 7 0
      let s := if l.inw.inService then s else s.laneEvent i false 7 0
      s.loseAll)

/-- Firmware resets a lost link (Table 20.3, LINKCTL RESET); the sources' sequence numbers go on. -/
def State.resetLink (s : State) (i : Nat) : State :=
  let l := s.pkg.link i
  if l.lost then
    s.setLink i { Link.fresh with
      outw := { LinkDir.fresh with evSeq := l.outw.evSeq }
      inw := { LinkDir.fresh with evSeq := l.inw.evSeq } }
  else s

def execEvLinkReset (s : State) : Out := .next (s.resetLink s.arg.link.toNat)

end Sys2Proof.Machine
end

