-- ==== Sys2Proof/Machine/Fetch.lean ====
section
/-! DEFINITION. Fetch.lean: code words, code blocks and their verification, the flow from bundle to bundle with hardware loops,
delay slots and skips, and the fetch of the next bundle (R50 to R58, R78 to R80, R158 to R161, R328 to R335, R453). -/
namespace Sys2Proof.Machine

/-! ### Code words and start masks -/

def Image.block? (im : Image) (i : Nat) : Option Block := (im.blocks.find? (·.1 == i)).map (·.2)

/-- A block that a context of the launch has verified (R57, R58). -/
def State.block? (s : State) (i : Nat) : Option Block :=
  (s.ctx.image.block? i).or (s.launchHere.bind fun l => (l.blocks.find? (·.1 == i)).map (·.2))

/-- A code word: of the verified block, or as memory holds it while the block is not verified (R50, R58). -/
def State.codeWord (s : State) (pc : Nat) : BitVec 16 :=
  match s.block? (pc / 1024) with
  | some b => b.words.getD (pc % 1024) 0
  | none => BitVec.ofNat 16 (s.devLe (s.ctx.image.codeBase + 2 * pc) 2)

/-- The start-mask bit of a code word; a word at or beyond the code length has none (R56). -/
def State.startBit (s : State) (pc : Nat) : Bool :=
  decide (pc < s.ctx.image.codeLen) &&
  match s.block? (pc / 1024) with
  | some b => (b.masks.getD (pc % 1024 / 64) 0).getLsbD (pc % 64)
  | none => (s.devLe (s.ctx.image.sideBase + 256 * (pc / 1024) + 8 * (pc % 1024 / 64)) 8).testBit (pc % 64)

/-- Verify a code block (R55, R57): none when it fails. A block is verified once per launch. -/
def State.verify (s : State) (i : Nat) : Option State :=
  match s.block? i with
  | some _ => some s
  | none =>
    let im := s.ctx.image
    let code := s.devBytes (im.codeBase + 2048 * i) 2048
    let side := s.devBytes (im.sideBase + 256 * i) 256
    if s.devSpoilt (im.codeBase + 2048 * i) 2048 || s.devSpoilt (im.sideBase + 256 * i) 256 then none
    else match s.keyFor im.codeKey .gcm with
    | none => none
    | some key =>
      let iv := leBytes 8 im.nonce.toNat ++ sliceBytes side 0x90 4
      let aad := code ++ sliceBytes side 0 0x80 ++ sliceBytes side 0x90 4
      if (side.drop 0x94).all (· == 0) && leField side 0x90 4 == i && Config.gcmTag key iv aad [] == sliceBytes side 0x80 16 then
        let b : Block := ⟨(natRange 0 1024).map fun k => BitVec.ofNat 16 (leField code (2 * k) 2),
                          (natRange 0 16).map fun k => BitVec.ofNat 64 (leField side (8 * k) 8)⟩
        let s := match s.launchHere with | some l => s.setLaunch { l with blocks := (i, b) :: l.blocks } | none => s
        some (s.mapCtx fun c => { c with image := { c.image with blocks := (i, b) :: c.image.blocks } })
      else none

/-- The trap of a block that does not verify: UNCORRECTABLE where a poisoned byte is read (R418), else AUTH_FAIL. -/
def State.verifyFault (s : State) (i : Nat) : TrapInfo :=
  let im := s.ctx.image
  if s.devSpoilt (im.codeBase + 2048 * i) 2048 || s.devSpoilt (im.sideBase + 256 * i) 256 then trapData 0 else { code := 0x01 }

/-- Code words a bundle takes (Table 3.1). -/
def State.bundleLen (s : State) (pc : Nat) : Nat := if s.codeWord pc = 0xFFFF then 25 else 1

/-- Pads form no bundle (R54). -/
def State.skipPads (s : State) : Nat → Nat → Nat
  | 0, pc => pc
  | n + 1, pc => if s.codeWord pc = 0xFFFE && !s.startBit pc then State.skipPads s n (pc + 1) else pc

/-- The first bundle after the bundle at a pc. -/
def State.after (s : State) (pc : BitVec 32) : BitVec 32 :=
  let next := pc.toNat + s.bundleLen pc.toNat
  BitVec.ofNat 32 (s.skipPads (s.ctx.image.codeLen - next) next)

/-! ### Flow -/

/-- Where flow goes and what the loop stack becomes; `back` when an end-of-iteration action sent it to a START. -/
structure Flow where
  loops : List LoopEntry
  next  : BitVec 32
  back  : Bool
  deriving DecidableEq, Repr

/-- The end-of-iteration action of the innermost entry (R333), `out` being the first bundle after its END bundle. -/
def endAction (out : BitVec 32) : List LoopEntry → Flow
  | [] => ⟨[], out, false⟩
  | e :: l =>
    if e.remain - 1 = 0 then
      match l with
      | [] => ⟨[], out, false⟩
      | e2 :: l' => if e2.last = e.last then endAction out (e2 :: l') else ⟨e2 :: l', out, false⟩
    else ⟨{ e with remain := e.remain - 1, index := e.index + 1 } :: l, e.start, true⟩

/-- Flow past the bundle at a pc (R333): only the innermost entry is compared. -/
def State.flow (s : State) (loops : List LoopEntry) (pc : BitVec 32) : Flow :=
  match loops with
  | [] => ⟨[], s.after pc, false⟩
  | e :: l => if e.last = pc then endAction (s.after pc) (e :: l) else ⟨e :: l, s.after pc, false⟩

/-- `lbreak` (R334): the innermost entry is popped, and flow goes on as from its END bundle. -/
def State.flowBreak (s : State) : List LoopEntry → Flow
  | [] => ⟨[], 0, false⟩
  | e :: l =>
    match l with
    | [] => ⟨[], s.after e.last, false⟩
    | e2 :: l' => if e2.last = e.last then endAction (s.after e.last) (e2 :: l') else ⟨e2 :: l', s.after e.last, false⟩

/-- `lnext` (R334): the end action as though the bundle were the END bundle. -/
def State.flowNext (s : State) : List LoopEntry → Flow
  | [] => ⟨[], 0, false⟩
  | e :: l => endAction (s.after e.last) (e :: l)

/-- A trap of the bundle that is next to dispatch (R78, R402). -/
def State.bundleTrap (s : State) (pc : BitVec 32) (slot : Nat) (i : TrapInfo) : Held :=
  ⟨s.ctx.seq, 1, pc, false, false, slot, s.coreNum, i⟩

/-- What R51, R53 and R56 reject about the word that begins a bundle: ILLEGAL_CODE. -/
def State.wordBad (s : State) (pc : Nat) : Bool :=
  let w := (s.codeWord pc).toNat
  !s.startBit pc ||
    (if w < 0x4000 then decide (s.ctx.image.dict.length ≤ w)
     else if w = 0xFFFF then decide (40 ≤ pc % 64) || decide (s.ctx.image.codeLen < pc + 25)
       || (natRange (pc + 1) 24).any s.startBit
     else true)

/-- The walk over skipped bundles (R158 to R160), by their code words and start masks: none of their contents is checked, and no
block is verified for it, since no bundle of it dispatches (R57, R159; DEDUCED, log 22). -/
def State.walkSkip (s : State) : Nat → List LoopEntry → BitVec 32 → Except Held Flow
  | 0, loops, pc => .ok ⟨loops, pc, false⟩
  | n + 1, loops, pc =>
    if s.ctx.image.codeLen ≤ pc.toNat then .error (s.bundleTrap pc 7 { code := 0x03 })
    else if s.wordBad pc.toNat then .error (s.bundleTrap pc 7 { code := 0x03 })
    else
      let f := s.flow loops pc
      if (loops.head?.map (·.last)) = some pc then .ok f else State.walkSkip s n f.loops f.next

def State.setFlow (s : State) (f : Flow) (x : Option Xfer) : State :=
  { s with ctx := { s.ctx with
      regs := { s.ctx.regs with pc := f.next, loops := f.loops, xfer := x }
      backPoint := f.back && x.isNone
      breakOnce := false } }

/-- Inside the window of a taken transfer: from its dispatch until flow reaches the bundle it continues at (R342, R453). -/
def Context.inTransfer (c : Context) : Bool :=
  match c.regs.xfer with
  | some x => decide (0 < x.left) || x.target.isNone
  | Option.none => false

/-- A taken `vskip` whose delay slots have run: the walk (R158). A fault of the walk is raised when the bundle is next to dispatch. -/
def State.settle (s : State) : Except Held State :=
  match s.ctx.regs.xfer with
  | some x =>
    if x.target.isSome || x.left ≠ 0 then .ok s
    else
      match s.walkSkip x.skip s.ctx.regs.loops s.ctx.regs.pc with
      | .error h => .error h
      | .ok f => .ok (s.setFlow f none)
  | none => .ok s

def State.skipDone (s : State) : State :=
  match s.settle with
  | .ok t => t
  | .error _ => s

/-- Flow moves on past a bundle; a pending transfer counts its delay slots (R328, R453). -/
def State.moveOn (s : State) (f : Flow) : State :=
  match s.ctx.regs.xfer with
  | none => s.setFlow f none
  | some x =>
    if x.left = 0 then s.setFlow f none
    else if x.left = 1 then
      match x.target with
      | some t => s.setFlow { f with next := t, back := false } (some { x with left := 0 })
      | none => (s.setFlow f (some { x with left := 0 })).skipDone
    else s.setFlow f (some { x with left := x.left - 1 })

/-- Past a bundle whose C slot changes no flow. -/
def State.passBundle (s : State) : State := s.moveOn (s.flow s.ctx.regs.loops s.ctx.regs.pc)

/-- A `vskip` of the bundle whose C operation takes the flow is suppressed (R161). -/
def State.dropSkip (s : State) : State :=
  match s.cur with
  | none => s
  | some o =>
    { s with ctx := { s.ctx with queue := s.ctx.queue.filter fun p =>
        !(p.id.seq == o.id.seq && (match p.instr with | .vSkip _ _ => true | _ => false)) } }

/-- A branch is taken (R328, R333): the next two bundles are its delay slots. -/
def State.takeBranch (s : State) (target : BitVec 32) : State :=
  let f := s.flow s.ctx.regs.loops s.ctx.regs.pc
  s.dropSkip.setFlow f (some ⟨some target, 0, 2, s.ctx.regs.pc⟩)

/-- A loop instruction moves the flow without delay slots (R332, R334). -/
def State.takeFlow (s : State) (f : Flow) : State := s.dropSkip.moveOn f

/-- The return pc (R330): where flow would stand after the second delay slot had the call not been taken. -/
def State.returnPc (s : State) : BitVec 32 :=
  let f := s.flow s.ctx.regs.loops s.ctx.regs.pc
  let f := s.flow f.loops f.next
  (s.flow f.loops f.next).next

/-- A taken `vskip` of the bundle numbered `seq` (R158): its delay slots are the bundles after it, some of them already
dispatched; an iteration boundary after them lies within the window (R342). -/
def State.takeSkip (s : State) (o : OpId) (n : BitVec 16) : State :=
  let gone := s.ctx.seq - 1 - o.seq
  let t := s.mapCtx fun c => { c with
    regs := { c.regs with xfer := some ⟨none, n.toNat, 2 - gone, o.pc⟩ }
    backPoint := false }
  t.skipDone

/-! ### The next bundle -/

/-- Transfer-class operations (Table 3.13). -/
def isTransfer : Instr → Bool
  | .cBr _ _ => true | .cCall _ _ => true | .cRet _ => true | .cBrs _ _ => true | .cCalls _ _ => true
  | .cLoop _ _ _ => true | .cLoopi _ _ _ => true | .cLbreak _ => true | .cLnext _ => true
  | _ => false

def isSkip : Instr → Bool
  | .vSkip _ _ => true
  | _ => false

/-- What a delay slot may not hold (R328, R161). -/
def bundleTransfers (b : Bundle) : Bool := b.ops.any fun o => isTransfer o.2 || isSkip o.2

/-- The twelve words of the bundle that begins at a pc (R52, R53). -/
def State.bundleAt (s : State) (pc : Nat) : List (BitVec 32) :=
  let w := s.codeWord pc
  if w = 0xFFFF then (natRange 0 12).map fun i => s.codeWord (pc + 2 + 2 * i) ++ s.codeWord (pc + 1 + 2 * i)
  else
    let e := s.ctx.image.dict.getD w.toNat 0
    (natRange 0 12).map fun i => e.extractLsb' (32 * i) 32

/-- The branch whose target the pc is, where flow has just arrived at it. -/
def Regs.arrived (g : Regs) : Option (BitVec 32) :=
  match g.xfer with
  | some ⟨some _, _, 0, src⟩ => some src
  | _ => none

/-- Pads that sequential flow meets at the pc are discarded, so that no resumable position points at one (R54); the code may begin
with them. -/
def State.pastPads (s : State) : State :=
  let pc := s.ctx.regs.pc
  if s.ctx.regs.arrived.isSome then s
  else
    let next := BitVec.ofNat 32 (s.skipPads (s.ctx.image.codeLen - pc.toNat) pc.toNat)
    let at_ := fun (g : Regs) => if g.pc = pc then { g with pc := next } else g
    s.mapCtx fun c => { c with regs := at_ c.regs, ckpt := if c.atCkpt then at_ c.ckpt else c.ckpt }

/-- Fetch and decode the bundle at the pc, or the first of its faults in the order of R79; a block verified on the way stays
verified (R57, R58). -/
def State.fetch (s : State) : Except (State × Held) (State × Bundle) :=
  match s.settle with
  | .error h => .error (s, h)
  | .ok s =>
    let s := s.pastPads
    let pc := s.ctx.regs.pc
    let badStart : Held := match s.ctx.regs.arrived with
      | some src => s.bundleTrap src 7 { code := 0x02 }
      | none => s.bundleTrap pc 7 { code := 0x03 }
    if s.ctx.image.codeLen ≤ pc.toNat then .error (s, badStart)
    else
      match s.verify (pc.toNat / 1024) with
      | none => .error (s, s.bundleTrap pc 7 (s.verifyFault (pc.toNat / 1024)))
      | some s =>
        if !s.startBit pc.toNat then .error (s, badStart)
        else if s.wordBad pc.toNat then .error (s, s.bundleTrap pc 7 { code := 0x03 })
        else
          match decodeBundle clash (ctxFieldOk s.ctx) (s.bundleAt pc.toNat) with
          | .error .illegalBundle => .error (s, s.bundleTrap pc 7 { code := 0x04 })
          | .error (.illegalOpcode sl) => .error (s, s.bundleTrap pc (slotCode sl) { code := 0x05 })
          | .error (.illegalField sl) => .error (s, s.bundleTrap pc (slotCode sl) { code := 0x06 })
          | .ok b =>
            if bundleTransfers b && (match s.ctx.regs.xfer with | some x => decide (0 < x.left) | none => false) then
              .error (s, s.bundleTrap pc (if b.ops.any fun o => isTransfer o.2 then 0 else 2) { code := 0x07 })
            else .ok (s, b)

end Sys2Proof.Machine
end

