-- ==== Sys2Proof/Machine/Traps.lean ====
section
/-! DEFINITION. Traps.lean: taking a trap and resuming, the commit and wait events, pre-emption, save and restore
(R365, R397, R402 to R407, R412 to R418, R455). -/
namespace Sys2Proof.Machine

/-! ### Taking a trap (R402 to R406) -/

/-- The default responses of R403. -/
inductive Response where
  | kill | service | hold | retry | cancel | stepLost
  deriving DecidableEq, Repr

/-- Table 16.3, its Default column. -/
def response (i : TrapInfo) (stepLaunch : Bool) : Response :=
  match i.code with
  | 0x13 => .service
  | 0x1C => .hold
  | 0x38 => .hold
  | 0x39 => .hold
  | 0x3A => .hold
  | 0x30 => .cancel
  | 0x40 => if i.sub = 1 then .retry else .stepLost
  | 0x41 => .stepLost
  | 0x42 => if stepLaunch then .stepLost else .kill
  | _ => .kill

/-- TRAPREC0 and TRAPREC1 of the context in focus, for a completion record. -/
def State.trapWords (s : State) : Word × Word := (s.ctx.trapRec[0], s.ctx.trapRec[1])

/-- The context resumes from its checkpoint (R403, Table 16.6): the trap resumed from enters STATUS; after a BREAKPOINT the `break` acts
as `nop` once, that of the one bundle (R340). Past its `exit` it issues nothing more (R339). -/
def State.resumeHere (s : State) : State :=
  let code := wbits s.ctx.trapRec[0] 31 24
  s.mapCtx fun c => { c with
    hold := if c.exited then .exited else .no
    status := setBits (setBits c.status 31 24 code) 23 16 (wbits c.trapRec[0] 23 16)
    breakOnce := code == 0x39 && wbits c.trapRec[1] 63 32 == c.regs.pc.toNat }

/-- A new pc for a held context: its checkpoint moves there, and no transfer is pending. -/
def State.resumeAt (s : State) (pc : BitVec 32) : State :=
  let f := fun (g : Regs) => { g with pc := pc, xfer := none }
  s.mapCtx fun c => { c with regs := f c.regs, ckpt := f c.ckpt }

/-- The launch of the context in focus ends KILLED (R347). -/
def State.killMine (s : State) : State :=
  match s.launchHere with
  | some l => s.killLaunch l s.trapWords
  | none => s.mapCtx fun c => { c with hold := .held }

/-- The step of a launch is lost (R430). -/
def State.loseMine (s : State) (c : LossCause) : State :=
  match s.launchHere with
  | some l => s.loseStepOf l c
  | none => s

/-- The command processor's response to a trap (R403); while it is stopped the context stays stopped (R442). -/
def State.respond (s : State) (i : TrapInfo) : State :=
  if s.pkg.stopped then s.mapCtx fun c => { c with hold := .held }
  else match response i (s.ctx.info.step != 0) with
  | .kill => s.killMine
  | .service => s.mapCtx fun c => { c with hold := .held }
  | .hold => s.mapCtx fun c => { c with hold := .held }
  | .retry =>
    let s := s.mapCtx fun c => { c with unc := c.unc + 1 }
    if s.ctx.unc ≥ 3 then (s.loseMine .fault).killMine else s.resumeHere
  | .cancel =>
    let w := s.trapWords
    (s.mapCtx fun c => { c with hold := .held }).mapPkg fun k => { k with
      cancels := k.cancels ++ [⟨s.ctx.info.part.toNat, s.ctx.info.cancel, s.ctx.info.launchId, w⟩] }
  | .stepLost => (s.loseMine (if i.code = 0x42 then .linkLost else .fault)).killMine

/-- Taking a trap: the context rolls back unless the fault is kept, its record is written and sent, and the response applies. -/
def State.takeTrap (s : State) (h : Held) : State :=
  let s := if h.kept then s.mapCtx fun c => { c with trap := none } else s.rollback
  (s.recordTrap h).respond h.info

/-- The trap held once no slot can dispatch further (R402). -/
def execEvTrapRollback (s : State) : Out :=
  .next (match s.ctx.trap with | some h => s.takeTrap h | none => s)

/-- The earliest of the pending faults. -/
def firstFault : List Held → Option Held
  | [] => none
  | h :: l => match firstFault l with
    | none => some h
    | some g => if g.seq < h.seq then some g else some h

/-- A pending fault is reported at the next boundary, before any operation of the bundle after it; later ones are discarded
(R402, R455). Not while the context is held or saved. -/
def execEvAsyncFaultReport (s : State) : Out :=
  .next (match firstFault s.ctx.fault with
    | some h =>
      if s.ctx.hold == .held || s.ctx.parked || !s.ctx.issuable then s
      else (s.mapCtx fun c => { c with fault := [] }).hold { h with seq := s.ctx.seq, rank := 0 }
    | none => s)

/-! ### Commits and waits -/

/-- The boundary at which the context stands commits, or a commit goes on (R397). -/
def execEvCheckpointCommit (s : State) : Out :=
  .next (match s.ctx.commit, s.ctx.endCkpt with
    | some r, _ => s.commit r
    | none, some r =>
      if s.ctx.queue.isEmpty && s.ctx.trap.isNone && s.ctx.fault.isEmpty && s.ctx.hold == .no then
        (s.mapCtx fun c => { c with commit := some r }).commit r
      else s
    | none, none => s)

/-- The operation in a tagged wait may dispatch again (R365). -/
def execEvTaggedWaitSatisfied (s : State) : Out := .next (s.mapCtx fun c => { c with waiting := none })

/-- The operation in a tagged wait (R365): in its slot's queue, or an `ldf.take` in the commit that performs it. An access through a
window waits at another package: an `ldf` for full there, another load as `State.tagged` says. -/
def Context.tagged (c : Context) : Option OpId :=
  match c.waiting with
  | some id => if (c.queue.any fun o => o.id == id) || c.commit.isSome && c.takeWaits == some id then some id else Option.none
  | Option.none => Option.none

/-- A load of another package's scratchpad waits in a tagged wait while its target is saved (R413), which is there to be known: the event
says it (`ok`). Its wait for a bank is none (R28, R365). -/
def State.tagged (s : State) : Option OpId := s.ctx.tagged.or (if s.arg.ok then s.ctx.remote.map fun r => r.op.id else none)

/-- WAITLIMIT as it governs an operation: with the value from before a `syswr` of its own bundle (R133). -/
def Context.waitLimit (c : Context) (id : OpId) : Word :=
  (c.saved.findSome? fun e => if e.1 = id.seq then (match e.2 with | .sys 0x00A x => some x | _ => Option.none) else Option.none).getD
    c.regs.waitlimit

/-- WAIT_TIMEOUT at the operation in a tagged wait (R365); a WAITLIMIT of 0 never times out. The wait of a commit in an `ldf.take`
ends so too, with the commit (log 63). -/
def execEvWaitTimeout (s : State) : Out :=
  .next (match s.tagged with
    | some id =>
      if s.ctx.waitLimit id = 0 then s
      else s.hold ⟨id.seq, id.slot.toNat + 1, id.pc, false, false, slotCode id.slot, s.coreNum, { code := 0x34 }⟩
    | none => s)

/-! ### Pre-emption (R342, R413) -/

/-- The boundary qualifies: after a `yield` bundle or at an iteration boundary, or before a bundle with PP set, with no transfer
pending (R342). -/
def State.qualifies (s : State) : Bool :=
  !s.ctx.inTransfer && (s.ctx.ppPoint || s.ctx.backPoint || (match s.fetch with | .ok (_, b) => b.pp | .error _ => false))

/-- Nothing waits in the slots but a long op stopped between two elements (R413). -/
def Context.drained (c : Context) : Bool := c.queue.all fun p => (c.longOp.map fun l => l.op.id) == some p.id

/-- The context can take the boundary path here: drained, with nothing else at work. -/
def State.canPark (s : State) : Bool :=
  s.ctx.live && s.ctx.issuable && s.ctx.preempt && !s.ctx.parked && s.ctx.hold == .no && s.ctx.drained && s.ctx.trap.isNone
    && s.ctx.fault.isEmpty && s.ctx.commit.isNone && s.ctx.endCkpt.isNone && s.qualifies

/-- Pre-emption by boundary: the boundary commits, counted as forced, unless it has, and the context waits to be saved. -/
def execEvPreemptByBoundary (s : State) : Out :=
  .next (
    if !s.canPark then s
    else
      let r : CommitReq := ⟨true, false, false, false, true⟩
      let s := if s.ctx.atCkpt then s else (s.mapCtx fun c => { c with commit := some r }).commit r
      if s.ctx.commit.isNone && s.ctx.trap.isNone then s.mapCtx fun c => { c with parked := true } else s)

/-- Pre-emption by rollback: in a tagged wait, held, or with no qualifying boundary within PREEMPTWAIT. A held context is saved as
it is; a commit in progress ends first, unless it waits in an `ldf.take` (R275). -/
def execEvPreemptByRollback (s : State) : Out :=
  .next (
    if !(s.ctx.live && s.ctx.issuable && s.ctx.preempt && !s.ctx.parked && (s.ctx.commit.isNone || s.tagged.isSome)) then s
    else match s.ctx.hold with
      | .no => s.rollback.mapCtx fun c => { c with parked := true }
      | .held => s.mapCtx fun c => { c with parked := true }
      | .exited => s)

/-! ### Save and restore (R302, R353, R414 to R416) -/

/-- The contexts of a launch that have not completed on their core. -/
def Launch.left (l : Launch) : List (BitVec 7 × Bool) := l.place.filter fun x => !l.done.elem x.1

/-- Started copies and drains run to completion before the save (R302). -/
def State.canSave (s : State) : Bool :=
  s.ctx.parked && s.ctx.tags.all (fun t => t.2.st != .running) && (s.core.drains.all fun d => !(d.slot == s.slotNum && !d.held))

/-- The banks of the context in focus. -/
def State.banksHere (s : State) : List Nat := (natRange 1 63).filter fun b => s.core.owner.toList.getD b none == some s.slotNum

/-- The saved form of the context in focus (Table 16.8). Its records stop at a micro-tile boundary, migrated ones included. -/
def State.savedForm (s : State) (serial : Nat) : SavedCtx :=
  let banks := s.banksHere
  { launchId := s.ctx.info.launchId, part := s.ctx.info.part.toNat, core := s.coreNum, slot := s.slotNum, ctx := s.ctx, banks := banks,
    ram := s.core.ram.filter fun c => banks.elem (c.1 / 2 ^ 16), full := s.core.full.filter fun w => banks.elem (w / 2 ^ 14),
    engine := s.records.map fun r => { r with migrated := false }, serial := serial, stack := s.pkg.saveStack s.coreNum.toNat,
    base := none, units := 0,
    bad := s.core.poison.any fun a => banks.elem (a / 2 ^ 16) }

/-! The image of a save in the spare region: its units, then a page with their tags. The manual gives the parts of an image and not their
layout, nor an address: the model takes the place where there is room, a number of units, and free bytes (log 74). -/

/-- The units of an image: one for each part of Table 16.8 but the banks, which take one for each bank of accumulators and two for each bank
with its full and empty bits, and one for each tile that is not empty. -/
def SavedCtx.unitCount (v : SavedCtx) : Nat :=
  6 + v.ctx.accBanks + 2 * v.banks.length + (v.ctx.tiles.toList.filter fun (t : TileEntry) => t.st != .empty).length

/-- The bytes of a unit before it is sealed; the header begins with the serial. -/
def imageUnit (serial i : Nat) : List Byte :=
  (natRange (i * 2 ^ 16) (2 ^ 16)).map fun o => if o < 8 then BitVec.ofNat 8 (serial >>> (8 * o)) else Config.imageByte serial o

/-- A unit's tag (R414). -/
def State.unitTag (s : State) (serial i : Nat) (d : List Byte) : List Byte :=
  sliceBytes (Config.gcmTag s.pkg.saveKey (leBytes 8 serial ++ leBytes 4 i) d []) 0 16

/-- The key that seals a confidential context's images: that of slot KEYLO of its partition (R388). -/
def State.saveSealKey (s : State) : Option (List Byte) := s.part.bind fun (d : PartDesc) => s.keyFor d.keyLo .xts

/-- A unit as it stands at its address: a confidential context's under the version in the table (R388), and none without its key. -/
def State.unitBytes (s : State) (v : SavedCtx) (a i : Nat) : Option (List Byte) :=
  let d := imageUnit v.serial i
  if !v.ctx.conf then some d
  else s.saveSealKey.map fun k =>
    let g : SealPage := ⟨false, a / 2 ^ 16, 0, a / 2 ^ 16, true, 0, false⟩
    sealUnits (fun u => Config.xts k (sealTweak g (s.sealEntry g).2 u)) 256 0 d

/-- A page gets its next version under the key in KEYLO. -/
def State.nextVersion (s : State) (a : Nat) : State :=
  s.putEntry a ((s.part.map fun (d : PartDesc) => d.keyLo).getD 0, (tabGet (0, 0) s.pkg.sealVer (a / 2 ^ 16)).2 + 1)

/-- The image is written, each unit with its tag. -/
def State.putImage (s : State) (v : SavedCtx) : State :=
  match v.base with
  | none => s
  | some b => (natRange 0 v.units).foldl (fun s i =>
      let a := b + i * 2 ^ 16
      let s := if v.ctx.conf then s.nextVersion a else s
      match s.unitBytes v a i with
      | some d => (s.cpPut a d).cpPut (b + v.units * 2 ^ 16 + 16 * i) (s.unitTag v.serial i d)
      | none => s) s

/-- An image fails (R415): an uncorrectable error, a tag, its version's entry or its seal, or a serial that is not the live one. -/
def State.imageBad (s : State) (v : SavedCtx) : Bool :=
  v.bad || !((s.findLaunch v.part v.launchId).map fun (l : Launch) => l.serials.elem (v.core, v.serial)).getD false
    || (match v.base with
      | none => false
      | some b => (natRange 0 v.units).any fun i =>
        let a := b + i * 2 ^ 16
        let t := b + v.units * 2 ^ 16 + 16 * i
        let d := s.devBytes a (2 ^ 16)
        s.devSpoilt a (2 ^ 16) || s.devSpoilt t 16 || s.unitTag v.serial i d != s.devBytes t 16
          || (i == 0 && !v.ctx.conf && leNat (d.take 8) != v.serial % 2 ^ 64)
          || (v.ctx.conf && (s.entryLost a || s.unitBytes v a i != some d)))

/-- Writes that wait in the core's receive queue for the context in focus go to its arrival log. -/
def State.queuedHere (s : State) : List RemoteWrite :=
  s.core.recvq.filter fun w => w.pid == s.ctx.info.pid && w.into == some s.ctx.info.launchId

/-- A write is appended to the arrival log of a saved context. -/
def State.logSaved (s : State) (v : SavedCtx) (w : RemoteWrite) : State :=
  match s.pkg.logs.find? (sameLog ⟨v.launchId, v.part, v.core, v.stack, none, 0, []⟩) with
  | some g => s.appendLog g { w with posted := false }
  | none => s

/-- Save the context in focus and free its slot; its banks pass with no contents (R353, R414). Where in its save stack's share of the spare
region the image and the arrival log lie the manual does not say: the model takes the first place with room behind the version table
(DESIGN CHOICE, log 74). -/
def State.saveHere (s : State) : State :=
  let n := s.pkg.saveSerial + 1
  let v := s.savedForm n
  let v := { v with units := v.unitCount, base := s.spareFit v.part v.stack (v.unitCount + 1) }
  let q := s.queuedHere
  let s := (s.mapPkg fun k => { k with saveSerial := n, saved := k.saved ++ [v] }).putImage v
  let s := q.foldl (fun s w => s.logSaved v w) (s.openLog v.launchId v.part v.core)
  let s := s.mapCore fun c => { c with recvq := c.recvq.filter fun w => !q.elem w, drains := c.drains.filter fun d => d.slot != s.slotNum }
  (s.dropRecords s.ours).leaveCore false

/-- The contexts of a launch are saved in one act, once every one of them has taken its path and has no copy or drain at work
(R23, R413). -/
def execEvContextSave (s : State) : Out :=
  .next (
    match s.launchHere with
    | none => s
    | some l =>
      if !(l.st == .resident && l.left.all fun (c, sl) => (s.focus c sl).canSave) then s
      else
        let s := l.left.foldl (fun s (c, sl) => s.at_ c sl State.saveHere) s
        let live := (s.pkg.saved.filter fun v => v.part == l.part && v.launchId == l.id).map fun v => (v.core, v.serial)
        s.setLaunch { l with st := .saved, pinned := true, preempt := false, place := l.left, done := [], serials := live })

/-- The context of an image, in the slot it returns to: RESTORED is set, CTXID names the slot. -/
def restoredCtx (v : SavedCtx) (slot : Bool) : Context :=
  { v.ctx with parked := false, preempt := false, issuable := false, waiting := none, remote := none,
               status := setBits v.ctx.status 2 2 1, ctxId := setBits v.ctx.ctxId 7 7 slot.toNat }

/-- Read back the context of the launch placed in focus (R415): its banks with their full and empty words, its records. Any other
bank it uses is its own if no one has it (R353). -/
def State.restoreHere (s : State) (v : SavedCtx) : State :=
  let s := v.banks.foldl (fun s b => s.mapCore fun c => (c.clearBank b).setOwner b (some s.slotNum)) s
  ({ s with
    ctx := restoredCtx v s.slotNum
    core := { s.core with
      ram := v.ram.foldl (fun m c => m.put c.1 c.2) s.core.ram
      full := v.full.foldl NatSet.add s.core.full
      engine := s.core.engine ++ v.engine.map fun r => { r with slot := s.slotNum } }
    pkg := { s.pkg with saved := s.pkg.saved.erase v } } : State).admitBanks

/-- An image that fails raises SAVE_CORRUPT: the launch ends KILLED and its step is lost (R415). -/
def State.saveCorrupt (s : State) (v : SavedCtx) : State :=
  let s := { s with ctx := restoredCtx v s.slotNum }
  s.takeTrap ⟨s.ctx.seq, 0, s.ctx.regs.pc, false, true, 7, s.coreNum, { code := 0x41 }⟩

/-- The contexts of a launch are restored from their images in one act (R23); the one in focus is found corrupt where the event says so,
or another by its image. -/
def execEvContextRestore (s : State) : Out :=
  .next (
    match s.launchHere with
    | none => s
    | some l =>
      let vs := s.pkg.saved.filter fun v => v.part == l.part && v.launchId == l.id
      match vs.find? fun v => v.core == s.coreNum with
      | none => s
      | some here =>
        if l.st != .resident || s.ctx.issuable then s
        else
          let bad := if s.arg.ok then vs.find? s.imageBad else some here
          let sl := fun (c : BitVec 7) => ((l.place.find? fun x => x.1 == c).map fun x => x.2).getD false
          match bad with
          | some v => s.at_ v.core (sl v.core) fun s => s.saveCorrupt v
          | none => (vs.foldl (fun s v => s.at_ v.core (sl v.core) fun s => s.restoreHere v) s).setLaunch { l with serials := [] })

end Sys2Proof.Machine
end

