-- ==== Sys2Proof/Machine/Host.lean ====
section
/-! DEFINITION. Host.lean: the host driver's commands, the event rings, invalidations, and errors
(R359, R376, R395, R403, R412, R413, R418, R446 to R448). -/
namespace Sys2Proof.Machine

/-! ### Command rings (R447) -/

def State.cmdBase (s : State) (p : Nat) : Nat := (s.pkg.reg (0x2000 + 32 * p)).toNat / 4096 * 4096
def State.cmdSlot (s : State) (p : Nat) : Nat := s.cmdBase p + 64 + 32 * (s.devLe (s.cmdBase p) 4 % 256)

/-- A command waits in a partition's ring: the doorbell's count is ahead of CMDCONS. -/
def State.cmdWaits (s : State) (p : Nat) : Bool :=
  !s.pkg.stopped && (s.partAt p).isSome && s.devOk (s.cmdBase p) 8256
    && wbits (s.pkg.reg (0x2008 + 32 * p)) 31 0 != s.devLe (s.cmdBase p) 4

/-- The 32 bytes of the command that is next. -/
def State.cmdBytes (s : State) (p : Nat) : List Byte := s.devBytes (s.cmdSlot p) 32

/-- The reply goes over the command, then CMDCONS moves past it. -/
def State.cmdReply (s : State) (p status : Nat) : State :=
  let s := s.cpPut (s.cmdSlot p) (leBytes 4 status)
  s.cpPut (s.cmdBase p) (leBytes 4 (s.devLe (s.cmdBase p) 4 + 1))

def cmdOk : Nat := 1
def cmdNotFound : Nat := 2
def cmdBadState : Nat := 3
def cmdBadArg : Nat := 4

/-- Execute the next command of the ring if it has the operation `op`: `f` answers the state after it and its status, or none
while the command is not finished. -/
def State.command (s : State) (op : Nat) (f : State → Nat → List Byte → State × Option Nat) : Out :=
  .next (
    let p := s.arg.p.toNat
    if !s.cmdWaits p then s
    else
      let c := s.cmdBytes p
      if leField c 0 4 ≠ op then s
      else match f s p c with
        | (s, some st) => s.cmdReply p st
        | (s, none) => s)

/-- The unfinished launch a command names. -/
def State.cmdLaunch (s : State) (p : Nat) (c : List Byte) : Option Launch :=
  s.pkg.launches.find? fun l => l.part == p && l.id.toNat == leField c 4 4 && l.st != .flushing

/-- The context of a launch on the core a command names: its slot. -/
def cmdContext (l : Launch) (c : List Byte) : Option (BitVec 7 × Bool) := l.place.find? fun x => x.1.toNat == leField c 8 1

def State.isOf (s : State) (l : Launch) : Bool := s.ctx.live && s.ctx.info.launchId == l.id && s.ctx.info.part.toNat == l.part

/-! ### Resuming, killing, pre-empting, stepping (Table 20.4) -/

/-- A pc that passes R329: below the code length, with its start-mask bit set. -/
def State.pcOk (s : State) (pc : Nat) : Bool := decide (pc < s.ctx.image.codeLen) && s.startBit pc

/-- RESUME (R403): a context held after a trap resumes, at a new pc if one is given. -/
def State.resumeCmd (s : State) (p : Nat) (c : List Byte) : State × Option Nat :=
  match s.cmdLaunch p c with
  | none => (s, some cmdNotFound)
  | some l =>
    match cmdContext l c with
    | none => (s, some cmdNotFound)
    | some (core, sl) =>
      let t := s.focus core sl
      let back := fun (t : State) => t.focus s.coreNum s.slotNum
      let pc := leField c 16 4
      if !t.isOf l || l.st != .resident || t.ctx.parked || t.ctx.hold != .held then (s, some cmdBadState)
      else if pc = 0xFFFFFFFF then (back t.resumeHere, some cmdOk)
      else if t.pcOk pc then (back (t.resumeAt (BitVec.ofNat 32 pc)).resumeHere, some cmdOk)
      else (s, some cmdBadArg)

def execEvResume (s : State) : Out := s.command 1 State.resumeCmd

/-- The trap record of a held context of a launch, resident or saved; zero when none is held. -/
def State.heldTrap (s : State) (l : Launch) : Word × Word :=
  let here := l.place.findSome? fun x =>
    let t := s.focus x.1 x.2
    if t.isOf l && t.ctx.hold == .held then some t.trapWords else none
  let saved := s.pkg.saved.findSome? fun v =>
    if v.part == l.part && v.launchId == l.id && v.ctx.hold == .held then some (v.ctx.trapRec[0], v.ctx.trapRec[1]) else none
  (here.or saved).getD (0, 0)

/-- A launch that a command names has completed, and its completion record is still to be written. -/
def State.finishing (s : State) (p : Nat) (c : List Byte) : Bool :=
  (s.pkg.launches.any fun l => l.part == p && l.id.toNat == leField c 4 4 && l.st == .flushing && l.reports)
    || s.pkg.cmpl.any fun h => h.part == p && leField h.record 0 4 == leField c 4 4

/-- KILL: the launch ends KILLED, wherever it stands. One that has completed is answered NOTFOUND after its completion record. -/
def State.killCmd (s : State) (p : Nat) (c : List Byte) : State × Option Nat :=
  match s.cmdLaunch p c with
  | none => (s, if s.finishing p c then none else some cmdNotFound)
  | some l => (s.killLaunch l (s.heldTrap l), some cmdOk)

def execEvKill (s : State) : Out := s.command 2 State.killCmd

/-- PREEMPT (R413). -/
def State.preemptCmd (s : State) (p : Nat) (c : List Byte) : State × Option Nat :=
  match s.cmdLaunch p c with
  | none => (s, some cmdNotFound)
  | some l => if l.st != .resident then (s, some cmdBadState) else (s.askPreempt l, some cmdOk)

def execEvPreempt (s : State) : Out := s.command 3 State.preemptCmd

/-- STEP_ON and STEP_OFF (R412): BADSTATE with DEBUG clear or CONF set. -/
def State.stepCmd (on : Bool) (s : State) (p : Nat) (c : List Byte) : State × Option Nat :=
  match s.cmdLaunch p c with
  | none => (s, some cmdNotFound)
  | some l =>
    match cmdContext l c with
    | none => (s, some cmdNotFound)
    | some (core, sl) =>
      let t := s.focus core sl
      if !t.isOf l || l.st != .resident || !t.ctx.debug || t.ctx.conf then (s, some cmdBadState)
      else ((t.mapCtx fun c => { c with status := setBits c.status 4 4 on.toNat }).focus s.coreNum s.slotNum, some cmdOk)

def execEvStepOn (s : State) : Out := s.command 4 (State.stepCmd true)
def execEvStepOff (s : State) : Out := s.command 5 (State.stepCmd false)

/-- CANCEL (R364). -/
def State.cancelCmd (s : State) (p : Nat) (c : List Byte) : State × Option Nat :=
  (s.cancelToken p (BitVec.ofNat 32 (leField c 16 4)) none, some cmdOk)

def execEvCancel (s : State) : Out := s.command 6 State.cancelCmd

/-! ### Invalidating translations (R376) -/

/-- Every copy of HBM sectors in L1 goes: dropping more than the scope names is always allowed (R231). -/
def CoreSt.dropTlb (hit : TlbEntry → Bool) (c : CoreSt) : CoreSt :=
  { c with tlb := c.tlb.filter fun e => !hit e, l1 := [] }

/-- A withheld entry written through a translation that is dropped, or through one the core's cache no longer holds: of the page of its
first byte or of its last. -/
def State.usesDropped (s : State) (hit : TlbEntry → Bool) (scope : Nat → Bool) (e : Entry) : Bool :=
  (match e.place? with
    | some (.hbm _) => true
    | some (.host _) => true
    | _ => false) &&
  [e.va.toNat / 2 ^ 16, (e.va.toNat + (e.cells.length - 1)) / 2 ^ 16].any fun page =>
    match s.core.tlb.find? fun x => x.pid == s.ctx.info.pid && x.asid == s.ctx.info.asid && x.vpage == page with
    | some x => hit x
    | none => scope page

/-- Rows of a `tst` that the context in focus has translated to host memory, `held` until its checkpoint commits or on their way. -/
def State.hostRows (s : State) (held : Bool) : Bool :=
  s.core.drains.any fun d => d.slot == s.slotNum && (!held || d.held) && d.rows.any fun r => match r.head? with
    | some (.host _, _) => true
    | _ => false

/-- A context that holds withheld stores under a dropped entry is rolled back in a tagged wait, else it is to commit at its next
boundary. -/
def State.driveOut (s : State) (hit : TlbEntry → Bool) (scope : Nat → Bool) : State :=
  if s.ctx.live && (s.ctx.buffer.any (s.usesDropped hit scope) || s.hostRows true) then
    if s.ctx.waiting.isSome then s.rollback else s.mapCtx fun c => { c with intact := false }
  else s

/-- Drop the translations of a scope in every core. -/
def State.invalidate (s : State) (pid : BitVec 12) (asid : Option (BitVec 16)) (hit : TlbEntry → Bool) (scope : Nat → Bool) : State :=
  let s := s.contexts.foldl (fun s (c, sl, x) =>
    if x.info.pid == pid && (match asid with | some a => x.info.asid == a | none => true) then
      s.at_ c sl fun s => s.driveOut hit scope else s) s
  { s with core := s.core.dropTlb hit, cores := s.cores.map fun b => (b.1, { b.2 with core := b.2.core.dropTlb hit }) }

/-- A context that still has stores to drive out and has come to a tagged wait is rolled back. -/
def State.driveWaiting (s : State) (pid : BitVec 12) : State :=
  s.contexts.foldl (fun s (c, sl, x) =>
    if x.info.pid == pid && !x.intact && x.waiting.isSome then s.at_ c sl State.rollback else s) s

/-- No context of a partition has withheld stores to drive out, and none that it has released through a translation is still to perform. -/
def State.drivenOut (s : State) (pid : BitVec 12) : Bool :=
  (s.contexts.all fun x => x.2.2.info.pid != pid || (x.2.2.intact && !(s.focus x.1 x.2.1).hostRows false))
    && s.pkg.wire.all fun w => w.pid != pid || (match w.home with
      | some (.hbm _) => false
      | some (.host _) => false
      | _ => true)

/-- An invalidation command: it drops its entries once, and is answered OK once it has completed. -/
def State.invalCmd (scopeOf : List Byte → Option (BitVec 16) × (TlbEntry → Bool) × (Nat → Bool))
    (s : State) (p : Nat) (c : List Byte) : State × Option Nat :=
  let pid := ((s.partAt p).map fun (d : PartDesc) => d.pid).getD 0
  let (asid, hit, scope) := scopeOf c
  let bit : BitVec 8 := 1 <<< p
  let s := if s.pkg.inval.getLsbD p then s.driveWaiting pid
    else (s.invalidate pid asid (fun e => e.pid == pid && hit e) scope).mapPkg fun k => { k with inval := k.inval ||| bit }
  if s.drivenOut pid then (s.mapPkg fun k => { k with inval := k.inval &&& ~~~bit }, some cmdOk) else (s, none)

/-- The arguments of the invalidations (log 20): ASID at byte 16, page count at 20, base at 24. -/
def invalAsid (c : List Byte) : BitVec 16 := BitVec.ofNat 16 (leField c 16 2)
def invalRange (c : List Byte) (page : Nat) : Bool :=
  decide (leField c 24 8 / 2 ^ 16 ≤ page) && decide (page < leField c 24 8 / 2 ^ 16 + leField c 20 4)

def execEvInvalVa (s : State) : Out :=
  s.command 7 (State.invalCmd fun c => (some (invalAsid c), fun e => e.asid == invalAsid c && invalRange c e.vpage, invalRange c))

def execEvInvalAsid (s : State) : Out :=
  s.command 8 (State.invalCmd fun c => (some (invalAsid c), fun e => e.asid == invalAsid c, fun _ => true))

def execEvInvalS2 (s : State) : Out :=
  s.command 9 (State.invalCmd fun c => (none, fun e => invalRange c (e.gpa / 2 ^ 16), fun _ => true))

/-- An ATS invalidation of a host page of a partition's PASID (R395). As it arrives, its translations go, withheld stores under them are
driven out, and a later walk asks the host afresh. It completes (`ok`) once every access that used the old translation has performed
or been discarded. -/
def execEvAtsInvalidation (s : State) : Out :=
  .next (
    let page := 2 ^ 35 + s.arg.base.toNat % 2 ^ 35
    let pid := s.arg.pid
    if s.arg.ok then
      let s := s.driveWaiting pid
      if s.drivenOut pid then s.mapPkg fun k => { k with atsWait := k.atsWait.filter (· != (pid, page)) } else s
    else
      let hit := fun (e : TlbEntry) => e.pid == pid && e.dpage == page
      (s.invalidate pid none hit fun _ => true).mapPkg fun k => { k with
        atsOk := NatSet.del k.atsOk (pid.toNat * 2 ^ 52 + page)
        atsWait := (pid, page) :: k.atsWait.filter (· != (pid, page)) })

/-! ### Mailboxes and schedules -/

/-- MBOX_OPEN and MBOX_CLOSE: a mailbox of the partition; in TDI ERROR none opens (R394). -/
def State.mboxCmd (open_ : Bool) (s : State) (p : Nat) (c : List Byte) : State × Option Nat :=
  let m := leField c 16 1
  let mine := match s.partAt p with | some d => d.mboxMask.getLsbD m | none => false
  if !mine then (s, some cmdBadArg)
  else if open_ && s.pkg.tdi.toList.getD p .unlocked == .error then (s, some cmdBadState)
  else (s.mapPkg fun k => { k with mboxOpen := setBits k.mboxOpen m m open_.toNat }, some cmdOk)

def execEvMboxOpen (s : State) : Out := s.command 10 (State.mboxCmd true)
def execEvMboxClose (s : State) : Out := s.command 11 (State.mboxCmd false)

/-- The capability that a SCHEDULE command names, read through the partition's stage 2; none when R359's checks of the page
fail. -/
def State.schedCap (s : State) (p gpa : Nat) : Option (BitVec 128) :=
  match s.partAt p with
  | none => none
  | some d =>
    if gpa % 16 ≠ 0 || gpa ≥ 2 ^ 48 then none
    else match s.stage2 d.s2Root.toNat gpa 4 0 d.s2Root.toNat with
      | .error _ => none
      | .ok (y, sh) =>
        let a := (teOA y + gpa % 2 ^ sh) % 2 ^ 52
        if !teR y || !teCapPg y || (!a.testBit 51 && (s.pkg.noMemory a || !partInShare d a)) then none
        else some (BitVec.ofNat 128 (s.devLe a 16))

/-- The capability may serve as a schedule's: SCHED, R, no reserved flag, lease class 0 or 15. -/
def schedCapOk (c : BitVec 128) : Bool :=
  c.getLsbD 0 && capHas c .r && wbits c 7 2 == 0 && (capLease c == 0 || capLease c == 15)

/-- It names a pool object (R359). -/
def State.schedObject (s : State) (c : BitVec 128) : Bool := (s.poolObj (capObject c)).isSome

/-- SCHEDULE: the first schedule of a partition, or its replacement once the current step has finished; a null capability stops
the walk then. -/
def State.scheduleCmd (s : State) (p : Nat) (c : List Byte) : State × Option Nat :=
  match s.schedCap p (leField c 16 8) with
  | none => (s, some cmdBadArg)
  | some cap =>
    if Sys2Proof.Machine.capPages cap != 0 && !(schedCapOk cap && s.schedObject cap) then (s, some cmdBadArg)
    else
      let off := BitVec.ofNat 64 (leField c 24 8)
      let new : Option Schedule := match s.schedule p with
        | some x => some { x with replace := some (cap, off) }
        | none => if Sys2Proof.Machine.capPages cap = 0 then none else some ⟨cap, some off, none, none, [], [], none⟩
      (s.setSchedule p new, some cmdOk)

def execEvSchedule (s : State) : Out := s.command 12 State.scheduleCmd

/-! ### Event rings (R448) -/

def State.evtReg (s : State) (p : Nat) : Word := s.pkg.reg (0x2010 + 32 * p)
def State.evtCons (s : State) (p : Nat) : Word := s.pkg.reg (0x2018 + 32 * p)
def State.evtBase (s : State) (p : Nat) : Nat := (s.evtReg p).toNat / 4096 * 4096
def State.evtLog (s : State) (p : Nat) : Nat := wbits (s.evtReg p) 4 0
def State.evtProd (s : State) (p : Nat) : BitVec 32 := s.pkg.evtProd.toList.getD p 0

/-- The host driver of a partition has set up its ring. -/
def State.evtSet (s : State) (p : Nat) : Bool :=
  decide (4 ≤ s.evtLog p) && decide (s.evtLog p ≤ 16) && s.devOk (s.evtBase p) (64 + 64 * 2 ^ s.evtLog p)

def State.evtFull (s : State) (p : Nat) : Bool :=
  !s.evtSet p || decide ((s.evtProd p - (s.evtCons p).setWidth 32).toNat ≥ 2 ^ s.evtLog p)

/-- A record of a link, stack or telemetry source: dropped when the ring is full. -/
def droppable (e : Nat × List Byte) : Bool := decide (2 ≤ leField e.2 0 1) && leField e.2 0 1 != 4

/-- Write a record at EVTPROD and advance it. -/
def State.writeEvent (s : State) (p : Nat) (e : List Byte) : State :=
  let n := s.evtProd p
  let s := s.cpPut (s.evtBase p + 64 + 64 * (n.toNat % 2 ^ s.evtLog p)) e
  let s := s.cpPut (s.evtBase p) (leBytes 4 (n + 1).toNat)
  s.mapPkg fun k => { k with evtProd := Vector.ofFn fun i => if i.val = p then n + 1 else k.evtProd[i] }

/-- The source of a record: its kind and number. -/
def eventSource (e : Nat × List Byte) : List Byte := sliceBytes e.2 0 4

/-- The records that may be written next: of each source the first (R19). -/
def firstOfEach : List (List Byte) → List (Nat × List Byte) → List (Nat × List Byte)
  | _, [] => []
  | seen, e :: l =>
    if seen.elem (eventSource e) then firstOfEach seen l else e :: firstOfEach (eventSource e :: seen) l

/-- A waiting record of a partition goes into its ring, in each source's order; among sources a free value chooses (R19, log 2). When the ring
is full, a link, stack or telemetry record is dropped and counted; the others wait. A stopped command processor sends none of its
own (R442). Completion records that waited for the record follow it. -/
def execEvEventRecordWrite (s : State) : Out :=
  .next (
    let p := s.arg.p.toNat
    let mine := fun (e : Nat × List Byte) => e.1 == p && !(s.pkg.stopped && leField e.2 0 1 == 4) && !s.pkg.afterCmpl e
    let drop := fun (s : State) e => s.mapPkg fun k => { k with events := k.events.erase e }
    if s.evtFull p then
      match s.pkg.events.find? fun e => mine e && droppable e with
      | some e =>
        let c := s.evtCons p
        (drop s e).mapPkg fun k => k.setReg (0x2018 + 32 * p) (setBits c 63 32 (wbits c 63 32 + 1))
      | none => s
    else
      let next := firstOfEach [] (s.pkg.events.filter mine)
      match next[Config.freeNat s.clock % max 1 next.length]? with
      | some e => ((drop s e).writeEvent p e.2).flushCmpl
      | none => s)

/-- The host writes EVTCONS [31:0]. -/
def State.consume (s : State) (p : Nat) (v : Word) : State :=
  let c := s.evtCons p
  s.mapPkg fun k => k.setReg (0x2018 + 32 * p) (setBits c 31 0 (wbits v 31 0))

def execEvEventRingConsume (s : State) : Out := .next (s.consume s.arg.p.toNat s.arg.v)

/-! ### Errors (R418, Table 16.9) -/

/-- A record of an HBM stack's source (log 17): 1 corrected or 2 uncorrectable, the source's number, the address. -/
def State.stackEvent (s : State) (stack kind addr : Nat) : State :=
  let q := tabGet 0 s.pkg.stackSeq stack
  (s.emitAll 3 stack ([BitVec.ofNat 8 kind, 0, 0, 0] ++ leBytes 4 0 ++ leBytes 4 q.toNat ++ leBytes 4 0 ++ leBytes 8 addr)).mapPkg
    fun k => { k with stackSeq := tabSet k.stackSeq stack (q + 1) }

/-- Data that no one reads are lost for a context that owns them, which a free value picks, or for whoever reads them (R418, log 69). -/
def State.lostFor (s : State) (owners : List (BitVec 7 × Bool)) (poison : State → State) : State :=
  match (if Config.freeBool s.clock then owners[Config.freeNat s.clock % max 1 owners.length]? else none) with
  | some (c, sl) => s.at_ c sl fun s => s.uncorrectable 2
  | none => poison s

/-- The contexts of the partition whose share an address of HBM lies in. -/
def State.dataOwners (s : State) (a : Nat) : List (BitVec 7 × Bool) :=
  (s.contexts.filter fun x => match s.partAt x.2.2.info.part.toNat with | some d => partInShare d a | none => false).map fun x => (x.1, x.2.1)

/-- A sector of HBM is poisoned (R418). -/
def State.poisonAt (s : State) (a : Nat) : State :=
  s.mapPkg fun k => { k with poison := (natRange (a / 64 * 64) 64).foldl NatSet.add k.poison }

/-- An error in a word of the scratchpad of the core in focus (R418): it is poisoned, and the step is lost for whoever reads it; or, when no
one reads it, for the context that owns its bank. Which of the two, a free value says (log 69). -/
def State.spoilWord (s : State) (a : Nat) : State :=
  match s.core.owner.toList.getD (a / 2 ^ 16) none with
  | some sl =>
    if Config.freeBool s.clock then s.at_ s.coreNum sl fun s => s.uncorrectable 2
    else s.mapCore fun c => { c with poison := (natRange (a / 8 * 8) 8).foldl NatSet.add c.poison }
  | none => s.mapCore fun c => { c with poison := (natRange (a / 8 * 8) 8).foldl NatSet.add c.poison }

/-- A page of the pool cache that a free value picks is dropped, and fetched again under its lease (Table 16.9): what the context has stored to it
is at the pool or in a put on its way. -/
def State.refetch (s : State) : State :=
  match s.pkg.leases[Config.freeNat s.clock % (s.pkg.leases.length + 1)]? with
  | some l => if l.here then s.mapPkg fun k => { k with leases := mapIf (· == l) (fun x => { x with here := false, get := true }) k.leases } else s
  | none => s

/-- An uncorrectable error in HBM: in the pool cache, in local data, in what the spare region holds. -/
def State.errorHbm (s : State) (a : Nat) : State :=
  (match dpaRegion a with
    | 0 => s.refetch
    | 3 => s.poisonAt a
    | _ => s.lostFor (s.dataOwners a) fun s => s.poisonAt a).stackEvent (s.stackOf a) 2 a

/-- Where an error in a version table's entry is reported. -/
def State.errorEntry (s : State) (page : Nat) : State :=
  let s := s.mapPkg fun k => { k with sealBad := NatSet.add k.sealBad page }
  match s.tableAt (page * 2 ^ 16) with
  | some t => (s.poisonAt t).stackEvent (s.stackOf t) 2 t
  | none => s

/-- An error in the image of a launch's save, reported at its stack. -/
def State.errorImage (s : State) (v : SavedCtx) : State :=
  (match v.base with
    | some b => s.poisonAt b
    | none => s.mapPkg fun k => { k with saved := mapIf (· == v) (fun v => { v with bad := true }) k.saved }).stackEvent v.stack 2 (v.base.getD 0)

/-- An uncorrectable error, by where it lies. -/
def State.errorAt (s : State) : ErrLoc → State
  | .cleanLine a =>
    match s.pkg.near.find? fun n => n.sector == a / 64 && n.st == .modified with
    | some n => s.lostFor ((s.contexts.filter fun x => x.1 == n.core).map fun x => (x.1, x.2.1)) fun s => s.poisonAt a
    | none =>
      let f := fun (c : CoreSt) => { c with l1 := NatSet.del c.l1 (a / 64) }
      ({ s with core := f s.core, cores := s.cores.map fun b => (b.1, { b.2 with core := f b.2.core }) } : State).mapPkg
        fun k => { k with near := k.near.filter fun n => n.sector != a / 64 }
  | .smallReg => s.uncorrectable 1
  | .buffer => s.uncorrectable 1
  | .vreg r => s.uncorrectable (if s.ctx.shadow.getLsbD r.toNat then 1 else 2)
  | .dupOrShadow => s.uncorrectable 2
  | .dictionary => s.uncorrectable 1
  | .microStore =>
    if Config.freeBool s.clock then s.uncorrectable 2
    else s.mapCtx fun c => { c with micro := { c.micro with bad := c.micro.bad.add (Config.freeNat s.clock % max 1 c.micro.region) } }
  | .accumulator n => s.spoilWord (accAddr n.toNat 0 0 + 4 * (Config.freeNat s.clock % 8192))
  | .scratch a => s.spoilWord a
  | .hbm a => s.errorHbm a
  | .sealEntry page => s.errorEntry page
  | .saveImage id => (match s.pkg.saved.find? fun v => v.launchId == id with | some v => s.errorImage v | none => s)
  | .commandProcessor => s.mapPkg fun k => { k with stopped := true }

def execEvUncorrectableError (s : State) : Out := .next (s.errorAt s.arg.loc)

/-- The patrol scrub meets a correctable error and corrects it: nothing changes but the count, and the stack reports it; one that it
cannot correct it reports as such. -/
def execEvPatrolScrub (s : State) : Out :=
  .next (
    if s.arg.ok then (s.stackEvent s.arg.stack.toNat 1 s.arg.addr.toNat).mapPkg fun k => { k with corrected := k.corrected + 1 }
    else s.errorHbm s.arg.addr.toNat)

end Sys2Proof.Machine
end

