-- ==== Sys2Proof/Machine/Housekeeping.lean ====
section
/-! DEFINITION. Housekeeping.lean: boot, the housekeeping registers, clocks, temperature, telemetry and power gating
(R10, R15, R17, R235, R368, R443 to R445, R449 to R451). -/
namespace Sys2Proof.Machine

/-! ### Package reset and boot (R443, R444) -/

/-- A package reset: what lies outside the package stays, and so do the time of the pool's clock and the clusters that are fused off
(R14). -/
def State.resetPackage (s : State) : State :=
  { State.reset with host := s.host, pool := s.pool, inbox := s.inbox, clock := s.clock, arg := s.arg,
                     pkg := { Package.reset with now := s.pkg.now, shape := setBits Package.fullShape 15 0 (wbits s.pkg.shape 15 0) } }

/-- BOOTSTAT: STAGE and ERROR; a failed stage stops the package. -/
def State.bootStat (s : State) (stage error : Nat) : State :=
  s.mapPkg fun k => { k.setReg 0 (BitVec.ofNat 64 (error * 256 + stage)) with stopped := decide (error ≠ 0) }

/-- Stage 1: both signatures of the firmware header, and its SVN. -/
def fwSigned (b : BootInputs) : Bool :=
  let d := Config.sha384 b.fwHeader
  Config.ecdsaVerify Config.ecRoot d b.ecSig && Config.lmsVerify Config.lmsRoot d b.lmsSig

/-- HBMREGIONS (R444). -/
def regionsOk (x : Word) : Bool :=
  let p := wbits x 7 0
  let h := wbits x 15 8
  let spare := wbits x 23 16
  decide (8 ≤ p) && decide (p ≤ 61) && decide (h ≤ 8) && decide (1 ≤ spare) && decide (p + h + spare + 2 ≤ 64) && wbits x 63 24 == 0

/-- The tunables lie in the ranges of Table 20.3. -/
def tunablesOk (b : BootInputs) : Bool :=
  decide (b.proofDepth.toNat ≤ 8) && decide (1024 ≤ b.preemptWait.toNat) && decide (b.preemptWait.toNat ≤ 1048576)
    && decide (256 ≤ b.arrLogSize.toNat) && decide (b.arrLogSize.toNat ≤ 65536)

/-- Stage 4's registers. -/
def State.bootRegs (s : State) (b : BootInputs) : State :=
  s.mapPkg fun k =>
    let k := (((k.setReg 0x20 b.hbmRegions).setReg 0x28 b.homeHash).setReg 0x30 b.proofDepth).setReg 0x38 b.preemptWait
    let k := k.setReg 0x40 b.arrLogSize
    (b.thresh.take 32).zipIdx.foldl (fun k (t, i) => k.setReg (0x100 + 8 * i) (t.setWidth 64)) k

/-- Two shares of one region overlap; an empty one overlaps none. -/
def sharesMeet (a b : Nat × Nat) : Bool := decide (max a.1 b.1 < min (a.1 + a.2) (b.1 + b.2))

/-- Two descriptors share a cluster, a region share, a key slot or a mailbox (R368). -/
def descMeet (a b : PartDesc) : Bool :=
  a.clMask &&& b.clMask != 0 || a.mboxMask &&& b.mboxMask != 0
    || decide (max a.keyLo.toNat b.keyLo.toNat ≤ min a.keyHi.toNat b.keyHi.toNat)
    || (natRange 0 4).any fun r => sharesMeet (partShare a r) (partShare b r)

def descsOk : List PartDesc → Bool
  | [] => true
  | d :: l => !(l.any (descMeet d)) && descsOk l

/-- Firmware writes a partition's signer key table of 8 entries (R382). -/
def State.putSigners (s : State) (d : PartDesc) (table : List Byte) : State := s.fwPut d.signTab.toNat (sliceBytes table 0 2048)

/-- Stage 5: the descriptors and signer key tables are written, checked and locked. -/
def State.bootParts (s : State) (b : BootInputs) : State :=
  let s := (b.parts.zip b.signers).foldl (fun s x => s.putSigners x.1 x.2) s
  s.mapPkg fun k => { k with parts := Vector.ofFn fun i => b.parts[i.val]?.map fun (d : PartDesc) => { d with locked := true } }

/-- Stage 6: the package number, and the links: one with fewer than 8 lanes in a direction is absent (R15). -/
def State.bootLinks (s : State) (b : BootInputs) (n : BitVec 19) : State :=
  s.mapPkg fun k =>
    let mask := ((natRange 0 32).filter fun i => decide (8 ≤ b.lanes.getD i 0)).foldl (fun m i => m + 2 ^ i) 0
    { k with num := n, shape := setBits k.shape 63 32 (mask % 2 ^ 16 + mask / 2 ^ 16 * 2 ^ 16) }

/-- Stage 7: the mailboxes that a partition's MBOXMASK binds are opened. -/
def State.bootMboxes (s : State) (b : BootInputs) : State :=
  s.mapPkg fun k => { k with mboxOpen := b.parts.foldl (fun m (d : PartDesc) => m ||| d.mboxMask) 0 }

/-- The tenancy keys of the partitions (R379): the manual does not say who supplies them; here they come with the boot (log 6). -/
def State.bootTenancy (s : State) (b : BootInputs) : State :=
  s.mapPkg fun k => { k with tenancy := Vector.ofFn fun i => b.tenancy.getD i.val 0 }

/-- Stages 1 to 8, up to the first that fails (Table 20.1). -/
def State.boot (s : State) (b : BootInputs) : State :=
  if !fwSigned b then s.bootStat 1 1
  else if b.fwSvn.toNat < Config.fuseSvn.toNat then s.bootStat 1 2
  else
    let s := s.mapPkg fun k => { k with saveKey := (natRange 0 4).flatMap fun i => leBytes 8 (Config.entropy (s.clock + i)).toNat, spdm := { k.spdm with fw := Config.sha384 b.fwHeader } }
    if b.stackCount = 0 || b.stackCount.toNat > 8 then s.bootStat 3 3
    else
      let s := (s.mapPkg fun k => { k with shape := setBits k.shape 19 16 b.stackCount.toNat }).bootRegs b
      if !(regionsOk b.hbmRegions && tunablesOk b) then s.bootStat 4 4
      else
        let s := (s.bootParts b).bootTenancy b
        if b.parts.isEmpty || decide (8 < b.parts.length) || !descsOk b.parts then s.bootStat 5 5
        else
          match b.pkgNum with
          | none => s.bootStat 6 6
          | some n => ((s.bootLinks b n).bootMboxes b).bootStat 8 0

/-- A package reset, and the boot with what firmware and the fabric manager supply; without that it stays before stage 1. -/
def State.resetBoot (s : State) : State :=
  match s.arg.boot with
  | some b => s.resetPackage.boot b
  | none => s.resetPackage

def execEvPackageReset (s : State) : Out := .next s.resetBoot

/-! ### Register writes (R445, R446) -/

def State.stage (s : State) : Nat := wbits (s.pkg.reg 0) 7 0

/-- A write that is ignored is counted in WRIGNORED. -/
def State.ignored (s : State) : State :=
  let x := s.pkg.reg 0x10
  s.mapPkg fun k => k.setReg 0x10 (setBits x 63 48 (wbits x 63 48 + 1))

def State.put (s : State) (off : Nat) (v : Word) : State := s.mapPkg fun k => k.setReg off v

/-- F registers up to PKGNUM, in bytes of offset. -/
def fwReg (off : Nat) : Bool := off % 8 == 0 && decide (0x20 ≤ off) && decide (off ≤ 0x48)
def linkReg (off : Nat) : Bool := off % 8 == 0 && decide (0x100 ≤ off) && decide (off < 0x200)

/-- The mailbox whose doorbell or base an offset names belongs to a partition. -/
def State.ownsMbox (s : State) (p off : Nat) : Bool :=
  match s.partAt p with | some d => d.mboxMask.getLsbD ((off - 0x1000) / 16) | none => false

/-- An F register: only by firmware and before stage 5 has ended; RESET of a LINKCTL acts at any time (R438). -/
def State.writeFw (s : State) (off : Nat) (v : Word) (firmware : Bool) : State :=
  let s := if linkReg off && firmware && v.getLsbD 16 then s.resetLink ((off - 0x100) / 8) else s
  if !firmware || decide (5 < s.stage) then s.ignored
  else if off = 0x48 then s.mapPkg fun k => { k with num := BitVec.ofNat 19 (wbits v 18 0) }
  else if linkReg off then s.put off (BitVec.ofNat 64 (wbits v 15 0))
  else s.put off v

/-- The clock step, in POWERSTAT [15:8]: the lowest of CLKCAP, the power limit and the thermal limit (R449). -/
def State.setStep (s : State) : State :=
  let x := s.pkg.reg 0x10
  s.put 0x10 (setBits x 15 8 (min (wbits (s.pkg.reg 0x18) 3 0) (min s.pkg.limits.1.toNat s.pkg.limits.2.toNat)))

/-- CLKCAP: any partition's host driver (R445). -/
def State.writeClkCap (s : State) (v : Word) : State := (s.put 0x18 (BitVec.ofNat 64 (min 9 (wbits v 3 0)))).setStep

/-- The bits of a host register that a write reaches (R4, R446 to R448): a count, the base of a command ring, the base and size of an event
ring. -/
def hostBits (off : Nat) (v : Word) : Word :=
  if off < 0x1100 then (if off % 16 = 0 then setBits v 63 32 0 else v)
  else match off % 32 with
  | 0 => setBits v 11 0 0
  | 8 => setBits v 63 32 0
  | 16 => setBits v 11 5 0
  | _ => v

/-- A write to a housekeeping register (Table 20.3), by firmware or by the host driver of a partition. -/
def State.writeReg (s : State) (p off : Nat) (v : Word) (firmware : Bool) : State :=
  if off = 0 || off = 8 || off = 0x10 then s.ignored
  else if off = 0x18 then s.writeClkCap v
  else if fwReg off || linkReg off then s.writeFw off v firmware
  else if off % 8 = 0 && 0x1000 ≤ off && off < 0x1100 then
    if s.ownsMbox p off && (off % 16 = 8 || s.pkg.mboxOpen.getLsbD ((off - 0x1000) / 16)) then s.put off (hostBits off v) else s
  else if off % 8 = 0 && 0x2000 ≤ off && off < 0x2100 then
    if (off - 0x2000) / 32 = p && (s.partAt p).isSome then
      if off % 32 = 0x18 then s.consume p v else s.put off (hostBits off v)
    else s
  else s

/-- A package whose boot has failed offers no register but BOOTSTAT (R443). -/
def execEvRegisterWrite (s : State) : Out :=
  .next (if s.pkg.bootFailed then s else s.writeReg s.arg.p.toNat s.arg.off.toNat s.arg.v s.arg.firmware)

def execEvClkcapWrite (s : State) : Out := .next (if s.pkg.bootFailed then s else s.writeClkCap s.arg.v)

/-! ### Clocks, temperature, telemetry (R449 to R451) -/

/-- The power limit or the thermal limit moves; the step changes timing only. -/
def execEvClockStepChange (s : State) : Out := .next (s.mapPkg fun k => { k with limits := (s.arg.power, s.arg.thermal) }).setStep

/-- A junction at 120 °C: the package resets, and nothing it had under way goes on (R450). It boots again as after any reset. -/
def execEvThermalTrip (s : State) : Out := .next (if s.arg.heat.toNat < 120 then s else s.resetBoot)

/-- A sample of a telemetry group goes to every ring (its layout is the model's, log 17), and POWERSTAT shows it. It counts the errors that the
SRAM banks and L2 have corrected since the last one (`errors`, R418). -/
def execEvTelemetrySample (s : State) : Out :=
  .next (
    let s := s.mapPkg fun k => { k with corrected := k.corrected + s.arg.errors }
    let g := s.arg.group.toNat
    let q := tabGet 0 s.pkg.telSeq g
    let x := s.pkg.reg 0x10
    let d := leBytes 2 s.arg.watts.toNat ++ leBytes 1 s.arg.heat.toNat ++ leBytes 1 (wbits x 15 8) ++ leBytes 4 s.pkg.corrected
      ++ leBytes 4 q.toNat
    let s := (s.emitAll 5 g d).mapPkg fun k => { k with telSeq := tabSet k.telSeq g (q + 1) }
    s.put 0x10 (setBits (setBits x 31 16 s.arg.watts.toNat) 7 0 s.arg.heat.toNat))

/-- A cluster with no launch on it or placed there. -/
def State.clusterIdle (s : State) (c : Nat) : Bool :=
  (s.contexts.all fun x => x.1.toNat / 4 != c) && s.pkg.launches.all fun l => l.st == .saved || l.place.all fun x => x.1.toNat / 4 != c

/-- Before an idle cluster is gated its near caches and L1s give up every copy (R235). -/
def execEvClusterGate (s : State) : Out :=
  .next (
    let c := s.arg.cluster.toNat
    if !s.clusterIdle c then s
    else
      let f := fun (x : CoreSt) => { x with l1 := [] }
      let s := { s with core := if s.coreNum.toNat / 4 = c then f s.core else s.core,
                        cores := s.cores.map fun (b : Nat × CoreBox) => if b.1 / 4 = c then (b.1, { b.2 with core := f b.2.core }) else b }
      s.mapPkg fun k => { k with near := k.near.filter fun n => n.core.toNat / 4 != c, gated := setBits k.gated c c 1 })

/-- A placement wakes its cluster. -/
def execEvClusterWake (s : State) : Out :=
  .next (s.mapPkg fun k => { k with gated := setBits k.gated s.arg.cluster.toNat s.arg.cluster.toNat 0 })

end Sys2Proof.Machine
end

