-- ==== Sys2Proof/Machine/Management.lean ====
section
/-! DEFINITION. Management.lean: the SPDM responder, the vendor messages of a partition's owner, IDE keys and TDISP
(R384, R389 to R394). The SPDM codes and the order of its messages are those of SPDM 1.3, which the manual names (log 21). -/
namespace Sys2Proof.Machine

/-! ### Answers -/

/-- A response of SPDM 1.3: version, code, two parameters, body. -/
def spdmMsg (code p1 p2 : Nat) (body : List Byte) : List Byte :=
  [0x13, BitVec.ofNat 8 code, BitVec.ofNat 8 p1, BitVec.ofNat 8 p2] ++ body

def spdmError (code data : Nat) : List Byte := spdmMsg 0x7F code data []

def errInvalid : Nat := 0x01
def errSession : Nat := 0x02
def errUnexpected : Nat := 0x04
def errDecrypt : Nat := 0x06
def errUnsupported : Nat := 0x07
def errLarge : Nat := 0x0F

def State.mapSpdm (s : State) (f : Spdm → Spdm) : State := s.mapPkg fun k => { k with spdm := f k.spdm }

/-- Answer with an error; nothing else changes. -/
def State.refuse (s : State) (code data : Nat) : State := s.mapSpdm fun m => { m with answer := spdmError code data }

/-- Answer a request, which with its response enters the transcript. A response too large for one piece is fetched by CHUNK_GET. -/
def State.respondSpdm (s : State) (req resp : List Byte) : State :=
  s.mapSpdm fun m =>
    let m := { m with transcript := m.transcript ++ req ++ resp }
    if Config.spdmSize < resp.length then { m with chunkOut := some (0, resp), answer := spdmError errLarge 0 }
    else { m with chunkOut := none, answer := resp }

/-- The chain in a certificate slot: slot 0 holds the device identity (R390). -/
def Spdm.chain (m : Spdm) (slot : BitVec 3) : List Byte :=
  if slot = 0 then Config.identityChain else m.certs[slot.toNat]'slot.isLt

def Spdm.gen (m : Spdm) (slot : BitVec 3) : BitVec 32 := m.gens[slot.toNat]'slot.isLt

/-- Both signatures of a response over its hash, the second in a Berrehus element that carries the slot's generation (R390). -/
def Spdm.signed (m : Spdm) (slot : BitVec 3) (msg : List Byte) : List Byte :=
  let h := Config.sha384 (m.transcript ++ msg)
  let k := Config.leafKey (m.chain slot)
  leBytes 4 (m.gen slot).toNat ++ Config.lmsSign k h ++ Config.ecdsaSign k h

/-- Requests after the connection has been set up; before that they are unexpected. -/
def State.connected (s : State) (f : State → State) : Out :=
  .next (if s.pkg.spdm.algs then f s else s.refuse errUnexpected 0)

/-! ### Setting up (R389) -/

def execEvGetVersion (s : State) : Out :=
  .next ((s.mapSpdm fun m => { m with version := true, caps := false, algs := false, transcript := [] }).respondSpdm
    (spdmMsg 0x84 0 0 []) (spdmMsg 0x04 0 0 [0, 1, 0, 0x13]))

/-- What the responder can do: certificates, challenge, measurements with signature, sessions, chunks, certificate writes, signing
requests; no pre-shared keys, no mutual authentication, no encapsulated requests. -/
def execEvGetCapabilities (s : State) : Out :=
  .next (if !s.pkg.spdm.version then s.refuse errUnexpected 0
    else (s.mapSpdm fun m => { m with caps := true }).respondSpdm (spdmMsg 0xE1 0 0 []) (spdmMsg 0x61 0 0 []))

/-- The algorithms of R389, each of which the requester has to offer. -/
def execEvNegotiateAlgorithms (s : State) : Out :=
  .next (
    let a := s.arg
    if !s.pkg.spdm.caps then s.refuse errUnexpected 0
    else if !(a.asym.getLsbD 7 && a.hash.getLsbD 1 && a.dhe.getLsbD 4 && a.aead.getLsbD 1 && a.meas.getLsbD 0) then s.refuse errInvalid 0
    else
      let words := fun (l : List Nat) => l.flatMap (leBytes 4)
      (s.mapSpdm fun m => { m with algs := true }).respondSpdm
        (spdmMsg 0xE3 0 0 (words [a.asym.toNat, a.hash.toNat, a.dhe.toNat, a.aead.toNat, a.meas.toNat]))
        (spdmMsg 0x63 0 0 (words [0x80, 2, 0x10, 2, 1])))

/-! ### Certificates and measurements -/

/-- The digest of each chain that is present (R392: from the state at acceptance). -/
def execEvGetDigests (s : State) : Out :=
  s.connected fun s =>
    let m := s.pkg.spdm
    let slots := ((natRange 0 8).map (BitVec.ofNat 3)).filter fun c => !(m.chain c).isEmpty
    s.respondSpdm (spdmMsg 0x81 0 0 []) (spdmMsg 0x01 0 (slots.foldl (fun n c => n + 2 ^ c.toNat) 0)
      (slots.flatMap fun c => Config.sha384 (m.chain c)))

def execEvGetCertificate (s : State) : Out :=
  s.connected fun s =>
    let c := s.pkg.spdm.chain s.arg.chain
    let off := s.arg.off.toNat
    if c.isEmpty || decide (c.length ≤ off) then s.refuse errInvalid 0
    else
      let part := (c.drop off).take s.arg.len.toNat
      s.respondSpdm (spdmMsg 0x82 s.arg.chain.toNat 0 (leBytes 2 off ++ leBytes 2 s.arg.len.toNat))
        (spdmMsg 0x02 s.arg.chain.toNat 0 (leBytes 2 part.length ++ leBytes 2 (c.length - off - part.length) ++ part))

def execEvChallenge (s : State) : Out :=
  s.connected fun s =>
    let m := s.pkg.spdm
    let slot := s.arg.chain
    if (m.chain slot).isEmpty then s.refuse errInvalid 0
    else
      let req := spdmMsg 0x83 slot.toNat 0 s.arg.data
      s.respondSpdm req (spdmMsg 0x03 slot.toNat 0 (Config.sha384 (m.chain slot) ++ m.signed slot req))

/-- A partition descriptor's 64 bytes (Table 15.1). -/
def descBytes (d : PartDesc) : List Byte :=
  leBytes 8 (d.schedAsid.toNat * 2 ^ 32 + d.mboxMask.toNat * 2 ^ 16 + d.locked.toNat)
    ++ leBytes 8 (d.clMask.toNat * 2 ^ 32 + d.keyHi.toNat * 2 ^ 24 + d.keyLo.toNat * 2 ^ 16 + d.pid.toNat)
    ++ ((natRange 0 4).flatMap fun i => leBytes 4 (d.region.getD i 0).toNat)
    ++ leBytes 8 d.s2Root.toNat ++ leBytes 8 d.asidTab.toNat ++ leBytes 8 d.signTab.toNat ++ leBytes 8 d.minSvn.toNat

/-- The measurement of a block (R389). -/
def State.measure (s : State) (i : Nat) : List Byte :=
  if i = 1 then s.pkg.spdm.fw
  else if i = 2 then Config.spConfig
  else if i = 11 then Config.sha384 ((s.pkg.parts.toList.filterMap id).flatMap fun d => s.devBytes d.signTab.toNat 2048)
  else match s.partAt (i - 3) with
    | some d => Config.sha384 (descBytes d)
    | none => List.replicate 48 0

/-- Index 0 asks how many blocks there are, 0xFF for all of them. -/
def execEvGetMeasurements (s : State) : Out :=
  s.connected fun s =>
    let i := s.arg.index.toNat
    let slot := s.arg.chain
    if (decide (11 < i) && i != 0xFF) || (s.pkg.spdm.chain slot).isEmpty then s.refuse errInvalid 0
    else
      let req := spdmMsg 0xE0 slot.toNat i s.arg.data
      let blocks := if i = 0 then [] else if i = 0xFF then natRange 1 11 else [i]
      let body := leBytes 1 (if i = 0 then 11 else blocks.length) ++ blocks.flatMap fun j => leBytes 1 j ++ s.measure j
      s.respondSpdm req (spdmMsg 0x60 slot.toNat i (body ++ s.pkg.spdm.signed slot (req ++ body)))

/-- A chain is written to a slot, and its generation goes up by one (R392); not to slot 0 (R390). -/
def execEvSetCertificate (s : State) : Out :=
  s.connected fun s =>
    let slot := s.arg.chain
    if slot = 0 then s.refuse errInvalid 0
    else
      (s.mapSpdm fun m => { m with certs := m.certs.set slot.toNat s.arg.data slot.isLt,
                                   gens := m.gens.set slot.toNat (m.gen slot + 1) slot.isLt }).respondSpdm
        (spdmMsg 0xEE slot.toNat 0 s.arg.data) (spdmMsg 0x6E slot.toNat 0 [])

def execEvGetCsr (s : State) : Out :=
  s.connected fun s => s.respondSpdm (spdmMsg 0xED 0 0 s.arg.data) (spdmMsg 0x6D 0 0 (Config.csr s.arg.data))

/-! ### Sessions -/

def Spdm.session (m : Spdm) (id : Option (BitVec 32)) : Option Session :=
  match id with
  | none => none
  | some i => m.sessions.find? fun x => x.id == i

def Spdm.setSession (m : Spdm) (x : Session) : Spdm := { m with sessions := mapIf (fun y => y.id == x.id) (fun _ => x) m.sessions }

/-- P-384 DHE begins a session; the response is signed. -/
def execEvKeyExchange (s : State) : Out :=
  s.connected fun s =>
    let m := s.pkg.spdm
    let slot := s.arg.chain
    if (m.chain slot).isEmpty then s.refuse errInvalid 0
    else
      let priv := leBytes 8 (Config.entropy s.clock).toNat
      let id := BitVec.ofNat 32 m.nextId
      let req := spdmMsg 0xE4 0 slot.toNat s.arg.data
      let resp := spdmMsg 0x64 0 0 (leBytes 4 id.toNat ++ Config.ecdhPublic priv ++ m.signed slot req)
      let x : Session := ⟨id, false, none, Config.ecdhShared priv s.arg.data, m.transcript ++ req ++ resp⟩
      (s.mapSpdm fun m => { m with nextId := m.nextId + 1, sessions := m.sessions ++ [x] }).respondSpdm req resp

/-- The requester's proof completes the handshake; a wrong one ends it. -/
def execEvFinish (s : State) : Out :=
  s.connected fun s =>
    match s.pkg.spdm.session s.arg.session with
    | none => s.refuse errSession 0
    | some x =>
      if x.open_ then s.refuse errUnexpected 0
      else if Config.hmac x.secret (Config.sha384 x.transcript) != s.arg.verify then
        (s.mapSpdm fun m => { m with sessions := m.sessions.filter fun y => y.id != x.id }).refuse errDecrypt 0
      else
        let req := spdmMsg 0xE5 0 0 s.arg.verify
        let resp := spdmMsg 0x65 0 0 []
        (s.mapSpdm fun m => m.setSession { x with open_ := true, transcript := x.transcript ++ req ++ resp }).respondSpdm req resp

/-- Requests inside an open session. -/
def State.inSession (s : State) (f : State → Session → State) : State :=
  match s.pkg.spdm.session s.arg.session with
  | some x => if x.open_ then f s x else s.refuse errSession 0
  | none => s.refuse errSession 0

def execEvHeartbeat (s : State) : Out :=
  s.connected fun s => s.inSession fun s _ => s.respondSpdm (spdmMsg 0xE8 0 0 []) (spdmMsg 0x68 0 0 [])

/-- Operations 1 and 2 update the session's keys, 3 verifies the new ones. -/
def execEvKeyUpdate (s : State) : Out :=
  s.connected fun s => s.inSession fun s x =>
    let op := s.arg.code.toNat
    if op = 0 || op > 3 then s.refuse errInvalid 0
    else
      let x := if op = 3 then x else { x with secret := Config.hkdf x.secret [] 48 }
      (s.mapSpdm fun m => m.setSession x).respondSpdm (spdmMsg 0xE9 op 0 []) (spdmMsg 0x69 op 0 [])

def execEvEndSession (s : State) : Out :=
  s.connected fun s => s.inSession fun s x =>
    (s.mapSpdm fun m => { m with sessions := m.sessions.filter fun y => y.id != x.id }).respondSpdm (spdmMsg 0xEC 0 0 []) (spdmMsg 0x6C 0 0 [])

/-! ### Chunks and refusals -/

/-- A chunk of a large message: they come in order from 0. The request that the whole message holds arrives as its own event. -/
def execEvChunkSend (s : State) : Out :=
  s.connected fun s =>
    let (next, have_) : BitVec 16 × List Byte := match s.pkg.spdm.chunkIn with
      | some (n, b) => (n + 1, b)
      | none => (0, [])
    if s.arg.seq != next then (s.mapSpdm fun m => { m with chunkIn := none }).refuse errInvalid 0
    else s.mapSpdm fun m => { m with
      chunkIn := if s.arg.last then none else some (next, have_ ++ s.arg.data)
      answer := spdmMsg 0x05 0 0 (leBytes 2 s.arg.seq.toNat) }

/-- The next chunk of a large response. -/
def execEvChunkGet (s : State) : Out :=
  s.connected fun s =>
    match s.pkg.spdm.chunkOut with
    | none => s.refuse errUnexpected 0
    | some (n, b) =>
      if s.arg.seq != n then s.refuse errInvalid 0
      else s.mapSpdm fun m => { m with
        chunkOut := if (b.drop Config.spdmSize).isEmpty then none else some (n + 1, b.drop Config.spdmSize)
        answer := spdmMsg 0x06 0 0 (leBytes 2 n.toNat ++ b.take Config.spdmSize) }

/-- PSK_EXCHANGE, mutual authentication and encapsulated requests. -/
def execEvUnsupportedRequest (s : State) : Out := .next (s.refuse errUnsupported s.arg.code.toNat)

/-! ### The owner's messages (R391) -/

/-- What comes before a vendor payload in its message: StandardID 3 and the VendorID of physical function 0, with the lengths of the VendorID and
of the payload. -/
def vendorHead (n : Nat) : List Byte := leBytes 2 3 ++ [2] ++ leBytes 2 Config.vendorId.toNat ++ leBytes 2 n

/-- A vendor response: the header with MTYPE + 0x80, and STATUS. -/
def vendorAnswer (pl : List Byte) (status : Nat) : List Byte :=
  spdmMsg 0x7E 0 0 (vendorHead 8 ++ [BitVec.ofNat 8 (leField pl 0 1 + 0x80), 0] ++ sliceBytes pl 2 2 ++ leBytes 4 status)

def stOk : Nat := 0
def stNotOwner : Nat := 1
def stRange : Nat := 2
def stFormat : Nat := 3
def stAuth : Nat := 4
def stState : Nat := 5

/-- The partition slot of a partition id. -/
def State.pidSlot (s : State) (pid : Nat) : Option Nat :=
  (natRange 0 8).find? fun p => match s.partAt p with | some d => d.pid.toNat == pid | none => false

/-- A vendor message inside an open session: `f` gives the state after it and its STATUS. One with another StandardID or VendorID is none of
these messages, and is not supported (log 21). -/
def State.vendor (s : State) (f : State → Session → List Byte → State × Nat) : Out :=
  .next (
    match s.pkg.spdm.session s.arg.session with
    | some x =>
      let pl := s.arg.data.drop 7
      if x.open_ then
        if s.arg.data.take 5 != (vendorHead 0).take 5 then s.refuse errUnsupported 0xFE
        else
          let (t, st) := if leField s.arg.data 5 2 = pl.length then f s x pl else (s, stFormat)
          let t := if st = stOk then t else s
          t.mapSpdm fun m => { m with answer := vendorAnswer pl st }
      else s.refuse errUnexpected 0
    | none => s.refuse errUnexpected 0)

/-- The header's own fields, for a message type and its length. -/
def vendorOk (pl : List Byte) (mtype : Nat) (len : Nat → Bool) : Bool :=
  leField pl 0 1 == mtype && leField pl 1 1 == 0 && decide (leField pl 2 2 < 4096) && len pl.length

def State.tdiOf (s : State) (p : Nat) : TdiSt := s.pkg.tdi.toList.getD p .unlocked

/-- OWNER_AUTH: both signatures against entry 0 of the partition's signer key table. -/
def State.ownerAuth (s : State) (x : Session) (pl : List Byte) : State × Nat :=
  if !(vendorOk pl 1 (fun n => decide (104 < n)) && leField pl 4 4 == 0) then (s, stFormat)
  else
    match s.pidSlot (leField pl 2 2) with
    | none => (s, stAuth)
    | some p =>
      match s.partAt p with
      | none => (s, stAuth)
      | some d =>
        if s.tdiOf p == .error then (s, stState)
        else
          let e := s.devBytes d.signTab.toNat 256
          let text : List Byte := [0x56, 0x4C, 0x58, 0x2D, 0x4F, 0x57, 0x4E, 0x45, 0x52]
          let dig := Config.sha384 (text ++ Config.sha384 x.transcript)
          if (leField e 0 1).testBit 0 && Config.ecdsaVerify (sliceBytes e 0x10 97) dig (sliceBytes pl 8 96)
              && Config.lmsVerify (sliceBytes e 0x80 56) dig (pl.drop 104) then
            (s.mapSpdm fun m => m.setSession { x with owns := some d.pid }, stOk)
          else (s, stAuth)

def execEvOwnerAuth (s : State) : Out := s.vendor State.ownerAuth

/-- SET_KEY and CLEAR_KEY: only by the owner, within KEYLO to KEYHI, not in TDI ERROR. -/
def State.keyMessage (s : State) (x : Session) (pl : List Byte) (f : State → Nat → State) : State × Nat :=
  let pid := leField pl 2 2
  if x.owns != some (BitVec.ofNat 12 pid) then (s, stNotOwner)
  else
    match s.pidSlot pid with
    | none => (s, stNotOwner)
    | some p =>
      match s.partAt p with
      | none => (s, stNotOwner)
      | some d =>
        let slot := leField pl 4 1
        if s.tdiOf p == .error then (s, stState)
        else if slot < d.keyLo.toNat || d.keyHi.toNat < slot then (s, stRange)
        else (f s slot, stOk)

def keyKind : Nat → Option KeyKind
  | 1 => some .xts | 2 => some .gcm | 3 => some .link | _ => none

/-- A slot becomes LOADED with the key of a message (R384). -/
def State.loadKey (s : State) (slot : Nat) (k : KeyKind) (pl : List Byte) : State :=
  s.mapPkg fun p => { p with keys := tabSet p.keys slot (k, sliceBytes pl 8 (if k = .xts then 64 else 32)) }

def State.setKey (s : State) (x : Session) (pl : List Byte) : State × Nat :=
  match keyKind (leField pl 5 1) with
  | none => (s, stFormat)
  | some k =>
    if !(vendorOk pl 2 (· == 72) && leField pl 6 2 == 0 && (k == .xts || leField pl 40 32 == 0)) then (s, stFormat)
    else s.keyMessage x pl fun s slot => s.loadKey slot k pl

/-- Firmware loads a key (R384), given in the form of the owner's message. -/
def State.firmwareKey (s : State) (pl : List Byte) : State :=
  match keyKind (leField pl 5 1) with
  | some k => s.loadKey (leField pl 4 1) k pl
  | none => s

def execEvSetKey (s : State) : Out := if s.arg.firmware then .next (s.firmwareKey s.arg.data) else s.vendor State.setKey

def State.clearKey (s : State) (x : Session) (pl : List Byte) : State × Nat :=
  if !(vendorOk pl 3 (· == 8) && leField pl 5 3 == 0) then (s, stFormat)
  else s.keyMessage x pl fun s slot => s.mapPkg fun p => { p with keys := tabDel p.keys slot }

def execEvClearKey (s : State) : Out := s.vendor State.clearKey

/-- IDE_KM: the owner of a partition programs a stream's keys inside its session (R390). -/
def execEvIdeKm (s : State) : Out :=
  .next (
    match s.pkg.spdm.session s.arg.session with
    | some x =>
      if x.open_ && x.owns.isSome then
        s.mapSpdm fun m => { m with
          ide := (s.arg.stream, s.arg.verify) :: m.ide.filter (fun e => e.1 != s.arg.stream)
          answer := spdmMsg 0x7E 0 0 (leBytes 1 s.arg.stream.toNat) }
      else s.refuse errUnexpected 0
    | none => s.refuse errUnexpected 0)

/-! ### TDISP (R394) -/

def State.setTdi (s : State) (p : Nat) (x : TdiSt) : State :=
  s.mapPkg fun k => { k with tdi := Vector.ofFn fun i => if i.val = p then x else k.tdi[i] }

/-- The descriptor's LOCKED: set by a lock, until the partition leaves RUN (R368). -/
def State.setLocked (s : State) (p : Nat) (b : Bool) : State :=
  s.mapPkg fun k => { k with parts := Vector.ofFn fun i =>
    if i.val = p then k.parts[i].map fun (d : PartDesc) => { d with locked := b } else k.parts[i] }

/-- The TDI moves to ERROR: launches end as under cancellation (not while the command processor is stopped, R442), mailboxes stop, every key
slot in the range is emptied. -/
def State.tdiError (s : State) (p : Nat) : State :=
  match s.partAt p with
  | none => s
  | some d =>
    let s := if s.tdiOf p == .run then s.setLocked p false else s
    let s := s.setTdi p .error
    let ls := if s.pkg.stopped then [] else s.pkg.launches.filter fun l => l.part == p && l.st != .flushing
    let s := ls.foldl (fun s l => s.cancelLaunch l) s
    let s := if ls.isEmpty then s else s.wantDecision p
    let s := ls.foldl (fun s l => s.loseStepOf l .cancelled) s
    s.mapPkg fun k => { k with
      mboxOpen := k.mboxOpen &&& ~~~d.mboxMask
      keys := k.keys.filter fun e => !(decide (d.keyLo.toNat ≤ e.1) && decide (e.1 ≤ d.keyHi.toNat)) }

/-- An event of the TDI of the partition that `arg.pid` names. -/
def State.onTdi (s : State) (f : State → Nat → State) : Out :=
  .next (match s.pidSlot s.arg.pid.toNat with | some p => f s p | none => s)

/-- Firmware writes a descriptor, with its signer key table, that is not locked; a set that breaks R368 is rejected. The command processor then
drops the partition's translations on its own behalf: the manual does not say when it does so (R376; DESIGN CHOICE, log 79). -/
def State.rewriteDesc (s : State) (p : Nat) (b : BootInputs) : State :=
  match s.partAt p, b.parts[p]? with
  | some d, some new =>
    let others := ((natRange 0 8).filter (· != p)).filterMap s.partAt
    if d.locked || !descsOk (new :: others) then s
    else
      ((s.invalidate d.pid none (fun e => e.pid == d.pid) fun _ => true).putSigners new (b.signers.getD p [])).mapPkg fun k => { k with
        parts := Vector.ofFn fun i => if i.val = p then some new else k.parts[i] }
  | _, _ => s

/-- CONFIG_UNLOCKED to CONFIG_LOCKED: the descriptor, as firmware may have rewritten it, and its signer key table are frozen. -/
def execEvLockInterface (s : State) : Out :=
  s.onTdi fun s p =>
    if s.tdiOf p == .unlocked then
      let s := match s.arg.boot with | some b => s.rewriteDesc p b | none => s
      let table := match s.partAt p with | some (d : PartDesc) => s.devBytes d.signTab.toNat 2048 | none => []
      ((s.setTdi p .locked).setLocked p true).mapPkg fun k => { k with frozen := tabSet k.frozen p table, broken := k.broken &&& ~~~(1 <<< p : BitVec 8) }
    else s

/-- A write has met a frozen signer key table, or its bytes have changed (R394). -/
def State.frozenBroken (s : State) (p : Nat) : Bool :=
  (s.tdiOf p == .locked || s.tdiOf p == .run) &&
    (s.pkg.broken.getLsbD p || match s.partAt p with | some d => s.devBytes d.signTab.toNat 2048 != tabGet [] s.pkg.frozen p | none => false)

/-- CONFIG_LOCKED to RUN. -/
def execEvTdiRun (s : State) : Out := s.onTdi fun s p => if s.tdiOf p == .locked then s.setTdi p .run else s

/-- A stop moves a locked or running TDI to ERROR; from ERROR it leads back to CONFIG_UNLOCKED. -/
def execEvStopInterface (s : State) : Out :=
  s.onTdi fun s p => match s.tdiOf p with
    | .unlocked => s
    | .error => s.setTdi p .unlocked
    | _ => s.tdiError p

/-- A write to a frozen item, or an IDE integrity failure on the partition's streams. -/
def execEvTdiError (s : State) : Out :=
  s.onTdi fun s p => match s.tdiOf p with
    | .unlocked => s
    | _ => s.tdiError p

end Sys2Proof.Machine
end

