-- ==== Sys2Proof/Machine/Atomics.lean ====
section
/-! DEFINITION. Atomics.lean: the meanings of the atomics, of `vscadd`, and of the decide-once cell instructions
(R303 to R323). -/
namespace Sys2Proof.Machine

/-- ATOMIC_FAULT at dispatch for an operation whose home is at a place: SPACE, LEASE, SCOPE, TOKEN (Table 12.3). -/
def State.homeFault (s : State) (o : Opd) (pkgScope : BitVec 3 → Bool) (scope : BitVec 3) (tok : Bool) (p : Place) : Option TrapInfo :=
  match p with
  | .host _ => some (trapAtomic 1 o.ea)
  | .pool _ _ => some (trapAtomic 2 o.ea)
  | .home _ _ =>
    if capLease o.cap ≠ 15 then some (trapAtomic 2 o.ea)
    else if scope.toNat ≠ 4 then some (trapAtomic 3 o.ea)
    else if tok && s.ctx.stepToken == 0 then some (trapAtomic 4 o.ea)
    else none
  | _ => if !pkgScope scope then some (trapAtomic 3 o.ea) else if tok then some (trapAtomic 4 o.ea) else none

/-- Check an atomic (R303 to R305, R310, R316). -/
def State.checkAtom (s : State) (o : Opd) (n : Nat) (scope : BitVec 3) (tok : Bool) (elem : Nat) : Acc :=
  s.check o n .both [.a] 1 elem (s.homeFault o (fun _ => true) scope tok)

/-- An atomic enters the buffer, and the boundary after its bundle is a forced checkpoint (R307). -/
def State.atomic (s : State) (op : AtomOp) (d : SReg) (mem : Mem) (scope : BitVec 3) (dbl tok : Bool) : State :=
  let o := s.opd mem
  match s.checkAtom o (dblBytes dbl) scope tok 0 with
  | .trap i => s.raise i
  | .stall t => t.block false
  | .ok ps xs =>
    let v := s.readS d &&& BitVec.ofNat 64 (2 ^ atomWidth dbl - 1)
    let s := if xs.isEmpty then s else s.fillTlb xs
    let s := s.withhold (.atom op dbl tok v (some d)) (ps.map fun p => (p, none)) o.ea mem.cls scope
    (s.mapCtx fun c => { c with pending := .s d :: c.pending }).forceAfter ⟨true, false, false, false, false⟩

def execLAadd (q : Pred) (d : SReg) (mem : Mem) (scope : BitVec 3) (dbl tok : Bool) (s : State) : Out :=
  s.under q fun s => s.atomic .add d mem scope dbl tok
def execLAmin (q : Pred) (d : SReg) (mem : Mem) (scope : BitVec 3) (dbl tok : Bool) (s : State) : Out :=
  s.under q fun s => s.atomic .min d mem scope dbl tok
def execLAmax (q : Pred) (d : SReg) (mem : Mem) (scope : BitVec 3) (dbl tok : Bool) (s : State) : Out :=
  s.under q fun s => s.atomic .max d mem scope dbl tok
def execLAminn (q : Pred) (d : SReg) (mem : Mem) (scope : BitVec 3) (dbl tok : Bool) (s : State) : Out :=
  s.under q fun s => s.atomic .minn d mem scope dbl tok
def execLAmaxn (q : Pred) (d : SReg) (mem : Mem) (scope : BitVec 3) (dbl tok : Bool) (s : State) : Out :=
  s.under q fun s => s.atomic .maxn d mem scope dbl tok
def execLAand (q : Pred) (d : SReg) (mem : Mem) (scope : BitVec 3) (dbl tok : Bool) (s : State) : Out :=
  s.under q fun s => s.atomic .and d mem scope dbl tok
def execLAor (q : Pred) (d : SReg) (mem : Mem) (scope : BitVec 3) (dbl tok : Bool) (s : State) : Out :=
  s.under q fun s => s.atomic .or d mem scope dbl tok
def execLAxor (q : Pred) (d : SReg) (mem : Mem) (scope : BitVec 3) (dbl tok : Bool) (s : State) : Out :=
  s.under q fun s => s.atomic .xor d mem scope dbl tok
def execLAxchg (q : Pred) (d : SReg) (mem : Mem) (scope : BitVec 3) (dbl tok : Bool) (s : State) : Out :=
  s.under q fun s => s.atomic .xchg d mem scope dbl tok
/-- The new value stands in s(d + 1) (R311). -/
def execLAcas (q : Pred) (d : SReg) (mem : Mem) (scope : BitVec 3) (dbl tok : Bool) (s : State) : Out :=
  s.under q fun s => s.atomic (.cas (s.readS (d + 1))) d mem scope dbl tok
def execLAfadd (q : Pred) (d : SReg) (mem : Mem) (scope : BitVec 3) (dbl tok : Bool) (s : State) : Out :=
  s.under q fun s => s.atomic .fadd d mem scope dbl tok
def execLAinc (q : Pred) (d : SReg) (mem : Mem) (scope : BitVec 3) (dbl tok : Bool) (s : State) : Out :=
  s.under q fun s => s.atomic .inc d mem scope dbl tok

/-- The elements of a `vscadd`, in increasing index: one withheld entry each (R312). -/
def State.scatterAdd (s : State) (o : Opd) (op : AtomOp) (cls : BitVec 4) (scope : BitVec 3) (dbl tok : Bool) (s0 : State) :
    List (Nat × Word × Nat) → State
  | [] => s
  | (i, ea, v) :: l =>
    let e := { o with ea := ea }
    match s.checkAtom e (dblBytes dbl) scope tok i with
    | .trap t => s.raise { t with elem := i }
    | .stall t => ({ t with ctx := { t.ctx with buffer := s0.ctx.buffer } } : State).block false
    | .ok ps xs =>
      let s := if xs.isEmpty then s else s.fillTlb xs
      State.scatterAdd (s.withhold (.atom op dbl tok (BitVec.ofNat 64 v) none) (ps.map fun p => (p, none)) ea cls scope)
        o op cls scope dbl tok s0 l

def execLVscadd (q : Pred) (d : VReg) (mem : Mem2) (x : VReg) (scope : BitVec 3) (dbl tok fl : Bool) (s : State) : Out :=
  s.under q fun s =>
    let o := s.opd2 mem
    let vs := s.readElems (if dbl then 64 else 32) d
    s.scatterAdd o (if fl then .fadd else .add) mem.cls scope dbl tok s
      ((lanesOf s.maskTop).map fun i => (i, s.indexAddr o.ea x i, vs.getD i 0))

/-! ### Cells (R317 to R323) -/

/-- The 64-byte block that holds ea. -/
def Opd.block (o : Opd) : Opd := { o with ea := o.ea &&& ~~~(63 : Word) }

/-- ATOMIC_FAULT for a cell operation: `bad` when its generation register is (subcode CELL). -/
def State.cellFault (s : State) (o : Opd) (scope : BitVec 3) (bad : Bool) (p : Place) : Option TrapInfo :=
  match s.homeFault o (fun x => x == 2) scope false p with
  | some t => some t
  | none => if bad then some (trapAtomic 5 o.ea) else none

/-- The proposal's bytes: byte j is byte j mod 4 of lane ⌊j/4⌋ (R320). -/
def State.proposal (s : State) (d : VReg) (len : Nat) : List Byte :=
  (natRange 0 len).map fun j => BitVec.ofNat 8 ((s.readV d).extractLsb' (8 * j) 8).toNat

def execLDprop (q : Pred) (d : VReg) (mem : Mem2) (ss : SReg) (scope : BitVec 3) (s : State) : Out :=
  s.under q fun s =>
    let o := (s.opd2 mem).block
    let x := s.readS ss
    let len := wbits x 38 32
    let bad := wbits x 63 39 != 0 || decide (len > 48)
    match s.check o 64 .both [.a] 1 0 (s.cellFault o scope bad) with
    | .trap i => s.raise i
    | .stall t => t.block false
    | .ok ps xs =>
      let s := if xs.isEmpty then s else s.fillTlb xs
      let s := s.withhold (.dprop (BitVec.ofNat 32 (wbits x 31 0)) (s.proposal d len) d ss) (ps.map fun p => (p, none)) o.ea mem.cls scope
      (s.mapCtx fun c => { c with pending := .v d :: .s ss :: c.pending }).forceAfter ⟨true, false, false, false, false⟩

/-- A released write of the context's own to a cell is still on its way: a `dread` waits until it has performed (R321). -/
def State.cellAhead (s : State) (ps : List Place) : Bool :=
  let rs := ps.map fun p => (s.canon p, 1)
  s.underway.any fun x => s.sentByUs x && rs.any (runsMeet (s.canon (writePlace x), x.data.length))

/-- `dread` is a load: it performs at its dispatch (R321), from a copy of the decided cell where there is one; a reply from a copy waits for
the invalidations under way (R323). Without one it waits while the page's link is out of service, and is lost with the link (R438). -/
def execLDread (q : Pred) (d : VReg) (mem : Mem2) (ss : SReg) (scope : BitVec 3) (s : State) : Out :=
  s.under q fun s =>
    let o := (s.opd2 mem).block
    let x := s.readS ss
    let gen := BitVec.ofNat 32 (wbits x 31 0)
    match s.check o 64 .read [.r] 1 0 (s.cellFault o scope (wbits x 63 32 != 0)) (cell := true) with
    | .trap i => s.raise i
    | .stall t => t.block false
    | .ok ps xs =>
      let s := if xs.isEmpty then s else s.fillTlb xs
      match ps.head? with
      | none => s
      | some p =>
        if s.cellAhead ps then s.block false
        else match s.cellCopy p gen with
        | some c =>
          (((s.mapCtx fun x => x.acquire 4 mem.cls s.clock).acquireAt ps scope mem.cls).writeV d (cellVec (cellReply 6 true c.bytes))).writeS ss
            (cellWord (cellReply 6 true c.bytes))
        | none =>
          if s.placeLost p then s.raise (trapLink 3 o.ea)
          else match s.cellHome p .read gen with
            | none => s.block false
            | some (t, r) =>
              let s := t.installCell p r
              let s := if r.status = 6 then s.acquireAt ps scope mem.cls else s
              (s.writeV d (cellVec r)).writeS ss (cellWord r)

def execLDrecycle (q : Pred) (ss : SReg) (mem : Mem2) (scope : BitVec 3) (s : State) : Out :=
  s.under q fun s =>
    let o := (s.opd2 mem).block
    let x := s.readS ss
    match s.check o 64 .write [.d] 1 0 (s.cellFault o scope (wbits x 63 32 != 0)) with
    | .trap i => s.raise i
    | .stall t => t.block false
    | .ok ps xs =>
      let s := if xs.isEmpty then s else s.fillTlb xs
      s.withhold (.drecycle (BitVec.ofNat 32 (wbits x 31 0))) (ps.map fun p => (p, none)) o.ea mem.cls scope

end Sys2Proof.Machine
end

