-- ==== Sys2Proof/Machine/Control.lean ====
section
/-! DEFINITION. Control.lean: the meanings of the C-slot operations (R327 to R340). Each moves the flow past its bundle; one
whose predicate is false has no effect of its own. -/
namespace Sys2Proof.Machine

/-- A C operation under its predicate (R327): when it does not hold, flow just passes the bundle. -/
def State.cOp (s : State) (q : Pred) (f : State → State) : Out := .next (if s.holds q then f s else s.passBundle)

/-- `br` and `call` (Table 13.2): P + SignExtend(offset), modulo 2³². -/
def State.relTarget (s : State) (o : BitVec 22) : BitVec 32 := s.ctx.regs.pc + o.signExtend 32

/-- A call writes R to s63 and branches (R329, R330). -/
def State.takeCall (s : State) (target : BitVec 32) : State := (s.writeS 63 (s.returnPc.setWidth 64)).takeBranch target

/-- The loop indices an `lidx` of the bundle at dispatch reads: those that its C operation has left, before any end-of-iteration
action (R35, R133, log 61). -/
def State.seeLoops (s : State) (l : List LoopEntry) : State :=
  match s.cur with
  | none => s
  | some o => s.mapCtx fun c => { c with
      queue := c.queue.map fun p => if p.id.seq = o.id.seq then { p with id := { p.id with lidx := l.map (·.index) } } else p }

/-- `loop` and `loopi` with their count and end offset (R332); where they fall through no flow is taken from a `vskip` of the bundle
(R161, log 62). Their end's start bit, and for count 0 its word, are read without verifying the block they stand in (R56, R57; log 22). -/
def State.pushLoop (s : State) (count : BitVec 32) (e : BitVec 32) : State :=
  let last := s.ctx.regs.pc + e
  if !s.startBit last.toNat then s.raise { code := 0x02 }
  else if count = 0 then
    let f := s.flow s.ctx.regs.loops s.ctx.regs.pc
    s.takeFlow { f with next := s.after last, back := false }
  else if s.ctx.regs.loops.length ≥ 6 then s.raise { code := 0x32 }
  else
    let loops := ⟨0, count, last, s.after s.ctx.regs.pc⟩ :: s.ctx.regs.loops
    ((s.seeLoops loops).mapRegs fun g => { g with loops := loops }).passBundle

def execCNop (q : Pred) (s : State) : Out := s.cOp q State.passBundle

def execCBr (q : Pred) (o : BitVec 22) (s : State) : Out := s.cOp q fun s => s.takeBranch (s.relTarget o)

def execCCall (q : Pred) (o : BitVec 22) (s : State) : Out := s.cOp q fun s => s.takeCall (s.relTarget o)

def execCRet (q : Pred) (s : State) : Out := s.cOp q fun s => s.takeBranch ((s.readS 63).setWidth 32)

def execCBrs (q : Pred) (r : SReg) (s : State) : Out := s.cOp q fun s => s.takeBranch ((s.readS r).setWidth 32)

/-- The target register is read before s63 is written (R329). -/
def execCCalls (q : Pred) (r : SReg) (s : State) : Out := s.cOp q fun s => s.takeCall ((s.readS r).setWidth 32)

def execCLoop (q : Pred) (r : SReg) (e : BitVec 16) (s : State) : Out :=
  s.cOp q fun s => s.pushLoop ((s.readS r).setWidth 32) (e.setWidth 32)

/-- The field holds the count minus one (Table 3.5). -/
def execCLoopi (q : Pred) (n : BitVec 10) (e : BitVec 12) (s : State) : Out :=
  s.cOp q fun s => s.pushLoop (n.setWidth 32 + 1) (e.setWidth 32)

/-- LOOP_UNDERFLOW without an active loop (R334). -/
def execCLbreak (q : Pred) (s : State) : Out :=
  s.cOp q fun s => if s.ctx.regs.loops.isEmpty then s.raise { code := 0x33 } else s.takeFlow (s.flowBreak s.ctx.regs.loops)

def execCLnext (q : Pred) (s : State) : Out :=
  s.cOp q fun s => if s.ctx.regs.loops.isEmpty then s.raise { code := 0x33 } else s.takeFlow (s.flowNext s.ctx.regs.loops)

/-- The boundary after the bundle is a pre-emption point, unless a transfer is pending, and the other slot goes first (R337, R342). -/
def execCYield (q : Pred) (s : State) : Out :=
  s.cOp q fun s =>
    let s := s.passBundle
    s.mapCtx fun c => { c with yielded := true, ppPoint := !c.inTransfer }

/-- SOFTWARE_TRAP with the code in INFO (R338, Table 16.3). -/
def execCTrap (q : Pred) (code : BitVec 16) (s : State) : Out := s.cOp q fun s => s.raise { code := 0x38, info := code.toNat }

/-- The boundary after the bundle commits, counted as forced, and ends the context (R339). -/
def execCExit (q : Pred) (s : State) : Out := s.cOp q fun s => s.passBundle.forceAfter ⟨true, false, false, true, false⟩

/-- BREAKPOINT under debug, but not right after a resume from that breakpoint (R340). -/
def execCBreak (q : Pred) (s : State) : Out :=
  s.cOp q fun s => if s.ctx.debug && !s.ctx.breakOnce then s.raise { code := 0x39 } else s.passBundle

end Sys2Proof.Machine
end

