-- ==== Sys2Proof/Machine/Queues.lean ====
section
/-! DEFINITION. Queues.lean: the meanings of the circular-buffer instructions (R281 to R286). -/
namespace Sys2Proof.Machine

def trapQueueFault (addr : Word) : TrapInfo := { code := 0x17, addr := addr }

/-! ### The queue register (Table 11.3) -/

def qBase (x : BitVec 128) : Nat := wbits x 62 0
def qSp (x : BitVec 128) : Bool := x.getLsbD 63
def qCount (x : BitVec 128) : Nat := wbits x 73 64 + 1
def qSize (x : BitVec 128) : Nat := wbits x 81 74
def qFilled (x : BitVec 128) : Nat := wbits x 116 106
def qWord (base : Nat) (sp : Bool) (count size : Nat) (cls : BitVec 4) (fill drain filled : Nat) : BitVec 128 :=
  BitVec.ofNat 128 (base % 2 ^ 63 + sp.toNat * 2 ^ 63 + (count - 1) * 2 ^ 64 + size * 2 ^ 74 + cls.toNat * 2 ^ 82
    + fill * 2 ^ 86 + drain * 2 ^ 96 + (filled % 2 ^ 11) * 2 ^ 106)

/-- The same queue with the pointers and the filled count that its counters stand for (R281, R282). -/
def qUpdate (x : BitVec 128) (fc dc : Nat) : BitVec 128 :=
  setBits (setBits (setBits x 95 86 (fc % qCount x)) 105 96 (dc % qCount x)) 116 106 ((fc + 2 ^ 32 - dc) % 2 ^ 32)

/-- FILLED of two counters. -/
def filledOf (fc dc : Nat) : Nat := (fc + 2 ^ 32 - dc) % 2 ^ 32

/-- An operand at an address of the queue's space. -/
def qOpd (sp : Bool) (ea : Nat) : Opd := ⟨if sp then .sp else .virt, 0, 0, BitVec.ofNat 64 ea⟩

/-- Read FILLCTR and DRAINCTR at the header's home as a load of a class, the context's own counter writes first (R281), then go on with
the header's place and the counters; the header's accesses need `need` of its page. -/
def State.withCounters (s : State) (x : BitVec 128) (cls : BitVec 4) (need : Need) (f : State → Option Place → Nat → Nat → State) : State :=
  let o := qOpd (qSp x) (qBase x)
  match s.check o 8 need [.r] 1 0 with
  | .trap i => s.raise i
  | .stall t => t.block false
  | .ok ps xs =>
    s.onGot 8 (s.gotAt none (ps.zip (addrsFrom o.ea 8)) xs) fun s b =>
      f (s.noteHomeRead cls ps) ps.head? (leField b 0 4) (leField b 4 4)

/-- One page after another of a range, one byte each: the first fault (R283). -/
def State.checkPages (s : State) : Nat → Nat → Nat → Option TrapInfo
  | 0, _, _ => none
  | n + 1, ea, last =>
    match s.check (qOpd false ea) 1 .read [.r] 1 0 with
    | .trap i => some i
    | _ => if ea / 2 ^ 16 ≥ last / 2 ^ 16 then none else State.checkPages s n ((ea / 2 ^ 16 + 1) * 2 ^ 16) last

/-- The checks of `qinit` over B to B + 64 + 64·S·C − 1: R31 or the translation checks, and R265 for the base. -/
def State.qinitFault (s : State) (sp : Bool) (base size count : Nat) : Option TrapInfo :=
  let n := 64 + 64 * size * count
  if sp && !s.spBound base n then some (trapBound (BitVec.ofNat 64 base))
  else if base % 64 ≠ 0 then some (trapAlign (BitVec.ofNat 64 base))
  else if sp then none
  else s.checkPages (n / 2 ^ 16 + 2) base (base + n - 1)

def execLQinit (q : Pred) (a : SReg) (n : QReg) (countM1 : BitVec 10) (size : BitVec 8) (cls : BitVec 4) (s : State) : Out :=
  s.under q fun s =>
    let sa := s.readS a
    let sp := sa.getLsbD 63
    let base := wbits sa 62 0
    let count := countM1.toNat + 1
    match s.qinitFault sp base size.toNat count with
    | some i => s.raise i
    | none =>
      let x := qWord base sp count size.toNat cls 0 0 0
      s.withCounters x cls .read fun s _ fc dc =>
        if filledOf fc dc > count then s.raise (trapQueueFault (BitVec.ofNat 64 base))
        else s.writeQ n (qUpdate x fc dc)

/-- Where slot k of a queue begins. -/
def slotAddr (x : BitVec 128) (k : Nat) : Nat := qBase x + 64 + 64 * qSize x * k

/-- The consumer form waits until FILLED ≥ m, then reads slot (DRAINCTR + k) mod C; the wait is an acquire at package scope. -/
def execLVldQueue (q : Pred) (d : VReg) (n : QReg) (off : BitVec 10) (need : BitVec 8) (cls : BitVec 4) (s : State) : Out :=
  s.under q fun s =>
    let x := s.readQ n
    let b := BitVec.ofNat 64 (qBase x)
    if qSize x < 4 || need.toNat > qCount x then s.raise (trapQueueFault b)
    else
      s.withCounters x cls .read fun s home fc dc =>
        if filledOf fc dc < need.toNat then s.block true
        else
          let o := qOpd (qSp x) (slotAddr x ((dc + off.toNat) % qCount x))
          let s := match home with | some p => s.acquireAt [p] 2 cls | none => s
          s.loadLanes d cls o.ea (s.checkLanes o .read [.r] (lanesOf s.maskTop)) fun s => s.writeQ n (qUpdate x fc dc)

/-- The producer form waits until C − FILLED ≥ m, then writes slot (FILLCTR + k) mod C. -/
def execLVstQueue (q : Pred) (d : VReg) (n : QReg) (off : BitVec 10) (need : BitVec 8) (cls : BitVec 4) (s : State) : Out :=
  s.under q fun s =>
    let x := s.readQ n
    let b := BitVec.ofNat 64 (qBase x)
    if qSize x < 4 || need.toNat > qCount x then s.raise (trapQueueFault b)
    else
      s.withCounters x cls .read fun s _ fc dc =>
        if filledOf fc dc + need.toNat > qCount x then s.block true
        else
          let o := qOpd (qSp x) (slotAddr x ((fc + off.toNat) % qCount x))
          (s.storeLanes d cls (s.checkLanes o .write [.w] (lanesOf s.maskTop))).writeQ n (qUpdate x fc dc)

/-- A counter's new value is withheld, and the queue register follows it. -/
def State.advance (s : State) (x : BitVec 128) (n : QReg) (at_ v : Nat) (cls : BitVec 4) (rel : Bool) (fc dc : Nat) : State :=
  let o := qOpd (qSp x) at_
  match s.check o 4 .write [.w] 1 0 with
  | .trap i => s.raise i
  | .stall t => t.block false
  | .ok ps _ => (s.withhold (.count rel) (ps.zip ((leBytes 4 v).map some)) o.ea cls 2).writeQ n (qUpdate x fc dc)

/-- The bytes of a queue's slots. -/
def State.slotRuns (s : State) (x : BitVec 128) : List (Place × Nat) := s.runsOf (qOpd (qSp x) (qBase x + 64)) (64 * qSize x * qCount x)

/-- An earlier write of a class to a queue's slots waits for the next checkpoint (R285): a withheld entry, a held copy command, the rows of
a `tst` in a drain buffer. -/
def State.slotsHeld (s : State) (x : BitVec 128) (cls : BitVec 4) : Bool :=
  let rs := s.slotRuns x
  let into := fun (cells : List (Place × Option Byte)) => cells.any fun c => c.2.isSome && rs.any fun r => within r.1 (s.canon c.1) r.2
  (s.ctx.buffer.any fun e => e.cls == cls && into e.cells)
    || (s.core.drains.any fun d => d.slot == s.slotNum && d.held && d.cls == cls && d.rows.any into)
    || s.ctx.tags.any fun (_, t) => t.st == .held && t.cls == cls && (s.runsOf t.dst t.len).any fun r => rs.any (runsMeet r)

/-- One has started, or has been released, and has not performed (R247). -/
def State.slotsBusy (s : State) (x : BitVec 128) (cls : BitVec 4) : Bool :=
  let rs := s.slotRuns x
  (s.underway.any fun w => s.sentByUs w && w.cls == cls && rs.any (runsMeet (s.canon (writePlace w), w.data.length)))
    || (s.core.drains.any fun d => d.slot == s.slotNum && d.cls == cls &&
        d.rows.any fun r => r.any fun c => rs.any fun r => within r.1 c.1 r.2)
    || s.ctx.tags.any fun (_, t) => tagBusy t && t.cls == cls && (s.runsOf t.dst t.len).any fun r => rs.any (runsMeet r)

/-- `qadvp` dispatches only once every earlier write of its class to the slots has performed (R285). -/
def execLQadvp (q : Pred) (n : QReg) (nM1 : BitVec 10) (cls : BitVec 4) (s : State) : Out :=
  s.under q fun s =>
    let x := s.readQ n
    if s.slotsHeld x cls || s.slotsBusy x cls then s.block false
    else
      s.withCounters x cls .both fun s _ fc dc =>
        let fc' := (fc + nM1.toNat + 1) % 2 ^ 32
        if filledOf fc' dc > qCount x then s.raise (trapQueueFault (BitVec.ofNat 64 (qBase x)))
        else s.advance x n (qBase x) fc' cls true fc' dc

/-- An n above FILLED raises QUEUE_FAULT (R285). -/
def execLQadvc (q : Pred) (n : QReg) (nM1 : BitVec 10) (cls : BitVec 4) (s : State) : Out :=
  s.under q fun s =>
    let x := s.readQ n
    s.withCounters x cls .both fun s _ fc dc =>
      if nM1.toNat + 1 > filledOf fc dc then s.raise (trapQueueFault (BitVec.ofNat 64 (qBase x)))
      else
        let dc' := (dc + nM1.toNat + 1) % 2 ^ 32
        s.advance x n (qBase x + 4) dc' cls false fc dc'

def execLQqry (q : Pred) (d : SReg) (n : QReg) (cls : BitVec 4) (s : State) : Out :=
  s.under q fun s =>
    let x := s.readQ n
    s.withCounters x cls .read fun s _ fc dc =>
      let v := fc % qCount x + (dc % qCount x) * 2 ^ 16 + (filledOf fc dc % 2 ^ 11) * 2 ^ 32
      (s.writeS d (BitVec.ofNat 64 v)).writeQ n (qUpdate x fc dc)

end Sys2Proof.Machine
end

