-- ==== Sys2Proof/Machine/Sequencer.lean ====
section
/-! DEFINITION. Sequencer.lean: the dispatch of a bundle from fetch: the boundary before it, its readiness, its C operation and
the queues of the other slots (R25, R26, R35 to R38, R184, R185, R222, R243, R274, R285, R288, R293, R312, R321, R327, R340,
R355, R376, R396, R400, R412). -/
namespace Sys2Proof.Machine

/-! ### Which bytes an operation reads -/

/-- A withheld entry that a test picks lies in one of the ranges. -/
def State.meetsWithheld (s : State) (pick : Entry → Bool) (rs : List (Opd × Nat)) : Bool :=
  s.ctx.buffer.any fun e => pick e && e.cells.any fun c => rs.any fun r => s.covers r.1 r.2 c.1

/-- The executing lanes of a 256-byte access. -/
def State.laneRanges (s : State) (o : Opd) : List (Opd × Nat) := (lanesOf s.maskTop).map fun i => (o.plus (4 * i), 4)

/-- DRAINCTR as the consumer form of `vld` reads it. -/
def State.drainCtr (s : State) (x : BitVec 128) : Nat :=
  match s.check (qOpd (qSp x) (qBase x)) 8 .read [.r] 1 0 with
  | .ok ps _ => leField (s.loadBytes ps) 4 4
  | _ => 0

def State.longRanges (s : State) (mem : Mem2) (addr : Word → Nat → Word) (size : Nat → Nat) : List (Opd × Nat) :=
  (lanesOf s.maskTop).map fun i => ({ s.opd2 mem with ea := addr (s.opd2 mem).ea i }, size i)

/-- The stored rows that a `tld` from memory will read. -/
def State.tldRanges (s : State) (mem : TMem) (ss : SReg) : List (Opd × Nat) :=
  let w := s.readS ss
  let ea := s.readS mem.base + mem.off.signExtend 64
  let extent := if shTrans w then s.readS (ss + 1) else 0
  let o : Opd := ⟨.virt, mem.cap, s.readC mem.cap, ea⟩
  if shRole w == 2 || shSph w then []
  else match s.tileAttr o w extent with
    | .inr _ => []
    | .inl attr =>
      let d := mkDesc ea w extent mem.cap (wbits attr 3 0) (wbits attr 5 4)
      (natRange 0 (dRowsIn d)).map fun r => (o.plus (r * shStride w), dRowBytes d)

/-- The counters in a queue's header. -/
def State.headerRange (s : State) (n : QReg) : List (Opd × Nat) := [(qOpd (qSp (s.readQ n)) (qBase (s.readQ n)), 8)]

/-- The ranges a load, `ldf`, `fqry` or `dread` reads, and an X-slot command's source (R312). -/
def State.readRanges (s : State) : Instr → List (Opd × Nat)
  | .lLd _ _ mem size _ => [(s.opd mem, 2 ^ size.toNat)]
  | .lVld _ _ mem => s.laneRanges (s.opd mem)
  | .lVldQueue _ _ n off _ _ =>
    let x := s.readQ n
    s.headerRange n ++ s.laneRanges (qOpd (qSp x) (slotAddr x ((s.drainCtr x + off.toNat) % qCount x)))
  | .lVlds _ _ mem stride size => s.longRanges mem (fun ea i => strideAddr ea (s.readS stride) i) fun _ => 2 ^ size.toNat
  | .lVgather _ _ mem x size => s.longRanges mem (fun ea i => s.indexAddr ea x i) fun _ => 2 ^ size.toNat
  | .lVsgather _ _ mem x =>
    s.longRanges mem (fun ea i => ea + BitVec.ofNat 64 ((s.readElems 32 x).getD i 0))
      fun i => min 4 ((s.readElems 32 (x + 1)).getD i 0 % 2 ^ 16)
  | .lVstQueue _ _ n _ _ _ => s.headerRange n
  | .lQadvp _ n _ _ => s.headerRange n
  | .lQadvc _ n _ _ => s.headerRange n
  | .lQqry _ _ n _ => s.headerRange n
  | .lQinit _ a _ _ _ _ => [(qOpd ((s.readS a).getLsbD 63) (wbits (s.readS a) 62 0), 8)]
  | .lCld _ _ mem => [(s.opd mem, 16)]
  | .lTld _ _ mem ss => s.tldRanges mem ss
  | .lLdf _ _ mem _ dbl => [(s.opd mem, dblBytes dbl)]
  | .lLdfTake _ _ mem _ dbl => [(s.opd mem, dblBytes dbl)]
  | .lFqry _ _ mem size => [(s.opd mem, feBytes size)]
  | .lDread _ _ mem _ _ => [((s.opd2 mem).block, 64)]
  | .xGet _ _ _ src len _ => [(s.xopd src, wbits (s.readS len) 39 0)]
  | .xPut _ _ _ src len _ => [(s.xopd src, wbits (s.readS len) 39 0)]
  | .xCopy _ _ _ src len _ => [(s.xopd src, wbits (s.readS len) 39 0)]
  | .xStage _ _ _ src len _ _ => [(s.xopd src, wbits (s.readS len) 39 0)]
  | .xSeal _ _ _ src len _ _ => [(s.xopd src, wbits (s.readS len) 39 0)]
  | .xSgather _ _ _ src len _ desc =>
    let o := s.xopd src
    let d0 := s.readS desc
    let d1 := s.readS (desc + 1)
    let cols := wbits d0 31 16 + 1
    match s.opdAttr o with
    | .inr _ => []
    | .inl (attr, _, _) =>
      let w := tyBits (BitVec.ofNat 4 (wbits attr 3 0))
      (natRange 0 (min (wbits (s.readS len) 39 0 * 8 / (cols * w)) (wbits d1 63 32))).map fun r =>
        (o.plus (r * wbits d0 63 32), (min cols (wbits d1 31 0) * w + 7) / 8)
  | _ => []

/-- The tag an X-slot operation waits for while it is HELD (R293). -/
def heldTag : Instr → Option (BitVec 6)
  | .xGet _ t _ _ _ _ => some t
  | .xPut _ t _ _ _ _ => some t
  | .xCopy _ t _ _ _ _ => some t
  | .xFill _ t _ _ _ _ _ => some t
  | .xStage _ t _ _ _ _ _ => some t
  | .xSeal _ t _ _ _ _ _ => some t
  | .xSgather _ t _ _ _ _ _ => some t
  | .xWait _ t => some t
  | _ => none

/-! ### Withheld entries by kind -/

/-- An element of a `vscadd` (R312). -/
def Entry.scatter (e : Entry) : Bool := match e.act with | .atom _ _ _ _ none => true | _ => false
def Entry.isSte (e : Entry) : Bool := match e.act with | .ste => true | _ => false
/-- A `drecycle` or a plain store (R321). -/
def Entry.cellWrite (e : Entry) : Bool := match e.act with | .drecycle _ => true | .store => true | _ => false

def isScatter : Instr → Bool
  | .lVscadd .. => true
  | _ => false

/-- Operations after whose bundle the boundary is forced (R275, R307, R355). -/
def forcesAfter : Instr → Bool
  | .lAadd .. => true
  | .lAmin .. => true
  | .lAmax .. => true
  | .lAminn .. => true
  | .lAmaxn .. => true
  | .lAand .. => true
  | .lAor .. => true
  | .lAxor .. => true
  | .lAxchg .. => true
  | .lAcas .. => true
  | .lAfadd .. => true
  | .lAinc .. => true
  | .lDprop .. => true
  | .lLdfTake .. => true
  | .lDsync _ => true
  | _ => false

/-- The worst case of Table 16.1. -/
def worstEntries : Instr → Nat
  | .lSt .. => 2
  | .lVst .. => 2
  | .lVstQueue .. => 2
  | .lSte .. => 1
  | .lStf .. => 1
  | .lFset .. => 1
  | .lFclr .. => 1
  | .lQadvp .. => 1
  | .lQadvc .. => 1
  | .lBrel .. => 1
  | .lDrecycle .. => 1
  | .lVsts .. => 64
  | .lVscatter .. => 64
  | .lVscadd .. => 64
  | .lTst .. => 128
  | i => if forcesAfter i && (match i with | .lDsync _ => false | _ => true) then 1 else 0

/-! ### The boundary before a bundle -/

/-- An L- or X-slot operation waits in the queues, or something is withheld or held: what a fence or a `qadvp` may meet. -/
def State.memoryAround (s : State) : Bool :=
  !s.ctx.buffer.isEmpty || (s.ctx.queue.any fun p => p.id.slot == .l || p.id.slot == .x) || (s.ctx.tags.any fun t => t.2.st == .held)
    || s.core.drains.any fun d => d.slot == s.slotNum && d.held

def State.scatterAround (s : State) : Bool := s.ctx.buffer.any Entry.scatter || s.ctx.queue.any fun p => isScatter p.instr

def State.callsAhead (s : State) : Nat := s.ctx.serial + (s.ctx.queue.filter fun p => isCall p.instr).length

/-- A fill of the context that has not read its lines. -/
def TileEntry.unread (t : TileEntry) : Bool := t.st != .empty && !t.filled

/-- An operation that may wait for a call or a fill: `mwait`, a `tld`, and one that reads the mp7 of a SAMPLE call (R182, R189, R222). -/
def State.awaitsFill (s : State) (i : Instr) : Bool :=
  (match i with
    | .mWait .. => true
    | .lTld _ t _ _ => (s.ctx.tile t).st != .empty
    | _ => meets [.mp 7] (opReads i) && s.records.any fun r => r.reads)
  && s.ctx.tiles.toList.any TileEntry.unread

/-- Whether an operation may force the boundary before its bundle; such a bundle waits until what that depends on is settled (log 15). -/
def State.mayForce (s : State) (i : Instr) : Bool :=
  s.awaitsFill i ||
  match i with
  | .lQadvp .. => s.memoryAround
  | .lFence .. => s.memoryAround
  | .lDsync _ => true
  | .lDread .. => s.memoryAround
  | .lLdf .. => s.memoryAround
  | .lLdfTake .. => s.memoryAround
  | .lFqry .. => s.memoryAround
  | .lTst .. => !s.core.drains.isEmpty || s.ctx.queue.any fun p => match p.instr with | .lTst .. => true | _ => false
  | .mCall .. => decide (s.callsAhead ≥ 8)
  | .mZero .. => decide (s.callsAhead ≥ 8)
  | .cBreak _ => s.ctx.debug && !s.ctx.breakOnce
  | i =>
    ((heldTag i).isSome && ((s.ctx.tags.any fun t => tagBusy t.2) || s.ctx.queue.any fun p => p.id.slot == .x))
      || (s.scatterAround && !(s.readRanges i).isEmpty)

/-- The forced checkpoint that an operation asks of the boundary before its bundle. What waits for a running copy command, or for a fill,
that itself waits for withheld stores forces one too: else the context would stand for ever (DEDUCED, log 72). A `tst` that finds both
drain buffers with drains of the other slot's context forces nothing in either context and waits: the manual speaks of one context's own
(DESIGN CHOICE, log 80). -/
def State.forcedBy (s : State) (i : Instr) : Option CommitReq :=
  let forced : Option CommitReq := some ⟨true, false, false, false, false⟩
  if s.awaitsFill i && s.ctx.tiles.toList.any (fun t => t.unread && s.fillLater t) then forced else
  let full : Option CommitReq := some ⟨true, true, false, false, false⟩
  let scatter := s.meetsWithheld Entry.scatter
  match i with
  | .lDsync _ => forced
  | .cBreak _ => if s.ctx.debug && !s.ctx.breakOnce then forced else none
  | .mCall .. => if s.ctx.serial ≥ 8 then full else none
  | .mZero .. => if s.ctx.serial ≥ 8 then full else none
  | .lTst .. =>
    if decide (s.core.drains.length ≥ 2) && s.core.drains.all (fun d => d.held) && s.core.drains.any (fun d => d.slot == s.slotNum) then full
    else none
  | .lFence _ mask scope kind =>
    let covered := fun (c : BitVec 4) => c == 0 || mask.getLsbD c.toNat
    let store := (s.ctx.buffer.any fun e => e.isStore && covered e.cls)
      || s.core.drains.any fun d => d.slot == s.slotNum && d.held && covered d.cls
    let held := s.ctx.tags.any fun t => t.2.st == .held && covered t.2.cls
    if (kind == 3 && store) || (kind.getLsbD 1 && decide (3 ≤ scope.toNat) && (store || held)) then forced else none
  | .lQadvp _ n _ cls =>
    let x := s.readQ n
    if s.slotsHeld x cls || scatter (s.readRanges i) then forced else none
  | .lLdfTake .. => if scatter (s.readRanges i) || s.meetsWithheld Entry.isSte (s.readRanges i) then forced else none
  | .lLdf .. => if scatter (s.readRanges i) || s.meetsWithheld Entry.isSte (s.readRanges i) then forced else none
  | .lFqry .. => if scatter (s.readRanges i) || s.meetsWithheld Entry.isSte (s.readRanges i) then forced else none
  | .lDread .. => if scatter (s.readRanges i) || s.meetsWithheld Entry.cellWrite (s.readRanges i) then forced else none
  | i =>
    let held := match heldTag i with
      | some t => (match s.ctx.tag t.toNat with | some c => c.st == .held || (c.st == .running && s.copyHeld c) | none => false)
      | none => false
    if held || scatter (s.readRanges i) then forced else none

def mergeReq (a b : Option CommitReq) : Option CommitReq :=
  match a, b with
  | none, b => b
  | a, none => a
  | some a, some b => some ⟨a.forced || b.forced, a.full || b.full, a.dsync || b.dsync, a.exit || b.exit, a.keep && b.keep⟩

/-- An operation's predicate holds. -/
def State.opHolds (s : State) (i : Instr) : Bool := match opPred i with | some q => s.holds q | none => true

/-- The free entries fall short of what the L operations on their way and the bundle's own may take (R400). -/
def State.shortage (s : State) (b : Bundle) : Bool :=
  decide (256 < s.ctx.buffer.length + (s.ctx.queue.map fun p => worstEntries p.instr).sum + (b.ops.map fun o => worstEntries o.2).sum)

/-- The commit of the boundary before a bundle, if it is to commit (R376, R396, R400). -/
def State.wish (s : State) (b : Bundle) : Option CommitReq :=
  let own : Option CommitReq := if b.ck then some ⟨false, false, false, false, false⟩ else none
  let inval : Option CommitReq := if s.ctx.intact then none else some ⟨true, false, false, false, false⟩
  let short : Option CommitReq := if s.shortage b then some ⟨true, true, false, false, false⟩ else none
  b.ops.foldl (fun r o => if s.mayForce o.2 && s.opHolds o.2 then mergeReq r (s.forcedBy o.2) else r) (mergeReq own (mergeReq inval short))

/-! ### Readiness -/

/-- The context's own trap record waits for its ring: it stays stopped after its rollback (R448). -/
def State.trapWaits (s : State) : Bool :=
  s.pkg.events.any fun e => e.1 == s.ctx.info.part.toNat && leField e.2 0 1 == 1 && leField e.2 2 2 == s.coreNum.toNat
    && leField e.2 16 8 == s.ctx.trapRec[0].toNat

/-- The context may fetch its next bundle: it issues, nothing stops it, no boundary waits to commit, the bound of 16 bundles allows
it (R37), no operation that forces the boundary after its bundle waits, and no undispatched `vskip` stands before its two
delay slots (R158). -/
def State.mayFetch (s : State) : Bool :=
  let c := s.ctx
  c.live && c.issuable && !c.parked && c.hold == .no && c.trap.isNone && c.commit.isNone && c.endCkpt.isNone && c.fault.isEmpty
    && (c.queue.all fun p => decide (c.seq < p.id.seq + 16) && !forcesAfter p.instr && (!isSkip p.instr || decide (c.seq < p.id.seq + 3)))
    && !s.trapWaits

def isMprog : Instr → Bool
  | .mProg .. => true
  | _ => false

/-- What the forced boundary before an operation depends on is settled: its registers, the memory operations and the calls before it, and
for the lanes of a vector access the mask stack. -/
def State.forceSettled (s : State) (i : Instr) : Bool :=
  s.ctx.regsReady s.ctx.seq i && s.ctx.queue.all fun p =>
    p.id.slot != .l && p.id.slot != .x && !isCall p.instr && !(usesMask i && isMaskOp p.instr)

/-- A fetched bundle may be dispatched, or its boundary asked to commit. -/
def State.bundleReady (s : State) (b : Bundle) : Bool :=
  let c := s.ctx
  let idle := c.queue.isEmpty
  (!(bundleTransfers b) || c.queue.all fun p => !isSkip p.instr)
    && (!(b.ops.any fun o => isMcall o.2) || c.queue.all fun p => !isMprog p.instr)
    && (!(b.ck || b.pp || c.stepping) || idle) && (b.ops.all fun o => !s.mayForce o.2 || s.forceSettled o.2)
    && (match b.ops.find? fun o => o.1 == .c with
        | some (_, i) => c.regsReady c.seq i && c.queue.all fun p => !b.sync.getLsbD p.id.slot.toNat
        | none => true)

/-- The context in focus has a bundle ready, or a decode fault of it. With pre-emption asked for, it goes no further than the first
qualifying boundary (R342, R413). -/
def State.hasBundle (s : State) : Bool :=
  s.mayFetch && !(s.ctx.preempt && s.qualifies) &&
  match s.fetch with
  | .error (_, h) => !(h.info.code == 0x06 && h.slot == 4) || s.ctx.queue.all fun p => !isMprog p.instr
  | .ok (t, b) => t.bundleReady b

/-- The other context of the core has one. -/
def State.peerHasBundle (s : State) : Bool := (s.focus s.coreNum (!s.slotNum)).hasBundle

/-- The current context goes first (R26), unless it has yielded to the other (R337). -/
def State.canDispatch (s : State) : Bool :=
  s.hasBundle &&
    (if s.ctx.yielded then !s.peerHasBundle
     else s.slotNum == s.core.current || s.peer.yielded || !s.peerHasBundle)

/-! ### Dispatch -/

def stateOf (s : State) : Out → State
  | .next t => t
  | _ => s

/-- The C operation of a bundle takes effect as its bundle dispatches (R35, R327). -/
def State.runC (s : State) (i : Instr) : State :=
  match i with
  | .cNop q => stateOf s (execCNop q s)
  | .cBr q o => stateOf s (execCBr q o s)
  | .cCall q o => stateOf s (execCCall q o s)
  | .cRet q => stateOf s (execCRet q s)
  | .cBrs q r => stateOf s (execCBrs q r s)
  | .cCalls q r => stateOf s (execCCalls q r s)
  | .cLoop q r e => stateOf s (execCLoop q r e s)
  | .cLoopi q n e => stateOf s (execCLoopi q n e s)
  | .cLbreak q => stateOf s (execCLbreak q s)
  | .cLnext q => stateOf s (execCLnext q s)
  | .cYield q => stateOf s (execCYield q s)
  | .cTrap q code => stateOf s (execCTrap q code s)
  | .cExit q => stateOf s (execCExit q s)
  | .cBreak q => stateOf s (execCBreak q s)
  | _ => s.passBundle

/-- The operations of a bundle as they enter the queues. Under single-stepping each bundle has every sync bit and drains (R412). -/
def State.queueOps (s : State) (b : Bundle) : List PendOp :=
  let lidx := s.ctx.regs.loops.map fun (e : LoopEntry) => e.index
  let step := s.ctx.stepping
  b.ops.map fun o => ⟨⟨s.ctx.seq, o.1, s.ctx.regs.pc, lidx⟩, o.2, if step then BitVec.allOnes 6 else b.sync, b.ck || b.pp || step⟩

/-- The bundle leaves fetch: its operations enter the queues of their slots. -/
def State.enter (s : State) (ops : List PendOp) : State :=
  { s with
    ctx := { s.ctx with
      queue := s.ctx.queue ++ ops
      saved := s.ctx.saved.filter fun e => s.ctx.queue.any fun p => p.id.seq == e.1
      atCkpt := false
      ppPoint := false
      backPoint := false
      yielded := false
      seq := s.ctx.seq + 1 }
    peer := { s.peer with yielded := false } }

/-- Dispatch a bundle: its operations other than the C operation are queued, and the C operation runs at once. -/
def State.dispatch (s : State) (b : Bundle) : State :=
  let ops := s.queueOps b
  let t := s.enter (ops.filter fun p => p.id.slot != .c)
  match ops.find? fun p => p.id.slot == .c with
  | some p => ({ t with cur := some p } : State).runC p.instr
  | none => ({ t with cur := none } : State).passBundle

/-- Fetch's own step: the boundary before the bundle is to commit first, or the bundle dispatches, or a decode fault is held. -/
def State.nextBundle (s : State) : State :=
  if s.ctx.stepping && !s.ctx.atCkpt then s.mapCtx fun c => { c with endCkpt := some ⟨false, false, false, false, false⟩ }
  else
    match s.fetch with
    | .error (t, h) => t.hold h
    | .ok (t, b) =>
      match (if t.ctx.atCkpt then none else t.wish b) with
      | some r => t.mapCtx fun c => { c with endCkpt := some r }
      | none => t.dispatch b

def execEvBundleDispatch (s : State) : Out := .next (if s.canDispatch then s.nextBundle else s)

end Sys2Proof.Machine
end

