-- ==== Sys2Proof/Machine/Agents.lean ====
section
/-! DEFINITION. Agents.lean: which acts may come next, which acts may arrive from outside, and one step over any meaning of the
instructions (R5, R26, R37, R38, R402; log 1, log 2). -/
namespace Sys2Proof.Machine

/-- The meaning of every instruction, as the step takes it. -/
abbrev Exec := Instr → State → Out

/-- Perform an act: at its core and slot, its operation out of the queue and at work, its data at hand. At the dispatch of a mask-stack
instruction, whatever its predicate, the stack stays as it stood for the operations of its bundle (R156). -/
def State.perform (exec : Exec) (s : State) (a : Act) : Out :=
  let t := s.focus a.core a.slot
  let q := match a.op with
    | some o => t.ctx.queue.filter fun p => p.id != o.id
    | none => t.ctx.queue
  let t : State := { t with ctx := { t.ctx with queue := q, paged := t.ctx.paged && a.op.isNone }, cur := a.op, arg := a.arg }
  exec a.instr (if isMaskOp a.instr then t.keep (.mask t.ctx.regs.mstk t.ctx.regs.mdep) else t)

/-- The state after an act, as a trial. -/
def State.after? (exec : Exec) (s : State) (a : Act) : Option State :=
  match s.perform exec a with
  | .next t => some t
  | _ => none

/-- An event of the context in focus. -/
def State.ev (s : State) (i : Instr) (x : EventData := noEventData) : Act := ⟨s.coreNum, s.slotNum, i, none, x⟩

/-- An act that a test offers. -/
def offer (c : Bool) (a : Act) : List Act := if c then [a] else []

/-- An act that changes what `f` sees, or stops the machine. -/
def State.changing {α : Type} [DecidableEq α] (exec : Exec) (f : State → α) (s : State) (a : Act) : List Act :=
  match s.after? exec a with
  | none => [a]
  | some t => if f t = f (s.focus a.core a.slot) then [] else [a]

/-! ### The operations of the slot queues -/

/-- An earlier place in the order of R402 than the trap held. -/
def beforeTrap (h : Held) (o : PendOp) : Bool :=
  decide (o.id.seq < h.seq) || (o.id.seq == h.seq && decide (o.id.slot.toNat + 1 < h.rank))

/-- An earlier SAMPLE call that has not ended owes mp7 (R222). -/
def State.owesMp7 (s : State) (o : PendOp) : Bool :=
  meets [.mp 7] (opReads o.instr ++ opWrites o.instr) && s.records.any fun r => r.reads && decide (r.op.seq < o.id.seq)

/-- What an operation that does not dispatch may still change: the pages asked for, its wait, its phase arrival, its request, the elements
of a long op. -/
def stirred (t : State) : List Lease × Option OpId × Option (BitVec 12) × Option RemoteWait × Option LongOp :=
  (t.pkg.leases, t.ctx.waiting, t.ctx.arrived, t.ctx.remote, t.ctx.longOp)

/-- A trial dispatches the operation: it no longer stands in the queue. -/
def dispatches (o : PendOp) (t : State) : Bool := t.ctx.queue.all fun p => p.id != o.id

def State.opAct (s : State) (o : PendOp) : Act := ⟨s.coreNum, s.slotNum, o.instr, some o, noEventData⟩

/-- R37, R38 and R402: the operation may dispatch. -/
def State.queuedReady (s : State) (o : PendOp) : Bool :=
  s.ctx.opReady o && !s.owesMp7 o
    && (match s.ctx.remote with | some r => r.op.id != o.id | none => true)
    && (match s.ctx.trap with | some h => beforeTrap h o | none => true)

/-- The operation dispatches, or its attempt starts something: with a trap held only a request for a page or another package's reply
(R402). -/
def State.opProgress (exec : Exec) (s : State) (o : PendOp) : Bool :=
  match s.after? exec (s.opAct o) with
  | none => true
  | some t => dispatches o t || (stirred t != stirred s && (s.ctx.trap.isNone || t.ctx.paged || (t.ctx.remote != s.ctx.remote && t.ctx.waiting != some o.id)))

/-- A SAMPLE call that an operation waits for comes to its end of its own: nothing it needs waits for this context to commit or to
dispatch. -/
def State.mp7Comes (s : State) : Bool :=
  (s.records.any fun r => r.reads && s.mp7Free r) && !s.ctx.tiles.toList.any fun t => t.unread && s.fillLater t

/-- An operation before the trap held will have its registers ready, or what it reads, and then dispatch (R402): after a remote load's reply, a
page of the pool, or a SAMPLE call's mp7. -/
def State.awaitsReady (exec : Exec) (s : State) (h : Held) : Bool :=
  (match s.ctx.remote with
    | some r => beforeTrap h r.op && s.ctx.waiting != some r.op.id
    | none => false)
  || s.ctx.queue.any fun o => beforeTrap h o && s.ctx.opReady o &&
    if s.owesMp7 o then s.mp7Comes
    else match s.after? exec (s.opAct o) with
      | some t => !dispatches o t && t.ctx.paged
      | none => false

/-- The operations that may dispatch now. One in a tagged wait first has its wait end (R365). -/
def State.opActs (exec : Exec) (s : State) : List Act :=
  s.ctx.queue.flatMap fun o =>
    if !s.queuedReady o then []
    else if s.ctx.waiting = some o.id then
      let t := s.mapCtx fun c => { c with waiting := none }
      offer (match t.after? exec (t.opAct o) with | none => true | some u => dispatches o u) (s.ev .evTaggedWaitSatisfied)
    else offer (s.opProgress exec o) (s.opAct o)

/-! ### A context -/

/-- The boundary commits, or a commit goes on once a withheld entry that is next may be released (R397). -/
def State.commitReady (s : State) : Bool :=
  match s.ctx.commit, s.ctx.endCkpt with
  | some _, _ => s.ctx.buffer.isEmpty || s.releaseFirst.isSome
  | none, some _ => s.ctx.queue.isEmpty && s.ctx.trap.isNone && s.ctx.fault.isEmpty && s.ctx.hold == .no
  | none, none => false

/-- The trap held is taken once no slot can dispatch further, now or once what its operations before the trap wait for has come (R402), and after a commit in progress but for one that has timed out (R397,
log 63). -/
def State.trapReady (exec : Exec) (s : State) : Bool :=
  (match s.ctx.trap with
    | some h => (s.ctx.commit.isNone || (h.info.code == 0x34 && s.ctx.tagged.isSome)) && !s.awaitsReady exec h
    | none => false)
  && (s.opActs exec).isEmpty

def State.faultReady (s : State) : Bool :=
  s.ctx.live && s.ctx.issuable && !s.ctx.fault.isEmpty && s.ctx.hold != .held && !s.ctx.parked && s.ctx.commit.isNone && s.ctx.trap.isNone

/-- Pre-emption by rollback at once: in a tagged wait or held (R413). -/
def State.rollbackDue (s : State) : Bool :=
  s.ctx.live && s.ctx.issuable && s.ctx.preempt && !s.ctx.parked &&
    (s.ctx.tagged.isSome || (s.ctx.commit.isNone && s.ctx.hold == .held))

/-- The launch here is resident and its context is not yet issuable. -/
def State.settingUp (s : State) : Bool :=
  s.ctx.live && !s.ctx.issuable && (match s.launchHere with | some l => l.st == .resident | none => false)

def State.savedHere (s : State) : Bool :=
  match s.launchHere with
  | some l => s.pkg.saved.any fun v => v.part == l.part && v.launchId == l.id && v.core == s.coreNum
  | none => false

def windowNos : List (BitVec 4) := (natRange 0 16).map (BitVec.ofNat 4)
def allTileRegs : List TReg := (natRange 0 32).map (BitVec.ofNat 5)

def State.answersHere (s : State) : List Act :=
  if s.pkg.acks.isEmpty then []
  else windowNos.flatMap fun w =>
    offer (s.pkg.acks.any (forWindow w .accepted s.coreNum s.ctx.info.launchId)) (s.ev .evWriteAcceptance { noEventData with window := w })
    ++ offer (s.pkg.acks.any (forWindow w .bound s.coreNum s.ctx.info.launchId)) (s.ev .evRemoteBoundReply { noEventData with window := w, ok := true })

def State.fillActs (exec : Exec) (s : State) : List Act :=
  allTileRegs.flatMap fun t =>
    if !s.filling t then []
    else match s.fillTile t with
      | .inr (.fault _) => [s.ev .evTileFillFault { noEventData with tile := t }]
      | .inr _ => s.changing exec (fun u => u.pkg.leases) (s.ev .evTileFillComplete { noEventData with tile := t })
      | .inl _ => [s.ev .evTileFillComplete { noEventData with tile := t }]

/-- Running copy commands that can go on: with all that is left, or with one piece that a free value picks (R246). -/
def State.copyActs (exec : Exec) (s : State) : List Act :=
  s.ctx.tags.flatMap fun t =>
    if t.2.st != .running then []
    else
      let x : EventData := { noEventData with tag := BitVec.ofNat 6 t.1 }
      [{ x with last := true }, { x with off := BitVec.ofNat 64 (Config.freeNat s.clock) }].flatMap fun y =>
        s.changing exec (fun u => (u.ctx.tags, u.pkg.leases)) (s.ev .evCopyComplete y)

/-- A launch that holds the context in focus may complete on its core (R256). -/
def State.completes (s : State) : Bool := s.coreDone && s.launchHere.isSome

/-- The acts of the live context in focus. -/
def State.ctxActs (exec : Exec) (s : State) : List Act :=
  s.opActs exec
  ++ offer s.canDispatch (s.ev .evBundleDispatch)
  ++ offer s.commitReady (s.ev .evCheckpointCommit)
  ++ offer (s.trapReady exec) (s.ev .evTrapRollback)
  ++ offer s.faultReady (s.ev .evAsyncFaultReport)
  ++ offer s.canPark (s.ev .evPreemptByBoundary)
  ++ offer s.rollbackDue (s.ev .evPreemptByRollback)
  ++ offer (s.ctx.parked && (match s.launchHere with
      | some l => l.st == .resident && l.left.all fun (c, sl) => (s.focus c sl).canSave
      | none => false)) (s.ev .evContextSave)
  ++ offer (s.settingUp && s.savedHere) (s.ev .evContextRestore { noEventData with ok := true })
  ++ (if s.settingUp && !s.savedHere then
        s.changing exec (fun t => (t.pkg.logs, t.ctx.issuable)) (s.ev .evLaunchIssuable) else [])
  ++ s.answersHere
  ++ s.fillActs exec
  ++ s.copyActs exec
  ++ offer (s.core.drains.any fun d => d.slot == s.slotNum && (d.reading || s.drainReady d)) (s.ev .evAccDrainDone)
  ++ offer s.completes (s.ev .evLaunchComplete)

/-! ### A core -/

/-- The micro-word that is next, `mend` where the store holds none (R192). -/
def State.microWord (s : State) (m : MicroRun) : Instr := (s.homeOf m.mrec).ctx.micro.word m.mpc

/-- The act of the engine's run. -/
def State.runActs (exec : Exec) (s : State) (m : MicroRun) : List Act :=
  let r := m.mrec
  if m.fault.isSome then [s.ev .evMatrixCallComplete]
  else if r.accOff ≥ r.count then offer ((s.homeOf r).mp7Free r) (s.ev .evMatrixCallComplete)
  else if m.atEnd then [s.ev .evMicroTileCommit]
  else s.changing exec (fun t => (t.core.run, t.pkg.leases)) (s.ev (s.microWord m))

/-- A migrated record goes home at a micro-tile boundary before anything else (R204). -/
def State.engineActs (exec : Exec) (s : State) : List Act :=
  if s.goesHome.isSome then [s.ev .evMigrationReturn]
  else
    match s.core.run, s.core.engine with
    | some m, _ => s.runActs exec m
    | none, r :: _ => offer (s.canStart r) (s.ev .evMatrixRecordStart)
    | none, [] => []

/-- The acts of the core in focus. -/
def State.coreActs (exec : Exec) (s : State) : List Act :=
  s.engineActs exec ++ offer (recvNext s.core [] s.core.recvq).isSome (s.ev .evReceiveQueuePerform)

/-! ### A partition and the package -/

def State.launchActs (exec : Exec) (s : State) (p : Nat) : List Act :=
  let x : EventData := { noEventData with p := BitVec.ofNat 3 p }
  (s.pkg.launches.filter fun l => l.part == p).flatMap fun l =>
    let y : EventData := { x with launch := l.id }
    (if l.st == .loading then s.changing exec (fun t => t.pkg) (s.ev .evDictionaryLoad y) else [])
    ++ offer (l.st == .flushing && s.flushDue l && s.flushQuiet l) (s.ev .evReleaseFlush y)

/-- The event of a host command's operation (R447). -/
def commandOf : Nat → Option Instr
  | 1 => some .evResume
  | 2 => some .evKill
  | 3 => some .evPreempt
  | 4 => some .evStepOn
  | 5 => some .evStepOff
  | 6 => some .evCancel
  | 7 => some .evInvalVa
  | 8 => some .evInvalAsid
  | 9 => some .evInvalS2
  | 10 => some .evMboxOpen
  | 11 => some .evMboxClose
  | 12 => some .evSchedule
  | _ => none

/-- The command at the head of a ring; one that invalidates waits for the contexts it drives out (R376), and KILL for the completion record of
a launch that has completed (R447). -/
def State.commandActs (s : State) (p : Nat) : List Act :=
  if !s.cmdWaits p then []
  else
    let pid := ((s.partAt p).map fun (d : PartDesc) => d.pid).getD 0
    let stuck := s.pkg.inval.getLsbD p && !s.drivenOut pid
      && s.contexts.all fun x => x.2.2.info.pid != pid || x.2.2.intact || x.2.2.waiting.isNone
    let c := s.cmdBytes p
    let ends := leField c 0 4 == 2 && (s.cmdLaunch p c).isNone && s.finishing p c
    match commandOf (leField c 0 4) with
    | some i => offer (!stuck && !ends) (s.ev i { noEventData with p := BitVec.ofNat 3 p })
    | none => []

def State.lossDue (s : State) (p : Nat) : Bool := s.pkg.losses.any fun l => l.1 == p

/-- The acts of the command processor and the Proofer on a partition's schedule. -/
def State.stepActs (exec : Exec) (s : State) (p : Nat) : List Act :=
  let x : EventData := { noEventData with p := BitVec.ofNat 3 p, now := s.pkg.now }
  offer (s.lossDue p) (s.ev .evStepLost x)
  ++ (match s.schedule p with
    | none => []
    | some c =>
      s.changing exec (fun t => (t.pkg.schedule, t.pkg.leases, t.pkg.losses)) (s.ev .evStepCurrent x)
      ++ (if c.next.isNone then s.changing exec (fun t => (t.pkg.schedule, t.pkg.leases)) (s.ev .evScheduleReread x) else [])
      ++ s.changing exec (fun t => (t.pkg.schedule, t.pkg.leases)) (s.ev .evProoferPrefetch x)
      ++ (match c.current with
        | none => []
        | some a =>
          offer (!a.opened && s.leasesLive p a.record && !s.lossDue p) (s.ev .evStepRerunCheck x)
          ++ offer (a.opened && (s.stepLaunches p a.record).isEmpty && !s.lossDue p) (s.ev .evStepCommit x)))

/-- An ATS invalidation completes once what used the translation has gone (R395). -/
def State.atsActs (s : State) : List Act :=
  s.pkg.atsWait.flatMap fun (pid, page) =>
    offer (s.drivenOut pid || s.contexts.any fun x => x.2.2.info.pid == pid && !x.2.2.intact && x.2.2.waiting.isSome)
      (s.ev .evAtsInvalidation { noEventData with pid := pid, base := BitVec.ofNat 64 (page % 2 ^ 35), ok := true })

/-- A record of the partition's sources that can be written or dropped now (R448). -/
def State.eventReady (s : State) (p : Nat) : Bool :=
  s.pkg.events.any fun e => e.1 == p && !(s.pkg.stopped && leField e.2 0 1 == 4) && !s.pkg.afterCmpl e && (!s.evtFull p || droppable e)

/-- The acts of the command processor on a partition; a stopped one acts on none (R442). -/
def State.partActs (exec : Exec) (s : State) (p : Nat) : List Act :=
  let x : EventData := { noEventData with p := BitVec.ofNat 3 p }
  offer (s.eventReady p) (s.ev .evEventRecordWrite x)
  ++ (match s.partAt p with
    | some d => offer (s.frozenBroken p) (s.ev .evTdiError { x with pid := d.pid })
    | none => [])
  ++ (if s.pkg.stopped || (s.partAt p).isNone then []
    else
      (match s.pkg.sched.toList[p]? with
        | some (d : Sched) =>
          offer (decide (d.due > 0)) (s.ev .evDispatchDecision x)
          ++ (if d.first.isSome then s.changing exec (fun t => t.pkg.launches) (s.ev .evPriorityPreempt x) else [])
        | none => [])
      ++ s.launchActs exec p
      ++ ((s.pkg.cancels.filter fun c => c.part == p).map fun c => s.ev .evCancellation { x with token := c.token, raiser := some c.launch })
      ++ s.commandActs p
      ++ s.stepActs exec p)

/-- A record waits in a mailbox (R346). -/
def State.mboxActs (s : State) (m : Nat) : List Act :=
  offer (!s.pkg.stopped && s.pkg.mboxOpen.getLsbD m && (s.mboxPart m).isSome && s.recordWaits m)
    (s.ev .evLaunchRecord { noEventData with mbox := BitVec.ofNat 8 m })

/-- The acts that a lease's state allows (Table 17.2). -/
def State.leaseActs (exec : Exec) (s : State) (l : Lease) : List Act :=
  let x : EventData := { noEventData with obj := l.obj, page := l.page, now := s.pkg.now }
  (if l.st == .rpend then s.changing exec (fun t => t.pkg.leases) (s.ev .evReadLeaseGrant x) else [])
  ++ (if l.st == .wpend then s.changing exec (fun t => (t.pkg.leases, t.pkg.losses, t.pool)) (s.ev .evWriteLeaseGrant x) else [])
  ++ offer (l.ask && (l.st == .read || l.st == .write) && !s.pkg.pageOut l.obj l.page.toNat) (s.ev .evRenewalGrant x)
  ++ offer ((l.st == .read || l.st == .write) && decide (l.d ≤ s.pkg.now)) (s.ev .evLeaseDeadline x)
  ++ offer (s.arriving l) (s.ev .evPoolPageArrival x)

/-- The pages that puts wait for, each once. -/
def State.putPages (s : State) : List (BitVec 48 × BitVec 32) :=
  (s.pkg.puts.map fun p => (p.obj, BitVec.ofNat 32 (p.off / 2 ^ 16))).eraseDups

def State.putActs (exec : Exec) (s : State) : List Act :=
  s.putPages.flatMap fun (obj, page) =>
    s.changing exec (fun t => t.pkg.puts) (s.ev .evPutAcknowledge { noEventData with obj := obj, page := page, now := s.pkg.now })

/-- A write on its way that may perform and that its target takes now. -/
def State.wireActs (s : State) : List Act :=
  s.pkg.wire.flatMap fun w =>
    offer (s.wireReady w && ((s.mapPkg fun k => { k with wire := k.wire.erase w }).deliverWrite w).isSome)
      (s.ev .evRemoteWriteArrival { noEventData with write := some w })

def State.requestActs (exec : Exec) (s : State) : List Act :=
  s.pkg.requests.flatMap fun r =>
    s.changing exec (fun t => t.pkg.requests) (s.ev .evRemoteRequestArrival { noEventData with request := some r })

/-- What waits on a link that is lost is ended (R438). -/
def State.linkActs (exec : Exec) (s : State) : List Act :=
  (natRange 0 32).flatMap fun i =>
    if (s.pkg.links.toList[i]?.map fun (l : Link) => l.lost) == some true then
      s.changing exec id (s.ev .evLinkLost { noEventData with link := BitVec.ofNat 5 i })
    else []

/-- A gated cluster is woken for a launch that is placed on it (R451). -/
def State.wakeActs (s : State) : List Act :=
  if s.pkg.gated = 0 then []
  else (natRange 0 32).flatMap fun c =>
    offer (s.pkg.gated.getLsbD c && s.pkg.launches.any fun l => l.st == .loading && l.place.any fun x => x.1.toNat / 4 == c)
      (s.ev .evClusterWake { noEventData with cluster := BitVec.ofNat 5 c })

def State.pkgActs (exec : Exec) (s : State) : List Act :=
  (natRange 0 8).flatMap (s.partActs exec)
  ++ (natRange 0 16).flatMap s.mboxActs
  ++ s.pkg.leases.flatMap (s.leaseActs exec)
  ++ s.putActs exec ++ s.wireActs ++ s.requestActs exec ++ s.linkActs exec ++ s.wakeActs ++ s.atsActs

/-- A queue of a cluster has become empty: its engines consider migration at once (R363). -/
def State.migrateActs (s : State) : List Act :=
  s.coreList.flatMap fun c =>
    let b := (s.boxOf c).core
    offer b.consider ((s.focus c b.current).ev .evMatrixMigrate)

/-- Every act that may come next of its own. -/
def State.readyActs (exec : Exec) (s : State) : List Act :=
  if !s.migrateActs.isEmpty then s.migrateActs
  else
  (s.contexts.flatMap fun (c, sl, _) => (s.focus c sl).ctxActs exec)
  ++ (s.coreList.flatMap fun c =>
      let b := (s.boxOf c).core
      (s.focus c (match b.run with | some m => m.mrec.slot | none => b.current)).coreActs exec)
  ++ s.pkgActs exec

/-! ### What arrives from outside (INVENTORY.md, Host interface) -/

/-- Events that reach the machine from the host, another package, the fabric, the sensors, the clock, or a fault of the hardware, and
those whose moment the manual leaves to the hardware: evictions, probes, timeouts. An act of the command processor cannot
come while it is stopped (R442). -/
def State.admits (s : State) (a : Act) : Bool :=
  match a.instr with
  | .evPackageReset => true
  | .evRegisterWrite => true
  | .evClkcapWrite => true
  | .evClockStepChange => true
  | .evThermalTrip => true
  | .evTelemetrySample => true
  | .evClusterGate => true
  | .evLinkReset => true
  | .evEventRingConsume => true
  | .evCancellation => !s.pkg.stopped && a.arg.raiser.isNone
  | .evPreemptByRollback => true
  | .evContextRestore => !a.arg.ok
  | .evRemoteWriteArrival => match a.arg.write with | some w => !s.onWire w && (w.pkg != s.pkg.num || w.group.isSome) | none => false
  | .evWriteAcceptance => true
  | .evRemoteBoundReply => true
  | .evPhaseArrival => true
  | .evWaitTimeout => true
  | .evHostInboundWrite => true
  | .evSectorEvictWriteback => true
  | .evHomeProbe => true
  | .evCopyComplete => match a.arg.copyEnd with | .done d => !d.isEmpty | .linkLost => true | _ => false
  | .evLeaseRenewal => true
  | .evReadLeaseGrant => true
  | .evLeaseRetry => true
  | .evWriteLeaseGrant => true
  | .evRenewalGrant => true
  | .evLeaseFenced => true
  | .evPutAcknowledge => true
  | .evPoolCacheEvict => true
  | .evStepCommit => !s.pkg.stopped
  | .evStepRerunCheck => !s.pkg.stopped
  | .evFlitReceive => true
  | .evNakReceive => true
  | .evReplayTimeout => true
  | .evLaneErrorThreshold => true
  | .evLaneRetrainEnd => true
  | .evStrandLoss => true
  | .evStrandReturn => true
  | .evLinkLost => true
  | .evUncorrectableError => true
  | .evAtsInvalidation => true
  | .evGetVersion => true
  | .evGetCapabilities => true
  | .evNegotiateAlgorithms => true
  | .evGetDigests => true
  | .evGetCertificate => true
  | .evChallenge => true
  | .evGetMeasurements => true
  | .evKeyExchange => true
  | .evFinish => true
  | .evHeartbeat => true
  | .evKeyUpdate => true
  | .evEndSession => true
  | .evSetCertificate => true
  | .evGetCsr => true
  | .evChunkSend => true
  | .evChunkGet => true
  | .evUnsupportedRequest => true
  | .evOwnerAuth => true
  | .evSetKey => true
  | .evClearKey => true
  | .evLockInterface => true
  | .evStopInterface => true
  | .evTdiError => true
  | .evTdiRun => true
  | .evIdeKm => true
  | .evRemoteRequestArrival => true
  | .evRemoteReply => true
  | .evPatrolScrub => true
  | _ => false

/-! ### One step -/

/-- The act that comes next of its own: the only one ready, or one of several as the hardware chooses (R5, log 2). -/
def State.nextAct (exec : Exec) (s : State) : Option Act :=
  match s.readyActs exec with
  | [] => none
  | [a] => some a
  | a :: l => some ((a :: l).getD (Config.choose s.clock % (l.length + 1)) a)

/-- One step over a meaning of the instructions: what arrives from outside goes first; else one act of the machine's own; with none
ready, time passes. -/
def stepWith (exec : Exec) (s0 : State) : Out :=
  let s := s0.tick
  match s.inbox with
  | a :: l =>
    let s := { s with inbox := l }
    if s.admits a then s.perform exec a else .next s
  | [] =>
    match s.nextAct exec with
    | none => .next s
    | some a => s.perform exec a

/-! ### A program's instruction where the next step dispatches it -/

/-- A code image of one literal bundle at pc 0 whose C word is `w` (R53, R59). -/
def imageOf (w : BitVec 32) : Image :=
  { Image.none with
    codeLen := 25
    blocks := [(0, ⟨[0xFFFF, 1, 0, w.extractLsb' 0 16, w.extractLsb' 16 16] ++ List.replicate 1019 0, 1 :: List.replicate 15 0⟩)] }

/-- A context that is about to dispatch its first bundle, from an image. -/
def readyContext (im : Image) : Context := { Context.none with live := true, issuable := true, image := im }

/-- The context in focus is a launch's that stands before that bundle; nothing else of its core is at work. -/
def State.placeWord (s : State) (w : BitVec 32) : State :=
  { s with inbox := [], ctx := readyContext (imageOf w), peer := .none,
           core := { s.core with engine := [], run := none, drains := [], recvq := [], current := s.slotNum } }

end Sys2Proof.Machine
end

