-- ==== Sys2Proof/Machine/Lanes.lean ====
section
/-! DEFINITION. Lanes.lean: the meanings of the permutes and lane transfers (R148 to R153). -/
namespace Sys2Proof.Machine

def execVPerm (q : Pred) (d a b : VReg) (t : Ty) (m : KReg) (s : State) : Out :=
  s.under q fun s =>
    let w := tyBits t
    let xs := s.readElems w a
    s.putElems w d m ((s.readElems w b).map fun j => xs.getD (j % elemCount w) 0)

/-- The signed distance of `vslide` and `vrot` (R150). -/
def State.slideBy (s : State) : VSrc → Int
  | .s r => (s.readS r).toInt
  | .imm x => x.toInt
  | .v _ => 0

def execVSlide (q : Pred) (d a : VReg) (b : VSrc) (t : Ty) (m : KReg) (s : State) : Out :=
  s.under q fun s =>
    let w := tyBits t
    let xs := s.readElems w a
    let k := s.slideBy b
    s.putElems w d m ((natRange 0 (elemCount w)).map fun (i : Nat) =>
      if 0 ≤ (i : Int) - k then xs.getD ((i : Int) - k).toNat 0 else 0)

def execVRot (q : Pred) (d a : VReg) (b : VSrc) (t : Ty) (m : KReg) (s : State) : Out :=
  s.under q fun s =>
    let w := tyBits t
    let xs := s.readElems w a
    let k := s.slideBy b
    s.putElems w d m ((natRange 0 (elemCount w)).map fun (i : Nat) => xs.getD (((i : Int) - k) % (elemCount w : Int)).toNat 0)

/-- The elements of executing lanes, in increasing order. -/
def packed (l : Word) (w : Nat) (xs : List Nat) : List Nat := (xs.zipIdx.filter fun (_, i) => laneOn l w i).map (·.1)

/-- Every further element of vd is zero, whatever L holds (R151). -/
def execVCompress (q : Pred) (d a : VReg) (t : Ty) (m : KReg) (s : State) : Out :=
  s.under q fun s =>
    let w := tyBits t
    let xs := packed (s.laneMask m) w (s.readElems w a)
    s.writeElems w d (xs ++ List.replicate (elemCount w - xs.length) 0)

/-- Deal elements to the executing ones in increasing order. -/
def dealt (l : Word) (w : Nat) : Nat → List Nat → List Nat → List Nat
  | _, [], _ => []
  | i, o :: old, xs => if laneOn l w i then xs.headD 0 :: dealt l w (i + 1) old xs.tail else o :: dealt l w (i + 1) old xs

def execVExpand (q : Pred) (d a : VReg) (t : Ty) (m : KReg) (s : State) : Out :=
  s.under q fun s =>
    let w := tyBits t
    s.writeElems w d (dealt (s.laneMask m) w 0 (s.readElems w d) (s.readElems w a))

/-- Every second element, from the first. -/
def everyOther {α : Type} : List α → List α
  | x :: _ :: l => x :: everyOther l
  | l => l

/-- Elements of two lists in turn. -/
def zipped {α : Type} : List α → List α → List α
  | x :: xs, y :: ys => x :: y :: zipped xs ys
  | _, _ => []

def execVZip (q : Pred) (d a b : VReg) (t : Ty) (m : KReg) (hi : Bool) (s : State) : Out :=
  s.under q fun s =>
    let w := tyBits t
    let half := elemCount w / 2
    let part := fun (l : List Nat) => if hi then l.drop half else l.take half
    s.putElems w d m (zipped (part (s.readElems w a)) (part (s.readElems w b)))

def execVUnzip (q : Pred) (d a b : VReg) (t : Ty) (m : KReg) (hi : Bool) (s : State) : Out :=
  s.under q fun s =>
    let w := tyBits t
    let part := fun (l : List Nat) => everyOther (if hi then l.drop 1 else l)
    s.putElems w d m (part (s.readElems w a) ++ part (s.readElems w b))

def execVExtr (q : Pred) (d : SReg) (a : VReg) (b : SReg) (t : Ty) (s : State) : Out :=
  s.under q fun s =>
    let w := tyBits t
    let i := (s.readS b).toNat
    if i < elemCount w then
      let x := (s.readElems w a).getD i 0
      s.writeS d (if tySigned t then BitVec.ofInt 64 (intVal true w x) else BitVec.ofNat 64 x)
    else s.writeS d 0

def execVIns (q : Pred) (d : VReg) (a b : SReg) (t : Ty) (s : State) : Out :=
  s.under q fun s =>
    let w := tyBits t
    let i := (s.readS b).toNat
    if i < elemCount w then s.writeElems w d (listSet (s.readElems w d) i ((s.readS a).toNat % 2 ^ w)) else s

end Sys2Proof.Machine
end

