-- ==== Sys2Proof/Machine/Masks.lean ====
section
/-! DEFINITION. Masks.lean: the meanings of the mask-stack and lane-mask instructions and of `vskip` (R154 to R161). -/
namespace Sys2Proof.Machine

def trapMaskStack : TrapInfo := { code := 0x31 }

/-- An entry of the mask stack replaced. -/
def setMask (m : Vector Word 16) (i : Nat) (x : Word) : Vector Word 16 := Vector.ofFn fun j => if j.val = i then x else m[j]

def execVMpush (q : Pred) (ka : KReg) (s : State) : Out :=
  s.under q fun s =>
    let (m, d) := s.maskStack
    if d = 16 then s.raise trapMaskStack
    else s.writeMask (setMask m d.toNat (maskAt m (d.toNat - 1) &&& s.readK ka)) (d + 1)

def execVMinv (q : Pred) (s : State) : Out :=
  s.under q fun s =>
    let (m, d) := s.maskStack
    if d = 1 then s.raise trapMaskStack
    else s.writeMask (setMask m (d.toNat - 1) (maskAt m (d.toNat - 2) &&& ~~~maskAt m (d.toNat - 1))) d

def execVMpop (q : Pred) (s : State) : Out :=
  s.under q fun s =>
    let (m, d) := s.maskStack
    if d = 1 then s.raise trapMaskStack else s.writeMask m (d - 1)

def execVKmov (q : Pred) (d : KReg) (src : KSrc) (s : State) : Out :=
  s.under q fun s => s.writeK d (match src with | .k r => s.readK r | .s r => s.readS r)

/-- Operations 0 and, 1 or, 2 xor, 3 andn, 4 not (Table 7.1). -/
def execVKop (q : Pred) (d a b : KReg) (op : BitVec 3) (s : State) : Out :=
  s.under q fun s =>
    let x := s.readK a
    let y := s.readK b
    s.writeK d (match op.toNat with
      | 0 => x &&& y
      | 1 => x ||| y
      | 2 => x ^^^ y
      | 3 => x &&& ~~~y
      | _ => ~~~x)

/-- The number of set bits of a word. -/
def maskCount (x : Word) : Nat := ((List.range 64).filter x.getLsbD).length

def execVKpopc (q : Pred) (d : SReg) (a : KReg) (s : State) : Out :=
  s.under q fun s => s.writeS d (BitVec.ofNat 64 (maskCount (s.readK a)))

/-- Taken when the mask-stack top is all zero; it reads only the top (R158). -/
def execVSkip (q : Pred) (n : BitVec 16) (s : State) : Out :=
  s.under q fun s => if s.maskTop = 0 then s.takeSkip s.opId n else s

end Sys2Proof.Machine
end

