-- ==== Sys2Proof/Machine/Scalar.lean ====
section
/-! DEFINITION. Scalar.lean: the meanings of the scalar integer, compare and predicate instructions and of the system and
parameter access instructions (R119, R124 to R127, R133, R48). -/
namespace Sys2Proof.Machine

/-- An instruction that writes sd. -/
def State.setS (s : State) (q : Pred) (d : SReg) (f : State → Word) : Out := s.under q fun s => s.writeS d (f s)

/-- `sd := op sa sb`. -/
def State.alu (s : State) (q : Pred) (d a b : SReg) (op : Word → Word → Word) : Out :=
  s.setS q d fun s => op (s.readS a) (s.readS b)

/-- `sd := op sa SignExtend(imm32)` (R125). -/
def State.aluImm (s : State) (q : Pred) (d a : SReg) (i : BitVec 32) (op : Word → Word → Word) : Out :=
  s.setS q d fun s => op (s.readS a) (i.signExtend 64)

/-! ### Results of Table 6.2 -/

def mulHigh (a b : Word) : Word := ((a.signExtend 128 * b.signExtend 128) >>> 64).setWidth 64
def mulHighN (a b : Word) : Word := ((a.setWidth 128 * b.setWidth 128) >>> 64).setWidth 64
/-- All ones on division by zero; otherwise rounded toward zero, and the one overflow wraps. -/
def divSigned (a b : Word) : Word := if b = 0 then BitVec.allOnes 64 else a.sdiv b
def divUnsigned (a b : Word) : Word := if b = 0 then BitVec.allOnes 64 else a / b
def remSigned (a b : Word) : Word := if b = 0 then a else a.srem b
def remUnsigned (a b : Word) : Word := if b = 0 then a else a % b
def shAmount (b : Word) : Nat := b.toNat % 64
def minSigned {w : Nat} (a b : BitVec w) : BitVec w := if a.slt b then a else b
def maxSigned {w : Nat} (a b : BitVec w) : BitVec w := if a.slt b then b else a
def minUnsigned {w : Nat} (a b : BitVec w) : BitVec w := if a.ult b then a else b
def maxUnsigned {w : Nat} (a b : BitVec w) : BitVec w := if a.ult b then b else a
def popCount {w : Nat} (a : BitVec w) : Nat := ((List.range w).filter a.getLsbD).length
/-- Leading zeros; the width for zero. -/
def leadZeros {w : Nat} (a : BitVec w) : Nat := ((List.range w).reverse.takeWhile fun i => !a.getLsbD i).length
def trailZeros {w : Nat} (a : BitVec w) : Nat := ((List.range w).takeWhile fun i => !a.getLsbD i).length
/-- pos is bits [5:0] and len − 1 bits [13:8] of the position register. -/
def fieldPos (b : Word) : Nat := wbits b 5 0
def fieldLen (b : Word) : Nat := wbits b 13 8 + 1
def lowMask (n : Nat) : Word := BitVec.ofNat 64 (2 ^ n - 1)
def bitExtract (a b : Word) : Word := (a >>> fieldPos b) &&& lowMask (fieldLen b)
def bitInsert (a b c : Word) : Word :=
  let m := lowMask (fieldLen c) <<< fieldPos c
  (a &&& ~~~m) ||| ((b <<< fieldPos c) &&& m)

def execAAdd (q : Pred) (d a b : SReg) (s : State) : Out := s.alu q d a b fun x y => x + y
def execASub (q : Pred) (d a b : SReg) (s : State) : Out := s.alu q d a b fun x y => x - y
def execAMul (q : Pred) (d a b : SReg) (s : State) : Out := s.alu q d a b fun x y => x * y
def execAMulh (q : Pred) (d a b : SReg) (s : State) : Out := s.alu q d a b mulHigh
def execAMulhn (q : Pred) (d a b : SReg) (s : State) : Out := s.alu q d a b mulHighN
def execADiv (q : Pred) (d a b : SReg) (s : State) : Out := s.alu q d a b divSigned
def execADivn (q : Pred) (d a b : SReg) (s : State) : Out := s.alu q d a b divUnsigned
def execARem (q : Pred) (d a b : SReg) (s : State) : Out := s.alu q d a b remSigned
def execARemn (q : Pred) (d a b : SReg) (s : State) : Out := s.alu q d a b remUnsigned
def execAAnd (q : Pred) (d a b : SReg) (s : State) : Out := s.alu q d a b fun x y => x &&& y
def execAOr (q : Pred) (d a b : SReg) (s : State) : Out := s.alu q d a b fun x y => x ||| y
def execAXor (q : Pred) (d a b : SReg) (s : State) : Out := s.alu q d a b fun x y => x ^^^ y
def execAAndn (q : Pred) (d a b : SReg) (s : State) : Out := s.alu q d a b fun x y => x &&& ~~~y
def execAShl (q : Pred) (d a b : SReg) (s : State) : Out := s.alu q d a b fun x y => x <<< shAmount y
def execAShr (q : Pred) (d a b : SReg) (s : State) : Out := s.alu q d a b fun x y => x >>> shAmount y
def execASar (q : Pred) (d a b : SReg) (s : State) : Out := s.alu q d a b fun x y => x.sshiftRight (shAmount y)
def execARotl (q : Pred) (d a b : SReg) (s : State) : Out := s.alu q d a b fun x y => x.rotateLeft (shAmount y)
def execAMin (q : Pred) (d a b : SReg) (s : State) : Out := s.alu q d a b minSigned
def execAMax (q : Pred) (d a b : SReg) (s : State) : Out := s.alu q d a b maxSigned
def execAMinn (q : Pred) (d a b : SReg) (s : State) : Out := s.alu q d a b minUnsigned
def execAMaxn (q : Pred) (d a b : SReg) (s : State) : Out := s.alu q d a b maxUnsigned
def execASel (q : Pred) (d a b c : SReg) (s : State) : Out :=
  s.setS q d fun s => if s.readS c = 0 then s.readS b else s.readS a
def execAPopc (q : Pred) (d a : SReg) (s : State) : Out := s.setS q d fun s => BitVec.ofNat 64 (popCount (s.readS a))
def execAClz (q : Pred) (d a : SReg) (s : State) : Out := s.setS q d fun s => BitVec.ofNat 64 (leadZeros (s.readS a))
def execACtz (q : Pred) (d a : SReg) (s : State) : Out := s.setS q d fun s => BitVec.ofNat 64 (trailZeros (s.readS a))
def execABext (q : Pred) (d a b : SReg) (s : State) : Out := s.alu q d a b bitExtract
def execABins (q : Pred) (d a b c : SReg) (s : State) : Out :=
  s.setS q d fun s => bitInsert (s.readS a) (s.readS b) (s.readS c)
def execALea (q : Pred) (d a b : SReg) (f : BitVec 4) (s : State) : Out := s.alu q d a b fun x y => x + (y <<< f.toNat)
def execAMadd (q : Pred) (d a b c : SReg) (s : State) : Out :=
  s.setS q d fun s => s.readS a * s.readS b + s.readS c

/-! ### Immediates (Table 6.3) -/

def execAAddi (q : Pred) (d a : SReg) (i : BitVec 32) (s : State) : Out := s.aluImm q d a i fun x y => x + y
def execAAndi (q : Pred) (d a : SReg) (i : BitVec 32) (s : State) : Out := s.aluImm q d a i fun x y => x &&& y
def execAOri (q : Pred) (d a : SReg) (i : BitVec 32) (s : State) : Out := s.aluImm q d a i fun x y => x ||| y
def execAXori (q : Pred) (d a : SReg) (i : BitVec 32) (s : State) : Out := s.aluImm q d a i fun x y => x ^^^ y
def execAShli (q : Pred) (d a : SReg) (i : BitVec 6) (s : State) : Out := s.setS q d fun s => s.readS a <<< i.toNat
def execAShri (q : Pred) (d a : SReg) (i : BitVec 6) (s : State) : Out := s.setS q d fun s => s.readS a >>> i.toNat
def execASari (q : Pred) (d a : SReg) (i : BitVec 6) (s : State) : Out := s.setS q d fun s => (s.readS a).sshiftRight i.toNat
def execAMovi (q : Pred) (d : SReg) (i : BitVec 32) (s : State) : Out := s.setS q d fun _ => i.signExtend 64
def execAMovhi (q : Pred) (d a : SReg) (i : BitVec 32) (s : State) : Out :=
  s.setS q d fun s => i ++ (s.readS a).setWidth 32
def execAMuli (q : Pred) (d a : SReg) (i : BitVec 32) (s : State) : Out := s.aluImm q d a i fun x y => x * y

/-! ### Compares and predicates -/

def State.setP (s : State) (q : Pred) (d : PReg) (f : State → Bool) : Out := s.under q fun s => s.writeP d (f s)

def execACmp (q : Pred) (d : PReg) (a b : SReg) (cond : BitVec 3) (s : State) : Out :=
  s.setP q d fun s => intCond cond (s.readS a) (s.readS b)
def execACmpi (q : Pred) (d : PReg) (a : SReg) (i : BitVec 32) (cond : BitVec 3) (s : State) : Out :=
  s.setP q d fun s => intCond cond (s.readS a) (i.signExtend 64)
def execAPand (q : Pred) (d a b : PReg) (s : State) : Out := s.setP q d fun s => s.readP a && s.readP b
def execAPor (q : Pred) (d a b : PReg) (s : State) : Out := s.setP q d fun s => s.readP a || s.readP b
def execAPxor (q : Pred) (d a b : PReg) (s : State) : Out := s.setP q d fun s => s.readP a != s.readP b
def execAPnot (q : Pred) (d a : PReg) (s : State) : Out := s.setP q d fun s => !s.readP a
def execAPbit (q : Pred) (d : PReg) (a b : SReg) (s : State) : Out :=
  s.setP q d fun s => (s.readS a).getLsbD (shAmount (s.readS b))

/-! ### System registers (Table 2.8) -/

/-- The value of a system register, zero-extended. An operation of the bundle that writes FPCTL reads the value before (R122). -/
def State.sysReg (s : State) (n : BitVec 12) : Word :=
  let c := s.ctx
  match n.toNat with
  | 0x000 => c.status
  | 0x001 => c.ckstat
  | 0x002 => c.progidx.setWidth 64
  | 0x003 => c.mtmask.setWidth 64
  | 0x004 => c.spLo
  | 0x005 => c.spHi
  | 0x006 => c.domain
  | 0x007 => s.readFpctl
  | 0x008 => c.regs.racectl
  | 0x009 => c.regs.seed
  | 0x00A => c.regs.waitlimit
  | 0x00B => c.stepToken
  | 0x00C => c.partWord.setWidth 64
  | 0x00D => c.ctxId.setWidth 64
  | 0x00E => s.pkg.shape
  | 0x00F => s.pkg.num.setWidth 64
  | k =>
    if k < 0x20 then c.wallow.toList.getD (k - 0x10) 0
    else if k < 0x30 then c.window.toList.getD (k - 0x20) 0
    else c.trapRec.toList.getD (k - 0x40) 0

/-- A write of a P register; reserved bits of the value are ignored (R4, Table 6.1, Table 10.12). -/
def State.setSysReg (s : State) (n : BitVec 12) (x : Word) : State :=
  let s := s.keep (.sys n (s.ctx.regs.sys n))
  match n.toNat with
  | 0x007 => s.mapRegs fun g => { g with fpctl := x &&& 0xF }
  | 0x008 => s.mapRegs fun g => { g with racectl := x &&& 0xFFFFFFFFFFFF000F }
  | 0x009 => s.mapRegs fun g => { g with seed := x }
  | 0x00A => s.mapRegs fun g => { g with waitlimit := x }
  | _ => s

def execASysrd (q : Pred) (d : SReg) (n : BitVec 12) (s : State) : Out := s.setS q d fun s => s.sysReg n
def execASyswr (q : Pred) (a : SReg) (n : BitVec 12) (s : State) : Out := s.under q fun s => s.setSysReg n (s.readS a)
def execAMpset (q : Pred) (m : MpReg) (a : SReg) (s : State) : Out := s.under q fun s => s.writeMp m (s.readS a)
def execAMpget (q : Pred) (d : SReg) (m : MpReg) (s : State) : Out := s.setS q d fun s => s.readMp m

/-- The index of a loop as it stood when the C slot dispatched the bundle (R35, R133). -/
def execALidx (q : Pred) (d : SReg) (n : BitVec 3) (s : State) : Out :=
  s.setS q d fun s => (s.opId.lidx.getD n.toNat 0).setWidth 64

end Sys2Proof.Machine
end

