-- ==== Sys2Proof/Machine/ScalarFp.lean ====
section
/-! DEFINITION. ScalarFp.lean: the meanings of the scalar floating-point instructions (R128 to R132). -/
namespace Sys2Proof.Machine

/-- The precision of D (R128). -/
def precOf (dbl : Bool) : Fmt := if dbl then fp64 else fp32

/-- A scalar register read in a precision; fp32 ignores the bits above it (R119). -/
def State.readF (s : State) (dbl : Bool) (r : SReg) : Nat := (s.readS r).toNat % 2 ^ (precOf dbl).width

/-- A governed scalar instruction over operands (R123, R128). -/
def State.fop (s : State) (q : Pred) (d : SReg) (dbl : Bool) (rs : List SReg) (f : Fmt → List Nat → Nat) : Out :=
  s.under q fun s =>
    let p := precOf dbl
    let xs := rs.map (s.readF dbl)
    let r := f p xs
    s.setF d r (p.decode r) (xs.map p.decode)

/-- Two operands of a list. -/
def onTwo (f : Nat → Nat → Nat) : List Nat → Nat
  | [x, y] => f x y
  | _ => 0

def onThree (f : Nat → Nat → Nat → Nat) : List Nat → Nat
  | [x, y, z] => f x y z
  | _ => 0

def execAFadd (q : Pred) (d a b : SReg) (dbl : Bool) (rm : Rm) (s : State) : Out :=
  s.fop q d dbl [a, b] fun p => onTwo (p.addBits rm)
def execAFsub (q : Pred) (d a b : SReg) (dbl : Bool) (rm : Rm) (s : State) : Out :=
  s.fop q d dbl [a, b] fun p => onTwo (p.subBits rm)
def execAFmul (q : Pred) (d a b : SReg) (dbl : Bool) (rm : Rm) (s : State) : Out :=
  s.fop q d dbl [a, b] fun p => onTwo (p.mulBits rm)
def execAFma (q : Pred) (d a b c : SReg) (dbl : Bool) (rm : Rm) (s : State) : Out :=
  s.fop q d dbl [a, b, c] fun p => onThree (p.fmaBits rm)
def execAFdiv (q : Pred) (d a b : SReg) (dbl : Bool) (rm : Rm) (s : State) : Out :=
  s.fop q d dbl [a, b] fun p => onTwo (p.divBits rm)
def execAFsqrt (q : Pred) (d a : SReg) (dbl : Bool) (rm : Rm) (s : State) : Out :=
  s.fop q d dbl [a] fun p => fun | [x] => p.sqrtBits rm x | _ => 0
def execAFmin (q : Pred) (d a b : SReg) (dbl : Bool) (s : State) : Out := s.fop q d dbl [a, b] fun p => onTwo p.minBits
def execAFmax (q : Pred) (d a b : SReg) (dbl : Bool) (s : State) : Out := s.fop q d dbl [a, b] fun p => onTwo p.maxBits

def execAFcmp (q : Pred) (d : PReg) (a b : SReg) (dbl : Bool) (cond : BitVec 3) (s : State) : Out :=
  s.under q fun s => s.writeP d (fpCond cond ((precOf dbl).decode (s.readF dbl a)) ((precOf dbl).decode (s.readF dbl b)))

def execAFclass (q : Pred) (d a : SReg) (dbl : Bool) (s : State) : Out :=
  s.under q fun s => s.writeS d (BitVec.ofNat 64 ((precOf dbl).classBits (s.readF dbl a)))

/-- The value of a conversion's operand, as NONFINITE judges it. -/
def cvtVal (t : Ty) (x : Nat) : FVal := if isFloatTy t then (fmtOf t).decode x else .fin false 0 0 false

/-- The form in which R119 writes a result of a type: i32 sign-extended, all else zero-extended. -/
def scalarResult (t : Ty) (x : Nat) : Word := if t.toNat = 2 then (BitVec.ofNat 32 x).signExtend 64 else BitVec.ofNat 64 x

def execAFcvt (q : Pred) (d a : SReg) (dt st : Ty) (sat : Bool) (rm : Rm) (s : State) : Out :=
  s.under q fun s =>
    let x := (s.readS a).toNat % 2 ^ tyBits st
    let r := convert rm sat dt st x
    if isFloatTy dt then s.setF d r ((fmtOf dt).decode r) [cvtVal st x] else s.writeS d (scalarResult dt r)

end Sys2Proof.Machine
end

