-- ==== Sys2Proof/Machine/Strings.lean ====
section
/-! DEFINITION. Strings.lean: the meanings of the hashing, partitioning and string instructions (R162 to R171). -/
namespace Sys2Proof.Machine

/-! ### Hashing -/

/-- One bit of Crc32cByte, `n` times. -/
def crcBits : Nat → Nat → Nat
  | 0, c => c
  | n + 1, c => crcBits n (if c.testBit 0 then (c >>> 1) ^^^ 0x82F63B78 else c >>> 1)

/-- R162. -/
def crc32cByte (c b : Nat) : Nat := crcBits 8 (c ^^^ b)

/-- The bytes of a key, lowest first. -/
def keyBytes (n x : Nat) : List Nat := (natRange 0 n).map fun j => (x >>> (8 * j)) % 256

def execVHashCrc (q : Pred) (d a b : VReg) (t : Ty) (m : KReg) (s : State) : Out :=
  s.under q fun s =>
    let w := tyBits t
    s.putElems 32 d m (List.zipWith (fun k c => (keyBytes (w / 8) k).foldl crc32cByte c) (s.readElems w a) (s.readElems 32 b))

def execVHashMix (q : Pred) (d a b : VReg) (t : Ty) (m : KReg) (s : State) : Out :=
  s.map2 q d a (.v b) t m fun k z => (mix (BitVec.ofNat 64 k) (BitVec.ofNat 64 z)).toNat

def execVHashs (q : Pred) (d a b c : VReg) (m : KReg) (s : State) : Out :=
  s.map3 q d a (.v b) c 6 m fun x h n => (keyBytes (min 4 (n % 2 ^ 16)) x).foldl crc32cByte h

/-! ### Partitions (R166) -/

/-- SHIFT, the mask 2^WIDTH − 1 and PART of a descriptor. -/
def partShift (x : Nat) : Nat := bits x 4 0
def partMask (x : Nat) : Nat := 2 ^ (min (bits x 11 8) 11 + 1) - 1
def partPart (x : Nat) : Nat := bits x 27 16

def execVPart (q : Pred) (d a b : VReg) (m : KReg) (s : State) : Out :=
  s.under q fun s =>
    let x := (s.readElems 32 b).headD 0
    s.putElems 32 d m ((s.readElems 32 a).map fun h => (h >>> partShift x) &&& partMask x)

def execVPartCnt (q : Pred) (d : SReg) (a b : VReg) (kc : KReg) (m : KReg) (s : State) : Out :=
  s.under q fun s =>
    let x := (s.readElems 32 b).headD 0
    let hs := s.readElems 32 a
    let k := laneBits (s.laneMask m) fun i => ((hs.getD i 0 >>> partShift x) &&& partMask x) == (partPart x &&& partMask x)
    (s.writeK kc k).writeS d (BitVec.ofNat 64 ((List.range 64).filter k.getLsbD).length)

/-! ### Strings (R167 to R171) -/

def strByte (x j : Nat) : Nat := (x >>> (8 * j)) % 256

/-- The order of the first differing bytes: 1 less, 2 greater, 0 none. -/
def byteOrder (a b : Nat) : List Nat → Nat
  | [] => 0
  | j :: l => if strByte a j < strByte b j then 1 else if strByte b j < strByte a j then 2 else byteOrder a b l

/-- The verdict of one lane (R169). -/
def compareLane (old a b len : Nat) : Nat :=
  let st := old % 4
  if st ≠ 0 then st
  else
    let la := len % 2 ^ 16
    let lb := len / 2 ^ 16
    let st := byteOrder a b (natRange 0 (min (min 4 la) (min 4 lb)))
    if st = 0 && (la ≤ 4 || lb ≤ 4) then (if la < lb then 1 else if lb < la then 2 else 3) else st

/-- The search of one lane (R170). -/
def searchLane (old a b len : Nat) : Nat :=
  if old.testBit 31 then old
  else
    let n := min 4 (len % 2 ^ 16)
    match (natRange 0 n).find? fun j => strByte a j == b % 256 with
    | some j => 2 ^ 31 ||| (old + j) % 2 ^ 32
    | none => (old + n) % 2 ^ 31

/-- The slices of string B: a register, or the low 32 bits of an s register in every lane (R168). -/
def State.stringB (s : State) (b : VSrc) : List Nat := s.operandB 6 b

/-- A string instruction whose destination lane is also its carried state. -/
def State.stringOp (s : State) (q : Pred) (d a : VReg) (b : VSrc) (c : VReg) (m : KReg) (f : Nat → Nat → Nat → Nat → Nat) : Out :=
  s.under q fun s =>
    let ab := (s.readElems 32 a).zip (s.stringB b)
    let dc := (s.readElems 32 d).zip (s.readElems 32 c)
    s.putElems 32 d m (List.zipWith (fun x y => f y.1 x.1 x.2 y.2) ab dc)

def execVScmp (q : Pred) (d a : VReg) (b : VSrc) (c : VReg) (m : KReg) (s : State) : Out := s.stringOp q d a b c m compareLane
def execVSfind (q : Pred) (d a : VReg) (b : VSrc) (c : VReg) (m : KReg) (s : State) : Out := s.stringOp q d a b c m searchLane

/-- Whether a lane's slices are equal (R171). -/
def matchLane (a b len : Nat) : Bool :=
  len % 2 ^ 16 == len / 2 ^ 16 && (natRange 0 (min 4 (len % 2 ^ 16))).all fun j => strByte a j == strByte b j

def execVSmatch (q : Pred) (d : KReg) (a : VReg) (b : VSrc) (c : VReg) (m : KReg) (s : State) : Out :=
  s.under q fun s =>
    let old := s.readK d
    let xs := s.readElems 32 a
    let ys := s.stringB b
    let ls := s.readElems 32 c
    s.writeK d (laneBits (s.laneMask m) fun i => old.getLsbD i && matchLane (xs.getD i 0) (ys.getD i 0) (ls.getD i 0))

end Sys2Proof.Machine
end

