-- ==== Sys2Proof/Machine/VectorConv.lean ====
section
/-! DEFINITION. VectorConv.lean: the meanings of the vector conversions and of quantisation (R140 to R142). -/
namespace Sys2Proof.Machine

/-- The elements of vd after converting: elements 0 to N − 1 from the source where they execute, the rest of a narrower vd
zero (R140). -/
def cvtElems (l : Word) (wide n : Nat) (old new : List Nat) : List Nat :=
  old.zipIdx.map fun (o, i) => if i < n then (if laneOn l wide i then new.getD i 0 else o) else 0

def execVCvt (q : Pred) (d a : VReg) (dt st : Ty) (m : KReg) (rm : Rm) (sat : Bool) (s : State) : Out :=
  s.under q fun s =>
    let wide := max (tyBits dt) (tyBits st)
    let n := elemCount wide
    let l := s.laneMask m
    let src := (s.readElems (tyBits st) a).take n
    let new := src.map (convert rm sat dt st)
    let bad := if isFloatTy dt then
        (src.zip new).zipIdx.find? fun ((x, r), i) => laneOn l wide i && fpBad s.readFpctl ((fmtOf dt).decode r) [cvtVal st x]
      else none
    match bad with
    | some ((_, r), i) => s.raise (trapNonfinite i r)
    | none => s.writeElems (tyBits dt) d (cvtElems l wide n (s.readElems (tyBits dt) d) new)

/-- One code of `vquant` (R141): W is 255 or 15. -/
def quantCode (w : Nat) (sat : Bool) (rm : Rm) (scale z x : Nat) : Nat :=
  let top := 2 ^ w - 1
  match fp16.decode scale, fp32.decode x with
  | .fin _ ms _ _, .inf n => if ms = 0 then z else if sat then (if n then 0 else top) else z
  | .fin ns ms es ss, .fin nx mx ex sx =>
    if ms = 0 then z
    else
      match (FVal.fin nx mx ex sx).div 170 (.fin ns ms es ss) with
      | .fin n m e st =>
        let c := roundToInt rm n m e st + z
        if c < 0 || c > top then (if sat then (if c < 0 then 0 else top) else intBits w c) else c.toNat
      | _ => z
  | _, _ => z

/-- SCALE and ZP of an entry of Table 5.7 (R141). -/
def entryScale (e : Nat) : Nat := bits e 15 0
def entryZp (t : Ty) (e : Nat) : Nat := if t.toNat = 14 then bits e 19 16 else bits e 23 16

def execVQuant (q : Pred) (d a b : VReg) (t : Ty) (m : KReg) (rm : Rm) (sat : Bool) (s : State) : Out :=
  s.under q fun s =>
    let ent := s.readElems 32 b
    let codes := (s.readElems 32 a).zipIdx.map fun (x, i) =>
      let e := ent.getD (i / 32) 0
      quantCode (tyBits t) sat rm (entryScale e) (entryZp t e) x
    s.writeElems (tyBits t) d (cvtElems (s.laneMask m) 32 64 (s.readElems (tyBits t) d) codes)

def execVDequant (q : Pred) (d a b : VReg) (t : Ty) (m : KReg) (s : State) : Out :=
  s.under q fun s =>
    let ent := s.readElems 32 b
    let res := ((s.readElems (tyBits t) a).take 64).zipIdx.map fun (c, i) =>
      let e := ent.getD (i / 32) 0
      (dequant (entryScale e) (entryZp t e) c, [fp16.decode (entryScale e)])
    s.putF 12 d m res

end Sys2Proof.Machine
end

