-- ==== Sys2Proof/Machine/VectorInt.lean ====
section
/-! DEFINITION. VectorInt.lean: the meanings of the vector integer instructions, moves and selections, and the integer
reductions and scans (R134 to R137, R143, R144). -/
namespace Sys2Proof.Machine

/-! ### Element results of Table 6.8 -/

def elAdd (t : Ty) (a b : Nat) : Nat := (a + b) % 2 ^ tyBits t
def elSub (t : Ty) (a b : Nat) : Nat := intBits (tyBits t) ((a : Int) - b)
def elMul (t : Ty) (a b : Nat) : Nat := a * b % 2 ^ tyBits t
def elMulh (t : Ty) (a b : Nat) : Nat :=
  let w := tyBits t
  intBits w (intVal (tySigned t) w a * intVal (tySigned t) w b / 2 ^ w)
def elMad (t : Ty) (a b c : Nat) : Nat := (a * b + c) % 2 ^ tyBits t
def elAbs (t : Ty) (a : Nat) : Nat := let w := tyBits t; (intVal true w a).natAbs % 2 ^ w
def elNeg (t : Ty) (a : Nat) : Nat := intBits (tyBits t) (-(a : Int))
def elLess (t : Ty) (a b : Nat) : Bool :=
  decide (intVal (tySigned t) (tyBits t) a < intVal (tySigned t) (tyBits t) b)
def elMin (t : Ty) (a b : Nat) : Nat := if elLess t b a then b else a
def elMax (t : Ty) (a b : Nat) : Nat := if elLess t a b then b else a
def elAndn (t : Ty) (a b : Nat) : Nat := a &&& (2 ^ tyBits t - 1 - b)
def elShl (t : Ty) (a b : Nat) : Nat := a * 2 ^ (b % tyBits t) % 2 ^ tyBits t
def elShr (t : Ty) (a b : Nat) : Nat := a >>> (b % tyBits t)
def elSar (t : Ty) (a b : Nat) : Nat := intBits (tyBits t) (intVal true (tyBits t) a / 2 ^ (b % tyBits t))
def elPopc (t : Ty) (a : Nat) : Nat := ((List.range (tyBits t)).filter a.testBit).length
def elClz (t : Ty) (a : Nat) : Nat := ((List.range (tyBits t)).reverse.takeWhile fun i => !a.testBit i).length
def elAddsat (t : Ty) (a b : Nat) : Nat :=
  let w := tyBits t; let g := tySigned t
  intBits w (clampInt g w (intVal g w a + intVal g w b))
def elSubsat (t : Ty) (a b : Nat) : Nat :=
  let w := tyBits t; let g := tySigned t
  intBits w (clampInt g w (intVal g w a - intVal g w b))

def execVAdd (q : Pred) (d a : VReg) (b : VSrc) (t : Ty) (m : KReg) (s : State) : Out := s.map2 q d a b t m (elAdd t)
def execVSub (q : Pred) (d a : VReg) (b : VSrc) (t : Ty) (m : KReg) (s : State) : Out := s.map2 q d a b t m (elSub t)
def execVMul (q : Pred) (d a : VReg) (b : VSrc) (t : Ty) (m : KReg) (s : State) : Out := s.map2 q d a b t m (elMul t)
def execVMulh (q : Pred) (d a : VReg) (b : VSrc) (t : Ty) (m : KReg) (s : State) : Out := s.map2 q d a b t m (elMulh t)
def execVMad (q : Pred) (d a : VReg) (b : VSrc) (c : VReg) (t : Ty) (m : KReg) (s : State) : Out :=
  s.map3 q d a b c t m (elMad t)
def execVAbs (q : Pred) (d a : VReg) (t : Ty) (m : KReg) (s : State) : Out := s.map1 q d a t m (elAbs t)
def execVNeg (q : Pred) (d a : VReg) (t : Ty) (m : KReg) (s : State) : Out := s.map1 q d a t m (elNeg t)
def execVMin (q : Pred) (d a : VReg) (b : VSrc) (t : Ty) (m : KReg) (s : State) : Out := s.map2 q d a b t m (elMin t)
def execVMax (q : Pred) (d a : VReg) (b : VSrc) (t : Ty) (m : KReg) (s : State) : Out := s.map2 q d a b t m (elMax t)
def execVAnd (q : Pred) (d a : VReg) (b : VSrc) (t : Ty) (m : KReg) (s : State) : Out := s.map2 q d a b t m fun x y => x &&& y
def execVOr (q : Pred) (d a : VReg) (b : VSrc) (t : Ty) (m : KReg) (s : State) : Out := s.map2 q d a b t m fun x y => x ||| y
def execVXor (q : Pred) (d a : VReg) (b : VSrc) (t : Ty) (m : KReg) (s : State) : Out := s.map2 q d a b t m fun x y => x ^^^ y
def execVAndn (q : Pred) (d a : VReg) (b : VSrc) (t : Ty) (m : KReg) (s : State) : Out := s.map2 q d a b t m (elAndn t)
def execVShl (q : Pred) (d a : VReg) (b : VSrc) (t : Ty) (m : KReg) (s : State) : Out := s.map2 q d a b t m (elShl t)
def execVShr (q : Pred) (d a : VReg) (b : VSrc) (t : Ty) (m : KReg) (s : State) : Out := s.map2 q d a b t m (elShr t)
def execVSar (q : Pred) (d a : VReg) (b : VSrc) (t : Ty) (m : KReg) (s : State) : Out := s.map2 q d a b t m (elSar t)
def execVPopc (q : Pred) (d a : VReg) (t : Ty) (m : KReg) (s : State) : Out := s.map1 q d a t m (elPopc t)
def execVClz (q : Pred) (d a : VReg) (t : Ty) (m : KReg) (s : State) : Out := s.map1 q d a t m (elClz t)
def execVAddsat (q : Pred) (d a : VReg) (b : VSrc) (t : Ty) (m : KReg) (s : State) : Out := s.map2 q d a b t m (elAddsat t)
def execVSubsat (q : Pred) (d a : VReg) (b : VSrc) (t : Ty) (m : KReg) (s : State) : Out := s.map2 q d a b t m (elSubsat t)

def execVLane (q : Pred) (d : VReg) (t : Ty) (m : KReg) (s : State) : Out :=
  s.under q fun s => s.putElems (tyBits t) d m ((natRange 0 (elemCount (tyBits t))).map (· % 2 ^ tyBits t))

/-- The lane is the unit (Table 6.8). -/
def execVMov (q : Pred) (d a : VReg) (m : KReg) (s : State) : Out :=
  s.under q fun s => s.putElems 32 d m (s.readElems 32 a)

def execVBcast (q : Pred) (d : VReg) (b : VSrc) (t : Ty) (m : KReg) (s : State) : Out :=
  s.under q fun s => s.putElems (tyBits t) d m (s.operandB t b)

/-- Only the width of T matters, to choose pairs for 64-bit types (R136). -/
def execVSel (q : Pred) (d a b : VReg) (kc : KReg) (t : Ty) (m : KReg) (s : State) : Out :=
  s.under q fun s =>
    let w := if tyBits t = 64 then 64 else 32
    let k := s.readK kc
    s.putElems w d m (((s.readElems w a).zip (s.readElems w b)).zipIdx.map fun ((x, y), i) => if k.getLsbD i then x else y)

/-- A vector compare (R137): for w < 32 all or any of a lane's elements. -/
def State.vectorCmp (s : State) (d : KReg) (m : KReg) (w : Nat) (combine : Bool) (holds : List Bool) : State :=
  s.writeK d (laneBits (s.laneMask m) fun i =>
    let l := laneElems w holds i
    if combine then l.any id else l.all id)

def execVCmp (q : Pred) (d : KReg) (a : VReg) (b : VSrc) (t : Ty) (m : KReg) (combine : Bool) (cond : BitVec 3) (s : State) : Out :=
  s.under q fun s =>
    let w := tyBits t
    s.vectorCmp d m w combine (List.zipWith (vecCond (tySigned t) w cond) (s.readElems w a) (s.operandB t b))

/-! ### Packing (R143) -/

def execVPack (q : Pred) (d a b : VReg) (t : Ty) (m : KReg) (s : State) : Out :=
  s.under q fun s =>
    let w := tyBits t
    s.putElems w d m ((s.readElems (2 * w) a ++ s.readElems (2 * w) b).map (· % 2 ^ w))

/-- Sign extension for T 0 and 1, zero extension otherwise. -/
def widenElem (t : Ty) (x : Nat) : Nat := if tySigned t then intBits (2 * tyBits t) (intVal true (tyBits t) x) else x

def execVUnpack (q : Pred) (d a b : VReg) (t : Ty) (m : KReg) (s : State) : Out :=
  s.under q fun s =>
    let w := tyBits t
    let x := (s.readElems w a).map (widenElem t)
    let n := elemCount w / 2
    let old := s.readElems (2 * w) b
    (s.putElems (2 * w) d m (x.take n)).writeElems (2 * w) b (mergeElems (s.laneMask m) (2 * w) old (x.drop n))

/-! ### Reductions and scans (R144) -/

/-- Table 6.12: the operation and its identity; codes 6 and 7 are no instructions. -/
def redOp (t : Ty) (op : BitVec 3) : (Nat → Nat → Nat) × Nat :=
  let w := tyBits t
  match op.toNat with
  | 0 => (elAdd t, 0)
  | 1 => (elMin t, intBits w (intMax (tySigned t) w))
  | 2 => (elMax t, intBits w (intMin (tySigned t) w))
  | 3 => (fun x y => x &&& y, 2 ^ w - 1)
  | 4 => (fun x y => x ||| y, 0)
  | _ => (fun x y => x ^^^ y, 0)

/-- Elements that do not execute contribute the identity. -/
def activeElems (l : Word) (w : Nat) (ident : Nat) (xs : List Nat) : List Nat :=
  xs.zipIdx.map fun (x, i) => if laneOn l w i then x else ident

/-- Inclusive prefixes. -/
def prefixes (f : Nat → Nat → Nat) (acc : Nat) : List Nat → List Nat
  | [] => []
  | x :: l => f acc x :: prefixes f (f acc x) l

def execVRed (q : Pred) (d a : VReg) (t : Ty) (m : KReg) (op : BitVec 3) (s : State) : Out :=
  s.under q fun s =>
    let w := tyBits t
    let (f, ident) := redOp t op
    s.writeElems w d ((activeElems (s.laneMask m) w ident (s.readElems w a)).foldl f ident :: List.replicate (elemCount w - 1) 0)

def execVScan (q : Pred) (d a : VReg) (t : Ty) (m : KReg) (op : BitVec 3) (s : State) : Out :=
  s.under q fun s =>
    let w := tyBits t
    let (f, ident) := redOp t op
    s.putElems w d m (prefixes f ident (activeElems (s.laneMask m) w ident (s.readElems w a)))

end Sys2Proof.Machine
end

