-- ==== Sys2Proof/Machine/Dispatch.lean ====
section
/-! DEFINITION. Dispatch.lean: one arm for each constructor: the meaning of the instruction. -/
namespace Sys2Proof.Machine

def exec (i : Instr) (s : State) : Host.Outcome State Fault Refusal :=
  match i with
  | .cNop q => Sys2Proof.Machine.execCNop q s
  | .cBr q o => Sys2Proof.Machine.execCBr q o s
  | .cCall q o => Sys2Proof.Machine.execCCall q o s
  | .cRet q => Sys2Proof.Machine.execCRet q s
  | .cBrs q r => Sys2Proof.Machine.execCBrs q r s
  | .cCalls q r => Sys2Proof.Machine.execCCalls q r s
  | .cLoop q r e => Sys2Proof.Machine.execCLoop q r e s
  | .cLoopi q n e => Sys2Proof.Machine.execCLoopi q n e s
  | .cLbreak q => Sys2Proof.Machine.execCLbreak q s
  | .cLnext q => Sys2Proof.Machine.execCLnext q s
  | .cYield q => Sys2Proof.Machine.execCYield q s
  | .cTrap q code => Sys2Proof.Machine.execCTrap q code s
  | .cExit q => Sys2Proof.Machine.execCExit q s
  | .cBreak q => Sys2Proof.Machine.execCBreak q s
  | .aAdd q d a b => Sys2Proof.Machine.execAAdd q d a b s
  | .aSub q d a b => Sys2Proof.Machine.execASub q d a b s
  | .aMul q d a b => Sys2Proof.Machine.execAMul q d a b s
  | .aMulh q d a b => Sys2Proof.Machine.execAMulh q d a b s
  | .aMulhn q d a b => Sys2Proof.Machine.execAMulhn q d a b s
  | .aDiv q d a b => Sys2Proof.Machine.execADiv q d a b s
  | .aDivn q d a b => Sys2Proof.Machine.execADivn q d a b s
  | .aRem q d a b => Sys2Proof.Machine.execARem q d a b s
  | .aRemn q d a b => Sys2Proof.Machine.execARemn q d a b s
  | .aAnd q d a b => Sys2Proof.Machine.execAAnd q d a b s
  | .aOr q d a b => Sys2Proof.Machine.execAOr q d a b s
  | .aXor q d a b => Sys2Proof.Machine.execAXor q d a b s
  | .aAndn q d a b => Sys2Proof.Machine.execAAndn q d a b s
  | .aShl q d a b => Sys2Proof.Machine.execAShl q d a b s
  | .aShr q d a b => Sys2Proof.Machine.execAShr q d a b s
  | .aSar q d a b => Sys2Proof.Machine.execASar q d a b s
  | .aRotl q d a b => Sys2Proof.Machine.execARotl q d a b s
  | .aMin q d a b => Sys2Proof.Machine.execAMin q d a b s
  | .aMax q d a b => Sys2Proof.Machine.execAMax q d a b s
  | .aMinn q d a b => Sys2Proof.Machine.execAMinn q d a b s
  | .aMaxn q d a b => Sys2Proof.Machine.execAMaxn q d a b s
  | .aSel q d a b c => Sys2Proof.Machine.execASel q d a b c s
  | .aPopc q d a => Sys2Proof.Machine.execAPopc q d a s
  | .aClz q d a => Sys2Proof.Machine.execAClz q d a s
  | .aCtz q d a => Sys2Proof.Machine.execACtz q d a s
  | .aBext q d a b => Sys2Proof.Machine.execABext q d a b s
  | .aBins q d a b c => Sys2Proof.Machine.execABins q d a b c s
  | .aLea q d a b f => Sys2Proof.Machine.execALea q d a b f s
  | .aMadd q d a b c => Sys2Proof.Machine.execAMadd q d a b c s
  | .aAddi q d a imm => Sys2Proof.Machine.execAAddi q d a imm s
  | .aAndi q d a imm => Sys2Proof.Machine.execAAndi q d a imm s
  | .aOri q d a imm => Sys2Proof.Machine.execAOri q d a imm s
  | .aXori q d a imm => Sys2Proof.Machine.execAXori q d a imm s
  | .aShli q d a imm => Sys2Proof.Machine.execAShli q d a imm s
  | .aShri q d a imm => Sys2Proof.Machine.execAShri q d a imm s
  | .aSari q d a imm => Sys2Proof.Machine.execASari q d a imm s
  | .aMovi q d imm => Sys2Proof.Machine.execAMovi q d imm s
  | .aMovhi q d a imm => Sys2Proof.Machine.execAMovhi q d a imm s
  | .aMuli q d a imm => Sys2Proof.Machine.execAMuli q d a imm s
  | .aCmp q d a b cond => Sys2Proof.Machine.execACmp q d a b cond s
  | .aCmpi q d a imm cond => Sys2Proof.Machine.execACmpi q d a imm cond s
  | .aPand q d a b => Sys2Proof.Machine.execAPand q d a b s
  | .aPor q d a b => Sys2Proof.Machine.execAPor q d a b s
  | .aPxor q d a b => Sys2Proof.Machine.execAPxor q d a b s
  | .aPnot q d a => Sys2Proof.Machine.execAPnot q d a s
  | .aPbit q d a b => Sys2Proof.Machine.execAPbit q d a b s
  | .aFadd q d a b dbl rm => Sys2Proof.Machine.execAFadd q d a b dbl rm s
  | .aFsub q d a b dbl rm => Sys2Proof.Machine.execAFsub q d a b dbl rm s
  | .aFmul q d a b dbl rm => Sys2Proof.Machine.execAFmul q d a b dbl rm s
  | .aFma q d a b c dbl rm => Sys2Proof.Machine.execAFma q d a b c dbl rm s
  | .aFdiv q d a b dbl rm => Sys2Proof.Machine.execAFdiv q d a b dbl rm s
  | .aFsqrt q d a dbl rm => Sys2Proof.Machine.execAFsqrt q d a dbl rm s
  | .aFmin q d a b dbl => Sys2Proof.Machine.execAFmin q d a b dbl s
  | .aFmax q d a b dbl => Sys2Proof.Machine.execAFmax q d a b dbl s
  | .aFcmp q d a b dbl cond => Sys2Proof.Machine.execAFcmp q d a b dbl cond s
  | .aFcvt q d a dt st sat rm => Sys2Proof.Machine.execAFcvt q d a dt st sat rm s
  | .aFclass q d a dbl => Sys2Proof.Machine.execAFclass q d a dbl s
  | .aSysrd q d n => Sys2Proof.Machine.execASysrd q d n s
  | .aSyswr q a n => Sys2Proof.Machine.execASyswr q a n s
  | .aMpset q m a => Sys2Proof.Machine.execAMpset q m a s
  | .aMpget q d m => Sys2Proof.Machine.execAMpget q d m s
  | .aLidx q d n => Sys2Proof.Machine.execALidx q d n s
  | .vAdd q d a b t m => Sys2Proof.Machine.execVAdd q d a b t m s
  | .vSub q d a b t m => Sys2Proof.Machine.execVSub q d a b t m s
  | .vMul q d a b t m => Sys2Proof.Machine.execVMul q d a b t m s
  | .vMulh q d a b t m => Sys2Proof.Machine.execVMulh q d a b t m s
  | .vMad q d a b c t m => Sys2Proof.Machine.execVMad q d a b c t m s
  | .vAbs q d a t m => Sys2Proof.Machine.execVAbs q d a t m s
  | .vNeg q d a t m => Sys2Proof.Machine.execVNeg q d a t m s
  | .vMin q d a b t m => Sys2Proof.Machine.execVMin q d a b t m s
  | .vMax q d a b t m => Sys2Proof.Machine.execVMax q d a b t m s
  | .vAnd q d a b t m => Sys2Proof.Machine.execVAnd q d a b t m s
  | .vOr q d a b t m => Sys2Proof.Machine.execVOr q d a b t m s
  | .vXor q d a b t m => Sys2Proof.Machine.execVXor q d a b t m s
  | .vAndn q d a b t m => Sys2Proof.Machine.execVAndn q d a b t m s
  | .vShl q d a b t m => Sys2Proof.Machine.execVShl q d a b t m s
  | .vShr q d a b t m => Sys2Proof.Machine.execVShr q d a b t m s
  | .vSar q d a b t m => Sys2Proof.Machine.execVSar q d a b t m s
  | .vCmp q d a b t m combine cond => Sys2Proof.Machine.execVCmp q d a b t m combine cond s
  | .vSel q d a b kc t m => Sys2Proof.Machine.execVSel q d a b kc t m s
  | .vMov q d a m => Sys2Proof.Machine.execVMov q d a m s
  | .vBcast q d b t m => Sys2Proof.Machine.execVBcast q d b t m s
  | .vPopc q d a t m => Sys2Proof.Machine.execVPopc q d a t m s
  | .vClz q d a t m => Sys2Proof.Machine.execVClz q d a t m s
  | .vAddsat q d a b t m => Sys2Proof.Machine.execVAddsat q d a b t m s
  | .vSubsat q d a b t m => Sys2Proof.Machine.execVSubsat q d a b t m s
  | .vLane q d t m => Sys2Proof.Machine.execVLane q d t m s
  | .vFadd q d a b t m rm => Sys2Proof.Machine.execVFadd q d a b t m rm s
  | .vFsub q d a b t m rm => Sys2Proof.Machine.execVFsub q d a b t m rm s
  | .vFmul q d a b t m rm => Sys2Proof.Machine.execVFmul q d a b t m rm s
  | .vFma q d a b c t m rm => Sys2Proof.Machine.execVFma q d a b c t m rm s
  | .vFms q d a b c t m rm => Sys2Proof.Machine.execVFms q d a b c t m rm s
  | .vFmin q d a b t m => Sys2Proof.Machine.execVFmin q d a b t m s
  | .vFmax q d a b t m => Sys2Proof.Machine.execVFmax q d a b t m s
  | .vFrcp q d a t m => Sys2Proof.Machine.execVFrcp q d a t m s
  | .vFrsq q d a t m => Sys2Proof.Machine.execVFrsq q d a t m s
  | .vFexp2 q d a t m => Sys2Proof.Machine.execVFexp2 q d a t m s
  | .vFlog2 q d a t m => Sys2Proof.Machine.execVFlog2 q d a t m s
  | .vFcmp q d a b t m combine cond => Sys2Proof.Machine.execVFcmp q d a b t m combine cond s
  | .vFclass q d a t m => Sys2Proof.Machine.execVFclass q d a t m s
  | .vFabs q d a t m => Sys2Proof.Machine.execVFabs q d a t m s
  | .vFneg q d a t m => Sys2Proof.Machine.execVFneg q d a t m s
  | .vCvt q d a dt st m rm sat => Sys2Proof.Machine.execVCvt q d a dt st m rm sat s
  | .vQuant q d a b t m rm sat => Sys2Proof.Machine.execVQuant q d a b t m rm sat s
  | .vDequant q d a b t m => Sys2Proof.Machine.execVDequant q d a b t m s
  | .vPack q d a b t m => Sys2Proof.Machine.execVPack q d a b t m s
  | .vUnpack q d a b t m => Sys2Proof.Machine.execVUnpack q d a b t m s
  | .vRed q d a t m op => Sys2Proof.Machine.execVRed q d a t m op s
  | .vScan q d a t m op => Sys2Proof.Machine.execVScan q d a t m op s
  | .vFred q d a t m rm op => Sys2Proof.Machine.execVFred q d a t m rm op s
  | .vFscan q d a t m rm op => Sys2Proof.Machine.execVFscan q d a t m rm op s
  | .vPerm q d a b t m => Sys2Proof.Machine.execVPerm q d a b t m s
  | .vSlide q d a b t m => Sys2Proof.Machine.execVSlide q d a b t m s
  | .vRot q d a b t m => Sys2Proof.Machine.execVRot q d a b t m s
  | .vCompress q d a t m => Sys2Proof.Machine.execVCompress q d a t m s
  | .vExpand q d a t m => Sys2Proof.Machine.execVExpand q d a t m s
  | .vZip q d a b t m hi => Sys2Proof.Machine.execVZip q d a b t m hi s
  | .vUnzip q d a b t m hi => Sys2Proof.Machine.execVUnzip q d a b t m hi s
  | .vExtr q d a b t => Sys2Proof.Machine.execVExtr q d a b t s
  | .vIns q d a b t => Sys2Proof.Machine.execVIns q d a b t s
  | .vMpush q ka => Sys2Proof.Machine.execVMpush q ka s
  | .vMinv q => Sys2Proof.Machine.execVMinv q s
  | .vMpop q => Sys2Proof.Machine.execVMpop q s
  | .vKmov q d src => Sys2Proof.Machine.execVKmov q d src s
  | .vKop q d a b op => Sys2Proof.Machine.execVKop q d a b op s
  | .vKpopc q d a => Sys2Proof.Machine.execVKpopc q d a s
  | .vSkip q n => Sys2Proof.Machine.execVSkip q n s
  | .vHashCrc q d a b t m => Sys2Proof.Machine.execVHashCrc q d a b t m s
  | .vHashMix q d a b t m => Sys2Proof.Machine.execVHashMix q d a b t m s
  | .vHashs q d a b c m => Sys2Proof.Machine.execVHashs q d a b c m s
  | .vPart q d a b m => Sys2Proof.Machine.execVPart q d a b m s
  | .vPartCnt q d a b kc m => Sys2Proof.Machine.execVPartCnt q d a b kc m s
  | .vScmp q d a b c m => Sys2Proof.Machine.execVScmp q d a b c m s
  | .vSfind q d a b c m => Sys2Proof.Machine.execVSfind q d a b c m s
  | .vSmatch q d a b c m => Sys2Proof.Machine.execVSmatch q d a b c m s
  | .vAccrd q d acc b m => Sys2Proof.Machine.execVAccrd q d acc b m s
  | .vAccwr q d acc b m => Sys2Proof.Machine.execVAccwr q d acc b m s
  | .lLd q d mem size sx => Sys2Proof.Machine.execLLd q d mem size sx s
  | .lSt q a mem size => Sys2Proof.Machine.execLSt q a mem size s
  | .lVld q d mem => Sys2Proof.Machine.execLVld q d mem s
  | .lVst q d mem => Sys2Proof.Machine.execLVst q d mem s
  | .lVldQueue q d n off need cls => Sys2Proof.Machine.execLVldQueue q d n off need cls s
  | .lVstQueue q d n off need cls => Sys2Proof.Machine.execLVstQueue q d n off need cls s
  | .lVlds q d mem stride size => Sys2Proof.Machine.execLVlds q d mem stride size s
  | .lVsts q d mem stride size => Sys2Proof.Machine.execLVsts q d mem stride size s
  | .lVgather q d mem x size => Sys2Proof.Machine.execLVgather q d mem x size s
  | .lVscatter q d mem x size => Sys2Proof.Machine.execLVscatter q d mem x size s
  | .lVsgather q d mem x => Sys2Proof.Machine.execLVsgather q d mem x s
  | .lLdf q d mem scope dbl => Sys2Proof.Machine.execLLdf q d mem scope dbl s
  | .lLdfTake q d mem scope dbl => Sys2Proof.Machine.execLLdfTake q d mem scope dbl s
  | .lSte q a mem scope dbl => Sys2Proof.Machine.execLSte q a mem scope dbl s
  | .lStf q a mem scope dbl => Sys2Proof.Machine.execLStf q a mem scope dbl s
  | .lFset q mem size => Sys2Proof.Machine.execLFset q mem size s
  | .lFclr q mem size => Sys2Proof.Machine.execLFclr q mem size s
  | .lFqry q d mem size => Sys2Proof.Machine.execLFqry q d mem size s
  | .lTld q t mem shape => Sys2Proof.Machine.execLTld q t mem shape s
  | .lTst q t acc mem => Sys2Proof.Machine.execLTst q t acc mem s
  | .lTrel q t => Sys2Proof.Machine.execLTrel q t s
  | .lTqry q t d => Sys2Proof.Machine.execLTqry q t d s
  | .lQinit q a n countM1 size cls => Sys2Proof.Machine.execLQinit q a n countM1 size cls s
  | .lQadvp q n nM1 cls => Sys2Proof.Machine.execLQadvp q n nM1 cls s
  | .lQadvc q n nM1 cls => Sys2Proof.Machine.execLQadvc q n nM1 cls s
  | .lQqry q d n cls => Sys2Proof.Machine.execLQqry q d n cls s
  | .lAadd q d mem scope dbl tok => Sys2Proof.Machine.execLAadd q d mem scope dbl tok s
  | .lAmin q d mem scope dbl tok => Sys2Proof.Machine.execLAmin q d mem scope dbl tok s
  | .lAmax q d mem scope dbl tok => Sys2Proof.Machine.execLAmax q d mem scope dbl tok s
  | .lAminn q d mem scope dbl tok => Sys2Proof.Machine.execLAminn q d mem scope dbl tok s
  | .lAmaxn q d mem scope dbl tok => Sys2Proof.Machine.execLAmaxn q d mem scope dbl tok s
  | .lAand q d mem scope dbl tok => Sys2Proof.Machine.execLAand q d mem scope dbl tok s
  | .lAor q d mem scope dbl tok => Sys2Proof.Machine.execLAor q d mem scope dbl tok s
  | .lAxor q d mem scope dbl tok => Sys2Proof.Machine.execLAxor q d mem scope dbl tok s
  | .lAxchg q d mem scope dbl tok => Sys2Proof.Machine.execLAxchg q d mem scope dbl tok s
  | .lAcas q d mem scope dbl tok => Sys2Proof.Machine.execLAcas q d mem scope dbl tok s
  | .lAfadd q d mem scope dbl tok => Sys2Proof.Machine.execLAfadd q d mem scope dbl tok s
  | .lAinc q d mem scope dbl tok => Sys2Proof.Machine.execLAinc q d mem scope dbl tok s
  | .lVscadd q d mem x scope dbl tok fl => Sys2Proof.Machine.execLVscadd q d mem x scope dbl tok fl s
  | .lDprop q d mem ss scope => Sys2Proof.Machine.execLDprop q d mem ss scope s
  | .lDread q d mem ss scope => Sys2Proof.Machine.execLDread q d mem ss scope s
  | .lDrecycle q ss mem scope => Sys2Proof.Machine.execLDrecycle q ss mem scope s
  | .lPf q mem drop => Sys2Proof.Machine.execLPf q mem drop s
  | .lFence q mask scope kind => Sys2Proof.Machine.execLFence q mask scope kind s
  | .lBrel q a => Sys2Proof.Machine.execLBrel q a s
  | .lCld q d mem => Sys2Proof.Machine.execLCld q d mem s
  | .lCdrop q d => Sys2Proof.Machine.execLCdrop q d s
  | .lDsync q => Sys2Proof.Machine.execLDsync q s
  | .mCall q routine acc countM1 batch use mode => Sys2Proof.Machine.execMCall q routine acc countM1 batch use mode s
  | .mCommit q batch => Sys2Proof.Machine.execMCommit q batch s
  | .mWait q batch => Sys2Proof.Machine.execMWait q batch s
  | .mStat q d batch => Sys2Proof.Machine.execMStat q d batch s
  | .mZero q acc countM1 => Sys2Proof.Machine.execMZero q acc countM1 s
  | .mProg q a b => Sys2Proof.Machine.execMProg q a b s
  | .mSbuild q a b c => Sys2Proof.Machine.execMSbuild q a b c s
  | .mSstat q d => Sys2Proof.Machine.execMSstat q d s
  | .xGet q tag dst src len cls => Sys2Proof.Machine.execXGet q tag dst src len cls s
  | .xPut q tag dst src len cls => Sys2Proof.Machine.execXPut q tag dst src len cls s
  | .xCopy q tag dst src len cls => Sys2Proof.Machine.execXCopy q tag dst src len cls s
  | .xFill q tag dst val len cls unit => Sys2Proof.Machine.execXFill q tag dst val len cls unit s
  | .xStage q tag dst src len cls key => Sys2Proof.Machine.execXStage q tag dst src len cls key s
  | .xSeal q tag dst src len cls key => Sys2Proof.Machine.execXSeal q tag dst src len cls key s
  | .xSgather q tag dst src len cls desc => Sys2Proof.Machine.execXSgather q tag dst src len cls desc s
  | .xWait q tag => Sys2Proof.Machine.execXWait q tag s
  | .xStat q d tag => Sys2Proof.Machine.execXStat q d tag s
  | .xCancel q tag => Sys2Proof.Machine.execXCancel q tag s
  | .uFeeda a lenM1 all => Sys2Proof.Machine.execUFeeda a lenM1 all s
  | .uFeedb a lenM1 all => Sys2Proof.Machine.execUFeedb a lenM1 all s
  | .uMac => Sys2Proof.Machine.execUMac s
  | .uMacq => Sys2Proof.Machine.execUMacq s
  | .uFold => Sys2Proof.Machine.execUFold s
  | .uAccl a idx clr => Sys2Proof.Machine.execUAccl a idx clr s
  | .uNorm a sideB add => Sys2Proof.Machine.execUNorm a sideB add s
  | .uDraw a b qM1 => Sys2Proof.Machine.execUDraw a b qM1 s
  | .uSgath a => Sys2Proof.Machine.execUSgath a s
  | .uProbe a nM1 => Sys2Proof.Machine.execUProbe a nM1 s
  | .uStoptest off => Sys2Proof.Machine.execUStoptest off s
  | .uSkipz sideB n => Sys2Proof.Machine.execUSkipz sideB n s
  | .uEdge a b => Sys2Proof.Machine.execUEdge a b s
  | .uSwap a b => Sys2Proof.Machine.execUSwap a b s
  | .uPset d src => Sys2Proof.Machine.execUPset d src s
  | .uPadd d a b imm => Sys2Proof.Machine.execUPadd d a b imm s
  | .uPbr a b cond off => Sys2Proof.Machine.execUPbr a b cond off s
  | .uMloop a cnt off => Sys2Proof.Machine.execUMloop a cnt off s
  | .uWait a n => Sys2Proof.Machine.execUWait a n s
  | .uMend => Sys2Proof.Machine.execUMend s
  | .evPackageReset => Sys2Proof.Machine.execEvPackageReset s
  | .evRegisterWrite => Sys2Proof.Machine.execEvRegisterWrite s
  | .evClkcapWrite => Sys2Proof.Machine.execEvClkcapWrite s
  | .evClockStepChange => Sys2Proof.Machine.execEvClockStepChange s
  | .evThermalTrip => Sys2Proof.Machine.execEvThermalTrip s
  | .evTelemetrySample => Sys2Proof.Machine.execEvTelemetrySample s
  | .evClusterGate => Sys2Proof.Machine.execEvClusterGate s
  | .evClusterWake => Sys2Proof.Machine.execEvClusterWake s
  | .evLinkReset => Sys2Proof.Machine.execEvLinkReset s
  | .evEventRingConsume => Sys2Proof.Machine.execEvEventRingConsume s
  | .evEventRecordWrite => Sys2Proof.Machine.execEvEventRecordWrite s
  | .evLaunchRecord => Sys2Proof.Machine.execEvLaunchRecord s
  | .evDispatchDecision => Sys2Proof.Machine.execEvDispatchDecision s
  | .evDictionaryLoad => Sys2Proof.Machine.execEvDictionaryLoad s
  | .evLaunchIssuable => Sys2Proof.Machine.execEvLaunchIssuable s
  | .evPriorityPreempt => Sys2Proof.Machine.execEvPriorityPreempt s
  | .evLaunchComplete => Sys2Proof.Machine.execEvLaunchComplete s
  | .evReleaseFlush => Sys2Proof.Machine.execEvReleaseFlush s
  | .evCancellation => Sys2Proof.Machine.execEvCancellation s
  | .evBundleDispatch => Sys2Proof.Machine.execEvBundleDispatch s
  | .evCheckpointCommit => Sys2Proof.Machine.execEvCheckpointCommit s
  | .evTrapRollback => Sys2Proof.Machine.execEvTrapRollback s
  | .evAsyncFaultReport => Sys2Proof.Machine.execEvAsyncFaultReport s
  | .evPreemptByBoundary => Sys2Proof.Machine.execEvPreemptByBoundary s
  | .evPreemptByRollback => Sys2Proof.Machine.execEvPreemptByRollback s
  | .evContextSave => Sys2Proof.Machine.execEvContextSave s
  | .evContextRestore => Sys2Proof.Machine.execEvContextRestore s
  | .evRemoteWriteArrival => Sys2Proof.Machine.execEvRemoteWriteArrival s
  | .evReceiveQueuePerform => Sys2Proof.Machine.execEvReceiveQueuePerform s
  | .evWriteAcceptance => Sys2Proof.Machine.execEvWriteAcceptance s
  | .evRemoteBoundReply => Sys2Proof.Machine.execEvRemoteBoundReply s
  | .evPhaseArrival => Sys2Proof.Machine.execEvPhaseArrival s
  | .evTaggedWaitSatisfied => Sys2Proof.Machine.execEvTaggedWaitSatisfied s
  | .evWaitTimeout => Sys2Proof.Machine.execEvWaitTimeout s
  | .evHostInboundWrite => Sys2Proof.Machine.execEvHostInboundWrite s
  | .evSectorEvictWriteback => Sys2Proof.Machine.execEvSectorEvictWriteback s
  | .evHomeProbe => Sys2Proof.Machine.execEvHomeProbe s
  | .evTileFillComplete => Sys2Proof.Machine.execEvTileFillComplete s
  | .evTileFillFault => Sys2Proof.Machine.execEvTileFillFault s
  | .evMatrixRecordStart => Sys2Proof.Machine.execEvMatrixRecordStart s
  | .evMicroTileCommit => Sys2Proof.Machine.execEvMicroTileCommit s
  | .evMatrixCallComplete => Sys2Proof.Machine.execEvMatrixCallComplete s
  | .evMatrixMigrate => Sys2Proof.Machine.execEvMatrixMigrate s
  | .evMigrationReturn => Sys2Proof.Machine.execEvMigrationReturn s
  | .evAccDrainDone => Sys2Proof.Machine.execEvAccDrainDone s
  | .evCopyComplete => Sys2Proof.Machine.execEvCopyComplete s
  | .evStepCurrent => Sys2Proof.Machine.execEvStepCurrent s
  | .evScheduleReread => Sys2Proof.Machine.execEvScheduleReread s
  | .evProoferPrefetch => Sys2Proof.Machine.execEvProoferPrefetch s
  | .evLeaseRenewal => Sys2Proof.Machine.execEvLeaseRenewal s
  | .evReadLeaseGrant => Sys2Proof.Machine.execEvReadLeaseGrant s
  | .evLeaseRetry => Sys2Proof.Machine.execEvLeaseRetry s
  | .evWriteLeaseGrant => Sys2Proof.Machine.execEvWriteLeaseGrant s
  | .evRenewalGrant => Sys2Proof.Machine.execEvRenewalGrant s
  | .evLeaseFenced => Sys2Proof.Machine.execEvLeaseFenced s
  | .evLeaseDeadline => Sys2Proof.Machine.execEvLeaseDeadline s
  | .evPoolPageArrival => Sys2Proof.Machine.execEvPoolPageArrival s
  | .evPutAcknowledge => Sys2Proof.Machine.execEvPutAcknowledge s
  | .evPoolCacheEvict => Sys2Proof.Machine.execEvPoolCacheEvict s
  | .evStepCommit => Sys2Proof.Machine.execEvStepCommit s
  | .evStepLost => Sys2Proof.Machine.execEvStepLost s
  | .evStepRerunCheck => Sys2Proof.Machine.execEvStepRerunCheck s
  | .evFlitReceive => Sys2Proof.Machine.execEvFlitReceive s
  | .evNakReceive => Sys2Proof.Machine.execEvNakReceive s
  | .evReplayTimeout => Sys2Proof.Machine.execEvReplayTimeout s
  | .evLaneErrorThreshold => Sys2Proof.Machine.execEvLaneErrorThreshold s
  | .evLaneRetrainEnd => Sys2Proof.Machine.execEvLaneRetrainEnd s
  | .evStrandLoss => Sys2Proof.Machine.execEvStrandLoss s
  | .evStrandReturn => Sys2Proof.Machine.execEvStrandReturn s
  | .evLinkLost => Sys2Proof.Machine.execEvLinkLost s
  | .evUncorrectableError => Sys2Proof.Machine.execEvUncorrectableError s
  | .evAtsInvalidation => Sys2Proof.Machine.execEvAtsInvalidation s
  | .evResume => Sys2Proof.Machine.execEvResume s
  | .evKill => Sys2Proof.Machine.execEvKill s
  | .evPreempt => Sys2Proof.Machine.execEvPreempt s
  | .evStepOn => Sys2Proof.Machine.execEvStepOn s
  | .evStepOff => Sys2Proof.Machine.execEvStepOff s
  | .evCancel => Sys2Proof.Machine.execEvCancel s
  | .evInvalVa => Sys2Proof.Machine.execEvInvalVa s
  | .evInvalAsid => Sys2Proof.Machine.execEvInvalAsid s
  | .evInvalS2 => Sys2Proof.Machine.execEvInvalS2 s
  | .evMboxOpen => Sys2Proof.Machine.execEvMboxOpen s
  | .evMboxClose => Sys2Proof.Machine.execEvMboxClose s
  | .evSchedule => Sys2Proof.Machine.execEvSchedule s
  | .evGetVersion => Sys2Proof.Machine.execEvGetVersion s
  | .evGetCapabilities => Sys2Proof.Machine.execEvGetCapabilities s
  | .evNegotiateAlgorithms => Sys2Proof.Machine.execEvNegotiateAlgorithms s
  | .evGetDigests => Sys2Proof.Machine.execEvGetDigests s
  | .evGetCertificate => Sys2Proof.Machine.execEvGetCertificate s
  | .evChallenge => Sys2Proof.Machine.execEvChallenge s
  | .evGetMeasurements => Sys2Proof.Machine.execEvGetMeasurements s
  | .evKeyExchange => Sys2Proof.Machine.execEvKeyExchange s
  | .evFinish => Sys2Proof.Machine.execEvFinish s
  | .evHeartbeat => Sys2Proof.Machine.execEvHeartbeat s
  | .evKeyUpdate => Sys2Proof.Machine.execEvKeyUpdate s
  | .evEndSession => Sys2Proof.Machine.execEvEndSession s
  | .evSetCertificate => Sys2Proof.Machine.execEvSetCertificate s
  | .evGetCsr => Sys2Proof.Machine.execEvGetCsr s
  | .evChunkSend => Sys2Proof.Machine.execEvChunkSend s
  | .evChunkGet => Sys2Proof.Machine.execEvChunkGet s
  | .evUnsupportedRequest => Sys2Proof.Machine.execEvUnsupportedRequest s
  | .evOwnerAuth => Sys2Proof.Machine.execEvOwnerAuth s
  | .evSetKey => Sys2Proof.Machine.execEvSetKey s
  | .evClearKey => Sys2Proof.Machine.execEvClearKey s
  | .evLockInterface => Sys2Proof.Machine.execEvLockInterface s
  | .evStopInterface => Sys2Proof.Machine.execEvStopInterface s
  | .evTdiError => Sys2Proof.Machine.execEvTdiError s
  | .evRemoteRequestArrival => Sys2Proof.Machine.execEvRemoteRequestArrival s
  | .evRemoteReply => Sys2Proof.Machine.execEvRemoteReply s
  | .evPatrolScrub => Sys2Proof.Machine.execEvPatrolScrub s
  | .evTdiRun => Sys2Proof.Machine.execEvTdiRun s
  | .evIdeKm => Sys2Proof.Machine.execEvIdeKm s

end Sys2Proof.Machine
end

