-- ==== Sys2Proof/Machine/Step.lean ====
section
/-! DEFINITION. Step.lean: one step of the machine, and an instruction placed where the next step fetches it (log 13). -/
namespace Sys2Proof.Machine

/-- One step: what arrives from outside, else one act of the machine's own. -/
def step (s : State) : Host.Outcome State Fault Refusal := stepWith exec s

/-- The state in which the next step dispatches and runs the instruction whose C word is `w`: the loaded code of a launch whose
context is issuable, standing at pc 0. -/
def State.withFetchWord (s : State) (_nbits w : Nat) : State := s.placeWord (BitVec.ofNat 32 w)

end Sys2Proof.Machine
end

