-- ==== Sys2Proof/Safety.lean ====
section
/-! DEFINITION. Safety.lean: what counts as a safe run. -/
namespace Sys2Proof

/-- A step that does not stop the machine: nothing in the manual stops it, so a safe run never faults and is never refused. -/
def goesOn : Host.Outcome Machine.State Machine.Fault Machine.Refusal → Bool
  | .next _ => true
  | .fault _ => false
  | .refused _ => false

/-- A state from which the next `n` steps go on. -/
def SafeFor (n : Nat) (s : Machine.State) : Prop := ∃ t, core.run n s = .next t

end Sys2Proof
end

