-- ==== Sys2Proof/Certificates/Slice0/Obligations.lean ====
section
/-! DEFINITION. Obligations.lean: what is claimed of the machine. Each claim says in words what it states and which rules of spec/
it rests on; the words in which several claims are put stand in `Sys2Proof.Claims`. -/
namespace Sys2Proof.Claims
open Sys2Proof.Machine

/-- The signed value of a w-bit pattern (R103). -/
def sval (w x : Nat) : Int := if 2 * (x % 2 ^ w) < 2 ^ w then (x % 2 ^ w : Nat) else (x % 2 ^ w : Nat) - (2 ^ w : Nat)

/-- The value of an element of an integer type: signed for T 0 to 3 (Table 3.11). -/
def tval (t : Ty) (x : Nat) : Int := if t.toNat ≤ 3 then sval (tyBits t) x else (x % 2 ^ tyBits t : Nat)

/-- The w-bit pattern of an integer, modulo 2^w. -/
def wrap (w : Nat) (i : Int) : Nat := (i % (2 ^ w : Nat)).toNat

/-- The least and the greatest value of an integer type. -/
def least (t : Ty) : Int := if t.toNat ≤ 3 then -(2 ^ (tyBits t - 1) : Nat) else 0
def greatest (t : Ty) : Int := if t.toNat ≤ 3 then (2 ^ (tyBits t - 1) : Nat) - 1 else (2 ^ tyBits t : Nat) - 1

/-- An integer brought into the range of a type. -/
def saturate (t : Ty) (i : Int) : Int := if i < least t then least t else if greatest t < i then greatest t else i

/-- R97, Table 5.1: the formats, the sign of an encoding, whether it is a finite number, and that number. -/
def formats : List Fmt := [fp64, fp32, fp16, bf16, fp8e5, fp8e4]
def signOf (f : Fmt) (x : Nat) : Bool := x / 2 ^ (f.eb + f.fb) % 2 == 1
def number (f : Fmt) (x : Nat) : Bool :=
  x / 2 ^ f.fb % 2 ^ f.eb != 2 ^ f.eb - 1 || (f.e4 && x % 2 ^ f.fb != 2 ^ f.fb - 1)
def valueOf (f : Fmt) (x : Nat) : ℚ :=
  let E := x / 2 ^ f.fb % 2 ^ f.eb
  let F : ℚ := (x % 2 ^ f.fb : Nat) / 2 ^ f.fb
  let bias : Int := 2 ^ (f.eb - 1) - 1
  (if signOf f x then -1 else 1) * if E = 0 then 2 ^ (1 - bias) * F else 2 ^ ((E : Int) - bias) * (1 + F)

/-- The largest finite value, half the distance of its neighbours, and an infinite result, which fp8e4 has not (R98). -/
def greatestFinite (f : Fmt) : ℚ := if f.e4 then 448 else (2 - 1 / 2 ^ f.fb) * 2 ^ (2 ^ (f.eb - 1) - 1)
def halfStep (f : Fmt) : ℚ := if f.e4 then 16 else 2 ^ (2 ^ (f.eb - 1) - 1) / 2 ^ (f.fb + 1)
def infinite (f : Fmt) (neg : Bool) : Nat :=
  if f.e4 then 0x7F else (if neg then 2 ^ (f.eb + f.fb) else 0) + (2 ^ f.eb - 1) * 2 ^ f.fb

/-- R105, R106, Table 5.4: r is the result of rounding the exact value v, of sign `neg`, in mode rm (0 RNE, 1 RTZ, 2 RUP, 3 RDN). -/
def Rounded (f : Fmt) (rm : Rm) (neg : Bool) (v : ℝ) (r : Nat) : Prop :=
  let mag := fun (y : Nat) => y < 2 ^ (f.eb + f.fb) ∧ number f y = true
  let val := fun (y : Nat) => ((valueOf f y : ℚ) : ℝ)
  let gives := fun (y : Nat) => mag y ∧ r = (if neg then 2 ^ (f.eb + f.fb) else 0) + y
  let top : ℝ := (greatestFinite f : ℚ)
  let edge : ℝ := top + (halfStep f : ℚ)
  if rm = 0 then
    (edge < |v| ∨ (|v| = edge ∧ f.e4 = false) → r = infinite f neg) ∧
    (¬ (edge < |v| ∨ (|v| = edge ∧ f.e4 = false)) → ∃ y, gives y ∧ ∀ z, mag z → z ≠ y →
      abs (val y - |v|) < abs (val z - |v|) ∨ (abs (val y - |v|) = abs (val z - |v|) ∧ y % 2 = 0))
  else if rm = 1 ∨ (rm = 2 ∧ neg = true) ∨ (rm = 3 ∧ neg = false) then
    ∃ y, gives y ∧ val y ≤ |v| ∧ ∀ z, mag z → val z ≤ |v| → val z ≤ val y
  else
    (top < |v| → r = infinite f neg) ∧
    (|v| ≤ top → ∃ y, gives y ∧ |v| ≤ val y ∧ ∀ z, mag z → |v| ≤ val z → val y ≤ val z)

/-- R107: the same, with saturation. -/
def Delivered (f : Fmt) (rm : Rm) (sat neg : Bool) (v : ℝ) (r : Nat) : Prop :=
  ∃ r0, Rounded f rm neg v r0 ∧
    r = if sat = true ∧ r0 = infinite f neg then (if neg then 2 ^ (f.eb + f.fb) else 0) + f.maxFinite else r0

/-- The sign of an exact sum v of terms of signs a and b (R102). -/
def SumSign (rm : Rm) (a b : Bool) (v : ℝ) (neg : Bool) : Prop :=
  (0 < v → neg = false) ∧ (v < 0 → neg = true) ∧ (v = 0 → neg = if a = b then a else rm == 3)

/-- i is v rounded to an integer (R105, R108). -/
def IntRounded (rm : Rm) (v : ℚ) (i : Int) : Prop :=
  if rm = 0 then |v - i| ≤ 1 / 2 ∧ (|v - i| = 1 / 2 → i % 2 = 0) else if rm = 1 then i = if 0 ≤ v then ⌊v⌋ else ⌈v⌉
  else if rm = 2 then i = ⌈v⌉ else i = ⌊v⌋

/-- The value of a finite exact value of the model. -/
def exact : FVal → ℚ
  | .fin n m e _ => (if n then -1 else 1) * m * 2 ^ e
  | _ => 0

/-- What an encoding is: a number with its sign and value, an infinity, or a NaN. -/
def DecodedAs (f : Fmt) (x : Nat) (v : FVal) : Prop :=
  if number f x then ∃ m e, v = .fin (signOf f x) m e false ∧ exact v = valueOf f x
  else v = if f.e4 = false ∧ x % 2 ^ f.fb = 0 then .inf (signOf f x) else .nan

/-- Every byte of memory reads alike: the core's scratchpad, HBM, the host's memory, the pool and its cache. -/
def SameMemory (s t : State) : Prop := ∀ p, t.byteAt p = s.byteAt p

/-- Nothing outside the context in focus differs. -/
def SameOutside (s t : State) : Prop := t = { s with ctx := t.ctx }

/-- No delay slot of a taken transfer is still to run (R328, R453). -/
def NoDelay (s : State) : Prop := ∀ x, s.ctx.regs.xfer = some x → x.left = 0

/-- The context in focus differs at most in its registers, the values saved for the rest of the bundle, and the trap it holds. -/
def OnlyRegisters (s t : State) : Prop :=
  t = { s with ctx := { s.ctx with regs := t.ctx.regs, saved := t.ctx.saved, trap := t.ctx.trap, shadow := t.ctx.shadow } }

end Sys2Proof.Claims

open Sys2Proof Sys2Proof.Machine Sys2Proof.Claims

/-- R34, Table 2.4: a register reads what was last written to it, and a write changes no other register of its file; s0 reads 0,
p0 true, k0 all ones and c0 the null capability, whatever is written to them. -/
def Obligations.RegisterFilesReadBack : Prop :=
  ∀ s : State, s.cur = none →
    (∀ (r r' : SReg) x, (s.writeS r x).readS r' = if r' = 0 then 0 else if r' = r then x else s.readS r') ∧
    (∀ (r r' : PReg) x, (s.writeP r x).readP r' = if r' = 0 then true else if r' = r then x else s.readP r') ∧
    (∀ (r r' : VReg) x, (s.writeV r x).readV r' = if r' = r then x else s.readV r') ∧
    (∀ (r r' : KReg) x, (s.writeK r x).readK r' = if r' = 0 then BitVec.allOnes 64 else if r' = r then x else s.readK r') ∧
    (∀ (r r' : CReg) x, (s.writeC r x).readC r' = if r' = 0 then 0 else if r' = r then x else s.readC r') ∧
    (∀ (r r' : TReg) x, (s.writeT r x).readT r' = if r' = r then x else s.readT r') ∧
    (∀ (r r' : QReg) x, (s.writeQ r x).readQ r' = if r' = r then x else s.readQ r') ∧
    (∀ (r r' : MpReg) x, (s.writeMp r x).readMp r' = if r' = r then x else s.readMp r')

/-- R34, R36: a write of a register changes that register of its file, the value kept for the operations of its bundle that have not
dispatched, and for a vector register its shadow bit (R398): nothing else in the machine, whose memory reads as before. A write
of s0, p0, k0 or c0 changes nothing. -/
def Obligations.RegisterWritesTouchOneFile : Prop :=
  ∀ s : State,
    (∀ (r : SReg) x, s.writeS r x =
      { s with ctx := { s.ctx with regs := { s.ctx.regs with s := (s.writeS r x).ctx.regs.s }, saved := (s.writeS r x).ctx.saved } }) ∧
    (∀ (r : PReg) x, s.writeP r x =
      { s with ctx := { s.ctx with regs := { s.ctx.regs with p := (s.writeP r x).ctx.regs.p }, saved := (s.writeP r x).ctx.saved } }) ∧
    (∀ (r : VReg) x, s.writeV r x =
      { s with ctx := { s.ctx with regs := { s.ctx.regs with v := (s.writeV r x).ctx.regs.v }, saved := (s.writeV r x).ctx.saved,
                                   shadow := s.ctx.shadow ||| (1 <<< r.toNat) } }) ∧
    (∀ (r : KReg) x, s.writeK r x =
      { s with ctx := { s.ctx with regs := { s.ctx.regs with k := (s.writeK r x).ctx.regs.k }, saved := (s.writeK r x).ctx.saved } }) ∧
    (∀ (r : CReg) x, s.writeC r x =
      { s with ctx := { s.ctx with regs := { s.ctx.regs with c := (s.writeC r x).ctx.regs.c }, saved := (s.writeC r x).ctx.saved } }) ∧
    (∀ (r : TReg) x, s.writeT r x =
      { s with ctx := { s.ctx with regs := { s.ctx.regs with t := (s.writeT r x).ctx.regs.t }, saved := (s.writeT r x).ctx.saved } }) ∧
    (∀ (r : QReg) x, s.writeQ r x =
      { s with ctx := { s.ctx with regs := { s.ctx.regs with q := (s.writeQ r x).ctx.regs.q }, saved := (s.writeQ r x).ctx.saved } }) ∧
    (∀ (r : MpReg) x, s.writeMp r x =
      { s with ctx := { s.ctx with regs := { s.ctx.regs with mp := (s.writeMp r x).ctx.regs.mp }, saved := (s.writeMp r x).ctx.saved } }) ∧
    (∀ x, s.writeS 0 x = s) ∧ (∀ x, s.writeP 0 x = s) ∧ (∀ x, s.writeK 0 x = s) ∧ (∀ x, s.writeC 0 x = s) ∧
    (∀ (r r' : SReg) x, r' ≠ r → (s.writeS r x).ctx.regs.s[r'.toNat]'r'.isLt = s.ctx.regs.s[r'.toNat]'r'.isLt) ∧
    (∀ (r r' : VReg) x, r' ≠ r → (s.writeV r x).ctx.regs.v[r'.toNat]'r'.isLt = s.ctx.regs.v[r'.toNat]'r'.isLt) ∧
    (∀ (r r' : PReg) x, r' ≠ r → (s.writeP r x).ctx.regs.p.getLsbD r'.toNat = s.ctx.regs.p.getLsbD r'.toNat) ∧
    (∀ (r r' : KReg) x, r' ≠ r → (s.writeK r x).ctx.regs.k[r'.toNat]'r'.isLt = s.ctx.regs.k[r'.toNat]'r'.isLt) ∧
    (∀ (r r' : CReg) x, r' ≠ r → (s.writeC r x).ctx.regs.c[r'.toNat]'r'.isLt = s.ctx.regs.c[r'.toNat]'r'.isLt) ∧
    (∀ (r r' : TReg) x, r' ≠ r → (s.writeT r x).ctx.regs.t[r'.toNat]'r'.isLt = s.ctx.regs.t[r'.toNat]'r'.isLt) ∧
    (∀ (r r' : QReg) x, r' ≠ r → (s.writeQ r x).ctx.regs.q[r'.toNat]'r'.isLt = s.ctx.regs.q[r'.toNat]'r'.isLt) ∧
    (∀ (r r' : MpReg) x, r' ≠ r → (s.writeMp r x).ctx.regs.mp[r'.toNat]'r'.isLt = s.ctx.regs.mp[r'.toNat]'r'.isLt) ∧
    (∀ (r : SReg) x, r ≠ 0 → (s.writeS r x).ctx.regs.s[r.toNat]'r.isLt = x) ∧
    (∀ (r : VReg) x, (s.writeV r x).ctx.regs.v[r.toNat]'r.isLt = x) ∧
    (∀ (r : PReg) x, r ≠ 0 → (s.writeP r x).ctx.regs.p.getLsbD r.toNat = x) ∧
    (∀ (r : KReg) x, r ≠ 0 → (s.writeK r x).ctx.regs.k[r.toNat]'r.isLt = x) ∧
    (∀ (r : CReg) x, r ≠ 0 → (s.writeC r x).ctx.regs.c[r.toNat]'r.isLt = x) ∧
    (∀ (r : TReg) x, (s.writeT r x).ctx.regs.t[r.toNat]'r.isLt = x) ∧
    (∀ (r : QReg) x, (s.writeQ r x).ctx.regs.q[r.toNat]'r.isLt = x) ∧
    (∀ (r : MpReg) x, (s.writeMp r x).ctx.regs.mp[r.toNat]'r.isLt = x)

/-- R36: an operation reads a register as it stood before the other operations of its bundle wrote it, whichever of them dispatched
first: after one operation of a bundle has written s, p, v or k register r, another one of that bundle still reads the old value,
and an operation of a later bundle the new one. -/
def Obligations.BundleReadsBeforeItsWrites : Prop :=
  ∀ (s : State) (o o' l : PendOp), s.cur = some o → o' ∈ s.ctx.queue → o'.id.seq = o.id.seq →
    (∀ e ∈ s.ctx.saved, e.1 ≠ o.id.seq) → (∀ e ∈ s.ctx.saved, e.1 ≠ l.id.seq) → l.id.seq ≠ o.id.seq →
    (∀ (r : SReg) x, r ≠ 0 →
      { s.writeS r x with cur := some o' }.readS r = s.ctx.regs.s[r.toNat]'r.isLt ∧ { s.writeS r x with cur := some l }.readS r = x) ∧
    (∀ (r : PReg) x, r ≠ 0 →
      { s.writeP r x with cur := some o' }.readP r = s.ctx.regs.p.getLsbD r.toNat ∧ { s.writeP r x with cur := some l }.readP r = x) ∧
    (∀ (r : VReg) x,
      { s.writeV r x with cur := some o' }.readV r = s.ctx.regs.v[r.toNat]'r.isLt ∧ { s.writeV r x with cur := some l }.readV r = x) ∧
    (∀ (r : KReg) x, r ≠ 0 →
      { s.writeK r x with cur := some o' }.readK r = s.ctx.regs.k[r.toNat]'r.isLt ∧ { s.writeK r x with cur := some l }.readK r = x)

/-- R61: every present slot's operation carries a predicate: in the C slot in bits 25 and 24:22 of its word, elsewhere in bits 55 and
54:52, and every decode check is of the word alone. It executes when the named predicate, inverted by the negate bit, is 1; one that does
not execute changes no state and raises no trap (in the C slot flow passes its bundle, R327); negate with p0 never executes. -/
def Obligations.FalsePredicateDoesNothing : Prop :=
  (∀ (i : Instr) (q : Pred) (s : State), opPred i = some q →
    s.holds q = (s.readP q.idx ^^ q.neg) ∧
    (s.holds q = false → exec i s = .next (if i.slotOf = some .c then s.passBundle else s))) ∧
  (∀ i : Instr, i.slotOf ≠ none → (opPred i).isSome = true) ∧
  (∀ (i : Instr) (q : Pred) (w : BitVec 64), opPred i = some q → encode i = some w →
    if i.slotOf = some .c then w.getLsbD 25 = q.neg ∧ fld w 22 3 = q.idx else w.getLsbD 55 = q.neg ∧ fld w 52 3 = q.idx) ∧
  (∀ s : State, s.holds ⟨true, 0⟩ = false)
/-- Table 6.2 (R124): the result of every AR integer instruction, under a predicate that holds. -/
def Obligations.ScalarIntegerResults : Prop :=
  ∀ (q : Pred) (d a b c : SReg) (f : BitVec 4) (s : State), s.holds q = true →
    let x := s.readS a
    let y := s.readS b
    let z := s.readS c
    exec (.aAdd q d a b) s = .next (s.writeS d (BitVec.ofNat 64 (x.toNat + y.toNat))) ∧
    exec (.aSub q d a b) s = .next (s.writeS d (BitVec.ofInt 64 (x.toInt - y.toInt))) ∧
    exec (.aMul q d a b) s = .next (s.writeS d (BitVec.ofNat 64 (x.toNat * y.toNat))) ∧
    exec (.aMulh q d a b) s = .next (s.writeS d (BitVec.ofInt 64 (x.toInt * y.toInt / 2 ^ 64))) ∧
    exec (.aMulhn q d a b) s = .next (s.writeS d (BitVec.ofNat 64 (x.toNat * y.toNat / 2 ^ 64))) ∧
    exec (.aDiv q d a b) s = .next (s.writeS d (if y = 0 then BitVec.allOnes 64 else BitVec.ofInt 64 (x.toInt.tdiv y.toInt))) ∧
    exec (.aDivn q d a b) s = .next (s.writeS d (if y = 0 then BitVec.allOnes 64 else BitVec.ofNat 64 (x.toNat / y.toNat))) ∧
    exec (.aRem q d a b) s = .next (s.writeS d (if y = 0 then x else BitVec.ofInt 64 (x.toInt.tmod y.toInt))) ∧
    exec (.aRemn q d a b) s = .next (s.writeS d (if y = 0 then x else BitVec.ofNat 64 (x.toNat % y.toNat))) ∧
    exec (.aAnd q d a b) s = .next (s.writeS d (x &&& y)) ∧
    exec (.aOr q d a b) s = .next (s.writeS d (x ||| y)) ∧
    exec (.aXor q d a b) s = .next (s.writeS d (x ^^^ y)) ∧
    exec (.aAndn q d a b) s = .next (s.writeS d (x &&& ~~~y)) ∧
    exec (.aShl q d a b) s = .next (s.writeS d (BitVec.ofNat 64 (x.toNat * 2 ^ (y.toNat % 64)))) ∧
    exec (.aShr q d a b) s = .next (s.writeS d (BitVec.ofNat 64 (x.toNat / 2 ^ (y.toNat % 64)))) ∧
    exec (.aSar q d a b) s = .next (s.writeS d (BitVec.ofInt 64 (x.toInt / 2 ^ (y.toNat % 64)))) ∧
    exec (.aRotl q d a b) s = .next (s.writeS d
      (BitVec.ofNat 64 (x.toNat * 2 ^ (y.toNat % 64) + x.toNat / 2 ^ (64 - y.toNat % 64)))) ∧
    exec (.aMin q d a b) s = .next (s.writeS d (if x.toInt < y.toInt then x else y)) ∧
    exec (.aMax q d a b) s = .next (s.writeS d (if x.toInt < y.toInt then y else x)) ∧
    exec (.aMinn q d a b) s = .next (s.writeS d (if x.toNat < y.toNat then x else y)) ∧
    exec (.aMaxn q d a b) s = .next (s.writeS d (if x.toNat < y.toNat then y else x)) ∧
    exec (.aSel q d a b c) s = .next (s.writeS d (if z ≠ 0 then x else y)) ∧
    exec (.aPopc q d a) s = .next (s.writeS d (BitVec.ofNat 64 ((List.range 64).countP x.getLsbD))) ∧
    (∃ n ≤ 64, exec (.aClz q d a) s = .next (s.writeS d (BitVec.ofNat 64 n)) ∧ x.toNat < 2 ^ (64 - n) ∧ (n < 64 → 2 ^ (63 - n) ≤ x.toNat)) ∧
    (∃ n ≤ 64, exec (.aCtz q d a) s = .next (s.writeS d (BitVec.ofNat 64 n)) ∧ 2 ^ n ∣ x.toNat ∧ (n < 64 → x.getLsbD n = true)) ∧
    exec (.aBext q d a b) s = .next (s.writeS d
      (BitVec.ofNat 64 (x.toNat / 2 ^ (y.toNat % 64) % 2 ^ (y.toNat / 256 % 64 + 1)))) ∧
    (∃ v : Word, exec (.aBins q d a b c) s = .next (s.writeS d v) ∧ ∀ i < 64,
      v.getLsbD i = if z.toNat % 64 ≤ i ∧ i < z.toNat % 64 + (z.toNat / 256 % 64 + 1) then y.getLsbD (i - z.toNat % 64) else x.getLsbD i) ∧
    exec (.aLea q d a b f) s = .next (s.writeS d (BitVec.ofNat 64 (x.toNat + y.toNat * 2 ^ f.toNat))) ∧
    exec (.aMadd q d a b c) s = .next (s.writeS d (BitVec.ofNat 64 (x.toNat * y.toNat + z.toNat)))

/-- Table 6.3 (R125): the result of every AI instruction, x being the immediate sign-extended to 64 bits, under a predicate that
holds; the sa field of `movi` is zero and a shift's imm32 outside 0 to 63 is ILLEGAL_FIELD. -/
def Obligations.ScalarImmediateResults : Prop :=
  (∀ (q : Pred) (d a : SReg) (i : BitVec 32) (n : BitVec 6) (s : State), s.holds q = true →
     let x := s.readS a
     exec (.aAddi q d a i) s = .next (s.writeS d (BitVec.ofInt 64 (x.toInt + i.toInt))) ∧
     exec (.aAndi q d a i) s = .next (s.writeS d (x &&& BitVec.ofInt 64 i.toInt)) ∧
     exec (.aOri q d a i) s = .next (s.writeS d (x ||| BitVec.ofInt 64 i.toInt)) ∧
     exec (.aXori q d a i) s = .next (s.writeS d (x ^^^ BitVec.ofInt 64 i.toInt)) ∧
     exec (.aShli q d a n) s = .next (s.writeS d (BitVec.ofNat 64 (x.toNat * 2 ^ n.toNat))) ∧
     exec (.aShri q d a n) s = .next (s.writeS d (BitVec.ofNat 64 (x.toNat / 2 ^ n.toNat))) ∧
     exec (.aSari q d a n) s = .next (s.writeS d (BitVec.ofInt 64 (x.toInt / 2 ^ n.toNat))) ∧
     exec (.aMovi q d i) s = .next (s.writeS d (BitVec.ofInt 64 i.toInt)) ∧
     exec (.aMovhi q d a i) s = .next (s.writeS d (BitVec.ofNat 64 (i.toNat * 2 ^ 32 + x.toNat % 2 ^ 32))) ∧
     exec (.aMuli q d a i) s = .next (s.writeS d (BitVec.ofInt 64 (x.toInt * i.toInt)))) ∧
  (∀ w : BitVec 64, fld w 56 8 = 0x27 → fld w 40 6 ≠ 0 → decodeSlot .a w = .illegalField) ∧
  (∀ w : BitVec 64, fld w 56 8 ∈ [0x24, 0x25, 0x26] → fld w 14 26 ≠ 0 → decodeSlot .a w = .illegalField)

/-- Table 6.4 (R126) and R127: compares and predicate instructions write pd, under a predicate that holds. -/
def Obligations.PredicateResults : Prop :=
  ∀ (q : Pred) (d : PReg) (a b : SReg) (i : BitVec 32) (pa pb : PReg) (s : State), s.holds q = true →
    let table := fun (cond : BitVec 3) (x y : Word) =>
      if cond = 0 then decide (x = y) else if cond = 1 then decide (x ≠ y) else if cond = 2 then decide (x.toInt < y.toInt)
      else if cond = 3 then decide (x.toInt ≤ y.toInt) else if cond = 4 then decide (x.toNat < y.toNat)
      else if cond = 5 then decide (x.toNat ≤ y.toNat) else if cond = 6 then decide (x.toInt > y.toInt)
      else decide (x.toInt ≥ y.toInt)
    (∀ cond, exec (.aCmp q d a b cond) s = .next (s.writeP d (table cond (s.readS a) (s.readS b)))) ∧
    (∀ cond, exec (.aCmpi q d a i cond) s = .next (s.writeP d (table cond (s.readS a) (BitVec.ofInt 64 i.toInt)))) ∧
    exec (.aPand q d pa pb) s = .next (s.writeP d (s.readP pa && s.readP pb)) ∧
    exec (.aPor q d pa pb) s = .next (s.writeP d (s.readP pa || s.readP pb)) ∧
    exec (.aPxor q d pa pb) s = .next (s.writeP d (s.readP pa ^^ s.readP pb)) ∧
    exec (.aPnot q d pa) s = .next (s.writeP d (!s.readP pa)) ∧
    exec (.aPbit q d a b) s = .next (s.writeP d ((s.readS a).toNat.testBit ((s.readS b).toNat % 64)))

/-- R128 to R132 with R119: the scalar floating-point instructions round the exact result once and write it with the bits above a
32-bit result zero (an i32 result sign-extended), when no condition that FPCTL enables holds for the result (R122, R123). -/
def Obligations.ScalarFloatResults : Prop :=
  ∀ (q : Pred) (d a b c : SReg) (dbl : Bool) (rm : Rm) (s : State), s.holds q = true →
    let p := if dbl then fp64 else fp32
    let x := (s.readS a).toNat % 2 ^ p.width
    let y := (s.readS b).toNat % 2 ^ p.width
    let z := (s.readS c).toNat % 2 ^ p.width
    let quiet := fun (r : Nat) (ops : List Nat) => fpBad s.readFpctl (p.decode r) (ops.map p.decode) = false
    let gives := fun (i : Instr) (ops : List Nat) (v : FVal) =>
      quiet (p.round rm false v) ops → exec i s = .next (s.writeS d (BitVec.ofNat 64 (p.round rm false v)))
    gives (.aFadd q d a b dbl rm) [x, y] ((p.decode x).add rm (p.decode y)) ∧
    gives (.aFsub q d a b dbl rm) [x, y] ((p.decode x).add rm (p.decode y).negate) ∧
    gives (.aFmul q d a b dbl rm) [x, y] ((p.decode x).mul (p.decode y)) ∧
    gives (.aFma q d a b c dbl rm) [x, y, z] (((p.decode x).mul (p.decode y)).add rm (p.decode z)) ∧
    gives (.aFdiv q d a b dbl rm) [x, y] ((p.decode x).div (2 * p.fb + 5) (p.decode y)) ∧
    gives (.aFsqrt q d a dbl rm) [x] ((p.decode x).sqrt (p.fb + 3)) ∧
    (quiet (p.minBits x y) [x, y] → exec (.aFmin q d a b dbl) s = .next (s.writeS d (BitVec.ofNat 64 (p.minBits x y)))) ∧
    (quiet (p.maxBits x y) [x, y] → exec (.aFmax q d a b dbl) s = .next (s.writeS d (BitVec.ofNat 64 (p.maxBits x y)))) ∧
    (∀ (pd : PReg) (cond : BitVec 3),
      exec (.aFcmp q pd a b dbl cond) s = .next (s.writeP pd (fpCond cond (p.decode x) (p.decode y)))) ∧
    (∃ n ≤ 8, exec (.aFclass q d a dbl) s = .next (s.writeS d (BitVec.ofNat 64 (2 ^ n))) ∧
      (n = 8 ↔ (p.decode x).isNan = true) ∧ (n = 0 ∨ n = 7 ↔ (p.decode x).isFin = false ∧ (p.decode x).isNan = false) ∧
      (n = 3 ∨ n = 4 ↔ (p.decode x).isZero = true)) ∧
    (∀ (dt st : Ty) (sat : Bool), cvtTy dt = true → cvtTy st = true →
      let v := (s.readS a).toNat % 2 ^ tyBits st
      let r := convert rm sat dt st v
      (floatTy dt = false ∨ fpBad s.readFpctl ((fmtOf dt).decode r) [cvtVal st v] = false) →
      exec (.aFcvt q d a dt st sat rm) s =
        .next (s.writeS d (if dt = 2 then BitVec.ofInt 64 (BitVec.ofNat 32 r).toInt else BitVec.ofNat 64 r)))

/-- R48, R122, R133, Tables 2.8 and 6.1: system registers read zero-extended from their own state, the four program registers take what is
written with reserved bits ignored, a write of another number changes no register, mp registers and loop indices move as R133 says. The
other operations of the bundle are governed by FPCTL as it stood before a `syswr` of their bundle. -/
def Obligations.SystemRegisterAccess : Prop :=
  ∀ (q : Pred) (d a : SReg) (m : MpReg) (s : State), s.holds q = true →
    let writes := fun (n : BitVec 12) (g : Regs) =>
      ∃ l, exec (.aSyswr q a n) s = .next { s with ctx := { s.ctx with regs := g, saved := l } }
    (∀ n, exec (.aSysrd q d n) s = .next (s.writeS d (s.sysReg n))) ∧
    s.sysReg 0x000 = s.ctx.status ∧ s.sysReg 0x001 = s.ctx.ckstat ∧ s.sysReg 0x002 = s.ctx.progidx.setWidth 64 ∧
    s.sysReg 0x003 = s.ctx.mtmask.setWidth 64 ∧ s.sysReg 0x004 = s.ctx.spLo ∧ s.sysReg 0x005 = s.ctx.spHi ∧
    s.sysReg 0x006 = s.ctx.domain ∧ s.sysReg 0x007 = s.readFpctl ∧ s.sysReg 0x008 = s.ctx.regs.racectl ∧
    ((∀ e ∈ s.ctx.saved, e.1 ≠ s.opId.seq) → s.readFpctl = s.ctx.regs.fpctl) ∧
    s.sysReg 0x009 = s.ctx.regs.seed ∧ s.sysReg 0x00A = s.ctx.regs.waitlimit ∧ s.sysReg 0x00B = s.ctx.stepToken ∧
    s.sysReg 0x00C = s.ctx.partWord.setWidth 64 ∧ s.sysReg 0x00D = s.ctx.ctxId.setWidth 64 ∧
    s.sysReg 0x00E = s.pkg.shape ∧ s.sysReg 0x00F = s.pkg.num.setWidth 64 ∧
    (∀ i : Fin 16, s.sysReg (0x010 + BitVec.ofNat 12 i) = s.ctx.wallow[i] ∧ s.sysReg (0x020 + BitVec.ofNat 12 i) = s.ctx.window[i]) ∧
    (∀ i : Fin 8, s.sysReg (0x040 + BitVec.ofNat 12 i) = s.ctx.trapRec[i]) ∧
    writes 0x007 { s.ctx.regs with fpctl := s.readS a &&& 0xF } ∧
    writes 0x008 { s.ctx.regs with racectl := s.readS a &&& 0xFFFFFFFFFFFF000F } ∧
    writes 0x009 { s.ctx.regs with seed := s.readS a } ∧
    writes 0x00A { s.ctx.regs with waitlimit := s.readS a } ∧
    (∀ n, n.toNat < 0x007 ∨ 0x00A < n.toNat → writes n s.ctx.regs) ∧
    (∀ (o o' : PendOp) (t : State), s.cur = some o → o' ∈ s.ctx.queue → o'.id.seq = o.id.seq → (∀ e ∈ s.ctx.saved, e.1 ≠ o.id.seq) →
      exec (.aSyswr q a 0x007) s = .next t → { t with cur := some o' }.readFpctl = s.ctx.regs.fpctl) ∧
    exec (.aMpset q m a) s = .next (s.writeMp m (s.readS a)) ∧
    exec (.aMpget q d m) s = .next (s.writeS d (s.readMp m)) ∧
    (∀ n : BitVec 3, exec (.aLidx q d n) s = .next (s.writeS d ((s.opId.lidx.getD n.toNat 0).setWidth 64)))

/-- The frame of the A slot: an A-slot operation that goes on changes at most the registers the scoreboard names as its
destinations, the values kept for its bundle, the four program registers (and those only in `syswr`), and the trap it raises; every
byte of memory and everything else is as before. -/
def Obligations.ScalarFrame : Prop :=
  ∀ (i : Instr) (s t : State), i.slotOf = some .a → exec i s = .next t →
    t = { s with ctx := { s.ctx with
      regs := { s.ctx.regs with s := t.ctx.regs.s, p := t.ctx.regs.p, mp := t.ctx.regs.mp, fpctl := t.ctx.regs.fpctl,
                                racectl := t.ctx.regs.racectl, seed := t.ctx.regs.seed, waitlimit := t.ctx.regs.waitlimit }
      saved := t.ctx.saved
      trap := t.ctx.trap } } ∧
    (∀ r : SReg, RegName.s r ∉ opWrites i → t.ctx.regs.s[r.toNat]'r.isLt = s.ctx.regs.s[r.toNat]'r.isLt) ∧
    (∀ r : PReg, RegName.p r ∉ opWrites i → t.ctx.regs.p.getLsbD r.toNat = s.ctx.regs.p.getLsbD r.toNat) ∧
    (∀ r : MpReg, RegName.mp r ∉ opWrites i → t.ctx.regs.mp[r.toNat]'r.isLt = s.ctx.regs.mp[r.toNat]'r.isLt) ∧
    ((∀ q a n, i ≠ .aSyswr q a n) →
      t.ctx.regs.fpctl = s.ctx.regs.fpctl ∧ t.ctx.regs.racectl = s.ctx.regs.racectl ∧ t.ctx.regs.seed = s.ctx.regs.seed ∧
      t.ctx.regs.waitlimit = s.ctx.regs.waitlimit) ∧
    SameMemory s t

namespace Sys2Proof.Claims
open Sys2Proof.Machine

/-- Element i of the operand in register r, or in its pair for width 64 (R104). -/
def el (s : State) (w : Nat) (r : VReg) (i : Nat) : Nat := (s.readElems w r).getD i 0

/-- Element i of operand b: a register's, the low w bits of a scalar, or the immediate extended by the signedness of T (R120); with T
12 the immediate is the high half (R135). -/
def bel (s : State) (t : Ty) (i : Nat) : VSrc → Nat
  | .v r => el s (tyBits t) r i
  | .s r => (s.readS r).toNat % 2 ^ tyBits t
  | .imm x => if t = 12 then x.toNat * 2 ^ 16 else if t.toNat ≤ 3 then wrap (tyBits t) x.toInt else x.toNat % 2 ^ tyBits t

/-- The lane of element i (R121). -/
def laneOf (w i : Nat) : Nat := if w = 64 then i else i * w / 32

/-- Element i of width w executes under the mask-stack top and kM (R121). -/
def runs (s : State) (m : KReg) (w i : Nat) : Bool := (s.maskTop &&& s.readK m).getLsbD (laneOf w i)

/-- Register d, or its pair, with f i in every element that executes and the old value in the others. -/
def masked (s : State) (w : Nat) (d : VReg) (m : KReg) (f : Nat → Nat) : State :=
  s.writeElems w d ((List.range (elemCount w)).map fun i => if runs s m w i then f i else el s w d i)

/-- The elements of lane l. -/
def laneEls (w l : Nat) : List Nat := if w = 64 then [l] else (List.range (32 / w)).map fun j => l * (32 / w) + j

/-- No element that executes gives a result on which FPCTL traps (R123). -/
def quietAll (s : State) (t : Ty) (m : KReg) (f : Nat → Nat) (ops : Nat → List Nat) : Prop :=
  ∀ i < elemCount (tyBits t), runs s m (tyBits t) i = true →
    fpBad s.readFpctl ((fmtOf t).decode (f i)) ((ops i).map (fmtOf t).decode) = false

/-- Table 6.12. -/
def foldOp (t : Ty) (op : BitVec 3) (x y : Nat) : Nat :=
  if op = 0 then (x + y) % 2 ^ tyBits t else if op = 1 then (if tval t y < tval t x then y else x)
  else if op = 2 then (if tval t x < tval t y then y else x) else if op = 3 then x &&& y else if op = 4 then x ||| y else x ^^^ y
def foldUnit (t : Ty) (op : BitVec 3) : Nat :=
  if op = 1 then wrap (tyBits t) (greatest t) else if op = 2 then wrap (tyBits t) (least t) else if op = 3 then 2 ^ tyBits t - 1 else 0

/-- The tree of R145 over leaves that may be absent. -/
def treeNode (f : Nat → Nat → Nat) (leaf : Nat → Option Nat) : Nat → Nat → Option Nat
  | 0, j => leaf j
  | l + 1, j =>
    match treeNode f leaf l (2 * j), treeNode f leaf l (2 * j + 1) with
    | none, b => b
    | some a, none => some a
    | some a, some b => some (f a b)

/-- Round32 of a op b: add, min, max (R145). -/
def treeOp (rm : Rm) (op : BitVec 3) : Nat → Nat → Nat :=
  if op = 0 then fp32.addBits rm else if op = 1 then fp32.minBits else fp32.maxBits

/-- A leaf: an active element widened to fp32. -/
def treeLeaf (s : State) (t : Ty) (m : KReg) (a : VReg) (j : Nat) : Option Nat :=
  if runs s m (tyBits t) j then some (fp32.round 0 false ((fmtOf t).decode (el s (tyBits t) a j))) else none

/-- A node delivered in T. -/
def treeOut (t : Ty) (rm : Rm) (op : BitVec 3) : Option Nat → Nat
  | none => if op = 0 then 0 else (fmtOf t).infOf (op != 1) false
  | some x => (fmtOf t).round rm false (fp32.decode x)

/-- One byte into a running CRC-32C (R162), and a string of bytes. -/
def crcByte (c b : Nat) : Nat :=
  (List.range 8).foldl (fun c _ => if c % 2 = 1 then (c / 2) ^^^ 0x82F63B78 else c / 2) (c ^^^ b)
def crcBytes (c x n : Nat) : Nat := (List.range n).foldl (fun c j => crcByte c (x / 256 ^ j % 256)) c

end Sys2Proof.Claims

/-- Table 6.8 (R134 to R136): the result of every vector integer instruction, element by element under the lane mask, when its
predicate holds; elements that do not execute keep their value (R121). -/
def Obligations.VectorIntegerResults : Prop :=
  ∀ (q : Pred) (d a c : VReg) (b : VSrc) (t : Ty) (m : KReg) (s : State), s.holds q = true → intTy t = true →
    let w := tyBits t
    let x := el s w a
    let y := fun i => bel s t i b
    let gives := fun (i : Instr) (f : Nat → Nat) => exec i s = .next (masked s w d m f)
    gives (.vAdd q d a b t m) (fun i => (x i + y i) % 2 ^ w) ∧
    gives (.vSub q d a b t m) (fun i => wrap w (x i - y i)) ∧
    gives (.vMul q d a b t m) (fun i => x i * y i % 2 ^ w) ∧
    gives (.vMulh q d a b t m) (fun i => wrap w (tval t (x i) * tval t (y i) / 2 ^ w)) ∧
    gives (.vMad q d a b c t m) (fun i => (x i * y i + el s w c i) % 2 ^ w) ∧
    gives (.vAbs q d a t m) (fun i => (sval w (x i)).natAbs % 2 ^ w) ∧
    gives (.vNeg q d a t m) (fun i => wrap w (-(x i))) ∧
    gives (.vMin q d a b t m) (fun i => if tval t (y i) < tval t (x i) then y i else x i) ∧
    gives (.vMax q d a b t m) (fun i => if tval t (x i) < tval t (y i) then y i else x i) ∧
    gives (.vAnd q d a b t m) (fun i => x i &&& y i) ∧
    gives (.vOr q d a b t m) (fun i => x i ||| y i) ∧
    gives (.vXor q d a b t m) (fun i => x i ^^^ y i) ∧
    gives (.vAndn q d a b t m) (fun i => x i &&& (y i ^^^ (2 ^ w - 1))) ∧
    gives (.vShl q d a b t m) (fun i => x i * 2 ^ (y i % w) % 2 ^ w) ∧
    gives (.vShr q d a b t m) (fun i => x i / 2 ^ (y i % w)) ∧
    gives (.vSar q d a b t m) (fun i => wrap w (sval w (x i) / 2 ^ (y i % w))) ∧
    gives (.vPopc q d a t m) (fun i => (List.range w).countP fun j => (x i).testBit j) ∧
    gives (.vClz q d a t m) (fun i => if x i = 0 then w else w - 1 - Nat.log2 (x i)) ∧
    gives (.vAddsat q d a b t m) (fun i => wrap w (saturate t (tval t (x i) + tval t (y i)))) ∧
    gives (.vSubsat q d a b t m) (fun i => wrap w (saturate t (tval t (x i) - tval t (y i)))) ∧
    gives (.vLane q d t m) (fun i => i % 2 ^ w) ∧
    exec (.vMov q d a m) s = .next (masked s 32 d m (el s 32 a)) ∧
    (∀ t', (intTy t' || fpTy t') = true → exec (.vBcast q d b t' m) s = .next (masked s (tyBits t') d m fun i => bel s t' i b)) ∧
    (∀ (e : VReg) (kc : KReg), let v := if w = 64 then 64 else 32
      exec (.vSel q d a e kc t m) s = .next (masked s v d m fun i => if (s.readK kc).getLsbD i then el s v a i else el s v e i))

/-- R138, R139, R131: the element-wise floating-point instructions round each exact result once to T; the approximate functions give
their element function (where in its error bound a result lies is the model's, log 9); `vfabs` and `vfneg` clear or flip the sign bit. A governed one completes when no executing result meets a
condition of FPCTL. -/
def Obligations.VectorFloatResults : Prop :=
  ∀ (q : Pred) (d a c : VReg) (b : VSrc) (t : Ty) (m : KReg) (rm : Rm) (s : State), s.holds q = true → fpTy t = true →
    let w := tyBits t
    let p := fmtOf t
    let x := el s w a
    let y := fun i => bel s t i b
    let z := el s w c
    let gives := fun (i : Instr) (ops : Nat → List Nat) (f : Nat → Nat) => quietAll s t m f ops → exec i s = .next (masked s w d m f)
    gives (.vFadd q d a b t m rm) (fun i => [x i, y i]) (fun i => p.round rm false ((p.decode (x i)).add rm (p.decode (y i)))) ∧
    gives (.vFsub q d a b t m rm) (fun i => [x i, y i]) (fun i => p.round rm false ((p.decode (x i)).add rm (p.decode (y i)).negate)) ∧
    gives (.vFmul q d a b t m rm) (fun i => [x i, y i]) (fun i => p.round rm false ((p.decode (x i)).mul (p.decode (y i)))) ∧
    gives (.vFma q d a b c t m rm) (fun i => [x i, y i, z i])
      (fun i => p.round rm false (((p.decode (x i)).mul (p.decode (y i))).add rm (p.decode (z i)))) ∧
    gives (.vFms q d a b c t m rm) (fun i => [x i, y i, z i])
      (fun i => p.round rm false (((p.decode (x i)).mul (p.decode (y i))).add rm (p.decode (z i)).negate)) ∧
    gives (.vFmin q d a b t m) (fun i => [x i, y i]) (fun i => p.minBits (x i) (y i)) ∧
    gives (.vFmax q d a b t m) (fun i => [x i, y i]) (fun i => p.maxBits (x i) (y i)) ∧
    gives (.vFrcp q d a t m) (fun i => [x i]) (fun i => approxElem 0 t (x i)) ∧
    gives (.vFrsq q d a t m) (fun i => [x i]) (fun i => approxElem 1 t (x i)) ∧
    gives (.vFexp2 q d a t m) (fun i => [x i]) (fun i => approxElem 2 t (x i)) ∧
    gives (.vFlog2 q d a t m) (fun i => [x i]) (fun i => approxElem 3 t (x i)) ∧
    exec (.vFclass q d a t m) s = .next (masked s w d m fun i => p.classBits (x i)) ∧
    (∀ t', (fpTy t' || t' == 8 || t' == 9) = true → let v := tyBits t'
      exec (.vFabs q d a t' m) s = .next (masked s v d m fun i => el s v a i % 2 ^ (v - 1)) ∧
      exec (.vFneg q d a t' m) s = .next (masked s v d m fun i => el s v a i ^^^ 2 ^ (v - 1)))

/-- R97 to R109, Tables 5.1, 5.2, 5.4, 5.5: what an encoding stands for, how an exact value is rounded into a format, and what a
conversion gives. R140 to R143: conversions, quantisation and packing. The narrower side's further elements are zero whatever the mask says. -/
def Obligations.VectorConversionResults : Prop :=
  ∀ (q : Pred) (d a b : VReg) (m : KReg) (rm : Rm) (sat : Bool) (s : State), s.holds q = true →
    let low := fun (wide w n : Nat) (f : Nat → Nat) =>
      s.writeElems w d ((List.range (elemCount w)).map fun i =>
        if i < n then (if runs s m wide i then f i else el s w d i) else 0)
    let entry := fun i => el s 32 b (i / 32)
    let zero := fun (t : Ty) i => if t = 14 then entry i / 2 ^ 16 % 16 else entry i / 2 ^ 16 % 256
    (formats.map (·.nan) = [0x7FF8000000000000, 0x7FC00000, 0x7E00, 0x7FC0, 0x7E, 0x7F] ∧
      formats.map (·.width) = [64, 32, 16, 16, 8, 8] ∧ formats = [15, 12, 10, 11, 9, 8].map fmtOf) ∧
    (∀ p ∈ formats, valueOf p p.maxFinite = greatestFinite p ∧ (∀ x, DecodedAs p x (p.decode x)) ∧
      (∀ n k e, Delivered p rm sat n (exact (.fin n k e false) : ℚ) (p.round rm sat (.fin n k e false))) ∧
      p.round rm sat .nan = p.nan ∧ ∀ n, p.round rm sat (.inf n) = if sat then (if n then p.signBit else 0) + p.maxFinite else infinite p n) ∧
    (∀ dt st : Ty, isFloatTy dt = true → isFloatTy st = true → ∀ x, let r := convert rm sat dt st x
      if number (fmtOf st) x then Delivered (fmtOf dt) rm sat (signOf (fmtOf st) x) (valueOf (fmtOf st) x : ℚ) r
      else if (fmtOf st).decode x = .nan then r = (fmtOf dt).nan
      else r = if sat then (if signOf (fmtOf st) x then (fmtOf dt).signBit else 0) + (fmtOf dt).maxFinite
        else infinite (fmtOf dt) (signOf (fmtOf st) x)) ∧
    (∀ dt st : Ty, isFloatTy dt = false → isFloatTy st = true → ∀ x, let r := convert rm sat dt st x
      let unfit := if dt.toNat ≤ 3 then 2 ^ (tyBits dt - 1) else 2 ^ tyBits dt - 1
      if number (fmtOf st) x then ∃ i, IntRounded rm (valueOf (fmtOf st) x) i ∧
        r = if sat = true ∨ (least dt ≤ i ∧ i ≤ greatest dt) then wrap (tyBits dt) (saturate dt i) else unfit
      else if sat = false then r = unfit
      else if (fmtOf st).decode x = .nan then r = 0
      else r = wrap (tyBits dt) (if signOf (fmtOf st) x then least dt else greatest dt)) ∧
    (∀ dt st : Ty, isFloatTy st = false → ∀ x, let r := convert rm sat dt st x
      if isFloatTy dt then Delivered (fmtOf dt) rm sat (decide (tval st x < 0)) ((tval st x : Int) : ℚ) r
      else r = wrap (tyBits dt) (if sat then saturate dt (tval st x) else tval st x)) ∧
    (∀ w σ z x : Nat, w = 8 ∨ w = 4 → z < 2 ^ w → let r := quantCode w sat rm σ z x
      let top := 2 ^ w - 1
      if fp32.decode x = .nan ∨ number fp16 σ = false ∨ valueOf fp16 σ = 0 then r = z
      else if number fp32 x then ∃ i, IntRounded rm (valueOf fp32 x / valueOf fp16 σ) i ∧
        r = if 0 ≤ i + z ∧ i + z < (2 ^ w : Nat) then (i + z).toNat else if sat then (if i + z < 0 then 0 else top) else wrap w (i + z)
      else r = if sat then (if signOf fp32 x then 0 else top) else z) ∧
    (∀ σ z c : Nat, z < 256 → c < 256 → let r := dequant σ z c
      let neg := signOf fp16 σ != decide (c < z)
      if number fp16 σ then number fp32 r = true ∧ valueOf fp32 r = valueOf fp16 σ * ((c : ℚ) - z) ∧ signOf fp32 r = neg
      else r = if fp16.decode σ = .nan ∨ c = z then fp32.nan else infinite fp32 neg) ∧
    (∀ dt st : Ty,
      let wide := max (tyBits dt) (tyBits st)
      let f := fun i => convert rm sat dt st (el s (tyBits st) a i)
      (isFloatTy dt = false ∨ ∀ i < elemCount wide, runs s m wide i = true →
        fpBad s.readFpctl ((fmtOf dt).decode (f i)) [cvtVal st (el s (tyBits st) a i)] = false) →
      exec (.vCvt q d a dt st m rm sat) s = .next (low wide (tyBits dt) (elemCount wide) f)) ∧
    (∀ t : Ty, codeTy t = true →
      exec (.vQuant q d a b t m rm sat) s =
        .next (low 32 (tyBits t) 64 fun i => quantCode (tyBits t) sat rm (entry i % 2 ^ 16) (zero t i) (el s 32 a i)) ∧
      ((∀ i < 64, runs s m 32 i = true →
          fpBad s.readFpctl (fp32.decode (dequant (entry i % 2 ^ 16) (zero t i) (el s (tyBits t) a i))) [fp16.decode (entry i % 2 ^ 16)]
            = false) →
        exec (.vDequant q d a b t m) s =
          .next (masked s 32 d m fun i => dequant (entry i % 2 ^ 16) (zero t i) (el s (tyBits t) a i)))) ∧
    (∀ t : Ty, narrowTy t = true →
      let w := tyBits t
      let n := elemCount (2 * w)
      exec (.vPack q d a b t m) s =
        .next (masked s w d m fun i => (if i < n then el s (2 * w) a i else el s (2 * w) b (i - n)) % 2 ^ w) ∧
      exec (.vUnpack q d a b t m) s =
        .next ((masked s (2 * w) d m fun i => wrap (2 * w) (tval t (el s w a i))).writeElems (2 * w) b
          ((List.range n).map fun i => if runs s m (2 * w) i then wrap (2 * w) (tval t (el s w a (i + n))) else el s (2 * w) b i)))

/-- R148 to R153: permutes and lane transfers. -/
def Obligations.LaneTransferResults : Prop :=
  ∀ (q : Pred) (d a b : VReg) (t : Ty) (m : KReg) (s : State), s.holds q = true →
    let w := tyBits t
    let n := elemCount w
    let x := el s w a
    let live := (List.range n).filter (runs s m w)
    exec (.vPerm q d a b t m) s = .next (masked s w d m fun i => x (el s w b i % n)) ∧
    (∀ (o : VSrc) (k : Int), ((∃ r, o = .s r ∧ k = (s.readS r).toInt) ∨ (∃ i, o = .imm i ∧ k = i.toInt)) →
      exec (.vSlide q d a o t m) s =
        .next (masked s w d m fun i => if 0 ≤ (i : Int) - k ∧ (i : Int) - k < n then x ((i : Int) - k).toNat else 0) ∧
      exec (.vRot q d a o t m) s = .next (masked s w d m fun i => x (((i : Int) - k) % n).toNat)) ∧
    exec (.vCompress q d a t m) s = .next (s.writeElems w d (live.map x ++ List.replicate (n - live.length) 0)) ∧
    exec (.vExpand q d a t m) s = .next (masked s w d m fun i => x ((List.range i).countP (runs s m w))) ∧
    (∀ hi : Bool,
      exec (.vZip q d a b t m hi) s = .next (masked s w d m fun i =>
        let h := if hi then n / 2 else 0
        if i % 2 = 0 then x (h + i / 2) else el s w b (h + i / 2)) ∧
      exec (.vUnzip q d a b t m hi) s = .next (masked s w d m fun i =>
        if i < n / 2 then x (2 * i + hi.toNat) else el s w b (2 * (i - n / 2) + hi.toNat))) ∧
    (∀ (sd sb : SReg), exec (.vExtr q sd a sb t) s = .next (s.writeS sd
      (if (s.readS sb).toNat < n then BitVec.ofInt 64 (tval t (x (s.readS sb).toNat)) else 0))) ∧
    (∀ (sa sb : SReg), exec (.vIns q d sa sb t) s = .next (if (s.readS sb).toNat < n then
        s.writeElems w d ((List.range n).map fun i => if i = (s.readS sb).toNat then (s.readS sa).toNat % 2 ^ w else el s w d i)
      else s))

/-- R154, R155, R157: the mask stack, as the operation reads it (R156), and the lane masks. A push on a full stack and a pop or inversion
at depth 1 hold MASK_STACK and change nothing else. -/
def Obligations.MaskStackResults : Prop :=
  ∀ (q : Pred) (ka kb kd : KReg) (sa sd : SReg) (s : State), s.holds q = true →
    let depth := s.maskStack.2.toNat
    let old := fun (i : Nat) => maskAt s.maskStack.1 i
    let becomes := fun (i : Instr) (d : Nat) (f : Nat → Word) => ∃ m l, exec i s = .next
        { s with ctx := { s.ctx with regs := { s.ctx.regs with mstk := m, mdep := BitVec.ofNat 5 d }, saved := l } } ∧
      ∀ i < d, maskAt m i = f i
    let traps := fun (i : Instr) => ∃ h, h.info.code = 0x31 ∧ exec i s = .next { s with ctx := { s.ctx with trap := some h } }
    (1 ≤ depth → depth < 16 →
      becomes (.vMpush q ka) (depth + 1) fun i => if i = depth then old (depth - 1) &&& s.readK ka else old i) ∧
    (2 ≤ depth → depth ≤ 16 →
      becomes (.vMinv q) depth (fun i => if i = depth - 1 then old (depth - 2) &&& ~~~old (depth - 1) else old i) ∧
      becomes (.vMpop q) (depth - 1) old) ∧
    (s.ctx.trap = none → depth = 16 → traps (.vMpush q ka)) ∧
    (s.ctx.trap = none → depth = 1 → traps (.vMinv q) ∧ traps (.vMpop q)) ∧
    exec (.vKmov q kd (.k ka)) s = .next (s.writeK kd (s.readK ka)) ∧
    exec (.vKmov q kd (.s sa)) s = .next (s.writeK kd (s.readS sa)) ∧
    exec (.vKop q kd ka kb 0) s = .next (s.writeK kd (s.readK ka &&& s.readK kb)) ∧
    exec (.vKop q kd ka kb 1) s = .next (s.writeK kd (s.readK ka ||| s.readK kb)) ∧
    exec (.vKop q kd ka kb 2) s = .next (s.writeK kd (s.readK ka ^^^ s.readK kb)) ∧
    exec (.vKop q kd ka kb 3) s = .next (s.writeK kd (s.readK ka &&& ~~~s.readK kb)) ∧
    exec (.vKop q kd ka kb 4) s = .next (s.writeK kd (~~~s.readK ka)) ∧
    exec (.vKpopc q sd ka) s = .next (s.writeS sd (BitVec.ofNat 64 ((List.range 64).countP (s.readK ka).getLsbD)))

/-- R162 to R171: hashing, partitions and strings, element by element. A compare keeps a lane's verdict, else decides at the first
byte in which the slices differ, or where one string ends within the slice by the lengths; a search keeps a match, else finds the first
equal byte, or counts on. -/
def Obligations.HashAndStringResults : Prop :=
  ∀ (q : Pred) (d a b c : VReg) (o : VSrc) (m : KReg) (s : State), s.holds q = true → o.notImm = true →
    let x := el s 32 a
    let y := fun i => bel s 6 i o
    let len := el s 32 c
    let byte := fun (v j : Nat) => v / 256 ^ j % 256
    let desc := el s 32 b 0
    let radix := fun h => h / 2 ^ (desc % 32) % 2 ^ (min (desc / 256 % 16) 11 + 1)
    (∀ t : Ty, keyTy t = true → exec (.vHashCrc q d a b t m) s =
      .next (masked s 32 d m fun i => crcBytes (el s 32 b i) (el s (tyBits t) a i) (tyBits t / 8))) ∧
    (∀ t : Ty, wideTy t = true → exec (.vHashMix q d a b t m) s = .next (masked s 64 d m fun i =>
      let v := el s 64 a i ^^^ el s 64 b i
      let v := (v ^^^ (v / 2 ^ 31)) * 0x9E6B3A5D2C714F07 % 2 ^ 64
      let v := (v ^^^ (v / 2 ^ 29)) * 0xC2B8E41F6D5A3097 % 2 ^ 64
      v ^^^ (v / 2 ^ 32))) ∧
    exec (.vHashs q d a b c m) s = .next (masked s 32 d m fun i => crcBytes (el s 32 b i) (x i) (min 4 (len i % 2 ^ 16))) ∧
    exec (.vPart q d a b m) s = .next (masked s 32 d m fun i => radix (x i)) ∧
    (∀ (sd : SReg) (kc : KReg), ∃ k : Word,
      exec (.vPartCnt q sd a b kc m) s =
        .next ((s.writeK kc k).writeS sd (BitVec.ofNat 64 ((List.range 64).countP k.getLsbD))) ∧
      ∀ l < 64, k.getLsbD l = (runs s m 32 l &&
        decide (radix (x l) = desc / 2 ^ 16 % 2 ^ 12 % 2 ^ (min (desc / 256 % 16) 11 + 1)))) ∧
    exec (.vScmp q d a o c m) s = .next (masked s 32 d m fun i => compareLane (el s 32 d i) (x i) (y i) (len i)) ∧
    exec (.vSfind q d a o c m) s = .next (masked s 32 d m fun i => searchLane (el s 32 d i) (x i) (y i) (len i)) ∧
    (∀ old x y n : Nat,
      let la := n % 2 ^ 16
      let lb := n / 2 ^ 16
      let short := min 4 (min la lb)
      let same := fun (j : Nat) => ∀ i < j, byte x i = byte y i
      (old % 4 ≠ 0 → compareLane old x y n = old % 4) ∧
      (∀ j < short, old % 4 = 0 → same j → byte x j ≠ byte y j → compareLane old x y n = if byte x j < byte y j then 1 else 2) ∧
      (old % 4 = 0 → same short → compareLane old x y n =
        if la ≤ 4 ∨ lb ≤ 4 then (if la < lb then 1 else if lb < la then 2 else 3) else 0) ∧
      (old < 2 ^ 32 → 2 ^ 31 ≤ old → searchLane old x y n = old) ∧
      (∀ j < min 4 la, old < 2 ^ 31 → (∀ i < j, byte x i ≠ y % 256) → byte x j = y % 256 → searchLane old x y n = 2 ^ 31 ||| (old + j)) ∧
      (old < 2 ^ 31 → (∀ i < min 4 la, byte x i ≠ y % 256) → searchLane old x y n = (old + min 4 la) % 2 ^ 31)) ∧
    (∀ kd : KReg, ∃ k : Word, exec (.vSmatch q kd a o c m) s = .next (s.writeK kd k) ∧
      ∀ l < 64, k.getLsbD l = (runs s m 32 l && (s.readK kd).getLsbD l && decide (len l % 2 ^ 16 = len l / 2 ^ 16) &&
        (List.range (min 4 (len l % 2 ^ 16))).all fun j => byte (x l) j == byte (y l) j))

/-- The frame of the V slot, but for `vskip` and the two accumulator moves: what goes on changes at most v, k and s registers that the
scoreboard names as destinations, the mask stack (and that only in its own three instructions), shadow bits, the values kept for the
bundle and the trap raised; every byte of memory and everything else is as before. -/
def Obligations.VectorFrame : Prop :=
  ∀ (i : Instr) (s t : State), i.slotOf = some .v → (∀ q n, i ≠ .vSkip q n) → (∀ q d x b m, i ≠ .vAccrd q d x b m) →
    (∀ q d x b m, i ≠ .vAccwr q d x b m) → exec i s = .next t →
    t = { s with ctx := { s.ctx with
      regs := { s.ctx.regs with v := t.ctx.regs.v, k := t.ctx.regs.k, s := t.ctx.regs.s, mstk := t.ctx.regs.mstk, mdep := t.ctx.regs.mdep }
      shadow := t.ctx.shadow
      saved := t.ctx.saved
      trap := t.ctx.trap } } ∧
    (∀ r : VReg, RegName.v r ∉ opWrites i → t.ctx.regs.v[r.toNat]'r.isLt = s.ctx.regs.v[r.toNat]'r.isLt) ∧
    (∀ r : KReg, RegName.k r ∉ opWrites i → t.ctx.regs.k[r.toNat]'r.isLt = s.ctx.regs.k[r.toNat]'r.isLt) ∧
    (∀ r : SReg, RegName.s r ∉ opWrites i → t.ctx.regs.s[r.toNat]'r.isLt = s.ctx.regs.s[r.toNat]'r.isLt) ∧
    ((∀ q k, i ≠ .vMpush q k) → (∀ q, i ≠ .vMinv q) → (∀ q, i ≠ .vMpop q) →
      t.ctx.regs.mstk = s.ctx.regs.mstk ∧ t.ctx.regs.mdep = s.ctx.regs.mdep) ∧
    SameMemory s t

/-- R104, R120: an operand of a 64-bit type is the pair r, r + 1, low half first; writing all elements of a register or pair, each in
range, and reading them gives them back, and no other register changes.
R137, R138 with Tables 6.4 and 6.6: a vector compare writes in each lane's bit whether the condition holds for all of the lane's
elements, or with COMBINE for any of them, and clears the bits of lanes that do not execute (R121). -/
def Obligations.VectorRegistersAndBits : Prop :=
  (∀ (s : State) (t : Ty) (d r : VReg) (l : List Nat), s.cur = none → l.length = elemCount (tyBits t) → (∀ x ∈ l, x < 2 ^ tyBits t) →
     (s.writeElems (tyBits t) d l).readElems (tyBits t) d = l ∧
     (∀ i < 64, el s 64 r i = el s 32 r i + 2 ^ 32 * el s 32 (r + 1) i) ∧
     (r ≠ d → (tyBits t ≠ 64 ∨ r ≠ d + 1) → (s.writeElems (tyBits t) d l).readV r = s.readV r)) ∧
  (∀ (q : Pred) (d : KReg) (a : VReg) (b : VSrc) (t : Ty) (m : KReg) (any : Bool) (cond : BitVec 3) (s : State), s.holds q = true →
     let w := tyBits t
     let gives := fun (i : Instr) (h : Nat → Bool) =>
       ∃ k : Word, exec i s = .next (s.writeK d k) ∧ ∀ l < 64,
         k.getLsbD l = ((s.maskTop &&& s.readK m).getLsbD l && (if any then (laneEls w l).any h else (laneEls w l).all h))
     (intTy t = true → gives (.vCmp q d a b t m any cond) fun i =>
       let x := el s w a i
       let y := bel s t i b
       if cond = 0 then decide (tval t x = tval t y) else if cond = 1 then decide (tval t x ≠ tval t y)
       else if cond = 2 then decide (tval t x < tval t y) else if cond = 3 then decide (tval t x ≤ tval t y)
       else if cond = 4 then decide (x < y) else if cond = 5 then decide (x ≤ y)
       else if cond = 6 then decide (tval t x > tval t y) else decide (tval t x ≥ tval t y)) ∧
     (fpTy t = true → gives (.vFcmp q d a b t m any cond) fun i =>
       fpCond cond ((fmtOf t).decode (el s w a i)) ((fmtOf t).decode (bel s t i b))))

/-- R144: the integer reductions give the fold of the executing elements in element 0 and zeros above it; the scans give each
executing element the fold of the executing elements up to it.
R145: `vfred` delivers the root of the fixed tree over the executing elements, rounded to T, and zeros above it; `vfscan` joins,
for element i, the aligned nodes that tile elements 0 to i, largest first. FPCTL judges what is written. -/
def Obligations.ReductionsAndScans : Prop :=
  (∀ (q : Pred) (d a : VReg) (t : Ty) (m : KReg) (op : BitVec 3) (s : State), s.holds q = true → intTy t = true → op.toNat ≤ 5 →
     let w := tyBits t
     let upTo := fun n => (((List.range n).filter (runs s m w)).map (el s w a)).foldl (foldOp t op) (foldUnit t op)
     exec (.vRed q d a t m op) s = .next (s.writeElems w d (upTo (elemCount w) :: List.replicate (elemCount w - 1) 0)) ∧
     exec (.vScan q d a t m op) s = .next (masked s w d m fun i => upTo (i + 1))) ∧
  (∀ (q : Pred) (d a : VReg) (t : Ty) (m : KReg) (rm : Rm) (op : BitVec 3) (s : State),
     s.holds q = true → fpTy t = true → op.toNat ≤ 2 →
     let w := tyBits t
     let node := treeNode (treeOp rm op) (treeLeaf s t m a)
     let depth := if w = 32 then 6 else 7
     let join := fun (x y : Option Nat) => treeNode (treeOp rm op) (fun j => if j = 0 then x else y) 1 0
     let tiles := fun n => ((List.range 8).reverse.filter fun l => n.testBit l).foldl
       (fun (y : Option Nat) l => join y (node l (n / 2 ^ (l + 1) * 2))) none
     let quiet := fun r => s.readFpctl = 0 ∨ ((fmtOf t).decode r).isFin = true
     (quiet (treeOut t rm op (node depth 0)) → exec (.vFred q d a t m rm op) s =
       .next (s.writeElems w d (treeOut t rm op (node depth 0) :: List.replicate (elemCount w - 1) 0))) ∧
     ((∀ i < elemCount w, runs s m w i = true → quiet (treeOut t rm op (tiles (i + 1)))) →
       exec (.vFscan q d a t m rm op) s = .next (masked s w d m fun i => treeOut t rm op (tiles (i + 1)))))

namespace Sys2Proof.Claims
open Sys2Proof.Machine

/-- The governed element-wise instructions of a float type, each with its operands and its result in element i (R123, R138, R139). -/
def governed (q : Pred) (d a c : VReg) (b : VSrc) (t : Ty) (m : KReg) (rm : Rm) (s : State) : List (Instr × (Nat → List Nat) × (Nat → Nat)) :=
  let p := fmtOf t
  let x := el s (tyBits t) a
  let y := fun i => bel s t i b
  let z := el s (tyBits t) c
  let xy := fun i => [x i, y i]
  let xyz := fun i => [x i, y i, z i]
  [(.vFadd q d a b t m rm, xy, fun i => p.round rm false ((p.decode (x i)).add rm (p.decode (y i)))),
   (.vFsub q d a b t m rm, xy, fun i => p.round rm false ((p.decode (x i)).add rm (p.decode (y i)).negate)),
   (.vFmul q d a b t m rm, xy, fun i => p.round rm false ((p.decode (x i)).mul (p.decode (y i)))),
   (.vFma q d a b c t m rm, xyz, fun i => p.round rm false (((p.decode (x i)).mul (p.decode (y i))).add rm (p.decode (z i)))),
   (.vFms q d a b c t m rm, xyz, fun i => p.round rm false (((p.decode (x i)).mul (p.decode (y i))).add rm (p.decode (z i)).negate)),
   (.vFmin q d a b t m, xy, fun i => p.minBits (x i) (y i)),
   (.vFmax q d a b t m, xy, fun i => p.maxBits (x i) (y i)),
   (.vFrcp q d a t m, fun i => [x i], fun i => approxElem 0 t (x i)),
   (.vFrsq q d a t m, fun i => [x i], fun i => approxElem 1 t (x i)),
   (.vFexp2 q d a t m, fun i => [x i], fun i => approxElem 2 t (x i)),
   (.vFlog2 q d a t m, fun i => [x i], fun i => approxElem 3 t (x i))]

/-- Element i is the lowest that executes and gives a result that is bad. -/
def firstOf (s : State) (m : KReg) (w : Nat) (bad : Nat → Prop) (i : Nat) : Prop :=
  i < elemCount w ∧ runs s m w i = true ∧ bad i ∧ ∀ j < i, runs s m w j = true → ¬ bad j

end Sys2Proof.Claims

/-- R122, R123, Table 6.1: when a condition that FPCTL enables holds for the result, a governed scalar or vector instruction writes nothing and
raises NONFINITE (code 0x30) with the lowest such element (a scalar's, and that of `vfred`, is 0) and its result, at its own slot and pc, unless
an earlier operation's trap is held (that `vfred` of no active element counts as an infinity the operation made is the model's, log 68).
FPCTL is read as it stood before a `syswr` of the same bundle. -/
def Obligations.NonfiniteWritesNothing : Prop :=
  ∀ (q : Pred) (s : State) (o : PendOp), s.holds q = true → s.cur = some o → s.ctx.trap = none →
    let ctl := s.readFpctl
    let traps := fun (i r : Nat) => s.hold ⟨o.id.seq, o.id.slot.toNat + 1, o.id.pc, false, false, o.id.slot.toNat, s.coreNum,
      { code := 0x30, elem := i, data := BitVec.ofNat 64 r }⟩
    (∀ i r, (traps i r).ctx.regs = s.ctx.regs ∧ ∃ h, h.info.code = 0x30 ∧ h.info.elem = i ∧ h.pc = o.id.pc ∧
      traps i r = { s with ctx := { s.ctx with trap := some h } }) ∧
    (∀ (d a b c : SReg) (dbl : Bool) (rm : Rm),
      let p := if dbl then fp64 else fp32
      let x := (s.readS a).toNat % 2 ^ p.width
      let y := (s.readS b).toNat % 2 ^ p.width
      let z := (s.readS c).toNat % 2 ^ p.width
      ∀ e ∈ ([(.aFadd q d a b dbl rm, [x, y], p.round rm false ((p.decode x).add rm (p.decode y))),
          (.aFsub q d a b dbl rm, [x, y], p.round rm false ((p.decode x).add rm (p.decode y).negate)),
          (.aFmul q d a b dbl rm, [x, y], p.round rm false ((p.decode x).mul (p.decode y))),
          (.aFma q d a b c dbl rm, [x, y, z], p.round rm false (((p.decode x).mul (p.decode y)).add rm (p.decode z))),
          (.aFdiv q d a b dbl rm, [x, y], p.round rm false ((p.decode x).div (2 * p.fb + 5) (p.decode y))),
          (.aFsqrt q d a dbl rm, [x], p.round rm false ((p.decode x).sqrt (p.fb + 3))),
          (.aFmin q d a b dbl, [x, y], p.minBits x y), (.aFmax q d a b dbl, [x, y], p.maxBits x y)] : List (Instr × List Nat × Nat)),
        fpBad ctl (p.decode e.2.2) (e.2.1.map p.decode) = true → exec e.1 s = .next (traps 0 e.2.2)) ∧
    (∀ (d a : SReg) (dt st : Ty) (sat : Bool) (rm : Rm), cvtTy dt = true → cvtTy st = true → floatTy dt = true →
      let v := (s.readS a).toNat % 2 ^ tyBits st
      let r := convert rm sat dt st v
      fpBad ctl ((fmtOf dt).decode r) [cvtVal st v] = true → exec (.aFcvt q d a dt st sat rm) s = .next (traps 0 r)) ∧
    (∀ (d a c : VReg) (b : VSrc) (t : Ty) (m : KReg) (rm : Rm), fpTy t = true → ∀ e ∈ governed q d a c b t m rm s, ∀ i,
      firstOf s m (tyBits t) (fun i => fpBad ctl ((fmtOf t).decode (e.2.2 i)) ((e.2.1 i).map (fmtOf t).decode) = true) i →
      exec e.1 s = .next (traps i (e.2.2 i))) ∧
    (∀ (d a : VReg) (dt st : Ty) (m : KReg) (rm : Rm) (sat : Bool), isFloatTy dt = true →
      let wide := max (tyBits dt) (tyBits st)
      let f := fun i => convert rm sat dt st (el s (tyBits st) a i)
      ∀ i, firstOf s m wide (fun i => fpBad ctl ((fmtOf dt).decode (f i)) [cvtVal st (el s (tyBits st) a i)] = true) i →
        exec (.vCvt q d a dt st m rm sat) s = .next (traps i (f i))) ∧
    (∀ (d a b : VReg) (t : Ty) (m : KReg), codeTy t = true →
      let entry := fun i => el s 32 b (i / 32)
      let f := fun i => dequant (entry i % 2 ^ 16) (entry i / 2 ^ 16 % 2 ^ tyBits t) (el s (tyBits t) a i)
      ∀ i, firstOf s m 32 (fun i => fpBad ctl (fp32.decode (f i)) [fp16.decode (entry i % 2 ^ 16)] = true) i →
        exec (.vDequant q d a b t m) s = .next (traps i (f i))) ∧
    (∀ (d a : VReg) (t : Ty) (m : KReg) (rm : Rm) (op : BitVec 3), fpTy t = true → op.toNat ≤ 2 →
      let w := tyBits t
      let node := treeNode (treeOp rm op) (treeLeaf s t m a)
      let join := fun (x y : Option Nat) => treeNode (treeOp rm op) (fun j => if j = 0 then x else y) 1 0
      let tiles := fun n => treeOut t rm op (((List.range 8).reverse.filter fun l => n.testBit l).foldl
        (fun (y : Option Nat) l => join y (node l (n / 2 ^ (l + 1) * 2))) none)
      let root := treeOut t rm op (node (if w = 32 then 6 else 7) 0)
      let bad := fun (n r : Nat) => fpBad ctl ((fmtOf t).decode r) (((List.range n).filterMap (treeLeaf s t m a)).map fp32.decode) = true
      (bad (elemCount w) root → exec (.vFred q d a t m rm op) s = .next (traps 0 root)) ∧
      ∀ i, firstOf s m w (fun i => bad (i + 1) (tiles (i + 1))) i → exec (.vFscan q d a t m rm op) s = .next (traps i (tiles (i + 1))))

/-- R97 to R107: sums, products, fused sums, quotients and roots of numbers are their exact values rounded once, an exact zero with the
sign of R102. Tables 5.2 to 5.4, 6.5 (R98 to R102, R105, R107, R128): rounding gives back the encoding of a value the format holds, operands that
are NaN give the canonical NaN, ∞ − ∞, 0 × ∞, 0 / 0, ∞ / ∞ and the root of a negative number too, a non-zero number over zero is
an infinity, and the root of −0 is −0.
R139: the approximate functions' special values (Table 6.10), exact results and error bounds (Table 6.9) in fp32, an ulp being that
of the exact value (log 9); for fp16 and bf16 the fp32 function's value rounded by RNE. -/
def Obligations.FloatAndApproximateSpecialCases : Prop :=
  (∀ (p : Fmt) (rm : Rm), p = fp64 ∨ p = fp32 ∨ p = fp16 ∨ p = bf16 →
     (∀ x, x < 2 ^ p.width → (p.decode x).isNan = false → p.round rm false (p.decode x) = x) ∧
     (∀ x y z, (p.decode x).isNan = true →
       p.addBits rm x y = p.nan ∧ p.addBits rm y x = p.nan ∧ p.subBits rm x y = p.nan ∧ p.subBits rm y x = p.nan ∧
       p.mulBits rm x y = p.nan ∧ p.mulBits rm y x = p.nan ∧ p.divBits rm x y = p.nan ∧ p.divBits rm y x = p.nan ∧
       p.sqrtBits rm x = p.nan ∧ p.fmaBits rm x y z = p.nan ∧ p.fmaBits rm y x z = p.nan ∧ p.fmaBits rm y z x = p.nan ∧
       p.minBits x y = p.nan ∧ p.maxBits y x = p.nan) ∧
     (∀ n, p.addBits rm (p.infOf n false) (p.infOf (!n) false) = p.nan ∧ p.subBits rm (p.infOf n false) (p.infOf n false) = p.nan) ∧
     (∀ x y, (p.decode x).isZero = true → (p.decode y).isFin = false → p.mulBits rm x y = p.nan ∧ p.mulBits rm y x = p.nan) ∧
     (∀ x y, (p.decode x).isZero = true → (p.decode y).isZero = true → p.divBits rm x y = p.nan) ∧
     (∀ x y, (p.decode x).isFin = false → (p.decode y).isFin = false → p.divBits rm x y = p.nan) ∧
     (∀ x y, (p.decode x).isFin = true → (p.decode x).isZero = false → (p.decode y).isZero = true →
       p.divBits rm x y = p.infOf ((p.decode x).neg? != (p.decode y).neg?) false) ∧
     (∀ x, (p.decode x).isFin = true → (p.decode x).isZero = false → (p.decode x).neg? = true → p.sqrtBits rm x = p.nan) ∧
     p.sqrtBits rm p.signBit = p.signBit ∧ p.sqrtBits rm (p.infOf true false) = p.nan ∧
     p.sqrtBits rm (p.infOf false false) = p.infOf false false ∧
     (∀ n x, number p x = true ∨ x = infinite p n →
       p.addBits rm (infinite p n) x = infinite p n ∧ p.addBits rm x (infinite p n) = infinite p n ∧
       p.subBits rm x (infinite p (!n)) = infinite p n ∧ p.subBits rm (infinite p n) (x ^^^ p.signBit) = infinite p n) ∧
     (∀ n x, x < 2 ^ p.width → (p.decode x).isNan = false → (p.decode x).isZero = false →
       p.mulBits rm (infinite p n) x = infinite p (n != signOf p x) ∧ p.mulBits rm x (infinite p n) = infinite p (n != signOf p x)) ∧
     (∀ n x, number p x = true → p.divBits rm (infinite p n) x = infinite p (n != signOf p x) ∧
       p.divBits rm x (infinite p n) = if n != signOf p x then p.signBit else 0) ∧
     (∀ x y z, number p x = true → number p y = true → number p z = true →
       let v := fun x => ((valueOf p x : ℚ) : ℝ)
       let sg := signOf p
       (∃ n, SumSign rm (sg x) (sg y) (v x + v y) n ∧ Rounded p rm n (v x + v y) (p.addBits rm x y)) ∧
       (∃ n, SumSign rm (sg x) (!sg y) (v x - v y) n ∧ Rounded p rm n (v x - v y) (p.subBits rm x y)) ∧
       Rounded p rm (sg x != sg y) (v x * v y) (p.mulBits rm x y) ∧
       (∃ n, SumSign rm (sg x != sg y) (sg z) (v x * v y + v z) n ∧ Rounded p rm n (v x * v y + v z) (p.fmaBits rm x y z)) ∧
       (v y ≠ 0 → Rounded p rm (sg x != sg y) (v x / v y) (p.divBits rm x y)) ∧
       (0 < v x → Rounded p rm false (Real.sqrt (v x)) (p.sqrtBits rm x)))) ∧
  (let pinf := 0x7F800000
   let ninf := 0xFF800000
   let nan := fp32.nan
   let one := 0x3F800000
   (approx32 0 0 = pinf ∧ approx32 0 0x80000000 = ninf ∧ approx32 0 pinf = 0 ∧ approx32 0 ninf = 0x80000000 ∧ approx32 0 one = one) ∧
   (approx32 1 0 = pinf ∧ approx32 1 0x80000000 = ninf ∧ approx32 1 pinf = 0 ∧ approx32 1 ninf = nan ∧ approx32 1 one = one) ∧
   (approx32 2 0 = one ∧ approx32 2 0x80000000 = one ∧ approx32 2 pinf = pinf ∧ approx32 2 ninf = 0 ∧ approx32 2 one = 0x40000000) ∧
   (approx32 3 0 = ninf ∧ approx32 3 0x80000000 = ninf ∧ approx32 3 pinf = pinf ∧ approx32 3 ninf = nan ∧ approx32 3 one = 0) ∧
   (∀ x, (fp32.decode x).isNan = true → ∀ op, approx32 op x = nan) ∧
   (∀ x, (fp32.decode x).isFin = true → (fp32.decode x).isZero = false → (fp32.decode x).neg? = true →
     approx32 1 x = nan ∧ approx32 3 x = nan)) ∧
  (∀ x, number fp32 x = true → valueOf fp32 x ≠ 0 →
    let v := ((valueOf fp32 x : ℚ) : ℝ)
    let ulp := fun (y : ℝ) => (2 : ℝ) ^ max (Int.log 2 |y| - 23) (-149)
    let near := fun (op : Nat) (y bound : ℝ) =>
      (|y| ≤ (greatestFinite fp32 : ℚ) → number fp32 (approx32 op x) = true ∧ |(valueOf fp32 (approx32 op x) : ℚ) - y| ≤ bound) ∧
      (2 ^ 128 ≤ |y| → approx32 op x = infinite fp32 (decide (y < 0)))
    let is := fun (op : Nat) (y : ℚ) => number fp32 (approx32 op x) = true ∧ valueOf fp32 (approx32 op x) = y
    near 0 (1 / v) (ulp (1 / v)) ∧ near 2 (2 ^ v) (2 * ulp (2 ^ v)) ∧
    (0 < v → near 1 (1 / Real.sqrt v) (2 * ulp (1 / Real.sqrt v)) ∧
      near 3 (Real.logb 2 v) (max (2 * ulp (Real.logb 2 v)) (2 ^ (-24 : Int)))) ∧
    (∀ k : Int, (∀ n : Bool, valueOf fp32 x = (if n then -1 else 1) * 2 ^ k → -126 ≤ -k → -k ≤ 127 → is 0 ((if n then -1 else 1) * 2 ^ (-k))) ∧
      (valueOf fp32 x = 4 ^ k → is 1 (2 ^ (-k))) ∧ (valueOf fp32 x = k → -149 ≤ k → k ≤ 127 → is 2 (2 ^ k)) ∧
      (valueOf fp32 x = 2 ^ k → is 3 k))) ∧
  (∀ (t : Ty) (op x : Nat), t = 10 ∨ t = 11 → let p := fmtOf t
    if number p x then ∃ y, number fp32 y = true ∧ valueOf fp32 y = valueOf p x ∧ signOf fp32 y = signOf p x ∧
      (if number fp32 (approx32 op y) then
        Rounded p 0 (signOf fp32 (approx32 op y)) (valueOf fp32 (approx32 op y) : ℚ) (approxElem op t x)
      else approxElem op t x = if fp32.decode (approx32 op y) = .nan then p.nan else infinite p (signOf fp32 (approx32 op y)))
    else ∃ y, DecodedAs fp32 y (p.decode x) ∧ DecodedAs p (approxElem op t x) (fp32.decode (approx32 op y))) ∧
  ∀ op x, approxElem op 12 x = approx32 op x
/-- The frame of the C slot: a C operation that goes on changes at most the flow (pc, loop stack, pending transfer), s63 in the two
calls, the `vskip` of its own bundle that it suppresses (R161), the loop indices that its bundle's `lidx` reads, the marks of the
boundary after its bundle, and the trap it holds: no other register, no byte of memory, nothing outside the context. -/
def Obligations.ControlFrame : Prop :=
  ∀ (i : Instr) (s t : State), i.slotOf = some .c → exec i s = .next t →
    t = { s with ctx := { s.ctx with
      regs := { s.ctx.regs with pc := t.ctx.regs.pc, loops := t.ctx.regs.loops, xfer := t.ctx.regs.xfer, s := t.ctx.regs.s }
      queue := t.ctx.queue
      saved := t.ctx.saved
      ppPoint := t.ctx.ppPoint
      backPoint := t.ctx.backPoint
      breakOnce := t.ctx.breakOnce
      yielded := t.ctx.yielded
      endCkpt := t.ctx.endCkpt
      trap := t.ctx.trap } } ∧
    (∀ r : SReg, r ≠ 63 → t.ctx.regs.s[r.toNat]'r.isLt = s.ctx.regs.s[r.toNat]'r.isLt) ∧
    ((∀ q o, i ≠ .cCall q o) → (∀ q r, i ≠ .cCalls q r) → t.ctx.regs.s = s.ctx.regs.s) ∧
    (∀ o ∈ t.ctx.queue, ∃ l, { o with id := { o.id with lidx := l } } ∈ s.ctx.queue) ∧
    (∀ o ∈ s.ctx.queue, isSkip o.instr = false → ∃ l, { o with id := { o.id with lidx := l } } ∈ t.ctx.queue) ∧
    SameMemory s t

/-- R327 to R330, Table 13.2: a taken branch makes its target pending behind two delay slots, leaves flow at the next bundle, and a call
writes s63 with the pc that flow reaches after the second delay slot where nothing is taken: past the bundle and two more; the register of a register branch is read before
s63 is written. Every one completes.
R328, R453: past a bundle with a branch pending, the number of delay slots still to run falls by one; past the second of them flow
goes to the target. With nothing pending flow goes to the next bundle. -/
def Obligations.TransfersAndDelaySlots : Prop :=
  (∀ (q : Pred) (o : BitVec 22) (r : SReg) (s : State), s.holds q = true →
     let pc := s.ctx.regs.pc
     let f := s.flow s.ctx.regs.loops pc
     let goes := fun (i : Instr) (target : BitVec 32) (linked : Bool) =>
       ∃ t, exec i s = .next t ∧ t.ctx.regs.xfer = some ⟨some target, 0, 2, pc⟩ ∧ t.ctx.regs.pc = f.next ∧ t.ctx.regs.loops = f.loops ∧
         t.ctx.regs.s = (if linked then s.writeS 63 (s.returnPc.setWidth 64) else s).ctx.regs.s ∧
         t.ctx.regs.v = s.ctx.regs.v ∧ t.ctx.regs.p = s.ctx.regs.p ∧ t.ctx.regs.mstk = s.ctx.regs.mstk ∧ SameMemory s t
     goes (.cBr q o) (BitVec.ofInt 32 (pc.toInt + o.toInt)) false ∧
     goes (.cCall q o) (BitVec.ofInt 32 (pc.toInt + o.toInt)) true ∧
     goes (.cRet q) ((s.readS 63).setWidth 32) false ∧
     goes (.cBrs q r) ((s.readS r).setWidth 32) false ∧
     goes (.cCalls q r) ((s.readS r).setWidth 32) true) ∧
  (∀ (q : Pred) (s : State), NoDelay s → ∃ t u v, exec (.cNop q) s = .next t ∧ exec (.cNop q) t = .next u ∧ exec (.cNop q) u = .next v ∧
     s.returnPc = v.ctx.regs.pc) ∧
  (∀ (q : Pred) (s : State),
     let f := s.flow s.ctx.regs.loops s.ctx.regs.pc
     (s.ctx.regs.xfer = none → ∃ t, exec (.cNop q) s = .next t ∧ t.ctx.regs.pc = f.next ∧ t.ctx.regs.loops = f.loops ∧
       t.ctx.regs.xfer = none) ∧
     (∀ target src, s.ctx.regs.xfer = some ⟨some target, 0, 2, src⟩ →
       ∃ t, exec (.cNop q) s = .next t ∧ t.ctx.regs.pc = f.next ∧ t.ctx.regs.xfer = some ⟨some target, 0, 1, src⟩) ∧
     (∀ target src, s.ctx.regs.xfer = some ⟨some target, 0, 1, src⟩ →
       ∃ t, exec (.cNop q) s = .next t ∧ t.ctx.regs.pc = target ∧ t.ctx.regs.loops = f.loops ∧
         t.ctx.regs.xfer = some ⟨some target, 0, 0, src⟩))

/-- R332, R331: `loop` and `loopi` push an entry with INDEX 0, the count, END = P + end offset and START the next bundle, when the end
is a bundle start, the count is not 0 and LD is below 6. With LD = 6 LOOP_OVERFLOW (0x32) is held and nothing is pushed; an end that
is no bundle start holds MISALIGNED_TARGET (0x02); with count 0 nothing is pushed and flow goes on past the END bundle, once the loop's own
bundle has taken the end action it stands at (DEDUCED, log 24).
R333: when the bundle at END of the innermost entry passes, an entry with more than one iteration left counts one and flow goes to
START; an entry on its last iteration is popped, and an enclosing entry with the same END acts in turn, else flow goes on past the
bundle. A bundle elsewhere has no end action. -/
def Obligations.HardwareLoops : Prop :=
  (∀ (q : Pred) (r : SReg) (e : BitVec 16) (n : BitVec 10) (e' : BitVec 12) (s : State), s.holds q = true → NoDelay s →
     let pc := s.ctx.regs.pc
     let does := fun (i : Instr) (count last : BitVec 32) =>
       let held := fun (code : Nat) => ∃ h, h.info.code = code ∧ exec i s = .next { s with ctx := { s.ctx with trap := some h } }
       (s.startBit last.toNat = false → s.ctx.trap = none → held 0x02) ∧
       (s.startBit last.toNat = true → count = 0 → ∃ t, exec i s = .next t ∧ t.ctx.regs.loops = (s.flow s.ctx.regs.loops pc).loops ∧
         t.ctx.regs.pc = s.after last ∧ t.ctx.regs.s = s.ctx.regs.s ∧ SameMemory s t) ∧
       (s.startBit last.toNat = true → count ≠ 0 → s.ctx.regs.loops.length < 6 → ∃ t, exec i s = .next t ∧
         let f := s.flow (⟨0, count, last, s.after pc⟩ :: s.ctx.regs.loops) pc
         t.ctx.regs.loops = f.loops ∧ t.ctx.regs.pc = f.next ∧ t.ctx.regs.s = s.ctx.regs.s ∧ SameMemory s t) ∧
       (s.startBit last.toNat = true → count ≠ 0 → 6 ≤ s.ctx.regs.loops.length → s.ctx.trap = none → held 0x32)
     does (.cLoop q r e) ((s.readS r).setWidth 32) (pc + e.setWidth 32) ∧
     does (.cLoopi q n e') (BitVec.ofNat 32 (n.toNat + 1)) (pc + e'.setWidth 32)) ∧
  (∀ (s : State) (e e2 : LoopEntry) (l : List LoopEntry) (pc : BitVec 32),
     (e.last = pc → e.remain ≠ 1 → s.flow (e :: l) pc = ⟨{ e with remain := e.remain - 1, index := e.index + 1 } :: l, e.start, true⟩) ∧
     (e.last = pc → e.remain = 1 → e2.last ≠ pc → s.flow (e :: e2 :: l) pc = ⟨e2 :: l, s.after pc, false⟩) ∧
     (e.last = pc → e.remain = 1 → s.flow [e] pc = ⟨[], s.after pc, false⟩) ∧
     (e.last = pc → e.remain = 1 → e2.last = pc → s.flow (e :: e2 :: l) pc = s.flow (e2 :: l) pc) ∧
     (e.last ≠ pc → s.flow (e :: l) pc = ⟨e :: l, s.after pc, false⟩) ∧
     s.flow [] pc = ⟨[], s.after pc, false⟩)

/-- R334, R337 to R340: the other C operations complete. `lbreak` pops the innermost entry and goes on past its END; `lnext` applies its
end action; without an active loop both hold LOOP_UNDERFLOW (0x33). `yield` only passes its bundle and marks the boundary, which is a
pre-emption point unless a transfer is pending there; `trap` holds SOFTWARE_TRAP (0x38) with its code; `exit` forces the boundary that
ends the context; `break` is a `nop` outside debug and holds BREAKPOINT (0x39) under it.
R158: a `vskip` whose mask-stack top is not all zero changes nothing; a taken one makes the skip of n bundles pending behind the
delay slots that have not passed yet, or where both have passed walks at once, and changes no vector register and no mask. -/
def Obligations.OtherControlAndSkips : Prop :=
  (∀ (q : Pred) (code : BitVec 16) (s : State), s.holds q = true →
     let past := s.passBundle
     let held := fun (i : Instr) (c info : Nat) => s.ctx.trap = none → ∃ h, h.info.code = c ∧ h.info.info = info ∧ h.pc = s.opId.pc ∧
       exec i s = .next { s with ctx := { s.ctx with trap := some h } }
     (NoDelay s → past.ctx.regs.pc = (s.flow s.ctx.regs.loops s.ctx.regs.pc).next ∧ past.ctx.regs.xfer = none) ∧
     (∀ e l, NoDelay s → s.ctx.regs.loops = e :: l →
       let out := fun (i : Instr) (f : Flow) => ∃ t, exec i s = .next t ∧ t.ctx.regs.loops = f.loops ∧ t.ctx.regs.pc = f.next ∧
         t.ctx.regs.s = s.ctx.regs.s ∧ SameMemory s t
       let enclosing := fun (f : Flow) => if (l.head?.map fun (x : LoopEntry) => x.last) = some e.last then endAction (s.after e.last) l else f
       out (.cLbreak q) (enclosing ⟨l, s.after e.last, false⟩) ∧
       out (.cLnext q) (if e.remain = 1 then enclosing ⟨l, s.after e.last, false⟩
         else ⟨{ e with remain := e.remain - 1, index := e.index + 1 } :: l, e.start, true⟩)) ∧
     (s.ctx.regs.loops = [] → held (.cLbreak q) 0x33 0 ∧ held (.cLnext q) 0x33 0) ∧
     (∃ t, exec (.cYield q) s = .next t ∧ t = { past with ctx := { past.ctx with yielded := true, ppPoint := t.ctx.ppPoint } } ∧
       (NoDelay s → t.ctx.ppPoint = true)) ∧
     held (.cTrap q code) 0x38 code.toNat ∧
     (∃ t r, exec (.cExit q) s = .next t ∧ t = { past with ctx := { past.ctx with endCkpt := some r } } ∧ r.forced = true ∧ r.exit = true) ∧
     (s.ctx.debug = false ∨ s.ctx.breakOnce = true → exec (.cBreak q) s = .next past) ∧
     (s.ctx.debug = true → s.ctx.breakOnce = false → held (.cBreak q) 0x39 0)) ∧
  (∀ (q : Pred) (n : BitVec 16) (s : State), s.holds q = true →
     (s.maskTop ≠ 0 → exec (.vSkip q n) s = .next s) ∧
     (s.maskTop = 0 → s.ctx.seq < s.opId.seq + 3 → ∃ t, exec (.vSkip q n) s = .next t ∧
       t.ctx.regs.xfer = some ⟨none, n.toNat, 2 - (s.ctx.seq - 1 - s.opId.seq), s.opId.pc⟩ ∧ t.ctx.regs.pc = s.ctx.regs.pc ∧
       t.ctx.regs.v = s.ctx.regs.v ∧ t.ctx.regs.mstk = s.ctx.regs.mstk ∧ t.ctx.regs.mdep = s.ctx.regs.mdep ∧ SameMemory s t) ∧
     (∀ f, s.maskTop = 0 → s.opId.seq + 3 ≤ s.ctx.seq → s.walkSkip n.toNat s.ctx.regs.loops s.ctx.regs.pc = .ok f →
       ∃ t, exec (.vSkip q n) s = .next t ∧ t.ctx.regs = { s.ctx.regs with pc := f.next, loops := f.loops, xfer := none } ∧
         SameMemory s t))
namespace Sys2Proof.Claims
open Sys2Proof.Machine

/-- n bytes of scratchpad from ea on may be accessed: within SPBOUND and the scratchpad, in banks that the context's slot owns and has not
released (R28, R31). -/
def Owned (s : State) (ea n : Nat) : Prop :=
  s.ctx.spLo.toNat ≤ ea ∧ ea + n - 1 ≤ s.ctx.spHi.toNat ∧ ea + n - 1 < 2 ^ 22 ∧
  ∀ b, ea / 2 ^ 16 ≤ b → b ≤ (ea + n - 1) / 2 ^ 16 →
    s.ctx.released.getLsbD b = false ∧ s.core.owner.toList.getD b none = some s.slotNum

/-- They may be read: none of them is poisoned (R418). -/
def Readable (s : State) (ea n : Nat) : Prop := Owned s ea n ∧ ∀ i < n, NatSet.has s.core.poison (ea + i) = false

/-- They may be stored to: no tile that reads them is in use there (R180). -/
def Writable (s : State) (ea n : Nat) : Prop := Owned s ea n ∧ s.overwrites ea n = false

/-- A byte that a load of a class may return at a location (R240, R249): what the context's own latest write there that has not performed
leaves, else what stands at the home, or what a write that nothing orders before the load has replaced. -/
def MayRead (s : State) (cls : BitVec 4) (p : Place) (b : Byte) : Prop :=
  match s.forward s.ownWrites p with
  | some x => b = x
  | none => b = s.byteAt (s.loc p) ∨ ∃ o ∈ s.pkg.hist, o.loc = s.loc p ∧ s.settled cls o = false ∧ b = o.byte

/-- n bytes of scratchpad as a load of a class may return them, as a number. -/
def MayLoad (s : State) (cls : BitVec 4) (ea n x : Nat) : Prop :=
  ∃ bs : List Byte, bs.length = n ∧ x = leNat bs ∧ ∀ i < n, MayRead s cls (.sram (ea + i)) (bs.getD i 0)

/-- The bytes that the context reads there at the home, its own writes first (R240), as a number. -/
def loaded (s : State) (ea n : Nat) : Nat := leNat ((List.range n).map fun i => s.loadByte (.sram (ea + i)))

/-- Scratchpad bytes as the cells of withheld entries. -/
def cellsAt (ea : Nat) (d : List Byte) : List (Place × Option Byte) := d.zipIdx.map fun (b, i) => (.sram (ea + i), some b)

/-- The race detector is off (R259). -/
def RacesOff (s : State) : Prop := (s.readSys 0x008).getLsbD 0 = false

/-- A long op begins, and nothing asks it to stop between its elements (R270). -/
def Unbroken (s : State) : Prop := s.ctx.longOp = none ∧ s.ctx.preempt = false

/-- The executing lanes, lowest first. -/
def lanes (s : State) : List Nat := (List.range 64).filter fun i => s.maskTop.getLsbD i

/-- Entries that store these cells at a class, in this order, made by the operation at work and next in entry order (R236). -/
def StoreEntries (s : State) (es : List Entry) (cells : List (Place × Option Byte)) (cls : BitVec 4) : Prop :=
  es.flatMap (·.cells) = cells ∧ es.map (·.ser) = (List.range es.length).map (s.ctx.entries + ·) ∧
    ∀ e ∈ es, e.act = .store ∧ e.cls = cls ∧ e.id = s.opId

/-- t is s with entries added to the withholding buffer that store these cells at a class, in this order; translations may have
entered the core's translation cache (R375), and with them host pages that the host grants (R395), and nothing else differs. -/
def Withheld (s t : State) (cells : List (Place × Option Byte)) (cls : BitVec 4) : Prop :=
  ∃ es : List Entry, StoreEntries s es cells cls ∧
    t = { s with ctx := { s.ctx with buffer := s.ctx.buffer ++ es, entries := s.ctx.entries + es.length },
                 core := { s.core with tlb := t.core.tlb }, pkg := { s.pkg with atsOk := t.pkg.atsOk } }

/-- The state with no element of a long op in progress (R270). -/
def elemDone (s : State) : State := { s with ctx := { s.ctx with progidx := setBits s.ctx.progidx 6 0 0 } }

/-- The entry that one operation withholds. -/
def entryOf (s : State) (act : EntryAct) (cells : List (Place × Option Byte)) (va : Word) (cls : BitVec 4) (scope : BitVec 3) : Entry :=
  ⟨s.opId, act, cells, va, cls, scope, s.ctx.entries⟩

/-- t is s with that one entry withheld. -/
def withEntry (s : State) (e : Entry) : State :=
  { s with ctx := { s.ctx with buffer := s.ctx.buffer ++ [e], entries := s.ctx.entries + 1 } }

/-- u is s but for further withheld entries, for translations that the core's translation cache may hold (R375), and for host pages granted
with them (R395). -/
def SameButBuffer (s u : State) : Prop :=
  u = { s with ctx := { s.ctx with buffer := u.ctx.buffer, entries := u.ctx.entries }, core := { s.core with tlb := u.core.tlb },
               pkg := { s.pkg with atsOk := u.pkg.atsOk } } ∧
  (∀ e ∈ u.core.tlb, e ∈ s.core.tlb ∨ ∃ va, s.walk va = .ok e) ∧
  ∀ n, NatSet.has s.pkg.atsOk n = true → NatSet.has u.pkg.atsOk n = true

/-- Nothing that a withheld entry is ordered after is still to perform (R238, R244). -/
def Free (s : State) (e : Entry) : Prop :=
  let ws := s.ctx.waitsOf e.cls e.ser e.act.releases
  s.mustWait ws e.ser (s.entryRuns e.cells) = false ∧ s.mustWait ws e.ser (s.entryRuns e.cells) false = false ∧
  s.scopeQuiet e.scope (ordered e.cls e.ser) = true ∧ s.scopeQuiet e.scope (ordered e.cls e.ser) true = true

/-- The entry has left the buffer, and its write is on its way to these bytes of the core's scratchpad, of which none has changed yet. -/
def OnItsWay (s t : State) (e : Entry) (a : Nat) (k : RwKind) : Prop :=
  t.core = s.core ∧ t.ctx.regs = s.ctx.regs ∧ ∃ x : RemoteWrite, t.pkg = { s.pkg with wire := s.pkg.wire ++ [x] } ∧
    x.kind = k ∧ x.cls = e.cls ∧ x.ser = e.ser ∧ x.home = some (.sram a) ∧ x.data = e.cells.map (·.2)

/-- No byte of a run in package memory lies in a cell that its home is clearing (R319). -/
def NoClearing (s : State) (a n : Nat) : Prop := ∀ i < n, clearingAt s.pkg.clearing s.clock (a + i) = none

/-- Fields of a queue register (Table 11.7). -/
def qBaseOf (x : BitVec 128) : Nat := x.toNat % 2 ^ 63
def qCountOf (x : BitVec 128) : Nat := x.toNat / 2 ^ 64 % 2 ^ 10 + 1
def qSizeOf (x : BitVec 128) : Nat := x.toNat / 2 ^ 74 % 2 ^ 8
/-- A queue register whose counters it has read: the same but for FILL, DRAIN and FILLED. -/
def QueueSeen (x y : BitVec 128) (fc dc : Nat) : Prop :=
  y.toNat % 2 ^ 86 = x.toNat % 2 ^ 86 ∧ y.toNat / 2 ^ 86 % 2 ^ 10 = fc % qCountOf x ∧ y.toNat / 2 ^ 96 % 2 ^ 10 = dc % qCountOf x ∧
  y.toNat / 2 ^ 106 % 2 ^ 11 = (fc + 2 ^ 32 - dc) % 2 ^ 32 % 2 ^ 11

end Sys2Proof.Claims

/-- R31, R28, R180, R265, R267, R418: a scratchpad access is checked for its bounds first (BOUND, 0x10, at its address), then for its
alignment (ALIGN, 0x11), then as a store for the ranges of tiles in use (OPERAND_OVERWRITE, 0x21); an access to a bank that the context
does not own waits; a read of a poisoned byte raises UNCORRECTABLE (0x40, subcode 2); otherwise it names its bytes in rising order. -/
def Obligations.ScratchpadChecksInOrder : Prop :=
  ∀ (s : State) (o : Opd) (n align elem : Nat) (need : Need) (rs : List Right) (guard : Bool), o.space = .sp → 0 < n →
    let ea := o.ea.toNat
    let checked := s.check o n need rs align elem (guard := guard)
    let traps := fun (code sub : Nat) => ∃ t, checked = .trap t ∧ t.code = code ∧ t.sub = sub ∧ t.addr = o.ea ∧ t.elem = elem
    let inside := s.ctx.spLo.toNat ≤ ea ∧ ea + n - 1 ≤ s.ctx.spHi.toNat ∧ ea + n - 1 < 2 ^ 22 ∧
      ∀ b, ea / 2 ^ 16 ≤ b → b ≤ (ea + n - 1) / 2 ^ 16 → s.ctx.released.getLsbD b = false
    (¬ inside → traps 0x10 0) ∧
    (inside → ea % align ≠ 0 → traps 0x11 0) ∧
    (inside → ea % align = 0 → guard = true → s.overwrites ea n = true → traps 0x21 0) ∧
    (inside → ea % align = 0 → (guard = false ∨ s.overwrites ea n = false) → ¬ Owned s ea n → ∃ t, checked = .stall t ∧ t = s) ∧
    (Owned s ea n → ea % align = 0 → (guard = false ∨ s.overwrites ea n = false) → need.reads = true →
      (∃ i < n, NatSet.has s.core.poison (ea + i) = true) → traps 0x40 2) ∧
    (Owned s ea n → ea % align = 0 → (guard = false ∨ s.overwrites ea n = false) → (need.reads = true → Readable s ea n) →
      checked = .ok ((List.range n).map fun i => .sram (ea + i)) [])

/-- R271, R240, R249: `ld` from scratchpad writes the little-endian bytes that a load of its class may see there, zero- or sign-extended;
from any place, once its bytes are there, likewise; a failing check raises its trap. -/
def Obligations.ScalarLoadsComplete : Prop :=
  ∀ (q : Pred) (d : SReg) (mem : Mem) (size : BitVec 2) (sx : Bool) (s : State), s.holds q = true →
    let n := 2 ^ size.toNat
    let ea := (s.readS mem.base + BitVec.ofInt 64 mem.off.toInt).toNat
    let extended := fun (x : Nat) => if sx then BitVec.ofInt 64 (sval (8 * n) x) else BitVec.ofNat 64 x
    (mem.space = .sp → Readable s ea n → RacesOff s → ∃ t x, exec (.lLd q d mem size sx) s = .next t ∧ MayLoad s mem.cls ea n x ∧
      t.ctx.regs = (s.writeS d (extended x)).ctx.regs ∧ SameMemory s t) ∧
    (∀ b t, s.got (s.opd mem) n 1 0 (some mem.cls) = .bytes b t → b.length = n →
      exec (.lLd q d mem size sx) s = .next (t.writeS d (extended (leNat b)))) ∧
    (∀ i, s.check (s.opd mem) n .read [.r] 1 0 = .trap i → exec (.lLd q d mem size sx) s = .next (s.raise i))

/-- R268, R270, R272, R273, R240, R249: vector loads from scratchpad write every executing lane from its own address (contiguous, strided,
indexed, or a string's first four bytes) and leave the others; from any other place but another core's, once the bytes are there,
likewise. -/
def Obligations.VectorLoadsComplete : Prop :=
  ∀ (q : Pred) (d x : VReg) (mem : Mem) (mem2 : Mem2) (stride : SReg) (size : BitVec 2) (s : State), s.holds q = true →
    let w := if size = 3 then 64 else 32
    let base := (s.readS mem.base + BitVec.ofInt 64 mem.off.toInt).toNat
    let base2 := s.readS mem2.base
    let strided := fun (i : Nat) => base2 + BitVec.ofNat 64 i * s.readS stride
    let indexed := fun (i : Nat) => base2 + BitVec.ofInt 64 (sval 32 (el s 32 x i))
    let piece := fun (i : Nat) => min 4 (el s 32 (x + 1) i % 2 ^ 16)
    let offset := fun (i : Nat) => base2 + BitVec.ofNat 64 (el s 32 x i)
    let fills := fun (i : Instr) (w : Nat) (cls : BitVec 4) (at_ n : Nat → Nat) => ∃ (t : State) (val : Nat → Nat), exec i s = .next t ∧
      (∀ l ∈ lanes s, MayLoad s cls (at_ l) (n l) (val l)) ∧ SameMemory s t ∧
      t.ctx.regs = (s.writeElems w d ((List.range 64).map fun l => if s.maskTop.getLsbD l then val l else el s w d l)).ctx.regs
    let long := fun (i : Instr) (w : Nat) (at_ : Nat → Word) (n : Nat → Nat) => Unbroken s →
      (mem2.space = .sp → RacesOff s → (∀ l ∈ lanes s, 0 < n l → Readable s (at_ l).toNat (n l)) →
        fills i w mem2.cls (fun l => (at_ l).toNat) n) ∧
      (∀ t new, s.loadElems (s.opd2 mem2) mem2.cls ((lanes s).map fun l => (l, at_ l, List.replicate (n l) 0)) [] = (t, some new) →
        let u := { elemDone t with ctx := { (elemDone t).ctx with longOp := none } }
        exec i s = .next (if w = 64 then u.putSized d 3 new else u.putLanes d new))
    (mem.space = .sp → RacesOff s → base + 256 < 2 ^ 64 → (∀ l ∈ lanes s, Readable s (base + 4 * l) 4) →
      fills (.lVld q d mem) 32 mem.cls (fun l => base + 4 * l) fun _ => 4) ∧
    (∀ ps xs b t, mem.space ≠ .win → s.checkLanes (s.opd mem) .read [.r] (lanes s) = .ok ps xs →
      s.gotAt (some mem.cls) (ps.flatMap (·.2)) xs (fun j => unitNo (j / 4) base 4 (j % 4)) = .bytes b t →
      exec (.lVld q d mem) s = .next (t.putLanes d ((ps.map (·.1)).zip (cut4 ps.length b)))) ∧
    long (.lVlds q d mem2 stride size) w strided (fun _ => 2 ^ size.toNat) ∧
    long (.lVgather q d mem2 x size) w indexed (fun _ => 2 ^ size.toNat) ∧
    long (.lVsgather q d mem2 x) 32 offset piece

/-- R236, R240, R268 to R272, R399: stores that pass their checks enter the withholding buffer with their bytes at their addresses, the
executing lanes' in rising order, and change nothing else: no byte of memory yet. -/
def Obligations.StoresAreWithheld : Prop :=
  ∀ (q : Pred) (a : SReg) (d x : VReg) (mem : Mem) (mem2 : Mem2) (stride : SReg) (size : BitVec 2) (s : State) (place : Nat → List Place),
    s.holds q = true → RacesOff s →
    let o := s.opd mem
    let base2 := s.readS mem2.base
    let w := if size = 3 then 64 else 32
    let n := 2 ^ size.toNat
    let strided := fun (i : Nat) => base2 + BitVec.ofNat 64 i * s.readS stride
    let indexed := fun (i : Nat) => base2 + BitVec.ofInt 64 (sval 32 (el s 32 x i))
    let cells := fun (ps : List Place) (n v : Nat) => ps.zip ((leBytes n v).map some)
    let names := fun (u : State) (o : Opd) (n elem : Nat) (ps : List Place) => ∃ xs, u.check o n .write [.w] 1 elem (guard := true) = .ok ps xs
    let scattered := fun (i : Instr) (at_ : Nat → Word) => Unbroken s →
      (∀ u, SameButBuffer s u → ∀ l ∈ lanes s, names u { s.opd2 mem2 with ea := at_ l } n l (place l)) → ∃ t, exec i s = .next t ∧
        Withheld (elemDone s) t ((lanes s).flatMap fun l => cells (place l) n (el s w d l)) mem2.cls
    (∀ ps, names s o n 0 ps → ∃ t, exec (.lSt q a mem size) s = .next t ∧ Withheld s t (cells ps n (s.readS a).toNat) mem.cls) ∧
    ((∀ l ∈ lanes s, names s { o with ea := o.ea + BitVec.ofNat 64 (4 * l) } 4 0 (place l)) → ∃ t, exec (.lVst q d mem) s = .next t ∧
      Withheld s t ((lanes s).flatMap fun l => cells (place l) 4 (el s 32 d l)) mem.cls) ∧
    scattered (.lVsts q d mem2 stride size) strided ∧
    scattered (.lVscatter q d mem2 x size) indexed

/-- R240, R397, R238: a withheld store or queue counter forwards its bytes to the context's own loads at once, the latest entry first; when
it is released with nothing to wait for, its bytes stand at their places, and every other byte of memory reads as before; one that earlier
accesses hold back, or that a free value sends on its way (log 57), leaves the buffer all the same, and performs later. -/
def Obligations.WithheldStoreForwardsThenPerforms : Prop :=
  ∀ (s : State) (id : OpId) (act : EntryAct) (ea : Nat) (d : List Byte) (va : Word) (cls : BitVec 4) (ser : Nat), 0 < d.length →
    act ∈ [EntryAct.store, .count true, .count false] → s.core.ram.wf = true → (∀ x ∈ s.ownWrites, x.ser < ser) →
    let e : Entry := ⟨id, act, cellsAt ea d, va, cls, 0, ser⟩
    let t := { s with ctx := { s.ctx with buffer := s.ctx.buffer ++ [e] } }
    let wait := s.mustWait (s.ctx.waitsOf cls ser) ser (s.entryRuns e.cells) || Config.freeBool s.clock
    (∀ i < d.length, t.loadByte (.sram (ea + i)) = d.getD i 0) ∧
    (∀ a, (a < ea ∨ ea + d.length ≤ a) → t.loadByte (.sram a) = s.loadByte (.sram a)) ∧
    (wait = false → ∃ u, s.release e = some u ∧ (∀ i < d.length, u.byteAt (.sram (ea + i)) = d.getD i 0) ∧
      (∀ p, (∀ i < d.length, s.loc p ≠ s.loc (.sram (ea + i))) → u.byteAt p = s.byteAt p) ∧ u.ctx.regs = s.ctx.regs) ∧
    (wait = true → ∃ u, s.release e = some u ∧ OnItsWay s u e ea (if act = .count true then .count else .store) ∧ u.ctx = s.ctx)

/-- R274 to R277: a tagged read of full words completes with their bytes and waits while one is empty; a taking read, the tagged stores and
the writes of full/empty bits enter the buffer as one entry each, a taking read with its register pending and the boundary after its
bundle forced; `fqry` reads the bits in address order and never waits. In scratchpad a tagged read names its bytes in address order. Each
entry, released with nothing to wait for, stores its bytes and sets or clears its words' bits, now or on its way as a free value says
(log 57); `ste` waits in the receive queue for a full word, and the taking read for an empty one.
(That a taking read performs inside the commit, log 36.) -/
def Obligations.FullEmptyOperationsComplete : Prop :=
  ∀ (q : Pred) (d a : SReg) (mem : Mem) (scope : BitVec 3) (dbl : Bool) (size : BitVec 3) (s : State) (ps : List Place),
    s.holds q = true →
    let o := s.opd mem
    let n := if dbl then 8 else 4
    let m := if size = 4 then 256 else 2 ^ size.toNat
    let ea := o.ea.toNat
    let full := fun (k : Nat) => s.wordFull (ps.getD (4 * k) (.sram 0))
    let passes := fun (n : Nat) (need : Need) (rs : List Right) (guard : Bool) => ∃ xs, s.check o n need rs n 0 (guard := guard) = .ok ps xs
    let buffered := fun (i : Instr) (act : EntryAct) (cells : List (Place × Option Byte)) (sc : BitVec 3) =>
      exec i s = .next (withEntry s (entryOf s act cells o.ea mem.cls sc))
    (∀ k, mem.space = .sp → Readable s ea k → ea % k = 0 → 0 < k → s.taggedRead o k =
      (.bytes ((List.range k).map fun i => s.loadByte (.sram (ea + i))) s, (List.range k).map fun i => .sram (ea + i))) ∧
    (∀ b u, s.taggedRead o n = (.bytes b u, ps) → ps.length = n → (∀ k < n / 4, full k = true) → ∃ t, exec (.lLdf q d mem scope dbl) s = .next t ∧
      t.ctx.regs = (s.writeS d (BitVec.ofNat 64 (leNat b))).ctx.regs ∧ SameMemory s t) ∧
    (∀ b u, s.taggedRead o n = (.bytes b u, ps) → ps.length = n → (∃ k < n / 4, full k = false) →
      exec (.lLdf q d mem scope dbl) s = .next (s.block true)) ∧
    (passes n .read [] false → ∃ t, exec (.lLdfTake q d mem scope dbl) s = .next t ∧
      t.ctx.buffer = s.ctx.buffer ++ [entryOf s (.take d dbl) (ps.map fun p => (p, none)) o.ea mem.cls scope] ∧
      t.ctx.pending = .s d :: s.ctx.pending ∧ (∃ r, t.ctx.endCkpt = some r ∧ r.forced = true) ∧ t.ctx.regs = s.ctx.regs ∧
      SameMemory s t) ∧
    (passes n .write [.w] true →
      buffered (.lSte q a mem scope dbl) .ste (ps.zip ((leBytes n (s.readS a).toNat).map some)) scope ∧
      buffered (.lStf q a mem scope dbl) .stf (ps.zip ((leBytes n (s.readS a).toNat).map some)) scope) ∧
    (passes m .write [] false →
      buffered (.lFset q mem size) .fset (ps.map fun p => (p, none)) 0 ∧
      buffered (.lFclr q mem size) .fclr (ps.map fun p => (p, none)) 0) ∧
    (∀ b u, s.taggedRead o m = (.bytes b u, ps) → ps.length = m → feSize size = true → ∃ t, ∃ v : Word, exec (.lFqry q d mem size) s = .next t ∧
      t.ctx.regs = (s.writeS d v).ctx.regs ∧ SameMemory s t ∧ ∀ k < m / 4, v.getLsbD k = full k) ∧
    (∀ (e : Entry) (a : Nat) (b : List Byte), Free s e → 0 < b.length → s.core.ram.wf = true →
      let n := b.length
      let kept := e.cells = (List.range n).map fun i => (.sram (a + i), none)
      let stored := fun (t : State) => t.core.full = (s.core.setFull a n).full ∧ t.ctx.regs = s.ctx.regs ∧
        (∀ i < n, t.core.ram.get (a + i) = b.getD i 0) ∧ ∀ x, x < a ∨ a + n ≤ x → t.core.ram.get x = s.core.ram.get x
      let performs := fun (k : RwKind) (now : State → Prop) => ∃ t, s.release e = some t ∧
        if Config.freeBool s.clock then OnItsWay s t e a k else now t
      (e.act = .stf → e.cells = cellsAt a b → performs .stf stored) ∧
      (e.act = .ste → e.cells = cellsAt a b → s.core.allEmpty a n = true → performs .ste stored) ∧
      (e.act = .ste → e.cells = cellsAt a b → s.core.allEmpty a n = false → s.core.recvq.length < 256 → performs .ste fun t => ∃ x : RemoteWrite,
        t.core = { s.core with recvq := s.core.recvq ++ [x] } ∧ x.data = b.map some ∧ x.addr = a) ∧
      (e.act = .fset → kept → performs .fset fun t => t = { s with core := s.core.setFull a n }) ∧
      (e.act = .fclr → kept → performs .fclr fun t => t = { s with core := s.core.setEmpty a n }) ∧
      (e.act = .take d dbl → kept → s.ownWrites = [] →
        (s.core.allFull a n = true → ∃ t, s.release e = some t ∧ t.core.full = (s.core.setEmpty a n).full ∧ t.core.ram = s.core.ram ∧
          t.ctx.regs = (s.writeS d (BitVec.ofNat 64 (s.core.ram.le a n))).ctx.regs) ∧
        (s.core.allFull a n = false → s.release e = none)))

/-- R281 to R286: the circular-buffer instructions on a queue in scratchpad, whose counters fc and dc stand at its base: `qinit` builds the
register, the consumer reads slot dc + k once FILLED is high enough, the producer writes slot fc + k once there is room, the advances
withhold the new counter, `qqry` reports; each leaves the register as the counters say.
(That FILLED counts modulo 2,048, log 37.) -/
def Obligations.QueueOperationsComplete : Prop :=
  ∀ (q : Pred) (n : QReg) (a sd : SReg) (d : VReg) (off : BitVec 10) (need : BitVec 8) (cls : BitVec 4) (m : BitVec 10)
    (size : BitVec 8) (s : State), s.holds q = true →
    let x := s.readQ n
    let b := qBaseOf x
    let c := qCountOf x
    let fc := loaded s b 4
    let dc := loaded s (b + 4) 4
    let filled := (fc + 2 ^ 32 - dc) % 2 ^ 32
    let slot := fun k => b + 64 + 64 * qSizeOf x * (k % c)
    let ready := x.getLsbD 63 = true ∧ Readable s b 8
    let runs := fun (i : Instr) (y : BitVec 128) (es : List Entry) (p : State → State) => ∃ t, exec i s = .next t ∧
      t.ctx.regs = ((p s).writeQ n y).ctx.regs ∧ t.ctx.buffer = s.ctx.buffer ++ es ∧ SameMemory s t
    (∀ (base : Nat) (count : Nat), (s.readS a).getLsbD 63 = true → base = (s.readS a).toNat % 2 ^ 63 → count = m.toNat + 1 →
      base % 64 = 0 → s.spBound base (64 + 64 * size.toNat * count) = true → Readable s base 8 →
      (loaded s base 4 + 2 ^ 32 - loaded s (base + 4) 4) % 2 ^ 32 ≤ count →
      ∃ y, runs (.lQinit q a n m size cls) y [] id ∧ qBaseOf y = base ∧ y.getLsbD 63 = true ∧ qCountOf y = count ∧
        qSizeOf y = size.toNat ∧ QueueSeen y y (loaded s base 4) (loaded s (base + 4) 4)) ∧
    (ready → RacesOff s → 4 ≤ qSizeOf x → need.toNat ≤ c → need.toNat ≤ filled → slot (dc + off.toNat) + 256 < 2 ^ 63 →
      (∀ i ∈ lanes s, Readable s (slot (dc + off.toNat) + 4 * i) 4) →
      ∃ (y : BitVec 128) (val : Nat → Nat), QueueSeen x y fc dc ∧ (∀ i ∈ lanes s, MayLoad s cls (slot (dc + off.toNat) + 4 * i) 4 (val i)) ∧
        runs (.lVldQueue q d n off need cls) y [] fun s =>
          s.writeElems 32 d ((List.range 64).map fun i => if s.maskTop.getLsbD i then val i else el s 32 d i)) ∧
    (ready → RacesOff s → 4 ≤ qSizeOf x → need.toNat ≤ c → filled + need.toNat ≤ c →
      slot (fc + off.toNat) + 256 < 2 ^ 63 → (∀ i ∈ lanes s, Writable s (slot (fc + off.toNat) + 4 * i) 4) →
      ∃ y es, QueueSeen x y fc dc ∧ runs (.lVstQueue q d n off need cls) y es id ∧
        StoreEntries s es ((lanes s).flatMap fun i => cellsAt (slot (fc + off.toNat) + 4 * i) (leBytes 4 (el s 32 d i))) cls) ∧
    (ready → s.slotsHeld x cls = false → s.slotsBusy x cls = false → filled + m.toNat + 1 ≤ c →
      ∃ y, QueueSeen x y ((fc + m.toNat + 1) % 2 ^ 32) dc ∧ runs (.lQadvp q n m cls) y
        [entryOf s (.count true) (cellsAt b (leBytes 4 ((fc + m.toNat + 1) % 2 ^ 32))) (BitVec.ofNat 64 b) cls 2] id) ∧
    (ready → m.toNat + 1 ≤ filled →
      ∃ y, QueueSeen x y fc ((dc + m.toNat + 1) % 2 ^ 32) ∧ runs (.lQadvc q n m cls) y
        [entryOf s (.count false) (cellsAt (b + 4) (leBytes 4 ((dc + m.toNat + 1) % 2 ^ 32))) (BitVec.ofNat 64 (b + 4)) cls 2] id) ∧
    (ready → ∃ y, QueueSeen x y fc dc ∧ runs (.lQqry q sd n cls) y [] fun s =>
      s.writeS sd (BitVec.ofNat 64 (fc % c + (dc % c) * 2 ^ 16 + (filled % 2 ^ 11) * 2 ^ 32)))

/-- R307, R311, R312: an atomic that passes its checks enters the buffer with its operand, makes its register pending and forces the
boundary after its bundle; `vscadd` enters one entry for each executing lane in rising order. No register and no byte changes yet. -/
def Obligations.AtomicsAreWithheld : Prop :=
  ∀ (q : Pred) (d : SReg) (mem : Mem) (scope : BitVec 3) (dbl tok : Bool) (s : State), s.holds q = true →
    let n := if dbl then 8 else 4
    let v := BitVec.ofNat 64 ((s.readS d).toNat % 2 ^ (if dbl then 64 else 32))
    let enters := fun (i : Instr) (op : AtomOp) => ∀ ps xs, s.checkAtom (s.opd mem) n scope tok 0 = .ok ps xs → ∃ t, exec i s = .next t ∧
      t.ctx.buffer = s.ctx.buffer ++ [entryOf s (.atom op dbl tok v (some d)) (ps.map fun p => (p, none)) (s.opd mem).ea mem.cls scope] ∧
      t.ctx.pending = .s d :: s.ctx.pending ∧ (∃ r, t.ctx.endCkpt = some r ∧ r.forced = true) ∧ t.ctx.regs = s.ctx.regs ∧ SameMemory s t
    enters (.lAadd q d mem scope dbl tok) .add ∧ enters (.lAmin q d mem scope dbl tok) .min ∧
    enters (.lAmax q d mem scope dbl tok) .max ∧ enters (.lAminn q d mem scope dbl tok) .minn ∧
    enters (.lAmaxn q d mem scope dbl tok) .maxn ∧ enters (.lAand q d mem scope dbl tok) .and ∧
    enters (.lAor q d mem scope dbl tok) .or ∧ enters (.lAxor q d mem scope dbl tok) .xor ∧
    enters (.lAxchg q d mem scope dbl tok) .xchg ∧ enters (.lAcas q d mem scope dbl tok) (.cas (s.readS (d + 1))) ∧
    enters (.lAfadd q d mem scope dbl tok) .fadd ∧ enters (.lAinc q d mem scope dbl tok) .inc ∧
    (∀ (vd x : VReg) (mem2 : Mem2) (fl : Bool) (place : Nat → List Place),
      (∀ u : State, SameButBuffer s u → ∀ i ∈ lanes s, ∃ ys,
        u.checkAtom { s.opd2 mem2 with ea := s.indexAddr (s.opd2 mem2).ea x i } n scope tok i = .ok (place i) ys) →
      ∃ t, exec (.lVscadd q vd mem2 x scope dbl tok fl) s = .next t ∧ t.ctx.regs = s.ctx.regs ∧ SameMemory s t ∧
        t.ctx.buffer = s.ctx.buffer ++ (lanes s).zipIdx.map fun (i, k) =>
          { entryOf s (.atom (if fl then .fadd else .add) dbl tok (BitVec.ofNat 64 (el s (if dbl then 64 else 32) vd i)) none)
              ((place i).map fun p => (p, none)) (s.indexAddr (s.opd2 mem2).ea x i) mem2.cls scope with ser := s.ctx.entries + k })

/-- Table 12.1 (R311): what each atomic leaves at its location, w bits of old value and operand.
R303, R307: released with nothing to wait for, an atomic on package memory leaves that at its location and the old value in its register,
and changes no other byte there. -/
def Obligations.AtomicResultsAtTheHome : Prop :=
  (∀ (s : State) (e : Entry) (op : AtomOp) (dbl tok : Bool) (v : Word) (d : SReg) (a : Nat), Free s e → s.pkg.hbm.wf = true →
    let n := if dbl then 8 else 4
    let old := s.pkg.hbm.le a n
    NoClearing s a n → e.act = .atom op dbl tok v (some d) → e.cells = (List.range n).map (fun i => (.hbm (a + i), none)) →
    ∃ t, s.release e = some t ∧ t.ctx.regs = (s.writeS d (BitVec.ofNat 64 old)).ctx.regs ∧
      t.pkg.hbm.le a n = atomApply op dbl old v.toNat % 2 ^ (8 * n) ∧
      ∀ x, x < a ∨ a + n ≤ x → t.pkg.hbm.get x = s.pkg.hbm.get x) ∧
  ∀ (dbl : Bool) (old v : Nat) (new : Word), let w := if dbl then 64 else 32
    old < 2 ^ w → v < 2 ^ w →
    atomApply .add dbl old v = (old + v) % 2 ^ w ∧
    atomApply .min dbl old v = (if sval w v < sval w old then v else old) ∧
    atomApply .max dbl old v = (if sval w old < sval w v then v else old) ∧
    atomApply .minn dbl old v = (if v < old then v else old) ∧
    atomApply .maxn dbl old v = (if old < v then v else old) ∧
    atomApply .and dbl old v = old &&& v ∧ atomApply .or dbl old v = old ||| v ∧ atomApply .xor dbl old v = old ^^^ v ∧
    atomApply .xchg dbl old v = v ∧
    atomApply (.cas new) dbl old v = (if old = v then new.toNat % 2 ^ w else old) ∧
    atomApply .fadd dbl old v = (if dbl then fp64 else fp32).addBits 0 old v ∧
    atomApply .inc dbl old v = (if v ≤ old then 0 else old + 1)

namespace Sys2Proof.Claims
open Sys2Proof.Machine

/-- A field of a cell, by its offset and bytes in Table 12.4. -/
def cellFld (c : List Byte) (off n : Nat) : Nat := leNat ((c.drop off).take n)

/-- STATE at most 2, LEN at most 48, reserved bits zero (R319). -/
def CellOk (c : List Byte) : Prop :=
  cellFld c 0x31 1 ≤ 2 ∧ cellFld c 0x30 1 ≤ 48 ∧ cellFld c 0x32 1 < 128 ∧ cellFld c 0x33 1 < 2 ∧ cellFld c 0x38 4 < 2 ^ 19

/-- A cell OPEN at the generation after a cell's own, with every other field zero. -/
def reopened (c : List Byte) : List Byte := List.replicate 0x34 0 ++ leBytes 4 ((cellFld c 0x34 4 + 1) % 2 ^ 32) ++ List.replicate 8 0

/-- A reply of this STATUS with the cell's generation and the winner that the cell names. -/
def TellsWinner (r : CellReply) (status : Nat) (c : List Byte) : Prop :=
  let len := cellFld c 0x30 1
  r = ⟨status, c.take len ++ List.replicate (48 - len) 0, len, cellFld c 0x38 4, cellFld c 0x32 1, decide (cellFld c 0x33 1 = 1),
    cellFld c 0x3C 4, BitVec.ofNat 32 (cellFld c 0x34 4)⟩

/-- A reply of this STATUS with the cell's generation and no winner. -/
def TellsNone (r : CellReply) (status : Nat) (c : List Byte) : Prop :=
  r = ⟨status, List.replicate 48 0, 0, 0, 0, false, 0, BitVec.ofNat 32 (cellFld c 0x34 4)⟩

/-- Table 12.5 at a cell in OPEN or DECIDED, `d` of R318 the distance of the operation's generation from the cell's: the reply, the cell's
bytes after it, whether a decision was made. -/
def CellRows (op : CellOp) (gen dseq : BitVec 32) (c : List Byte) (x : CellReply × List Byte × Bool) : Prop :=
  let d := (gen.toNat + 2 ^ 32 - cellFld c 0x34 4) % 2 ^ 32
  let isOpen := cellFld c 0x31 1 = 0
  let unchanged := x.2.1 = c ∧ x.2.2 = false
  (∀ v wp wc cp, op = .prop v wp wc cp → d = 0 →
    (isOpen → x.2.2 = true ∧ x.2.1 = v ++ List.replicate (48 - v.length) 0 ++ [BitVec.ofNat 8 v.length, 1, if cp then 0 else wc.setWidth 8, if cp then 1 else 0]
      ++ leBytes 4 gen.toNat ++ leBytes 4 wp.toNat ++ leBytes 4 dseq.toNat ∧ TellsWinner x.1 1 x.2.1) ∧
    (¬ isOpen → unchanged ∧ TellsWinner x.1 2 c)) ∧
  (op = .read → d = 0 → unchanged ∧ (isOpen → TellsNone x.1 5 c) ∧ (¬ isOpen → TellsWinner x.1 6 c)) ∧
  (op ≠ .recycle → 0 < d → unchanged ∧ TellsNone x.1 (if d < 2 ^ 31 then 4 else 3) c) ∧
  (op = .recycle → x.2.2 = false ∧ x.2.1 = if d = 0 ∧ ¬ isOpen then reopened c else c)

end Sys2Proof.Claims

/-- R317 to R323: a proposal and a recycle that pass their checks enter the buffer with the generation and, for the proposal, its LEN
bytes; a read completes with the cell's status word and bytes, from a copy of the decided cell where one serves it (R323), else from
the home. A cell moves as Table 12.5 says: INVALID where a field is out of range, a cell left in STATE 2 cleared first, a cell in RECYCLING
telling its winner, holding the next generation and reading STATE 2 until it is OPEN (how long that lasts is a free value, log 71). Released
with nothing to wait for, on package memory, a proposal and a recycle leave the cell so, and the proposal its reply in its registers
(R320). -/
def Obligations.CellOperationsComplete : Prop :=
  (∀ (q : Pred) (d : VReg) (mem : Mem2) (ss : SReg) (scope : BitVec 3) (s : State), s.holds q = true →
    let o : Opd := { s.opd2 mem with ea := BitVec.ofNat 64 ((s.opd2 mem).ea.toNat / 64 * 64) }
    let x := (s.readS ss).toNat
    let gen := BitVec.ofNat 32 x
    let len := x / 2 ^ 32
    let gives := fun (t : State) (r : CellReply) => t.ctx.regs = ((s.writeV d (cellVec r)).writeS ss (cellWord r)).ctx.regs
    (∀ ps xs, len ≤ 48 → s.check o 64 .both [.a] 1 0 (s.cellFault o scope false) = .ok ps xs →
      ∃ t, exec (.lDprop q d mem ss scope) s = .next t ∧
        t.ctx.buffer = s.ctx.buffer ++ [entryOf s (.dprop gen ((List.range len).map fun j => (s.readV d).extractLsb' (8 * j) 8) d ss)
          (ps.map fun p => (p, none)) o.ea mem.cls scope] ∧
        t.ctx.pending = .v d :: .s ss :: s.ctx.pending ∧ (∃ r, t.ctx.endCkpt = some r ∧ r.forced = true) ∧
        t.ctx.regs = s.ctx.regs ∧ SameMemory s t) ∧
    (∀ p ps xs, len = 0 → s.check o 64 .read [.r] 1 0 (s.cellFault o scope false) (cell := true) = .ok (p :: ps) xs →
      (s.cellAhead (p :: ps) = false →
        (∀ c, s.cellCopy p gen = some c → ∃ t r, exec (.lDread q d mem ss scope) s = .next t ∧ TellsWinner r 6 c.bytes ∧ gives t r) ∧
        (∀ u r, s.cellCopy p gen = none → s.placeLost p = false → s.cellHome p .read gen = some (u, r) →
          ∃ t, exec (.lDread q d mem ss scope) s = .next t ∧ gives t r)) ∧
      (s.cellAhead (p :: ps) = true → ∃ t, exec (.lDread q d mem ss scope) s = .next t ∧ t.ctx.regs = s.ctx.regs ∧ SameMemory s t)) ∧
    (∀ ps xs, len = 0 → s.check o 64 .write [.d] 1 0 (s.cellFault o scope false) = .ok ps xs →
      ∃ t, exec (.lDrecycle q ss mem scope) s = .next t ∧ t.ctx.regs = s.ctx.regs ∧ SameMemory s t ∧ t.ctx.buffer = s.ctx.buffer ++
        [entryOf s (.drecycle gen) (ps.map fun p => (p, none)) o.ea mem.cls scope]) ∧
    (∀ (e : Entry) (a : Nat) (g : BitVec 32) (value : List Byte), Free s e → s.pkg.hbm.wf = true →
      e.cells = (List.range 64).map (fun i => (.hbm (a + i), none)) →
      let moved := fun (t : State) (m : CellMove) => t.pkg.hbm.bytes a 64 = m.bytes ∧ t.pkg.clearing = m.clearing ∧
        t.pkg.decSeq = (if m.decided then s.pkg.decSeq + 1 else s.pkg.decSeq) ∧ ∀ k, k < a ∨ a + 64 ≤ k → t.pkg.hbm.get k = s.pkg.hbm.get k
      let move := fun (op : CellOp) => cellMove s.pkg.clearing s.clock a (s.pkg.hbm.bytes a 64) op g s.pkg.decSeq
      let prop := move (.prop value s.pkg.num s.coreNum false)
      (value.length ≤ 48 → e.act = .dprop g value d ss →
        (s.cellCopy (.hbm a) g = none → ∃ t, s.release e = some t ∧ moved t prop ∧ gives t prop.reply) ∧
        (∀ c, s.cellCopy (.hbm a) g = some c → ∃ t r, s.release e = some t ∧ t.pkg.hbm = s.pkg.hbm ∧ TellsWinner r 2 c.bytes ∧ gives t r)) ∧
      (e.act = .drecycle g → ∃ t, s.release e = some t ∧ moved t (move .recycle) ∧ t.ctx.regs = s.ctx.regs))) ∧
  (∀ (op : CellOp) (gen dseq : BitVec 32) (c : List Byte), c.length = 64 → (∀ v wp wc cp, op = .prop v wp wc cp → v.length ≤ 48) →
    (¬ CellOk c → TellsNone (cellStep op gen dseq c).1 7 c ∧ (cellStep op gen dseq c).2 = (c, false)) ∧
    (CellOk c → cellFld c 0x31 1 ≠ 2 → CellRows op gen dseq c (cellStep op gen dseq c)) ∧
    (CellOk c → cellFld c 0x31 1 = 2 → cellStep op gen dseq c = cellStep op gen dseq (reopened c)) ∧
    (CellOk c → cellFld c 0x31 1 = 1 →
      let dist := (gen.toNat + 2 ^ 32 - cellFld c 0x34 4) % 2 ^ 32
      let now := cellRecycling op gen c
      (∀ v wp wc cp, op = .prop v wp wc cp → dist = 0 → ∃ r, now = some r ∧ TellsWinner r 2 c) ∧
      (op = .read → dist = 0 → ∃ r, now = some r ∧ TellsWinner r 6 c) ∧
      (op ≠ .recycle → dist = 1 → now = none) ∧
      (op ≠ .recycle → 1 < dist → ∃ r, now = some r ∧ TellsNone r (if dist < 2 ^ 31 then 4 else 3) c) ∧
      (op = .recycle → now.isSome = true)) ∧
    (∀ (l : List Clearing) (clock base : Nat),
      let m := cellMove l clock base c op gen dseq
      let begins := op = .recycle ∧ CellOk c ∧ cellFld c 0x31 1 = 1 ∧ cellFld c 0x34 4 = gen.toNat
      (clearingAt l clock base = none → (m.reply, m.bytes, m.decided) = cellStep op gen dseq c ∧
        (begins → ⟨base, c, clock + clearTime clock⟩ ∈ m.clearing) ∧ (¬ begins → ∀ x ∈ m.clearing, x ∈ l ∧ x.base ≠ base)) ∧
      (∀ x, clearingAt l clock base = some x →
        (∀ r, cellRecycling op gen x.old = some r → m = ⟨r, c, false, l⟩) ∧
        (cellRecycling op gen x.old = none → (m.reply, m.bytes, m.decided) = cellStep op gen dseq c)))) ∧
  (∀ (l : List Clearing) (clock a : Nat) (b : Byte),
    (clearingAt l clock a = none → cellByte l clock a b = b) ∧
    (∀ x, clearingAt l clock a = some x → if a = x.base + 0x31 then cellByte l clock a b = 2
      else cellByte l clock a b = b ∨ cellByte l clock a b = x.old.getD (a - x.base) 0)) ∧
  (∀ r : CellReply, r.value.length = 48 → r.len ≤ 48 → r.wpkg < 2 ^ 19 → r.wcore < 128 → r.dseq < 2 ^ 32 →
    let lane := fun (l : Nat) => ((cellVec r).extractLsb' (32 * l) 32).toNat
    let told := r.status = 1 ∨ r.status = 2 ∨ r.status = 6
    cellWord r = BitVec.ofNat 64 (r.gen.toNat * 2 ^ 32 + r.status) ∧ lane 15 = r.gen.toNat ∧ (∀ l < 64, 16 ≤ l → lane l = 0) ∧
    (told → (∀ l < 12, lane l = leNat ((r.value.drop (4 * l)).take 4)) ∧ lane 12 = r.len ∧
      lane 13 = r.wpkg * 2 ^ 7 + r.wcore + (if r.cpw then 2 ^ 31 else 0) ∧ lane 14 = r.dseq) ∧
    (¬ told → ∀ l < 15, lane l = 0))

/-- R242 to R244, R254, R287 to R291, R355: a prefetch that passes its checks reads nothing into a register, and one that fails them does
nothing with DROP and else reports the fault at the next boundary; an acquire or a satisfied release completes, a release counting an
interval, and an unsatisfied one waits; `brel` releases the banks it may; `cld` reads a capability from capability pages and `cdrop`
clears one; `dsync` at core level, and at any level once the phase is full, forces the boundary that passes it, and waits before.
(What of its classes a fence waits for, log 39.) -/
def Obligations.FencesAndCapabilityLoadsComplete : Prop :=
  ∀ (q : Pred) (mem : Mem) (drop : Bool) (mask : BitVec 16) (scope : BitVec 3) (kind : BitVec 2) (a : SReg) (c : CReg) (s : State),
    s.holds q = true →
    let o := s.opd mem
    let pick := fun (cls : BitVec 4) (_ : Nat) => cls == 0 || mask.getLsbD cls.toNat
    let satisfied := (kind.getLsbD 1 = true → s.scopeQuiet scope pick = true) ∧ (kind = 3 → s.pkgQuiet pick = true)
    let passes := ∃ t, exec (.lDsync q) s = .next t ∧ (∃ r, t.ctx.endCkpt = some r ∧ r.forced = true ∧ r.dsync = true) ∧
      t.ctx.regs = s.ctx.regs ∧ SameMemory s t
    let full := s.pkg.phaseFull s.ctx.level (unitOf s.ctx.level s.coreNum) s.ctx.domainKey s.ctx.phase
    (∀ ps xs, s.check o 1 .read [.r] 1 0 = .ok ps xs → ∃ t, exec (.lPf q mem drop) s = .next t ∧
      t.ctx.regs = s.ctx.regs ∧ SameMemory s t) ∧
    (∀ i, s.check o 1 .read [.r] 1 0 = .trap i → exec (.lPf q mem true) s = .next s ∧
      exec (.lPf q mem false) s = .next (s.report s.opId i)) ∧
    (satisfied → ∃ t, exec (.lFence q mask scope kind) s = .next t ∧
      t.ctx.regs = s.ctx.regs ∧ SameMemory s t ∧ t.ctx.interval = s.ctx.interval + (if kind.getLsbD 1 then 1 else 0)) ∧
    (¬ satisfied → exec (.lFence q mask scope kind) s = .next (s.block false)) ∧
    (∃ t, exec (.lBrel q a) s = .next t ∧ t.ctx.regs = s.ctx.regs ∧ SameMemory s t ∧
      (∀ b < 64, t.ctx.released.getLsbD b = (s.ctx.released.getLsbD b || ((s.readS a).getLsbD b &&
        decide (s.ctx.accBanks + s.ctx.donor < b) && s.core.owner.toList.getD b none == some s.slotNum)))) ∧
    (∀ b t, s.capMissing o = false → s.got o 16 16 0 (some mem.cls) = .bytes b t →
      exec (.lCld q c mem) s = .next (t.writeC c (BitVec.ofNat 128 (leNat b)))) ∧
    (∀ i, s.capMissing o = false → s.check o 16 .read [.r] 16 0 = .trap i → exec (.lCld q c mem) s = .next (s.raise i)) ∧
    (s.capMissing o = true → ∃ i, i.code = 0x12 ∧ i.sub = 5 ∧ exec (.lCld q c mem) s = .next (s.raise i)) ∧
    exec (.lCdrop q c) s = .next (s.writeC c 0) ∧
    (s.ctx.level = 0 → s.levelQuiet 0 = true → passes) ∧
    (s.ctx.level ≠ 0 → s.levelQuiet s.ctx.level = true → s.ctx.arrived = some s.ctx.phase → full = true → passes) ∧
    (s.ctx.level ≠ 0 → s.levelQuiet s.ctx.level = true → s.ctx.arrived = some s.ctx.phase → full = false →
      exec (.lDsync q) s = .next (s.block true)) ∧
    (s.ctx.level ≠ 0 → s.levelQuiet s.ctx.level = true → s.ctx.arrived ≠ some s.ctx.phase → ∃ t, exec (.lDsync q) s = .next t ∧
      t.ctx.arrived = some s.ctx.phase ∧ t.ctx.regs = s.ctx.regs ∧ SameMemory s t) ∧
    (s.levelQuiet s.ctx.level = false → exec (.lDsync q) s = .next (s.block false))

/-- The frame of the L slot: its operations leave every byte and every full/empty bit of memory as it was, other cores' scratchpads and the
core's other context among them, since stores, tagged accesses and atomics change memory only when the commit releases them (R240). A
`dread` alone may change the 64 bytes of the cell that it reads, which is cleared when it is found left in STATE 2 (R319); a `trel` may let
go a bank that waits to be given on, which is cleared or not as it passes (R289); a record of the race log changes bytes of the page that
the log's base names and no other (R262). No predicate, mask, mp register, flow or mode changes, nor any register but the operation's
destinations. -/
def Obligations.MemorySlotFrame : Prop :=
  (∀ (s t : State) (store : Bool) (x : Option (BitVec 7) × Nat) (addr : Word), s.raceLog store x addr = .inl t →
    ∃ e, s.translate (wbits (s.readSys 0x008) 63 16 * 2 ^ 16) = .ok e ∧ t.ctx = s.ctx ∧
      ∀ p, (∀ k < 2 ^ 16, p ≠ dpaPlace (e.dpage * 2 ^ 16 + k)) → t.byteAt p = s.byteAt p) ∧
  ∀ (i : Instr) (s t : State), i.slotOf = some .l → exec i s = .next t →
    let noLog := RacesOff s ∨ (s.readSys 0x008).getLsbD 2 = false
    let keeps := (∀ q r, i ≠ .lTrel q r) ∨ s.ctx.giving = 0
    (keeps → t.core.ram = s.core.ram ∧ t.core.full = s.core.full) ∧
    (∀ q r, i = .lTrel q r → s.core.ram.wf = true →
      (∀ a, s.ctx.giving.getLsbD (a / 2 ^ 16) = false → t.core.ram.get a = s.core.ram.get a) ∧
      (∀ w, s.ctx.giving.getLsbD (w / 2 ^ 14) = false → NatSet.has t.core.full w = NatSet.has s.core.full w)) ∧
    t.pkg.cache = s.pkg.cache ∧ t.peer = s.peer ∧
    (∀ c, c ≠ s.coreNum → (t.boxOf c).core.ram = (s.boxOf c).core.ram ∧ (t.boxOf c).core.full = (s.boxOf c).core.full) ∧
    (noLog → t.host = s.host) ∧
    ((∀ q d mem ss scope, i ≠ .lDread q d mem ss scope) → t.pool.bytes = s.pool.bytes ∧ (noLog → t.pkg.hbm = s.pkg.hbm)) ∧
    (∀ q d mem ss scope, i = .lDread q d mem ss scope → s.pkg.hbm.wf = true → s.pool.bytes.wf = true →
      let cell := s.check (s.opd2 mem).block 64 .read [.r] 1 0
        (s.cellFault (s.opd2 mem).block scope (decide (2 ^ 32 ≤ (s.readS ss).toNat))) (cell := true)
      (∀ k, t.pkg.hbm.get k ≠ s.pkg.hbm.get k → ∃ a ps xs, cell = .ok (.hbm a :: ps) xs ∧ a ≤ k ∧ k < a + 64) ∧
      (∀ k, t.pool.bytes.get k ≠ s.pool.bytes.get k → ∃ obj off ps xs, cell = .ok (.home obj off :: ps) xs ∧
        poolKey obj off ≤ k ∧ k < poolKey obj off + 64)) ∧
    t.ctx.regs = { s.ctx.regs with s := t.ctx.regs.s, v := t.ctx.regs.v, c := t.ctx.regs.c, t := t.ctx.regs.t, q := t.ctx.regs.q } ∧
    t.ctx.ckpt = s.ctx.ckpt ∧ t.ctx.status = s.ctx.status ∧ t.ctx.ckstat = s.ctx.ckstat ∧ t.ctx.trapRec = s.ctx.trapRec ∧
    t.ctx.domain = s.ctx.domain ∧
    (∀ r : SReg, RegName.s r ∉ opWrites i → t.ctx.regs.s[r.toNat]'r.isLt = s.ctx.regs.s[r.toNat]'r.isLt) ∧
    (∀ r : VReg, RegName.v r ∉ opWrites i → t.ctx.regs.v[r.toNat]'r.isLt = s.ctx.regs.v[r.toNat]'r.isLt) ∧
    (∀ r : CReg, RegName.c r ∉ opWrites i → t.ctx.regs.c[r.toNat]'r.isLt = s.ctx.regs.c[r.toNat]'r.isLt) ∧
    (∀ r : TReg, RegName.t r ∉ opWrites i → t.ctx.regs.t[r.toNat]'r.isLt = s.ctx.regs.t[r.toNat]'r.isLt) ∧
    (∀ r : QReg, RegName.q r ∉ opWrites i → t.ctx.regs.q[r.toNat]'r.isLt = s.ctx.regs.q[r.toNat]'r.isLt)

namespace Sys2Proof.Claims
open Sys2Proof.Machine

/-- Tile register r holds entry x in t, and every other one that no call holds in RETIRING is as in s. -/
def TileIs (s t : State) (r : TReg) (x : TileEntry) : Prop :=
  t.ctx.tile r = x ∧ ∀ r', r' ≠ r → (s.ctx.tile r').st ≠ .retiring → t.ctx.tile r' = s.ctx.tile r'

/-- The routine's run m is under way at the core in focus on a record of the context in focus; it skips no word, and its next word is
not poisoned. -/
def Running (s : State) (m : MicroRun) : Prop :=
  s.core.run = some m ∧ m.atEnd = false ∧ m.fault = none ∧ m.skip = 0 ∧ m.mrec.home = s.coreNum ∧ m.mrec.slot = s.slotNum ∧
  NatSet.has s.ctx.micro.bad m.mpc = false

/-- No loop ends with the word at work, and the next word lies in the region. -/
def Straight (s : State) (m : MicroRun) : Prop := (∀ l ∈ m.loops, l.2.1 ≠ m.mpc) ∧ m.mpc + 1 < s.ctx.micro.region

/-- The run has become m, and nothing else has changed. -/
def ran (s : State) (m : MicroRun) : State := { s with core := { s.core with run := some m } }

/-- A word of m has ended with m', one cycle later, at the word that follows. -/
def stepped (s : State) (m m' : MicroRun) : State := ran s { m' with mpc := m.mpc + 1, cycle := m'.cycle + 1 }

/-- The array is free at this cycle, and busy for len products at the rate of the pair of types (R199). -/
def timed (m : MicroRun) (a b : TileView) (len : Nat) : MicroRun :=
  let c := max m.cycle m.busy
  { m with cycle := c, busy := c + (len + pairRate a.fmt b.fmt - 1) / pairRate a.fmt b.fmt }

/-- Both windows stand, of one length, and nothing that the word reads through them is poisoned (R418). -/
def Windowed (s : State) (m : MicroRun) (a b : TileView) (ka kb len : Nat) : Prop :=
  m.winA = some (ka, len) ∧ m.winB = some (kb, len) ∧ s.tileView m.mrec false = some a ∧ s.tileView m.mrec true = some b ∧
  a.spoilt ((m.cells a.outer b.outer).map fun c => c.1 - m.rowOff) (natRange ka len) = false ∧
  b.spoilt ((m.cells a.outer b.outer).map fun c => c.2 - m.colOff) (natRange kb len) = false

/-- Elements o of a tile at depths k to k + len − 1 are read without a poisoned byte or a reserved bit in a side entry (R111, R418). -/
def Sound (v : TileView) (os : List Nat) (k len : Nat) : Prop :=
  v.spoilt os (natRange k len) = false ∧ v.badIn os (natRange k len) = false

/-- The run leaves these values in the cells of a region, in the others what was there (64 columns). -/
def Cells (s : State) (m m' : MicroRun) (rows cols : Nat) (f : Nat → Nat → Nat) : Prop :=
  m' = { m with part := m'.part } ∧
  ∀ i j, j < 64 → s.cellOf m' i j = if (i, j) ∈ m.cells rows cols then f i j else s.cellOf m i j

end Sys2Proof.Claims

/-- R176 to R185, R194, R278 to R280, R418: `tld` enters a D tile or a scratchpad tile as READY and a memory tile as FILLING, with its
descriptor; its fill makes it READY or, faulting, EMPTY; `tst` enters the rows of its rectangle in the buffer and holds a drain buffer until
its accumulator has been read; `trel` retires a tile; `tqry` reads a tile's state; `accrd` and `accwr` move one row; ACC_BUSY while
a call names the accumulator, and for `accwr` while it drains.
(The order of the checks, and that a fill is one act, log 31.) -/
def Obligations.TileOperationsComplete : Prop :=
  ∀ (q : Pred) (tr : TReg) (d b ss : SReg) (vd : VReg) (m : KReg) (acc : AccReg) (mem : TMem) (s : State), s.holds q = true →
    let w := s.readS ss
    let ea := s.readS mem.base + BitVec.ofInt 64 mem.off.toInt
    let extent := if shTrans w then s.readS (ss + 1) else 0
    let x := s.ctx.tile tr
    let enters := fun (t : State) (desc : BitVec 256) (e : TileEntry) =>
      t.ctx.regs = (s.writeT tr desc).ctx.regs ∧ TileIs s t tr { e with op := some s.opId, fresh := true, cls := mem.cls, ser := s.ctx.entries } ∧ SameMemory s t
    let calm := s.ctx.exited = false ∧ s.ctx.giving = 0
    let sound := fun (i j : Nat) => s.core.accSpoilt acc.toNat i j = false
    let accOk := s.accPending acc.toNat = false ∧ s.spOwned (accAddr acc.toNat 0 0) 0x8000 = true
    let row := (s.readS b).toNat
    (x.st ≠ .empty → exec (.lTld q tr mem ss) s = .next (s.block true)) ∧
    (x.st = .empty → badShape ss w mem.cap = false → shRole w = 2 → ∃ t, exec (.lTld q tr mem ss) s = .next t ∧
      enters t (mkDesc ea w extent mem.cap (shFmt w) (shGrp w)) { TileEntry.none with st := .ready }) ∧
    (∀ lo hi, x.st = .empty → badShape ss w mem.cap = false → shRole w ≠ 2 → shSph w = true →
      tileProt ea.toNat w (BitVec.ofNat 4 (shFmt w)) (shGrp w) = (lo, hi) → lo ≤ hi → Owned s lo (hi + 1 - lo) →
      badType w (BitVec.ofNat 24 (shFmt w + 16 * shGrp w + if shGrp w = 0 then 0 else 64)) ea = none →
      ∃ t, exec (.lTld q tr mem ss) s = .next t ∧
        enters t (mkDesc ea w extent mem.cap (shFmt w) (shGrp w)) { TileEntry.none with st := .ready, prot := some (lo, hi) }) ∧
    (∀ attr : BitVec 24, x.st = .empty → badShape ss w mem.cap = false → shRole w ≠ 2 → shSph w = false →
      s.tileAttr ⟨.virt, mem.cap, s.readC mem.cap, ea⟩ w extent = .inl attr → badType w attr ea = none →
      let desc := mkDesc ea w extent mem.cap (attr.toNat % 16) (attr.toNat / 16 % 4)
      s.ctx.pinned + descLines desc ≤ 3072 → ∃ t, exec (.lTld q tr mem ss) s = .next t ∧
        enters t desc { TileEntry.none with st := .filling, filled := false, lines := descLines desc, cap := s.readC mem.cap }) ∧
    (∀ bs es ps, calm → s.arg.tile = tr → s.ctx.live = true → x.st = .filling → x.filled = false → x.retire = false →
      s.fillTile tr = .inl (bs, es, ps) → ∃ t, exec .evTileFillComplete s = .next t ∧ t.ctx.regs = s.ctx.regs ∧ SameMemory s t ∧
        TileIs s t tr { x with st := .ready, filled := true, bytes := bs, side := es }) ∧
    (∀ i, s.arg.tile = tr → s.ctx.live = true → x.st = .filling → x.filled = false → s.fillTile tr = .inr (.fault i) →
      ∃ t h, exec .evTileFillFault s = .next t ∧ t.ctx.regs = s.ctx.regs ∧ SameMemory s t ∧ t.ctx.tile tr = .none ∧
        t.ctx.fault = s.ctx.fault ++ [h] ∧ h.info = i ∧ h.async = true ∧ h.kept = false ∧ (∀ o, x.op = some o → h.seq = o.seq)) ∧
    (calm → x.st = .filling ∨ x.st = .ready → ∃ t, exec (.lTrel q tr) s = .next t ∧ t.ctx.regs = s.ctx.regs ∧ SameMemory s t ∧
      TileIs s t tr (if s.tileCaptured tr then { x with st := .retiring, fresh := true } else .none)) ∧
    (calm → x.st = .empty ∨ x.st = .retiring → ∃ t, exec (.lTrel q tr) s = .next t ∧ t.ctx.regs = s.ctx.regs ∧ SameMemory s t ∧
      TileIs s t tr (if x.st = .retiring ∧ s.tileCaptured tr = false then .none else x)) ∧
    (∃ n ≤ x.lines, (x.filled = true → n = x.lines) ∧ exec (.lTqry q tr d) s = .next (s.writeS d (BitVec.ofNat 64 (256 * n +
      (if x.st = .empty then 0 else if x.st = .filling then 1 else if x.st = .ready then 2 else 3))))) ∧
    (let desc := s.readT tr
     let sh := dShape desc
     let n := (shDepth sh + 1) * (tyBits (dFmt desc) / 8)
     x.st = .ready → shRole sh = 2 → shSph sh = true → mem.cap = 0 → accOk → s.accDraining acc.toNat = false →
      badDrainTy (dFmt desc).toNat = false → s.core.drains.length < 2 → (∀ i < shExt sh + 1, Owned s (ea.toNat + i * shStride sh) n) →
      ea.toNat + (shExt sh + 1) * shStride sh < 2 ^ 64 → (∀ i < shExt sh + 1, ∀ j < shDepth sh + 1, sound i j) →
      ∃ t es dr, exec (.lTst q tr acc mem) s = .next t ∧
        t = { s with ctx := { s.ctx with buffer := s.ctx.buffer ++ es, entries := s.ctx.entries + es.length },
                     core := { s.core with drains := s.core.drains ++ [dr] } } ∧
        dr.acc = acc.toNat ∧ dr.slot = s.slotNum ∧ dr.reading = true ∧ dr.rows = [] ∧
        StoreEntries s es ((List.range (shExt sh + 1)).flatMap fun i => cellsAt (ea.toNat + i * shStride sh)
          ((List.range (shDepth sh + 1)).flatMap fun j => leBytes (tyBits (dFmt desc) / 8)
            (if (dFmt desc) = 12 then s.core.accGet acc.toNat i j
             else convert (shRm sh) (shSat sh) (dFmt desc) 12 (s.core.accGet acc.toNat i j)))) mem.cls) ∧
    (∀ dr l, s.core.drains = dr :: l → dr.slot = s.slotNum → dr.reading = true → dr.rows = [] →
      exec .evAccDrainDone s = .next { s with core := { s.core with drains := s.core.drains.filter (· != dr) } }) ∧
    (accOk → (row < 128 → ∀ l < 64, runs s m 32 l = true → sound row l) → exec (.vAccrd q vd acc b m) s =
      .next (masked s 32 vd m fun l => if row < 128 then s.core.accGet acc.toNat row l else 0)) ∧
    (accOk → s.accDraining acc.toNat = false → s.core.ram.wf = true → row < 128 → ∃ t, exec (.vAccwr q vd acc b m) s = .next t ∧
      t = { s with core := { s.core with ram := t.core.ram, poison := t.core.poison } } ∧
      (∀ l < 64, t.core.accGet acc.toNat row l = if runs s m 32 l then el s 32 vd l else s.core.accGet acc.toNat row l) ∧
      (∀ a, a < accAddr acc.toNat row 0 ∨ accAddr acc.toNat row 64 ≤ a → t.core.ram.get a = s.core.ram.get a)) ∧
    (accOk → s.accDraining acc.toNat = false → 128 ≤ row → exec (.vAccwr q vd acc b m) s = .next s) ∧
    (s.accDraining acc.toNat = true → exec (.vAccwr q vd acc b m) s = .next (s.raise { code := 0x20 })) ∧
    (s.accPending acc.toNat = true → exec (.vAccrd q vd acc b m) s = .next (s.raise { code := 0x20 }) ∧
      exec (.vAccwr q vd acc b m) s = .next (s.raise { code := 0x20 }))

namespace Sys2Proof.Claims
open Sys2Proof.Machine

/-- Vose's method (R212) from two lists of categories with their q: the entries made, as (category, threshold, alias), and the
categories left. -/
inductive Vose : List (Nat × Nat) → List (Nat × Nat) → List (Nat × Nat × Nat) → List Nat → Prop
  | done (small large : List (Nat × Nat)) : small = [] ∨ large = [] → Vose small large [] ((small ++ large).map (·.1))
  | pair (l ql g qg q : Nat) (small large : List (Nat × Nat)) (made : List (Nat × Nat × Nat)) (left : List Nat) :
    Rounded fp32 0 (decide (valueOf fp32 qg - 1 + valueOf fp32 ql < 0)) (valueOf fp32 qg - 1 + valueOf fp32 ql : ℚ) q →
    Vose (if valueOf fp32 q < 1 then small ++ [(g, q)] else small) (if valueOf fp32 q < 1 then large else large ++ [(g, q)]) made left →
    Vose ((l, ql) :: small) ((g, qg) :: large) ((l, ql, g) :: made) left

/-- R212: the entries es, probabilities ps and status st (1 OK, 2 DROPPED, 3 ZERO, 4 NONFINITE) built from two norm vectors. -/
def AliasRows (nA nB es ps : List Nat) (st : Nat) : Prop :=
  let n := nA.length
  let num := fun (x : Nat) => ((valueOf fp32 x : ℚ) : ℝ)
  let w := fun k => fp32.sqrtBits 0 (fp32.mulBits 0 (nA.getD k 0) (nB.getD k 0))
  let bad := (∃ x ∈ nA ++ nB, number fp32 x = false ∨ valueOf fp32 x < 0) ∨
    treeNode (fp32.addBits 0) (fun k => if k < n then some (w k) else none) 16 0 = some 0x7F800000
  es.length = n ∧ ps.length = n ∧
  (bad → st = 4 ∧ ∀ k < n, es.getD k 0 = 2 * 2 ^ 48 ∧ ps.getD k 0 = 0) ∧
  (¬ bad → ∃ W, treeNode (fp32.addBits 0) (fun k => if k < n then some (w k) else none) 16 0 = some W ∧
    (num W = 0 → st = 3 ∧ ∀ k < n, es.getD k 0 = 2 ^ 48 ∧ ps.getD k 0 = 0) ∧
    (num W ≠ 0 →
      let p := fun k => fp32.divBits 0 (w k) W
      let drop := fun k => num (p k) < 2 ^ (-126 : Int)
      (∀ k < n, (drop k → ps.getD k 0 = 0) ∧ (¬ drop k → ps.getD k 0 = p k)) ∧
      ((∃ k < n, drop k) → st = 2) ∧ ((∀ k < n, ¬ drop k) → st = 1) ∧
      ∃ (w' q : Nat → Nat) (made : List (Nat × Nat × Nat)) (left : List Nat) (m : Nat),
        (∀ k < n, (drop k → w' k = 0) ∧ (¬ drop k → w' k = w k) ∧
          ∃ c, Rounded fp32 0 false n c ∧ q k = fp32.divBits 0 (fp32.mulBits 0 (w' k) c) W) ∧
        Vose (((List.range n).filter fun k => valueOf fp32 (q k) < 1).map fun k => (k, q k))
          (((List.range n).filter fun k => 1 ≤ valueOf fp32 (q k)).map fun k => (k, q k)) made left ∧
        m < n ∧ (∀ k < n, num (w' k) ≤ num (w' m)) ∧ (∀ k < m, num (w' k) < num (w' m)) ∧
        (∀ e ∈ made, es.getD e.1 0 = e.2.1 + e.2.2 * 2 ^ 32) ∧
        ∀ k ∈ left, es.getD k 0 = if valueOf fp32 (w' k) = 0 then m * 2 ^ 32 else 0x3F800000 + k * 2 ^ 32))

end Sys2Proof.Claims

/-- R187 to R192, R201, R211, R212, R223: `mcall` and `mzero` queue a record of their fields, parameters and tiles when the queue holds fewer
than 8, retiring the tiles the call marks; `mcommit` begins a batch, `mwait` waits for it, `mstat` reads it; `mprog` loads the words it
reads; `sbuild` writes the alias table and the probabilities, which are those of Vose's method; `sstat` reads the sampling words. -/
def Obligations.MatrixSlotOperations : Prop :=
  ∀ (q : Pred) (routine : BitVec 8) (acc : AccReg) (countM1 : BitVec 6) (batch : BitVec 2) (use : BitVec 8) (mode : BitVec 5)
    (a b c d : SReg) (s : State), s.holds q = true →
    let mp := fun (i : BitVec 3) => if use.getLsbD i.toNat then s.readMp i else 0
    let tw := (if use.getLsbD 0 then s.readMp 0 else 0x8080).toNat
    let tile := fun (k : Nat) => if tw / 2 ^ (8 * k + 7) % 2 = 1 then none else some (BitVec.ofNat 5 (tw / 2 ^ (8 * k)))
    let room := s.queued < 8 ∧ s.accOwned acc countM1 = true ∧ ∀ e ∈ s.ctx.resume, e.serial ≠ s.ctx.serial
    let queues := fun (i : Instr) (p : State → MRecord → Prop) => ∃ t r, exec i s = .next t ∧ t.core.engine = s.core.engine ++ [r] ∧
      t.ctx.serial = s.ctx.serial + 1 ∧ r.serial = s.ctx.serial ∧ r.first = acc.toNat ∧ r.count = countM1.toNat + 1 ∧ r.accOff = 0 ∧
      r.mtMask = 0 ∧ r.op = s.opId ∧ r.home = s.coreNum ∧ r.slot = s.slotNum ∧ p t r ∧ t.ctx.regs = s.ctx.regs ∧ SameMemory s t
    (room → tw / 32 % 4 = 0 → tw / 8192 % 4 = 0 →
      (∀ r, tile 0 = some r → ((s.ctx.tile r).st = .filling ∨ (s.ctx.tile r).st = .ready) ∧ shRole (dShape (s.readT r)) = 0) →
      (∀ r, tile 1 = some r → ((s.ctx.tile r).st = .filling ∨ (s.ctx.tile r).st = .ready) ∧ shRole (dShape (s.readT r)) = 1) →
      queues (.mCall q routine acc countM1 batch use mode) fun t r => r.zero = false ∧ r.routine = routine.toNat ∧ r.batch = batch.toNat ∧
        r.sample = mode.getLsbD 0 ∧ r.zskip = mode.getLsbD 1 ∧ r.migrates = mode.getLsbD 2 ∧ r.tileA = tile 0 ∧ r.tileB = tile 1 ∧
        (∀ x, tile 0 = some x → r.descA = s.readT x) ∧ (∀ x, tile 1 = some x → r.descB = s.readT x) ∧
        (∀ x, mode.getLsbD 3 = true → tile 0 = some x → (t.ctx.tile x).st = .retiring) ∧
        (∀ x, mode.getLsbD 4 = true → tile 1 = some x → (t.ctx.tile x).st = .retiring) ∧
        ∀ i < 8, r.mp.getD i 0 = mp (BitVec.ofNat 3 i)) ∧
    (room → queues (.mZero q acc countM1) fun _ r => r.zero = true ∧ r.tileA = none ∧ r.tileB = none) ∧
    (8 ≤ s.queued → exec (.mCall q routine acc countM1 batch use mode) s = .next (s.block false) ∧
      exec (.mZero q acc countM1) s = .next (s.block false)) ∧
    (∃ t, exec (.mCommit q batch) s = .next t ∧ SameOutside s t ∧ t.ctx.regs = s.ctx.regs ∧
      (∀ (k : Nat) (h : k < 4), t.ctx.batch[k] = (if k = batch.toNat then 0 else s.ctx.batch[k]) ∧
        t.ctx.batchSeq[k] = s.ctx.batchSeq[k] + if k = batch.toNat then 1 else 0)) ∧
    exec (.mWait q batch) s = .next (if s.openCalls batch = 0 then s else s.block false) ∧
    exec (.mStat q d batch) s = .next (s.writeS d (BitVec.ofNat 64 (s.openCalls batch + s.queued * 2 ^ 8 +
      (s.ctx.batch[batch.toNat]'batch.isLt).toNat * 2 ^ 16 + s.ctx.serial * 2 ^ 32))) ∧
    (∀ (bytes : List Byte) (u : State) (m : MicroStore), (∀ r ∈ s.records, r.zero = true) →
      (RacesOff s ∨ (s.readSys 0x008).getLsbD 2 = false) →
      let sb := (s.readS b).toNat
      let first := sb % 2 ^ 10
      let count := sb / 2 ^ 16 % 2 ^ 11
      let ws := microWords count bytes
      sb / 2 ^ 10 % 2 ^ 6 = 0 → sb / 2 ^ 27 % 2 ^ 28 = 0 → 0 < count → first + count ≤ s.ctx.micro.region →
      s.got ⟨.virt, 0, 0, s.readS a⟩ (8 * count) 1 0 (some 0) = .bytes bytes u →
      m = s.ctx.micro.load first ws (if (s.readS b).getLsbD 55 then some (sb / 2 ^ 56) else none) →
      (∀ x ∈ ws, ∃ i, decodeMicro x = .ok i) → m.badLoad first count = false →
      ∃ t, exec (.mProg q a b) s = .next t ∧ t.ctx.micro = m ∧ t.ctx.regs = s.ctx.regs ∧ SameMemory s t ∧
        ∀ i < count, (m.words.find? (·.1 == first + i)).map (·.2) = some (BitVec.ofNat 64 (leNat ((bytes.drop (8 * i)).take 8)))) ∧
    (let n := (s.readS c).toNat
     let src := (s.readS a).toNat / 4 * 4
     let dst := (s.readS b).toNat / 8 * 8
     0 < n → n ≤ 65536 → Readable s src (8 * n) → Writable s dst (12 * n) → s.sbuildWaits src dst n = false → s.core.ram.wf = true →
      let (es, ps, st) := aliasTable (s.spWords src n) (s.spWords (src + 4 * n) n)
      ∃ t, exec (.mSbuild q a b c) s = .next t ∧ t.ctx.regs = s.ctx.regs ∧
        t.ctx.sampBuild = BitVec.ofNat 64 st ∧ (∀ r : TReg, t.ctx.tile r = s.ctx.tile r) ∧
        (∀ i < n, t.core.ram.le (dst + 8 * i) 8 = es.getD i 0 % 2 ^ 64 ∧ t.core.ram.le (dst + 8 * n + 4 * i) 4 = ps.getD i 0 % 2 ^ 32) ∧
        (∀ x, x < dst ∨ dst + 12 * n ≤ x → t.core.ram.get x = s.core.ram.get x)) ∧
    (∀ nA nB : List Nat, 0 < nA.length → nA.length ≤ 65536 → nB.length = nA.length →
      let (es, ps, st) := aliasTable nA nB
      AliasRows nA nB es ps st) ∧
    ((∀ r ∈ s.records, r.sample = true → r.zero = true) →
      exec (.mSstat q d) s = .next (s.writeS d (s.ctx.sampRes + s.ctx.sampBuild * 2 ^ 24)))

/-- R292 to R301, R246: a copy command whose tag is free and whose ranges pass is RUNNING, or HELD when it writes beyond package memory, or
DONE at once when its length is 0; a busy tag makes it wait, a range that fails traps (that the length comes before the ranges' checks,
and ALIGN and LENGTH before a DONE of length 0, is the model's order, log 41). `xwait`, `xstat`, `xcancel` act on the
tag. A copy of one piece between scratchpad ranges that do not meet ends DONE, with the source's bytes at the destination and every other
byte as it was. -/
def Obligations.CopyOperationsComplete : Prop :=
  ∀ (q : Pred) (tag : BitVec 6) (dst src : XOpd) (len val d : SReg) (cls : BitVec 4) (key : BitVec 8) (unit : BitVec 2) (s : State),
    s.holds q = true →
    let n := (s.readS len).toNat % 2 ^ 40
    let o := s.xopd dst
    let busy := ∃ t, s.ctx.tag tag.toNat = some t ∧ tagBusy t = true
    let calm := s.ctx.exited = false ∧ s.ctx.giving = 0
    let set := fun (x : CopyTag) => { s with ctx := s.ctx.setTag tag.toNat x }
    let command := fun (i : Instr) (kind : CopyKind) (from_ : Option Opd) (reads : List (Opd × Nat)) (whole : Prop) (sub : Nat) (at_ : Opd) =>
      let enter := fun (st : TagSt) (left : List (Nat × Nat)) => { s with ctx := { s.ctx.setTag tag.toNat
        (s.startTag ⟨st, 0, left, none, none, kind, o, from_.getD o, n, cls, s.opId, s.ctx.entries, true, none⟩) with
        entries := s.ctx.entries + 1 } }
      let owned := ∀ x ∈ (o, n) :: reads, x.1.space = .sp → s.spOwned x.1.ea.toNat x.2 = true
      (busy → exec i s = .next (s.block false)) ∧
      (¬ busy → 2 ^ 40 ≤ (s.readS len).toNat → exec i s = .next (s.raise { code := 0x18, sub := 1, addr := o.ea })) ∧
      (¬ busy → (s.readS len).toNat < 2 ^ 40 → ¬ whole → exec i s = .next (s.raise { code := 0x18, sub := sub, addr := at_.ea })) ∧
      (¬ busy → (s.readS len).toNat < 2 ^ 40 → whole →
        (n = 0 → exec i s = .next (enter .done [])) ∧
        (n ≠ 0 → ∀ i', s.rangeTrap o n reads = some i' → exec i s = .next (s.raise i')) ∧
        (n ≠ 0 → s.rangeTrap o n reads = none → ¬ owned → exec i s = .next (s.block false)) ∧
        (n ≠ 0 → s.rangeTrap o n reads = none → owned → exec i s =
          .next (enter (if s.heldDst o n then .held else .running) [(0, n)])))
    let from1 := s.xopd src
    command (.xGet q tag dst src len cls) .get (some from1) [(from1, n)] True 0 o ∧
    command (.xPut q tag dst src len cls) .put (some from1) [(from1, n)] True 0 o ∧
    command (.xCopy q tag dst src len cls) .copy (some from1) [(from1, n)] True 0 o ∧
    command (.xFill q tag dst val len cls unit) (.fill unit (s.readS val)) none [] (n % 2 ^ unit.toNat = 0) 1 o ∧
    command (.xStage q tag dst src len cls key) (.xstage key) (some from1) [(from1, n)] (n % 256 = 0 ∧ from1.ea.toNat % 256 = 0) 3 from1 ∧
    command (.xSeal q tag dst src len cls key) (.xseal key) (some from1) [(from1, n)] (n % 65536 = 0 ∧ o.ea.toNat % 65536 = 0) 3 o ∧
    command (.xSgather q tag dst src len cls val) (.sgather (s.readS val) (s.readS (val + 1))) (some from1)
      (s.gatherReads (s.readS val) (s.readS (val + 1)) from1 n) True 0 o ∧
    (busy → exec (.xWait q tag) s = .next (s.block false)) ∧ (¬ busy → exec (.xWait q tag) s = .next s) ∧
    (s.ctx.tag tag.toNat = none → exec (.xStat q d tag) s = .next (s.writeS d 0)) ∧
    (∀ t, s.ctx.tag tag.toNat = some t → exec (.xStat q d tag) s = .next (s.writeS d (BitVec.ofNat 64
      ((if t.st = .done then t.len else t.done) * 2 ^ 24 + (match t.st with
        | .idle => 0 | .held => 1 | .running => 2 | .done => 3 | .nospace => 4 | .fenced => 5 | .linkLost => 6 | .cancelled => 7
        | .faulted => 8))))) ∧
    (¬ busy → exec (.xCancel q tag) s = .next s) ∧
    (∀ t, s.ctx.tag tag.toNat = some t → t.st = .held → s.ctx.giving = 0 →
      exec (.xCancel q tag) s = .next (set { t with st := .cancelled, done := 0, left := [] })) ∧
    (∀ t, s.ctx.tag tag.toNat = some t → t.st = .running → s.ctx.giving = 0 → exec (.xCancel q tag) s = .next (set
      (if s.copyOut tag.toNat t then { t with left := [], ending := some .cancelled } else { t with st := .cancelled, left := [] }))) ∧
    (∀ t, calm → s.arg.tag = tag → s.arg.copyEnd = .done [] → s.arg.last = true → s.ctx.tag tag.toNat = some t → t.st = .running →
      t.kind = .copy → t.done = 0 → t.left = [(0, t.len)] → t.snap = none → t.dst.space = .sp → t.src.space = .sp → 0 < t.len →
      s.copyWaits t = false → s.copyOut tag.toNat t = false → s.core.ram.wf = true →
      let a := t.dst.ea.toNat
      let b := t.src.ea.toNat
      (a + t.len ≤ b ∨ b + t.len ≤ a) → Owned s a t.len → Readable s b t.len → ∃ u, exec .evCopyComplete s = .next u ∧
        u.ctx.tag tag.toNat = some { t with st := .done, done := t.len, left := [], ending := none } ∧ u.ctx.regs = s.ctx.regs ∧
        (∀ i < t.len, u.byteAt (.sram (a + i)) = (s.copyRead t.ser ((List.range t.len).map fun k => .sram (b + k))).getD i 0) ∧
        (∀ x, x < a ∨ a + t.len ≤ x → u.byteAt (.sram x) = s.byteAt (.sram x)))

/-- R198 to R201, Table 8.11: the control words of a routine. Each takes one cycle and leads to the word after it, but for a taken `pbr`,
an `mloop` of no iteration, the last word of a loop, and a `mend`. An edge region outside the accumulator ends the call with RANGE.
(An `mloop` of count 0 takes the end of the loops that end at its last word, log 28, and is no LOOP beside four open ones, log 80.) -/
def Obligations.MicroControlWords : Prop :=
  ∀ (a b d : WReg) (i : BitVec 32) (cond : BitVec 3) (off cnt : BitVec 16) (n : BitVec 4) (idx : BitVec 6) (sideB : Bool) (s : State)
    (m : MicroRun), Running s m →
    let region := s.ctx.micro.region
    let x := m.get a
    let y := m.get b
    let taken := (cond = 0 ∧ x = y) ∨ (cond = 1 ∧ x ≠ y) ∨ (cond = 2 ∧ x.toInt < y.toInt) ∨ (cond = 3 ∧ y.toInt ≤ x.toInt) ∨
      (cond = 4 ∧ x.toNat < y.toNat) ∨ (cond = 5 ∧ y.toNat ≤ x.toNat)
    let goal := (m.mpc : Int) + off.toInt
    let times := (x + BitVec.ofNat 32 cnt.toNat).toNat
    let last := m.mpc + off.toNat
    let inside := x.toNat + (s.extents m.mrec).1 ≤ 128 ∧ y.toNat + (s.extents m.mrec).2 ≤ 64
    (Straight s m →
      (inside → exec (.uEdge a b) s = .next (stepped s m { m with rowOff := x.toNat, colOff := y.toNat })) ∧
      exec (.uSwap a b) s = .next (stepped s m ((m.put a y).put b x)) ∧
      (∀ c : BitVec 31, exec (.uPset d (.imm c)) s = .next (stepped s m (m.put d (BitVec.ofInt 32 c.toInt)))) ∧
      (∀ (p : BitVec 3) (lo w : BitVec 6), exec (.uPset d (.param p lo w)) s = .next (stepped s m
        (m.put d (BitVec.ofNat 32 ((m.mrec.mp.getD p.toNat 0).toNat / 2 ^ lo.toNat % 2 ^ (w.toNat + 1)))))) ∧
      exec (.uPadd d a b i) s = .next (stepped s m (m.put d (x + y + i))) ∧
      (cond.toNat < 6 → ¬ taken → exec (.uPbr a b cond off) s = .next (stepped s m m)) ∧
      (0 < times → 0 < off.toNat → m.loops.length < 4 →
        exec (.uMloop a cnt off) s = .next (stepped s m { m with loops := (m.mpc + 1, last, times) :: m.loops })) ∧
      (∀ t : BitVec 16, exec (.uWait a t) s =
        .next (ran s { m with mpc := m.mpc + 1, cycle := m.cycle + (max 1 (x.toInt + t.toNat)).toNat })) ∧
      ((x + BitVec.ofNat 32 idx.toNat).toNat < m.mrec.count →
        exec (.uAccl a idx false) s = .next (stepped s m { m with acur := (x + BitVec.ofNat 32 idx.toNat).toNat })) ∧
      (m.mrec.zskip = false → exec (.uSkipz sideB n) s = .next (stepped s m m)) ∧
      (∀ k len v, m.mrec.zskip = true → (if sideB then m.winB else m.winA) = some (k, len) → s.tileView m.mrec sideB = some v →
        Sound v (natRange 0 v.outer) k len →
        ((if sideB then m.winA else m.winB) = none → (∀ o < v.outer, ∀ j < len, v.isZero o (k + j) = true) → exec (.uSkipz sideB n) s =
          .next (stepped s m { m with skip := n.toNat, mrec := { m.mrec with status := m.mrec.status ||| 4 } })) ∧
        ((∃ o < v.outer, ∃ j < len, v.isZero o (k + j) = false) → exec (.uSkipz sideB n) s = .next (stepped s m m)))) ∧
    (¬ inside → ∃ m', exec (.uEdge a b) s = .next (ran s m') ∧ m'.fault = some { code := 0x25, sub := 1, elem := m.mrec.microTile }) ∧
    (taken → 0 ≤ goal → goal < region → exec (.uPbr a b cond off) s = .next (ran s { m with mpc := goal.toNat, cycle := m.cycle + 1 })) ∧
    (taken → (goal < 0 ∨ (region : Int) ≤ goal) → ∃ m', exec (.uPbr a b cond off) s = .next (ran s m') ∧
      m'.fault = some { code := 0x25, sub := 5, elem := m.mrec.microTile }) ∧
    (times = 0 → (∀ l ∈ m.loops, l.2.1 ≠ last) → last + 1 < region →
      exec (.uMloop a cnt off) s = .next (ran s { m with mpc := last + 1, cycle := m.cycle + 1 })) ∧
    (times = 0 → ∀ start left l, m.loops = (start, last, left) :: l → 1 < left → start < region →
      exec (.uMloop a cnt off) s = .next (ran s { m with mpc := start, cycle := m.cycle + 1, loops := (start, last, left - 1) :: l })) ∧
    (0 < times → 4 ≤ m.loops.length → ∃ m', exec (.uMloop a cnt off) s = .next (ran s m') ∧
      m'.fault = some { code := 0x25, sub := 4, elem := m.mrec.microTile }) ∧
    (∀ start left l, m.loops = (start, m.mpc, left) :: l → 1 < left → start < region →
      exec (.uPadd d a b i) s = .next (ran s { m.put d (x + y + i) with
        mpc := start, cycle := m.cycle + 1, loops := (start, m.mpc, left - 1) :: l })) ∧
    (∀ start left l, m.loops = (start, m.mpc, left) :: l → left ≤ 1 → (∀ e ∈ l, e.2.1 ≠ m.mpc) → m.mpc + 1 < region →
      exec (.uPadd d a b i) s = .next (ran s { m.put d (x + y + i) with mpc := m.mpc + 1, cycle := m.cycle + 1, loops := l })) ∧
    exec .uMend s = .next (ran s { m with atEnd := true }) ∧
    (∀ r : WReg, ∀ z, (m.put d z).get r = if r = 0 then 0 else if r = d then z else m.get r)

namespace Sys2Proof.Claims
open Sys2Proof.Machine

/-- A value that is exactly what its fields say. -/
def Plain : FVal → Prop
  | .fin _ _ _ st => st = false
  | _ => True

/-- r is the exact sum of products rounded once to fp32 (R195): a zero sum is −0 only when every product is. -/
def SumOfProducts (l : List (FVal × FVal)) (r : Nat) : Prop :=
  let inf := fun (v : FVal) => v.isNan = false ∧ v.isFin = false
  let neg := fun (e : FVal × FVal) => e.1.neg? != e.2.neg?
  let nan := fun (e : FVal × FVal) => e.1.isNan = true ∨ e.2.isNan = true ∨ (inf e.1 ∧ e.2.isZero = true) ∨ (e.1.isZero = true ∧ inf e.2)
  let big := fun (n : Bool) => ∃ e ∈ l, (inf e.1 ∨ inf e.2) ∧ neg e = n
  let sum : ℚ := (l.map fun e => exact e.1 * exact e.2).sum
  ((∃ e ∈ l, nan e) ∨ (big true ∧ big false) → r = 0x7FC00000) ∧
  ((∀ e ∈ l, ¬ nan e) → (∀ n, big n → ¬ big (!n) → r = infinite fp32 n) ∧ (¬ big true → ¬ big false → ∃ n,
    (n = true ↔ sum < 0 ∨ (l ≠ [] ∧ ∀ e ∈ l, exact e.1 * exact e.2 = 0 ∧ neg e = true)) ∧ Rounded fp32 0 n (sum : ℚ) r))

end Sys2Proof.Claims

/-- R195, R196, R199, R209, Table 8.8: the words that work on tiles. `feeda` and `feedb` open windows; `accl` with clear zeroes its edge
region; `mac` adds the groups of products of both windows into each cell, each group summed exactly and rounded once; `macq` starts
a block of integer sums, which `fold` scales and adds at its distance; `norm` sums squares over the rows of a window. -/
def Obligations.MicroArrayWords : Prop :=
  ∀ (wa : WReg) (lenM1 : BitVec 9) (idx : BitVec 6) (all sideB add : Bool) (s : State) (m : MicroRun) (a b : TileView) (ka kb len : Nat),
    Running s m → Straight s m →
    let x := (m.get wa).toNat
    let acur := (m.get wa + BitVec.ofNat 32 idx.toNat).toNat
    let product := fun (i j t : Nat) => (a.fval (i - m.rowOff) (ka + t), b.fval (j - m.colOff) (kb + t))
    let isum := fun (i j : Nat) => ((List.range len).map fun t => a.int (i - m.rowOff) (ka + t) * b.int (j - m.colOff) (kb + t)).sum
    (∀ v, s.tileView m.mrec false = some v → (let l := if all then v.depth - x else lenM1.toNat + 1
      (0 < l ∧ x + l ≤ v.depth → exec (.uFeeda wa lenM1 all) s = .next (stepped s m { m with winA := some (x, l) })) ∧
      (¬ (0 < l ∧ x + l ≤ v.depth) → ∃ m', exec (.uFeeda wa lenM1 all) s = .next (ran s m') ∧
        m'.fault = some { code := 0x25, sub := 1, elem := m.mrec.microTile }))) ∧
    (∀ v, s.tileView m.mrec true = some v → (let l := if all then v.depth - x else lenM1.toNat + 1
      0 < l → x + l ≤ v.depth → exec (.uFeedb wa lenM1 all) s = .next (stepped s m { m with winB := some (x, l) }))) ∧
    (s.tileView m.mrec false = some a → s.tileView m.mrec true = some b → acur = m.mrec.accOff → acur < m.mrec.count →
      ∃ m', exec (.uAccl wa idx true) s = .next (stepped s m m') ∧ Cells s { m with acur := acur } m' a.outer b.outer fun _ _ => 0) ∧
    (Windowed s m a b ka kb len → m.mrec.sample = false → m.acur = m.mrec.accOff → s.cellsSpoilt m (m.cells a.outer b.outer) = false →
      ∀ g, macGroup a.fmt b.fmt = some g →
      ∃ m', exec .uMac s = .next (stepped s m m') ∧ Cells s (timed m a b len) m' a.outer b.outer
        fun i j => addGroups g len ((List.range len).map (product i j)) (s.cellOf m i j)) ∧
    (∀ g l z, 0 < g → l ≠ [] → addGroups g l.length l z =
      addGroups g (l.drop g).length (l.drop g) (fp32.addBits 0 z (sumOnce (l.take g)))) ∧
    (∀ z, addGroups 4 0 [] z = z) ∧
    (∀ l : List (FVal × FVal), (∀ e ∈ l, Plain e.1 ∧ Plain e.2) → SumOfProducts l (sumOnce l)) ∧
    (Windowed s m a b ka kb len → m.mrec.sample = false → macGroup a.fmt b.fmt = none → ∃ m', exec .uMac s = .next (ran s m') ∧
      m'.fault = some { code := 0x25, sub := 3, elem := m.mrec.microTile }) ∧
    (Windowed s m a b ka kb len → m.mrec.sample = false → intOperand a.fmt = true → intOperand b.fmt = true → oneGroup a ka len = true →
      oneGroup b kb len = true → a.badIn ((m.cells a.outer b.outer).map fun c => c.1 - m.rowOff) [ka] = false →
      b.badIn ((m.cells a.outer b.outer).map fun c => c.2 - m.colOff) [kb] = false →
      let m1 := timed m a b len
      exec .uMacq s = .next (stepped s m { m1 with blocks := m.blocks ++ [⟨m1.cycle, if a.fmt = 14 ∧ b.fmt = 14 then 18 else 14,
        (m.cells a.outer b.outer).map fun (i, j) => (64 * i + j, isum i j, a.scale (i - m.rowOff) ka, b.scale (j - m.colOff) kb)⟩] })) ∧
    (∀ blk, m.mrec.sample = false → m.acur = m.mrec.accOff → m.blocks[m.paired]? = some blk → m.cycle = blk.cycle + blk.lag →
      s.cellsSpoilt m (m.cells (s.extents m.mrec).1 (s.extents m.mrec).2) = false →
      (blk.sums.map (·.1)).Nodup → ∃ m', exec .uFold s = .next (stepped s m m') ∧ m' = { m with part := m'.part, paired := m.paired + 1 } ∧
        ∀ i j, j < 64 → s.cellOf m' i j = (match blk.sums.find? (·.1 == 64 * i + j) with
          | some (_, p, sa, sb) => foldAdd (s.cellOf m i j) p sa sb
          | none => s.cellOf m i j)) ∧
    (∀ k l v, m.mrec.accOff = 0 → m.mrec.microTile = 0 → (if sideB then m.winB else m.winA) = some (k, l) →
      s.tileView m.mrec sideB = some v → Sound v (natRange 0 v.outer) k l → (add = true → s.recSpoilt (x / 4 * 4) (4 * l) = false) →
      s.spBound (x / 4 * 4) (4 * l) = true → s.overwrites (x / 4 * 4) (4 * l) = false →
      exec (.uNorm wa sideB add) s = .next (stepped s m { m with norms := m.norms ++ [(x / 4 * 4, (List.range l).flatMap fun i =>
        leBytes 4 ((List.range v.outer).foldl (fun z o => fp32.addBits 0 z (fp32.mulBits 0 (v.val o (k + i)) (v.val o (k + i))))
          (if add then s.normEntry m (x / 4 * 4 + 4 * i) else 0)))] })) ∧
    (m.mrec.accOff ≠ 0 ∨ m.mrec.microTile ≠ 0 → exec (.uNorm wa sideB add) s = .next (stepped s m m))

namespace Sys2Proof.Claims
open Sys2Proof.Machine

/-- Mix(t, seed) of R164. -/
def mixed (t seed : Nat) : Nat :=
  let v := t ^^^ seed
  let v := (v ^^^ (v / 2 ^ 31)) * 0x9E6B3A5D2C714F07 % 2 ^ 64
  let v := (v ^^^ (v / 2 ^ 29)) * 0xC2B8E41F6D5A3097 % 2 ^ 64
  v ^^^ (v / 2 ^ 32)

/-- What sample t of a call draws from the alias table of n entries at `tab` (R215, R216, R221), where x is its random word. -/
def Draws (s : State) (r : MRecord) (tab n t : Nat) (d : Drawn) : Prop :=
  let x := mixed t r.seed.toNat
  let slot := x / 2 ^ 32 * n / 2 ^ 32
  let e := leNat (s.recBytes r (tab + 8 * slot) 8)
  let threshold := e % 2 ^ 32
  let other := e / 2 ^ 32 % 2 ^ 16
  let state := e / 2 ^ 48 % 4
  let below := if number fp32 threshold then ((x % 2 ^ 24 : Nat) : ℚ) < valueOf fp32 threshold * 2 ^ 24 else threshold = 0x7F800000
  if s.recSpoilt (tab + 8 * slot) 8 then d = .spoilt
  else if state = 3 ∨ e / 2 ^ 50 ≠ 0 ∨ n ≤ other then d = .range
  else if state = 1 then d = .zero
  else if state = 2 then d = .nonfinite
  else (below → d = .cat slot) ∧ (¬ below → d = .cat other)

/-- The relative error of a probe of mean and M2 after n samples (R219). -/
def probeErr (n mean m2 : Nat) : Nat :=
  let e := fp32.sqrtBits 0 (fp32.divBits 0 m2 (fp32.round 0 false (.fin false (n * (n - 1)) 0 false)))
  if e % 2 ^ 31 = 0 then 0 else if mean % 2 ^ 31 = 0 then 0x7F800000 else fp32.divBits 0 e (mean % 2 ^ 31)

end Sys2Proof.Claims

/-- R213 to R221: the words of a sampled call. `draw` draws a block of categories from the alias table, sample t from Mix(t, seed), up to
the first that ends it (a fault of an entry before its STATE: log 80); `sgath` fetches the drawn rows;
`mac` adds the block into the sample sums (whatever window a `feeda` has set since: log 80); `probe` updates each probe's mean and variance; `stoptest` goes on, or branches with the
reason CONVERGED or MAXED, after the call's first micro-tile as that one decided (R225). A table that sums to zero, or holds no finite
weights, ends the routine. Out of their order, and in a call that does not sample, they are SAMPLE faults. -/
def Obligations.SamplingWords : Prop :=
  ∀ (a b : WReg) (qM1 : BitVec 7) (nM1 : BitVec 6) (off : BitVec 16) (s : State) (m : MicroRun) (p : SampRun),
    Running s m → Straight s m →
    let put := fun (p' : SampRun) => stepped s m { m with samp := some p' }
    let k := min (qM1.toNat + 1) (min p.q (p.smax - p.n))
    let goal := (m.mpc : Int) + off.toInt
    let r := m.mrec.tests.getD p.tests.length (relErr p)
    let tested := fun (why : Nat) => { p with relerr := some r, reason := why, tests := p.tests ++ [r] }
    let tab := (m.get a).toNat
    let cats := (m.get b).toNat
    let below := p.smin ≤ p.n ∧ fpCond 3 (fp32.decode r) (fp32.decode ((m.mrec.mp.getD 3 0).toNat % 2 ^ 32)) = true
    let rows := (s.extents m.mrec).1
    let cols := (s.extents m.mrec).2
    (m.mrec.sample = false → ∀ i ∈ [Instr.uDraw a b qM1, .uSgath a, .uProbe a nM1, .uStoptest off],
      exec i s = .next (ran s { m with fault := some { code := 0x25, sub := 7, elem := m.mrec.microTile } })) ∧
    (m.mrec.sample = true → m.samp = none → badSampling m.mrec = true → ∀ i ∈ [Instr.uDraw a b qM1, .uSgath a, .uProbe a nM1, .uStoptest off],
      exec i s = .next (ran s { m with fault := some { code := 0x25, sub := 1, elem := m.mrec.microTile } })) ∧
    (m.mrec.sample = true → m.samp = some p ∨ (m.samp = none ∧ badSampling m.mrec = false ∧ p = sampStart m.mrec) →
      (p.blockOpen = false → 0 < k → 0 < cats → cats ≤ 65536 → s.spBound tab (8 * cats) = true →
        (∀ ks, s.drawMany m.mrec tab cats (natRange p.n k) = .inl ks → exec (.uDraw a b qM1) s = .next (put { p with
          n := p.n + k, stage := .drawn, mac := false, probe := false, ks := ks, cats := cats, slabA := [], slabB := [] })) ∧
        (s.drawMany m.mrec tab cats (natRange p.n k) = .inr .zero → exec (.uDraw a b qM1) s = .next (ran s { m with
          samp := some { p with n := 0, sums := [], relerr := some 0, reason := 3 }, atEnd := true })) ∧
        (s.drawMany m.mrec tab cats (natRange p.n k) = .inr .nonfinite → exec (.uDraw a b qM1) s = .next (ran s { m with
          samp := some { p with n := 0, sums := [], relerr := some 0x7FC00000, reason := 4 }, atEnd := true })) ∧
        (s.drawMany m.mrec tab cats (natRange p.n k) = .inr .range → exec (.uDraw a b qM1) s = .next (ran s { m with
          fault := some { code := 0x25, sub := 1, elem := m.mrec.microTile } }))) ∧
      (∀ (n : Nat) (ts : List Nat), (∀ t ∈ ts, t < 2 ^ 32) →
        (∀ ks, ts.length = ks.length → (∀ e ∈ ts.zip ks, Draws s m.mrec tab n e.1 (.cat e.2)) → s.drawMany m.mrec tab n ts = .inl ks) ∧
        (∀ pre t post d, ts = pre ++ t :: post → (∀ u ∈ pre, ∃ c, Draws s m.mrec tab n u (.cat c)) → Draws s m.mrec tab n t d →
          (∀ c, d ≠ .cat c) → s.drawMany m.mrec tab n ts = .inr d)) ∧
      (p.n < 2 → relErr p = 0x7F800000) ∧
      (2 ≤ p.n → relErr p = ((p.probes.take p.count).map fun e => probeErr p.n e.2.1 e.2.2).foldl fp32.maxBits 0xFF800000) ∧
      (∀ c mean m2 x : Nat, let d := fp32.subBits 0 x mean
        let mean' := fp32.addBits 0 mean (fp32.divBits 0 d (fp32.round 0 false (.fin false (c + 1) 0 false)))
        welford (c, mean, m2) x = (c + 1, mean', fp32.addBits 0 m2 (fp32.mulBits 0 d (fp32.subBits 0 x mean')))) ∧
      (∀ sa sb, p.stage = .drawn → s.spBound tab (4 * p.cats) = true → (∀ c ∈ p.ks, s.recSpoilt (tab + 4 * c) 4 = false) →
        s.slabs m.mrec rows cols (p.ks.map fun c => (c, fp32.divBits 0 0x3F800000 (leNat (s.recBytes m.mrec (tab + 4 * c) 4)))) =
          .inl (sa, sb) →
        exec (.uSgath a) s = .next (stepped s m { m with samp := some { p with stage := .gathered, slabA := sa, slabB := sb },
                                                         winA := some (0, p.ks.length), winB := some (0, p.ks.length) })) ∧
      (p.stage = .gathered → p.mac = false → ∃ m' sums, exec .uMac s = .next (stepped s m m') ∧
        m'.samp = some { p with mac := true, sums := sums } ∧ m'.part = m.part ∧
        ∀ i j, j < 64 → tabGet 0 sums (64 * i + j) = if (i, j) ∈ m.cells rows cols then
            addGroups 4 p.ks.length ((List.range p.ks.length).map fun t => (fp32.decode ((p.slabA.getD t []).getD (i - m.rowOff) 0),
              fp32.decode ((p.slabB.getD t []).getD (j - m.colOff) 0))) (tabGet 0 p.sums (64 * i + j))
          else tabGet 0 p.sums (64 * i + j)) ∧
      (let c := min (nM1.toNat + 1) ((m.mrec.mp.getD 5 0).toNat / 2 ^ 32 % 64 + 1)
       let cell := fun i => leNat (s.recBytes m.mrec (tab + 4 * i) 4)
       p.stage = .gathered → p.probe = false → s.spBound tab (4 * c) = true → s.recSpoilt tab (4 * c) = false →
        (∀ i < c, cell i < 2 ^ 14 ∧ cell i % 128 < rows ∧ cell i / 128 % 2 = 0 ∧ cell i / 256 < cols) →
        exec (.uProbe a nM1) s = .next (put { p with
          probe := true, count := c, probes := ((List.range c).map fun i => (List.range p.ks.length).foldl (fun st t =>
            welford st (fp32.mulBits 0 ((p.slabA.getD t []).getD (cell i % 128) 0) ((p.slabB.getD t []).getD (cell i / 256) 0)))
            (p.probes.getD i (0, 0, 0))) ++ p.probes.drop c })) ∧
      (p.blockOpen = false → ¬ below → p.n < p.smax →
        exec (.uStoptest off) s = .next (put (tested 0))) ∧
      (p.blockOpen = false → below ∨ p.smax ≤ p.n → 0 ≤ goal → goal < s.ctx.micro.region →
        ∃ why, (below → why = 1) ∧ (¬ below → why = 2) ∧ exec (.uStoptest off) s = .next (ran s { m with
          samp := some (tested why), mpc := goal.toNat, cycle := m.cycle + 1 })))

/-- R187, R189, R200, R202 to R205, R363: a record starts when no other runs and its tiles are filled; a run that has ended reaches its
accumulator in one act, the record moving to its next micro-tile and after the 32nd to its next accumulator; a record that has passed its
last ends, its status in its batch and a SAMPLE call's result in mp7; an engine whose queue has become empty takes a neighbour's waiting
record and gives it back when one of its own arrives.
(Where a record that is given back stands in the queue, log 80.) -/
def Obligations.EngineEventsComplete : Prop :=
  ∀ (s : State) (r : MRecord) (l : List MRecord) (m : MicroRun),
    (s.core.run = none → s.core.engine = r :: l → s.canStart r = true → r.home = s.coreNum → r.slot = s.slotNum →
      ∃ t m', exec .evMatrixRecordStart s = .next t ∧ t.core.engine = l ∧ t.core.run = some m' ∧
        m'.mrec = { s.takeTiles r with view := m'.mrec.view } ∧ m'.mrec.view.isSome = r.reads ∧ m'.cycle = 0 ∧ t.ctx.regs = s.ctx.regs ∧ SameMemory s t) ∧
    (s.core.run = some m → m.mrec.home = s.coreNum → m.mrec.slot = s.slotNum → m.mrec.sample = false → m.atEnd = true → m.fault = none →
      m.mrec.accOff < m.mrec.count → m.norms = [] → s.core.ram.wf = true → (∀ c ∈ m.part, c.1 < 128 * 64 ∧ c.2 < 2 ^ 32) →
      (m.part.map (·.1)).Nodup →
      let acc := m.mrec.first + m.mrec.accOff
      let mask := m.mrec.mtMask ||| BitVec.ofNat 32 (2 ^ m.mrec.microTile)
      ∃ t m', exec .evMicroTileCommit s = .next t ∧ t.core.run = some m' ∧ t.ctx.regs = s.ctx.regs ∧
        (∀ i < 128, ∀ j < 64, t.core.accGet acc i j = s.cellOf m i j) ∧
        (∀ n i j, n ≠ acc → i < 128 → j < 64 → t.core.accGet n i j = s.core.accGet n i j) ∧
        (mask ≠ BitVec.allOnes 32 → m'.mrec.mtMask = mask ∧ m'.mrec.accOff = m.mrec.accOff ∧ m'.cycle = 0) ∧
        (mask = BitVec.allOnes 32 → m'.mrec.accOff = m.mrec.accOff + 1 ∧ m'.mrec.mtMask = 0) ∧
        (m'.mrec.status.getLsbD 0 = (m.mrec.status.getLsbD 0 || m.part.any fun c => !(fp32.decode c.2).isFin))) ∧
    (s.core.run = some m → m.mrec.home = s.coreNum → m.mrec.slot = s.slotNum → m.mrec.zero = false → m.fault = none → s.mp7Free m.mrec = true →
      s.ctx.exited = false → s.ctx.giving = 0 →
      m.mrec.count ≤ m.mrec.accOff → m.mrec.gen = s.ctx.batchSeq.toList.getD m.mrec.batch 0 →
      ∃ t, exec .evMatrixCallComplete s = .next t ∧ t.core.run = none ∧ t.core.engine = s.core.engine ∧
        t.ctx.regs = { s.ctx.regs with mp := if m.mrec.sample then s.ctx.regs.mp.set 7 m.mrec.res else s.ctx.regs.mp } ∧
        SameMemory s t ∧ t.ctx.fault = s.ctx.fault ∧ t.ctx.batch.toList.getD m.mrec.batch 0 =
          s.ctx.batch.toList.getD m.mrec.batch 0 ||| m.mrec.status ||| (if m.mrec.migrated then 2 else 0) |||
            (if m.mrec.sample then 8 else 0)) ∧
    (∀ i, s.core.run = some m → m.mrec.home = s.coreNum → m.mrec.slot = s.slotNum → m.fault = some i →
      ∃ t h, exec .evMatrixCallComplete s = .next t ∧ t.core.run = none ∧ t.ctx.fault = s.ctx.fault ++ [h] ∧ h.info = i ∧
        h.async = true ∧ h.seq = m.mrec.op.seq ∧ h.pc = m.mrec.op.pc) ∧
    (s.core.consider = true → s.core.run = none → s.core.engine = [] → s.toMigrate = some r → r.home ≠ s.coreNum →
      ∃ t, exec .evMatrixMigrate s = .next t ∧ t.core.run = none ∧
        t.core.engine = [{ r with migrated := true, status := r.status ||| 2 }] ∧ (t.boxOf r.home).core.engine = (s.boxOf r.home).core.engine.filter (· != r) ∧ t.ctx.regs = s.ctx.regs) ∧
    ((∃ own ∈ s.core.engine, own.home = s.coreNum) → r.home ≠ s.coreNum →
      (s.core.run = some m ∧ m.mrec = r ∧ m.cycle = 0 ∧ m.fault = none ∧ r.accOff < r.count) ∨ (s.core.run = none ∧ s.core.engine = r :: l) →
      ∃ t, exec .evMigrationReturn s = .next t ∧ t.core.run = none ∧ t.core.engine = s.core.engine.filter (· != r) ∧
        (t.boxOf r.home).core.engine = r :: (s.boxOf r.home).core.engine ∧ t.ctx.regs = s.ctx.regs)

/-- The frames of the M and X slots and of the routines: an M-slot operation leaves every byte but those that `sbuild` writes, and every
register but a destination of its own and, for a SAMPLE call found complete in the resume table, mp7 (a bank that waits to be given on when
such a call's tiles go, and a race log that `mprog`'s reads may write, apart); an X-slot command that is
dispatched leaves every register but the destination of `xstat`, and, unless it cancels a running command, every byte; a word of a routine
changes nothing but the run, `sgath` apart, which may ask for pool pages. -/
def Obligations.EngineFrames : Prop :=
  ∀ (i : Instr) (s t : State), exec i s = .next t →
    (i.slotOf = some .m → (RacesOff s ∨ (s.readSys 0x008).getLsbD 2 = false) → (s.ctx.resume = [] ∨ s.ctx.giving = 0) →
      t.ctx.regs = { s.ctx.regs with s := t.ctx.regs.s, mp := t.ctx.regs.mp } ∧
      (∀ r : SReg, RegName.s r ∉ opWrites i → t.ctx.regs.s[r.toNat]'r.isLt = s.ctx.regs.s[r.toNat]'r.isLt) ∧
      (∀ r : MpReg, r ≠ 7 → t.ctx.regs.mp[r.toNat]'r.isLt = s.ctx.regs.mp[r.toNat]'r.isLt) ∧
      (s.ctx.resume = [] → t.ctx.regs.mp = s.ctx.regs.mp) ∧
      t.pkg.hbm = s.pkg.hbm ∧ t.pkg.cache = s.pkg.cache ∧ t.host = s.host ∧ t.pool = s.pool ∧ t.core.full = s.core.full ∧
      t.ctx.ckpt = s.ctx.ckpt ∧ t.ctx.status = s.ctx.status ∧ t.ctx.trapRec = s.ctx.trapRec ∧
      ((∀ q a b c, i ≠ .mSbuild q a b c) → t.core.ram = s.core.ram) ∧
      (∀ q a b c, i = .mSbuild q a b c → s.core.ram.wf = true → ∀ x,
        (x < (s.readS b).toNat / 8 * 8 ∨ (s.readS b).toNat / 8 * 8 + 12 * (s.readS c).toNat ≤ x) → t.core.ram.get x = s.core.ram.get x)) ∧
    (i.slotOf = some .x → (∀ q g, i ≠ .xCancel q g) →
      t.ctx.regs = { s.ctx.regs with s := t.ctx.regs.s } ∧ SameMemory s t ∧ SameOutside s t ∧ t.ctx.ckpt = s.ctx.ckpt ∧
      t.ctx.status = s.ctx.status ∧ t.ctx.buffer = s.ctx.buffer ∧
      (∀ r : SReg, RegName.s r ∉ opWrites i → t.ctx.regs.s[r.toNat]'r.isLt = s.ctx.regs.s[r.toNat]'r.isLt)) ∧
    (i ∈ [Instr.uMac, .uMacq, .uFold, .uMend] ∨ (∃ a n x, i = .uFeeda a n x) ∨ (∃ a n x, i = .uFeedb a n x) ∨ (∃ a n x, i = .uAccl a n x) ∨
      (∃ a x y, i = .uNorm a x y) ∨ (∃ a b n, i = .uDraw a b n) ∨ (∃ a n, i = .uProbe a n) ∨ (∃ o, i = .uStoptest o) ∨
      (∃ x n, i = .uSkipz x n) ∨ (∃ a b, i = .uEdge a b) ∨ (∃ a b, i = .uSwap a b) ∨ (∃ d x, i = .uPset d x) ∨
      (∃ d a b x, i = .uPadd d a b x) ∨ (∃ a b c o, i = .uPbr a b c o) ∨ (∃ a c o, i = .uMloop a c o) ∨ (∃ a n, i = .uWait a n) →
      t = { s with core := { s.core with run := t.core.run } })

namespace Sys2Proof.Claims
open Sys2Proof.Machine

/-- Nothing outside the package differs, and of the package at most what f sees. -/
def OnlyPackage (s t : State) : Prop := t = { s with pkg := t.pkg }

/-- Every housekeeping register but those named reads as before. -/
def RegsBut (s t : State) (offs : List Nat) : Prop := ∀ x, x ∉ offs → t.pkg.reg x = s.pkg.reg x

/-- A host command of this operation stands next in the ring of partition p: its 32 bytes (R447). -/
def Asked (s : State) (p op : Nat) (c : List Byte) : Prop :=
  s.arg.p.toNat = p ∧ s.cmdWaits p = true ∧ s.cmdBytes p = c ∧ leField c 0 4 = op

/-- No context has been placed on any core. -/
def NoContexts (s : State) : Prop := s.contexts = []

/-- An SPDM response of this code has been given: the response itself, or ERROR (LargeResponse) with the response held for CHUNK_GET. -/
def Answered (t : State) (code : BitVec 8) : Prop :=
  ∃ resp : List Byte, resp.take 2 = [0x13, code] ∧
    ((t.pkg.spdm.answer = resp ∧ resp.length ≤ Config.spdmSize ∧ t.pkg.spdm.chunkOut = none) ∨
     (t.pkg.spdm.answer = [0x13, 0x7F, 0x0F, 0] ∧ Config.spdmSize < resp.length ∧ t.pkg.spdm.chunkOut = some (0, resp)))

/-- The SPDM responder's state but for the answer, the transcript and a response held for CHUNK_GET. -/
def spdmKept (m n : Spdm) : Prop :=
  m = { n with answer := m.answer, transcript := m.transcript, chunkOut := m.chunkOut }

/-- A vendor message's bytes end OK or with another STATUS (Table 15.9). -/
def VendorStatus (t : State) (pl : List Byte) (status : Nat) : Prop :=
  t.pkg.spdm.answer = [0x13, 0x7E, 0, 0, 3, 0, 2] ++ leBytes 2 Config.vendorId.toNat ++ [8, 0] ++ [BitVec.ofNat 8 (leField pl 0 1 + 0x80), 0] ++ sliceBytes pl 2 2 ++ leBytes 4 status

end Sys2Proof.Claims

/-- R443 to R446, R449 to R451, R418: a package reset leaves no context, no lease and no open mailbox, keeps the host's memory and the
pool, and boots as far as the first stage that fails; register writes by Table 20.3, but none after a failed boot; the clock step is the
least of the three limits; 120 °C resets and boots as a package reset does; a sample shows in POWERSTAT; an idle cluster is gated and
loses its copies; errors are held as UNCORRECTABLE or poison their sector or word, or stop the command processor; the scrub counts. (The
signer key tables that boot writes stand in package memory; BOOTSTAT 0 before stage 1 and CLKCAP 9 are the model's, log 6; a telemetry
record's layout, log 17; that a thermal trip boots as a package reset, log 49; data that no one reads, log 69.) -/
def Obligations.HousekeepingEventsComplete : Prop :=
  ∀ s : State,
    let a := s.arg
    let signed := fun (b : BootInputs) => Config.ecdsaVerify Config.ecRoot (Config.sha384 b.fwHeader) b.ecSig &&
      Config.lmsVerify Config.lmsRoot (Config.sha384 b.fwHeader) b.lmsSig
    let fresh := fun (t : State) => t.host = s.host ∧ t.pool = s.pool ∧ t.ctx = .none ∧ t.peer = .none ∧ t.core = .none ∧ t.cores = [] ∧
      t.pkg.launches = [] ∧ t.pkg.leases = [] ∧ t.pkg.keys = [] ∧ t.pkg.reg 0x18 = 9
    (a.boot = none → ∃ t, exec .evPackageReset s = .next t ∧ fresh t ∧ t.pkg.mboxOpen = 0 ∧ t.pkg.reg 0 = 0) ∧
    (∀ b, a.boot = some b → (∀ x ∈ b.parts, x.signTab.toNat.testBit 51 = false) → ∃ t, exec .evPackageReset s = .next t ∧ fresh t ∧
      t.pkg.reg 0 = if !signed b then 0x101 else if b.fwSvn.toNat < Config.fuseSvn.toNat then 0x201
        else if b.stackCount = 0 ∨ 8 < b.stackCount.toNat then 0x303
        else if !(regionsOk b.hbmRegions && tunablesOk b) then 0x404
        else if b.parts = [] ∨ 8 < b.parts.length ∨ descsOk b.parts = false then 0x505
        else if b.pkgNum = none then 0x606 else 8) ∧
    (s.pkg.bootFailed = true → exec .evRegisterWrite s = .next s ∧ exec .evClkcapWrite s = .next s) ∧
    (let capped := fun (t : State) => OnlyPackage s t ∧ RegsBut s t [0x10, 0x18] ∧ (t.pkg.reg 0x18).toNat = min 9 (a.v.toNat % 16) ∧
       wbits (t.pkg.reg 0x10) 15 8 = min (wbits (t.pkg.reg 0x18) 3 0) (min s.pkg.limits.1.toNat s.pkg.limits.2.toNat) ∧
       wbits (t.pkg.reg 0x10) 63 16 = wbits (s.pkg.reg 0x10) 63 16
     wbits (s.pkg.reg 0) 15 8 = 0 → (a.off = 0x18 → ∃ t, exec .evRegisterWrite s = .next t ∧ capped t) ∧
       ∃ t, exec .evClkcapWrite s = .next t ∧ capped t) ∧
    (wbits (s.pkg.reg 0) 15 8 = 0 → a.off = 0 ∨ a.off = 8 ∨ a.off = 0x10 → ∃ t, exec .evRegisterWrite s = .next t ∧ OnlyPackage s t ∧ RegsBut s t [0x10] ∧
      wbits (t.pkg.reg 0x10) 63 48 = (wbits (s.pkg.reg 0x10) 63 48 + 1) % 2 ^ 16 ∧ wbits (t.pkg.reg 0x10) 47 0 = wbits (s.pkg.reg 0x10) 47 0) ∧
    (wbits (s.pkg.reg 0) 15 8 = 0 → a.off = 0x20 ∨ a.off = 0x28 ∨ a.off = 0x30 ∨ a.off = 0x38 ∨ a.off = 0x40 → ∃ t, exec .evRegisterWrite s = .next t ∧ OnlyPackage s t ∧
      RegsBut s t [0x10, a.off.toNat] ∧ t.pkg.reg a.off.toNat =
        if a.firmware = true ∧ wbits (s.pkg.reg 0) 7 0 ≤ 5 then a.v else s.pkg.reg a.off.toNat) ∧
    (∃ t, exec .evClockStepChange s = .next t ∧ OnlyPackage s t ∧ RegsBut s t [0x10] ∧ wbits (t.pkg.reg 0x10) 15 8 =
      min (wbits (s.pkg.reg 0x18) 3 0) (min a.power.toNat a.thermal.toNat) ∧ wbits (t.pkg.reg 0x10) 63 16 = wbits (s.pkg.reg 0x10) 63 16) ∧
    (a.heat.toNat < 120 → exec .evThermalTrip s = .next s) ∧
    (120 ≤ a.heat.toNat → ∃ t, exec .evThermalTrip s = .next t ∧ exec .evPackageReset s = .next t) ∧
    (∃ t, exec .evTelemetrySample s = .next t ∧ OnlyPackage s t ∧ RegsBut s t [0x10] ∧ wbits (t.pkg.reg 0x10) 31 16 = a.watts.toNat ∧
      wbits (t.pkg.reg 0x10) 7 0 = a.heat.toNat ∧ ∀ p < 8, s.partAt p ≠ none → ∃ e ∈ t.pkg.events, e.1 = p ∧ leField e.2 0 1 = 5) ∧
    (s.clusterIdle a.cluster.toNat = true → ∃ t, exec .evClusterGate s = .next t ∧ t.pkg.gated.getLsbD a.cluster.toNat = true ∧
      (∀ n ∈ t.pkg.near, n.core.toNat / 4 ≠ a.cluster.toNat) ∧ t.ctx = s.ctx ∧ SameMemory s t) ∧
    (s.clusterIdle a.cluster.toNat = false → exec .evClusterGate s = .next s) ∧
    (∃ t, exec .evClusterWake s = .next t ∧ OnlyPackage s t ∧
      ∀ c < 32, t.pkg.gated.getLsbD c = (s.pkg.gated.getLsbD c && decide (c ≠ a.cluster.toNat))) ∧
    (s.ctx.live = true → s.ctx.trap = none → (∃ r : VReg, a.loc = .vreg r) ∨ a.loc ∈ [ErrLoc.smallReg, .buffer, .dupOrShadow, .dictionary] →
      ∃ t h, exec .evUncorrectableError s = .next t ∧ t = { s with ctx := { s.ctx with trap := some h } } ∧ h.info.code = 0x40 ∧
        h.async = false ∧ ((a.loc ∈ [ErrLoc.smallReg, .buffer, .dictionary] ∨ ∃ r : VReg, a.loc = .vreg r ∧ s.ctx.shadow.getLsbD r.toNat = true) →
          h.info.sub = 1) ∧ (a.loc = .dupOrShadow ∨ (∃ r : VReg, a.loc = .vreg r ∧ s.ctx.shadow.getLsbD r.toNat = false) →
          h.info.sub = 2)) ∧
    (s.ctx.live = true → s.ctx.trap = none → a.loc = .microStore → ∃ t, exec .evUncorrectableError s = .next t ∧
      ((∃ h, t = { s with ctx := { s.ctx with trap := some h } } ∧ h.info.code = 0x40 ∧ h.info.sub = 2) ∨
       (∃ w, t = { s with ctx := { s.ctx with micro := { s.ctx.micro with bad := s.ctx.micro.bad.add w } } }))) ∧
    (∀ x, a.loc = .scratch x → s.core.owner.toList.getD (x / 2 ^ 16) none = none → ∃ t, exec .evUncorrectableError s = .next t ∧
      t = { s with core := { s.core with poison := t.core.poison } } ∧ ∀ k < 8, NatSet.has t.core.poison (x / 8 * 8 + k) = true) ∧
    (∀ x, a.loc = .hbm x → dpaRegion x ≠ 0 → ∃ t, exec .evUncorrectableError s = .next t ∧ SameMemory s t) ∧
    (∀ x, a.loc = .hbm x → dpaRegion x = 3 ∨ (dpaRegion x ≠ 0 ∧ NoContexts s) → ∃ t, exec .evUncorrectableError s = .next t ∧ OnlyPackage s t ∧
      ∀ k < 64, NatSet.has t.pkg.poison (x / 64 * 64 + k) = true) ∧
    (a.loc = .commandProcessor → exec .evUncorrectableError s = .next { s with pkg := { s.pkg with stopped := true } }) ∧
    (∀ x, a.loc = .hbm x → dpaRegion x = 0 → ∃ t, exec .evUncorrectableError s = .next t ∧ OnlyPackage s t ∧ t.pkg.poison = s.pkg.poison) ∧
    (∀ n, a.loc = .sealEntry n → ∃ t, exec .evUncorrectableError s = .next t ∧ OnlyPackage s t ∧ NatSet.has t.pkg.sealBad n = true) ∧
    (a.ok = true → ∃ t, exec .evPatrolScrub s = .next t ∧ OnlyPackage s t ∧ t.pkg.corrected = s.pkg.corrected + 1 ∧ t.pkg.poison = s.pkg.poison) ∧
    (a.ok = false → dpaRegion a.addr.toNat = 3 ∨ (dpaRegion a.addr.toNat ≠ 0 ∧ NoContexts s) →
      ∃ t, exec .evPatrolScrub s = .next t ∧ OnlyPackage s t ∧ ∀ k < 64, NatSet.has t.pkg.poison (a.addr.toNat / 64 * 64 + k) = true)

/-- R434 to R439, R454: a DATA flit with the expected SEQ is delivered, a duplicate discarded, any other answered by a NAK; a NAK frees
what it acknowledges and starts a replay from its successor, a timeout one from the oldest flit kept; a lane over THRESH retrains, and
after its third failure stays out; a strand leaves service and returns with the lanes that trained; a link with a direction out of
service is lost, until firmware resets it. A link that is lost or absent (R15) takes no part. -/
def Obligations.LinkEventsComplete : Prop :=
  ∀ s : State,
    let a := s.arg
    let i := a.link.toNat
    let l := s.pkg.link i
    let d := l.dir a.outbound
    let f := a.flit
    let stands := s.pkg.linkLost i = false
    let good := stands ∧ l.inw.inService = true ∧ flitOk f = true ∧ f.toNat / 2 ^ 25 % 8 = 1 ∧ f.getLsbD 24 = false
    let seq := BitVec.ofNat 12 f.toNat
    let becomes := fun (t : State) (x : Link) => t.pkg.link i = x ∧ ∀ j, j ≠ i → t.pkg.link j = s.pkg.link j
    (good → seq = l.inw.expect → ∃ t, exec .evFlitReceive s = .next t ∧ OnlyPackage s t ∧ becomes t { l with
      inw := { l.inw with expect := l.inw.expect + 1 }, delivered := l.delivered ++ [flitPayload f] }) ∧
    (good → seq ≠ l.inw.expect → (l.inw.expect - seq).toNat ≤ 2047 → ∃ t, exec .evFlitReceive s = .next t ∧ becomes t l) ∧
    (good → 2047 < (l.inw.expect - seq).toNat → ∃ t, exec .evFlitReceive s = .next t ∧ becomes t { l with nak := some (l.inw.expect - 1) }) ∧
    (¬ stands ∨ l.inw.inService = false ∨ flitOk f = false → exec .evFlitReceive s = .next s) ∧
    (∀ pre b b' post, stands → l.outw.inService = true → l.outw.queue = [] → l.outw.replay = none →
      l.outw.kept = pre ++ (a.ack, b) :: (a.ack + 1, b') :: post → (∀ x ∈ pre, x.1 ≠ a.ack) →
      ∃ t, exec .evNakReceive s = .next t ∧ OnlyPackage s t ∧ (t.pkg.link i).outw.kept = (a.ack + 1, b') :: post ∧
        (t.pkg.link i).outw.replay = some (a.ack + 1) ∧ (t.pkg.link i).outw.nextSeq = l.outw.nextSeq) ∧
    (∀ q b post, stands → l.outw.inService = true → l.outw.kept = (q, b) :: post →
      ∃ t, exec .evReplayTimeout s = .next t ∧ OnlyPackage s t ∧ (t.pkg.link i).outw.replay = some q ∧
        (t.pkg.link i).outw.kept = l.outw.kept) ∧
    (stands → s.thresh i < a.errors → d.lane a.lane = (true, .active) →
      (∀ n : BitVec 4, n.toNat / 8 = a.lane.toNat / 8 → (d.lane n).2.retrains = false ∧ (d.lane n).2 ≠ .waiting) →
      ∃ t, exec .evLaneErrorThreshold s = .next t ∧ OnlyPackage s t ∧ ∀ n : BitVec 4, ((t.pkg.link i).dir a.outbound).lane n =
        if n = a.lane then (true, .retraining 0) else d.lane n) ∧
    (∀ k, stands → d.lane a.lane = (true, .retraining k) → (∀ n : BitVec 4, (d.lane n).2 ≠ .waiting) →
      ∃ t, exec .evLaneRetrainEnd s = .next t ∧ OnlyPackage s t ∧ ∀ n : BitVec 4, ((t.pkg.link i).dir a.outbound).lane n =
        if n = a.lane then (true, if a.ok then .active else if 3 ≤ k + 1 then .out else .retraining (k + 1)) else d.lane n) ∧
    (stands → (d.lane a.lane).1 = true → ∃ t, exec .evStrandLoss s = .next t ∧ OnlyPackage s t ∧
      ∀ n : BitVec 4, ((t.pkg.link i).dir a.outbound).lane n =
        if n.toNat / 8 = a.lane.toNat / 8 then (false, .retraining 0) else d.lane n) ∧
    (stands → (d.lane (BitVec.ofNat 4 (8 * a.strand.toNat))).1 = false → a.trained ≠ 0 →
      ∃ t, exec .evStrandReturn s = .next t ∧ OnlyPackage s t ∧ ∀ n : BitVec 4, ((t.pkg.link i).dir a.outbound).lane n =
        if n.toNat / 8 = a.strand.toNat then (true, if a.trained.getLsbD (n.toNat % 8) then .active else .out) else d.lane n) ∧
    (l.lost = false → NoContexts s → s.pkg.sent = [] → s.pkg.leases = [] → (l.outw.inService = false ∨ l.inw.inService = false) →
      ∃ t, exec .evLinkLost s = .next t ∧ (t.pkg.link i).lost = true ∧ ∀ j, j ≠ i → t.pkg.link j = s.pkg.link j) ∧
    (l.lost = false → l.outw.inService = true → l.inw.inService = true → exec .evLinkLost s = .next s) ∧
    (l.lost = true → NoContexts s → s.pkg.sent = [] → s.pkg.leases = [] → ∃ t, exec .evLinkLost s = .next t ∧ t.pkg.link i = l ∧
      SameMemory s t) ∧
    (l.lost = true → ∃ t, exec .evLinkReset s = .next t ∧ OnlyPackage s t ∧ becomes t { Link.fresh with
      outw := { LinkDir.fresh with evSeq := l.outw.evSeq }, inw := { LinkDir.fresh with evSeq := l.inw.evSeq } }) ∧
    (l.lost = false → exec .evLinkReset s = .next s)

/-- R359, R364, R376, R395, R403, R412, R413, R446 to R448: a host command that names nothing is answered NOTFOUND; RESUME lets a held context go
on, at a checked pc if one is given; KILL ends the launch; PREEMPT asks its contexts; STEP_ON and STEP_OFF set the mode; CANCEL ends the
launches of a token; an invalidation drops the translations it names; the mailbox commands and SCHEDULE act on the partition's own; event
records enter a ring with room, each source's in order (R19), and in a full ring wait but for those that may be dropped; one that must follow
a completion record still held waits too. A KILL of a launch whose completion record is still to be written waits for it. (Where an
invalidation's arguments stand is the model's, log 20; the order of the statuses, log 50.) -/
def Obligations.HostCommandsComplete : Prop :=
  ∀ (s : State) (p : Nat) (c : List Byte) (l : Launch),
    let here := s.cmdLaunch p c = some l ∧ cmdContext l c = some (s.coreNum, s.slotNum)
    let mine := here ∧ s.isOf l = true ∧ l.st = .resident
    let pc := leField c 16 4
    let ok := fun (t : State) => t.cmdReply p 1
    (∀ i op, (i, op) ∈ [(Instr.evResume, 1), (.evKill, 2), (.evPreempt, 3), (.evStepOn, 4), (.evStepOff, 5)] → Asked s p op c →
      s.cmdLaunch p c = none → (op = 2 → s.finishing p c = false) → exec i s = .next (s.cmdReply p 2)) ∧
    (Asked s p 2 c → s.cmdLaunch p c = none → s.finishing p c = true → exec .evKill s = .next s) ∧
    (∀ i ∈ [Instr.evResume, .evKill, .evPreempt, .evStepOn, .evStepOff, .evCancel, .evInvalVa, .evInvalAsid, .evInvalS2, .evMboxOpen,
      .evMboxClose, .evSchedule], s.cmdWaits s.arg.p.toNat = false → exec i s = .next s) ∧
    (Asked s p 1 c → mine → s.ctx.parked = false → s.ctx.hold = .held →
      (pc = 0xFFFFFFFF → exec .evResume s = .next (ok s.resumeHere)) ∧
      (pc ≠ 0xFFFFFFFF → pc < s.ctx.image.codeLen → s.startBit pc = true →
        exec .evResume s = .next (ok (s.resumeAt (BitVec.ofNat 32 pc)).resumeHere)) ∧
      (pc ≠ 0xFFFFFFFF → s.startBit pc = false → exec .evResume s = .next (s.cmdReply p 4))) ∧
    (s.ctx.exited = false → s.resumeHere.ctx.hold = .no ∧ s.resumeHere.ctx.regs = s.ctx.regs ∧
      (s.resumeAt (BitVec.ofNat 32 pc)).ctx.regs.pc.toNat = pc % 2 ^ 32 ∧ (s.resumeAt (BitVec.ofNat 32 pc)).ctx.ckpt.pc.toNat = pc % 2 ^ 32) ∧
    (Asked s p 2 c → s.cmdLaunch p c = some l → l.place = [] → l.sched = false → ∃ t, exec .evKill s = .next (ok t) ∧
      (∀ x ∈ t.pkg.launches, ¬ (x.part = l.part ∧ x.id = l.id)) ∧ t.ctx = s.ctx) ∧
    (Asked s p 3 c → here → l.st = .resident → l.place = [(s.coreNum, s.slotNum)] →
      ∃ t, exec .evPreempt s = .next (ok t) ∧ t.ctx = { s.ctx with preempt := true }) ∧
    (Asked s p 3 c → s.cmdLaunch p c = some l → l.st ≠ .resident → exec .evPreempt s = .next (s.cmdReply p 3)) ∧
    (mine → s.ctx.debug = true → s.ctx.conf = false →
      (Asked s p 4 c → exec .evStepOn s = .next (ok { s with ctx := { s.ctx with status := setBits s.ctx.status 4 4 1 } })) ∧
      (Asked s p 5 c → exec .evStepOff s = .next (ok { s with ctx := { s.ctx with status := setBits s.ctx.status 4 4 0 } }))) ∧
    (mine → s.ctx.debug = false ∨ s.ctx.conf = true → Asked s p 4 c → exec .evStepOn s = .next (s.cmdReply p 3)) ∧
    (Asked s p 6 c → exec .evCancel s = .next (ok (s.cancelToken p (BitVec.ofNat 32 (leField c 16 4)) none))) ∧
    (let token := BitVec.ofNat 32 (leField c 16 4)
     token ≠ 0 → (∀ x ∈ s.pkg.launches, x.place = []) →
      ∀ x ∈ (s.cancelToken p token none).pkg.launches, ¬ (x.part = p ∧ x.cancel = token ∧ x.st ≠ .flushing)) ∧
    (∀ d, s.partAt p = some d → p < 8 → NoContexts s → s.pkg.wire = [] → s.pkg.inval = 0 →
      let drop := fun (i : Instr) (named : TlbEntry → Prop) => ∃ t, exec i s = .next (ok t) ∧
        (∀ e, e ∈ t.core.tlb ↔ e ∈ s.core.tlb ∧ ¬ (e.pid = d.pid ∧ named e)) ∧ t.pkg.hbm = s.pkg.hbm ∧ t.host = s.host
      let inRange := fun (page : Nat) => leField c 24 8 / 2 ^ 16 ≤ page ∧ page < leField c 24 8 / 2 ^ 16 + leField c 20 4
      let asid := BitVec.ofNat 16 (leField c 16 2)
      (Asked s p 7 c → drop .evInvalVa fun e => e.asid = asid ∧ inRange e.vpage) ∧
      (Asked s p 8 c → drop .evInvalAsid fun e => e.asid = asid) ∧
      (Asked s p 9 c → drop .evInvalS2 fun e => inRange (e.gpa / 2 ^ 16))) ∧
    (let page := 2 ^ 35 + s.arg.base.toNat % 2 ^ 35
     (s.arg.ok = false → NoContexts s → ∃ t, exec .evAtsInvalidation s = .next t ∧ t.pkg.hbm = s.pkg.hbm ∧ t.host = s.host ∧
       (s.arg.pid, page) ∈ t.pkg.atsWait ∧ NatSet.has t.pkg.atsOk (s.arg.pid.toNat * 2 ^ 52 + page) = false ∧
       ∀ e, e ∈ t.core.tlb ↔ e ∈ s.core.tlb ∧ ¬ (e.pid = s.arg.pid ∧ e.dpage = page)) ∧
     (s.arg.ok = true → NoContexts s → s.pkg.wire = [] → ∃ t, exec .evAtsInvalidation s = .next t ∧ OnlyPackage s t ∧
       ∀ x, x ∈ t.pkg.atsWait ↔ x ∈ s.pkg.atsWait ∧ x ≠ (s.arg.pid, page))) ∧
    (∀ d, s.partAt p = some d → (let m := leField c 16 1
      (Asked s p 10 c → m < 16 → d.mboxMask.getLsbD m = true → s.pkg.tdi.toList.getD p .unlocked ≠ .error → ∃ t, exec .evMboxOpen s = .next (ok t) ∧
        OnlyPackage s t ∧ ∀ n < 16, t.pkg.mboxOpen.getLsbD n = (s.pkg.mboxOpen.getLsbD n || decide (n = m))) ∧
      (Asked s p 11 c → m < 16 → d.mboxMask.getLsbD m = true → ∃ t, exec .evMboxClose s = .next (ok t) ∧
        OnlyPackage s t ∧ ∀ n < 16, t.pkg.mboxOpen.getLsbD n = (s.pkg.mboxOpen.getLsbD n && decide (n ≠ m))) ∧
      (Asked s p 10 c → d.mboxMask.getLsbD m = false → exec .evMboxOpen s = .next (s.cmdReply p 4)))) ∧
    (∀ cap, Asked s p 12 c → p < 8 → s.schedCap p (leField c 16 8) = some cap → schedCapOk cap = true → s.schedObject cap = true → 0 < capPages cap →
      ∃ t, exec .evSchedule s = .next (ok t) ∧ OnlyPackage s t ∧ t.schedule p = (match s.schedule p with
        | none => some ⟨cap, some (BitVec.ofNat 64 (leField c 24 8)), none, none, [], [], none⟩
        | some x => some { x with replace := some (cap, BitVec.ofNat 64 (leField c 24 8)) })) ∧
    (∃ t, exec .evEventRingConsume s = .next t ∧ OnlyPackage s t ∧ RegsBut s t [0x2018 + 32 * s.arg.p.toNat] ∧
      wbits (t.evtCons s.arg.p.toNat) 31 0 = wbits s.arg.v 31 0 ∧ wbits (t.evtCons s.arg.p.toNat) 63 32 = wbits (s.evtCons s.arg.p.toNat) 63 32) ∧
    (s.arg.p.toNat = p → s.pkg.stopped = false → s.evtFull p = false → (∃ x ∈ s.pkg.events, x.1 = p ∧ s.pkg.afterCmpl x = false) →
      ∃ t pre e post, exec .evEventRecordWrite s = .next t ∧ s.pkg.events = pre ++ (p, e) :: post ∧
        (∀ x ∈ pre, x.1 = p → s.pkg.afterCmpl x = false → eventSource x ≠ eventSource (p, e)) ∧ t.pkg.events = pre ++ post ∧ t.evtProd p = s.evtProd p + 1 ∧
        t.ctx = s.ctx ∧ t.core = { s.core with l1 := t.core.l1 }) ∧
    (s.arg.p.toNat = p → s.evtFull p = true → (∀ x ∈ s.pkg.events, x.1 = p → droppable x = false) →
      exec .evEventRecordWrite s = .next s)

/-- R384, R389 to R394: the SPDM requests are answered in their order, each by its response, and change what they name; outside a session,
or before the connection is set up, they are refused; the owner's vendor messages act on its partition's keys; the TDISP states. (Codes and order of
SPDM 1.3, which the manual names, are PRESUMED, log 21.) -/
def Obligations.ManagementEventsComplete : Prop :=
  ∀ s : State,
    let a := s.arg
    let m := s.pkg.spdm
    let after := fun (i : Instr) (p : State → Prop) => ∃ t, exec i s = .next t ∧ OnlyPackage s t ∧ p t
    let error := fun (t : State) (code data : BitVec 8) => t.pkg = { s.pkg with spdm := { m with answer := [0x13, 0x7F, code, data] } }
    let same := fun (t : State) => spdmKept t.pkg.spdm m
    let open_ := fun (x : Session) => m.session a.session = some x ∧ x.open_ = true
    (after .evGetVersion fun t => Answered t 0x04 ∧ t.pkg.spdm.version = true ∧ t.pkg.spdm.caps = false ∧ t.pkg.spdm.algs = false) ∧
    (after .evGetCapabilities fun t => if m.version then Answered t 0x61 ∧ t.pkg.spdm.caps = true else error t 4 0) ∧
    (m.caps = true → after .evNegotiateAlgorithms fun t =>
      if a.asym.getLsbD 7 && a.hash.getLsbD 1 && a.dhe.getLsbD 4 && a.aead.getLsbD 1 && a.meas.getLsbD 0 then
        Answered t 0x63 ∧ t.pkg.spdm.algs = true else error t 1 0) ∧
    (m.algs = false → ∀ i ∈ [Instr.evGetDigests, .evGetCertificate, .evChallenge, .evGetMeasurements, .evSetCertificate, .evGetCsr,
      .evKeyExchange, .evFinish, .evHeartbeat, .evKeyUpdate, .evEndSession, .evChunkSend, .evChunkGet], after i fun t => error t 4 0) ∧
    (after .evUnsupportedRequest fun t => error t 7 a.code) ∧
    (m.algs = true →
      (after .evGetDigests fun t => Answered t 0x01 ∧ same t) ∧
      (a.off.toNat < (m.chain a.chain).length → after .evGetCertificate fun t => Answered t 0x02 ∧ same t) ∧
      (m.chain a.chain ≠ [] → after .evChallenge fun t => Answered t 0x03 ∧ same t) ∧
      (m.chain a.chain ≠ [] → a.index.toNat ≤ 11 ∨ a.index = 0xFF → after .evGetMeasurements fun t => Answered t 0x60 ∧ same t) ∧
      (after .evGetCsr fun t => Answered t 0x6D ∧ same t) ∧
      (a.chain = 0 → after .evSetCertificate fun t => error t 1 0) ∧
      (a.chain ≠ 0 → after .evSetCertificate fun t => Answered t 0x6E ∧ t.pkg.spdm.chain a.chain = a.data ∧
        t.pkg.spdm.gen a.chain = m.gen a.chain + 1 ∧ ∀ x, x ≠ a.chain → t.pkg.spdm.chain x = m.chain x ∧ t.pkg.spdm.gen x = m.gen x) ∧
      (m.chain a.chain ≠ [] → after .evKeyExchange fun t => Answered t 0x64 ∧
        ∃ x, t.pkg.spdm.sessions = m.sessions ++ [x] ∧ x.open_ = false ∧ x.owns = none ∧ x.id = BitVec.ofNat 32 m.nextId) ∧
      (∀ x, m.session a.session = some x → x.open_ = false → after .evFinish fun t =>
        if Config.hmac x.secret (Config.sha384 x.transcript) = a.verify then
          Answered t 0x65 ∧ ∃ y, t.pkg.spdm.session a.session = some y ∧ y.open_ = true ∧ y.owns = x.owns ∧ y.secret = x.secret
        else t.pkg.spdm.answer = [0x13, 0x7F, 6, 0] ∧ t.pkg.spdm.session a.session = none) ∧
      (∀ x, open_ x →
        (after .evHeartbeat fun t => Answered t 0x68 ∧ same t) ∧
        (a.code = 1 ∨ a.code = 2 → after .evKeyUpdate fun t => Answered t 0x69 ∧
          ∃ y, t.pkg.spdm.session a.session = some y ∧ y.secret = Config.hkdf x.secret [] 48 ∧ y.open_ = true) ∧
        (after .evEndSession fun t => Answered t 0x6C ∧ t.pkg.spdm.session a.session = none)) ∧
      (m.chunkIn = none → a.seq = 0 → a.last = false → after .evChunkSend fun t => t.pkg.spdm.chunkIn = some (0, a.data)) ∧
      (∀ n b, m.chunkIn = some (n, b) → a.seq = n + 1 → after .evChunkSend fun t =>
        t.pkg.spdm.chunkIn = if a.last then none else some (n + 1, b ++ a.data)) ∧
      (∀ n b, m.chunkOut = some (n, b) → a.seq = n → after .evChunkGet fun t =>
        t.pkg.spdm.answer = [0x13, 0x06, 0, 0] ++ leBytes 2 n.toNat ++ b.take Config.spdmSize ∧
        (b.length ≤ Config.spdmSize → t.pkg.spdm.chunkOut = none))) ∧
    (∀ x, open_ x → a.firmware = false → a.data.take 5 ≠ [3, 0, 2] ++ leBytes 2 Config.vendorId.toNat →
      ∀ i ∈ [Instr.evOwnerAuth, .evSetKey, .evClearKey], after i fun t => error t 7 0xFE) ∧
    (∀ x p d (pl : List Byte), open_ x → pl.length < 2 ^ 16 → a.data = [3, 0, 2] ++ leBytes 2 Config.vendorId.toNat ++ leBytes 2 pl.length ++ pl → (
      s.pidSlot (leField pl 2 2) = some p → s.partAt p = some d → s.tdiOf p ≠ .error →
      (let e := s.devBytes d.signTab.toNat 256
       let dig := Config.sha384 ([0x56, 0x4C, 0x58, 0x2D, 0x4F, 0x57, 0x4E, 0x45, 0x52] ++ Config.sha384 x.transcript)
       vendorOk pl 1 (fun n => decide (104 < n)) = true → leField pl 4 4 = 0 → after .evOwnerAuth fun t =>
        if leField e 0 1 % 2 = 1 ∧ Config.ecdsaVerify (sliceBytes e 0x10 97) dig (sliceBytes pl 8 96) = true ∧
            Config.lmsVerify (sliceBytes e 0x80 56) dig (pl.drop 104) = true then
          VendorStatus t pl 0 ∧ ∃ y, t.pkg.spdm.session a.session = some y ∧ y.owns = some d.pid
        else VendorStatus t pl 4) ∧
      (x.owns = some (BitVec.ofNat 12 (leField pl 2 2)) →
        (let slot := leField pl 4 1
         d.keyLo.toNat ≤ slot → slot ≤ d.keyHi.toNat →
          (∀ k, keyKind (leField pl 5 1) = some k → vendorOk pl 2 (· == 72) = true → leField pl 6 2 = 0 → (k = .xts ∨ leField pl 40 32 = 0) →
            a.firmware = false → after .evSetKey fun t => VendorStatus t pl 0 ∧
              t.pkg.keys.find? (·.1 == slot) = some (slot, k, sliceBytes pl 8 (if k = .xts then 64 else 32))) ∧
          (vendorOk pl 3 (· == 8) = true → leField pl 5 3 = 0 → after .evClearKey fun t => VendorStatus t pl 0 ∧
            t.pkg.keys.find? (·.1 == slot) = none))))) ∧
    (∀ k, a.firmware = true → keyKind (leField a.data 5 1) = some k → after .evSetKey fun t => t.pkg.spdm = m ∧
      t.pkg.keys.find? (·.1 == leField a.data 4 1) = some (leField a.data 4 1, k, sliceBytes a.data 8 (if k = .xts then 64 else 32))) ∧
    (∀ x, open_ x → x.owns ≠ none → after .evIdeKm fun t => t.pkg.spdm.ide.find? (·.1 == a.stream) = some (a.stream, a.verify)) ∧
    (∀ p, s.pidSlot a.pid.toNat = some p →
      (s.tdiOf p = .unlocked → ∃ t, exec .evLockInterface s = .next t ∧ t.tdiOf p = .locked ∧ (∀ d, t.partAt p = some d → d.locked = true) ∧
        (a.boot = none → OnlyPackage s t)) ∧
      (∀ d, s.partAt p = some d → d.locked = true → s.tdiOf p = .unlocked → ∃ t, exec .evLockInterface s = .next t ∧ t.partAt p = some d) ∧
      (s.tdiOf p = .locked → after .evTdiRun fun t => t.tdiOf p = .run) ∧
      (s.tdiOf p = .error → after .evStopInterface fun t => t.tdiOf p = .unlocked) ∧
      (s.tdiOf p = .locked ∨ s.tdiOf p = .run → s.pkg.launches = [] → ∀ d, s.partAt p = some d →
        ∀ i ∈ [Instr.evStopInterface, .evTdiError], after i fun t => t.tdiOf p = .error ∧ t.pkg.mboxOpen = s.pkg.mboxOpen &&& ~~~d.mboxMask ∧
          ∀ e ∈ t.pkg.keys, ¬ (d.keyLo.toNat ≤ e.1 ∧ e.1 ≤ d.keyHi.toNat)))

namespace Sys2Proof.Claims
open Sys2Proof.Machine

/-- No unfinished launch of this name is left. -/
def Gone (t : State) (l : Launch) : Prop := ∀ x ∈ t.pkg.launches, ¬ (x.part = l.part ∧ x.id = l.id)

/-- Nothing but the package's scheduler state differs. -/
def OnlySched (s t : State) : Prop := t = { s with pkg := { s.pkg with sched := t.pkg.sched } }

end Sys2Proof.Claims

/-- R345 to R353, R256, R257, R364: a mailbox's next record is accepted or rejected; a dispatch decision places the best eligible record that
can be placed, every 64th the oldest or a reservation for it; the dictionary is loaded and the contexts become resident, then
issuable; a record passed over 64 times asks lower launches for pre-emption; a launch completes core by core, is flushed and
ends; a cancellation ends every launch of its token. (Which launch is asked, and when, log 45.) -/
def Obligations.LaunchEventsComplete : Prop :=
  ∀ (s : State) (l : Launch),
    let a := s.arg
    let p := a.p.toNat
    (let m := a.mbox.toNat
     let b := s.mboxBase m
     let cons := s.cpLe (b + 4) 4
     let ahead := fun (n : Nat) => 0 < (n + 2 ^ 32 - cons) % 2 ^ 32 ∧ (n + 2 ^ 32 - cons) % 2 ^ 32 < 2 ^ 31
     let ready := s.pkg.mboxOpen.getLsbD m = true ∧ s.devOk b 64 = true ∧ ahead (wbits (s.pkg.reg (0x1000 + 16 * m)) 31 0) ∧ ahead (s.cpLe b 4)
     let s' := s.cpPut (b + 4) (leBytes 4 (cons + 1))
     (s.mboxPart m = none ∨ ¬ ready → exec .evLaunchRecord s = .next s) ∧
     (∀ k, s.mboxPart m = some k → ready →
       l = s.newLaunch k (s.cpBytes (b + 64 + 128 * (cons % 2 ^ s.cpLe (b + 8) 1)) 128) (BitVec.ofNat 16 (s.cpLe (b + 12) 2)) false →
       ∃ t, exec .evLaunchRecord s = .next t ∧ t.ctx = s.ctx ∧
         if s'.badRecord l then t.pkg.launches = s.pkg.launches ∧ t.pkg.cpSeq = s.pkg.cpSeq + 1
         else t.pkg.launches = s.pkg.launches ++ [l] ∧ t.host = s'.host ∧ t.pkg.hbm = s'.pkg.hbm)) ∧
    (∀ x, s.pkg.sched.toList[p]? = some x →
      (let fits := fun (r : Launch) => (s.placeable r (s.freeSet p)).isSome
       let can := fun (r : Launch) => r ∈ s.pkg.launches ∧ r.part = p ∧ s.eligible r = true
       (x.due = 0 → exec .evDispatchDecision s = .next s) ∧
       (0 < x.due → (∀ r, ¬ can r) → ∃ t, exec .evDispatchDecision s = .next t ∧ OnlySched s t ∧
         (t.pkg.sched.toList[p]?).map (fun y => (y.due, y.dc)) = some (x.due - 1, x.dc + 1)) ∧
       (∀ cores, 0 < x.due → x.res = none → (x.dc + 1).toNat % 64 ≠ 0 → can l → s.placeable l (s.freeSet p) = some cores →
         (∀ r, can r → fits r = true → r ≠ l → Launch.better l r = true) →
         ∃ u, OnlySched s u ∧ exec .evDispatchDecision s = .next (u.place l cores)) ∧
       (∀ cores, 0 < x.due → x.res = none → (x.dc + 1).toNat % 64 = 0 → can l → (∀ r, can r → r ≠ l → l.seq < r.seq) →
         s.placeable l (s.freeSet p) = some cores → ∃ u, OnlySched s u ∧ exec .evDispatchDecision s = .next (u.place l cores)) ∧
       (0 < x.due → x.res = none → (x.dc + 1).toNat % 64 = 0 → can l → (∀ r, can r → r ≠ l → l.seq < r.seq) →
         s.placeable l (s.freeSet p) = none → ∃ t, exec .evDispatchDecision s = .next t ∧ OnlySched s t ∧
           (t.pkg.sched.toList[p]?).map (fun y => y.res) = some (some (l.id, s.target l))))) ∧
    (∀ cores, l ∈ s.pkg.launches →
      let t := s.place l cores
      (∃ x ∈ t.pkg.launches, x.part = l.part ∧ x.id = l.id ∧ x.st = .loading ∧ x.place.map (·.1) = cores) ∨ (l.pinned = false ∧ Gone t l)) ∧
    (s.findLaunch p a.launch = some l →
      let cls := l.place.map fun x => x.1.toNat / 4
      let lack := cls.filter fun c => (s.dictIn l c).isNone
      let w := s.dictWords l
      (l.st ≠ .loading ∨ (∃ c ∈ cls, s.pkg.gated.getLsbD c = true) → exec .evDictionaryLoad s = .next s) ∧
      (l.st = .loading → (∀ c ∈ cls, s.pkg.gated.getLsbD c = false) →
        (∀ c ∈ lack, ((s.pkg.dicts.filter fun e => s.dictUsed e && e.cluster == c).map fun e => e.words.length).sum + w.length ≤ 16384) →
        ∃ t, exec .evDictionaryLoad s = .next t ∧
          let h := fun off n => leField l.header off n
          if l.pinned = false ∧ ((lack ≠ [] ∧ (s.devGood (l.segment + h 0x20 8) (48 * h 0x1C 4) = false ∨
                Config.sha384 (w.flatMap fun x => leBytes 48 x.toNat) ≠ sliceBytes l.header 0x80 48)) ∨
              s.devGood (l.f 0x28 8) 256 = false ∨ s.devGood (l.f 0x30 8) 256 = false) then Gone t l
          else (∀ c ∈ cls, (t.dictIn l c).isSome = true) ∧ (t.findLaunch l.part l.id).map (fun x => x.st) = some .resident)) ∧
    (s.launchHere = some l → s.ctx.live = true → s.ctx.issuable = false → l.st = .resident →
      (∀ v ∈ s.pkg.saved, ¬ (v.part = l.part ∧ v.launchId = l.id)) →
      let log := s.pkg.logs.find? (sameLog ⟨l.id, l.part, s.coreNum, 0, none, 0, []⟩)
      let c := if l.preds.any (· != 0) then s.ctx.acquireAll 2 s.clock else s.ctx
      (log = none → exec .evLaunchIssuable s = .next { s with ctx := { c with issuable := true } }) ∧
      (∀ g, log = some g → g.writes = [] → ∃ t, exec .evLaunchIssuable s = .next t ∧ t.ctx = { c with issuable := true } ∧
        ∀ x, x ∈ t.pkg.logs ↔ x ∈ s.pkg.logs ∧ sameLog g x = false)) ∧
    (s.launchHere = none ∨ s.ctx.issuable = true → exec .evLaunchIssuable s = .next s) ∧
    (∀ x id n r, s.pkg.sched.toList[p]? = some x → x.first = some (id, n) → s.findLaunch p id = some r →
      (let lower := fun (y : Launch) => y ∈ s.pkg.launches ∧ y.part = r.part ∧ y.st = .resident ∧ y.preempt = false ∧ y.prio < r.prio ∧
         ∃ c ∈ y.place, ((s.target r).elem c.1 = true ∧ s.willFree c.1 = false) ∨ ∃ b ∈ s.needsBanks r, s.keepsBank b c = true
       (n < 64 ∨ r.prio < 56 ∨ s.eligible r = false ∨ s.willPlace r (s.target r) = true → exec .evPriorityPreempt s = .next s) ∧
       (64 ≤ n → 56 ≤ r.prio → s.eligible r = true → lower l →
         (∀ y, lower y → y ≠ l → l.prio < y.prio ∨ (l.prio = y.prio ∧ l.seq < y.seq)) →
         ∃ t, exec .evPriorityPreempt s = .next t ∧ ∃ y ∈ t.pkg.launches, y.part = l.part ∧ y.id = l.id ∧ y.preempt = true))) ∧
    (s.launchHere = some l →
      (s.coreDone = false → exec .evLaunchComplete s = .next s) ∧
      (let all := l.place.all fun y => (s.coreNum :: l.done).elem y.1
       s.coreDone = true → ∃ t, exec .evLaunchComplete s = .next t ∧ t.ctx = .none ∧
        if all = true ∧ l.reports = false ∧ l.step = 0 then Gone t l
        else { l with done := s.coreNum :: l.done, st := if all then .flushing else l.st } ∈ t.pkg.launches)) ∧
    (s.findLaunch p a.launch = some l →
      (l.st ≠ .flushing ∨ s.flushDue l = false ∨ s.flushQuiet l = false → exec .evReleaseFlush s = .next s) ∧
      (l.st = .flushing → s.flushDue l = true → s.flushQuiet l = true → ∃ t, exec .evReleaseFlush s = .next t ∧ Gone t l ∧ t.ctx = s.ctx ∧
        (l.reports = true → t.pkg.cpSeq = s.pkg.cpSeq + 1))) ∧
    (a.raiser = none → a.token ≠ 0 → (∀ x ∈ s.pkg.launches, x.place = []) → ∃ t, exec .evCancellation s = .next t ∧
      ∀ x ∈ t.pkg.launches, ¬ (x.part = p ∧ x.cancel = a.token ∧ x.st ≠ .flushing)) ∧
    (∀ id c, a.raiser = some id → (s.pkg.cancels.find? fun c => c.part == p && c.launch == id) = some c →
      (∀ x ∈ s.pkg.launches, x.place = []) → ∃ t, exec .evCancellation s = .next t ∧ (∀ x ∈ t.pkg.cancels, x ∈ s.pkg.cancels.erase c) ∧
        ∀ x ∈ t.pkg.launches, ¬ (x.part = p ∧ x.id = id ∧ x.st ≠ .flushing))

/-- R79, R397, R402, R413 to R416, R365, R455: the events of a context. A ready bundle's operations enter their slots' queues, a fault of its
decoding is held, or its boundary is asked to commit first; a commit moves the checkpoint to the boundary; a pending fault is held
before the next bundle; pre-emption parks the context at a committed boundary or after a rollback; a parked context is saved and
comes back as it was; a tagged wait ends or times out with WAIT_TIMEOUT (0x34). (What an `ldf.take` that a commit waits in does, log 63; an
image's place and bytes, log 74.) -/
def Obligations.ContextEventsComplete : Prop :=
  ∀ s : State,
    let c := s.ctx
    (s.canDispatch = false → exec .evBundleDispatch s = .next s) ∧
    (s.canDispatch = true → c.stepping = true → c.atCkpt = false →
      exec .evBundleDispatch s = .next { s with ctx := { c with endCkpt := some ⟨false, false, false, false, false⟩ } }) ∧
    (s.canDispatch = true → c.stepping = false ∨ c.atCkpt = true →
      (∀ u h, s.fetch = .error (u, h) → exec .evBundleDispatch s = .next { u with ctx := { u.ctx with trap := some h } } ∧
        u = { s with ctx := { c with
          regs := u.ctx.regs
          ckpt := u.ctx.ckpt
          image := u.ctx.image
          backPoint := u.ctx.backPoint
          breakOnce := u.ctx.breakOnce }, pkg := { s.pkg with launches := u.pkg.launches } }) ∧
      (∀ u b, s.fetch = .ok (u, b) → u.ctx.atCkpt = true ∨ u.wish b = none → ∃ t, exec .evBundleDispatch s = .next t ∧
        t.ctx.seq = c.seq + 1 ∧ t.ctx.atCkpt = false ∧ (∀ o ∈ b.ops, o.1 ≠ .c → (∀ q n, o.2 ≠ .vSkip q n) →
          ∃ x ∈ t.ctx.queue, x.instr = o.2 ∧ x.id.slot = o.1 ∧ x.id.seq = c.seq ∧ x.id.pc = u.ctx.regs.pc)) ∧
      (∀ u b r, s.fetch = .ok (u, b) → u.ctx.atCkpt = false → u.wish b = some r →
        exec .evBundleDispatch s = .next { u with ctx := { u.ctx with endCkpt := some r } })) ∧
    (c.commit = none → c.endCkpt = none → exec .evCheckpointCommit s = .next s) ∧
    (∀ r, c.commit = none → c.endCkpt = some r → c.queue = [] → c.trap = none → c.fault = [] → c.hold = .no → c.buffer = [] →
      ∃ t, exec .evCheckpointCommit s = .next t ∧ t.ctx.ckpt = c.regs ∧ t.ctx.regs = c.regs ∧ t.ctx.commit = none ∧ t.ctx.endCkpt = none ∧
        t.ctx.atCkpt = true ∧ t.ctx.shadow = 0 ∧ t.ctx.ckstat = ckstatNext c.ckstat r ∧ t.ctx.hold = (if r.exit then .exited else .no) ∧
        (t.ctx.trap.map (fun h => h.info.code) = if c.stepping then some 0x3A else none)) ∧
    (c.fault = [] → exec .evAsyncFaultReport s = .next s) ∧
    (∀ h, firstFault c.fault = some h → c.hold ≠ .held → c.parked = false → c.issuable = true → c.trap = none →
      exec .evAsyncFaultReport s = .next { s with ctx := { c with fault := [], trap := some { h with seq := c.seq, rank := 0 } } }) ∧
    (s.canPark = false → exec .evPreemptByBoundary s = .next s) ∧
    (s.canPark = true → c.atCkpt = true → exec .evPreemptByBoundary s = .next { s with ctx := { c with parked := true } }) ∧
    (s.canPark = true → c.atCkpt = false → c.buffer = [] → c.stepping = false → ∃ t, exec .evPreemptByBoundary s = .next t ∧
      t.ctx.parked = true ∧ t.ctx.ckpt = c.regs ∧ t.ctx.regs = c.regs ∧
      ∀ n x, (n, x) ∈ c.tags → x.st = .held → (n, { x with fresh := false }) ∈ t.ctx.tags) ∧
    (c.live = true → c.issuable = true → c.preempt = true → c.parked = false → c.commit = none ∨ s.tagged ≠ none →
      (c.hold = .no → ∃ t, exec .evPreemptByRollback s = .next t ∧ t.ctx.parked = true ∧ t.ctx.regs = c.ckpt ∧ t.ctx.buffer = [] ∧
        t.ctx.queue = c.longCkpt.toList.map (fun l => l.op) ∧ t.ctx.trap = none) ∧
      (c.hold = .held → exec .evPreemptByRollback s = .next { s with ctx := { c with parked := true } }) ∧
      (c.hold = .exited → exec .evPreemptByRollback s = .next s)) ∧
    (c.preempt = false → exec .evPreemptByRollback s = .next s) ∧
    (∀ l, s.launchHere = some l →
      (l.st ≠ .resident ∨ (∃ x ∈ l.left, (s.focus x.1 x.2).canSave = false) → exec .evContextSave s = .next s) ∧
      (l.st = .resident → (∀ x ∈ l.left, (s.focus x.1 x.2).canSave = true) → (l.left.map (·.1)).Nodup → (s.coreNum, s.slotNum) ∈ l.left →
        ∃ t, exec .evContextSave s = .next t ∧ t.ctx = .none ∧ (∀ x ∈ l.left, (t.focus x.1 x.2).ctx = .none) ∧
        ∃ v ∈ t.pkg.saved, v.ctx = c ∧ v.core = s.coreNum ∧ v.part = c.info.part.toNat ∧ v.launchId = c.info.launchId) ∧
      (let vs := s.pkg.saved.filter fun v => v.part == l.part && v.launchId == l.id
       ∀ v ∈ vs, v.core = s.coreNum → l.st = .resident → c.issuable = false → (vs.map (·.core)).Nodup →
        (s.arg.ok = true → (∀ x ∈ vs, s.imageBad x = false) → (l.place.find? fun x => x.1 == s.coreNum) = some (s.coreNum, s.slotNum) →
          ∃ t, exec .evContextRestore s = .next t ∧ t.ctx = restoredCtx v s.slotNum ∧
          t.ctx.regs = v.ctx.regs ∧ t.ctx.ckpt = v.ctx.ckpt ∧ t.ctx.parked = false ∧ ∀ x ∈ t.pkg.saved, x ∉ vs) ∧
        (s.arg.ok = false ∨ (∃ x ∈ vs, s.imageBad x = true) → (∀ x ∈ vs, x.ctx.info.part.toNat = l.part ∧ x.ctx.info.launchId = l.id) →
          s.pkg.stopped = false → ∃ t, exec .evContextRestore s = .next t ∧ Gone t l))) ∧
    (s.launchHere = none → exec .evContextSave s = .next s ∧ exec .evContextRestore s = .next s) ∧
    exec .evTaggedWaitSatisfied s = .next { s with ctx := { c with waiting := none } } ∧
    (s.tagged = none → exec .evWaitTimeout s = .next s) ∧
    (∀ id, c.waiting = some id → (∃ o ∈ c.queue, o.id = id) → s.tagged = some id) ∧
    (∀ id, s.tagged = some id → c.waitLimit id = 0 → exec .evWaitTimeout s = .next s) ∧
    (∀ id, s.tagged = some id → c.waitLimit id ≠ 0 → c.trap = none →
      ∃ h, exec .evWaitTimeout s = .next { s with ctx := { c with trap := some h } } ∧ h.info.code = 0x34 ∧ h.pc = id.pc ∧ h.seq = id.seq)

/-- R402 to R407, R418, R182, R302, Tables 16.4, 16.5: taking a trap. Unless the fault is kept the context's registers return to the
checkpoint, nothing of it stays withheld or queued, its call serial is 0, ROLLBACKS counts one more, a tile that changed is emptied and
filled again, and a copy command issued since is cancelled; the record holds what Table 16.4 gives and goes to the event ring; then the
default response: held for the host, tried again, cancelled or killed; a lost step as well after UNCORRECTABLE of DATA or for the third
time of STATE. (Which operand DATA shows, but for NONFINITE, is a free value, log 32; what a refill reads through, log 31.) -/
def Obligations.TrapRollbackAndResponse : Prop :=
  ∀ (s : State) (h : Held),
    let c := s.ctx
    let code := h.info.code
    let record := fun (t : State) => t.ctx.trap = none ∧ wbits t.ctx.trapRec[0] 31 24 = code ∧ wbits t.ctx.trapRec[0] 23 16 = h.info.sub ∧
      t.ctx.trapRec[0].getLsbD 14 = h.kept ∧ wbits t.ctx.trapRec[1] 63 32 = h.pc.toNat ∧ wbits t.ctx.trapRec[1] 31 0 = c.ckpt.pc.toNat ∧
      t.ctx.trapRec[2] = h.info.addr ∧ t.ctx.trapRec[0].getLsbD 15 = h.async ∧ wbits t.ctx.trapRec[0] 13 7 = h.exe.toNat ∧
      wbits t.ctx.trapRec[0] 6 4 = h.slot ∧ t.ctx.trapRec[0].getLsbD 3 = s.slotNum ∧ wbits t.ctx.trapRec[0] 2 0 = 0 ∧
      (h.info.elem < 2 ^ 32 → h.info.info < 2 ^ 16 → wbits t.ctx.trapRec[3] 63 32 = h.info.elem ∧ wbits t.ctx.trapRec[3] 31 16 = h.info.info ∧
        wbits t.ctx.trapRec[3] 15 0 = 0) ∧ wbits t.ctx.trapRec[4] 63 32 = c.info.launchId.toNat ∧ wbits t.ctx.trapRec[4] 31 0 = c.info.cancel.toNat ∧
      t.ctx.trapRec[5] = 0 ∧ t.ctx.trapRec[7] = 0 ∧ (c.conf = true → t.ctx.trapRec[6] = 0) ∧
      (c.conf = false → code = 0x30 → t.ctx.trapRec[6] = h.info.data)
    let tileBack := fun (t : State) => ∀ r : TReg,
      let e := c.tiles[r.toNat]'r.isLt
      let k := c.tileCkpt[r.toNat]'r.isLt
      let d := c.ckpt.t[r.toNat]'r.isLt
      let x := t.ctx.tiles[r.toNat]'r.isLt
      let changed := e.fresh = true ∨ e.st ≠ k.st ∨ c.regs.t[r.toNat]'r.isLt ≠ d
      let here := shSph (dShape d) = true ∨ shRole (dShape d) = 2
      (¬ changed → k.st ≠ .retiring → x = e) ∧ (changed → k.st = .empty → x.st = .empty) ∧
      (changed → k.st = .filling ∨ k.st = .ready → x.op = k.op ∧ x.cap = k.cap ∧ x.cls = k.cls ∧ x.ser = k.ser ∧
        (here → x.st = .ready ∧ x.filled = true) ∧ (¬ here → x.st = .filling ∧ x.filled = false ∧ x.retire = false ∧ x.lines = descLines d)) ∧
      (changed → k.st = .retiring → ¬ here → x.st = .filling ∧ x.filled = false ∧ x.retire = true)
    let tagsBack := fun (t : State) => ∀ n x, (n, x) ∈ c.tags →
      let y := { x with st := .cancelled, done := 0, left := [] }
      (x.fresh = false ∨ tagBusy x = false → (n, x) ∈ t.ctx.tags) ∧
      (x.fresh = true → x.st = .held → (n, y) ∈ t.ctx.tags) ∧
      (x.fresh = true → x.st = .running → (n, if s.copyOut n x then { x with left := [], ending := some .cancelled } else
        { x with st := .cancelled, left := [] }) ∈ t.ctx.tags)
    let back := fun (t : State) => t.ctx.regs = c.ckpt ∧ t.ctx.ckpt = c.ckpt ∧ t.ctx.buffer = [] ∧
      t.ctx.queue = c.longCkpt.toList.map (fun l => l.op) ∧ t.ctx.saved = [] ∧
      t.ctx.waiting = none ∧ t.ctx.atCkpt = true ∧ t.ctx.serial = 0 ∧ t.ctx.released = c.relCkpt ∧ t.ctx.brels = 0 ∧ t.ctx.shadow = 0 ∧
      wbits t.ctx.status 47 32 = (wbits c.status 47 32 + 1) % 2 ^ 16 ∧ t.ctx.ckstat = c.ckstat ∧ t.ctx.tokSeq = c.tokSeq ∧
      t.ctx.arrived = c.arrived ∧ t.ctx.micro = c.micro ∧ t.ctx.progidx = c.progidx ∧ t.ctx.domain = c.domain ∧ t.ctx.window = c.window ∧
      t.ctx.wallow = c.wallow ∧ t.peer = s.peer ∧ tagsBack t ∧ (c.exited = false → tileBack t)
    let sent := fun (t : State) => ∃ e, t.pkg.events.getLast? = some (c.info.part.toNat, e) ∧ leField e 0 1 = 1 ∧
      leField e 16 8 = t.ctx.trapRec[0].toNat ∧ leField e 24 8 = t.ctx.trapRec[1].toNat
    let waits := s.pkg.stopped = true ∨ code ∈ [0x13, 0x1C, 0x38, 0x39, 0x3A]
    (c.trap = none → exec .evTrapRollback s = .next s) ∧
    (c.trap = some h → code < 256 → h.info.sub < 256 → h.slot < 8 →
      (waits → h.kept = false → ∃ t, exec .evTrapRollback s = .next t ∧ record t ∧ back t ∧ sent t ∧ t.ctx.hold = .held) ∧
      (waits → h.kept = true → ∃ t, exec .evTrapRollback s = .next t ∧ record t ∧ sent t ∧ t.ctx.hold = .held ∧ t.ctx.regs = c.regs ∧
        t.ctx.ckpt = c.ckpt ∧ t.ctx.buffer = c.buffer ∧ t.ctx.queue = c.queue) ∧
      (s.pkg.stopped = false → code = 0x40 → h.info.sub = 1 → h.kept = false → c.unc < 2 → c.exited = false →
        ∃ t, exec .evTrapRollback s = .next t ∧ record t ∧ back t ∧ t.ctx.hold = .no ∧ t.ctx.unc = c.unc + 1 ∧
          wbits t.ctx.status 31 24 = 0x40) ∧
      (s.pkg.stopped = false → code = 0x30 → h.kept = false → ∃ t, exec .evTrapRollback s = .next t ∧ record t ∧ back t ∧ t.ctx.hold = .held ∧
        ∃ x ∈ t.pkg.cancels, x.part = c.info.part.toNat ∧ x.token = c.info.cancel ∧ x.launch = c.info.launchId) ∧
      (∀ l, s.pkg.stopped = false → s.launchHere = some l → code ∉ [0x13, 0x1C, 0x38, 0x39, 0x3A, 0x30, 0x40] →
        ∃ t, exec .evTrapRollback s = .next t ∧ Gone t l) ∧
      (∀ l, s.pkg.stopped = false → s.launchHere = some l → h.kept = false → code = 0x41 ∨ (code = 0x40 ∧ (h.info.sub ≠ 1 ∨ 2 ≤ c.unc)) →
        ∃ t, exec .evTrapRollback s = .next t ∧ Gone t l ∧ ∀ x a, s.schedule l.part = some x → x.current = some a →
          l.sched = true ∨ (l.step ≠ 0 ∧ a.record.step = l.step) → (l.part, .fault) ∈ t.pkg.losses))
namespace Sys2Proof.Claims
open Sys2Proof.Machine

/-- An answer of this kind has gone to the sender a write or request names: within the package, or out over the fabric. -/
def AnsweredTo (s t : State) (a : RemoteAck) : Prop :=
  if a.pkg = s.pkg.num then t.pkg.acks = s.pkg.acks ++ [a] ∧ t.pkg.answers = s.pkg.answers
  else t.pkg.answers = s.pkg.answers ++ [a] ∧ t.pkg.acks = s.pkg.acks

/-- A remote write has performed at the core in focus (R44, R276, R277): its bytes are stored and a tagged one leaves its words full. -/
def Performed (s t : State) (w : RemoteWrite) : Prop :=
  (w.kind = .store → t.core.ram = s.core.ram.putMasked w.addr w.data ∧ t.core.full = s.core.full) ∧
  (w.kind = .ste ∨ w.kind = .stf → t.core.ram = s.core.ram.putMasked w.addr w.data ∧ t.core.full = (s.core.setFull w.addr w.data.length).full) ∧
  (w.kind = .fset → t.core.ram = s.core.ram ∧ t.core.full = (s.core.setFull w.addr w.data.length).full) ∧
  (w.kind = .fclr → t.core.ram = s.core.ram ∧ t.core.full = (s.core.setEmpty w.addr w.data.length).full)

/-- A write as its target reads it (R388): as it was sent, or, from another package between confidential contexts, opened under the LINK key
once its tag agrees. -/
def ReadAs (s : State) (w v : RemoteWrite) : Prop :=
  (w.cipher = none ∧ (w.pkg = s.pkg.num ∨ s.ctx.conf = false) ∧ v = w) ∨
  (s.ctx.conf = true ∧ ∃ c d, w.cipher = some c ∧ linkOpen s.winKey c = some d ∧ d.length = w.data.length ∧
    v = { w with data := (w.data.zip d).map fun x => x.1.map fun _ => x.2, cipher := none })

/-- No others' requests come first and the clock stands at the time the act names. -/
def Quiet (s : State) : Prop := s.arg.others = [] ∧ s.arg.now ≤ s.pkg.now

end Sys2Proof.Claims

/-- R44 to R46, R254, R233, R234, R356, R369, R388, R413, R416: a remote write at its target performs, waits in the receive queue or the
arrival log, is answered REMOTE_BOUND, or is refused and changes nothing; its acceptance lowers OUT by one; a bound answer is a KEPT
fault at its launching bundle; a remote read is answered with the target's bytes; a domain arrival counts and the last one fills the
phase word; a host's write reaches host memory and the host-visible region only, performs at its home and leaves no near copy, and
changes no signer key table; an evicted M sector's write-back performs only under its grant's version; a probe takes a line's owned
sectors and bumps its version. (Whom a read or write of a core that is not resident awaits, log 34; seals of windows, log 76; a write to a
signer key table, log 77.) -/
def Obligations.RemoteEventsComplete : Prop :=
  ∀ s : State,
    let a := s.arg
    let pidOf := fun (core : BitVec 7) => (s.corePart core).map fun (d : PartDesc) => d.pid
    (∀ w, a.write = some w → s.onWire w = false →
      (let ans := fun (t : State) (k : AckKind) => AnsweredTo s t ⟨w.pkg, w.core, w.slot, w.window, w.launch, k, w.src, none⟩
       let mine := pidOf w.target = some w.pid
       let here := mine ∧ s.findCrew w.target w.pid w.crew w.launch = some s.slotNum ∧ w.target = s.coreNum
       let inside := w.addr + w.data.length ≤ w.limit ∧ s.ctx.targetOk w.addr w.data.length = true
       let behind := s.core.recvq.any (sameStream w) = true ∨ s.core.writable w = false
       (¬ mine → ∃ t, exec .evRemoteWriteArrival s = .next t ∧ ans t .bound ∧ t.core = s.core ∧ t.ctx = s.ctx) ∧
       let sealed := w.pkg ≠ s.pkg.num ∨ w.cipher ≠ none
       (here → (∀ v, ¬ ReadAs s w v) → ∃ t, exec .evRemoteWriteArrival s = .next t ∧ ans t .bound ∧ t.core = s.core ∧ t.ctx = s.ctx) ∧
       (∀ v, here → ReadAs s w v → ¬ inside → ∃ t, exec .evRemoteWriteArrival s = .next t ∧ ans t .bound ∧ t.core = s.core ∧ t.ctx = s.ctx) ∧
       (∀ v, here → ReadAs s w v → inside → s.spOwned w.addr w.data.length = false → exec .evRemoteWriteArrival s = .next s) ∧
       (∀ v, here → ReadAs s w v → inside → s.spOwned w.addr w.data.length = true → ¬ behind → s.core.recvq.length < 256 → ∃ t, exec .evRemoteWriteArrival s = .next t ∧
         Performed s t v ∧ t.core.recvq = s.core.recvq ∧ t.ctx = s.ctx ∧ (w.posted = true → ans t .accepted)) ∧
       (∀ v, here → ReadAs s w v → inside → s.spOwned w.addr w.data.length = true → behind → s.core.recvq.length < 256 →
         ∃ t, exec .evRemoteWriteArrival s = .next t ∧ t.core = { s.core with recvq :=
           s.core.recvq ++ [{ v with into := some s.ctx.info.launchId }] } ∧ t.ctx = s.ctx ∧ (w.posted = true → ans t .accepted)) ∧
       (∀ v, here → ReadAs s w v → inside → s.spOwned w.addr w.data.length = true → 256 ≤ s.core.recvq.length → exec .evRemoteWriteArrival s = .next s) ∧
       (mine → s.findCrew w.target w.pid w.crew w.launch = none →
         (∀ g, s.findLog w = some g → g.writes.length < s.logSize → ¬ sealed → ∃ t, exec .evRemoteWriteArrival s = .next t ∧
           { g with writes := g.writes ++ [w] } ∈ t.pkg.logs ∧ t.core = { s.core with l1 := t.core.l1 } ∧ t.ctx = s.ctx ∧ (w.posted = true → ans t .accepted)) ∧
         (∀ g, s.findLog w = some g → s.logSize ≤ g.writes.length → exec .evRemoteWriteArrival s = .next s) ∧
         (s.findLog w = none → (w.pid, w.crew, w.target) ∈ s.pkg.gone → ∃ t, exec .evRemoteWriteArrival s = .next t ∧ ans t .bound ∧
           t.core = s.core ∧ t.ctx = s.ctx) ∧
         (s.findLog w = none → (w.pid, w.crew, w.target) ∉ s.pkg.gone → exec .evRemoteWriteArrival s = .next s)))) ∧
    (∀ w, a.write = some w → s.onWire w = true →
      (s.wireReady w = false → exec .evRemoteWriteArrival s = .next s) ∧
      (s.wireReady w = true → w.home = none → w.toPkg ≠ some s.pkg.num → ∃ t, exec .evRemoteWriteArrival s = .next t ∧
        t.pkg.wire = s.pkg.wire.erase w ∧ t.pkg.sent = s.pkg.sent ++ [w] ∧ t.ctx = s.ctx ∧ t.core = s.core) ∧
      (∀ x, s.wireReady w = true → w.home = some (.sram x) → w.kind ≠ .ste → w.core = s.coreNum → w.slot = s.slotNum →
        ∃ t, exec .evRemoteWriteArrival s = .next t ∧ Performed s t w ∧ t.pkg.wire = s.pkg.wire.erase w ∧ t.ctx = s.ctx)) ∧
    (∀ w rest, s.core.recvq = w :: rest → s.core.writable w = true → ∃ t, exec .evReceiveQueuePerform s = .next t ∧ Performed s t w ∧
      t.core.recvq = rest ∧ t.ctx = s.ctx) ∧
    (s.core.recvq = [] → exec .evReceiveQueuePerform s = .next s) ∧
    (∀ x, s.pkg.acks.find? (forWindow a.window .accepted s.coreNum s.ctx.info.launchId) = some x → ∃ t, exec .evWriteAcceptance s = .next t ∧
      t.pkg.acks = s.pkg.acks.erase x ∧ t.ctx.regs = s.ctx.regs ∧
      ∀ n, t.ctx.outCount n = if n = a.window then s.ctx.outCount n - 1 else s.ctx.outCount n) ∧
    (∀ x, s.pkg.acks = [] → s.pkg.sent.find? (fun x => s.sentByUs x && x.window == a.window && x.posted && s.switchTakes x) = some x →
      x.toPkg ≠ none → ∃ t, exec .evWriteAcceptance s = .next t ∧ t.pkg.sent = s.pkg.sent.erase x ∧ t.ctx.regs = s.ctx.regs ∧
      t.pkg.accepted = (if a.ok then s.pkg.accepted else s.pkg.accepted ++ [x]) ∧
      ∀ n, t.ctx.outCount n = if n = a.window then s.ctx.outCount n - 1 else s.ctx.outCount n) ∧
    (s.pkg.acks = [] → s.pkg.sent = [] → exec .evWriteAcceptance s = .next s) ∧
    (let bound := fun (h : Held) => h.info.code = 0x1B ∧ h.kept = true ∧ h.async = true
     let at_ := fun (h : Held) (src : BitVec 32 × Nat × Word) => h.pc = src.1 ∧ h.slot = src.2.1 ∧ h.info.addr = src.2.2
     let ofWrite := a.ok = true ∨ (s.ctx.remote = none ∧ s.ctx.commit = none)
     (ofWrite → s.pkg.acks = [] → s.pkg.accepted = [] → s.pkg.sent = [] → exec .evRemoteBoundReply s = .next s) ∧
     (∀ x, ofWrite → s.pkg.acks.find? (forWindow a.window .bound s.coreNum s.ctx.info.launchId) = some x → ∃ t h,
       exec .evRemoteBoundReply s = .next t ∧ t.pkg.acks = s.pkg.acks.erase x ∧ t.ctx = { s.ctx with fault := s.ctx.fault ++ [h] } ∧ bound h ∧ at_ h x.src) ∧
     (∀ r, a.ok = false → s.ctx.remote = some r → r.window = a.window → ∃ h, bound h ∧ at_ h (r.op.id.pc, slotCode r.op.id.slot, BitVec.ofNat 64 r.addr) ∧ exec .evRemoteBoundReply s = .next
       { s with ctx := { s.ctx with remote := none, waiting := none, queue := s.ctx.queue.filter (fun p => p.id != r.op.id),
                                    fault := s.ctx.fault ++ [h] } })) ∧
    (∀ r, a.request = some r →
      (let mine := pidOf r.target = some r.pid
       let ans := fun (t : State) (k : AckKind) c => AnsweredTo s t ⟨r.pkg, r.core, r.slot, r.window, 0, k, (0, 7, 0), c⟩
       (¬ mine → ∃ t, exec .evRemoteRequestArrival s = .next t ∧ ans t .bound none ∧ t.core = s.core) ∧
       (let held := r ∉ s.pkg.requests → exec .evRemoteRequestArrival s = .next { s with pkg := { s.pkg with requests := s.pkg.requests ++ [r] } }
        (mine → s.findCrew r.target r.pid r.crew 0 = none → held) ∧
        (mine → s.findCrew r.target r.pid r.crew 0 = some s.slotNum → r.target = s.coreNum → s.ctx.targetOk r.addr r.size = true →
         (s.core.owns s.slotNum r.addr r.size = false ∨ (r.full = true ∧ s.core.allFull r.addr r.size = false) → held) ∧
         (s.core.owns s.slotNum r.addr r.size = true → r.full = false ∨ s.core.allFull r.addr r.size = true →
           ∃ t, exec .evRemoteRequestArrival s = .next t ∧ ans t (.data (s.core.ram.bytes r.addr r.size))
               (if s.ctx.conf then some (linkSeal s.winKey s.clock (s.core.ram.bytes r.addr r.size)) else none) ∧ t.core.ram = s.core.ram ∧
             t.core.full = (if r.take then s.core.setEmpty r.addr r.size else s.core).full ∧ r ∉ t.pkg.requests))))) ∧
    (a.others = [] → (∀ d, a.reply ≠ .data d) → exec .evRemoteReply s = .next s) ∧
    (∀ d x, a.others = [] → a.reply = .data d → a.ok = true → s.pkg.accepted.find? (fun x => s.sentByUs x && x.window == a.window) = some x →
      exec .evRemoteReply s = .next { s with pkg := { s.pkg with accepted := s.pkg.accepted.erase x } }) ∧
    (∀ d b r q dst mem size sx, a.others = [] → a.reply = .data d → a.ok = false → s.ctx.remote = some r → r.window = a.window →
      (if s.ctx.conf then linkOpen s.winKey (a.data, d, a.verify) else some d) = some b →
      r.op.instr = .lLd q dst mem size sx → s.ownWrites = [] → b.length = r.size → ∃ t, exec .evRemoteReply s = .next t ∧ t.ctx.remote = none ∧ (∀ o ∈ t.ctx.queue, o.id ≠ r.op.id) ∧
        t.ctx.regs.s = (s.writeS dst (extendBytes sx b)).ctx.regs.s ∧ SameMemory s t) ∧
    (let r := (s.pkg.phases.find? (samePhase a.level a.unit a.key)).getD ⟨a.level, a.unit, a.key, a.phase, 0, none⟩
     ∃ t, exec .evPhaseArrival s = .next t ∧ t.ctx = s.ctx ∧ t.pkg.hbm = s.pkg.hbm ∧ t.pkg.phases.find? (samePhase a.level a.unit a.key) = some
       (if a.ok then ⟨a.level, a.unit, a.key, a.phase + 1, 0, some a.phase⟩
        else if a.members.toNat ≤ r.count + 1 then { r with phase := a.phase + 1, count := 0, filled := some a.phase }
        else { r with phase := a.phase, count := r.count + 1 })) ∧
    (let x := a.addr.toNat
     (x.testBit 51 = false → s.devOk x a.data.length = false ∨ dpaRegion x ≠ 2 ∨ s.pkg.bootFailed = true → exec .evHostInboundWrite s = .next s) ∧
     (∀ p, s.pkg.signerTable x a.data.length = some p → ∃ t, exec .evHostInboundWrite s = .next t ∧ OnlyPackage s t ∧ t.pkg.hbm = s.pkg.hbm) ∧
     (x.testBit 51 = true → s.pkg.signerTable x a.data.length = none → s.pkg.cmpl = [] → ∃ t, exec .evHostInboundWrite s = .next t ∧ t.host = s.host.putBytes (x % 2 ^ 51) a.data ∧
       t.pkg.hbm = s.pkg.hbm ∧ t.ctx = s.ctx ∧ t.core = s.core) ∧
     (x.testBit 51 = false → s.devOk x a.data.length = true → dpaRegion x = 2 → dpaRegion (x + a.data.length - 1) = 2 → s.pkg.bootFailed = false →
      s.pkg.signerTable x a.data.length = none → s.pkg.cmpl = [] →
       ∃ t, exec .evHostInboundWrite s = .next t ∧ t.pkg.hbm = s.pkg.hbm.putBytes x a.data ∧ t.host = s.host ∧ t.ctx = s.ctx ∧
         ∀ i < a.data.length, (∀ n ∈ t.pkg.near, n.sector ≠ (x + i) / 64) ∧ NatSet.has t.core.l1 ((x + i) / 64) = false)) ∧
    (let sec := a.addr.toNat
     let way := s.pkg.wbacks.find? fun w => w.core == a.core && w.sector == sec
     (∀ n, s.pkg.near.find? (nearOf a.core sec) = some n → exec .evSectorEvictWriteback s = .next { s with pkg := { s.pkg with
       near := s.pkg.near.erase n
       wbacks := if n.st = .modified then s.pkg.wbacks ++ [⟨a.core, sec, n.ver, s.pkg.hbm.bytes (sec * 64) 64⟩] else s.pkg.wbacks } }) ∧
     (∀ w, s.pkg.near.find? (nearOf a.core sec) = none → way = some w → ∃ t, exec .evSectorEvictWriteback s = .next t ∧
       t.pkg.wbacks = s.pkg.wbacks.erase w ∧ t.ctx = s.ctx ∧
       t.pkg.hbm = if w.ver = s.pkg.version sec then s.pkg.hbm.putBytes (sec * 64) w.data else s.pkg.hbm) ∧
     (s.pkg.near.find? (nearOf a.core sec) = none → way = none → exec .evSectorEvictWriteback s = .next s) ∧
     (let owned := fun (n : NearSector) => n.sector / 4 = sec / 4 ∧ n.st ≠ .shared
      let coming := ∃ w ∈ s.pkg.wbacks, w.sector / 4 = sec / 4 ∧ w.ver = s.pkg.version sec
      ((∀ n ∈ s.pkg.near, ¬ owned n) → ¬ coming → exec .evHomeProbe s = .next s) ∧
      ((∃ n ∈ s.pkg.near, owned n) ∨ coming → ∃ t, exec .evHomeProbe s = .next t ∧ SameMemory s t ∧
        (∀ n, n ∈ t.pkg.near ↔ (n ∈ s.pkg.near ∧ ¬ owned n) ∨ ∃ m ∈ s.pkg.near, owned m ∧ n = { m with st := .shared }) ∧ t.pkg.version sec = s.pkg.version sec + 1)))

/-- R379, R420 to R428, R430, R361, R441, Table 17.2: leases, over a link in service and of objects that the pool grants the partition. A
grant moves a requested page on with D 200 µs before the end of the 2 ms term; RETRY leaves it; a write-lease request waits behind those
that came before it; FENCED drops the page and loses a writer's step attempt; a live read lease at D is dropped, a write lease at D loses
its attempt; a page whose bytes were asked for is fetched from the pool with the copies of its attributes; an acknowledged put has
reached the pool; an evicted page gives its lease up. (Pool time counts microseconds: log 7.) -/
def Obligations.LeaseEventsComplete : Prop :=
  ∀ (s : State) (l : Lease),
    let a := s.arg
    let now := s.pkg.now
    let found := s.pkg.leases.find? (isPage a.obj a.page)
    let state := fun (t : State) => t.pkg.leases.find? (isPage a.obj a.page)
    let x := (s.pool.page a.obj a.page.toNat).settle now
    let reach := s.pkg.pageOut a.obj a.page.toNat = false
    let granted := fun (part : Nat) => s.pool.grants (s.tenant part) a.obj a.page.toNat = true
    let lost := fun (t : State) (c : LossCause) => ∀ p step y at_, l.owner = some (p, step) → s.schedule p = some y → y.current = some at_ →
      at_.record.gen = l.gen → at_.record.step = step → (p, c) ∈ t.pkg.losses
    (Quiet s → ∀ i ∈ [Instr.evReadLeaseGrant, .evLeaseRetry],
      (found = none → exec i s = .next s) ∧
      (found = some l → l.st = .rpend → reach →
        (granted l.part → (x.st = .free ∨ ∃ hs, x.st = .shared hs) → x.queued = [] → ∃ t, exec i s = .next t ∧ t.ctx = s.ctx ∧
          state t = some { l with st := .read, d := now + 1800, here := false, demand := false }) ∧
        (¬ granted l.part ∨ (∃ p g e, x.st = .writing p g e) ∨ x.queued ≠ [] → ∃ t, exec i s = .next t ∧ t.ctx = s.ctx ∧
          if l.demand then t.pkg.leases = s.pkg.leases else state t = none))) ∧
    (Quiet s → found = some l → l.st = .wpend → reach → ¬ granted l.part → ∃ t, exec .evWriteLeaseGrant s = .next t ∧ state t = none ∧ lost t .fault) ∧
    (Quiet s → found = some l → l.st = .wpend → reach → granted l.part →
      (let mine := ∃ e, x.st = .writing s.pkg.num l.gen e
       (x.fgen.toNat ≤ l.gen.toNat → x.queued = [] → (x.st = .free ∨ ∃ hs, x.st = .shared hs ∧ ∀ h ∈ hs, h.1 = s.pkg.num) →
        ∃ t, exec .evWriteLeaseGrant s = .next t ∧ state t = some { l with st := .write, d := now + 1800, here := l.here && decide (now < l.d) }) ∧
       (x.fgen.toNat ≤ l.gen.toNat → ¬ mine → (∃ p g e, x.st = .writing p g e) ∨ (x.queued = [] ∧ ∃ hs h, x.st = .shared hs ∧ h ∈ hs ∧ h.1 ≠ s.pkg.num) ∨
          (x.queued ≠ [] ∧ ∀ q ∈ x.queued, q.1 ≠ s.pkg.num ∧ x.fgen.toNat ≤ q.2.toNat) →
        ∃ t, exec .evWriteLeaseGrant s = .next t ∧ t.pkg.leases = s.pkg.leases)) ∧
      (∀ e, x.st = .writing s.pkg.num l.gen e → ∃ t, exec .evWriteLeaseGrant s = .next t ∧
        state t = some { l with st := .write, d := e - 200, here := l.here && decide (now < l.d) }) ∧
      (l.gen.toNat < x.fgen.toNat → (∀ e, x.st ≠ .writing s.pkg.num l.gen e) → ∀ i ∈ [Instr.evWriteLeaseGrant, .evLeaseFenced], ∃ t, exec i s = .next t ∧ state t = none ∧ lost t .fenced)) ∧
    (Quiet s → found = some l → l.ask = true → l.st = .read ∨ l.st = .write → reach → granted l.part →
      (now ≤ l.d → (∃ g e, x.st = .writing s.pkg.num g e) ∨ (∃ hs h, x.st = .shared hs ∧ h ∈ hs ∧ h.1 = s.pkg.num ∧ x.queued = []) →
        ∃ t, exec .evRenewalGrant s = .next t ∧ state t = some { l with d := now + 1800, ask := false }) ∧
      (now ≤ l.d → (∃ hs h, x.st = .shared hs ∧ h ∈ hs ∧ h.1 = s.pkg.num ∧ x.queued ≠ []) →
        ∃ t, exec .evRenewalGrant s = .next t ∧ state t = some { l with ask := false }) ∧
      (l.d < now ∨ x.st = .free → ∃ t, exec .evRenewalGrant s = .next t ∧ state t = none ∧ (l.st = .write → lost t .fenced))) ∧
    (Quiet s → found = none → exec .evLeaseFenced s = .next s ∧ exec .evWriteLeaseGrant s = .next s ∧ exec .evRenewalGrant s = .next s) ∧
    (found = some l →
      (l.st = .rpend ∨ l.st = .wpend ∨ now < l.d → exec .evLeaseDeadline s = .next s) ∧
      (l.st = .read ∨ l.st = .write → l.d ≤ now → ∃ t, exec .evLeaseDeadline s = .next t ∧ state t = none ∧
        (∀ p ∈ t.pkg.puts, putOf a.obj a.page p = false) ∧ (l.st = .write → lost t .lapsed))) ∧
    (found = some l → l.st = .read ∨ l.st = .write →
      (l.here = true ∨ l.get = false ∨ ¬ reach → exec .evPoolPageArrival s = .next s) ∧
      (l.here = false → l.get = true → reach → (∀ p ∈ s.pkg.puts, putOf a.obj a.page p = false) → s.pkg.cache.wf = true → s.pool.bytes.wf = true →
        ∃ t, exec .evPoolPageArrival s = .next t ∧ state t = some { l with here := true, attr := (s.poolObj a.obj).map fun o => (o.fattr, o.sealed, o.capPg) } ∧ t.ctx = s.ctx ∧
          ∀ i < 2 ^ 16, t.pkg.cache.get (poolKey a.obj (a.page.toNat * 2 ^ 16 + i)) = s.pool.bytes.get (poolKey a.obj (a.page.toNat * 2 ^ 16 + i)))) ∧
    (∀ p, Quiet s → s.pkg.puts.find? (putOf a.obj a.page) = some p → reach → granted p.part →
      (let y := (s.pool.page a.obj (p.off / 2 ^ 16)).settle now
       ((∃ e, y.st = .writing s.pkg.num p.gen e) → now ≤ p.stamp →
         (let room := s.pool.noSpace a.obj (p.off / 2 ^ 16) = false
          (room → ∃ t, exec .evPutAcknowledge s = .next t ∧ t.pkg.puts = s.pkg.puts.erase p ∧
            t.pool.bytes = s.pool.bytes.putMasked (poolKey a.obj p.off) p.data ∧
            (found = some l → l.leave = true → (∀ z ∈ s.pkg.puts.erase p, putOf a.obj a.page z = false) → (∀ u ∈ l.users, u = none) →
              state t = none)) ∧
          (¬ room → ∃ t, exec .evPutAcknowledge s = .next t ∧ (∀ z ∈ t.pkg.puts, z ∈ s.pkg.puts.erase p) ∧ t.pool.bytes = s.pool.bytes ∧
            (found = some l → p.copy = none → lost t .noSpace)))) ∧
       (p.stamp < now ∨ (∀ e, y.st ≠ .writing s.pkg.num p.gen e) → ∃ t, exec .evPutAcknowledge s = .next t ∧
         (∀ z ∈ t.pkg.puts, putOf a.obj a.page z = false) ∧ t.pool.bytes = s.pool.bytes))) ∧
    (found = some l →
      (s.pkg.leases.find? s.evictable = some l → ∃ t, exec .evPoolCacheEvict s = .next t ∧ state t = none ∧ t.ctx = s.ctx) ∧
      (s.pkg.leases.find? s.evictable ≠ some l → exec .evPoolCacheEvict s = .next s)) ∧
    (a.now ≤ now →
      (s.pkg.stopped = true → exec .evLeaseRenewal s = .next s) ∧
      (s.pkg.stopped = false → ∃ t, exec .evLeaseRenewal s = .next t ∧ t.ctx = s.ctx ∧ t.pkg.leases = s.pkg.leases.map fun l =>
        if (l.st == .read || l.st == .write) && !l.leave && (l.users.any fun u => match u with | some (p, step) => s.stepKept p step | none => true)
        then { l with ask := true } else l))

/-- R358 to R361, R430 to R433, R441, Tables 14.6, 17.4: a schedule's walk. The next record becomes current and asks for its write leases;
its launches are accepted as it becomes current, and its write leases are asked for one page after the other in increasing order; the last
record is read again until its NEXT is nonzero; the Proofer gets the pages of one record after another, up to PROOFDEPTH ahead; with its
leases granted and its commit cell open an attempt's launches may run, a decided cell ends it ALREADY; a finished attempt proposes its
commit, and the winner's tokens are retired once the step's write leases have been released (R314); a lost one ends with its cause.
(When launches are accepted and may run, log 46; a range or a commit cell that its capability does not grant, log 73.) -/
def Obligations.StepEventsComplete : Prop :=
  ∀ (s : State) (x : Schedule) (at_ : Attempt) (r : StepRec),
    let p := s.arg.p.toNat
    let calm := ∀ l ∈ s.pkg.losses, l.1 ≠ p
    let step := at_.record.step
    let obj := capObject at_.record.cellCap
    let off := at_.record.cellOff.toNat
    let up := s.pkg.pageOut obj (off / 2 ^ 16) = false ∧ s.cellLost at_.record = false ∧ s.pkg.cells = [] ∧
      s.pool.grants (s.tenant p) obj (off / 2 ^ 16) = true
    let cell := fun (op : CellOp) => (s.pool.cellOp s.clock (poolKey obj (off / 64 * 64)) at_.record.cellGen op).2.status
    let ended := fun (t : State) (outcome : Nat) => t.schedule p = some { x with current := none } ∧
      ∃ e, t.pkg.events.getLast? = some (p, e) ∧ leField e 0 1 = 4 ∧ leField e 16 8 = at_.record.step.toNat ∧ leField e 28 4 = outcome
    (s.schedule p = none → ∀ i ∈ [Instr.evStepCurrent, .evScheduleReread, .evProoferPrefetch], exec i s = .next s) ∧
    (s.schedule p = none → Quiet s → exec .evStepRerunCheck s = .next s ∧ exec .evStepCommit s = .next s) ∧
    (calm → exec .evStepLost s = .next s) ∧
    (s.schedule p = some x →
      (x.current = some at_ → at_.opened = true → exec .evStepCurrent s = .next s) ∧
      (let asked := fun (t : State) (r : StepRec) => ∀ q, (s.writePages r).find? (fun q => !s.pkg.leases.any fun l => isPage q.1 q.2 l && l.holds p r) = some q →
         (∀ l, t.pkg.leases.find? (isPage q.1 q.2) = some l → l.st ≠ .read) ∧ (∀ l ∈ t.pkg.leases, l ∉ s.pkg.leases → isPage q.1 q.2 l = true) ∧
         (s.pkg.leases.any (isPage q.1 q.2) = false → s.pkg.cacheRoom = true → ∃ l ∈ t.pkg.leases, isPage q.1 q.2 l = true ∧ l.st = .wpend ∧
           l.gen = r.gen ∧ l.owner = some (p, r.step))
       let named := ((s.stepLaunches p r).filter fun l => !l.sched).map fun l => l.bytes
       let accepts := fun (y : Schedule) => ∃ t, exec .evStepCurrent s = .next t ∧ t.ctx = s.ctx ∧ (badRanges r = false → asked t r) ∧
         (badRanges r = true → (p, .fault) ∈ t.pkg.losses) ∧
         t.schedule p = some { y with current := some ⟨r, false, (r.launches ++ named).map fun b => BitVec.ofNat 64 (leField b 0x38 8)⟩,
                                      gets := y.gets.filter fun g => g.2.2 != r.step } ∧
         (∀ b, r.launches = [b] → let l := s.newLaunch p b (((s.partAt p).map fun (d : PartDesc) => d.schedAsid).getD 0) true
           s.badRecord l = false → t.pkg.launches = s.pkg.launches ++ [l])
       (x.current = some at_ → at_.opened = false → calm → ∃ t, exec .evStepCurrent s = .next t ∧ t.ctx = s.ctx ∧ t.schedule p = some x ∧
         asked t at_.record) ∧
       (∀ rest, x.current = none → calm → x.replace = none → x.ahead = r :: rest → accepts { x with ahead := rest }) ∧
       (∀ off, x.current = none → calm → x.replace = none → x.ahead = [] → x.next = some off → s.readStep p x.cap off.toNat = some r →
         accepts { x with next := nextOf r, last := some off })) ∧
      (∀ cap off, x.current = none → calm → x.replace = some (cap, off) → ∃ t, exec .evStepCurrent s = .next t ∧ t.ctx = s.ctx ∧
        t.schedule p = if capPages cap = 0 then none else some ⟨cap, some off, none, none, [], [], none⟩) ∧
      (x.next ≠ none → exec .evScheduleReread s = .next s) ∧
      (∀ off b, x.next = none → x.last = some off → s.schedBytes p x.cap (off.toNat + 0x20) 8 = some b →
        (leNat b % 2 ^ 64 = 0 → exec .evScheduleReread s = .next s) ∧
        (leNat b % 2 ^ 64 ≠ 0 → ∃ t, exec .evScheduleReread s = .next t ∧ t.schedule p = some { x with next := some (BitVec.ofNat 64 (leNat b)) })) ∧
      (x.current = none ∨ (x.gets = [] ∧ (x.replace ≠ none ∨ wbits (s.pkg.reg 0x30) 3 0 ≤ x.ahead.length ∨ x.next = none)) →
        exec .evProoferPrefetch s = .next s) ∧
      (∀ off, x.current ≠ none → x.gets = [] → x.replace = none → x.ahead.length < wbits (s.pkg.reg 0x30) 3 0 → x.next = some off →
        s.readStep p x.cap off.toNat = some r → ∃ t, exec .evProoferPrefetch s = .next t ∧ t.ctx = s.ctx ∧
          t.schedule p = some { x with next := nextOf r, last := some off, ahead := x.ahead ++ [r], gets := s.proofPages r }) ∧
      (∀ cap page step rest, x.current ≠ none → x.gets = (cap, page, step) :: rest →
        (let next := some { x with gets := rest }
         let held := s.pkg.leases.any (isPage (capObject cap) page) = true
         (s.getFaults p cap page.toNat = true → ∃ t, exec .evProoferPrefetch s = .next t ∧ t.schedule p = next ∧ t.pkg.leases = s.pkg.leases) ∧
         (s.getFaults p cap page.toNat = false → held ∨ s.pkg.cacheRoom = true → ∃ t, exec .evProoferPrefetch s = .next t ∧
           t.schedule p = next ∧ t.ctx = s.ctx ∧ ∃ l ∈ t.pkg.leases, isPage (capObject cap) page l = true ∧ some (p, step) ∈ l.users) ∧
         (s.getFaults p cap page.toNat = false → ¬ held → s.pkg.cacheRoom = false → exec .evProoferPrefetch s = .next s))) ∧
      (x.current = some at_ → Quiet s → at_.opened = false → s.leasesLive p at_.record = true → calm → s.cellLost at_.record = true →
        ∃ t, exec .evStepRerunCheck s = .next t ∧ (p, .linkLost) ∈ t.pkg.losses ∧ t.schedule p = some x) ∧
      (x.current = some at_ → Quiet s → at_.opened = false → s.leasesLive p at_.record = true → calm → up →
        capFault at_.record.cellCap off 64 [.r] = none →
        (cell .read = 6 ∨ cell .read = 3 → ∃ t, exec .evStepRerunCheck s = .next t ∧ ended t 3 ∧ t.stepLaunches p at_.record = []) ∧
        (cell .read = 5 → ∃ t, exec .evStepRerunCheck s = .next t ∧ t.ctx = s.ctx ∧ t.pkg.launches = s.pkg.launches ∧
          t.schedule p = some { x with current := some { at_ with opened := true } }) ∧
        (cell .read ∉ [3, 5, 6] → ∃ t, exec .evStepRerunCheck s = .next t ∧ (p, .fault) ∈ t.pkg.losses ∧ t.schedule p = some x)) ∧
      (x.current = some at_ → Quiet s → at_.opened = false → exec .evStepCommit s = .next s) ∧
      (x.current = some at_ → Quiet s → at_.opened = true → s.stepLaunches p at_.record = [] → calm → s.leasesLive p at_.record = true → up →
        capFault at_.record.cellCap off 64 [.a] = none →
        (let st := cell (s.stepProposal at_.record)
         let stamp := s.stamp p at_.record
         let mine := fun (l : Lease) => l ∈ s.pkg.leases ∧ l.owner = some (p, step) ∧ l.st = .write
         let inTime := stamp = 0 ∨ s.pkg.now ≤ stamp
         (inTime → st = 1 → ∃ t, exec .evStepCommit s = .next t ∧ ended t 1 ∧
           ((∀ l, mine l → some (p, step) ∈ l.users ∧ s.putsLeft l.obj l.page = false) → s.pkg.stopped = false → ∀ k ∈ at_.tokens, k ∈ t.pool.retired) ∧
           ((∃ l, mine l ∧ some (p, step) ∈ l.users ∧ s.putsLeft l.obj l.page = true ∧ ∀ y ∈ s.pkg.leases, isPage l.obj l.page y = true → y = l) → ((p, step), at_.tokens) ∈ t.pkg.retiring)) ∧
         (inTime → st = 2 ∨ st = 3 → ∃ t, exec .evStepCommit s = .next t ∧ ended t 2) ∧
         (¬ inTime → ∃ t, exec .evStepCommit s = .next t ∧ ended t 5))) ∧
      (∀ c, x.current = some at_ → s.pkg.losses.find? (fun l => l.1 == p) = some (p, c) →
        (∀ l ∈ s.stepLaunches p at_.record, l.st = .flushing) → ∃ t, exec .evStepLost s = .next t ∧ ended t (lossCode c) ∧ ∀ l ∈ t.pkg.losses, l.1 ≠ p))
namespace Sys2Proof.Claims
open Sys2Proof.Machine

/-- Every byte memory of the machine is in its canonical form: the host's, HBM, the pool cache, the pool's and every scratchpad. -/
def MemoriesCanonical (s : State) : Prop :=
  s.host.wf = true ∧ s.pkg.hbm.wf = true ∧ s.pkg.cache.wf = true ∧ s.pool.bytes.wf = true ∧ s.core.ram.wf = true ∧
  ∀ b ∈ s.cores, b.2.core.ram.wf = true

end Sys2Proof.Claims

/-- R443 to R445, R349, R359, Tables 2.4, 20.3, R352: right after reset no launch stands on a core and no mailbox is open, the registers of Table
20.3 hold the values it states, decision counts are 0, nothing is scheduled and every memory is canonical and lists nothing (that it then
reads 0, BOOTSTAT 0 before stage 1, and CLKCAP 9 are the model's, logs 4 and 6). A context starts with every register zero, the mask
stack at depth 1 with every lane executing, and the capabilities of its launch's table. -/
def Obligations.ResetState : Prop :=
  let z := State.reset
  MemoriesCanonical z ∧ z.contexts = [] ∧ z.inbox = [] ∧ z.pkg.launches = [] ∧ z.pkg.mboxOpen = 0 ∧ (∀ m, SameMemory z { z with clock := m }) ∧
  (∀ p, z.byteAt p = 0) ∧ z.pkg.reg 0x30 = 2 ∧ z.pkg.reg 0x38 = 36000 ∧ z.pkg.reg 0x40 = 4096 ∧ z.pkg.reg 0x18 = 9 ∧ z.pkg.reg 0 = 0 ∧
  (∀ i < 32, z.thresh i = 2048 ∧ (z.pkg.link i).lost = false) ∧
  (∀ p < 8, z.partAt p = none ∧ z.schedule p = none ∧ z.evtProd p = 0 ∧ z.tdiOf p = .unlocked ∧
    (z.pkg.sched.toList[p]?).map (fun x => (x.dc, x.due)) = some (0, 0)) ∧
  (∀ (s : State) (l : Launch) (cores : List (BitVec 7)) (i : Nat) (core : BitVec 7) (slot : Bool) (dict : List (BitVec 384)),
    let c := s.firstContext l cores i core slot dict
    c.live = true ∧ c.issuable = false ∧ c.ckpt = c.regs ∧ c.regs.pc = 0 ∧ c.regs.mdep = 1 ∧ maskAt c.regs.mstk 0 = BitVec.allOnes 64 ∧
    c.regs.loops = [] ∧ c.regs.xfer = none ∧ c.regs.fpctl = 0 ∧ c.regs.p = 0 ∧
    (∀ r : SReg, c.regs.s[r.toNat]'r.isLt = 0) ∧ (∀ r : VReg, c.regs.v[r.toNat]'r.isLt = 0) ∧
    (∀ r : CReg, c.regs.c[r.toNat]'r.isLt = if r = 0 then 0 else BitVec.ofNat 128 (s.cpLe (l.f 0x28 8 + 16 * r.toNat) 16)) ∧
    (∀ n : BitVec 4, wbits (c.win n) 7 0 = 0) ∧
    c.ctxId.toNat % 128 = core.toNat ∧ c.phase = 0)

/-- R5, R35, R37, R52, R53: one step performs what arrives from outside, else the one act that comes next; an act of a slot queue is
`exec` of the queued operation with the operation taken out of its queue; a bundle at the pc is decoded from its twelve words, its C
operation is `exec` of the decoded instruction as the bundle dispatches, and its other operations enter the queues. (What arrives stands
in `inbox`, log 1; which act comes next among those that may is a free choice, log 2.) -/
def Obligations.StepRunsDecodedInstruction : Prop :=
  ∀ s : State,
    let u := s.tick
    (∀ a rest, s.inbox = a :: rest → step s =
      if ({ u with inbox := rest } : State).admits a then ({ u with inbox := rest } : State).perform exec a else .next { u with inbox := rest }) ∧
    (s.inbox = [] → u.nextAct exec = none → step s = .next u) ∧
    (∀ a, s.inbox = [] → u.nextAct exec = some a → step s = u.perform exec a) ∧
    (∀ o, s.inbox = [] → u.nextAct exec = some (u.opAct o) → step s = exec o.instr
      { u with ctx := { u.ctx with queue := u.ctx.queue.filter fun p => p.id != o.id }, cur := some o, arg := noEventData }) ∧
    (∀ v b, s.inbox = [] → u.nextAct exec = some (u.ev .evBundleDispatch) → (let d : State := { u with cur := none, arg := noEventData }
      d.canDispatch = true → d.ctx.stepping = false ∨ d.ctx.atCkpt = true → d.fetch = .ok (v, b) → v.ctx.atCkpt = true ∨ v.wish b = none →
      step s = .next (v.dispatch b))) ∧
    (∀ v b, s.fetch = .ok (v, b) →
      decodeBundle clash (ctxFieldOk v.ctx) (v.bundleAt v.ctx.regs.pc.toNat) = .ok b ∧
      (∀ i, (b.ops.find? fun o => o.1 == .c) = some (.c, i) → i.slotOf = some .c → ∃ p, p.instr = i ∧ p.id.pc = v.ctx.regs.pc ∧
        p.id.seq = v.ctx.seq ∧
        exec i { v.enter ((v.queueOps b).filter fun p => p.id.slot != .c) with cur := some p } = .next (v.dispatch b)))

/-- R59 to R70, R78: decoding and encoding agree. The word the encoder gives a well-formed instruction decodes to that instruction, with every
operand; every instruction of a slot or of the engine has a word; and a word that decodes is the word of what it decodes to, so that
no bit of it is dropped. -/
def Obligations.DecodeAndEncodeAgree : Prop :=
  (∀ (i : Instr) (w : BitVec 64), i.wf = true → encode i = some w →
    match i.slotOf with
    | some sl => decodeSlot sl w = .ok i
    | none => decodeMicro w = .ok i) ∧
  (∀ i : Instr, i.slotOf ≠ none → (encode i).isSome = true) ∧
  (∀ (a b d : WReg) (len : BitVec 9) (all side : Bool) (idx n6 : BitVec 6) (q : BitVec 7) (off n16 : BitVec 16) (n4 : BitVec 4)
      (src : PsetSrc) (imm : BitVec 32) (cond : BitVec 3),
    ∀ i ∈ [Instr.uFeeda a len all, .uFeedb a len all, .uMac, .uMacq, .uFold, .uAccl a idx all, .uNorm a side all, .uDraw a b q, .uSgath a,
        .uProbe a n6, .uStoptest off, .uSkipz side n4, .uEdge a b, .uSwap a b, .uPset d src, .uPadd d a b imm, .uPbr a b cond off,
        .uMloop a n16 off, .uWait a n16, .uMend],
      i.slotOf = none ∧ ∃ w, encode i = some w ∧ (i.wf = true → decodeMicro w = .ok i)) ∧
  (∀ (sl : Slot) (i : Instr) (w : BitVec 64), decodeSlot sl w = .ok i → encode i = some w ∧ i.wf = true ∧ i.slotOf = some sl) ∧
  (∀ (i : Instr) (w : BitVec 64), decodeMicro w = .ok i → encode i = some w ∧ i.wf = true ∧ i.slotOf = none)

/-- R59, R61 to R63, R70, R78, Tables 3.5 to 3.17: words written out from the encoding tables decode to their instructions, and words with an
unassigned opcode are ILLEGAL_OPCODE. -/
def Obligations.WordsOfTheEncodingTables : Prop :=
  let q : Pred := ⟨false, 0⟩
  decodeSlot .a 0x2001450000004000 = .ok (.aAddi q 5 5 64) ∧
  decodeSlot .c 0x1C00200A = .ok (.cLoopi q 2 10) ∧
  decodeSlot .c 0x047FFFFD = .ok (.cBr ⟨false, 1⟩ 0x3FFFFD) ∧
  decodeSlot .v 0x000208FFFD020400 = .ok (.vAdd q 8 8 (.imm 0xFFFD) 1 0) ∧
  decodeSlot .m 0x0200000040000000 = .ok (.mWait q 1) ∧
  decodeMicro 0x480000000000000D = .ok (.uWait 0 13) ∧
  (∀ w : BitVec 64, 0x0D < (fld w 26 6).toNat → decodeSlot .c w = .illegalOpcode) ∧
  (∀ w : BitVec 64, 0x07 < (fld w 56 8).toNat → decodeSlot .m w = .illegalOpcode) ∧
  (∀ w : BitVec 64, 0x09 < (fld w 56 8).toNat → decodeSlot .x w = .illegalOpcode) ∧
  (∀ w : BitVec 64, 0x54 < (fld w 56 8).toNat → decodeSlot .a w = .illegalOpcode) ∧
  (∀ w : BitVec 64, 0x13 < (fld w 58 6).toNat → decodeMicro w = .illegalOpcode)

/-- The invariant of the byte memories (R229, R230): from every state in which the host's memory, HBM, the pool cache, the pool's bytes and
every scratchpad are in canonical form, each step leads to one in which they are. -/
def Obligations.MemoriesStayCanonical : Prop :=
  ∀ s t : State, MemoriesCanonical s → step s = .next t → MemoriesCanonical t
end

