-- ==== Sys2Proof/Laws/Encoding.lean ====
section
/-! SUPPORT. Encoding.lean: what a field of a word reads after fields have been placed in it. -/
namespace Sys2Proof

theorem fld_or (a b : BitVec 64) (lo n : Nat) : fld (a ||| b) lo n = fld a lo n ||| fld b lo n := by
  simp [fld, BitVec.extractLsb'_or]

theorem bit_or (a b : BitVec 64) (i : Nat) : bit (a ||| b) i = (bit a i || bit b i) := by simp [bit]

/-- A placed field reads back. -/
theorem fld_put_same {n : Nat} (lo : Nat) (x : BitVec n) (h : lo + n ≤ 64) : fld (put lo x) lo n = x := by
  apply BitVec.eq_of_getLsbD_eq
  intro i hi
  have h1 : lo + i < 64 := by omega
  have h2 : i < 64 := by omega
  simp [fld, put, hi, h1, h2]

/-- Elsewhere a placed field leaves zeros. -/
theorem fld_put_off {m n : Nat} (lo k : Nat) (x : BitVec m) (h : lo + n ≤ k ∨ k + m ≤ lo) : fld (put k x) lo n = 0 := by
  apply BitVec.eq_of_getLsbD_eq
  intro i hi
  simp only [fld, put, BitVec.getLsbD_extractLsb', BitVec.getLsbD_shiftLeft, BitVec.getLsbD_setWidth]
  rcases h with h | h
  · simp; omega
  · simp; intro _ _ _ _; exact BitVec.getLsbD_of_ge x _ (by omega)

theorem bit_put1_same (i : Nat) (b : Bool) (h : i < 64) : bit (put1 i b) i = b := by
  cases b <;> simp [bit, put1, put, h]

theorem bit_put_off {m : Nat} (i k : Nat) (x : BitVec m) (h : i < k ∨ k + m ≤ i) : bit (put k x) i = false := by
  simp only [bit, put, BitVec.getLsbD_shiftLeft, BitVec.getLsbD_setWidth]
  rcases h with h | h
  · simp; omega
  · simp; intro _ _ _; exact BitVec.getLsbD_of_ge x _ (by omega)

theorem bit_put_one (i : Nat) (h : i < 64) : bit (put i 1#1) i = true := bit_put1_same i true h

theorem fld_put1_off {n : Nat} (lo k : Nat) (b : Bool) (h : lo + n ≤ k ∨ k + 1 ≤ lo) : fld (put1 k b) lo n = 0 :=
  fld_put_off lo k _ h

theorem bit_put1_off (i k : Nat) (b : Bool) (h : i ≠ k) : bit (put1 k b) i = false := bit_put_off i k _ (by omega)

theorem spaceCode_ne (s : Space) : ¬ spaceCode s = 3#2 := by cases s <;> decide

theorem spaceOf_code (s : Space) : spaceOf (spaceCode s) = s := by cases s <;> rfl

end Sys2Proof
end

