-- ==== Sys2Proof/Laws/Memory.lean ====
section
/-! SUPPORT. Memory.lean: byte memories keep their canonical form, read what was written, and are equal when they read alike. -/
namespace Sys2Proof.Machine

/-! ### The canonical form -/

theorem Memory.wfFrom_cons {lo : Nat} {c : Host.Cell} {m : Memory} :
    Memory.wfFrom lo (c :: m) = true ↔ lo ≤ c.1 ∧ c.2 ≠ 0 ∧ Memory.wfFrom (c.1 + 1) m = true := by
  obtain ⟨a, b⟩ := c
  simp [Memory.wfFrom, and_assoc]

theorem Memory.wfFrom_le {lo lo' : Nat} {m : Memory} (h : lo' ≤ lo) (hm : Memory.wfFrom lo m = true) :
    Memory.wfFrom lo' m = true := by
  cases m with
  | nil => rfl
  | cons c m =>
    rw [Memory.wfFrom_cons] at hm ⊢
    exact ⟨h.trans hm.1, hm.2⟩

theorem Memory.wf_nil : Memory.wf [] = true := rfl

theorem Memory.put_wfFrom {lo : Nat} {m : Memory} (x : Nat) (v : Byte) (hm : Memory.wfFrom lo m = true) (hx : lo ≤ x) :
    Memory.wfFrom lo (m.put x v) = true := by
  induction m generalizing lo with
  | nil =>
    unfold Memory.put
    split
    · rfl
    · next h => rw [Memory.wfFrom_cons]; exact ⟨hx, h, rfl⟩
  | cons c m ih =>
    obtain ⟨a, b⟩ := c
    rw [Memory.wfFrom_cons] at hm
    obtain ⟨h1, h2, h3⟩ := hm
    unfold Memory.put
    split
    · split
      · rw [Memory.wfFrom_cons]; exact ⟨h1, h2, h3⟩
      · next hlt hv => rw [Memory.wfFrom_cons, Memory.wfFrom_cons]; exact ⟨hx, hv, hlt, h2, h3⟩
    · split
      · split
        · exact Memory.wfFrom_le (Nat.le_succ_of_le h1) h3
        · next hv => rw [Memory.wfFrom_cons]; exact ⟨h1, hv, h3⟩
      · rw [Memory.wfFrom_cons]
        refine ⟨h1, h2, ih h3 ?_⟩
        show a + 1 ≤ x
        omega

/-- What a table answers is its default or an entry. -/
theorem tabGet_mem {α : Type} {P : α → Prop} {d : α} {l : List (Nat × α)} (hd : P d) (hl : ∀ e ∈ l, P e.2) (x : Nat) : P (tabGet d l x) := by
  induction l with
  | nil => exact hd
  | cons e l ih =>
    unfold tabGet
    split
    · exact hl e (List.mem_cons_self)
    · exact ih fun e he => hl e (List.mem_cons_of_mem _ he)

/-- What stands in a table after a value is set is that value or an entry. -/
theorem tabSet_mem {α : Type} {P : α → Prop} {v : α} {l : List (Nat × α)} (hv : P v) (hl : ∀ e ∈ l, P e.2) (x : Nat) :
    ∀ e ∈ tabSet l x v, P e.2 := by
  induction l with
  | nil => intro e he; rw [show e = (x, v) from List.mem_singleton.mp he]; exact hv
  | cons e l ih =>
    have old := hl e List.mem_cons_self
    have rest : ∀ f ∈ l, P f.2 := fun f hf => hl f (List.mem_cons_of_mem _ hf)
    unfold tabSet
    split
    · exact List.forall_mem_cons.mpr ⟨hv, hl⟩
    · split
      · exact List.forall_mem_cons.mpr ⟨hv, rest⟩
      · exact List.forall_mem_cons.mpr ⟨old, ih rest⟩

/-- Writing one byte keeps the canonical form. -/
theorem Memory.put_wf {m : Memory} (x : Nat) (v : Byte) (hm : m.wf = true) : (m.put x v).wf = true :=
  Memory.put_wfFrom x v hm (Nat.zero_le x)

theorem Memory.putBytes_wf {m : Memory} (a : Nat) (l : List Byte) (hm : m.wf = true) : (m.putBytes a l).wf = true := by
  induction l generalizing m a with
  | nil => exact hm
  | cons b l ih => exact ih _ (Memory.put_wf a b hm)

theorem Memory.putMasked_wf {m : Memory} (a : Nat) (l : List (Option Byte)) (hm : m.wf = true) : (m.putMasked a l).wf = true := by
  induction l generalizing m a with
  | nil => exact hm
  | cons b l ih =>
    cases b with
    | none => exact ih _ hm
    | some b => exact ih _ (Memory.put_wf a b hm)

theorem Memory.filter_wfFrom {lo : Nat} {m : Memory} (p : Host.Cell → Bool) (hm : Memory.wfFrom lo m = true) :
    Memory.wfFrom lo (m.filter p) = true := by
  induction m generalizing lo with
  | nil => exact hm
  | cons c m ih =>
    rw [Memory.wfFrom_cons] at hm
    rw [List.filter_cons]
    split
    · rw [Memory.wfFrom_cons]; exact ⟨hm.1, hm.2.1, ih hm.2.2⟩
    · exact ih (Memory.wfFrom_le (Nat.le_succ_of_le hm.1) hm.2.2)

theorem Memory.filter_wf {m : Memory} (p : Host.Cell → Bool) (hm : m.wf = true) : Memory.wf (m.filter p) = true :=
  Memory.filter_wfFrom p hm

/-- Clearing a range keeps the canonical form. -/
theorem Memory.clear_wf {m : Memory} (lo hi : Nat) (hm : m.wf = true) : (m.clear lo hi).wf = true := Memory.filter_wf _ hm

/-! ### Reads after writes -/

/-- Below its first cell a memory reads zero. -/
theorem Memory.get_below {lo x : Nat} {m : Memory} (hm : Memory.wfFrom lo m = true) (hx : x < lo) : m.get x = 0 := by
  cases m with
  | nil => rfl
  | cons c m =>
    obtain ⟨a, b⟩ := c
    rw [Memory.wfFrom_cons] at hm
    have : x < a := lt_of_lt_of_le hx hm.1
    simp [Memory.get, this]

/-- What one write leaves at every address. -/
theorem Memory.get_put {m : Memory} (hm : m.wf = true) (x y : Nat) (v : Byte) :
    (m.put x v).get y = if y = x then v else m.get y := by
  have key : ∀ (lo : Nat) (m : Memory), Memory.wfFrom lo m = true → (m.put x v).get y = if y = x then v else m.get y := by
    intro lo m
    induction m generalizing lo with
    | nil =>
      intro _
      by_cases hv : v = 0
      · subst hv; by_cases hy : y = x <;> simp [Memory.put, Memory.get, hy]
      · simp only [Memory.put, hv, if_false, Memory.get]
        split_ifs <;> first | rfl | omega
    | cons c m ih =>
      obtain ⟨a, b⟩ := c
      intro hm
      rw [Memory.wfFrom_cons] at hm
      obtain ⟨h1, h2, h3⟩ := hm
      have hi := ih (a + 1) h3
      have hb : y < a + 1 → Memory.get m y = 0 := fun h => Memory.get_below h3 h
      unfold Memory.put
      by_cases hxa : x < a
      · rw [if_pos hxa]
        by_cases hv : v = 0
        · subst hv
          rw [if_pos rfl]
          by_cases hy : y = x
          · subst hy; simp [Memory.get, hxa]
          · simp [hy]
        · rw [if_neg hv]
          by_cases hy : y = x
          · subst hy; simp [Memory.get]
          · by_cases hyx : y < x
            · have : y < a := by omega
              simp [Memory.get, hyx, hy, this]
            · simp [Memory.get, hyx, hy]
      · rw [if_neg hxa]
        by_cases hxe : x = a
        · subst hxe
          rw [if_pos rfl]
          by_cases hv : v = 0
          · subst hv
            rw [if_pos rfl]
            by_cases hy : y = x
            · subst hy; simpa using hb (Nat.lt_succ_self _)
            · by_cases hyx : y < x
              · simp [Memory.get, hyx, hy, hb (by omega)]
              · simp [Memory.get, hyx, hy]
          · rw [if_neg hv]
            by_cases hy : y = x
            · subst hy; simp [Memory.get]
            · by_cases hyx : y < x <;> simp [Memory.get, hyx, hy]
        · rw [if_neg hxe]
          by_cases hya : y < a
          · have : y ≠ x := by omega
            simp [Memory.get, hya, this]
          · by_cases hye : y = a
            · subst hye
              have : y ≠ x := fun h => hxe h.symm
              simp [Memory.get, this]
            · simp [Memory.get, hya, hye, hi]
  exact key 0 m hm

theorem Memory.get_put_same {m : Memory} (hm : m.wf = true) (x : Nat) (v : Byte) : (m.put x v).get x = v := by
  simp [Memory.get_put hm]

theorem Memory.get_put_ne {m : Memory} (hm : m.wf = true) {x y : Nat} (v : Byte) (h : y ≠ x) : (m.put x v).get y = m.get y := by
  simp [Memory.get_put hm, h]

/-- A write of bytes leaves every address outside them. -/
theorem Memory.get_putBytes_outside {m : Memory} (hm : m.wf = true) (a y : Nat) (l : List Byte) (h : y < a ∨ a + l.length ≤ y) :
    (m.putBytes a l).get y = m.get y := by
  induction l generalizing m a with
  | nil => rfl
  | cons b l ih =>
    simp only [List.length_cons] at h
    have : y ≠ a := by omega
    rw [Memory.putBytes, ih (Memory.put_wf a b hm) (a + 1) (by omega), Memory.get_put_ne hm b this]

/-- A write of bytes leaves each at its address. -/
theorem Memory.get_putBytes_inside {m : Memory} (hm : m.wf = true) (a i : Nat) (l : List Byte) (h : i < l.length) :
    (m.putBytes a l).get (a + i) = l.getD i 0 := by
  induction l generalizing m a i with
  | nil => simp at h
  | cons b l ih =>
    cases i with
    | zero =>
      rw [Memory.putBytes, Memory.get_putBytes_outside (Memory.put_wf a b hm) _ _ _ (by omega)]
      simpa using Memory.get_put_same hm a b
    | succ i =>
      rw [Memory.putBytes, show a + (i + 1) = (a + 1) + i by omega, ih (Memory.put_wf a b hm) (a + 1) i (by simpa using h)]
      simp

theorem Memory.bytes_length (m : Memory) (a n : Nat) : (m.bytes a n).length = n := by
  induction n generalizing a with
  | zero => rfl
  | succ n ih => simp [Memory.bytes, ih]

theorem leBytes_length (n x : Nat) : (leBytes n x).length = n := by
  induction n generalizing x with
  | zero => rfl
  | succ n ih => simp [leBytes, ih]

/-- The bytes of a number stand for it, as far as they reach. -/
theorem leNat_leBytes (n x : Nat) : leNat (leBytes n x) = x % 256 ^ n := by
  induction n generalizing x with
  | zero => simp [leBytes, leNat, Nat.mod_one]
  | succ n ih =>
    simp only [leBytes, leNat, ih, BitVec.toNat_ofNat]
    have : 256 ^ (n + 1) = 256 * 256 ^ n := by ring
    rw [this, Nat.mod_mul]

/-- Two memories in canonical form that read alike everywhere are equal. -/
theorem Memory.ext_get {m n : Memory} (hm : m.wf = true) (hn : n.wf = true) (h : ∀ x, m.get x = n.get x) : m = n := by
  have key : ∀ (m n : Memory) (lo : Nat), Memory.wfFrom lo m = true → Memory.wfFrom lo n = true → (∀ x, m.get x = n.get x) → m = n := by
    intro m
    induction m with
    | nil =>
      intro n lo _ hn h
      cases n with
      | nil => rfl
      | cons c n =>
        obtain ⟨a, b⟩ := c
        rw [Memory.wfFrom_cons] at hn
        have := h a
        simp [Memory.get] at this
        exact absurd this.symm hn.2.1
    | cons c m ih =>
      obtain ⟨a, b⟩ := c
      intro n lo hm hn h
      rw [Memory.wfFrom_cons] at hm
      cases n with
      | nil =>
        have := h a
        simp [Memory.get] at this
        exact absurd this hm.2.1
      | cons d n =>
        obtain ⟨a', b'⟩ := d
        rw [Memory.wfFrom_cons] at hn
        have hb := h a
        have hb' := h a'
        have haa : a = a' := by
          rcases lt_trichotomy a a' with hl | he | hl
          · simp [Memory.get, hl] at hb; exact absurd hb hm.2.1
          · exact he
          · simp [Memory.get, hl] at hb'; exact absurd hb'.symm hn.2.1
        subst haa
        have : b = b' := by simpa [Memory.get] using hb
        subst this
        congr 1
        refine ih n (a + 1) hm.2.2 hn.2.2 fun x => ?_
        by_cases hx : x < a + 1
        · rw [Memory.get_below hm.2.2 hx, Memory.get_below hn.2.2 hx]
        · have h1 : ¬ x < a := by omega
          have h2 : x ≠ a := by omega
          simpa [Memory.get, h1, h2] using h x
  exact key m n 0 hm hn h

end Sys2Proof.Machine
end

