-- ==== Sys2Proof/Laws/State.lean ====
section
/-! SUPPORT. State.lean: what each update of the state leaves in each field, one lemma for each. -/
namespace Sys2Proof.Machine

/-! ### mapCtx -/

@[simp] theorem State.mapCtx_ctx (s : State) (f : Context → Context) : (s.mapCtx f).ctx = f s.ctx := rfl
@[simp] theorem State.mapCtx_peer (s : State) (f : Context → Context) : (s.mapCtx f).peer = s.peer := rfl
@[simp] theorem State.mapCtx_core (s : State) (f : Context → Context) : (s.mapCtx f).core = s.core := rfl
@[simp] theorem State.mapCtx_coreNum (s : State) (f : Context → Context) : (s.mapCtx f).coreNum = s.coreNum := rfl
@[simp] theorem State.mapCtx_slotNum (s : State) (f : Context → Context) : (s.mapCtx f).slotNum = s.slotNum := rfl
@[simp] theorem State.mapCtx_cores (s : State) (f : Context → Context) : (s.mapCtx f).cores = s.cores := rfl
@[simp] theorem State.mapCtx_pkg (s : State) (f : Context → Context) : (s.mapCtx f).pkg = s.pkg := rfl
@[simp] theorem State.mapCtx_host (s : State) (f : Context → Context) : (s.mapCtx f).host = s.host := rfl
@[simp] theorem State.mapCtx_pool (s : State) (f : Context → Context) : (s.mapCtx f).pool = s.pool := rfl
@[simp] theorem State.mapCtx_cur (s : State) (f : Context → Context) : (s.mapCtx f).cur = s.cur := rfl
@[simp] theorem State.mapCtx_arg (s : State) (f : Context → Context) : (s.mapCtx f).arg = s.arg := rfl
@[simp] theorem State.mapCtx_inbox (s : State) (f : Context → Context) : (s.mapCtx f).inbox = s.inbox := rfl
@[simp] theorem State.mapCtx_clock (s : State) (f : Context → Context) : (s.mapCtx f).clock = s.clock := rfl

/-! ### mapCore -/

@[simp] theorem State.mapCore_ctx (s : State) (f : CoreSt → CoreSt) : (s.mapCore f).ctx = s.ctx := rfl
@[simp] theorem State.mapCore_peer (s : State) (f : CoreSt → CoreSt) : (s.mapCore f).peer = s.peer := rfl
@[simp] theorem State.mapCore_core (s : State) (f : CoreSt → CoreSt) : (s.mapCore f).core = f s.core := rfl
@[simp] theorem State.mapCore_coreNum (s : State) (f : CoreSt → CoreSt) : (s.mapCore f).coreNum = s.coreNum := rfl
@[simp] theorem State.mapCore_slotNum (s : State) (f : CoreSt → CoreSt) : (s.mapCore f).slotNum = s.slotNum := rfl
@[simp] theorem State.mapCore_cores (s : State) (f : CoreSt → CoreSt) : (s.mapCore f).cores = s.cores := rfl
@[simp] theorem State.mapCore_pkg (s : State) (f : CoreSt → CoreSt) : (s.mapCore f).pkg = s.pkg := rfl
@[simp] theorem State.mapCore_host (s : State) (f : CoreSt → CoreSt) : (s.mapCore f).host = s.host := rfl
@[simp] theorem State.mapCore_pool (s : State) (f : CoreSt → CoreSt) : (s.mapCore f).pool = s.pool := rfl
@[simp] theorem State.mapCore_cur (s : State) (f : CoreSt → CoreSt) : (s.mapCore f).cur = s.cur := rfl
@[simp] theorem State.mapCore_arg (s : State) (f : CoreSt → CoreSt) : (s.mapCore f).arg = s.arg := rfl
@[simp] theorem State.mapCore_inbox (s : State) (f : CoreSt → CoreSt) : (s.mapCore f).inbox = s.inbox := rfl
@[simp] theorem State.mapCore_clock (s : State) (f : CoreSt → CoreSt) : (s.mapCore f).clock = s.clock := rfl

/-! ### mapPkg -/

@[simp] theorem State.mapPkg_ctx (s : State) (f : Package → Package) : (s.mapPkg f).ctx = s.ctx := rfl
@[simp] theorem State.mapPkg_peer (s : State) (f : Package → Package) : (s.mapPkg f).peer = s.peer := rfl
@[simp] theorem State.mapPkg_core (s : State) (f : Package → Package) : (s.mapPkg f).core = s.core := rfl
@[simp] theorem State.mapPkg_coreNum (s : State) (f : Package → Package) : (s.mapPkg f).coreNum = s.coreNum := rfl
@[simp] theorem State.mapPkg_slotNum (s : State) (f : Package → Package) : (s.mapPkg f).slotNum = s.slotNum := rfl
@[simp] theorem State.mapPkg_cores (s : State) (f : Package → Package) : (s.mapPkg f).cores = s.cores := rfl
@[simp] theorem State.mapPkg_pkg (s : State) (f : Package → Package) : (s.mapPkg f).pkg = f s.pkg := rfl
@[simp] theorem State.mapPkg_host (s : State) (f : Package → Package) : (s.mapPkg f).host = s.host := rfl
@[simp] theorem State.mapPkg_pool (s : State) (f : Package → Package) : (s.mapPkg f).pool = s.pool := rfl
@[simp] theorem State.mapPkg_cur (s : State) (f : Package → Package) : (s.mapPkg f).cur = s.cur := rfl
@[simp] theorem State.mapPkg_arg (s : State) (f : Package → Package) : (s.mapPkg f).arg = s.arg := rfl
@[simp] theorem State.mapPkg_inbox (s : State) (f : Package → Package) : (s.mapPkg f).inbox = s.inbox := rfl
@[simp] theorem State.mapPkg_clock (s : State) (f : Package → Package) : (s.mapPkg f).clock = s.clock := rfl

/-! ### mapRegs -/

@[simp] theorem State.mapRegs_peer (s : State) (f : Regs → Regs) : (s.mapRegs f).peer = s.peer := rfl
@[simp] theorem State.mapRegs_core (s : State) (f : Regs → Regs) : (s.mapRegs f).core = s.core := rfl
@[simp] theorem State.mapRegs_coreNum (s : State) (f : Regs → Regs) : (s.mapRegs f).coreNum = s.coreNum := rfl
@[simp] theorem State.mapRegs_slotNum (s : State) (f : Regs → Regs) : (s.mapRegs f).slotNum = s.slotNum := rfl
@[simp] theorem State.mapRegs_cores (s : State) (f : Regs → Regs) : (s.mapRegs f).cores = s.cores := rfl
@[simp] theorem State.mapRegs_pkg (s : State) (f : Regs → Regs) : (s.mapRegs f).pkg = s.pkg := rfl
@[simp] theorem State.mapRegs_host (s : State) (f : Regs → Regs) : (s.mapRegs f).host = s.host := rfl
@[simp] theorem State.mapRegs_pool (s : State) (f : Regs → Regs) : (s.mapRegs f).pool = s.pool := rfl
@[simp] theorem State.mapRegs_cur (s : State) (f : Regs → Regs) : (s.mapRegs f).cur = s.cur := rfl
@[simp] theorem State.mapRegs_arg (s : State) (f : Regs → Regs) : (s.mapRegs f).arg = s.arg := rfl
@[simp] theorem State.mapRegs_inbox (s : State) (f : Regs → Regs) : (s.mapRegs f).inbox = s.inbox := rfl
@[simp] theorem State.mapRegs_clock (s : State) (f : Regs → Regs) : (s.mapRegs f).clock = s.clock := rfl
@[simp] theorem State.mapRegs_ctx_live (s : State) (f : Regs → Regs) : (s.mapRegs f).ctx.live = s.ctx.live := rfl
@[simp] theorem State.mapRegs_ctx_issuable (s : State) (f : Regs → Regs) : (s.mapRegs f).ctx.issuable = s.ctx.issuable := rfl
@[simp] theorem State.mapRegs_ctx_hold (s : State) (f : Regs → Regs) : (s.mapRegs f).ctx.hold = s.ctx.hold := rfl
@[simp] theorem State.mapRegs_ctx_info (s : State) (f : Regs → Regs) : (s.mapRegs f).ctx.info = s.ctx.info := rfl
@[simp] theorem State.mapRegs_ctx_image (s : State) (f : Regs → Regs) : (s.mapRegs f).ctx.image = s.ctx.image := rfl
@[simp] theorem State.mapRegs_regs (s : State) (f : Regs → Regs) : (s.mapRegs f).ctx.regs = f s.ctx.regs := rfl
@[simp] theorem State.mapRegs_ctx_ckpt (s : State) (f : Regs → Regs) : (s.mapRegs f).ctx.ckpt = s.ctx.ckpt := rfl
@[simp] theorem State.mapRegs_ctx_shadow (s : State) (f : Regs → Regs) : (s.mapRegs f).ctx.shadow = s.ctx.shadow := rfl
@[simp] theorem State.mapRegs_ctx_status (s : State) (f : Regs → Regs) : (s.mapRegs f).ctx.status = s.ctx.status := rfl
@[simp] theorem State.mapRegs_ctx_ckstat (s : State) (f : Regs → Regs) : (s.mapRegs f).ctx.ckstat = s.ctx.ckstat := rfl
@[simp] theorem State.mapRegs_ctx_progidx (s : State) (f : Regs → Regs) : (s.mapRegs f).ctx.progidx = s.ctx.progidx := rfl
@[simp] theorem State.mapRegs_ctx_mtmask (s : State) (f : Regs → Regs) : (s.mapRegs f).ctx.mtmask = s.ctx.mtmask := rfl
@[simp] theorem State.mapRegs_ctx_spLo (s : State) (f : Regs → Regs) : (s.mapRegs f).ctx.spLo = s.ctx.spLo := rfl
@[simp] theorem State.mapRegs_ctx_spHi (s : State) (f : Regs → Regs) : (s.mapRegs f).ctx.spHi = s.ctx.spHi := rfl
@[simp] theorem State.mapRegs_ctx_domain (s : State) (f : Regs → Regs) : (s.mapRegs f).ctx.domain = s.ctx.domain := rfl
@[simp] theorem State.mapRegs_ctx_stepToken (s : State) (f : Regs → Regs) : (s.mapRegs f).ctx.stepToken = s.ctx.stepToken := rfl
@[simp] theorem State.mapRegs_ctx_partWord (s : State) (f : Regs → Regs) : (s.mapRegs f).ctx.partWord = s.ctx.partWord := rfl
@[simp] theorem State.mapRegs_ctx_ctxId (s : State) (f : Regs → Regs) : (s.mapRegs f).ctx.ctxId = s.ctx.ctxId := rfl
@[simp] theorem State.mapRegs_ctx_wallow (s : State) (f : Regs → Regs) : (s.mapRegs f).ctx.wallow = s.ctx.wallow := rfl
@[simp] theorem State.mapRegs_ctx_window (s : State) (f : Regs → Regs) : (s.mapRegs f).ctx.window = s.ctx.window := rfl
@[simp] theorem State.mapRegs_ctx_trapRec (s : State) (f : Regs → Regs) : (s.mapRegs f).ctx.trapRec = s.ctx.trapRec := rfl
@[simp] theorem State.mapRegs_ctx_tokSeq (s : State) (f : Regs → Regs) : (s.mapRegs f).ctx.tokSeq = s.ctx.tokSeq := rfl
@[simp] theorem State.mapRegs_ctx_arrived (s : State) (f : Regs → Regs) : (s.mapRegs f).ctx.arrived = s.ctx.arrived := rfl
@[simp] theorem State.mapRegs_ctx_serial (s : State) (f : Regs → Regs) : (s.mapRegs f).ctx.serial = s.ctx.serial := rfl
@[simp] theorem State.mapRegs_ctx_tiles (s : State) (f : Regs → Regs) : (s.mapRegs f).ctx.tiles = s.ctx.tiles := rfl
@[simp] theorem State.mapRegs_ctx_tileCkpt (s : State) (f : Regs → Regs) : (s.mapRegs f).ctx.tileCkpt = s.ctx.tileCkpt := rfl
@[simp] theorem State.mapRegs_ctx_batch (s : State) (f : Regs → Regs) : (s.mapRegs f).ctx.batch = s.ctx.batch := rfl
@[simp] theorem State.mapRegs_ctx_batchSeq (s : State) (f : Regs → Regs) : (s.mapRegs f).ctx.batchSeq = s.ctx.batchSeq := rfl
@[simp] theorem State.mapRegs_ctx_resume (s : State) (f : Regs → Regs) : (s.mapRegs f).ctx.resume = s.ctx.resume := rfl
@[simp] theorem State.mapRegs_ctx_micro (s : State) (f : Regs → Regs) : (s.mapRegs f).ctx.micro = s.ctx.micro := rfl
@[simp] theorem State.mapRegs_ctx_sampRes (s : State) (f : Regs → Regs) : (s.mapRegs f).ctx.sampRes = s.ctx.sampRes := rfl
@[simp] theorem State.mapRegs_ctx_sampBuild (s : State) (f : Regs → Regs) : (s.mapRegs f).ctx.sampBuild = s.ctx.sampBuild := rfl
@[simp] theorem State.mapRegs_ctx_tags (s : State) (f : Regs → Regs) : (s.mapRegs f).ctx.tags = s.ctx.tags := rfl
@[simp] theorem State.mapRegs_ctx_buffer (s : State) (f : Regs → Regs) : (s.mapRegs f).ctx.buffer = s.ctx.buffer := rfl
@[simp] theorem State.mapRegs_ctx_queue (s : State) (f : Regs → Regs) : (s.mapRegs f).ctx.queue = s.ctx.queue := rfl
@[simp] theorem State.mapRegs_ctx_seq (s : State) (f : Regs → Regs) : (s.mapRegs f).ctx.seq = s.ctx.seq := rfl
@[simp] theorem State.mapRegs_ctx_saved (s : State) (f : Regs → Regs) : (s.mapRegs f).ctx.saved = s.ctx.saved := rfl
@[simp] theorem State.mapRegs_ctx_pending (s : State) (f : Regs → Regs) : (s.mapRegs f).ctx.pending = s.ctx.pending := rfl
@[simp] theorem State.mapRegs_ctx_waiting (s : State) (f : Regs → Regs) : (s.mapRegs f).ctx.waiting = s.ctx.waiting := rfl
@[simp] theorem State.mapRegs_ctx_remote (s : State) (f : Regs → Regs) : (s.mapRegs f).ctx.remote = s.ctx.remote := rfl
@[simp] theorem State.mapRegs_ctx_trap (s : State) (f : Regs → Regs) : (s.mapRegs f).ctx.trap = s.ctx.trap := rfl
@[simp] theorem State.mapRegs_ctx_fault (s : State) (f : Regs → Regs) : (s.mapRegs f).ctx.fault = s.ctx.fault := rfl
@[simp] theorem State.mapRegs_ctx_commit (s : State) (f : Regs → Regs) : (s.mapRegs f).ctx.commit = s.ctx.commit := rfl
@[simp] theorem State.mapRegs_ctx_atCkpt (s : State) (f : Regs → Regs) : (s.mapRegs f).ctx.atCkpt = s.ctx.atCkpt := rfl
@[simp] theorem State.mapRegs_ctx_endCkpt (s : State) (f : Regs → Regs) : (s.mapRegs f).ctx.endCkpt = s.ctx.endCkpt := rfl
@[simp] theorem State.mapRegs_ctx_yielded (s : State) (f : Regs → Regs) : (s.mapRegs f).ctx.yielded = s.ctx.yielded := rfl
@[simp] theorem State.mapRegs_ctx_ppPoint (s : State) (f : Regs → Regs) : (s.mapRegs f).ctx.ppPoint = s.ctx.ppPoint := rfl
@[simp] theorem State.mapRegs_ctx_backPoint (s : State) (f : Regs → Regs) : (s.mapRegs f).ctx.backPoint = s.ctx.backPoint := rfl
@[simp] theorem State.mapRegs_ctx_breakOnce (s : State) (f : Regs → Regs) : (s.mapRegs f).ctx.breakOnce = s.ctx.breakOnce := rfl
@[simp] theorem State.mapRegs_ctx_released (s : State) (f : Regs → Regs) : (s.mapRegs f).ctx.released = s.ctx.released := rfl
@[simp] theorem State.mapRegs_ctx_relCkpt (s : State) (f : Regs → Regs) : (s.mapRegs f).ctx.relCkpt = s.ctx.relCkpt := rfl
@[simp] theorem State.mapRegs_ctx_giving (s : State) (f : Regs → Regs) : (s.mapRegs f).ctx.giving = s.ctx.giving := rfl
@[simp] theorem State.mapRegs_ctx_brels (s : State) (f : Regs → Regs) : (s.mapRegs f).ctx.brels = s.ctx.brels := rfl
@[simp] theorem State.mapRegs_ctx_applied (s : State) (f : Regs → Regs) : (s.mapRegs f).ctx.applied = s.ctx.applied := rfl
@[simp] theorem State.mapRegs_ctx_paged (s : State) (f : Regs → Regs) : (s.mapRegs f).ctx.paged = s.ctx.paged := rfl
@[simp] theorem State.mapRegs_ctx_interval (s : State) (f : Regs → Regs) : (s.mapRegs f).ctx.interval = s.ctx.interval := rfl
@[simp] theorem State.mapRegs_ctx_acqTab (s : State) (f : Regs → Regs) : (s.mapRegs f).ctx.acqTab = s.ctx.acqTab := rfl
@[simp] theorem State.mapRegs_ctx_ckptSeq (s : State) (f : Regs → Regs) : (s.mapRegs f).ctx.ckptSeq = s.ctx.ckptSeq := rfl
@[simp] theorem State.mapRegs_ctx_unc (s : State) (f : Regs → Regs) : (s.mapRegs f).ctx.unc = s.ctx.unc := rfl
@[simp] theorem State.mapRegs_ctx_preempt (s : State) (f : Regs → Regs) : (s.mapRegs f).ctx.preempt = s.ctx.preempt := rfl
@[simp] theorem State.mapRegs_ctx_parked (s : State) (f : Regs → Regs) : (s.mapRegs f).ctx.parked = s.ctx.parked := rfl
@[simp] theorem State.mapRegs_ctx_exited (s : State) (f : Regs → Regs) : (s.mapRegs f).ctx.exited = s.ctx.exited := rfl
@[simp] theorem State.mapRegs_ctx_intact (s : State) (f : Regs → Regs) : (s.mapRegs f).ctx.intact = s.ctx.intact := rfl
@[simp] theorem State.mapRegs_ctx_floors (s : State) (f : Regs → Regs) : (s.mapRegs f).ctx.floors = s.ctx.floors := rfl
@[simp] theorem State.mapRegs_ctx_lastRead (s : State) (f : Regs → Regs) : (s.mapRegs f).ctx.lastRead = s.ctx.lastRead := rfl
@[simp] theorem State.mapRegs_ctx_seenAt (s : State) (f : Regs → Regs) : (s.mapRegs f).ctx.seenAt = s.ctx.seenAt := rfl
@[simp] theorem State.mapRegs_ctx_entries (s : State) (f : Regs → Regs) : (s.mapRegs f).ctx.entries = s.ctx.entries := rfl
@[simp] theorem State.mapRegs_ctx_fences (s : State) (f : Regs → Regs) : (s.mapRegs f).ctx.fences = s.ctx.fences := rfl
@[simp] theorem State.mapRegs_ctx_relFence (s : State) (f : Regs → Regs) : (s.mapRegs f).ctx.relFence = s.ctx.relFence := rfl
@[simp] theorem State.mapRegs_ctx_acqFence (s : State) (f : Regs → Regs) : (s.mapRegs f).ctx.acqFence = s.ctx.acqFence := rfl
@[simp] theorem State.mapRegs_ctx_longOp (s : State) (f : Regs → Regs) : (s.mapRegs f).ctx.longOp = s.ctx.longOp := rfl
@[simp] theorem State.mapRegs_ctx_longCkpt (s : State) (f : Regs → Regs) : (s.mapRegs f).ctx.longCkpt = s.ctx.longCkpt := rfl

/-! ### tick -/

@[simp] theorem State.tick_ctx (s : State) : (s.tick).ctx = s.ctx := rfl
@[simp] theorem State.tick_peer (s : State) : (s.tick).peer = s.peer := rfl
@[simp] theorem State.tick_core (s : State) : (s.tick).core = s.core := rfl
@[simp] theorem State.tick_coreNum (s : State) : (s.tick).coreNum = s.coreNum := rfl
@[simp] theorem State.tick_slotNum (s : State) : (s.tick).slotNum = s.slotNum := rfl
@[simp] theorem State.tick_cores (s : State) : (s.tick).cores = s.cores := rfl
@[simp] theorem State.tick_pkg (s : State) : (s.tick).pkg = s.pkg := rfl
@[simp] theorem State.tick_host (s : State) : (s.tick).host = s.host := rfl
@[simp] theorem State.tick_pool (s : State) : (s.tick).pool = s.pool := rfl
@[simp] theorem State.tick_cur (s : State) : (s.tick).cur = s.cur := rfl
@[simp] theorem State.tick_arg (s : State) : (s.tick).arg = s.arg := rfl
@[simp] theorem State.tick_inbox (s : State) : (s.tick).inbox = s.inbox := rfl
@[simp] theorem State.tick_clock (s : State) : (s.tick).clock = s.clock + 1 := rfl

/-! ### report -/

@[simp] theorem State.report_peer (s : State) (o : OpId) (i : TrapInfo) : (s.report o i).peer = s.peer := rfl
@[simp] theorem State.report_core (s : State) (o : OpId) (i : TrapInfo) : (s.report o i).core = s.core := rfl
@[simp] theorem State.report_coreNum (s : State) (o : OpId) (i : TrapInfo) : (s.report o i).coreNum = s.coreNum := rfl
@[simp] theorem State.report_slotNum (s : State) (o : OpId) (i : TrapInfo) : (s.report o i).slotNum = s.slotNum := rfl
@[simp] theorem State.report_cores (s : State) (o : OpId) (i : TrapInfo) : (s.report o i).cores = s.cores := rfl
@[simp] theorem State.report_pkg (s : State) (o : OpId) (i : TrapInfo) : (s.report o i).pkg = s.pkg := rfl
@[simp] theorem State.report_host (s : State) (o : OpId) (i : TrapInfo) : (s.report o i).host = s.host := rfl
@[simp] theorem State.report_pool (s : State) (o : OpId) (i : TrapInfo) : (s.report o i).pool = s.pool := rfl
@[simp] theorem State.report_cur (s : State) (o : OpId) (i : TrapInfo) : (s.report o i).cur = s.cur := rfl
@[simp] theorem State.report_arg (s : State) (o : OpId) (i : TrapInfo) : (s.report o i).arg = s.arg := rfl
@[simp] theorem State.report_inbox (s : State) (o : OpId) (i : TrapInfo) : (s.report o i).inbox = s.inbox := rfl
@[simp] theorem State.report_clock (s : State) (o : OpId) (i : TrapInfo) : (s.report o i).clock = s.clock := rfl
@[simp] theorem State.report_ctx_live (s : State) (o : OpId) (i : TrapInfo) : (s.report o i).ctx.live = s.ctx.live := rfl
@[simp] theorem State.report_ctx_issuable (s : State) (o : OpId) (i : TrapInfo) : (s.report o i).ctx.issuable = s.ctx.issuable := rfl
@[simp] theorem State.report_ctx_hold (s : State) (o : OpId) (i : TrapInfo) : (s.report o i).ctx.hold = s.ctx.hold := rfl
@[simp] theorem State.report_ctx_info (s : State) (o : OpId) (i : TrapInfo) : (s.report o i).ctx.info = s.ctx.info := rfl
@[simp] theorem State.report_ctx_image (s : State) (o : OpId) (i : TrapInfo) : (s.report o i).ctx.image = s.ctx.image := rfl
@[simp] theorem State.report_ctx_regs (s : State) (o : OpId) (i : TrapInfo) : (s.report o i).ctx.regs = s.ctx.regs := rfl
@[simp] theorem State.report_ctx_ckpt (s : State) (o : OpId) (i : TrapInfo) : (s.report o i).ctx.ckpt = s.ctx.ckpt := rfl
@[simp] theorem State.report_ctx_shadow (s : State) (o : OpId) (i : TrapInfo) : (s.report o i).ctx.shadow = s.ctx.shadow := rfl
@[simp] theorem State.report_ctx_status (s : State) (o : OpId) (i : TrapInfo) : (s.report o i).ctx.status = s.ctx.status := rfl
@[simp] theorem State.report_ctx_ckstat (s : State) (o : OpId) (i : TrapInfo) : (s.report o i).ctx.ckstat = s.ctx.ckstat := rfl
@[simp] theorem State.report_ctx_progidx (s : State) (o : OpId) (i : TrapInfo) : (s.report o i).ctx.progidx = s.ctx.progidx := rfl
@[simp] theorem State.report_ctx_mtmask (s : State) (o : OpId) (i : TrapInfo) : (s.report o i).ctx.mtmask = s.ctx.mtmask := rfl
@[simp] theorem State.report_ctx_spLo (s : State) (o : OpId) (i : TrapInfo) : (s.report o i).ctx.spLo = s.ctx.spLo := rfl
@[simp] theorem State.report_ctx_spHi (s : State) (o : OpId) (i : TrapInfo) : (s.report o i).ctx.spHi = s.ctx.spHi := rfl
@[simp] theorem State.report_ctx_domain (s : State) (o : OpId) (i : TrapInfo) : (s.report o i).ctx.domain = s.ctx.domain := rfl
@[simp] theorem State.report_ctx_stepToken (s : State) (o : OpId) (i : TrapInfo) : (s.report o i).ctx.stepToken = s.ctx.stepToken := rfl
@[simp] theorem State.report_ctx_partWord (s : State) (o : OpId) (i : TrapInfo) : (s.report o i).ctx.partWord = s.ctx.partWord := rfl
@[simp] theorem State.report_ctx_ctxId (s : State) (o : OpId) (i : TrapInfo) : (s.report o i).ctx.ctxId = s.ctx.ctxId := rfl
@[simp] theorem State.report_ctx_wallow (s : State) (o : OpId) (i : TrapInfo) : (s.report o i).ctx.wallow = s.ctx.wallow := rfl
@[simp] theorem State.report_ctx_window (s : State) (o : OpId) (i : TrapInfo) : (s.report o i).ctx.window = s.ctx.window := rfl
@[simp] theorem State.report_ctx_trapRec (s : State) (o : OpId) (i : TrapInfo) : (s.report o i).ctx.trapRec = s.ctx.trapRec := rfl
@[simp] theorem State.report_ctx_tokSeq (s : State) (o : OpId) (i : TrapInfo) : (s.report o i).ctx.tokSeq = s.ctx.tokSeq := rfl
@[simp] theorem State.report_ctx_arrived (s : State) (o : OpId) (i : TrapInfo) : (s.report o i).ctx.arrived = s.ctx.arrived := rfl
@[simp] theorem State.report_ctx_serial (s : State) (o : OpId) (i : TrapInfo) : (s.report o i).ctx.serial = s.ctx.serial := rfl
@[simp] theorem State.report_ctx_tiles (s : State) (o : OpId) (i : TrapInfo) : (s.report o i).ctx.tiles = s.ctx.tiles := rfl
@[simp] theorem State.report_ctx_tileCkpt (s : State) (o : OpId) (i : TrapInfo) : (s.report o i).ctx.tileCkpt = s.ctx.tileCkpt := rfl
@[simp] theorem State.report_ctx_batch (s : State) (o : OpId) (i : TrapInfo) : (s.report o i).ctx.batch = s.ctx.batch := rfl
@[simp] theorem State.report_ctx_batchSeq (s : State) (o : OpId) (i : TrapInfo) : (s.report o i).ctx.batchSeq = s.ctx.batchSeq := rfl
@[simp] theorem State.report_ctx_resume (s : State) (o : OpId) (i : TrapInfo) : (s.report o i).ctx.resume = s.ctx.resume := rfl
@[simp] theorem State.report_ctx_micro (s : State) (o : OpId) (i : TrapInfo) : (s.report o i).ctx.micro = s.ctx.micro := rfl
@[simp] theorem State.report_ctx_sampRes (s : State) (o : OpId) (i : TrapInfo) : (s.report o i).ctx.sampRes = s.ctx.sampRes := rfl
@[simp] theorem State.report_ctx_sampBuild (s : State) (o : OpId) (i : TrapInfo) : (s.report o i).ctx.sampBuild = s.ctx.sampBuild := rfl
@[simp] theorem State.report_ctx_tags (s : State) (o : OpId) (i : TrapInfo) : (s.report o i).ctx.tags = s.ctx.tags := rfl
@[simp] theorem State.report_ctx_buffer (s : State) (o : OpId) (i : TrapInfo) : (s.report o i).ctx.buffer = s.ctx.buffer := rfl
@[simp] theorem State.report_ctx_queue (s : State) (o : OpId) (i : TrapInfo) : (s.report o i).ctx.queue = s.ctx.queue := rfl
@[simp] theorem State.report_ctx_seq (s : State) (o : OpId) (i : TrapInfo) : (s.report o i).ctx.seq = s.ctx.seq := rfl
@[simp] theorem State.report_ctx_saved (s : State) (o : OpId) (i : TrapInfo) : (s.report o i).ctx.saved = s.ctx.saved := rfl
@[simp] theorem State.report_ctx_pending (s : State) (o : OpId) (i : TrapInfo) : (s.report o i).ctx.pending = s.ctx.pending := rfl
@[simp] theorem State.report_ctx_waiting (s : State) (o : OpId) (i : TrapInfo) : (s.report o i).ctx.waiting = s.ctx.waiting := rfl
@[simp] theorem State.report_ctx_remote (s : State) (o : OpId) (i : TrapInfo) : (s.report o i).ctx.remote = s.ctx.remote := rfl
@[simp] theorem State.report_ctx_trap (s : State) (o : OpId) (i : TrapInfo) : (s.report o i).ctx.trap = s.ctx.trap := rfl
@[simp] theorem State.report_ctx_commit (s : State) (o : OpId) (i : TrapInfo) : (s.report o i).ctx.commit = s.ctx.commit := rfl
@[simp] theorem State.report_ctx_atCkpt (s : State) (o : OpId) (i : TrapInfo) : (s.report o i).ctx.atCkpt = s.ctx.atCkpt := rfl
@[simp] theorem State.report_ctx_endCkpt (s : State) (o : OpId) (i : TrapInfo) : (s.report o i).ctx.endCkpt = s.ctx.endCkpt := rfl
@[simp] theorem State.report_ctx_yielded (s : State) (o : OpId) (i : TrapInfo) : (s.report o i).ctx.yielded = s.ctx.yielded := rfl
@[simp] theorem State.report_ctx_ppPoint (s : State) (o : OpId) (i : TrapInfo) : (s.report o i).ctx.ppPoint = s.ctx.ppPoint := rfl
@[simp] theorem State.report_ctx_backPoint (s : State) (o : OpId) (i : TrapInfo) : (s.report o i).ctx.backPoint = s.ctx.backPoint := rfl
@[simp] theorem State.report_ctx_breakOnce (s : State) (o : OpId) (i : TrapInfo) : (s.report o i).ctx.breakOnce = s.ctx.breakOnce := rfl
@[simp] theorem State.report_ctx_released (s : State) (o : OpId) (i : TrapInfo) : (s.report o i).ctx.released = s.ctx.released := rfl
@[simp] theorem State.report_ctx_relCkpt (s : State) (o : OpId) (i : TrapInfo) : (s.report o i).ctx.relCkpt = s.ctx.relCkpt := rfl
@[simp] theorem State.report_ctx_giving (s : State) (o : OpId) (i : TrapInfo) : (s.report o i).ctx.giving = s.ctx.giving := rfl
@[simp] theorem State.report_ctx_brels (s : State) (o : OpId) (i : TrapInfo) : (s.report o i).ctx.brels = s.ctx.brels := rfl
@[simp] theorem State.report_ctx_applied (s : State) (o : OpId) (i : TrapInfo) : (s.report o i).ctx.applied = s.ctx.applied := rfl
@[simp] theorem State.report_ctx_paged (s : State) (o : OpId) (i : TrapInfo) : (s.report o i).ctx.paged = s.ctx.paged := rfl
@[simp] theorem State.report_ctx_interval (s : State) (o : OpId) (i : TrapInfo) : (s.report o i).ctx.interval = s.ctx.interval := rfl
@[simp] theorem State.report_ctx_acqTab (s : State) (o : OpId) (i : TrapInfo) : (s.report o i).ctx.acqTab = s.ctx.acqTab := rfl
@[simp] theorem State.report_ctx_ckptSeq (s : State) (o : OpId) (i : TrapInfo) : (s.report o i).ctx.ckptSeq = s.ctx.ckptSeq := rfl
@[simp] theorem State.report_ctx_unc (s : State) (o : OpId) (i : TrapInfo) : (s.report o i).ctx.unc = s.ctx.unc := rfl
@[simp] theorem State.report_ctx_preempt (s : State) (o : OpId) (i : TrapInfo) : (s.report o i).ctx.preempt = s.ctx.preempt := rfl
@[simp] theorem State.report_ctx_parked (s : State) (o : OpId) (i : TrapInfo) : (s.report o i).ctx.parked = s.ctx.parked := rfl
@[simp] theorem State.report_ctx_exited (s : State) (o : OpId) (i : TrapInfo) : (s.report o i).ctx.exited = s.ctx.exited := rfl
@[simp] theorem State.report_ctx_intact (s : State) (o : OpId) (i : TrapInfo) : (s.report o i).ctx.intact = s.ctx.intact := rfl
@[simp] theorem State.report_ctx_floors (s : State) (o : OpId) (i : TrapInfo) : (s.report o i).ctx.floors = s.ctx.floors := rfl
@[simp] theorem State.report_ctx_lastRead (s : State) (o : OpId) (i : TrapInfo) : (s.report o i).ctx.lastRead = s.ctx.lastRead := rfl
@[simp] theorem State.report_ctx_seenAt (s : State) (o : OpId) (i : TrapInfo) : (s.report o i).ctx.seenAt = s.ctx.seenAt := rfl
@[simp] theorem State.report_ctx_entries (s : State) (o : OpId) (i : TrapInfo) : (s.report o i).ctx.entries = s.ctx.entries := rfl
@[simp] theorem State.report_ctx_fences (s : State) (o : OpId) (i : TrapInfo) : (s.report o i).ctx.fences = s.ctx.fences := rfl
@[simp] theorem State.report_ctx_relFence (s : State) (o : OpId) (i : TrapInfo) : (s.report o i).ctx.relFence = s.ctx.relFence := rfl
@[simp] theorem State.report_ctx_acqFence (s : State) (o : OpId) (i : TrapInfo) : (s.report o i).ctx.acqFence = s.ctx.acqFence := rfl
@[simp] theorem State.report_ctx_longOp (s : State) (o : OpId) (i : TrapInfo) : (s.report o i).ctx.longOp = s.ctx.longOp := rfl
@[simp] theorem State.report_ctx_longCkpt (s : State) (o : OpId) (i : TrapInfo) : (s.report o i).ctx.longCkpt = s.ctx.longCkpt := rfl

/-! ### reportKept -/

@[simp] theorem State.reportKept_peer (s : State) (o : OpId) (i : TrapInfo) : (s.reportKept o i).peer = s.peer := rfl
@[simp] theorem State.reportKept_core (s : State) (o : OpId) (i : TrapInfo) : (s.reportKept o i).core = s.core := rfl
@[simp] theorem State.reportKept_coreNum (s : State) (o : OpId) (i : TrapInfo) : (s.reportKept o i).coreNum = s.coreNum := rfl
@[simp] theorem State.reportKept_slotNum (s : State) (o : OpId) (i : TrapInfo) : (s.reportKept o i).slotNum = s.slotNum := rfl
@[simp] theorem State.reportKept_cores (s : State) (o : OpId) (i : TrapInfo) : (s.reportKept o i).cores = s.cores := rfl
@[simp] theorem State.reportKept_pkg (s : State) (o : OpId) (i : TrapInfo) : (s.reportKept o i).pkg = s.pkg := rfl
@[simp] theorem State.reportKept_host (s : State) (o : OpId) (i : TrapInfo) : (s.reportKept o i).host = s.host := rfl
@[simp] theorem State.reportKept_pool (s : State) (o : OpId) (i : TrapInfo) : (s.reportKept o i).pool = s.pool := rfl
@[simp] theorem State.reportKept_cur (s : State) (o : OpId) (i : TrapInfo) : (s.reportKept o i).cur = s.cur := rfl
@[simp] theorem State.reportKept_arg (s : State) (o : OpId) (i : TrapInfo) : (s.reportKept o i).arg = s.arg := rfl
@[simp] theorem State.reportKept_inbox (s : State) (o : OpId) (i : TrapInfo) : (s.reportKept o i).inbox = s.inbox := rfl
@[simp] theorem State.reportKept_clock (s : State) (o : OpId) (i : TrapInfo) : (s.reportKept o i).clock = s.clock := rfl
@[simp] theorem State.reportKept_ctx_live (s : State) (o : OpId) (i : TrapInfo) : (s.reportKept o i).ctx.live = s.ctx.live := rfl
@[simp] theorem State.reportKept_ctx_issuable (s : State) (o : OpId) (i : TrapInfo) : (s.reportKept o i).ctx.issuable = s.ctx.issuable := rfl
@[simp] theorem State.reportKept_ctx_hold (s : State) (o : OpId) (i : TrapInfo) : (s.reportKept o i).ctx.hold = s.ctx.hold := rfl
@[simp] theorem State.reportKept_ctx_info (s : State) (o : OpId) (i : TrapInfo) : (s.reportKept o i).ctx.info = s.ctx.info := rfl
@[simp] theorem State.reportKept_ctx_image (s : State) (o : OpId) (i : TrapInfo) : (s.reportKept o i).ctx.image = s.ctx.image := rfl
@[simp] theorem State.reportKept_ctx_regs (s : State) (o : OpId) (i : TrapInfo) : (s.reportKept o i).ctx.regs = s.ctx.regs := rfl
@[simp] theorem State.reportKept_ctx_ckpt (s : State) (o : OpId) (i : TrapInfo) : (s.reportKept o i).ctx.ckpt = s.ctx.ckpt := rfl
@[simp] theorem State.reportKept_ctx_shadow (s : State) (o : OpId) (i : TrapInfo) : (s.reportKept o i).ctx.shadow = s.ctx.shadow := rfl
@[simp] theorem State.reportKept_ctx_status (s : State) (o : OpId) (i : TrapInfo) : (s.reportKept o i).ctx.status = s.ctx.status := rfl
@[simp] theorem State.reportKept_ctx_ckstat (s : State) (o : OpId) (i : TrapInfo) : (s.reportKept o i).ctx.ckstat = s.ctx.ckstat := rfl
@[simp] theorem State.reportKept_ctx_progidx (s : State) (o : OpId) (i : TrapInfo) : (s.reportKept o i).ctx.progidx = s.ctx.progidx := rfl
@[simp] theorem State.reportKept_ctx_mtmask (s : State) (o : OpId) (i : TrapInfo) : (s.reportKept o i).ctx.mtmask = s.ctx.mtmask := rfl
@[simp] theorem State.reportKept_ctx_spLo (s : State) (o : OpId) (i : TrapInfo) : (s.reportKept o i).ctx.spLo = s.ctx.spLo := rfl
@[simp] theorem State.reportKept_ctx_spHi (s : State) (o : OpId) (i : TrapInfo) : (s.reportKept o i).ctx.spHi = s.ctx.spHi := rfl
@[simp] theorem State.reportKept_ctx_domain (s : State) (o : OpId) (i : TrapInfo) : (s.reportKept o i).ctx.domain = s.ctx.domain := rfl
@[simp] theorem State.reportKept_ctx_stepToken (s : State) (o : OpId) (i : TrapInfo) : (s.reportKept o i).ctx.stepToken = s.ctx.stepToken := rfl
@[simp] theorem State.reportKept_ctx_partWord (s : State) (o : OpId) (i : TrapInfo) : (s.reportKept o i).ctx.partWord = s.ctx.partWord := rfl
@[simp] theorem State.reportKept_ctx_ctxId (s : State) (o : OpId) (i : TrapInfo) : (s.reportKept o i).ctx.ctxId = s.ctx.ctxId := rfl
@[simp] theorem State.reportKept_ctx_wallow (s : State) (o : OpId) (i : TrapInfo) : (s.reportKept o i).ctx.wallow = s.ctx.wallow := rfl
@[simp] theorem State.reportKept_ctx_window (s : State) (o : OpId) (i : TrapInfo) : (s.reportKept o i).ctx.window = s.ctx.window := rfl
@[simp] theorem State.reportKept_ctx_trapRec (s : State) (o : OpId) (i : TrapInfo) : (s.reportKept o i).ctx.trapRec = s.ctx.trapRec := rfl
@[simp] theorem State.reportKept_ctx_tokSeq (s : State) (o : OpId) (i : TrapInfo) : (s.reportKept o i).ctx.tokSeq = s.ctx.tokSeq := rfl
@[simp] theorem State.reportKept_ctx_arrived (s : State) (o : OpId) (i : TrapInfo) : (s.reportKept o i).ctx.arrived = s.ctx.arrived := rfl
@[simp] theorem State.reportKept_ctx_serial (s : State) (o : OpId) (i : TrapInfo) : (s.reportKept o i).ctx.serial = s.ctx.serial := rfl
@[simp] theorem State.reportKept_ctx_tiles (s : State) (o : OpId) (i : TrapInfo) : (s.reportKept o i).ctx.tiles = s.ctx.tiles := rfl
@[simp] theorem State.reportKept_ctx_tileCkpt (s : State) (o : OpId) (i : TrapInfo) : (s.reportKept o i).ctx.tileCkpt = s.ctx.tileCkpt := rfl
@[simp] theorem State.reportKept_ctx_batch (s : State) (o : OpId) (i : TrapInfo) : (s.reportKept o i).ctx.batch = s.ctx.batch := rfl
@[simp] theorem State.reportKept_ctx_batchSeq (s : State) (o : OpId) (i : TrapInfo) : (s.reportKept o i).ctx.batchSeq = s.ctx.batchSeq := rfl
@[simp] theorem State.reportKept_ctx_resume (s : State) (o : OpId) (i : TrapInfo) : (s.reportKept o i).ctx.resume = s.ctx.resume := rfl
@[simp] theorem State.reportKept_ctx_micro (s : State) (o : OpId) (i : TrapInfo) : (s.reportKept o i).ctx.micro = s.ctx.micro := rfl
@[simp] theorem State.reportKept_ctx_sampRes (s : State) (o : OpId) (i : TrapInfo) : (s.reportKept o i).ctx.sampRes = s.ctx.sampRes := rfl
@[simp] theorem State.reportKept_ctx_sampBuild (s : State) (o : OpId) (i : TrapInfo) : (s.reportKept o i).ctx.sampBuild = s.ctx.sampBuild := rfl
@[simp] theorem State.reportKept_ctx_tags (s : State) (o : OpId) (i : TrapInfo) : (s.reportKept o i).ctx.tags = s.ctx.tags := rfl
@[simp] theorem State.reportKept_ctx_buffer (s : State) (o : OpId) (i : TrapInfo) : (s.reportKept o i).ctx.buffer = s.ctx.buffer := rfl
@[simp] theorem State.reportKept_ctx_queue (s : State) (o : OpId) (i : TrapInfo) : (s.reportKept o i).ctx.queue = s.ctx.queue := rfl
@[simp] theorem State.reportKept_ctx_seq (s : State) (o : OpId) (i : TrapInfo) : (s.reportKept o i).ctx.seq = s.ctx.seq := rfl
@[simp] theorem State.reportKept_ctx_saved (s : State) (o : OpId) (i : TrapInfo) : (s.reportKept o i).ctx.saved = s.ctx.saved := rfl
@[simp] theorem State.reportKept_ctx_pending (s : State) (o : OpId) (i : TrapInfo) : (s.reportKept o i).ctx.pending = s.ctx.pending := rfl
@[simp] theorem State.reportKept_ctx_waiting (s : State) (o : OpId) (i : TrapInfo) : (s.reportKept o i).ctx.waiting = s.ctx.waiting := rfl
@[simp] theorem State.reportKept_ctx_remote (s : State) (o : OpId) (i : TrapInfo) : (s.reportKept o i).ctx.remote = s.ctx.remote := rfl
@[simp] theorem State.reportKept_ctx_trap (s : State) (o : OpId) (i : TrapInfo) : (s.reportKept o i).ctx.trap = s.ctx.trap := rfl
@[simp] theorem State.reportKept_ctx_commit (s : State) (o : OpId) (i : TrapInfo) : (s.reportKept o i).ctx.commit = s.ctx.commit := rfl
@[simp] theorem State.reportKept_ctx_atCkpt (s : State) (o : OpId) (i : TrapInfo) : (s.reportKept o i).ctx.atCkpt = s.ctx.atCkpt := rfl
@[simp] theorem State.reportKept_ctx_endCkpt (s : State) (o : OpId) (i : TrapInfo) : (s.reportKept o i).ctx.endCkpt = s.ctx.endCkpt := rfl
@[simp] theorem State.reportKept_ctx_yielded (s : State) (o : OpId) (i : TrapInfo) : (s.reportKept o i).ctx.yielded = s.ctx.yielded := rfl
@[simp] theorem State.reportKept_ctx_ppPoint (s : State) (o : OpId) (i : TrapInfo) : (s.reportKept o i).ctx.ppPoint = s.ctx.ppPoint := rfl
@[simp] theorem State.reportKept_ctx_backPoint (s : State) (o : OpId) (i : TrapInfo) : (s.reportKept o i).ctx.backPoint = s.ctx.backPoint := rfl
@[simp] theorem State.reportKept_ctx_breakOnce (s : State) (o : OpId) (i : TrapInfo) : (s.reportKept o i).ctx.breakOnce = s.ctx.breakOnce := rfl
@[simp] theorem State.reportKept_ctx_released (s : State) (o : OpId) (i : TrapInfo) : (s.reportKept o i).ctx.released = s.ctx.released := rfl
@[simp] theorem State.reportKept_ctx_relCkpt (s : State) (o : OpId) (i : TrapInfo) : (s.reportKept o i).ctx.relCkpt = s.ctx.relCkpt := rfl
@[simp] theorem State.reportKept_ctx_giving (s : State) (o : OpId) (i : TrapInfo) : (s.reportKept o i).ctx.giving = s.ctx.giving := rfl
@[simp] theorem State.reportKept_ctx_brels (s : State) (o : OpId) (i : TrapInfo) : (s.reportKept o i).ctx.brels = s.ctx.brels := rfl
@[simp] theorem State.reportKept_ctx_applied (s : State) (o : OpId) (i : TrapInfo) : (s.reportKept o i).ctx.applied = s.ctx.applied := rfl
@[simp] theorem State.reportKept_ctx_paged (s : State) (o : OpId) (i : TrapInfo) : (s.reportKept o i).ctx.paged = s.ctx.paged := rfl
@[simp] theorem State.reportKept_ctx_interval (s : State) (o : OpId) (i : TrapInfo) : (s.reportKept o i).ctx.interval = s.ctx.interval := rfl
@[simp] theorem State.reportKept_ctx_acqTab (s : State) (o : OpId) (i : TrapInfo) : (s.reportKept o i).ctx.acqTab = s.ctx.acqTab := rfl
@[simp] theorem State.reportKept_ctx_ckptSeq (s : State) (o : OpId) (i : TrapInfo) : (s.reportKept o i).ctx.ckptSeq = s.ctx.ckptSeq := rfl
@[simp] theorem State.reportKept_ctx_unc (s : State) (o : OpId) (i : TrapInfo) : (s.reportKept o i).ctx.unc = s.ctx.unc := rfl
@[simp] theorem State.reportKept_ctx_preempt (s : State) (o : OpId) (i : TrapInfo) : (s.reportKept o i).ctx.preempt = s.ctx.preempt := rfl
@[simp] theorem State.reportKept_ctx_parked (s : State) (o : OpId) (i : TrapInfo) : (s.reportKept o i).ctx.parked = s.ctx.parked := rfl
@[simp] theorem State.reportKept_ctx_exited (s : State) (o : OpId) (i : TrapInfo) : (s.reportKept o i).ctx.exited = s.ctx.exited := rfl
@[simp] theorem State.reportKept_ctx_intact (s : State) (o : OpId) (i : TrapInfo) : (s.reportKept o i).ctx.intact = s.ctx.intact := rfl
@[simp] theorem State.reportKept_ctx_floors (s : State) (o : OpId) (i : TrapInfo) : (s.reportKept o i).ctx.floors = s.ctx.floors := rfl
@[simp] theorem State.reportKept_ctx_lastRead (s : State) (o : OpId) (i : TrapInfo) : (s.reportKept o i).ctx.lastRead = s.ctx.lastRead := rfl
@[simp] theorem State.reportKept_ctx_seenAt (s : State) (o : OpId) (i : TrapInfo) : (s.reportKept o i).ctx.seenAt = s.ctx.seenAt := rfl
@[simp] theorem State.reportKept_ctx_entries (s : State) (o : OpId) (i : TrapInfo) : (s.reportKept o i).ctx.entries = s.ctx.entries := rfl
@[simp] theorem State.reportKept_ctx_fences (s : State) (o : OpId) (i : TrapInfo) : (s.reportKept o i).ctx.fences = s.ctx.fences := rfl
@[simp] theorem State.reportKept_ctx_relFence (s : State) (o : OpId) (i : TrapInfo) : (s.reportKept o i).ctx.relFence = s.ctx.relFence := rfl
@[simp] theorem State.reportKept_ctx_acqFence (s : State) (o : OpId) (i : TrapInfo) : (s.reportKept o i).ctx.acqFence = s.ctx.acqFence := rfl
@[simp] theorem State.reportKept_ctx_longOp (s : State) (o : OpId) (i : TrapInfo) : (s.reportKept o i).ctx.longOp = s.ctx.longOp := rfl
@[simp] theorem State.reportKept_ctx_longCkpt (s : State) (o : OpId) (i : TrapInfo) : (s.reportKept o i).ctx.longCkpt = s.ctx.longCkpt := rfl

/-! ### forceAfter -/

@[simp] theorem State.forceAfter_peer (s : State) (r : CommitReq) : (s.forceAfter r).peer = s.peer := rfl
@[simp] theorem State.forceAfter_core (s : State) (r : CommitReq) : (s.forceAfter r).core = s.core := rfl
@[simp] theorem State.forceAfter_coreNum (s : State) (r : CommitReq) : (s.forceAfter r).coreNum = s.coreNum := rfl
@[simp] theorem State.forceAfter_slotNum (s : State) (r : CommitReq) : (s.forceAfter r).slotNum = s.slotNum := rfl
@[simp] theorem State.forceAfter_cores (s : State) (r : CommitReq) : (s.forceAfter r).cores = s.cores := rfl
@[simp] theorem State.forceAfter_pkg (s : State) (r : CommitReq) : (s.forceAfter r).pkg = s.pkg := rfl
@[simp] theorem State.forceAfter_host (s : State) (r : CommitReq) : (s.forceAfter r).host = s.host := rfl
@[simp] theorem State.forceAfter_pool (s : State) (r : CommitReq) : (s.forceAfter r).pool = s.pool := rfl
@[simp] theorem State.forceAfter_cur (s : State) (r : CommitReq) : (s.forceAfter r).cur = s.cur := rfl
@[simp] theorem State.forceAfter_arg (s : State) (r : CommitReq) : (s.forceAfter r).arg = s.arg := rfl
@[simp] theorem State.forceAfter_inbox (s : State) (r : CommitReq) : (s.forceAfter r).inbox = s.inbox := rfl
@[simp] theorem State.forceAfter_clock (s : State) (r : CommitReq) : (s.forceAfter r).clock = s.clock := rfl
@[simp] theorem State.forceAfter_ctx_live (s : State) (r : CommitReq) : (s.forceAfter r).ctx.live = s.ctx.live := rfl
@[simp] theorem State.forceAfter_ctx_issuable (s : State) (r : CommitReq) : (s.forceAfter r).ctx.issuable = s.ctx.issuable := rfl
@[simp] theorem State.forceAfter_ctx_hold (s : State) (r : CommitReq) : (s.forceAfter r).ctx.hold = s.ctx.hold := rfl
@[simp] theorem State.forceAfter_ctx_info (s : State) (r : CommitReq) : (s.forceAfter r).ctx.info = s.ctx.info := rfl
@[simp] theorem State.forceAfter_ctx_image (s : State) (r : CommitReq) : (s.forceAfter r).ctx.image = s.ctx.image := rfl
@[simp] theorem State.forceAfter_ctx_regs (s : State) (r : CommitReq) : (s.forceAfter r).ctx.regs = s.ctx.regs := rfl
@[simp] theorem State.forceAfter_ctx_ckpt (s : State) (r : CommitReq) : (s.forceAfter r).ctx.ckpt = s.ctx.ckpt := rfl
@[simp] theorem State.forceAfter_ctx_shadow (s : State) (r : CommitReq) : (s.forceAfter r).ctx.shadow = s.ctx.shadow := rfl
@[simp] theorem State.forceAfter_ctx_status (s : State) (r : CommitReq) : (s.forceAfter r).ctx.status = s.ctx.status := rfl
@[simp] theorem State.forceAfter_ctx_ckstat (s : State) (r : CommitReq) : (s.forceAfter r).ctx.ckstat = s.ctx.ckstat := rfl
@[simp] theorem State.forceAfter_ctx_progidx (s : State) (r : CommitReq) : (s.forceAfter r).ctx.progidx = s.ctx.progidx := rfl
@[simp] theorem State.forceAfter_ctx_mtmask (s : State) (r : CommitReq) : (s.forceAfter r).ctx.mtmask = s.ctx.mtmask := rfl
@[simp] theorem State.forceAfter_ctx_spLo (s : State) (r : CommitReq) : (s.forceAfter r).ctx.spLo = s.ctx.spLo := rfl
@[simp] theorem State.forceAfter_ctx_spHi (s : State) (r : CommitReq) : (s.forceAfter r).ctx.spHi = s.ctx.spHi := rfl
@[simp] theorem State.forceAfter_ctx_domain (s : State) (r : CommitReq) : (s.forceAfter r).ctx.domain = s.ctx.domain := rfl
@[simp] theorem State.forceAfter_ctx_stepToken (s : State) (r : CommitReq) : (s.forceAfter r).ctx.stepToken = s.ctx.stepToken := rfl
@[simp] theorem State.forceAfter_ctx_partWord (s : State) (r : CommitReq) : (s.forceAfter r).ctx.partWord = s.ctx.partWord := rfl
@[simp] theorem State.forceAfter_ctx_ctxId (s : State) (r : CommitReq) : (s.forceAfter r).ctx.ctxId = s.ctx.ctxId := rfl
@[simp] theorem State.forceAfter_ctx_wallow (s : State) (r : CommitReq) : (s.forceAfter r).ctx.wallow = s.ctx.wallow := rfl
@[simp] theorem State.forceAfter_ctx_window (s : State) (r : CommitReq) : (s.forceAfter r).ctx.window = s.ctx.window := rfl
@[simp] theorem State.forceAfter_ctx_trapRec (s : State) (r : CommitReq) : (s.forceAfter r).ctx.trapRec = s.ctx.trapRec := rfl
@[simp] theorem State.forceAfter_ctx_tokSeq (s : State) (r : CommitReq) : (s.forceAfter r).ctx.tokSeq = s.ctx.tokSeq := rfl
@[simp] theorem State.forceAfter_ctx_arrived (s : State) (r : CommitReq) : (s.forceAfter r).ctx.arrived = s.ctx.arrived := rfl
@[simp] theorem State.forceAfter_ctx_serial (s : State) (r : CommitReq) : (s.forceAfter r).ctx.serial = s.ctx.serial := rfl
@[simp] theorem State.forceAfter_ctx_tiles (s : State) (r : CommitReq) : (s.forceAfter r).ctx.tiles = s.ctx.tiles := rfl
@[simp] theorem State.forceAfter_ctx_tileCkpt (s : State) (r : CommitReq) : (s.forceAfter r).ctx.tileCkpt = s.ctx.tileCkpt := rfl
@[simp] theorem State.forceAfter_ctx_batch (s : State) (r : CommitReq) : (s.forceAfter r).ctx.batch = s.ctx.batch := rfl
@[simp] theorem State.forceAfter_ctx_batchSeq (s : State) (r : CommitReq) : (s.forceAfter r).ctx.batchSeq = s.ctx.batchSeq := rfl
@[simp] theorem State.forceAfter_ctx_resume (s : State) (r : CommitReq) : (s.forceAfter r).ctx.resume = s.ctx.resume := rfl
@[simp] theorem State.forceAfter_ctx_micro (s : State) (r : CommitReq) : (s.forceAfter r).ctx.micro = s.ctx.micro := rfl
@[simp] theorem State.forceAfter_ctx_sampRes (s : State) (r : CommitReq) : (s.forceAfter r).ctx.sampRes = s.ctx.sampRes := rfl
@[simp] theorem State.forceAfter_ctx_sampBuild (s : State) (r : CommitReq) : (s.forceAfter r).ctx.sampBuild = s.ctx.sampBuild := rfl
@[simp] theorem State.forceAfter_ctx_tags (s : State) (r : CommitReq) : (s.forceAfter r).ctx.tags = s.ctx.tags := rfl
@[simp] theorem State.forceAfter_ctx_buffer (s : State) (r : CommitReq) : (s.forceAfter r).ctx.buffer = s.ctx.buffer := rfl
@[simp] theorem State.forceAfter_ctx_queue (s : State) (r : CommitReq) : (s.forceAfter r).ctx.queue = s.ctx.queue := rfl
@[simp] theorem State.forceAfter_ctx_seq (s : State) (r : CommitReq) : (s.forceAfter r).ctx.seq = s.ctx.seq := rfl
@[simp] theorem State.forceAfter_ctx_saved (s : State) (r : CommitReq) : (s.forceAfter r).ctx.saved = s.ctx.saved := rfl
@[simp] theorem State.forceAfter_ctx_pending (s : State) (r : CommitReq) : (s.forceAfter r).ctx.pending = s.ctx.pending := rfl
@[simp] theorem State.forceAfter_ctx_waiting (s : State) (r : CommitReq) : (s.forceAfter r).ctx.waiting = s.ctx.waiting := rfl
@[simp] theorem State.forceAfter_ctx_remote (s : State) (r : CommitReq) : (s.forceAfter r).ctx.remote = s.ctx.remote := rfl
@[simp] theorem State.forceAfter_ctx_trap (s : State) (r : CommitReq) : (s.forceAfter r).ctx.trap = s.ctx.trap := rfl
@[simp] theorem State.forceAfter_ctx_fault (s : State) (r : CommitReq) : (s.forceAfter r).ctx.fault = s.ctx.fault := rfl
@[simp] theorem State.forceAfter_ctx_commit (s : State) (r : CommitReq) : (s.forceAfter r).ctx.commit = s.ctx.commit := rfl
@[simp] theorem State.forceAfter_ctx_atCkpt (s : State) (r : CommitReq) : (s.forceAfter r).ctx.atCkpt = s.ctx.atCkpt := rfl
@[simp] theorem State.forceAfter_ctx_yielded (s : State) (r : CommitReq) : (s.forceAfter r).ctx.yielded = s.ctx.yielded := rfl
@[simp] theorem State.forceAfter_ctx_ppPoint (s : State) (r : CommitReq) : (s.forceAfter r).ctx.ppPoint = s.ctx.ppPoint := rfl
@[simp] theorem State.forceAfter_ctx_backPoint (s : State) (r : CommitReq) : (s.forceAfter r).ctx.backPoint = s.ctx.backPoint := rfl
@[simp] theorem State.forceAfter_ctx_breakOnce (s : State) (r : CommitReq) : (s.forceAfter r).ctx.breakOnce = s.ctx.breakOnce := rfl
@[simp] theorem State.forceAfter_ctx_released (s : State) (r : CommitReq) : (s.forceAfter r).ctx.released = s.ctx.released := rfl
@[simp] theorem State.forceAfter_ctx_relCkpt (s : State) (r : CommitReq) : (s.forceAfter r).ctx.relCkpt = s.ctx.relCkpt := rfl
@[simp] theorem State.forceAfter_ctx_giving (s : State) (r : CommitReq) : (s.forceAfter r).ctx.giving = s.ctx.giving := rfl
@[simp] theorem State.forceAfter_ctx_brels (s : State) (r : CommitReq) : (s.forceAfter r).ctx.brels = s.ctx.brels := rfl
@[simp] theorem State.forceAfter_ctx_applied (s : State) (r : CommitReq) : (s.forceAfter r).ctx.applied = s.ctx.applied := rfl
@[simp] theorem State.forceAfter_ctx_paged (s : State) (r : CommitReq) : (s.forceAfter r).ctx.paged = s.ctx.paged := rfl
@[simp] theorem State.forceAfter_ctx_interval (s : State) (r : CommitReq) : (s.forceAfter r).ctx.interval = s.ctx.interval := rfl
@[simp] theorem State.forceAfter_ctx_acqTab (s : State) (r : CommitReq) : (s.forceAfter r).ctx.acqTab = s.ctx.acqTab := rfl
@[simp] theorem State.forceAfter_ctx_ckptSeq (s : State) (r : CommitReq) : (s.forceAfter r).ctx.ckptSeq = s.ctx.ckptSeq := rfl
@[simp] theorem State.forceAfter_ctx_unc (s : State) (r : CommitReq) : (s.forceAfter r).ctx.unc = s.ctx.unc := rfl
@[simp] theorem State.forceAfter_ctx_preempt (s : State) (r : CommitReq) : (s.forceAfter r).ctx.preempt = s.ctx.preempt := rfl
@[simp] theorem State.forceAfter_ctx_parked (s : State) (r : CommitReq) : (s.forceAfter r).ctx.parked = s.ctx.parked := rfl
@[simp] theorem State.forceAfter_ctx_exited (s : State) (r : CommitReq) : (s.forceAfter r).ctx.exited = s.ctx.exited := rfl
@[simp] theorem State.forceAfter_ctx_intact (s : State) (r : CommitReq) : (s.forceAfter r).ctx.intact = s.ctx.intact := rfl
@[simp] theorem State.forceAfter_ctx_floors (s : State) (r : CommitReq) : (s.forceAfter r).ctx.floors = s.ctx.floors := rfl
@[simp] theorem State.forceAfter_ctx_lastRead (s : State) (r : CommitReq) : (s.forceAfter r).ctx.lastRead = s.ctx.lastRead := rfl
@[simp] theorem State.forceAfter_ctx_seenAt (s : State) (r : CommitReq) : (s.forceAfter r).ctx.seenAt = s.ctx.seenAt := rfl
@[simp] theorem State.forceAfter_ctx_entries (s : State) (r : CommitReq) : (s.forceAfter r).ctx.entries = s.ctx.entries := rfl
@[simp] theorem State.forceAfter_ctx_fences (s : State) (r : CommitReq) : (s.forceAfter r).ctx.fences = s.ctx.fences := rfl
@[simp] theorem State.forceAfter_ctx_relFence (s : State) (r : CommitReq) : (s.forceAfter r).ctx.relFence = s.ctx.relFence := rfl
@[simp] theorem State.forceAfter_ctx_acqFence (s : State) (r : CommitReq) : (s.forceAfter r).ctx.acqFence = s.ctx.acqFence := rfl
@[simp] theorem State.forceAfter_ctx_longOp (s : State) (r : CommitReq) : (s.forceAfter r).ctx.longOp = s.ctx.longOp := rfl
@[simp] theorem State.forceAfter_ctx_longCkpt (s : State) (r : CommitReq) : (s.forceAfter r).ctx.longCkpt = s.ctx.longCkpt := rfl

end Sys2Proof.Machine
end

