-- ==== Sys2Proof/Laws/Ops.lean ====
section
/-! SUPPORT. Ops.lean: what each shared operation can do, said once: the registers and the values kept for a bundle, traps, waits,
predicates, and writing a byte at a place. -/
namespace Sys2Proof.Machine

/-! ### Traps and waits -/

/-- Holding a trap changes the trap held and nothing else. -/
theorem State.hold_eq (s : State) (h : Held) : s.hold h = { s with ctx := { s.ctx with trap := (s.hold h).ctx.trap } } := by
  unfold State.hold
  split
  · rfl
  · split <;> rfl

/-- The first trap of a context is held as it is. -/
theorem State.hold_first (s : State) (h : Held) (hn : s.ctx.trap = none) : s.hold h = { s with ctx := { s.ctx with trap := some h } } := by
  unfold State.hold
  rw [hn]

/-- An operation's trap is held, or reported when it is asynchronous: nothing else changes. -/
theorem State.raise_eq (s : State) (i : TrapInfo) :
    s.raise i = { s with ctx := { s.ctx with trap := (s.raise i).ctx.trap, fault := (s.raise i).ctx.fault } } := by
  unfold State.raise
  split
  · rfl
  · split
    · rw [State.hold_eq]
    · rw [State.hold_eq]

/-- An operation that waits goes back to its queue, and may become the one in a tagged wait. -/
theorem State.block_eq (s : State) (b : Bool) :
    s.block b = { s with ctx := { s.ctx with queue := (s.block b).ctx.queue, waiting := (s.block b).ctx.waiting } } := by
  unfold State.block
  split <;> rfl

/-! ### Predicates -/

/-- Under a predicate that holds an operation has its effect; else it changes nothing (R61). -/
theorem State.under_true {s : State} {q : Pred} {f : State → State} (h : s.holds q = true) : s.under q f = .next (f s) := by
  simp [State.under, h]

theorem State.under_false {s : State} {q : Pred} {f : State → State} (h : s.holds q = false) : s.under q f = .next s := by
  simp [State.under, h]

/-- A C operation under a predicate that holds has its effect; else its bundle passes (R61, R327). -/
theorem State.cOp_true {s : State} {q : Pred} {f : State → State} (h : s.holds q = true) : s.cOp q f = .next (f s) := by
  simp [State.cOp, h]

theorem State.cOp_false {s : State} {q : Pred} {f : State → State} (h : s.holds q = false) : s.cOp q f = .next s.passBundle := by
  simp [State.cOp, h]

/-! ### Registers -/

/-- Keeping an old value changes what is kept and nothing else (R36). -/
theorem State.keep_eq (s : State) (x : OldValue) : s.keep x = { s with ctx := { s.ctx with saved := (s.keep x).ctx.saved } } := by
  unfold State.keep
  split
  · rfl
  · split <;> rfl

@[simp] theorem State.keep_regs (s : State) (x : OldValue) : (s.keep x).ctx.regs = s.ctx.regs := by rw [State.keep_eq]

/-- Without an operation at work nothing is kept. -/
theorem State.keep_idle {s : State} (h : s.cur = none) (x : OldValue) : s.keep x = s := by
  unfold State.keep
  rw [h]

/-- Without an operation at work every register reads as it stands. -/
theorem State.old_idle {s : State} (h : s.cur = none) {α : Type} (f : OldValue → Option α) : s.old f = none := by
  unfold State.old
  rw [h]

@[simp] theorem State.keep_peer (s : State) (x : OldValue) : (s.keep x).peer = s.peer := by rw [State.keep_eq]
@[simp] theorem State.keep_core (s : State) (x : OldValue) : (s.keep x).core = s.core := by rw [State.keep_eq]
@[simp] theorem State.keep_coreNum (s : State) (x : OldValue) : (s.keep x).coreNum = s.coreNum := by rw [State.keep_eq]
@[simp] theorem State.keep_slotNum (s : State) (x : OldValue) : (s.keep x).slotNum = s.slotNum := by rw [State.keep_eq]
@[simp] theorem State.keep_cores (s : State) (x : OldValue) : (s.keep x).cores = s.cores := by rw [State.keep_eq]
@[simp] theorem State.keep_pkg (s : State) (x : OldValue) : (s.keep x).pkg = s.pkg := by rw [State.keep_eq]
@[simp] theorem State.keep_host (s : State) (x : OldValue) : (s.keep x).host = s.host := by rw [State.keep_eq]
@[simp] theorem State.keep_pool (s : State) (x : OldValue) : (s.keep x).pool = s.pool := by rw [State.keep_eq]
@[simp] theorem State.keep_cur (s : State) (x : OldValue) : (s.keep x).cur = s.cur := by rw [State.keep_eq]
@[simp] theorem State.keep_arg (s : State) (x : OldValue) : (s.keep x).arg = s.arg := by rw [State.keep_eq]
@[simp] theorem State.keep_inbox (s : State) (x : OldValue) : (s.keep x).inbox = s.inbox := by rw [State.keep_eq]
@[simp] theorem State.keep_clock (s : State) (x : OldValue) : (s.keep x).clock = s.clock := by rw [State.keep_eq]

@[simp] theorem State.writeS_peer (s : State) (r : SReg) (x : Word) : (s.writeS r x).peer = s.peer := by unfold State.writeS; split <;> simp
@[simp] theorem State.writeS_core (s : State) (r : SReg) (x : Word) : (s.writeS r x).core = s.core := by unfold State.writeS; split <;> simp
@[simp] theorem State.writeS_coreNum (s : State) (r : SReg) (x : Word) : (s.writeS r x).coreNum = s.coreNum := by unfold State.writeS; split <;> simp
@[simp] theorem State.writeS_slotNum (s : State) (r : SReg) (x : Word) : (s.writeS r x).slotNum = s.slotNum := by unfold State.writeS; split <;> simp
@[simp] theorem State.writeS_cores (s : State) (r : SReg) (x : Word) : (s.writeS r x).cores = s.cores := by unfold State.writeS; split <;> simp
@[simp] theorem State.writeS_pkg (s : State) (r : SReg) (x : Word) : (s.writeS r x).pkg = s.pkg := by unfold State.writeS; split <;> simp
@[simp] theorem State.writeS_host (s : State) (r : SReg) (x : Word) : (s.writeS r x).host = s.host := by unfold State.writeS; split <;> simp
@[simp] theorem State.writeS_pool (s : State) (r : SReg) (x : Word) : (s.writeS r x).pool = s.pool := by unfold State.writeS; split <;> simp
@[simp] theorem State.writeS_cur (s : State) (r : SReg) (x : Word) : (s.writeS r x).cur = s.cur := by unfold State.writeS; split <;> simp
@[simp] theorem State.writeS_arg (s : State) (r : SReg) (x : Word) : (s.writeS r x).arg = s.arg := by unfold State.writeS; split <;> simp
@[simp] theorem State.writeS_inbox (s : State) (r : SReg) (x : Word) : (s.writeS r x).inbox = s.inbox := by unfold State.writeS; split <;> simp
@[simp] theorem State.writeS_clock (s : State) (r : SReg) (x : Word) : (s.writeS r x).clock = s.clock := by unfold State.writeS; split <;> simp
@[simp] theorem State.writeP_peer (s : State) (r : PReg) (x : Bool) : (s.writeP r x).peer = s.peer := by unfold State.writeP; split <;> simp
@[simp] theorem State.writeP_core (s : State) (r : PReg) (x : Bool) : (s.writeP r x).core = s.core := by unfold State.writeP; split <;> simp
@[simp] theorem State.writeP_coreNum (s : State) (r : PReg) (x : Bool) : (s.writeP r x).coreNum = s.coreNum := by unfold State.writeP; split <;> simp
@[simp] theorem State.writeP_slotNum (s : State) (r : PReg) (x : Bool) : (s.writeP r x).slotNum = s.slotNum := by unfold State.writeP; split <;> simp
@[simp] theorem State.writeP_cores (s : State) (r : PReg) (x : Bool) : (s.writeP r x).cores = s.cores := by unfold State.writeP; split <;> simp
@[simp] theorem State.writeP_pkg (s : State) (r : PReg) (x : Bool) : (s.writeP r x).pkg = s.pkg := by unfold State.writeP; split <;> simp
@[simp] theorem State.writeP_host (s : State) (r : PReg) (x : Bool) : (s.writeP r x).host = s.host := by unfold State.writeP; split <;> simp
@[simp] theorem State.writeP_pool (s : State) (r : PReg) (x : Bool) : (s.writeP r x).pool = s.pool := by unfold State.writeP; split <;> simp
@[simp] theorem State.writeP_cur (s : State) (r : PReg) (x : Bool) : (s.writeP r x).cur = s.cur := by unfold State.writeP; split <;> simp
@[simp] theorem State.writeP_arg (s : State) (r : PReg) (x : Bool) : (s.writeP r x).arg = s.arg := by unfold State.writeP; split <;> simp
@[simp] theorem State.writeP_inbox (s : State) (r : PReg) (x : Bool) : (s.writeP r x).inbox = s.inbox := by unfold State.writeP; split <;> simp
@[simp] theorem State.writeP_clock (s : State) (r : PReg) (x : Bool) : (s.writeP r x).clock = s.clock := by unfold State.writeP; split <;> simp
@[simp] theorem State.writeV_peer (s : State) (r : VReg) (x : Vec) : (s.writeV r x).peer = s.peer := by simp [State.writeV]
@[simp] theorem State.writeV_core (s : State) (r : VReg) (x : Vec) : (s.writeV r x).core = s.core := by simp [State.writeV]
@[simp] theorem State.writeV_coreNum (s : State) (r : VReg) (x : Vec) : (s.writeV r x).coreNum = s.coreNum := by simp [State.writeV]
@[simp] theorem State.writeV_slotNum (s : State) (r : VReg) (x : Vec) : (s.writeV r x).slotNum = s.slotNum := by simp [State.writeV]
@[simp] theorem State.writeV_cores (s : State) (r : VReg) (x : Vec) : (s.writeV r x).cores = s.cores := by simp [State.writeV]
@[simp] theorem State.writeV_pkg (s : State) (r : VReg) (x : Vec) : (s.writeV r x).pkg = s.pkg := by simp [State.writeV]
@[simp] theorem State.writeV_host (s : State) (r : VReg) (x : Vec) : (s.writeV r x).host = s.host := by simp [State.writeV]
@[simp] theorem State.writeV_pool (s : State) (r : VReg) (x : Vec) : (s.writeV r x).pool = s.pool := by simp [State.writeV]
@[simp] theorem State.writeV_cur (s : State) (r : VReg) (x : Vec) : (s.writeV r x).cur = s.cur := by simp [State.writeV]
@[simp] theorem State.writeV_arg (s : State) (r : VReg) (x : Vec) : (s.writeV r x).arg = s.arg := by simp [State.writeV]
@[simp] theorem State.writeV_inbox (s : State) (r : VReg) (x : Vec) : (s.writeV r x).inbox = s.inbox := by simp [State.writeV]
@[simp] theorem State.writeV_clock (s : State) (r : VReg) (x : Vec) : (s.writeV r x).clock = s.clock := by simp [State.writeV]
@[simp] theorem State.writeK_peer (s : State) (r : KReg) (x : Word) : (s.writeK r x).peer = s.peer := by unfold State.writeK; split <;> simp
@[simp] theorem State.writeK_core (s : State) (r : KReg) (x : Word) : (s.writeK r x).core = s.core := by unfold State.writeK; split <;> simp
@[simp] theorem State.writeK_coreNum (s : State) (r : KReg) (x : Word) : (s.writeK r x).coreNum = s.coreNum := by unfold State.writeK; split <;> simp
@[simp] theorem State.writeK_slotNum (s : State) (r : KReg) (x : Word) : (s.writeK r x).slotNum = s.slotNum := by unfold State.writeK; split <;> simp
@[simp] theorem State.writeK_cores (s : State) (r : KReg) (x : Word) : (s.writeK r x).cores = s.cores := by unfold State.writeK; split <;> simp
@[simp] theorem State.writeK_pkg (s : State) (r : KReg) (x : Word) : (s.writeK r x).pkg = s.pkg := by unfold State.writeK; split <;> simp
@[simp] theorem State.writeK_host (s : State) (r : KReg) (x : Word) : (s.writeK r x).host = s.host := by unfold State.writeK; split <;> simp
@[simp] theorem State.writeK_pool (s : State) (r : KReg) (x : Word) : (s.writeK r x).pool = s.pool := by unfold State.writeK; split <;> simp
@[simp] theorem State.writeK_cur (s : State) (r : KReg) (x : Word) : (s.writeK r x).cur = s.cur := by unfold State.writeK; split <;> simp
@[simp] theorem State.writeK_arg (s : State) (r : KReg) (x : Word) : (s.writeK r x).arg = s.arg := by unfold State.writeK; split <;> simp
@[simp] theorem State.writeK_inbox (s : State) (r : KReg) (x : Word) : (s.writeK r x).inbox = s.inbox := by unfold State.writeK; split <;> simp
@[simp] theorem State.writeK_clock (s : State) (r : KReg) (x : Word) : (s.writeK r x).clock = s.clock := by unfold State.writeK; split <;> simp
@[simp] theorem State.writeC_peer (s : State) (r : CReg) (x : BitVec 128) : (s.writeC r x).peer = s.peer := by unfold State.writeC; split <;> simp
@[simp] theorem State.writeC_core (s : State) (r : CReg) (x : BitVec 128) : (s.writeC r x).core = s.core := by unfold State.writeC; split <;> simp
@[simp] theorem State.writeC_coreNum (s : State) (r : CReg) (x : BitVec 128) : (s.writeC r x).coreNum = s.coreNum := by unfold State.writeC; split <;> simp
@[simp] theorem State.writeC_slotNum (s : State) (r : CReg) (x : BitVec 128) : (s.writeC r x).slotNum = s.slotNum := by unfold State.writeC; split <;> simp
@[simp] theorem State.writeC_cores (s : State) (r : CReg) (x : BitVec 128) : (s.writeC r x).cores = s.cores := by unfold State.writeC; split <;> simp
@[simp] theorem State.writeC_pkg (s : State) (r : CReg) (x : BitVec 128) : (s.writeC r x).pkg = s.pkg := by unfold State.writeC; split <;> simp
@[simp] theorem State.writeC_host (s : State) (r : CReg) (x : BitVec 128) : (s.writeC r x).host = s.host := by unfold State.writeC; split <;> simp
@[simp] theorem State.writeC_pool (s : State) (r : CReg) (x : BitVec 128) : (s.writeC r x).pool = s.pool := by unfold State.writeC; split <;> simp
@[simp] theorem State.writeC_cur (s : State) (r : CReg) (x : BitVec 128) : (s.writeC r x).cur = s.cur := by unfold State.writeC; split <;> simp
@[simp] theorem State.writeC_arg (s : State) (r : CReg) (x : BitVec 128) : (s.writeC r x).arg = s.arg := by unfold State.writeC; split <;> simp
@[simp] theorem State.writeC_inbox (s : State) (r : CReg) (x : BitVec 128) : (s.writeC r x).inbox = s.inbox := by unfold State.writeC; split <;> simp
@[simp] theorem State.writeC_clock (s : State) (r : CReg) (x : BitVec 128) : (s.writeC r x).clock = s.clock := by unfold State.writeC; split <;> simp
@[simp] theorem State.writeT_peer (s : State) (r : TReg) (x : BitVec 256) : (s.writeT r x).peer = s.peer := by simp [State.writeT]
@[simp] theorem State.writeT_core (s : State) (r : TReg) (x : BitVec 256) : (s.writeT r x).core = s.core := by simp [State.writeT]
@[simp] theorem State.writeT_coreNum (s : State) (r : TReg) (x : BitVec 256) : (s.writeT r x).coreNum = s.coreNum := by simp [State.writeT]
@[simp] theorem State.writeT_slotNum (s : State) (r : TReg) (x : BitVec 256) : (s.writeT r x).slotNum = s.slotNum := by simp [State.writeT]
@[simp] theorem State.writeT_cores (s : State) (r : TReg) (x : BitVec 256) : (s.writeT r x).cores = s.cores := by simp [State.writeT]
@[simp] theorem State.writeT_pkg (s : State) (r : TReg) (x : BitVec 256) : (s.writeT r x).pkg = s.pkg := by simp [State.writeT]
@[simp] theorem State.writeT_host (s : State) (r : TReg) (x : BitVec 256) : (s.writeT r x).host = s.host := by simp [State.writeT]
@[simp] theorem State.writeT_pool (s : State) (r : TReg) (x : BitVec 256) : (s.writeT r x).pool = s.pool := by simp [State.writeT]
@[simp] theorem State.writeT_cur (s : State) (r : TReg) (x : BitVec 256) : (s.writeT r x).cur = s.cur := by simp [State.writeT]
@[simp] theorem State.writeT_arg (s : State) (r : TReg) (x : BitVec 256) : (s.writeT r x).arg = s.arg := by simp [State.writeT]
@[simp] theorem State.writeT_inbox (s : State) (r : TReg) (x : BitVec 256) : (s.writeT r x).inbox = s.inbox := by simp [State.writeT]
@[simp] theorem State.writeT_clock (s : State) (r : TReg) (x : BitVec 256) : (s.writeT r x).clock = s.clock := by simp [State.writeT]
@[simp] theorem State.writeQ_peer (s : State) (r : QReg) (x : BitVec 128) : (s.writeQ r x).peer = s.peer := by simp [State.writeQ]
@[simp] theorem State.writeQ_core (s : State) (r : QReg) (x : BitVec 128) : (s.writeQ r x).core = s.core := by simp [State.writeQ]
@[simp] theorem State.writeQ_coreNum (s : State) (r : QReg) (x : BitVec 128) : (s.writeQ r x).coreNum = s.coreNum := by simp [State.writeQ]
@[simp] theorem State.writeQ_slotNum (s : State) (r : QReg) (x : BitVec 128) : (s.writeQ r x).slotNum = s.slotNum := by simp [State.writeQ]
@[simp] theorem State.writeQ_cores (s : State) (r : QReg) (x : BitVec 128) : (s.writeQ r x).cores = s.cores := by simp [State.writeQ]
@[simp] theorem State.writeQ_pkg (s : State) (r : QReg) (x : BitVec 128) : (s.writeQ r x).pkg = s.pkg := by simp [State.writeQ]
@[simp] theorem State.writeQ_host (s : State) (r : QReg) (x : BitVec 128) : (s.writeQ r x).host = s.host := by simp [State.writeQ]
@[simp] theorem State.writeQ_pool (s : State) (r : QReg) (x : BitVec 128) : (s.writeQ r x).pool = s.pool := by simp [State.writeQ]
@[simp] theorem State.writeQ_cur (s : State) (r : QReg) (x : BitVec 128) : (s.writeQ r x).cur = s.cur := by simp [State.writeQ]
@[simp] theorem State.writeQ_arg (s : State) (r : QReg) (x : BitVec 128) : (s.writeQ r x).arg = s.arg := by simp [State.writeQ]
@[simp] theorem State.writeQ_inbox (s : State) (r : QReg) (x : BitVec 128) : (s.writeQ r x).inbox = s.inbox := by simp [State.writeQ]
@[simp] theorem State.writeQ_clock (s : State) (r : QReg) (x : BitVec 128) : (s.writeQ r x).clock = s.clock := by simp [State.writeQ]
@[simp] theorem State.writeMp_peer (s : State) (r : MpReg) (x : Word) : (s.writeMp r x).peer = s.peer := by simp [State.writeMp]
@[simp] theorem State.writeMp_core (s : State) (r : MpReg) (x : Word) : (s.writeMp r x).core = s.core := by simp [State.writeMp]
@[simp] theorem State.writeMp_coreNum (s : State) (r : MpReg) (x : Word) : (s.writeMp r x).coreNum = s.coreNum := by simp [State.writeMp]
@[simp] theorem State.writeMp_slotNum (s : State) (r : MpReg) (x : Word) : (s.writeMp r x).slotNum = s.slotNum := by simp [State.writeMp]
@[simp] theorem State.writeMp_cores (s : State) (r : MpReg) (x : Word) : (s.writeMp r x).cores = s.cores := by simp [State.writeMp]
@[simp] theorem State.writeMp_pkg (s : State) (r : MpReg) (x : Word) : (s.writeMp r x).pkg = s.pkg := by simp [State.writeMp]
@[simp] theorem State.writeMp_host (s : State) (r : MpReg) (x : Word) : (s.writeMp r x).host = s.host := by simp [State.writeMp]
@[simp] theorem State.writeMp_pool (s : State) (r : MpReg) (x : Word) : (s.writeMp r x).pool = s.pool := by simp [State.writeMp]
@[simp] theorem State.writeMp_cur (s : State) (r : MpReg) (x : Word) : (s.writeMp r x).cur = s.cur := by simp [State.writeMp]
@[simp] theorem State.writeMp_arg (s : State) (r : MpReg) (x : Word) : (s.writeMp r x).arg = s.arg := by simp [State.writeMp]
@[simp] theorem State.writeMp_inbox (s : State) (r : MpReg) (x : Word) : (s.writeMp r x).inbox = s.inbox := by simp [State.writeMp]
@[simp] theorem State.writeMp_clock (s : State) (r : MpReg) (x : Word) : (s.writeMp r x).clock = s.clock := by simp [State.writeMp]
@[simp] theorem State.writeMask_peer (s : State) (m : Vector Word 16) (d : BitVec 5) : (s.writeMask m d).peer = s.peer := by simp [State.writeMask]
@[simp] theorem State.writeMask_core (s : State) (m : Vector Word 16) (d : BitVec 5) : (s.writeMask m d).core = s.core := by simp [State.writeMask]
@[simp] theorem State.writeMask_coreNum (s : State) (m : Vector Word 16) (d : BitVec 5) : (s.writeMask m d).coreNum = s.coreNum := by simp [State.writeMask]
@[simp] theorem State.writeMask_slotNum (s : State) (m : Vector Word 16) (d : BitVec 5) : (s.writeMask m d).slotNum = s.slotNum := by simp [State.writeMask]
@[simp] theorem State.writeMask_cores (s : State) (m : Vector Word 16) (d : BitVec 5) : (s.writeMask m d).cores = s.cores := by simp [State.writeMask]
@[simp] theorem State.writeMask_pkg (s : State) (m : Vector Word 16) (d : BitVec 5) : (s.writeMask m d).pkg = s.pkg := by simp [State.writeMask]
@[simp] theorem State.writeMask_host (s : State) (m : Vector Word 16) (d : BitVec 5) : (s.writeMask m d).host = s.host := by simp [State.writeMask]
@[simp] theorem State.writeMask_pool (s : State) (m : Vector Word 16) (d : BitVec 5) : (s.writeMask m d).pool = s.pool := by simp [State.writeMask]
@[simp] theorem State.writeMask_cur (s : State) (m : Vector Word 16) (d : BitVec 5) : (s.writeMask m d).cur = s.cur := by simp [State.writeMask]
@[simp] theorem State.writeMask_arg (s : State) (m : Vector Word 16) (d : BitVec 5) : (s.writeMask m d).arg = s.arg := by simp [State.writeMask]
@[simp] theorem State.writeMask_inbox (s : State) (m : Vector Word 16) (d : BitVec 5) : (s.writeMask m d).inbox = s.inbox := by simp [State.writeMask]
@[simp] theorem State.writeMask_clock (s : State) (m : Vector Word 16) (d : BitVec 5) : (s.writeMask m d).clock = s.clock := by simp [State.writeMask]

/-! ### Bytes at places -/

theorem State.mapCoreAt_ctx (s : State) (c : BitVec 7) (f : CoreSt → CoreSt) : (s.mapCoreAt c f).ctx = s.ctx := by
  unfold State.mapCoreAt; split <;> rfl
theorem State.mapCoreAt_host (s : State) (c : BitVec 7) (f : CoreSt → CoreSt) : (s.mapCoreAt c f).host = s.host := by
  unfold State.mapCoreAt; split <;> rfl
theorem State.mapCoreAt_pkg (s : State) (c : BitVec 7) (f : CoreSt → CoreSt) : (s.mapCoreAt c f).pkg = s.pkg := by
  unfold State.mapCoreAt; split <;> rfl
theorem State.mapCoreAt_pool (s : State) (c : BitVec 7) (f : CoreSt → CoreSt) : (s.mapCoreAt c f).pool = s.pool := by
  unfold State.mapCoreAt; split <;> rfl

/-- Every scratchpad is canonical. -/
def State.ramsWf (s : State) : Prop := s.core.ram.wf = true ∧ ∀ b ∈ s.cores, b.2.core.ram.wf = true

/-- A change of a core that keeps its scratchpad canonical keeps every scratchpad so. -/
theorem State.mapCoreAt_rams {s : State} {c : BitVec 7} {f : CoreSt → CoreSt} (hf : ∀ k : CoreSt, k.ram.wf = true → (f k).ram.wf = true)
    (h : s.ramsWf) : (s.mapCoreAt c f).ramsWf := by
  unfold State.mapCoreAt
  split
  · exact ⟨hf _ h.1, h.2⟩
  · exact ⟨h.1, tabSet_mem (P := fun b : CoreBox => b.core.ram.wf = true)
      (hf _ (tabGet_mem (P := fun b : CoreBox => b.core.ram.wf = true) rfl h.2 _)) h.2 _⟩

/-- A byte written keeps every memory canonical. -/
theorem State.putAt_wf (s : State) (p : Place) (b : Byte) :
    (s.host.wf = true → (s.putAt p b).host.wf = true) ∧ (s.pkg.hbm.wf = true → (s.putAt p b).pkg.hbm.wf = true) ∧
    (s.pkg.cache.wf = true → (s.putAt p b).pkg.cache.wf = true) ∧ (s.pool.bytes.wf = true → (s.putAt p b).pool.bytes.wf = true) ∧
    (s.ramsWf → (s.putAt p b).ramsWf) := by
  cases p <;> simp only [State.putAt]
  case far p c a =>
    split
    · refine ⟨?_, ?_, ?_, ?_, State.mapCoreAt_rams fun _ h => Memory.put_wf _ _ h⟩ <;> intro h
      · rw [State.mapCoreAt_host]; exact h
      · rw [State.mapCoreAt_pkg]; exact h
      · rw [State.mapCoreAt_pkg]; exact h
      · rw [State.mapCoreAt_pool]; exact h
    · exact ⟨id, id, id, id, id⟩
  all_goals (refine ⟨?_, ?_, ?_, ?_, ?_⟩ <;> intro h) <;> first
    | exact Memory.put_wf _ _ h
    | exact ⟨Memory.put_wf _ _ h.1, h.2⟩
    | exact h

/-- What writing a byte leaves alone. -/
theorem State.putAt_ctx (s : State) (p : Place) (b : Byte) : (s.putAt p b).ctx = s.ctx := by
  cases p <;> simp only [State.putAt, State.mapCore_ctx, State.mapPkg_ctx]
  all_goals try (split <;> first | rfl | exact State.mapCoreAt_ctx _ _ _)

/-- Bytes written keep every memory canonical. -/
theorem State.putCells_wf (l : List (Place × Option Byte)) : ∀ s : State,
    (s.host.wf = true → (s.putCells l).host.wf = true) ∧ (s.pkg.hbm.wf = true → (s.putCells l).pkg.hbm.wf = true) ∧
    (s.pkg.cache.wf = true → (s.putCells l).pkg.cache.wf = true) ∧ (s.pool.bytes.wf = true → (s.putCells l).pool.bytes.wf = true) ∧
    (s.ramsWf → (s.putCells l).ramsWf) := by
  induction l with
  | nil => intro s; exact ⟨id, id, id, id, id⟩
  | cons c l ih =>
    intro s
    obtain ⟨p, b⟩ := c
    cases b with
    | none => exact ih s
    | some b =>
      obtain ⟨h1, h2, h3, h4, h5⟩ := ih (s.putAt p b)
      obtain ⟨g1, g2, g3, g4, g5⟩ := s.putAt_wf p b
      exact ⟨h1 ∘ g1, h2 ∘ g2, h3 ∘ g3, h4 ∘ g4, h5 ∘ g5⟩

/-- The command processor's writes keep the host's memory and HBM canonical. -/
theorem State.devPut_wf (s : State) (a : Nat) (d : List Byte) :
    (s.host.wf = true → (s.devPut a d).host.wf = true) ∧ (s.pkg.hbm.wf = true → (s.devPut a d).pkg.hbm.wf = true) := by
  unfold State.devPut
  split
  · exact ⟨fun h => Memory.putBytes_wf _ _ h, id⟩
  · exact ⟨id, fun h => Memory.putBytes_wf _ _ h⟩

@[simp] theorem State.devPut_ctx (s : State) (a : Nat) (d : List Byte) : (s.devPut a d).ctx = s.ctx := by
  unfold State.devPut
  split <;> rfl

end Sys2Proof.Machine
end

