-- ==== Sys2Proof/Laws/PerInstr.lean ====
section
/-! SUPPORT. PerInstr.lean: the family `Encoding`, one lemma for each constructor: the fields read from the word that the encoder
makes are the fields of the instruction. -/
namespace Sys2Proof.Laws.Encoding

set_option linter.unusedSimpArgs false
set_option Elab.async false

/-- What is read from an instruction's word: by its slot's map, or by the map of the micro-words. -/
def readBack (i : Instr) (w : BitVec 64) : Option Instr :=
  match i.slotOf with
  | some sl => readSlot sl w
  | none => readMicro w

/-- An instruction that has a word is read back from it. -/
def Statement (i : Instr) : Prop := i.wf = true → ∀ w, encode i = some w → readBack i w = some i

/-- From the word itself. -/
theorem of_word {i : Instr} {w : BitVec 64} (h : encode i = some w) (h' : i.wf = true → readBack i w = some i) : Statement i := by
  intro hw v hv
  rw [h] at hv
  cases hv
  exact h' hw

/-- An event has no word. -/
theorem of_none {i : Instr} (h : encode i = none) : Statement i := by
  intro _ v hv
  rw [h] at hv
  cases hv

theorem cNop (q : Pred) : Statement (.cNop q) :=
  of_word rfl (by
    intro _; simp (disch := decide) [readBack, Instr.slotOf, readSlot, readC, putC, predC, fld_or, bit_or, fld_put_same, fld_put_off, bit_put1_same, bit_put_one, bit_put_off, fld_put1_off, bit_put1_off])
theorem cBr (q : Pred) (o : BitVec 22) : Statement (.cBr q o) :=
  of_word rfl (by
    intro _; simp (disch := decide) [readBack, Instr.slotOf, readSlot, readC, putC, predC, fld_or, bit_or, fld_put_same, fld_put_off, bit_put1_same, bit_put_one, bit_put_off, fld_put1_off, bit_put1_off])
theorem cCall (q : Pred) (o : BitVec 22) : Statement (.cCall q o) :=
  of_word rfl (by
    intro _; simp (disch := decide) [readBack, Instr.slotOf, readSlot, readC, putC, predC, fld_or, bit_or, fld_put_same, fld_put_off, bit_put1_same, bit_put_one, bit_put_off, fld_put1_off, bit_put1_off])
theorem cRet (q : Pred) : Statement (.cRet q) :=
  of_word rfl (by
    intro _; simp (disch := decide) [readBack, Instr.slotOf, readSlot, readC, putC, predC, fld_or, bit_or, fld_put_same, fld_put_off, bit_put1_same, bit_put_one, bit_put_off, fld_put1_off, bit_put1_off])
theorem cBrs (q : Pred) (s : SReg) : Statement (.cBrs q s) :=
  of_word rfl (by
    intro _; simp (disch := decide) [readBack, Instr.slotOf, readSlot, readC, putC, predC, fld_or, bit_or, fld_put_same, fld_put_off, bit_put1_same, bit_put_one, bit_put_off, fld_put1_off, bit_put1_off])
theorem cCalls (q : Pred) (s : SReg) : Statement (.cCalls q s) :=
  of_word rfl (by
    intro _; simp (disch := decide) [readBack, Instr.slotOf, readSlot, readC, putC, predC, fld_or, bit_or, fld_put_same, fld_put_off, bit_put1_same, bit_put_one, bit_put_off, fld_put1_off, bit_put1_off])
theorem cLoop (q : Pred) (s : SReg) (e : BitVec 16) : Statement (.cLoop q s e) :=
  of_word rfl (by
    intro _; simp (disch := decide) [readBack, Instr.slotOf, readSlot, readC, putC, predC, fld_or, bit_or, fld_put_same, fld_put_off, bit_put1_same, bit_put_one, bit_put_off, fld_put1_off, bit_put1_off])
theorem cLoopi (q : Pred) (n : BitVec 10) (e : BitVec 12) : Statement (.cLoopi q n e) :=
  of_word rfl (by
    intro _; simp (disch := decide) [readBack, Instr.slotOf, readSlot, readC, putC, predC, fld_or, bit_or, fld_put_same, fld_put_off, bit_put1_same, bit_put_one, bit_put_off, fld_put1_off, bit_put1_off])
theorem cLbreak (q : Pred) : Statement (.cLbreak q) :=
  of_word rfl (by
    intro _; simp (disch := decide) [readBack, Instr.slotOf, readSlot, readC, putC, predC, fld_or, bit_or, fld_put_same, fld_put_off, bit_put1_same, bit_put_one, bit_put_off, fld_put1_off, bit_put1_off])
theorem cLnext (q : Pred) : Statement (.cLnext q) :=
  of_word rfl (by
    intro _; simp (disch := decide) [readBack, Instr.slotOf, readSlot, readC, putC, predC, fld_or, bit_or, fld_put_same, fld_put_off, bit_put1_same, bit_put_one, bit_put_off, fld_put1_off, bit_put1_off])
theorem cYield (q : Pred) : Statement (.cYield q) :=
  of_word rfl (by
    intro _; simp (disch := decide) [readBack, Instr.slotOf, readSlot, readC, putC, predC, fld_or, bit_or, fld_put_same, fld_put_off, bit_put1_same, bit_put_one, bit_put_off, fld_put1_off, bit_put1_off])
theorem cTrap (q : Pred) (code : BitVec 16) : Statement (.cTrap q code) :=
  of_word rfl (by
    intro _; simp (disch := decide) [readBack, Instr.slotOf, readSlot, readC, putC, predC, fld_or, bit_or, fld_put_same, fld_put_off, bit_put1_same, bit_put_one, bit_put_off, fld_put1_off, bit_put1_off])
theorem cExit (q : Pred) : Statement (.cExit q) :=
  of_word rfl (by
    intro _; simp (disch := decide) [readBack, Instr.slotOf, readSlot, readC, putC, predC, fld_or, bit_or, fld_put_same, fld_put_off, bit_put1_same, bit_put_one, bit_put_off, fld_put1_off, bit_put1_off])
theorem cBreak (q : Pred) : Statement (.cBreak q) :=
  of_word rfl (by
    intro _; simp (disch := decide) [readBack, Instr.slotOf, readSlot, readC, putC, predC, fld_or, bit_or, fld_put_same, fld_put_off, bit_put1_same, bit_put_one, bit_put_off, fld_put1_off, bit_put1_off])
theorem aAdd (q : Pred) (d a b : SReg) : Statement (.aAdd q d a b) :=
  of_word rfl (by
    intro _; simp (disch := decide) [readBack, Instr.slotOf, readSlot, readA, putP, predOf, fld_or, bit_or, fld_put_same, fld_put_off, bit_put1_same, bit_put_one, bit_put_off, fld_put1_off, bit_put1_off])
theorem aSub (q : Pred) (d a b : SReg) : Statement (.aSub q d a b) :=
  of_word rfl (by
    intro _; simp (disch := decide) [readBack, Instr.slotOf, readSlot, readA, putP, predOf, fld_or, bit_or, fld_put_same, fld_put_off, bit_put1_same, bit_put_one, bit_put_off, fld_put1_off, bit_put1_off])
theorem aMul (q : Pred) (d a b : SReg) : Statement (.aMul q d a b) :=
  of_word rfl (by
    intro _; simp (disch := decide) [readBack, Instr.slotOf, readSlot, readA, putP, predOf, fld_or, bit_or, fld_put_same, fld_put_off, bit_put1_same, bit_put_one, bit_put_off, fld_put1_off, bit_put1_off])
theorem aMulh (q : Pred) (d a b : SReg) : Statement (.aMulh q d a b) :=
  of_word rfl (by
    intro _; simp (disch := decide) [readBack, Instr.slotOf, readSlot, readA, putP, predOf, fld_or, bit_or, fld_put_same, fld_put_off, bit_put1_same, bit_put_one, bit_put_off, fld_put1_off, bit_put1_off])
theorem aMulhn (q : Pred) (d a b : SReg) : Statement (.aMulhn q d a b) :=
  of_word rfl (by
    intro _; simp (disch := decide) [readBack, Instr.slotOf, readSlot, readA, putP, predOf, fld_or, bit_or, fld_put_same, fld_put_off, bit_put1_same, bit_put_one, bit_put_off, fld_put1_off, bit_put1_off])
theorem aDiv (q : Pred) (d a b : SReg) : Statement (.aDiv q d a b) :=
  of_word rfl (by
    intro _; simp (disch := decide) [readBack, Instr.slotOf, readSlot, readA, putP, predOf, fld_or, bit_or, fld_put_same, fld_put_off, bit_put1_same, bit_put_one, bit_put_off, fld_put1_off, bit_put1_off])
theorem aDivn (q : Pred) (d a b : SReg) : Statement (.aDivn q d a b) :=
  of_word rfl (by
    intro _; simp (disch := decide) [readBack, Instr.slotOf, readSlot, readA, putP, predOf, fld_or, bit_or, fld_put_same, fld_put_off, bit_put1_same, bit_put_one, bit_put_off, fld_put1_off, bit_put1_off])
theorem aRem (q : Pred) (d a b : SReg) : Statement (.aRem q d a b) :=
  of_word rfl (by
    intro _; simp (disch := decide) [readBack, Instr.slotOf, readSlot, readA, putP, predOf, fld_or, bit_or, fld_put_same, fld_put_off, bit_put1_same, bit_put_one, bit_put_off, fld_put1_off, bit_put1_off])
theorem aRemn (q : Pred) (d a b : SReg) : Statement (.aRemn q d a b) :=
  of_word rfl (by
    intro _; simp (disch := decide) [readBack, Instr.slotOf, readSlot, readA, putP, predOf, fld_or, bit_or, fld_put_same, fld_put_off, bit_put1_same, bit_put_one, bit_put_off, fld_put1_off, bit_put1_off])
theorem aAnd (q : Pred) (d a b : SReg) : Statement (.aAnd q d a b) :=
  of_word rfl (by
    intro _; simp (disch := decide) [readBack, Instr.slotOf, readSlot, readA, putP, predOf, fld_or, bit_or, fld_put_same, fld_put_off, bit_put1_same, bit_put_one, bit_put_off, fld_put1_off, bit_put1_off])
theorem aOr (q : Pred) (d a b : SReg) : Statement (.aOr q d a b) :=
  of_word rfl (by
    intro _; simp (disch := decide) [readBack, Instr.slotOf, readSlot, readA, putP, predOf, fld_or, bit_or, fld_put_same, fld_put_off, bit_put1_same, bit_put_one, bit_put_off, fld_put1_off, bit_put1_off])
theorem aXor (q : Pred) (d a b : SReg) : Statement (.aXor q d a b) :=
  of_word rfl (by
    intro _; simp (disch := decide) [readBack, Instr.slotOf, readSlot, readA, putP, predOf, fld_or, bit_or, fld_put_same, fld_put_off, bit_put1_same, bit_put_one, bit_put_off, fld_put1_off, bit_put1_off])
theorem aAndn (q : Pred) (d a b : SReg) : Statement (.aAndn q d a b) :=
  of_word rfl (by
    intro _; simp (disch := decide) [readBack, Instr.slotOf, readSlot, readA, putP, predOf, fld_or, bit_or, fld_put_same, fld_put_off, bit_put1_same, bit_put_one, bit_put_off, fld_put1_off, bit_put1_off])
theorem aShl (q : Pred) (d a b : SReg) : Statement (.aShl q d a b) :=
  of_word rfl (by
    intro _; simp (disch := decide) [readBack, Instr.slotOf, readSlot, readA, putP, predOf, fld_or, bit_or, fld_put_same, fld_put_off, bit_put1_same, bit_put_one, bit_put_off, fld_put1_off, bit_put1_off])
theorem aShr (q : Pred) (d a b : SReg) : Statement (.aShr q d a b) :=
  of_word rfl (by
    intro _; simp (disch := decide) [readBack, Instr.slotOf, readSlot, readA, putP, predOf, fld_or, bit_or, fld_put_same, fld_put_off, bit_put1_same, bit_put_one, bit_put_off, fld_put1_off, bit_put1_off])
theorem aSar (q : Pred) (d a b : SReg) : Statement (.aSar q d a b) :=
  of_word rfl (by
    intro _; simp (disch := decide) [readBack, Instr.slotOf, readSlot, readA, putP, predOf, fld_or, bit_or, fld_put_same, fld_put_off, bit_put1_same, bit_put_one, bit_put_off, fld_put1_off, bit_put1_off])
theorem aRotl (q : Pred) (d a b : SReg) : Statement (.aRotl q d a b) :=
  of_word rfl (by
    intro _; simp (disch := decide) [readBack, Instr.slotOf, readSlot, readA, putP, predOf, fld_or, bit_or, fld_put_same, fld_put_off, bit_put1_same, bit_put_one, bit_put_off, fld_put1_off, bit_put1_off])
theorem aMin (q : Pred) (d a b : SReg) : Statement (.aMin q d a b) :=
  of_word rfl (by
    intro _; simp (disch := decide) [readBack, Instr.slotOf, readSlot, readA, putP, predOf, fld_or, bit_or, fld_put_same, fld_put_off, bit_put1_same, bit_put_one, bit_put_off, fld_put1_off, bit_put1_off])
theorem aMax (q : Pred) (d a b : SReg) : Statement (.aMax q d a b) :=
  of_word rfl (by
    intro _; simp (disch := decide) [readBack, Instr.slotOf, readSlot, readA, putP, predOf, fld_or, bit_or, fld_put_same, fld_put_off, bit_put1_same, bit_put_one, bit_put_off, fld_put1_off, bit_put1_off])
theorem aMinn (q : Pred) (d a b : SReg) : Statement (.aMinn q d a b) :=
  of_word rfl (by
    intro _; simp (disch := decide) [readBack, Instr.slotOf, readSlot, readA, putP, predOf, fld_or, bit_or, fld_put_same, fld_put_off, bit_put1_same, bit_put_one, bit_put_off, fld_put1_off, bit_put1_off])
theorem aMaxn (q : Pred) (d a b : SReg) : Statement (.aMaxn q d a b) :=
  of_word rfl (by
    intro _; simp (disch := decide) [readBack, Instr.slotOf, readSlot, readA, putP, predOf, fld_or, bit_or, fld_put_same, fld_put_off, bit_put1_same, bit_put_one, bit_put_off, fld_put1_off, bit_put1_off])
theorem aSel (q : Pred) (d a b c : SReg) : Statement (.aSel q d a b c) :=
  of_word rfl (by
    intro _; simp (disch := decide) [readBack, Instr.slotOf, readSlot, readA, putP, predOf, fld_or, bit_or, fld_put_same, fld_put_off, bit_put1_same, bit_put_one, bit_put_off, fld_put1_off, bit_put1_off])
theorem aPopc (q : Pred) (d a : SReg) : Statement (.aPopc q d a) :=
  of_word rfl (by
    intro _; simp (disch := decide) [readBack, Instr.slotOf, readSlot, readA, putP, predOf, fld_or, bit_or, fld_put_same, fld_put_off, bit_put1_same, bit_put_one, bit_put_off, fld_put1_off, bit_put1_off])
theorem aClz (q : Pred) (d a : SReg) : Statement (.aClz q d a) :=
  of_word rfl (by
    intro _; simp (disch := decide) [readBack, Instr.slotOf, readSlot, readA, putP, predOf, fld_or, bit_or, fld_put_same, fld_put_off, bit_put1_same, bit_put_one, bit_put_off, fld_put1_off, bit_put1_off])
theorem aCtz (q : Pred) (d a : SReg) : Statement (.aCtz q d a) :=
  of_word rfl (by
    intro _; simp (disch := decide) [readBack, Instr.slotOf, readSlot, readA, putP, predOf, fld_or, bit_or, fld_put_same, fld_put_off, bit_put1_same, bit_put_one, bit_put_off, fld_put1_off, bit_put1_off])
theorem aBext (q : Pred) (d a b : SReg) : Statement (.aBext q d a b) :=
  of_word rfl (by
    intro _; simp (disch := decide) [readBack, Instr.slotOf, readSlot, readA, putP, predOf, fld_or, bit_or, fld_put_same, fld_put_off, bit_put1_same, bit_put_one, bit_put_off, fld_put1_off, bit_put1_off])
theorem aBins (q : Pred) (d a b c : SReg) : Statement (.aBins q d a b c) :=
  of_word rfl (by
    intro _; simp (disch := decide) [readBack, Instr.slotOf, readSlot, readA, putP, predOf, fld_or, bit_or, fld_put_same, fld_put_off, bit_put1_same, bit_put_one, bit_put_off, fld_put1_off, bit_put1_off])
theorem aLea (q : Pred) (d a b : SReg) (f : BitVec 4) : Statement (.aLea q d a b f) :=
  of_word rfl (by
    intro _; simp (disch := decide) [readBack, Instr.slotOf, readSlot, readA, putP, predOf, fld_or, bit_or, fld_put_same, fld_put_off, bit_put1_same, bit_put_one, bit_put_off, fld_put1_off, bit_put1_off])
theorem aMadd (q : Pred) (d a b c : SReg) : Statement (.aMadd q d a b c) :=
  of_word rfl (by
    intro _; simp (disch := decide) [readBack, Instr.slotOf, readSlot, readA, putP, predOf, fld_or, bit_or, fld_put_same, fld_put_off, bit_put1_same, bit_put_one, bit_put_off, fld_put1_off, bit_put1_off])
theorem aAddi (q : Pred) (d a : SReg) (i : BitVec 32) : Statement (.aAddi q d a i) :=
  of_word rfl (by
    intro _; simp (disch := decide) [readBack, Instr.slotOf, readSlot, readA, putP, predOf, fld_or, bit_or, fld_put_same, fld_put_off, bit_put1_same, bit_put_one, bit_put_off, fld_put1_off, bit_put1_off])
theorem aAndi (q : Pred) (d a : SReg) (i : BitVec 32) : Statement (.aAndi q d a i) :=
  of_word rfl (by
    intro _; simp (disch := decide) [readBack, Instr.slotOf, readSlot, readA, putP, predOf, fld_or, bit_or, fld_put_same, fld_put_off, bit_put1_same, bit_put_one, bit_put_off, fld_put1_off, bit_put1_off])
theorem aOri (q : Pred) (d a : SReg) (i : BitVec 32) : Statement (.aOri q d a i) :=
  of_word rfl (by
    intro _; simp (disch := decide) [readBack, Instr.slotOf, readSlot, readA, putP, predOf, fld_or, bit_or, fld_put_same, fld_put_off, bit_put1_same, bit_put_one, bit_put_off, fld_put1_off, bit_put1_off])
theorem aXori (q : Pred) (d a : SReg) (i : BitVec 32) : Statement (.aXori q d a i) :=
  of_word rfl (by
    intro _; simp (disch := decide) [readBack, Instr.slotOf, readSlot, readA, putP, predOf, fld_or, bit_or, fld_put_same, fld_put_off, bit_put1_same, bit_put_one, bit_put_off, fld_put1_off, bit_put1_off])
theorem aShli (q : Pred) (d a : SReg) (i : BitVec 6) : Statement (.aShli q d a i) :=
  of_word rfl (by
    intro _; simp (disch := decide) [readBack, Instr.slotOf, readSlot, readA, putP, predOf, fld_or, bit_or, fld_put_same, fld_put_off, bit_put1_same, bit_put_one, bit_put_off, fld_put1_off, bit_put1_off])
theorem aShri (q : Pred) (d a : SReg) (i : BitVec 6) : Statement (.aShri q d a i) :=
  of_word rfl (by
    intro _; simp (disch := decide) [readBack, Instr.slotOf, readSlot, readA, putP, predOf, fld_or, bit_or, fld_put_same, fld_put_off, bit_put1_same, bit_put_one, bit_put_off, fld_put1_off, bit_put1_off])
theorem aSari (q : Pred) (d a : SReg) (i : BitVec 6) : Statement (.aSari q d a i) :=
  of_word rfl (by
    intro _; simp (disch := decide) [readBack, Instr.slotOf, readSlot, readA, putP, predOf, fld_or, bit_or, fld_put_same, fld_put_off, bit_put1_same, bit_put_one, bit_put_off, fld_put1_off, bit_put1_off])
theorem aMovi (q : Pred) (d : SReg) (i : BitVec 32) : Statement (.aMovi q d i) :=
  of_word rfl (by
    intro _; simp (disch := decide) [readBack, Instr.slotOf, readSlot, readA, putP, predOf, fld_or, bit_or, fld_put_same, fld_put_off, bit_put1_same, bit_put_one, bit_put_off, fld_put1_off, bit_put1_off])
theorem aMovhi (q : Pred) (d a : SReg) (i : BitVec 32) : Statement (.aMovhi q d a i) :=
  of_word rfl (by
    intro _; simp (disch := decide) [readBack, Instr.slotOf, readSlot, readA, putP, predOf, fld_or, bit_or, fld_put_same, fld_put_off, bit_put1_same, bit_put_one, bit_put_off, fld_put1_off, bit_put1_off])
theorem aMuli (q : Pred) (d a : SReg) (i : BitVec 32) : Statement (.aMuli q d a i) :=
  of_word rfl (by
    intro _; simp (disch := decide) [readBack, Instr.slotOf, readSlot, readA, putP, predOf, fld_or, bit_or, fld_put_same, fld_put_off, bit_put1_same, bit_put_one, bit_put_off, fld_put1_off, bit_put1_off])
theorem aCmp (q : Pred) (d : PReg) (a b : SReg) (cond : BitVec 3) : Statement (.aCmp q d a b cond) :=
  of_word rfl (by
    intro _; simp (disch := decide) [readBack, Instr.slotOf, readSlot, readA, putP, predOf, fld_or, bit_or, fld_put_same, fld_put_off, bit_put1_same, bit_put_one, bit_put_off, fld_put1_off, bit_put1_off])
theorem aCmpi (q : Pred) (d : PReg) (a : SReg) (i : BitVec 32) (cond : BitVec 3) : Statement (.aCmpi q d a i cond) :=
  of_word rfl (by
    intro _; simp (disch := decide) [readBack, Instr.slotOf, readSlot, readA, putP, predOf, fld_or, bit_or, fld_put_same, fld_put_off, bit_put1_same, bit_put_one, bit_put_off, fld_put1_off, bit_put1_off])
theorem aPand (q : Pred) (d a b : PReg) : Statement (.aPand q d a b) :=
  of_word rfl (by
    intro _; simp (disch := decide) [readBack, Instr.slotOf, readSlot, readA, putP, predOf, fld_or, bit_or, fld_put_same, fld_put_off, bit_put1_same, bit_put_one, bit_put_off, fld_put1_off, bit_put1_off])
theorem aPor (q : Pred) (d a b : PReg) : Statement (.aPor q d a b) :=
  of_word rfl (by
    intro _; simp (disch := decide) [readBack, Instr.slotOf, readSlot, readA, putP, predOf, fld_or, bit_or, fld_put_same, fld_put_off, bit_put1_same, bit_put_one, bit_put_off, fld_put1_off, bit_put1_off])
theorem aPxor (q : Pred) (d a b : PReg) : Statement (.aPxor q d a b) :=
  of_word rfl (by
    intro _; simp (disch := decide) [readBack, Instr.slotOf, readSlot, readA, putP, predOf, fld_or, bit_or, fld_put_same, fld_put_off, bit_put1_same, bit_put_one, bit_put_off, fld_put1_off, bit_put1_off])
theorem aPnot (q : Pred) (d a : PReg) : Statement (.aPnot q d a) :=
  of_word rfl (by
    intro _; simp (disch := decide) [readBack, Instr.slotOf, readSlot, readA, putP, predOf, fld_or, bit_or, fld_put_same, fld_put_off, bit_put1_same, bit_put_one, bit_put_off, fld_put1_off, bit_put1_off])
theorem aPbit (q : Pred) (d : PReg) (a b : SReg) : Statement (.aPbit q d a b) :=
  of_word rfl (by
    intro _; simp (disch := decide) [readBack, Instr.slotOf, readSlot, readA, putP, predOf, fld_or, bit_or, fld_put_same, fld_put_off, bit_put1_same, bit_put_one, bit_put_off, fld_put1_off, bit_put1_off])
theorem aFadd (q : Pred) (d a b : SReg) (dbl : Bool) (rm : Rm) : Statement (.aFadd q d a b dbl rm) :=
  of_word rfl (by
    intro _; simp (disch := decide) [readBack, Instr.slotOf, readSlot, readA, putP, predOf, fld_or, bit_or, fld_put_same, fld_put_off, bit_put1_same, bit_put_one, bit_put_off, fld_put1_off, bit_put1_off])
theorem aFsub (q : Pred) (d a b : SReg) (dbl : Bool) (rm : Rm) : Statement (.aFsub q d a b dbl rm) :=
  of_word rfl (by
    intro _; simp (disch := decide) [readBack, Instr.slotOf, readSlot, readA, putP, predOf, fld_or, bit_or, fld_put_same, fld_put_off, bit_put1_same, bit_put_one, bit_put_off, fld_put1_off, bit_put1_off])
theorem aFmul (q : Pred) (d a b : SReg) (dbl : Bool) (rm : Rm) : Statement (.aFmul q d a b dbl rm) :=
  of_word rfl (by
    intro _; simp (disch := decide) [readBack, Instr.slotOf, readSlot, readA, putP, predOf, fld_or, bit_or, fld_put_same, fld_put_off, bit_put1_same, bit_put_one, bit_put_off, fld_put1_off, bit_put1_off])
theorem aFma (q : Pred) (d a b c : SReg) (dbl : Bool) (rm : Rm) : Statement (.aFma q d a b c dbl rm) :=
  of_word rfl (by
    intro _; simp (disch := decide) [readBack, Instr.slotOf, readSlot, readA, putP, predOf, fld_or, bit_or, fld_put_same, fld_put_off, bit_put1_same, bit_put_one, bit_put_off, fld_put1_off, bit_put1_off])
theorem aFdiv (q : Pred) (d a b : SReg) (dbl : Bool) (rm : Rm) : Statement (.aFdiv q d a b dbl rm) :=
  of_word rfl (by
    intro _; simp (disch := decide) [readBack, Instr.slotOf, readSlot, readA, putP, predOf, fld_or, bit_or, fld_put_same, fld_put_off, bit_put1_same, bit_put_one, bit_put_off, fld_put1_off, bit_put1_off])
theorem aFsqrt (q : Pred) (d a : SReg) (dbl : Bool) (rm : Rm) : Statement (.aFsqrt q d a dbl rm) :=
  of_word rfl (by
    intro _; simp (disch := decide) [readBack, Instr.slotOf, readSlot, readA, putP, predOf, fld_or, bit_or, fld_put_same, fld_put_off, bit_put1_same, bit_put_one, bit_put_off, fld_put1_off, bit_put1_off])
theorem aFmin (q : Pred) (d a b : SReg) (dbl : Bool) : Statement (.aFmin q d a b dbl) :=
  of_word rfl (by
    intro _; simp (disch := decide) [readBack, Instr.slotOf, readSlot, readA, putP, predOf, fld_or, bit_or, fld_put_same, fld_put_off, bit_put1_same, bit_put_one, bit_put_off, fld_put1_off, bit_put1_off])
theorem aFmax (q : Pred) (d a b : SReg) (dbl : Bool) : Statement (.aFmax q d a b dbl) :=
  of_word rfl (by
    intro _; simp (disch := decide) [readBack, Instr.slotOf, readSlot, readA, putP, predOf, fld_or, bit_or, fld_put_same, fld_put_off, bit_put1_same, bit_put_one, bit_put_off, fld_put1_off, bit_put1_off])
theorem aFcmp (q : Pred) (d : PReg) (a b : SReg) (dbl : Bool) (cond : BitVec 3) : Statement (.aFcmp q d a b dbl cond) :=
  of_word rfl (by
    intro _; simp (disch := decide) [readBack, Instr.slotOf, readSlot, readA, putP, predOf, fld_or, bit_or, fld_put_same, fld_put_off, bit_put1_same, bit_put_one, bit_put_off, fld_put1_off, bit_put1_off])
theorem aFcvt (q : Pred) (d a : SReg) (dt st : Ty) (sat : Bool) (rm : Rm) : Statement (.aFcvt q d a dt st sat rm) :=
  of_word rfl (by
    intro _; simp (disch := decide) [readBack, Instr.slotOf, readSlot, readA, putP, predOf, fld_or, bit_or, fld_put_same, fld_put_off, bit_put1_same, bit_put_one, bit_put_off, fld_put1_off, bit_put1_off])
theorem aFclass (q : Pred) (d a : SReg) (dbl : Bool) : Statement (.aFclass q d a dbl) :=
  of_word rfl (by
    intro _; simp (disch := decide) [readBack, Instr.slotOf, readSlot, readA, putP, predOf, fld_or, bit_or, fld_put_same, fld_put_off, bit_put1_same, bit_put_one, bit_put_off, fld_put1_off, bit_put1_off])
theorem aSysrd (q : Pred) (d : SReg) (n : BitVec 12) : Statement (.aSysrd q d n) :=
  of_word rfl (by
    intro _; simp (disch := decide) [readBack, Instr.slotOf, readSlot, readA, putP, predOf, fld_or, bit_or, fld_put_same, fld_put_off, bit_put1_same, bit_put_one, bit_put_off, fld_put1_off, bit_put1_off])
theorem aSyswr (q : Pred) (a : SReg) (n : BitVec 12) : Statement (.aSyswr q a n) :=
  of_word rfl (by
    intro _; simp (disch := decide) [readBack, Instr.slotOf, readSlot, readA, putP, predOf, fld_or, bit_or, fld_put_same, fld_put_off, bit_put1_same, bit_put_one, bit_put_off, fld_put1_off, bit_put1_off])
theorem aMpset (q : Pred) (m : MpReg) (a : SReg) : Statement (.aMpset q m a) :=
  of_word rfl (by
    intro _; simp (disch := decide) [readBack, Instr.slotOf, readSlot, readA, putP, predOf, fld_or, bit_or, fld_put_same, fld_put_off, bit_put1_same, bit_put_one, bit_put_off, fld_put1_off, bit_put1_off])
theorem aMpget (q : Pred) (d : SReg) (m : MpReg) : Statement (.aMpget q d m) :=
  of_word rfl (by
    intro _; simp (disch := decide) [readBack, Instr.slotOf, readSlot, readA, putP, predOf, fld_or, bit_or, fld_put_same, fld_put_off, bit_put1_same, bit_put_one, bit_put_off, fld_put1_off, bit_put1_off])
theorem aLidx (q : Pred) (d : SReg) (n : BitVec 3) : Statement (.aLidx q d n) :=
  of_word rfl (by
    intro _; simp (disch := decide) [readBack, Instr.slotOf, readSlot, readA, putP, predOf, fld_or, bit_or, fld_put_same, fld_put_off, bit_put1_same, bit_put_one, bit_put_off, fld_put1_off, bit_put1_off])
theorem vAdd (q : Pred) (d a : VReg) (b : VSrc) (t : Ty) (m : KReg) : Statement (.vAdd q d a b t m) :=
  of_word rfl (by
    intro _; cases b <;> simp (disch := decide) [readBack, Instr.slotOf, readSlot, readV, putP, predOf, opB, putB, tyB, fld_or, bit_or, fld_put_same, fld_put_off, bit_put1_same, bit_put_one, bit_put_off, fld_put1_off, bit_put1_off])
theorem vSub (q : Pred) (d a : VReg) (b : VSrc) (t : Ty) (m : KReg) : Statement (.vSub q d a b t m) :=
  of_word rfl (by
    intro _; cases b <;> simp (disch := decide) [readBack, Instr.slotOf, readSlot, readV, putP, predOf, opB, putB, tyB, fld_or, bit_or, fld_put_same, fld_put_off, bit_put1_same, bit_put_one, bit_put_off, fld_put1_off, bit_put1_off])
theorem vMul (q : Pred) (d a : VReg) (b : VSrc) (t : Ty) (m : KReg) : Statement (.vMul q d a b t m) :=
  of_word rfl (by
    intro _; cases b <;> simp (disch := decide) [readBack, Instr.slotOf, readSlot, readV, putP, predOf, opB, putB, tyB, fld_or, bit_or, fld_put_same, fld_put_off, bit_put1_same, bit_put_one, bit_put_off, fld_put1_off, bit_put1_off])
theorem vMulh (q : Pred) (d a : VReg) (b : VSrc) (t : Ty) (m : KReg) : Statement (.vMulh q d a b t m) :=
  of_word rfl (by
    intro _; cases b <;> simp (disch := decide) [readBack, Instr.slotOf, readSlot, readV, putP, predOf, opB, putB, tyB, fld_or, bit_or, fld_put_same, fld_put_off, bit_put1_same, bit_put_one, bit_put_off, fld_put1_off, bit_put1_off])
theorem vMad (q : Pred) (d a : VReg) (b : VSrc) (c : VReg) (t : Ty) (m : KReg) : Statement (.vMad q d a b c t m) :=
  of_word rfl (by
    cases b <;> simp (disch := decide) [Instr.wf, VSrc.notImm, VSrc.notReg, readBack, Instr.slotOf, readSlot, readV, putP, predOf, opB, putB, tyB, fld_or, bit_or, fld_put_same, fld_put_off, bit_put1_same, bit_put_one, bit_put_off, fld_put1_off, bit_put1_off])
theorem vAbs (q : Pred) (d a : VReg) (t : Ty) (m : KReg) : Statement (.vAbs q d a t m) :=
  of_word rfl (by
    intro _; simp (disch := decide) [readBack, Instr.slotOf, readSlot, readV, putP, predOf, fld_or, bit_or, fld_put_same, fld_put_off, bit_put1_same, bit_put_one, bit_put_off, fld_put1_off, bit_put1_off])
theorem vNeg (q : Pred) (d a : VReg) (t : Ty) (m : KReg) : Statement (.vNeg q d a t m) :=
  of_word rfl (by
    intro _; simp (disch := decide) [readBack, Instr.slotOf, readSlot, readV, putP, predOf, fld_or, bit_or, fld_put_same, fld_put_off, bit_put1_same, bit_put_one, bit_put_off, fld_put1_off, bit_put1_off])
theorem vMin (q : Pred) (d a : VReg) (b : VSrc) (t : Ty) (m : KReg) : Statement (.vMin q d a b t m) :=
  of_word rfl (by
    intro _; cases b <;> simp (disch := decide) [readBack, Instr.slotOf, readSlot, readV, putP, predOf, opB, putB, tyB, fld_or, bit_or, fld_put_same, fld_put_off, bit_put1_same, bit_put_one, bit_put_off, fld_put1_off, bit_put1_off])
theorem vMax (q : Pred) (d a : VReg) (b : VSrc) (t : Ty) (m : KReg) : Statement (.vMax q d a b t m) :=
  of_word rfl (by
    intro _; cases b <;> simp (disch := decide) [readBack, Instr.slotOf, readSlot, readV, putP, predOf, opB, putB, tyB, fld_or, bit_or, fld_put_same, fld_put_off, bit_put1_same, bit_put_one, bit_put_off, fld_put1_off, bit_put1_off])
theorem vAnd (q : Pred) (d a : VReg) (b : VSrc) (t : Ty) (m : KReg) : Statement (.vAnd q d a b t m) :=
  of_word rfl (by
    intro _; cases b <;> simp (disch := decide) [readBack, Instr.slotOf, readSlot, readV, putP, predOf, opB, putB, tyB, fld_or, bit_or, fld_put_same, fld_put_off, bit_put1_same, bit_put_one, bit_put_off, fld_put1_off, bit_put1_off])
theorem vOr (q : Pred) (d a : VReg) (b : VSrc) (t : Ty) (m : KReg) : Statement (.vOr q d a b t m) :=
  of_word rfl (by
    intro _; cases b <;> simp (disch := decide) [readBack, Instr.slotOf, readSlot, readV, putP, predOf, opB, putB, tyB, fld_or, bit_or, fld_put_same, fld_put_off, bit_put1_same, bit_put_one, bit_put_off, fld_put1_off, bit_put1_off])
theorem vXor (q : Pred) (d a : VReg) (b : VSrc) (t : Ty) (m : KReg) : Statement (.vXor q d a b t m) :=
  of_word rfl (by
    intro _; cases b <;> simp (disch := decide) [readBack, Instr.slotOf, readSlot, readV, putP, predOf, opB, putB, tyB, fld_or, bit_or, fld_put_same, fld_put_off, bit_put1_same, bit_put_one, bit_put_off, fld_put1_off, bit_put1_off])
theorem vAndn (q : Pred) (d a : VReg) (b : VSrc) (t : Ty) (m : KReg) : Statement (.vAndn q d a b t m) :=
  of_word rfl (by
    intro _; cases b <;> simp (disch := decide) [readBack, Instr.slotOf, readSlot, readV, putP, predOf, opB, putB, tyB, fld_or, bit_or, fld_put_same, fld_put_off, bit_put1_same, bit_put_one, bit_put_off, fld_put1_off, bit_put1_off])
theorem vShl (q : Pred) (d a : VReg) (b : VSrc) (t : Ty) (m : KReg) : Statement (.vShl q d a b t m) :=
  of_word rfl (by
    intro _; cases b <;> simp (disch := decide) [readBack, Instr.slotOf, readSlot, readV, putP, predOf, opB, putB, tyB, fld_or, bit_or, fld_put_same, fld_put_off, bit_put1_same, bit_put_one, bit_put_off, fld_put1_off, bit_put1_off])
theorem vShr (q : Pred) (d a : VReg) (b : VSrc) (t : Ty) (m : KReg) : Statement (.vShr q d a b t m) :=
  of_word rfl (by
    intro _; cases b <;> simp (disch := decide) [readBack, Instr.slotOf, readSlot, readV, putP, predOf, opB, putB, tyB, fld_or, bit_or, fld_put_same, fld_put_off, bit_put1_same, bit_put_one, bit_put_off, fld_put1_off, bit_put1_off])
theorem vSar (q : Pred) (d a : VReg) (b : VSrc) (t : Ty) (m : KReg) : Statement (.vSar q d a b t m) :=
  of_word rfl (by
    intro _; cases b <;> simp (disch := decide) [readBack, Instr.slotOf, readSlot, readV, putP, predOf, opB, putB, tyB, fld_or, bit_or, fld_put_same, fld_put_off, bit_put1_same, bit_put_one, bit_put_off, fld_put1_off, bit_put1_off])
theorem vCmp (q : Pred) (d : KReg) (a : VReg) (b : VSrc) (t : Ty) (m : KReg) (combine : Bool) (cond : BitVec 3) : Statement (.vCmp q d a b t m combine cond) :=
  of_word rfl (by
    intro _; cases b <;> simp (disch := decide) [readBack, Instr.slotOf, readSlot, readV, putP, predOf, opB, putB, tyB, fld_or, bit_or, fld_put_same, fld_put_off, bit_put1_same, bit_put_one, bit_put_off, fld_put1_off, bit_put1_off])
theorem vSel (q : Pred) (d a b : VReg) (kc : KReg) (t : Ty) (m : KReg) : Statement (.vSel q d a b kc t m) :=
  of_word rfl (by
    intro _; simp (disch := decide) [readBack, Instr.slotOf, readSlot, readV, putP, predOf, fld_or, bit_or, fld_put_same, fld_put_off, bit_put1_same, bit_put_one, bit_put_off, fld_put1_off, bit_put1_off])
theorem vMov (q : Pred) (d a : VReg) (m : KReg) : Statement (.vMov q d a m) :=
  of_word rfl (by
    intro _; simp (disch := decide) [readBack, Instr.slotOf, readSlot, readV, putP, predOf, fld_or, bit_or, fld_put_same, fld_put_off, bit_put1_same, bit_put_one, bit_put_off, fld_put1_off, bit_put1_off])
theorem vBcast (q : Pred) (d : VReg) (b : VSrc) (t : Ty) (m : KReg) : Statement (.vBcast q d b t m) :=
  of_word rfl (by
    intro _; cases b <;> simp (disch := decide) [readBack, Instr.slotOf, readSlot, readV, putP, predOf, opB, putB, tyB, fld_or, bit_or, fld_put_same, fld_put_off, bit_put1_same, bit_put_one, bit_put_off, fld_put1_off, bit_put1_off])
theorem vPopc (q : Pred) (d a : VReg) (t : Ty) (m : KReg) : Statement (.vPopc q d a t m) :=
  of_word rfl (by
    intro _; simp (disch := decide) [readBack, Instr.slotOf, readSlot, readV, putP, predOf, fld_or, bit_or, fld_put_same, fld_put_off, bit_put1_same, bit_put_one, bit_put_off, fld_put1_off, bit_put1_off])
theorem vClz (q : Pred) (d a : VReg) (t : Ty) (m : KReg) : Statement (.vClz q d a t m) :=
  of_word rfl (by
    intro _; simp (disch := decide) [readBack, Instr.slotOf, readSlot, readV, putP, predOf, fld_or, bit_or, fld_put_same, fld_put_off, bit_put1_same, bit_put_one, bit_put_off, fld_put1_off, bit_put1_off])
theorem vAddsat (q : Pred) (d a : VReg) (b : VSrc) (t : Ty) (m : KReg) : Statement (.vAddsat q d a b t m) :=
  of_word rfl (by
    intro _; cases b <;> simp (disch := decide) [readBack, Instr.slotOf, readSlot, readV, putP, predOf, opB, putB, tyB, fld_or, bit_or, fld_put_same, fld_put_off, bit_put1_same, bit_put_one, bit_put_off, fld_put1_off, bit_put1_off])
theorem vSubsat (q : Pred) (d a : VReg) (b : VSrc) (t : Ty) (m : KReg) : Statement (.vSubsat q d a b t m) :=
  of_word rfl (by
    intro _; cases b <;> simp (disch := decide) [readBack, Instr.slotOf, readSlot, readV, putP, predOf, opB, putB, tyB, fld_or, bit_or, fld_put_same, fld_put_off, bit_put1_same, bit_put_one, bit_put_off, fld_put1_off, bit_put1_off])
theorem vLane (q : Pred) (d : VReg) (t : Ty) (m : KReg) : Statement (.vLane q d t m) :=
  of_word rfl (by
    intro _; simp (disch := decide) [readBack, Instr.slotOf, readSlot, readV, putP, predOf, fld_or, bit_or, fld_put_same, fld_put_off, bit_put1_same, bit_put_one, bit_put_off, fld_put1_off, bit_put1_off])
theorem vFadd (q : Pred) (d a : VReg) (b : VSrc) (t : Ty) (m : KReg) (rm : Rm) : Statement (.vFadd q d a b t m rm) :=
  of_word rfl (by
    cases b <;> simp (disch := decide) [Instr.wf, VSrc.notImm, VSrc.notReg, readBack, Instr.slotOf, readSlot, readV, putP, predOf, opB, putB, tyB, fld_or, bit_or, fld_put_same, fld_put_off, bit_put1_same, bit_put_one, bit_put_off, fld_put1_off, bit_put1_off])
theorem vFsub (q : Pred) (d a : VReg) (b : VSrc) (t : Ty) (m : KReg) (rm : Rm) : Statement (.vFsub q d a b t m rm) :=
  of_word rfl (by
    cases b <;> simp (disch := decide) [Instr.wf, VSrc.notImm, VSrc.notReg, readBack, Instr.slotOf, readSlot, readV, putP, predOf, opB, putB, tyB, fld_or, bit_or, fld_put_same, fld_put_off, bit_put1_same, bit_put_one, bit_put_off, fld_put1_off, bit_put1_off])
theorem vFmul (q : Pred) (d a : VReg) (b : VSrc) (t : Ty) (m : KReg) (rm : Rm) : Statement (.vFmul q d a b t m rm) :=
  of_word rfl (by
    cases b <;> simp (disch := decide) [Instr.wf, VSrc.notImm, VSrc.notReg, readBack, Instr.slotOf, readSlot, readV, putP, predOf, opB, putB, tyB, fld_or, bit_or, fld_put_same, fld_put_off, bit_put1_same, bit_put_one, bit_put_off, fld_put1_off, bit_put1_off])
theorem vFma (q : Pred) (d a : VReg) (b : VSrc) (c : VReg) (t : Ty) (m : KReg) (rm : Rm) : Statement (.vFma q d a b c t m rm) :=
  of_word rfl (by
    cases b <;> simp (disch := decide) [Instr.wf, VSrc.notImm, VSrc.notReg, readBack, Instr.slotOf, readSlot, readV, putP, predOf, opB, putB, tyB, fld_or, bit_or, fld_put_same, fld_put_off, bit_put1_same, bit_put_one, bit_put_off, fld_put1_off, bit_put1_off])
theorem vFms (q : Pred) (d a : VReg) (b : VSrc) (c : VReg) (t : Ty) (m : KReg) (rm : Rm) : Statement (.vFms q d a b c t m rm) :=
  of_word rfl (by
    cases b <;> simp (disch := decide) [Instr.wf, VSrc.notImm, VSrc.notReg, readBack, Instr.slotOf, readSlot, readV, putP, predOf, opB, putB, tyB, fld_or, bit_or, fld_put_same, fld_put_off, bit_put1_same, bit_put_one, bit_put_off, fld_put1_off, bit_put1_off])
theorem vFmin (q : Pred) (d a : VReg) (b : VSrc) (t : Ty) (m : KReg) : Statement (.vFmin q d a b t m) :=
  of_word rfl (by
    intro _; cases b <;> simp (disch := decide) [readBack, Instr.slotOf, readSlot, readV, putP, predOf, opB, putB, tyB, fld_or, bit_or, fld_put_same, fld_put_off, bit_put1_same, bit_put_one, bit_put_off, fld_put1_off, bit_put1_off])
theorem vFmax (q : Pred) (d a : VReg) (b : VSrc) (t : Ty) (m : KReg) : Statement (.vFmax q d a b t m) :=
  of_word rfl (by
    intro _; cases b <;> simp (disch := decide) [readBack, Instr.slotOf, readSlot, readV, putP, predOf, opB, putB, tyB, fld_or, bit_or, fld_put_same, fld_put_off, bit_put1_same, bit_put_one, bit_put_off, fld_put1_off, bit_put1_off])
theorem vFrcp (q : Pred) (d a : VReg) (t : Ty) (m : KReg) : Statement (.vFrcp q d a t m) :=
  of_word rfl (by
    intro _; simp (disch := decide) [readBack, Instr.slotOf, readSlot, readV, putP, predOf, fld_or, bit_or, fld_put_same, fld_put_off, bit_put1_same, bit_put_one, bit_put_off, fld_put1_off, bit_put1_off])
theorem vFrsq (q : Pred) (d a : VReg) (t : Ty) (m : KReg) : Statement (.vFrsq q d a t m) :=
  of_word rfl (by
    intro _; simp (disch := decide) [readBack, Instr.slotOf, readSlot, readV, putP, predOf, fld_or, bit_or, fld_put_same, fld_put_off, bit_put1_same, bit_put_one, bit_put_off, fld_put1_off, bit_put1_off])
theorem vFexp2 (q : Pred) (d a : VReg) (t : Ty) (m : KReg) : Statement (.vFexp2 q d a t m) :=
  of_word rfl (by
    intro _; simp (disch := decide) [readBack, Instr.slotOf, readSlot, readV, putP, predOf, fld_or, bit_or, fld_put_same, fld_put_off, bit_put1_same, bit_put_one, bit_put_off, fld_put1_off, bit_put1_off])
theorem vFlog2 (q : Pred) (d a : VReg) (t : Ty) (m : KReg) : Statement (.vFlog2 q d a t m) :=
  of_word rfl (by
    intro _; simp (disch := decide) [readBack, Instr.slotOf, readSlot, readV, putP, predOf, fld_or, bit_or, fld_put_same, fld_put_off, bit_put1_same, bit_put_one, bit_put_off, fld_put1_off, bit_put1_off])
theorem vFcmp (q : Pred) (d : KReg) (a : VReg) (b : VSrc) (t : Ty) (m : KReg) (combine : Bool) (cond : BitVec 3) : Statement (.vFcmp q d a b t m combine cond) :=
  of_word rfl (by
    intro _; cases b <;> simp (disch := decide) [readBack, Instr.slotOf, readSlot, readV, putP, predOf, opB, putB, tyB, fld_or, bit_or, fld_put_same, fld_put_off, bit_put1_same, bit_put_one, bit_put_off, fld_put1_off, bit_put1_off])
theorem vFclass (q : Pred) (d a : VReg) (t : Ty) (m : KReg) : Statement (.vFclass q d a t m) :=
  of_word rfl (by
    intro _; simp (disch := decide) [readBack, Instr.slotOf, readSlot, readV, putP, predOf, fld_or, bit_or, fld_put_same, fld_put_off, bit_put1_same, bit_put_one, bit_put_off, fld_put1_off, bit_put1_off])
theorem vFabs (q : Pred) (d a : VReg) (t : Ty) (m : KReg) : Statement (.vFabs q d a t m) :=
  of_word rfl (by
    intro _; simp (disch := decide) [readBack, Instr.slotOf, readSlot, readV, putP, predOf, fld_or, bit_or, fld_put_same, fld_put_off, bit_put1_same, bit_put_one, bit_put_off, fld_put1_off, bit_put1_off])
theorem vFneg (q : Pred) (d a : VReg) (t : Ty) (m : KReg) : Statement (.vFneg q d a t m) :=
  of_word rfl (by
    intro _; simp (disch := decide) [readBack, Instr.slotOf, readSlot, readV, putP, predOf, fld_or, bit_or, fld_put_same, fld_put_off, bit_put1_same, bit_put_one, bit_put_off, fld_put1_off, bit_put1_off])
theorem vCvt (q : Pred) (d a : VReg) (dt st : Ty) (m : KReg) (rm : Rm) (sat : Bool) : Statement (.vCvt q d a dt st m rm sat) :=
  of_word rfl (by
    intro _; simp (disch := decide) [readBack, Instr.slotOf, readSlot, readV, putP, predOf, fld_or, bit_or, fld_put_same, fld_put_off, bit_put1_same, bit_put_one, bit_put_off, fld_put1_off, bit_put1_off])
theorem vQuant (q : Pred) (d a b : VReg) (t : Ty) (m : KReg) (rm : Rm) (sat : Bool) : Statement (.vQuant q d a b t m rm sat) :=
  of_word rfl (by
    intro _; simp (disch := decide) [readBack, Instr.slotOf, readSlot, readV, putP, predOf, fld_or, bit_or, fld_put_same, fld_put_off, bit_put1_same, bit_put_one, bit_put_off, fld_put1_off, bit_put1_off])
theorem vDequant (q : Pred) (d a b : VReg) (t : Ty) (m : KReg) : Statement (.vDequant q d a b t m) :=
  of_word rfl (by
    intro _; simp (disch := decide) [readBack, Instr.slotOf, readSlot, readV, putP, predOf, fld_or, bit_or, fld_put_same, fld_put_off, bit_put1_same, bit_put_one, bit_put_off, fld_put1_off, bit_put1_off])
theorem vPack (q : Pred) (d a b : VReg) (t : Ty) (m : KReg) : Statement (.vPack q d a b t m) :=
  of_word rfl (by
    intro _; simp (disch := decide) [readBack, Instr.slotOf, readSlot, readV, putP, predOf, fld_or, bit_or, fld_put_same, fld_put_off, bit_put1_same, bit_put_one, bit_put_off, fld_put1_off, bit_put1_off])
theorem vUnpack (q : Pred) (d a b : VReg) (t : Ty) (m : KReg) : Statement (.vUnpack q d a b t m) :=
  of_word rfl (by
    intro _; simp (disch := decide) [readBack, Instr.slotOf, readSlot, readV, putP, predOf, fld_or, bit_or, fld_put_same, fld_put_off, bit_put1_same, bit_put_one, bit_put_off, fld_put1_off, bit_put1_off])
theorem vRed (q : Pred) (d a : VReg) (t : Ty) (m : KReg) (op : BitVec 3) : Statement (.vRed q d a t m op) :=
  of_word rfl (by
    intro _; simp (disch := decide) [readBack, Instr.slotOf, readSlot, readV, putP, predOf, fld_or, bit_or, fld_put_same, fld_put_off, bit_put1_same, bit_put_one, bit_put_off, fld_put1_off, bit_put1_off])
theorem vScan (q : Pred) (d a : VReg) (t : Ty) (m : KReg) (op : BitVec 3) : Statement (.vScan q d a t m op) :=
  of_word rfl (by
    intro _; simp (disch := decide) [readBack, Instr.slotOf, readSlot, readV, putP, predOf, fld_or, bit_or, fld_put_same, fld_put_off, bit_put1_same, bit_put_one, bit_put_off, fld_put1_off, bit_put1_off])
theorem vFred (q : Pred) (d a : VReg) (t : Ty) (m : KReg) (rm : Rm) (op : BitVec 3) : Statement (.vFred q d a t m rm op) :=
  of_word rfl (by
    intro _; simp (disch := decide) [readBack, Instr.slotOf, readSlot, readV, putP, predOf, fld_or, bit_or, fld_put_same, fld_put_off, bit_put1_same, bit_put_one, bit_put_off, fld_put1_off, bit_put1_off])
theorem vFscan (q : Pred) (d a : VReg) (t : Ty) (m : KReg) (rm : Rm) (op : BitVec 3) : Statement (.vFscan q d a t m rm op) :=
  of_word rfl (by
    intro _; simp (disch := decide) [readBack, Instr.slotOf, readSlot, readV, putP, predOf, fld_or, bit_or, fld_put_same, fld_put_off, bit_put1_same, bit_put_one, bit_put_off, fld_put1_off, bit_put1_off])
theorem vPerm (q : Pred) (d a b : VReg) (t : Ty) (m : KReg) : Statement (.vPerm q d a b t m) :=
  of_word rfl (by
    intro _; simp (disch := decide) [readBack, Instr.slotOf, readSlot, readV, putP, predOf, fld_or, bit_or, fld_put_same, fld_put_off, bit_put1_same, bit_put_one, bit_put_off, fld_put1_off, bit_put1_off])
theorem vSlide (q : Pred) (d a : VReg) (b : VSrc) (t : Ty) (m : KReg) : Statement (.vSlide q d a b t m) :=
  of_word rfl (by
    intro _; cases b <;> simp (disch := decide) [readBack, Instr.slotOf, readSlot, readV, putP, predOf, opB, putB, tyB, fld_or, bit_or, fld_put_same, fld_put_off, bit_put1_same, bit_put_one, bit_put_off, fld_put1_off, bit_put1_off])
theorem vRot (q : Pred) (d a : VReg) (b : VSrc) (t : Ty) (m : KReg) : Statement (.vRot q d a b t m) :=
  of_word rfl (by
    intro _; cases b <;> simp (disch := decide) [readBack, Instr.slotOf, readSlot, readV, putP, predOf, opB, putB, tyB, fld_or, bit_or, fld_put_same, fld_put_off, bit_put1_same, bit_put_one, bit_put_off, fld_put1_off, bit_put1_off])
theorem vCompress (q : Pred) (d a : VReg) (t : Ty) (m : KReg) : Statement (.vCompress q d a t m) :=
  of_word rfl (by
    intro _; simp (disch := decide) [readBack, Instr.slotOf, readSlot, readV, putP, predOf, fld_or, bit_or, fld_put_same, fld_put_off, bit_put1_same, bit_put_one, bit_put_off, fld_put1_off, bit_put1_off])
theorem vExpand (q : Pred) (d a : VReg) (t : Ty) (m : KReg) : Statement (.vExpand q d a t m) :=
  of_word rfl (by
    intro _; simp (disch := decide) [readBack, Instr.slotOf, readSlot, readV, putP, predOf, fld_or, bit_or, fld_put_same, fld_put_off, bit_put1_same, bit_put_one, bit_put_off, fld_put1_off, bit_put1_off])
theorem vZip (q : Pred) (d a b : VReg) (t : Ty) (m : KReg) (hi : Bool) : Statement (.vZip q d a b t m hi) :=
  of_word rfl (by
    intro _; simp (disch := decide) [readBack, Instr.slotOf, readSlot, readV, putP, predOf, fld_or, bit_or, fld_put_same, fld_put_off, bit_put1_same, bit_put_one, bit_put_off, fld_put1_off, bit_put1_off])
theorem vUnzip (q : Pred) (d a b : VReg) (t : Ty) (m : KReg) (hi : Bool) : Statement (.vUnzip q d a b t m hi) :=
  of_word rfl (by
    intro _; simp (disch := decide) [readBack, Instr.slotOf, readSlot, readV, putP, predOf, fld_or, bit_or, fld_put_same, fld_put_off, bit_put1_same, bit_put_one, bit_put_off, fld_put1_off, bit_put1_off])
theorem vExtr (q : Pred) (d : SReg) (a : VReg) (b : SReg) (t : Ty) : Statement (.vExtr q d a b t) :=
  of_word rfl (by
    intro _; simp (disch := decide) [readBack, Instr.slotOf, readSlot, readV, putP, predOf, fld_or, bit_or, fld_put_same, fld_put_off, bit_put1_same, bit_put_one, bit_put_off, fld_put1_off, bit_put1_off])
theorem vIns (q : Pred) (d : VReg) (a b : SReg) (t : Ty) : Statement (.vIns q d a b t) :=
  of_word rfl (by
    intro _; simp (disch := decide) [readBack, Instr.slotOf, readSlot, readV, putP, predOf, fld_or, bit_or, fld_put_same, fld_put_off, bit_put1_same, bit_put_one, bit_put_off, fld_put1_off, bit_put1_off])
theorem vMpush (q : Pred) (ka : KReg) : Statement (.vMpush q ka) :=
  of_word rfl (by
    intro _; simp (disch := decide) [readBack, Instr.slotOf, readSlot, readV, putP, predOf, fld_or, bit_or, fld_put_same, fld_put_off, bit_put1_same, bit_put_one, bit_put_off, fld_put1_off, bit_put1_off])
theorem vMinv (q : Pred) : Statement (.vMinv q) :=
  of_word rfl (by
    intro _; simp (disch := decide) [readBack, Instr.slotOf, readSlot, readV, putP, predOf, fld_or, bit_or, fld_put_same, fld_put_off, bit_put1_same, bit_put_one, bit_put_off, fld_put1_off, bit_put1_off])
theorem vMpop (q : Pred) : Statement (.vMpop q) :=
  of_word rfl (by
    intro _; simp (disch := decide) [readBack, Instr.slotOf, readSlot, readV, putP, predOf, fld_or, bit_or, fld_put_same, fld_put_off, bit_put1_same, bit_put_one, bit_put_off, fld_put1_off, bit_put1_off])
theorem vKmov (q : Pred) (d : KReg) (src : KSrc) : Statement (.vKmov q d src) :=
  of_word rfl (by
    intro _; cases src <;> simp (disch := decide) [readBack, Instr.slotOf, readSlot, readV, putP, predOf, kSrcOf, putKSrc, fld_or, bit_or, fld_put_same, fld_put_off, bit_put1_same, bit_put_one, bit_put_off, fld_put1_off, bit_put1_off])
theorem vKop (q : Pred) (d a b : KReg) (op : BitVec 3) : Statement (.vKop q d a b op) :=
  of_word rfl (by
    intro _; simp (disch := decide) [readBack, Instr.slotOf, readSlot, readV, putP, predOf, fld_or, bit_or, fld_put_same, fld_put_off, bit_put1_same, bit_put_one, bit_put_off, fld_put1_off, bit_put1_off])
theorem vKpopc (q : Pred) (d : SReg) (a : KReg) : Statement (.vKpopc q d a) :=
  of_word rfl (by
    intro _; simp (disch := decide) [readBack, Instr.slotOf, readSlot, readV, putP, predOf, fld_or, bit_or, fld_put_same, fld_put_off, bit_put1_same, bit_put_one, bit_put_off, fld_put1_off, bit_put1_off])
theorem vSkip (q : Pred) (n : BitVec 16) : Statement (.vSkip q n) :=
  of_word rfl (by
    intro _; simp (disch := decide) [readBack, Instr.slotOf, readSlot, readV, putP, predOf, fld_or, bit_or, fld_put_same, fld_put_off, bit_put1_same, bit_put_one, bit_put_off, fld_put1_off, bit_put1_off])
theorem vHashCrc (q : Pred) (d a b : VReg) (t : Ty) (m : KReg) : Statement (.vHashCrc q d a b t m) :=
  of_word rfl (by
    intro _; simp (disch := decide) [readBack, Instr.slotOf, readSlot, readV, putP, predOf, fld_or, bit_or, fld_put_same, fld_put_off, bit_put1_same, bit_put_one, bit_put_off, fld_put1_off, bit_put1_off])
theorem vHashMix (q : Pred) (d a b : VReg) (t : Ty) (m : KReg) : Statement (.vHashMix q d a b t m) :=
  of_word rfl (by
    intro _; simp (disch := decide) [readBack, Instr.slotOf, readSlot, readV, putP, predOf, fld_or, bit_or, fld_put_same, fld_put_off, bit_put1_same, bit_put_one, bit_put_off, fld_put1_off, bit_put1_off])
theorem vHashs (q : Pred) (d a b c : VReg) (m : KReg) : Statement (.vHashs q d a b c m) :=
  of_word rfl (by
    intro _; simp (disch := decide) [readBack, Instr.slotOf, readSlot, readV, putP, predOf, fld_or, bit_or, fld_put_same, fld_put_off, bit_put1_same, bit_put_one, bit_put_off, fld_put1_off, bit_put1_off])
theorem vPart (q : Pred) (d a b : VReg) (m : KReg) : Statement (.vPart q d a b m) :=
  of_word rfl (by
    intro _; simp (disch := decide) [readBack, Instr.slotOf, readSlot, readV, putP, predOf, fld_or, bit_or, fld_put_same, fld_put_off, bit_put1_same, bit_put_one, bit_put_off, fld_put1_off, bit_put1_off])
theorem vPartCnt (q : Pred) (d : SReg) (a b : VReg) (kc : KReg) (m : KReg) : Statement (.vPartCnt q d a b kc m) :=
  of_word rfl (by
    intro _; simp (disch := decide) [readBack, Instr.slotOf, readSlot, readV, putP, predOf, fld_or, bit_or, fld_put_same, fld_put_off, bit_put1_same, bit_put_one, bit_put_off, fld_put1_off, bit_put1_off])
theorem vScmp (q : Pred) (d a : VReg) (b : VSrc) (c : VReg) (m : KReg) : Statement (.vScmp q d a b c m) :=
  of_word rfl (by
    cases b <;> simp (disch := decide) [Instr.wf, VSrc.notImm, VSrc.notReg, readBack, Instr.slotOf, readSlot, readV, putP, predOf, opB, putB, tyB, fld_or, bit_or, fld_put_same, fld_put_off, bit_put1_same, bit_put_one, bit_put_off, fld_put1_off, bit_put1_off])
theorem vSfind (q : Pred) (d a : VReg) (b : VSrc) (c : VReg) (m : KReg) : Statement (.vSfind q d a b c m) :=
  of_word rfl (by
    cases b <;> simp (disch := decide) [Instr.wf, VSrc.notImm, VSrc.notReg, readBack, Instr.slotOf, readSlot, readV, putP, predOf, opB, putB, tyB, fld_or, bit_or, fld_put_same, fld_put_off, bit_put1_same, bit_put_one, bit_put_off, fld_put1_off, bit_put1_off])
theorem vSmatch (q : Pred) (d : KReg) (a : VReg) (b : VSrc) (c : VReg) (m : KReg) : Statement (.vSmatch q d a b c m) :=
  of_word rfl (by
    cases b <;> simp (disch := decide) [Instr.wf, VSrc.notImm, VSrc.notReg, readBack, Instr.slotOf, readSlot, readV, putP, predOf, opB, putB, tyB, fld_or, bit_or, fld_put_same, fld_put_off, bit_put1_same, bit_put_one, bit_put_off, fld_put1_off, bit_put1_off])
theorem vAccrd (q : Pred) (d : VReg) (acc : AccReg) (b : SReg) (m : KReg) : Statement (.vAccrd q d acc b m) :=
  of_word rfl (by
    intro _; simp (disch := decide) [readBack, Instr.slotOf, readSlot, readV, putP, predOf, fld_or, bit_or, fld_put_same, fld_put_off, bit_put1_same, bit_put_one, bit_put_off, fld_put1_off, bit_put1_off])
theorem vAccwr (q : Pred) (d : VReg) (acc : AccReg) (b : SReg) (m : KReg) : Statement (.vAccwr q d acc b m) :=
  of_word rfl (by
    intro _; simp (disch := decide) [readBack, Instr.slotOf, readSlot, readV, putP, predOf, fld_or, bit_or, fld_put_same, fld_put_off, bit_put1_same, bit_put_one, bit_put_off, fld_put1_off, bit_put1_off])
theorem lLd (q : Pred) (d : SReg) (mem : Mem) (size : BitVec 2) (sx : Bool) : Statement (.lLd q d mem size sx) :=
  of_word rfl (by
    intro _; simp (disch := decide) [readBack, Instr.slotOf, readSlot, readL, putP, predOf, memOf, putMem, spaceOf_code, spaceCode_ne, fld_or, bit_or, fld_put_same, fld_put_off, bit_put1_same, bit_put_one, bit_put_off, fld_put1_off, bit_put1_off])
theorem lSt (q : Pred) (a : SReg) (mem : Mem) (size : BitVec 2) : Statement (.lSt q a mem size) :=
  of_word rfl (by
    intro _; simp (disch := decide) [readBack, Instr.slotOf, readSlot, readL, putP, predOf, memOf, putMem, spaceOf_code, spaceCode_ne, fld_or, bit_or, fld_put_same, fld_put_off, bit_put1_same, bit_put_one, bit_put_off, fld_put1_off, bit_put1_off])
theorem lVld (q : Pred) (d : VReg) (mem : Mem) : Statement (.lVld q d mem) :=
  of_word rfl (by
    intro _; simp (disch := decide) [readBack, Instr.slotOf, readSlot, readL, putP, predOf, memOf, putMem, spaceOf_code, spaceCode_ne, fld_or, bit_or, fld_put_same, fld_put_off, bit_put1_same, bit_put_one, bit_put_off, fld_put1_off, bit_put1_off])
theorem lVst (q : Pred) (d : VReg) (mem : Mem) : Statement (.lVst q d mem) :=
  of_word rfl (by
    intro _; simp (disch := decide) [readBack, Instr.slotOf, readSlot, readL, putP, predOf, memOf, putMem, spaceOf_code, spaceCode_ne, fld_or, bit_or, fld_put_same, fld_put_off, bit_put1_same, bit_put_one, bit_put_off, fld_put1_off, bit_put1_off])
theorem lVldQueue (q : Pred) (d : VReg) (n : QReg) (off : BitVec 10) (need : BitVec 8) (cls : BitVec 4) : Statement (.lVldQueue q d n off need cls) :=
  of_word rfl (by
    intro _; simp (disch := decide) [readBack, Instr.slotOf, readSlot, readL, putP, predOf, fld_or, bit_or, fld_put_same, fld_put_off, bit_put1_same, bit_put_one, bit_put_off, fld_put1_off, bit_put1_off])
theorem lVstQueue (q : Pred) (d : VReg) (n : QReg) (off : BitVec 10) (need : BitVec 8) (cls : BitVec 4) : Statement (.lVstQueue q d n off need cls) :=
  of_word rfl (by
    intro _; simp (disch := decide) [readBack, Instr.slotOf, readSlot, readL, putP, predOf, fld_or, bit_or, fld_put_same, fld_put_off, bit_put1_same, bit_put_one, bit_put_off, fld_put1_off, bit_put1_off])
theorem lVlds (q : Pred) (d : VReg) (mem : Mem2) (stride : SReg) (size : BitVec 2) : Statement (.lVlds q d mem stride size) :=
  of_word rfl (by
    intro _; simp (disch := decide) [readBack, Instr.slotOf, readSlot, readL, putP, predOf, mem2Of, putMem2, spaceOf_code, spaceCode_ne, fld_or, bit_or, fld_put_same, fld_put_off, bit_put1_same, bit_put_one, bit_put_off, fld_put1_off, bit_put1_off])
theorem lVsts (q : Pred) (d : VReg) (mem : Mem2) (stride : SReg) (size : BitVec 2) : Statement (.lVsts q d mem stride size) :=
  of_word rfl (by
    intro _; simp (disch := decide) [readBack, Instr.slotOf, readSlot, readL, putP, predOf, mem2Of, putMem2, spaceOf_code, spaceCode_ne, fld_or, bit_or, fld_put_same, fld_put_off, bit_put1_same, bit_put_one, bit_put_off, fld_put1_off, bit_put1_off])
theorem lVgather (q : Pred) (d : VReg) (mem : Mem2) (x : VReg) (size : BitVec 2) : Statement (.lVgather q d mem x size) :=
  of_word rfl (by
    intro _; simp (disch := decide) [readBack, Instr.slotOf, readSlot, readL, putP, predOf, mem2Of, putMem2, spaceOf_code, spaceCode_ne, fld_or, bit_or, fld_put_same, fld_put_off, bit_put1_same, bit_put_one, bit_put_off, fld_put1_off, bit_put1_off])
theorem lVscatter (q : Pred) (d : VReg) (mem : Mem2) (x : VReg) (size : BitVec 2) : Statement (.lVscatter q d mem x size) :=
  of_word rfl (by
    intro _; simp (disch := decide) [readBack, Instr.slotOf, readSlot, readL, putP, predOf, mem2Of, putMem2, spaceOf_code, spaceCode_ne, fld_or, bit_or, fld_put_same, fld_put_off, bit_put1_same, bit_put_one, bit_put_off, fld_put1_off, bit_put1_off])
theorem lVsgather (q : Pred) (d : VReg) (mem : Mem2) (x : VReg) : Statement (.lVsgather q d mem x) :=
  of_word rfl (by
    intro _; simp (disch := decide) [readBack, Instr.slotOf, readSlot, readL, putP, predOf, mem2Of, putMem2, spaceOf_code, spaceCode_ne, fld_or, bit_or, fld_put_same, fld_put_off, bit_put1_same, bit_put_one, bit_put_off, fld_put1_off, bit_put1_off])
theorem lLdf (q : Pred) (d : SReg) (mem : Mem) (scope : BitVec 3) (dbl : Bool) : Statement (.lLdf q d mem scope dbl) :=
  of_word rfl (by
    intro _; simp (disch := decide) [readBack, Instr.slotOf, readSlot, readL, putP, predOf, memOf, putMem, spaceOf_code, spaceCode_ne, fld_or, bit_or, fld_put_same, fld_put_off, bit_put1_same, bit_put_one, bit_put_off, fld_put1_off, bit_put1_off])
theorem lLdfTake (q : Pred) (d : SReg) (mem : Mem) (scope : BitVec 3) (dbl : Bool) : Statement (.lLdfTake q d mem scope dbl) :=
  of_word rfl (by
    intro _; simp (disch := decide) [readBack, Instr.slotOf, readSlot, readL, putP, predOf, memOf, putMem, spaceOf_code, spaceCode_ne, fld_or, bit_or, fld_put_same, fld_put_off, bit_put1_same, bit_put_one, bit_put_off, fld_put1_off, bit_put1_off])
theorem lSte (q : Pred) (a : SReg) (mem : Mem) (scope : BitVec 3) (dbl : Bool) : Statement (.lSte q a mem scope dbl) :=
  of_word rfl (by
    intro _; simp (disch := decide) [readBack, Instr.slotOf, readSlot, readL, putP, predOf, memOf, putMem, spaceOf_code, spaceCode_ne, fld_or, bit_or, fld_put_same, fld_put_off, bit_put1_same, bit_put_one, bit_put_off, fld_put1_off, bit_put1_off])
theorem lStf (q : Pred) (a : SReg) (mem : Mem) (scope : BitVec 3) (dbl : Bool) : Statement (.lStf q a mem scope dbl) :=
  of_word rfl (by
    intro _; simp (disch := decide) [readBack, Instr.slotOf, readSlot, readL, putP, predOf, memOf, putMem, spaceOf_code, spaceCode_ne, fld_or, bit_or, fld_put_same, fld_put_off, bit_put1_same, bit_put_one, bit_put_off, fld_put1_off, bit_put1_off])
theorem lFset (q : Pred) (mem : Mem) (size : BitVec 3) : Statement (.lFset q mem size) :=
  of_word rfl (by
    intro _; simp (disch := decide) [readBack, Instr.slotOf, readSlot, readL, putP, predOf, memOf, putMem, spaceOf_code, spaceCode_ne, fld_or, bit_or, fld_put_same, fld_put_off, bit_put1_same, bit_put_one, bit_put_off, fld_put1_off, bit_put1_off])
theorem lFclr (q : Pred) (mem : Mem) (size : BitVec 3) : Statement (.lFclr q mem size) :=
  of_word rfl (by
    intro _; simp (disch := decide) [readBack, Instr.slotOf, readSlot, readL, putP, predOf, memOf, putMem, spaceOf_code, spaceCode_ne, fld_or, bit_or, fld_put_same, fld_put_off, bit_put1_same, bit_put_one, bit_put_off, fld_put1_off, bit_put1_off])
theorem lFqry (q : Pred) (d : SReg) (mem : Mem) (size : BitVec 3) : Statement (.lFqry q d mem size) :=
  of_word rfl (by
    intro _; simp (disch := decide) [readBack, Instr.slotOf, readSlot, readL, putP, predOf, memOf, putMem, spaceOf_code, spaceCode_ne, fld_or, bit_or, fld_put_same, fld_put_off, bit_put1_same, bit_put_one, bit_put_off, fld_put1_off, bit_put1_off])
theorem lTld (q : Pred) (t : TReg) (mem : TMem) (shape : SReg) : Statement (.lTld q t mem shape) :=
  of_word rfl (by
    intro _; simp (disch := decide) [readBack, Instr.slotOf, readSlot, readL, putP, predOf, tmemOf, putTMem, spaceOf_code, fld_or, bit_or, fld_put_same, fld_put_off, bit_put1_same, bit_put_one, bit_put_off, fld_put1_off, bit_put1_off])
theorem lTst (q : Pred) (t : TReg) (acc : AccReg) (mem : TMem) : Statement (.lTst q t acc mem) :=
  of_word rfl (by
    intro _; simp (disch := decide) [readBack, Instr.slotOf, readSlot, readL, putP, predOf, tmemOf, putTMem, spaceOf_code, fld_or, bit_or, fld_put_same, fld_put_off, bit_put1_same, bit_put_one, bit_put_off, fld_put1_off, bit_put1_off])
theorem lTrel (q : Pred) (t : TReg) : Statement (.lTrel q t) :=
  of_word rfl (by
    intro _; simp (disch := decide) [readBack, Instr.slotOf, readSlot, readL, putP, predOf, fld_or, bit_or, fld_put_same, fld_put_off, bit_put1_same, bit_put_one, bit_put_off, fld_put1_off, bit_put1_off])
theorem lTqry (q : Pred) (t : TReg) (d : SReg) : Statement (.lTqry q t d) :=
  of_word rfl (by
    intro _; simp (disch := decide) [readBack, Instr.slotOf, readSlot, readL, putP, predOf, fld_or, bit_or, fld_put_same, fld_put_off, bit_put1_same, bit_put_one, bit_put_off, fld_put1_off, bit_put1_off])
theorem lQinit (q : Pred) (a : SReg) (n : QReg) (countM1 : BitVec 10) (size : BitVec 8) (cls : BitVec 4) : Statement (.lQinit q a n countM1 size cls) :=
  of_word rfl (by
    intro _; simp (disch := decide) [readBack, Instr.slotOf, readSlot, readL, putP, predOf, fld_or, bit_or, fld_put_same, fld_put_off, bit_put1_same, bit_put_one, bit_put_off, fld_put1_off, bit_put1_off])
theorem lQadvp (q : Pred) (n : QReg) (nM1 : BitVec 10) (cls : BitVec 4) : Statement (.lQadvp q n nM1 cls) :=
  of_word rfl (by
    intro _; simp (disch := decide) [readBack, Instr.slotOf, readSlot, readL, putP, predOf, fld_or, bit_or, fld_put_same, fld_put_off, bit_put1_same, bit_put_one, bit_put_off, fld_put1_off, bit_put1_off])
theorem lQadvc (q : Pred) (n : QReg) (nM1 : BitVec 10) (cls : BitVec 4) : Statement (.lQadvc q n nM1 cls) :=
  of_word rfl (by
    intro _; simp (disch := decide) [readBack, Instr.slotOf, readSlot, readL, putP, predOf, fld_or, bit_or, fld_put_same, fld_put_off, bit_put1_same, bit_put_one, bit_put_off, fld_put1_off, bit_put1_off])
theorem lQqry (q : Pred) (d : SReg) (n : QReg) (cls : BitVec 4) : Statement (.lQqry q d n cls) :=
  of_word rfl (by
    intro _; simp (disch := decide) [readBack, Instr.slotOf, readSlot, readL, putP, predOf, fld_or, bit_or, fld_put_same, fld_put_off, bit_put1_same, bit_put_one, bit_put_off, fld_put1_off, bit_put1_off])
theorem lAadd (q : Pred) (d : SReg) (mem : Mem) (scope : BitVec 3) (dbl tok : Bool) : Statement (.lAadd q d mem scope dbl tok) :=
  of_word rfl (by
    intro _; simp (disch := decide) [readBack, Instr.slotOf, readSlot, readL, putP, predOf, memOf, putMem, spaceOf_code, spaceCode_ne, fld_or, bit_or, fld_put_same, fld_put_off, bit_put1_same, bit_put_one, bit_put_off, fld_put1_off, bit_put1_off])
theorem lAmin (q : Pred) (d : SReg) (mem : Mem) (scope : BitVec 3) (dbl tok : Bool) : Statement (.lAmin q d mem scope dbl tok) :=
  of_word rfl (by
    intro _; simp (disch := decide) [readBack, Instr.slotOf, readSlot, readL, putP, predOf, memOf, putMem, spaceOf_code, spaceCode_ne, fld_or, bit_or, fld_put_same, fld_put_off, bit_put1_same, bit_put_one, bit_put_off, fld_put1_off, bit_put1_off])
theorem lAmax (q : Pred) (d : SReg) (mem : Mem) (scope : BitVec 3) (dbl tok : Bool) : Statement (.lAmax q d mem scope dbl tok) :=
  of_word rfl (by
    intro _; simp (disch := decide) [readBack, Instr.slotOf, readSlot, readL, putP, predOf, memOf, putMem, spaceOf_code, spaceCode_ne, fld_or, bit_or, fld_put_same, fld_put_off, bit_put1_same, bit_put_one, bit_put_off, fld_put1_off, bit_put1_off])
theorem lAminn (q : Pred) (d : SReg) (mem : Mem) (scope : BitVec 3) (dbl tok : Bool) : Statement (.lAminn q d mem scope dbl tok) :=
  of_word rfl (by
    intro _; simp (disch := decide) [readBack, Instr.slotOf, readSlot, readL, putP, predOf, memOf, putMem, spaceOf_code, spaceCode_ne, fld_or, bit_or, fld_put_same, fld_put_off, bit_put1_same, bit_put_one, bit_put_off, fld_put1_off, bit_put1_off])
theorem lAmaxn (q : Pred) (d : SReg) (mem : Mem) (scope : BitVec 3) (dbl tok : Bool) : Statement (.lAmaxn q d mem scope dbl tok) :=
  of_word rfl (by
    intro _; simp (disch := decide) [readBack, Instr.slotOf, readSlot, readL, putP, predOf, memOf, putMem, spaceOf_code, spaceCode_ne, fld_or, bit_or, fld_put_same, fld_put_off, bit_put1_same, bit_put_one, bit_put_off, fld_put1_off, bit_put1_off])
theorem lAand (q : Pred) (d : SReg) (mem : Mem) (scope : BitVec 3) (dbl tok : Bool) : Statement (.lAand q d mem scope dbl tok) :=
  of_word rfl (by
    intro _; simp (disch := decide) [readBack, Instr.slotOf, readSlot, readL, putP, predOf, memOf, putMem, spaceOf_code, spaceCode_ne, fld_or, bit_or, fld_put_same, fld_put_off, bit_put1_same, bit_put_one, bit_put_off, fld_put1_off, bit_put1_off])
theorem lAor (q : Pred) (d : SReg) (mem : Mem) (scope : BitVec 3) (dbl tok : Bool) : Statement (.lAor q d mem scope dbl tok) :=
  of_word rfl (by
    intro _; simp (disch := decide) [readBack, Instr.slotOf, readSlot, readL, putP, predOf, memOf, putMem, spaceOf_code, spaceCode_ne, fld_or, bit_or, fld_put_same, fld_put_off, bit_put1_same, bit_put_one, bit_put_off, fld_put1_off, bit_put1_off])
theorem lAxor (q : Pred) (d : SReg) (mem : Mem) (scope : BitVec 3) (dbl tok : Bool) : Statement (.lAxor q d mem scope dbl tok) :=
  of_word rfl (by
    intro _; simp (disch := decide) [readBack, Instr.slotOf, readSlot, readL, putP, predOf, memOf, putMem, spaceOf_code, spaceCode_ne, fld_or, bit_or, fld_put_same, fld_put_off, bit_put1_same, bit_put_one, bit_put_off, fld_put1_off, bit_put1_off])
theorem lAxchg (q : Pred) (d : SReg) (mem : Mem) (scope : BitVec 3) (dbl tok : Bool) : Statement (.lAxchg q d mem scope dbl tok) :=
  of_word rfl (by
    intro _; simp (disch := decide) [readBack, Instr.slotOf, readSlot, readL, putP, predOf, memOf, putMem, spaceOf_code, spaceCode_ne, fld_or, bit_or, fld_put_same, fld_put_off, bit_put1_same, bit_put_one, bit_put_off, fld_put1_off, bit_put1_off])
theorem lAcas (q : Pred) (d : SReg) (mem : Mem) (scope : BitVec 3) (dbl tok : Bool) : Statement (.lAcas q d mem scope dbl tok) :=
  of_word rfl (by
    intro _; simp (disch := decide) [readBack, Instr.slotOf, readSlot, readL, putP, predOf, memOf, putMem, spaceOf_code, spaceCode_ne, fld_or, bit_or, fld_put_same, fld_put_off, bit_put1_same, bit_put_one, bit_put_off, fld_put1_off, bit_put1_off])
theorem lAfadd (q : Pred) (d : SReg) (mem : Mem) (scope : BitVec 3) (dbl tok : Bool) : Statement (.lAfadd q d mem scope dbl tok) :=
  of_word rfl (by
    intro _; simp (disch := decide) [readBack, Instr.slotOf, readSlot, readL, putP, predOf, memOf, putMem, spaceOf_code, spaceCode_ne, fld_or, bit_or, fld_put_same, fld_put_off, bit_put1_same, bit_put_one, bit_put_off, fld_put1_off, bit_put1_off])
theorem lAinc (q : Pred) (d : SReg) (mem : Mem) (scope : BitVec 3) (dbl tok : Bool) : Statement (.lAinc q d mem scope dbl tok) :=
  of_word rfl (by
    intro _; simp (disch := decide) [readBack, Instr.slotOf, readSlot, readL, putP, predOf, memOf, putMem, spaceOf_code, spaceCode_ne, fld_or, bit_or, fld_put_same, fld_put_off, bit_put1_same, bit_put_one, bit_put_off, fld_put1_off, bit_put1_off])
theorem lVscadd (q : Pred) (d : VReg) (mem : Mem2) (x : VReg) (scope : BitVec 3) (dbl tok fl : Bool) : Statement (.lVscadd q d mem x scope dbl tok fl) :=
  of_word rfl (by
    intro _; simp (disch := decide) [readBack, Instr.slotOf, readSlot, readL, putP, predOf, mem2Of, putMem2, spaceOf_code, spaceCode_ne, fld_or, bit_or, fld_put_same, fld_put_off, bit_put1_same, bit_put_one, bit_put_off, fld_put1_off, bit_put1_off])
theorem lDprop (q : Pred) (d : VReg) (mem : Mem2) (ss : SReg) (scope : BitVec 3) : Statement (.lDprop q d mem ss scope) :=
  of_word rfl (by
    intro _; simp (disch := decide) [readBack, Instr.slotOf, readSlot, readL, putP, predOf, mem2Of, putMem2, spaceOf_code, spaceCode_ne, fld_or, bit_or, fld_put_same, fld_put_off, bit_put1_same, bit_put_one, bit_put_off, fld_put1_off, bit_put1_off])
theorem lDread (q : Pred) (d : VReg) (mem : Mem2) (ss : SReg) (scope : BitVec 3) : Statement (.lDread q d mem ss scope) :=
  of_word rfl (by
    intro _; simp (disch := decide) [readBack, Instr.slotOf, readSlot, readL, putP, predOf, mem2Of, putMem2, spaceOf_code, spaceCode_ne, fld_or, bit_or, fld_put_same, fld_put_off, bit_put1_same, bit_put_one, bit_put_off, fld_put1_off, bit_put1_off])
theorem lDrecycle (q : Pred) (ss : SReg) (mem : Mem2) (scope : BitVec 3) : Statement (.lDrecycle q ss mem scope) :=
  of_word rfl (by
    intro _; simp (disch := decide) [readBack, Instr.slotOf, readSlot, readL, putP, predOf, mem2Of, putMem2, spaceOf_code, spaceCode_ne, fld_or, bit_or, fld_put_same, fld_put_off, bit_put1_same, bit_put_one, bit_put_off, fld_put1_off, bit_put1_off])
theorem lPf (q : Pred) (mem : Mem) (drop : Bool) : Statement (.lPf q mem drop) :=
  of_word rfl (by
    intro _; simp (disch := decide) [readBack, Instr.slotOf, readSlot, readL, putP, predOf, memOf, putMem, spaceOf_code, spaceCode_ne, fld_or, bit_or, fld_put_same, fld_put_off, bit_put1_same, bit_put_one, bit_put_off, fld_put1_off, bit_put1_off])
theorem lFence (q : Pred) (mask : BitVec 16) (scope : BitVec 3) (kind : BitVec 2) : Statement (.lFence q mask scope kind) :=
  of_word rfl (by
    intro _; simp (disch := decide) [readBack, Instr.slotOf, readSlot, readL, putP, predOf, fld_or, bit_or, fld_put_same, fld_put_off, bit_put1_same, bit_put_one, bit_put_off, fld_put1_off, bit_put1_off])
theorem lBrel (q : Pred) (a : SReg) : Statement (.lBrel q a) :=
  of_word rfl (by
    intro _; simp (disch := decide) [readBack, Instr.slotOf, readSlot, readL, putP, predOf, fld_or, bit_or, fld_put_same, fld_put_off, bit_put1_same, bit_put_one, bit_put_off, fld_put1_off, bit_put1_off])
theorem lCld (q : Pred) (d : CReg) (mem : Mem) : Statement (.lCld q d mem) :=
  of_word rfl (by
    intro _; simp (disch := decide) [readBack, Instr.slotOf, readSlot, readL, putP, predOf, memOf, putMem, spaceOf_code, spaceCode_ne, fld_or, bit_or, fld_put_same, fld_put_off, bit_put1_same, bit_put_one, bit_put_off, fld_put1_off, bit_put1_off])
theorem lCdrop (q : Pred) (d : CReg) : Statement (.lCdrop q d) :=
  of_word rfl (by
    intro _; simp (disch := decide) [readBack, Instr.slotOf, readSlot, readL, putP, predOf, fld_or, bit_or, fld_put_same, fld_put_off, bit_put1_same, bit_put_one, bit_put_off, fld_put1_off, bit_put1_off])
theorem lDsync (q : Pred) : Statement (.lDsync q) :=
  of_word rfl (by
    intro _; simp (disch := decide) [readBack, Instr.slotOf, readSlot, readL, putP, predOf, fld_or, bit_or, fld_put_same, fld_put_off, bit_put1_same, bit_put_one, bit_put_off, fld_put1_off, bit_put1_off])
theorem mCall (q : Pred) (routine : BitVec 8) (acc : AccReg) (countM1 : BitVec 6) (batch : BitVec 2) (use : BitVec 8) (mode : BitVec 5) : Statement (.mCall q routine acc countM1 batch use mode) :=
  of_word rfl (by
    intro _; simp (disch := decide) [readBack, Instr.slotOf, readSlot, readM, putP, predOf, fld_or, bit_or, fld_put_same, fld_put_off, bit_put1_same, bit_put_one, bit_put_off, fld_put1_off, bit_put1_off])
theorem mCommit (q : Pred) (batch : BitVec 2) : Statement (.mCommit q batch) :=
  of_word rfl (by
    intro _; simp (disch := decide) [readBack, Instr.slotOf, readSlot, readM, putP, predOf, fld_or, bit_or, fld_put_same, fld_put_off, bit_put1_same, bit_put_one, bit_put_off, fld_put1_off, bit_put1_off])
theorem mWait (q : Pred) (batch : BitVec 2) : Statement (.mWait q batch) :=
  of_word rfl (by
    intro _; simp (disch := decide) [readBack, Instr.slotOf, readSlot, readM, putP, predOf, fld_or, bit_or, fld_put_same, fld_put_off, bit_put1_same, bit_put_one, bit_put_off, fld_put1_off, bit_put1_off])
theorem mStat (q : Pred) (d : SReg) (batch : BitVec 2) : Statement (.mStat q d batch) :=
  of_word rfl (by
    intro _; simp (disch := decide) [readBack, Instr.slotOf, readSlot, readM, putP, predOf, fld_or, bit_or, fld_put_same, fld_put_off, bit_put1_same, bit_put_one, bit_put_off, fld_put1_off, bit_put1_off])
theorem mZero (q : Pred) (acc : AccReg) (countM1 : BitVec 6) : Statement (.mZero q acc countM1) :=
  of_word rfl (by
    intro _; simp (disch := decide) [readBack, Instr.slotOf, readSlot, readM, putP, predOf, fld_or, bit_or, fld_put_same, fld_put_off, bit_put1_same, bit_put_one, bit_put_off, fld_put1_off, bit_put1_off])
theorem mProg (q : Pred) (a b : SReg) : Statement (.mProg q a b) :=
  of_word rfl (by
    intro _; simp (disch := decide) [readBack, Instr.slotOf, readSlot, readM, putP, predOf, fld_or, bit_or, fld_put_same, fld_put_off, bit_put1_same, bit_put_one, bit_put_off, fld_put1_off, bit_put1_off])
theorem mSbuild (q : Pred) (a b c : SReg) : Statement (.mSbuild q a b c) :=
  of_word rfl (by
    intro _; simp (disch := decide) [readBack, Instr.slotOf, readSlot, readM, putP, predOf, fld_or, bit_or, fld_put_same, fld_put_off, bit_put1_same, bit_put_one, bit_put_off, fld_put1_off, bit_put1_off])
theorem mSstat (q : Pred) (d : SReg) : Statement (.mSstat q d) :=
  of_word rfl (by
    intro _; simp (disch := decide) [readBack, Instr.slotOf, readSlot, readM, putP, predOf, fld_or, bit_or, fld_put_same, fld_put_off, bit_put1_same, bit_put_one, bit_put_off, fld_put1_off, bit_put1_off])
theorem xGet (q : Pred) (tag : BitVec 6) (dst src : XOpd) (len : SReg) (cls : BitVec 4) : Statement (.xGet q tag dst src len cls) :=
  of_word rfl (by
    intro _; simp (disch := decide) [readBack, Instr.slotOf, readSlot, readX, putP, predOf, dstOf, srcOf, putDst, putSrc, spaceOf_code, fld_or, bit_or, fld_put_same, fld_put_off, bit_put1_same, bit_put_one, bit_put_off, fld_put1_off, bit_put1_off])
theorem xPut (q : Pred) (tag : BitVec 6) (dst src : XOpd) (len : SReg) (cls : BitVec 4) : Statement (.xPut q tag dst src len cls) :=
  of_word rfl (by
    intro _; simp (disch := decide) [readBack, Instr.slotOf, readSlot, readX, putP, predOf, dstOf, srcOf, putDst, putSrc, spaceOf_code, fld_or, bit_or, fld_put_same, fld_put_off, bit_put1_same, bit_put_one, bit_put_off, fld_put1_off, bit_put1_off])
theorem xCopy (q : Pred) (tag : BitVec 6) (dst src : XOpd) (len : SReg) (cls : BitVec 4) : Statement (.xCopy q tag dst src len cls) :=
  of_word rfl (by
    intro _; simp (disch := decide) [readBack, Instr.slotOf, readSlot, readX, putP, predOf, dstOf, srcOf, putDst, putSrc, spaceOf_code, fld_or, bit_or, fld_put_same, fld_put_off, bit_put1_same, bit_put_one, bit_put_off, fld_put1_off, bit_put1_off])
theorem xFill (q : Pred) (tag : BitVec 6) (dst : XOpd) (val len : SReg) (cls : BitVec 4) (unit : BitVec 2) : Statement (.xFill q tag dst val len cls unit) :=
  of_word rfl (by
    intro _; simp (disch := decide) [readBack, Instr.slotOf, readSlot, readX, putP, predOf, dstOf, srcOf, putDst, putSrc, spaceOf_code, fld_or, bit_or, fld_put_same, fld_put_off, bit_put1_same, bit_put_one, bit_put_off, fld_put1_off, bit_put1_off])
theorem xStage (q : Pred) (tag : BitVec 6) (dst src : XOpd) (len : SReg) (cls : BitVec 4) (key : BitVec 8) : Statement (.xStage q tag dst src len cls key) :=
  of_word rfl (by
    intro _; simp (disch := decide) [readBack, Instr.slotOf, readSlot, readX, putP, predOf, dstOf, srcOf, putDst, putSrc, spaceOf_code, fld_or, bit_or, fld_put_same, fld_put_off, bit_put1_same, bit_put_one, bit_put_off, fld_put1_off, bit_put1_off])
theorem xSeal (q : Pred) (tag : BitVec 6) (dst src : XOpd) (len : SReg) (cls : BitVec 4) (key : BitVec 8) : Statement (.xSeal q tag dst src len cls key) :=
  of_word rfl (by
    intro _; simp (disch := decide) [readBack, Instr.slotOf, readSlot, readX, putP, predOf, dstOf, srcOf, putDst, putSrc, spaceOf_code, fld_or, bit_or, fld_put_same, fld_put_off, bit_put1_same, bit_put_one, bit_put_off, fld_put1_off, bit_put1_off])
theorem xSgather (q : Pred) (tag : BitVec 6) (dst src : XOpd) (len : SReg) (cls : BitVec 4) (desc : SReg) : Statement (.xSgather q tag dst src len cls desc) :=
  of_word rfl (by
    intro _; simp (disch := decide) [readBack, Instr.slotOf, readSlot, readX, putP, predOf, dstOf, srcOf, putDst, putSrc, spaceOf_code, fld_or, bit_or, fld_put_same, fld_put_off, bit_put1_same, bit_put_one, bit_put_off, fld_put1_off, bit_put1_off])
theorem xWait (q : Pred) (tag : BitVec 6) : Statement (.xWait q tag) :=
  of_word rfl (by
    intro _; simp (disch := decide) [readBack, Instr.slotOf, readSlot, readX, putP, predOf, fld_or, bit_or, fld_put_same, fld_put_off, bit_put1_same, bit_put_one, bit_put_off, fld_put1_off, bit_put1_off])
theorem xStat (q : Pred) (d : SReg) (tag : BitVec 6) : Statement (.xStat q d tag) :=
  of_word rfl (by
    intro _; simp (disch := decide) [readBack, Instr.slotOf, readSlot, readX, putP, predOf, fld_or, bit_or, fld_put_same, fld_put_off, bit_put1_same, bit_put_one, bit_put_off, fld_put1_off, bit_put1_off])
theorem xCancel (q : Pred) (tag : BitVec 6) : Statement (.xCancel q tag) :=
  of_word rfl (by
    intro _; simp (disch := decide) [readBack, Instr.slotOf, readSlot, readX, putP, predOf, fld_or, bit_or, fld_put_same, fld_put_off, bit_put1_same, bit_put_one, bit_put_off, fld_put1_off, bit_put1_off])
theorem uFeeda (a : WReg) (lenM1 : BitVec 9) (all : Bool) : Statement (.uFeeda a lenM1 all) :=
  of_word rfl (by
    intro _; simp (disch := omega) [readBack, Instr.slotOf, readMicro, fld_or, bit_or, fld_put_same, fld_put_off, bit_put1_same, bit_put_one, bit_put_off, fld_put1_off, bit_put1_off])
theorem uFeedb (a : WReg) (lenM1 : BitVec 9) (all : Bool) : Statement (.uFeedb a lenM1 all) :=
  of_word rfl (by
    intro _; simp (disch := omega) [readBack, Instr.slotOf, readMicro, fld_or, bit_or, fld_put_same, fld_put_off, bit_put1_same, bit_put_one, bit_put_off, fld_put1_off, bit_put1_off])
theorem uMac : Statement (.uMac) :=
  of_word rfl (by
    intro _; simp (disch := omega) [readBack, Instr.slotOf, readMicro, fld_or, bit_or, fld_put_same, fld_put_off, bit_put1_same, bit_put_one, bit_put_off, fld_put1_off, bit_put1_off])
theorem uMacq : Statement (.uMacq) :=
  of_word rfl (by
    intro _; simp (disch := omega) [readBack, Instr.slotOf, readMicro, fld_or, bit_or, fld_put_same, fld_put_off, bit_put1_same, bit_put_one, bit_put_off, fld_put1_off, bit_put1_off])
theorem uFold : Statement (.uFold) :=
  of_word rfl (by
    intro _; simp (disch := omega) [readBack, Instr.slotOf, readMicro, fld_or, bit_or, fld_put_same, fld_put_off, bit_put1_same, bit_put_one, bit_put_off, fld_put1_off, bit_put1_off])
theorem uAccl (a : WReg) (idx : BitVec 6) (clr : Bool) : Statement (.uAccl a idx clr) :=
  of_word rfl (by
    intro _; simp (disch := omega) [readBack, Instr.slotOf, readMicro, fld_or, bit_or, fld_put_same, fld_put_off, bit_put1_same, bit_put_one, bit_put_off, fld_put1_off, bit_put1_off])
theorem uNorm (a : WReg) (sideB add : Bool) : Statement (.uNorm a sideB add) :=
  of_word rfl (by
    intro _; simp (disch := omega) [readBack, Instr.slotOf, readMicro, fld_or, bit_or, fld_put_same, fld_put_off, bit_put1_same, bit_put_one, bit_put_off, fld_put1_off, bit_put1_off])
theorem uDraw (a b : WReg) (qM1 : BitVec 7) : Statement (.uDraw a b qM1) :=
  of_word rfl (by
    intro _; simp (disch := omega) [readBack, Instr.slotOf, readMicro, fld_or, bit_or, fld_put_same, fld_put_off, bit_put1_same, bit_put_one, bit_put_off, fld_put1_off, bit_put1_off])
theorem uSgath (a : WReg) : Statement (.uSgath a) :=
  of_word rfl (by
    intro _; simp (disch := omega) [readBack, Instr.slotOf, readMicro, fld_or, bit_or, fld_put_same, fld_put_off, bit_put1_same, bit_put_one, bit_put_off, fld_put1_off, bit_put1_off])
theorem uProbe (a : WReg) (nM1 : BitVec 6) : Statement (.uProbe a nM1) :=
  of_word rfl (by
    intro _; simp (disch := omega) [readBack, Instr.slotOf, readMicro, fld_or, bit_or, fld_put_same, fld_put_off, bit_put1_same, bit_put_one, bit_put_off, fld_put1_off, bit_put1_off])
theorem uStoptest (off : BitVec 16) : Statement (.uStoptest off) :=
  of_word rfl (by
    intro _; simp (disch := omega) [readBack, Instr.slotOf, readMicro, fld_or, bit_or, fld_put_same, fld_put_off, bit_put1_same, bit_put_one, bit_put_off, fld_put1_off, bit_put1_off])
theorem uSkipz (sideB : Bool) (n : BitVec 4) : Statement (.uSkipz sideB n) :=
  of_word rfl (by
    intro _; simp (disch := omega) [readBack, Instr.slotOf, readMicro, fld_or, bit_or, fld_put_same, fld_put_off, bit_put1_same, bit_put_one, bit_put_off, fld_put1_off, bit_put1_off])
theorem uEdge (a b : WReg) : Statement (.uEdge a b) :=
  of_word rfl (by
    intro _; simp (disch := omega) [readBack, Instr.slotOf, readMicro, fld_or, bit_or, fld_put_same, fld_put_off, bit_put1_same, bit_put_one, bit_put_off, fld_put1_off, bit_put1_off])
theorem uSwap (a b : WReg) : Statement (.uSwap a b) :=
  of_word rfl (by
    intro _; simp (disch := omega) [readBack, Instr.slotOf, readMicro, fld_or, bit_or, fld_put_same, fld_put_off, bit_put1_same, bit_put_one, bit_put_off, fld_put1_off, bit_put1_off])
theorem uPset (d : WReg) (src : PsetSrc) : Statement (.uPset d src) :=
  of_word rfl (by
    intro _; cases src <;> simp (disch := omega) [readBack, Instr.slotOf, readMicro, psetOf, putPset, fld_or, bit_or, fld_put_same, fld_put_off, bit_put1_same, bit_put_one, bit_put_off, fld_put1_off, bit_put1_off])
theorem uPadd (d a b : WReg) (i : BitVec 32) : Statement (.uPadd d a b i) :=
  of_word rfl (by
    intro _; simp (disch := omega) [readBack, Instr.slotOf, readMicro, fld_or, bit_or, fld_put_same, fld_put_off, bit_put1_same, bit_put_one, bit_put_off, fld_put1_off, bit_put1_off])
theorem uPbr (a b : WReg) (cond : BitVec 3) (off : BitVec 16) : Statement (.uPbr a b cond off) :=
  of_word rfl (by
    intro _; simp (disch := omega) [readBack, Instr.slotOf, readMicro, fld_or, bit_or, fld_put_same, fld_put_off, bit_put1_same, bit_put_one, bit_put_off, fld_put1_off, bit_put1_off])
theorem uMloop (a : WReg) (cnt off : BitVec 16) : Statement (.uMloop a cnt off) :=
  of_word rfl (by
    intro _; simp (disch := omega) [readBack, Instr.slotOf, readMicro, fld_or, bit_or, fld_put_same, fld_put_off, bit_put1_same, bit_put_one, bit_put_off, fld_put1_off, bit_put1_off])
theorem uWait (a : WReg) (n : BitVec 16) : Statement (.uWait a n) :=
  of_word rfl (by
    intro _; simp (disch := omega) [readBack, Instr.slotOf, readMicro, fld_or, bit_or, fld_put_same, fld_put_off, bit_put1_same, bit_put_one, bit_put_off, fld_put1_off, bit_put1_off])
theorem uMend : Statement (.uMend) :=
  of_word rfl (by
    intro _; simp (disch := omega) [readBack, Instr.slotOf, readMicro, fld_or, bit_or, fld_put_same, fld_put_off, bit_put1_same, bit_put_one, bit_put_off, fld_put1_off, bit_put1_off])
theorem evPackageReset : Statement .evPackageReset := of_none rfl
theorem evRegisterWrite : Statement .evRegisterWrite := of_none rfl
theorem evClkcapWrite : Statement .evClkcapWrite := of_none rfl
theorem evClockStepChange : Statement .evClockStepChange := of_none rfl
theorem evThermalTrip : Statement .evThermalTrip := of_none rfl
theorem evTelemetrySample : Statement .evTelemetrySample := of_none rfl
theorem evClusterGate : Statement .evClusterGate := of_none rfl
theorem evClusterWake : Statement .evClusterWake := of_none rfl
theorem evLinkReset : Statement .evLinkReset := of_none rfl
theorem evEventRingConsume : Statement .evEventRingConsume := of_none rfl
theorem evEventRecordWrite : Statement .evEventRecordWrite := of_none rfl
theorem evLaunchRecord : Statement .evLaunchRecord := of_none rfl
theorem evDispatchDecision : Statement .evDispatchDecision := of_none rfl
theorem evDictionaryLoad : Statement .evDictionaryLoad := of_none rfl
theorem evLaunchIssuable : Statement .evLaunchIssuable := of_none rfl
theorem evPriorityPreempt : Statement .evPriorityPreempt := of_none rfl
theorem evLaunchComplete : Statement .evLaunchComplete := of_none rfl
theorem evReleaseFlush : Statement .evReleaseFlush := of_none rfl
theorem evCancellation : Statement .evCancellation := of_none rfl
theorem evBundleDispatch : Statement .evBundleDispatch := of_none rfl
theorem evCheckpointCommit : Statement .evCheckpointCommit := of_none rfl
theorem evTrapRollback : Statement .evTrapRollback := of_none rfl
theorem evAsyncFaultReport : Statement .evAsyncFaultReport := of_none rfl
theorem evPreemptByBoundary : Statement .evPreemptByBoundary := of_none rfl
theorem evPreemptByRollback : Statement .evPreemptByRollback := of_none rfl
theorem evContextSave : Statement .evContextSave := of_none rfl
theorem evContextRestore : Statement .evContextRestore := of_none rfl
theorem evRemoteWriteArrival : Statement .evRemoteWriteArrival := of_none rfl
theorem evReceiveQueuePerform : Statement .evReceiveQueuePerform := of_none rfl
theorem evWriteAcceptance : Statement .evWriteAcceptance := of_none rfl
theorem evRemoteBoundReply : Statement .evRemoteBoundReply := of_none rfl
theorem evPhaseArrival : Statement .evPhaseArrival := of_none rfl
theorem evTaggedWaitSatisfied : Statement .evTaggedWaitSatisfied := of_none rfl
theorem evWaitTimeout : Statement .evWaitTimeout := of_none rfl
theorem evHostInboundWrite : Statement .evHostInboundWrite := of_none rfl
theorem evSectorEvictWriteback : Statement .evSectorEvictWriteback := of_none rfl
theorem evHomeProbe : Statement .evHomeProbe := of_none rfl
theorem evTileFillComplete : Statement .evTileFillComplete := of_none rfl
theorem evTileFillFault : Statement .evTileFillFault := of_none rfl
theorem evMatrixRecordStart : Statement .evMatrixRecordStart := of_none rfl
theorem evMicroTileCommit : Statement .evMicroTileCommit := of_none rfl
theorem evMatrixCallComplete : Statement .evMatrixCallComplete := of_none rfl
theorem evMatrixMigrate : Statement .evMatrixMigrate := of_none rfl
theorem evMigrationReturn : Statement .evMigrationReturn := of_none rfl
theorem evAccDrainDone : Statement .evAccDrainDone := of_none rfl
theorem evCopyComplete : Statement .evCopyComplete := of_none rfl
theorem evStepCurrent : Statement .evStepCurrent := of_none rfl
theorem evScheduleReread : Statement .evScheduleReread := of_none rfl
theorem evProoferPrefetch : Statement .evProoferPrefetch := of_none rfl
theorem evLeaseRenewal : Statement .evLeaseRenewal := of_none rfl
theorem evReadLeaseGrant : Statement .evReadLeaseGrant := of_none rfl
theorem evLeaseRetry : Statement .evLeaseRetry := of_none rfl
theorem evWriteLeaseGrant : Statement .evWriteLeaseGrant := of_none rfl
theorem evRenewalGrant : Statement .evRenewalGrant := of_none rfl
theorem evLeaseFenced : Statement .evLeaseFenced := of_none rfl
theorem evLeaseDeadline : Statement .evLeaseDeadline := of_none rfl
theorem evPoolPageArrival : Statement .evPoolPageArrival := of_none rfl
theorem evPutAcknowledge : Statement .evPutAcknowledge := of_none rfl
theorem evPoolCacheEvict : Statement .evPoolCacheEvict := of_none rfl
theorem evStepCommit : Statement .evStepCommit := of_none rfl
theorem evStepLost : Statement .evStepLost := of_none rfl
theorem evStepRerunCheck : Statement .evStepRerunCheck := of_none rfl
theorem evFlitReceive : Statement .evFlitReceive := of_none rfl
theorem evNakReceive : Statement .evNakReceive := of_none rfl
theorem evReplayTimeout : Statement .evReplayTimeout := of_none rfl
theorem evLaneErrorThreshold : Statement .evLaneErrorThreshold := of_none rfl
theorem evLaneRetrainEnd : Statement .evLaneRetrainEnd := of_none rfl
theorem evStrandLoss : Statement .evStrandLoss := of_none rfl
theorem evStrandReturn : Statement .evStrandReturn := of_none rfl
theorem evLinkLost : Statement .evLinkLost := of_none rfl
theorem evUncorrectableError : Statement .evUncorrectableError := of_none rfl
theorem evAtsInvalidation : Statement .evAtsInvalidation := of_none rfl
theorem evResume : Statement .evResume := of_none rfl
theorem evKill : Statement .evKill := of_none rfl
theorem evPreempt : Statement .evPreempt := of_none rfl
theorem evStepOn : Statement .evStepOn := of_none rfl
theorem evStepOff : Statement .evStepOff := of_none rfl
theorem evCancel : Statement .evCancel := of_none rfl
theorem evInvalVa : Statement .evInvalVa := of_none rfl
theorem evInvalAsid : Statement .evInvalAsid := of_none rfl
theorem evInvalS2 : Statement .evInvalS2 := of_none rfl
theorem evMboxOpen : Statement .evMboxOpen := of_none rfl
theorem evMboxClose : Statement .evMboxClose := of_none rfl
theorem evSchedule : Statement .evSchedule := of_none rfl
theorem evGetVersion : Statement .evGetVersion := of_none rfl
theorem evGetCapabilities : Statement .evGetCapabilities := of_none rfl
theorem evNegotiateAlgorithms : Statement .evNegotiateAlgorithms := of_none rfl
theorem evGetDigests : Statement .evGetDigests := of_none rfl
theorem evGetCertificate : Statement .evGetCertificate := of_none rfl
theorem evChallenge : Statement .evChallenge := of_none rfl
theorem evGetMeasurements : Statement .evGetMeasurements := of_none rfl
theorem evKeyExchange : Statement .evKeyExchange := of_none rfl
theorem evFinish : Statement .evFinish := of_none rfl
theorem evHeartbeat : Statement .evHeartbeat := of_none rfl
theorem evKeyUpdate : Statement .evKeyUpdate := of_none rfl
theorem evEndSession : Statement .evEndSession := of_none rfl
theorem evSetCertificate : Statement .evSetCertificate := of_none rfl
theorem evGetCsr : Statement .evGetCsr := of_none rfl
theorem evChunkSend : Statement .evChunkSend := of_none rfl
theorem evChunkGet : Statement .evChunkGet := of_none rfl
theorem evUnsupportedRequest : Statement .evUnsupportedRequest := of_none rfl
theorem evOwnerAuth : Statement .evOwnerAuth := of_none rfl
theorem evSetKey : Statement .evSetKey := of_none rfl
theorem evClearKey : Statement .evClearKey := of_none rfl
theorem evLockInterface : Statement .evLockInterface := of_none rfl
theorem evStopInterface : Statement .evStopInterface := of_none rfl
theorem evTdiError : Statement .evTdiError := of_none rfl
theorem evRemoteRequestArrival : Statement .evRemoteRequestArrival := of_none rfl
theorem evRemoteReply : Statement .evRemoteReply := of_none rfl
theorem evPatrolScrub : Statement .evPatrolScrub := of_none rfl
theorem evTdiRun : Statement .evTdiRun := of_none rfl
theorem evIdeKm : Statement .evIdeKm := of_none rfl

end Sys2Proof.Laws.Encoding
end

