-- ==== Sys2Proof/Tests/Slice0.lean ====
section
/-! SUPPORT. Slice0.lean: the author's own tests: ill-formed terms that the checks refuse, words written out from the manual's
encoding tables, a few single steps, and states that meet the hypotheses of the obligations. -/
set_option Elab.async false
namespace Sys2Proof.Tests
open Sys2Proof Sys2Proof.Machine Sys2Proof.Claims

/-- The predicate p0, not inverted. -/
def q0 : Pred := ⟨false, 0⟩
def mV : Mem := ⟨2, 0, 0, 1, .virt⟩
def mS : Mem := ⟨0, 0, 0, 0, .sp⟩
def mW : Mem := ⟨2, 0, 0, 1, .win⟩
def mBad : Mem := ⟨2, 0, 0, 1, .sp⟩
def nV : Mem2 := ⟨2, 0, 1, .virt⟩
def nS : Mem2 := ⟨0, 0, 0, .sp⟩
def nW : Mem2 := ⟨2, 0, 1, .win⟩
def xV : XOpd := ⟨2, 1, .virt⟩
def xL : XOpd := ⟨0, 0, .virt⟩
def xS : XOpd := ⟨0, 0, .sp⟩
def xBad : XOpd := ⟨0, 1, .sp⟩

/-! ### Ill-formed terms -/

/-- R332; R132 with Table 3.14a; Table 2.8; R133. -/
theorem test_wf_control_and_scalar :
    (Instr.cLoop q0 1 0).wf = false ∧ (Instr.cLoopi q0 2 0).wf = false ∧ (Instr.cLoopi q0 2 1).wf = true ∧
    (Instr.aFcvt q0 1 2 12 12 false 0).wf = false ∧ (Instr.aFcvt q0 1 2 2 3 false 0).wf = false ∧
    (Instr.aFcvt q0 1 2 10 2 false 0).wf = false ∧ (Instr.aFcvt q0 1 2 2 12 false 0).wf = true ∧
    (Instr.aSysrd q0 1 0x30).wf = false ∧ (Instr.aSysrd q0 1 0x48).wf = false ∧ (Instr.aSysrd q0 1 0x47).wf = true ∧
    (Instr.aSyswr q0 1 0x00B).wf = false ∧ (Instr.aSyswr q0 1 0x006).wf = false ∧ (Instr.aSyswr q0 1 0x00A).wf = true ∧
    (Instr.aLidx q0 1 6).wf = false ∧ (Instr.aLidx q0 1 5).wf = true := by decide

/-- Table 3.14, R68, R120, R137, R138, R140, R141, R143. -/
theorem test_wf_vector_types :
    (Instr.vAdd q0 8 8 (.v 0) 8 0).wf = false ∧ (Instr.vAdd q0 8 8 (.v 1) 3 0).wf = false ∧ (Instr.vAdd q0 9 8 (.v 0) 7 0).wf = false ∧
    (Instr.vMulh q0 8 8 (.imm 1) 2 0).wf = false ∧ (Instr.vMad q0 8 8 (.v 0) 1 3 0).wf = false ∧ (Instr.vAbs q0 8 8 4 0).wf = false ∧
    (Instr.vCmp q0 0 8 (.v 0) 2 0 false 0).wf = false ∧ (Instr.vCmp q0 1 8 (.v 0) 2 0 true 0).wf = false ∧
    (Instr.vCmp q0 1 8 (.v 0) 1 0 true 0).wf = true ∧ (Instr.vBcast q0 1 (.v 0) 2 0).wf = false ∧
    (Instr.vFadd q0 8 8 (.imm 0) 12 0 0).wf = false ∧ (Instr.vFadd q0 8 8 (.v 0) 15 0 0).wf = false ∧
    (Instr.vFrcp q0 8 8 2 0).wf = false ∧ (Instr.vFabs q0 8 8 13 0).wf = false ∧ (Instr.vFabs q0 8 8 9 0).wf = true ∧
    (Instr.vFcmp q0 0 8 (.v 0) 12 0 false 0).wf = false ∧ (Instr.vCvt q0 8 8 12 12 0 0 false).wf = false ∧
    (Instr.vCvt q0 8 9 12 3 0 0 false).wf = false ∧ (Instr.vCvt q0 8 8 15 2 0 0 false).wf = false ∧
    (Instr.vQuant q0 8 8 8 12 0 0 false).wf = false ∧ (Instr.vDequant q0 8 8 8 2 0).wf = false ∧
    (Instr.vPack q0 8 8 8 2 0).wf = false ∧ (Instr.vUnpack q0 8 8 8 1 0).wf = false ∧ (Instr.vUnpack q0 8 8 9 1 0).wf = true := by decide

/-- R144, R145, R148 to R153, R157, R158, R162 to R171. -/
theorem test_wf_vector_fields :
    (Instr.vRed q0 8 8 2 0 6).wf = false ∧ (Instr.vScan q0 8 8 12 0 0).wf = false ∧ (Instr.vFred q0 8 8 12 0 0 3).wf = false ∧
    (Instr.vFscan q0 8 8 2 0 0 0).wf = false ∧ (Instr.vPerm q0 8 8 8 14 0).wf = false ∧ (Instr.vSlide q0 8 8 (.v 0) 2 0).wf = false ∧
    (Instr.vRot q0 8 8 (.imm 0) 14 0).wf = false ∧ (Instr.vZip q0 8 8 9 3 0 false).wf = false ∧ (Instr.vExtr q0 1 9 0 7).wf = false ∧
    (Instr.vIns q0 9 1 0 7).wf = false ∧ (Instr.vKmov q0 0 (.k 1)).wf = false ∧ (Instr.vKop q0 0 1 1 0).wf = false ∧
    (Instr.vKop q0 1 1 0 5).wf = false ∧ (Instr.vKop q0 1 1 1 4).wf = false ∧ (Instr.vKop q0 1 1 0 4).wf = true ∧
    (Instr.vSkip q0 0).wf = false ∧ (Instr.vHashCrc q0 8 8 8 0 0).wf = false ∧ (Instr.vHashMix q0 8 8 8 2 0).wf = false ∧
    (Instr.vPartCnt q0 1 8 8 0 0).wf = false ∧ (Instr.vScmp q0 8 8 (.imm 0) 8 0).wf = false ∧
    (Instr.vSfind q0 8 8 (.imm 0) 8 0).wf = false ∧ (Instr.vSmatch q0 0 8 (.v 0) 8 0).wf = false := by decide

/-- R65, R71, R272, R284, R305, Table 3.15. -/
theorem test_wf_memory :
    (Instr.lLd q0 1 mBad 3 false).wf = false ∧ (Instr.lVlds q0 8 nW 1 2).wf = false ∧ (Instr.lVlds q0 9 nV 1 3).wf = false ∧
    (Instr.lVscatter q0 8 ⟨2, 0, 1, .sp⟩ 1 2).wf = false ∧ (Instr.lVsgather q0 8 nV 1).wf = false ∧
    (Instr.lVldQueue q0 8 1 0 0 0).wf = false ∧ (Instr.lVldQueue q0 8 1 2 2 0).wf = false ∧ (Instr.lVstQueue q0 8 1 1 2 0).wf = true ∧
    (Instr.lLdf q0 1 mV 0 false).wf = false ∧ (Instr.lLdf q0 1 mW 5 false).wf = false ∧ (Instr.lLdf q0 1 mW 4 false).wf = true ∧
    (Instr.lFset q0 mS 1).wf = false ∧ (Instr.lFqry q0 1 mS 4).wf = true ∧ (Instr.lQinit q0 1 1 0 0 0).wf = false ∧
    (Instr.lAadd q0 1 mS 2 false false).wf = false ∧ (Instr.lAadd q0 1 mV 1 false false).wf = false ∧
    (Instr.lAcas q0 1 mV 2 false false).wf = false ∧ (Instr.lVscadd q0 9 nV 1 2 true false false).wf = false ∧
    (Instr.lDprop q0 8 nV 1 3).wf = false ∧ (Instr.lDrecycle q0 1 nS 2).wf = false ∧ (Instr.lPf q0 mS false).wf = false ∧
    (Instr.lFence q0 1 5 1).wf = false ∧ (Instr.lFence q0 1 0 0).wf = false ∧ (Instr.lCld q0 0 mV).wf = false ∧
    (Instr.lCdrop q0 0).wf = false := by decide

/-- R187, Tables 11.4 and 8.11, R191, R201, R216. -/
theorem test_wf_engines :
    (Instr.mCall q0 0xF2 0 0 0 0 1).wf = false ∧ (Instr.mCall q0 0xF3 0 0 0 0 1).wf = true ∧ (Instr.xGet q0 1 xV xV 1 0).wf = false ∧
    (Instr.xGet q0 1 xS xV 1 0).wf = true ∧ (Instr.xPut q0 1 xV xV 1 0).wf = false ∧ (Instr.xPut q0 1 xV xL 1 0).wf = true ∧
    (Instr.xCopy q0 1 xBad xV 1 0).wf = false ∧ (Instr.xFill q0 1 xBad 1 1 0 0).wf = false ∧ (Instr.xStage q0 1 xL xV 1 0 0).wf = false ∧
    (Instr.xSeal q0 1 xS xS 1 0 0).wf = false ∧ (Instr.xSgather q0 1 xS xV 1 0 3).wf = false ∧
    (Instr.uFeeda 1 1 true).wf = false ∧ (Instr.uFeedb 1 1 true).wf = false ∧ (Instr.uDraw 1 2 6).wf = false ∧ (Instr.uDraw 1 2 64).wf = false ∧
    (Instr.uDraw 1 2 7).wf = true ∧ (Instr.uSkipz false 0).wf = false ∧ (Instr.uPset 1 (.param 0 0 32)).wf = false ∧
    (Instr.uPbr 1 2 6 1).wf = false ∧ (Instr.uMloop 1 1 0).wf = false ∧ (Instr.uMloop 1 1 1024).wf = false ∧ (Instr.uMloop 1 1 1023).wf = true := by
  decide

/-! ### Words written out from the encoding tables -/

/-- The C slot (R72, Table 3.5): opcode in bits 31:26, the predicate in 25 and 24:22. -/
theorem test_decode_c :
    decodeSlot .c 0x047FFFFD = .ok (.cBr ⟨false, 1⟩ 0x3FFFFD) ∧ decodeSlot .c 0x1C00200A = .ok (.cLoopi q0 2 10) ∧
    decodeSlot .c 0x18040008 = .ok (.cLoop q0 4 8) ∧ decodeSlot .c 0x20400000 = .ok (.cLbreak ⟨false, 1⟩) := by decide

/-- The A slot (R73, Table 3.6). -/
theorem test_decode_a :
    decodeSlot .a 0x2001450000004000 = .ok (.aAddi q0 5 5 64) ∧ decodeSlot .a 0x3102180000000300 = .ok (.aCmpi q0 1 3 0 6) ∧
    decodeSlot .a 0x4301051879000000 = .ok (.aFma q0 4 5 6 7 true 1) := by decide

/-- The V slot (R74, Table 3.7; the worked examples of 06 and 07). -/
theorem test_decode_v :
    decodeSlot .v 0x000208FFFD020400 = .ok (.vAdd q0 8 8 (.imm 0xFFFD) 1 0) ∧
    decodeSlot .v 0x2000420C0C100000 = .ok (.vFadd q0 1 2 (.v 3) 12 0 2) ∧ decodeSlot .v 0x6E00000002000400 = .ok (.vSkip q0 2) ∧
    decodeSlot .v 0x7201020C00000000 = .ok (.vPart q0 4 2 3 0) ∧ decodeSlot .v 0x7201C20C20001000 = .ok (.vPartCnt q0 7 2 3 2 0) := by decide

/-- The L slot (R75, Table 3.8; the worked examples of 03, 11, 12 and 18). -/
theorem test_decode_l :
    decodeSlot .l 0x0100801000000C10 = .ok (.lSt q0 2 ⟨0, 0x10000, 0, 0, .sp⟩ 3) ∧
    decodeSlot .l 0x03018A0000001000 = .ok (.lVst q0 6 ⟨10, 0, 0, 0, .virt⟩) ∧ decodeSlot .l 0x02008C0001100030 = .ok (.lVldQueue q0 2 3 0 1 1) ∧
    decodeSlot .l 0x1100470000014810 = .ok (.lSte q0 1 ⟨7, 0, 1, 0, .sp⟩ 2 false) ∧
    decodeSlot .l 0x1C02CC0304100030 = .ok (.lQinit q0 11 3 3 4 1) ∧ decodeSlot .l 0x1D000C0000100030 = .ok (.lQadvp q0 3 0 1) ∧
    decodeSlot .l 0x1800AC0000000400 = .ok (.lTld q0 1 ⟨22, 0, 0, 0⟩ 8) := by decide

theorem test_decode_l_ordering_and_cells :
    decodeSlot .l 0x3900000000204003 = .ok (.lFence q0 2 2 3) ∧
    decodeSlot .l 0x2002470000018D01 = .ok (.lAadd q0 9 ⟨7, 0, 1, 4, .virt⟩ 4 true true) ∧
    decodeSlot .l 0x3002061400018100 = .ok (.lDprop q0 8 ⟨6, 1, 4, .virt⟩ 5 4) ∧
    decodeSlot .l 0x3102061400018100 = .ok (.lDread q0 8 ⟨6, 1, 4, .virt⟩ 5 4) ∧
    decodeSlot .l 0x3200C60000008100 = .ok (.lDrecycle q0 3 ⟨6, 0, 4, .virt⟩ 4) ∧
    decodeSlot .l 0x3D00000000000000 = .ok (.lDsync q0) := by decide

/-- The M and X slots and micro-words (R76, R78, Tables 3.9, 3.10, 8.11; the worked examples of 08, 09 and 11). -/
theorem test_decode_m_x_micro :
    decodeSlot .m 0x000F008040C00018 = .ok (.mCall q0 0xF0 2 0 1 3 0x18) ∧ decodeSlot .m 0x0200000040000000 = .ok (.mWait q0 1) ∧
    decodeSlot .m 0x0600841400000000 = .ok (.mSbuild q0 2 4 5) ∧
    decodeSlot .x 0x00008C00D0110001 = .ok (.xGet q0 2 ⟨12, 0, .sp⟩ ⟨0, 1, .virt⟩ 13 1) ∧
    decodeSlot .x 0x0101C05162020004 = .ok (.xPut q0 7 ⟨0, 2, .virt⟩ ⟨20, 0, .sp⟩ 22 2) ∧
    decodeMicro 0x3880000080001E01 = .ok (.uPset 2 (.param 1 0 15)) ∧ decodeMicro 0x4408000000060000 = .ok (.uMloop 2 0 6) ∧
    decodeMicro 0x3C44000000000020 = .ok (.uPadd 1 1 0 32) ∧ decodeMicro 0x480000000000000D = .ok (.uWait 0 13) ∧
    decodeMicro 0x1C0480000000003F = .ok (.uDraw 1 2 63) := by decide

end Sys2Proof.Tests

namespace Sys2Proof.Tests
open Sys2Proof Sys2Proof.Machine Sys2Proof.Claims

/-! ### States for the witnesses -/

def partA : PartDesc where
  schedAsid := 1
  mboxMask := 1
  locked := false
  clMask := 1
  keyHi := 3
  keyLo := 1
  pid := 1
  region := [0, 0, 0, 0]
  s2Root := 0
  asidTab := 0
  signTab := 0
  minSvn := 0

/-- A capability to a range of 16 pages of an object, with every right and the home lease. -/
def capTo (obj : Nat) : BitVec 128 := BitVec.ofNat 128 (obj * 2 ^ 80 + 16 * 2 ^ 16 + 0xF * 2 ^ 12 + 15 * 2 ^ 8)

/-- Registers of the witnesses: c1 names a plain object, c2 one of capability pages. -/
def regsA : Regs := { Regs.zero with c := (Regs.zero.c.set 1 (capTo 5)).set 2 (capTo 6) }

/-- A context that owns its core's whole scratchpad. -/
def ctxA : Context := { Context.none with
  live := true
  issuable := true
  spHi := 0x3FFFFF
  regs := regsA
  ckpt := regsA
  micro := ⟨64, [], [], []⟩ }

def coreA : CoreSt := { CoreSt.none with owner := Vector.replicate 64 (some false), full := [1, 2, 3] }

def poolA : Pool := { Pool.reset with
  objs := [(5, ⟨16, 0, 0, false, false, true, false⟩), (6, ⟨16, 0, 0, false, true, true, false⟩), (7, ⟨16, 0, 0, false, false, false, false⟩)] }

def pkgA : Package := { Package.reset with parts := Package.reset.parts.set 0 (some partA) }

/-- The machine with that context in focus on core 0. -/
def sA : State := { State.reset with ctx := ctxA, core := coreA, pkg := pkgA, pool := poolA }

/-- The same with other registers, and with an operation at work. -/
def withRegs (s : State) (r : Regs) : State := { s with ctx := { s.ctx with regs := r } }
def setS (s : State) (r : SReg) (x : Word) : State := withRegs s { s.ctx.regs with s := s.ctx.regs.s.set r.toNat x r.isLt }
def opAt (seq : Nat) (i : Instr) : PendOp := ⟨⟨seq, .a, 0, []⟩, i, 0, false⟩
def working (s : State) : State := { s with cur := some (opAt 0 (.aAdd q0 1 1 1)) }

/-! ### Witnesses: registers and arithmetic -/

theorem witness_RegisterFilesReadBack : sA.cur = none := rfl

theorem witness_RegisterWritesTouchOneFile : (5 : SReg) ≠ 0 ∧ (4 : SReg) ≠ 5 ∧ (63 : VReg) ≠ 5 := by decide

theorem witness_BundleReadsBeforeItsWrites :
    let o := opAt 3 (.aAdd q0 1 2 3)
    let o' : PendOp := ⟨⟨3, .v, 0, []⟩, .vExtr q0 4 1 1 2, 0, false⟩
    let l := opAt 4 (.aAdd q0 5 1 1)
    let s : State := { sA with cur := some o, ctx := { ctxA with queue := [o'] } }
    s.cur = some o ∧ o' ∈ s.ctx.queue ∧ o'.id.seq = o.id.seq ∧ (∀ e ∈ s.ctx.saved, e.1 ≠ o.id.seq) ∧
    (∀ e ∈ s.ctx.saved, e.1 ≠ l.id.seq) ∧ l.id.seq ≠ o.id.seq ∧ (1 : SReg) ≠ 0 ∧ (7 : PReg) ≠ 0 ∧ (7 : KReg) ≠ 0 := by
  intro o o' l s
  exact ⟨rfl, by decide, rfl, by decide, by decide, by decide, by decide, by decide, by decide⟩

theorem witness_FalsePredicateDoesNothing :
    opPred (.aAdd ⟨true, 0⟩ 1 2 3) = some ⟨true, 0⟩ ∧ sA.holds ⟨true, 0⟩ = false ∧ opPred (.cBr ⟨false, 1⟩ 4) = some ⟨false, 1⟩ ∧
    sA.holds ⟨false, 1⟩ = false ∧ (Instr.aAdd ⟨true, 0⟩ 1 2 3).slotOf ≠ none ∧ (encode (.cBr ⟨false, 1⟩ 4)).isSome = true := by decide

/-- p0 holds in the witnesses' states: what every statement of results asks. -/
theorem witness_holds : sA.holds q0 = true ∧ (working sA).holds q0 = true ∧ sA.cur = none ∧ sA.ctx.trap = none := by decide

theorem witness_ScalarIntegerResults : sA.holds q0 = true := witness_holds.1

theorem witness_ScalarImmediateResults :
    sA.holds q0 = true ∧ fld (0x2700010000000000 : BitVec 64) 56 8 = 0x27 ∧ fld (0x2700010000000000 : BitVec 64) 40 6 ≠ 0 ∧
    fld (0x2400000000004000 : BitVec 64) 56 8 ∈ ([0x24, 0x25, 0x26] : List (BitVec 8)) ∧
    fld (0x2400000000100000 : BitVec 64) 14 26 ≠ 0 := by decide

theorem witness_PredicateResults : sA.holds q0 = true := witness_holds.1

/-- With every condition of FPCTL enabled, 1 + 1, 1 · 1 and 1 / 1 are quiet; so is all under FPCTL 0. -/
theorem witness_ScalarFloatResults :
    let s := withRegs sA { regsA with fpctl := 15 }
    s.holds q0 = true ∧ fpBad s.readFpctl (fp32.decode (fp32.addBits 0 0x3F800000 0x3F800000)) [fp32.decode 0x3F800000, fp32.decode 0x3F800000] = false ∧
    fpBad s.readFpctl (fp64.decode (fp64.mulBits 0 0x3FF0000000000000 0x3FF0000000000000)) [fp64.decode 0x3FF0000000000000] = false ∧
    fpBad sA.readFpctl (fp32.decode 0x7F800000) [] = false ∧ cvtTy 2 = true ∧ cvtTy 15 = true ∧ floatTy 2 = false := by decide

/-- The greatest fp32 number twice overflows a sum and a product; 1 / 0 is an infinity too. -/
theorem witness_NonfiniteWritesNothing :
    let s := working (withRegs sA { regsA with fpctl := 8 })
    let big := 0x7F7FFFFF
    s.holds q0 = true ∧ s.cur = some (opAt 0 (.aAdd q0 1 1 1)) ∧ s.ctx.trap = none ∧
    fpBad s.readFpctl (fp32.decode (fp32.addBits 0 big big)) [fp32.decode big, fp32.decode big] = true ∧
    fpBad s.readFpctl (fp32.decode (fp32.mulBits 0 big big)) [fp32.decode big, fp32.decode big] = true ∧
    fpBad s.readFpctl (fp32.decode (fp32.divBits 0 0x3F800000 0)) [fp32.decode 0x3F800000, fp32.decode 0] = true := by
  decide

theorem witness_SystemRegisterAccess : sA.holds q0 = true ∧ sA.cur = none := by decide

theorem witness_ScalarFrame : (Instr.aAdd q0 1 2 3).slotOf = some .a ∧ exec (.aAdd q0 1 2 3) sA = .next (sA.writeS 1 (sA.readS 2 + sA.readS 3)) :=
  ⟨rfl, rfl⟩

end Sys2Proof.Tests

namespace Sys2Proof.Tests
open Sys2Proof Sys2Proof.Machine Sys2Proof.Claims

/-! ### Single steps -/

/-- R329, R453: `call 4` at pc 0 leaves the target behind two delay slots. -/
theorem test_step_call :
    (match step (State.reset.withFetchWord 32 0x08000004) with
      | .next t => t.ctx.regs.xfer == some ⟨some 4, 0, 2, 0⟩ && t.ctx.regs.pc == 25
      | _ => false) = true := by decide

/-- R338: `trap 0xBEEF` holds SOFTWARE_TRAP with its code. -/
theorem test_step_trap :
    (match step (State.reset.withFetchWord 32 0x2C00BEEF) with
      | .next t => t.ctx.trap.map (fun h => (h.info.code, h.info.info)) == some (0x38, 0xBEEF)
      | _ => false) = true := by decide

/-- R332, R331: a `loopi` whose end is no bundle start is refused: ILLEGAL_FIELD (0x02). -/
theorem test_step_loopi_bad_end :
    (match step (State.reset.withFetchWord 32 0x1C00200A) with
      | .next t => t.ctx.trap.map (fun h => h.info.code) == some 2
      | _ => false) = true := by decide

/-- R124: dividing by 0 gives all ones; the least integer divided by −1 gives itself. -/
theorem test_div_corners :
    (match exec (.aDiv q0 3 1 2) (setS sA 1 7) with | .next t => t.readS 3 == BitVec.allOnes 64 | _ => false) = true ∧
    (match exec (.aDiv q0 3 1 2) (setS (setS sA 1 0x8000000000000000) 2 0xFFFFFFFFFFFFFFFF) with
      | .next t => t.readS 3 == 0x8000000000000000 | _ => false) = true := by decide

/-! ### Witnesses: vectors -/

theorem witness_VectorIntegerResults : sA.holds q0 = true ∧ intTy 0 = true ∧ intTy 7 = true ∧ fpTy 10 = true := by decide

theorem witness_VectorFloatResults :
    sA.holds q0 = true ∧ fpTy 12 = true ∧ fpTy 8 = false ∧ quietAll sA 12 0 (fun _ => 0x7F800000) (fun _ => [0]) := by
  unfold quietAll; decide

theorem witness_VectorConversionResults :
    sA.holds q0 = true ∧ isFloatTy 2 = false ∧ codeTy 14 = true ∧ narrowTy 0 = true ∧
    (∀ i < 64, runs sA 0 32 i = true → fpBad sA.readFpctl (fp32.decode (dequant 0 0 0)) [fp16.decode 0] = false) := by decide

theorem witness_LaneTransferResults :
    sA.holds q0 = true ∧ (∃ (o : VSrc) (k : Int), (∃ r, o = .s r ∧ k = (sA.readS r).toInt) ∨ (∃ i, o = .imm i ∧ k = i.toInt)) :=
  ⟨rfl, .imm (-1), -1, .inr ⟨-1, rfl, by decide⟩⟩

def depthAt (n : Nat) : State := withRegs sA { regsA with mdep := BitVec.ofNat 5 n }

theorem witness_MaskStackResults :
    sA.holds q0 = true ∧ sA.cur = none ∧ sA.ctx.trap = none ∧ (depthAt 1).ctx.regs.mdep.toNat = 1 ∧ (depthAt 15).ctx.regs.mdep.toNat < 16 ∧
    2 ≤ (depthAt 2).ctx.regs.mdep.toNat ∧ (depthAt 16).ctx.regs.mdep.toNat = 16 ∧ (depthAt 16).ctx.trap = none := by decide

theorem witness_HashAndStringResults : sA.holds q0 = true ∧ (VSrc.s 1).notImm = true ∧ keyTy 2 = true ∧ wideTy 3 = true := by decide

theorem witness_VectorFrame :
    (Instr.vMpop q0).slotOf = some .v ∧ (∃ t, exec (.vLane q0 1 2 0) sA = .next t) ∧ (∃ t, exec (.vMpop q0) (depthAt 2) = .next t) :=
  ⟨rfl, ⟨_, rfl⟩, ⟨_, rfl⟩⟩

theorem witness_VectorRegistersAndBits :
    sA.holds q0 = true ∧ sA.cur = none ∧ (List.replicate 64 5).length = elemCount (tyBits 3) ∧
    (∀ x ∈ List.replicate 64 5, x < 2 ^ tyBits 3) ∧ (4 : VReg) ≠ 2 ∧ (4 : VReg) ≠ 2 + 1 ∧ intTy 3 = true ∧ fpTy 12 = true := by decide

theorem witness_ReductionsAndScans :
    sA.holds q0 = true ∧ intTy 2 = true ∧ fpTy 12 = true ∧ (5 : BitVec 3).toNat ≤ 5 ∧ (2 : BitVec 3).toNat ≤ 2 ∧ sA.readFpctl = 0 := by decide

theorem witness_FloatAndApproximateSpecialCases :
    (fp32 = fp64 ∨ fp32 = fp32 ∨ fp32 = fp16 ∨ fp32 = bf16) ∧ (fp32.decode fp32.nan).isNan = true ∧ (fp32.decode 0x80000000).isZero = true ∧
    (fp32.decode 0x7F800000).isFin = false ∧ (fp32.decode 0x3F800000).isFin = true ∧ (fp32.decode 0x3F800000).isZero = false ∧
    (fp32.decode 0xBF800000).neg? = true ∧ 0x3F800000 < 2 ^ fp32.width := by
  exact ⟨.inr (.inl rfl), by decide⟩

/-! ### Witnesses: control -/

/-- Every code word of the image begins a bundle. -/
def imageL : Image := { Image.none with codeLen := 1024, blocks := [(0, ⟨List.replicate 1024 0, List.replicate 16 (BitVec.allOnes 64)⟩)] }
def sL (r : Regs) : State := { sA with ctx := { ctxA with image := imageL, regs := r } }
def entryTo (last left : BitVec 32) : LoopEntry := ⟨0, left, last, 1⟩

theorem witness_ControlFrame : (Instr.cNop q0).slotOf = some .c ∧ ∃ t, exec (.cNop q0) sA = .next t := ⟨rfl, _, rfl⟩

theorem witness_TransfersAndDelaySlots :
    sA.holds q0 = true ∧ sA.ctx.regs.xfer = none ∧
    (withRegs sA { regsA with xfer := some ⟨some 4, 0, 2, 0⟩ }).ctx.regs.xfer = some ⟨some 4, 0, 2, 0⟩ ∧
    (withRegs sA { regsA with xfer := some ⟨some 4, 0, 1, 0⟩ }).ctx.regs.xfer = some ⟨some 4, 0, 1, 0⟩ := by decide

theorem witness_HardwareLoops :
    let s := sL { regsA with s := regsA.s.set 1 1 }
    let five := sL { regsA with loops := List.replicate 5 (entryTo 9 1), s := regsA.s.set 1 1 }
    let six := sL { regsA with loops := List.replicate 6 (entryTo 9 1), s := regsA.s.set 1 1 }
    s.holds q0 = true ∧ s.ctx.regs.xfer = none ∧ s.startBit ((0 : BitVec 32) + (1 : BitVec 16).setWidth 32).toNat = true ∧
    (s.readS 1).setWidth 32 ≠ (0 : BitVec 32) ∧ five.ctx.regs.loops.length < 6 ∧ five.startBit 4 = true ∧ six.holds q0 = true ∧
    6 ≤ six.ctx.regs.loops.length ∧ six.ctx.trap = none ∧ six.startBit 1023 = true ∧
    (entryTo 9 2).last = 9 ∧ (entryTo 9 2).remain ≠ 1 ∧ (entryTo 9 1).remain = 1 ∧ (entryTo 8 1).last ≠ 9 := by decide

theorem witness_OtherControlAndSkips :
    let one := sL { regsA with loops := [entryTo 9 1, entryTo 12 3] }
    let two := sL { regsA with loops := [entryTo 9 2] }
    let dbg : State := { sA with ctx := { ctxA with status := 8 } }
    let on : State := { sA with ctx := { ctxA with status := 8, breakOnce := true } }
    let dark := withRegs sA { regsA with mstk := Vector.replicate 16 0 }
    let at_ := fun (s : State) => s.holds q0 = true ∧ s.ctx.regs.xfer = none ∧ s.ctx.trap = none ∧ s.cur = none
    (at_ one ∧ one.ctx.regs.loops = entryTo 9 1 :: [entryTo 12 3] ∧ (∀ e2 ∈ [entryTo 12 3], e2.last ≠ (entryTo 9 1).last) ∧
      (entryTo 9 1).remain = 1) ∧
    (at_ two ∧ two.ctx.regs.loops = entryTo 9 2 :: [] ∧ (entryTo 9 2).remain ≠ 1) ∧
    (at_ sA ∧ sA.ctx.regs.loops = [] ∧ sA.ctx.debug = false) ∧
    (at_ dbg ∧ dbg.ctx.debug = true ∧ dbg.ctx.breakOnce = false) ∧ (at_ on ∧ on.ctx.debug = true ∧ on.ctx.breakOnce = true) ∧
    sA.maskTop ≠ 0 ∧ dark.holds q0 = true ∧ dark.maskTop = 0 ∧ dark.ctx.seq < dark.opId.seq + 3 := by decide

end Sys2Proof.Tests

namespace Sys2Proof.Tests
open Sys2Proof Sys2Proof.Machine Sys2Proof.Claims

/-! ### Witnesses: memory -/

def accOk : Acc → Bool
  | .ok .. => true | _ => false
def accTrap : Acc → Option Nat
  | .trap i => some i.code | _ => none
def gotLen : Got → Option Nat
  | .bytes b _ => some b.length | _ => none

/-- Where nothing is poisoned, what is owned may be read. -/
theorem readable_of {s : State} {ea n : Nat} (h : s.core.poison = []) (o : Owned s ea n) : Readable s ea n :=
  ⟨o, fun i _ => by rw [h]; rfl⟩

theorem readable_sA : Readable sA 0x3FFF00 256 ∧ Readable sA 0 1 ∧ Readable sA 0xFFFC 8 :=
  ⟨readable_of rfl (by unfold Owned; decide), readable_of rfl (by unfold Owned; decide), readable_of rfl (by unfold Owned; decide)⟩
theorem writable_sA : Writable sA 0x3FFF00 256 ∧ Writable sA 0 4 ∧ Writable sA 0xFFFC 8 := by unfold Writable Owned; decide

/-- Bounds from 0x100: an access that starts below, one that ends above, a misaligned and an aligned one; a bank of the other slot, a
tile in use and a poisoned byte. -/
theorem witness_ScratchpadChecksInOrder :
    let s : State := { sA with ctx := { ctxA with spLo := 0x100 } }
    let off : State := { s with core := { coreA with owner := Vector.replicate 64 (some true) } }
    let bad : State := { s with core := { coreA with poison := [0x100] } }
    let tile : State := { s with ctx := { s.ctx with tiles := s.ctx.tiles.set 1 { TileEntry.none with st := .ready, prot := some (0x100, 0x103) } } }
    let o := fun (ea : Word) => (⟨.sp, 0, 0, ea⟩ : Opd)
    (o 0).space = .sp ∧ 0 < 4 ∧ (o 0xFF).ea.toNat < s.ctx.spLo.toNat ∧ s.ctx.spHi.toNat < (o 0x3FFFFD).ea.toNat + 4 - 1 ∧
    Readable s 0x101 4 ∧ (o 0x101).ea.toNat % 4 ≠ 0 ∧ Readable s 0x100 4 ∧ (o 0x100).ea.toNat % 4 = 0 ∧ Need.read.writes = false ∧
    Writable s 0x100 4 ∧ Need.write.reads = false ∧ Need.read.reads = true ∧ tile.overwrites 0x100 4 = true ∧ ¬ Owned off 0x100 4 ∧
    off.overwrites 0x100 4 = false ∧ Owned bad 0x100 4 ∧ bad.overwrites 0x100 4 = false ∧
    (∃ i < 4, NatSet.has bad.core.poison (0x100 + i) = true) := by
  unfold Writable Readable Owned; decide

theorem witness_ScalarLoadsComplete :
    sA.holds q0 = true ∧ mS.space = .sp ∧ Readable sA (sA.readS mS.base + BitVec.ofInt 64 mS.off.toInt).toNat 8 ∧ RacesOff sA ∧
    gotLen (sA.got (sA.opd ⟨0, 8, 0, 1, .virt⟩) 8 1 0 (some 0)) = some 8 ∧
    accTrap (sA.check (sA.opd ⟨0, 8, 0, 3, .virt⟩) 8 .read [.r] 1 0) = some 0x12 := by
  unfold Readable Owned RacesOff; decide

theorem witness_VectorLoadsComplete :
    let s := setS sA 1 4
    s.holds q0 = true ∧ RacesOff s ∧ Unbroken s ∧ mS.space = .sp ∧ nS.space = .sp ∧ (∀ i ∈ lanes s, Readable s (0 + 4 * i) 4) ∧ 63 ∈ lanes s ∧
    (∀ i ∈ lanes s, Readable s (s.readS nS.base + BitVec.ofNat 64 i * s.readS 1).toNat 4) ∧
    (∀ i ∈ lanes s, Readable s (s.readS nS.base + BitVec.ofInt 64 (sval 32 (el s 32 2 i))).toNat 4) ∧
    (∀ i ∈ lanes s, min 4 (el s 32 3 i % 2 ^ 16) ≠ 0 → Readable s (s.readS nS.base + BitVec.ofNat 64 (el s 32 2 i)).toNat 4) := by
  unfold Readable Owned RacesOff Unbroken; decide +kernel

/-- Elements from a plain object: the bytes of a contiguous load, and a strided one whose elements all come. -/
theorem witness_VectorLoadsComplete_elsewhere :
    let s := withRegs sA { regsA with mstk := regsA.mstk.set 0 1 }
    lanes s = [0] ∧ mV.space ≠ .win ∧
    (match s.checkLanes (s.opd ⟨0, 0, 0, 1, .virt⟩) .read [.r] (lanes s) with
      | .ok ps xs => gotLen (s.gotAt (some 0) (ps.flatMap (·.2)) xs (fun j => unitNo (j / 4) 0 4 (j % 4))) == some 4 | _ => false) = true ∧
    (s.loadElems (s.opd2 ⟨0, 0, 1, .virt⟩) 0 ((lanes s).map fun l => (l, 0, List.replicate 4 0)) []).2.isSome = true := by decide +kernel

theorem witness_StoresAreWithheld :
    let s := setS sA 1 4
    s.holds q0 = true ∧ RacesOff s ∧ Unbroken s ∧ mS.space = .sp ∧ nS.space = .sp ∧
    Writable s (s.readS mS.base + BitVec.ofInt 64 mS.off.toInt).toNat 8 ∧ (∀ i ∈ lanes s, Writable s (0 + 4 * i) 4) ∧
    (∀ i ∈ lanes s, Writable s (s.readS nS.base + BitVec.ofNat 64 i * s.readS 1).toNat 4) ∧
    (∀ i ∈ lanes s, Writable s (s.readS nS.base + BitVec.ofInt 64 (sval 32 (el s 32 2 i))).toNat 4) := by
  unfold Writable Owned RacesOff Unbroken; decide +kernel

/-- The witness's state with other withheld entries, of another number, other translations, and other host pages granted. -/
def sB (b : List Entry) (n : Nat) (l : List TlbEntry) (h : NatSet) : State :=
  { sA with ctx := { ctxA with buffer := b, entries := n }, core := { coreA with tlb := l }, pkg := { pkgA with atsOk := h } }

/-- A store that may be made names its bytes, whatever has been withheld before: the premise of the element stores. -/
theorem witness_StoresAreWithheld_elements (u : State) (h : SameButBuffer sA u) (i : Nat) :
    ∃ xs, u.check ⟨.sp, 0, 0, 0⟩ 4 .write [.w] 1 i (guard := true) = .ok ((natRange 0 4).map .sram) xs := by
  have e : u = sB u.ctx.buffer u.ctx.entries u.core.tlb u.pkg.atsOk := h.1
  generalize u.ctx.buffer = b at e
  generalize u.ctx.entries = n at e
  generalize u.core.tlb = l at e
  generalize u.pkg.atsOk = a at e
  have h1 : (sB b n l a).spBound 0 4 = true := (rfl : _ = sA.spBound 0 4).trans (by decide)
  have h2 : (sB b n l a).spOwned 0 4 = true := (rfl : _ = sA.spOwned 0 4).trans (by decide)
  have h3 : (sB b n l a).overwrites 0 4 = false := (rfl : _ = sA.overwrites 0 4).trans (by decide)
  refine ⟨[], ?_⟩
  rw [e]
  unfold State.check
  generalize sB b n l a = s at h1 h2 h3 ⊢
  simp [h1, h2, h3, State.poisoned, Need.reads]

/-- An earlier store of the context to bytes 8 and 9, still on its way. -/
def writeA : RemoteWrite where
  pid := 0
  crew := 0
  pkg := sA.pkg.num
  core := 0
  slot := false
  window := 0
  cls := 0
  scope := 0
  target := 0
  addr := 8
  limit := 10
  kind := .store
  data := [some 1, some 2]
  posted := false
  cipher := none
  home := some (.sram 8)

def entryA (act : EntryAct) (cells : List (Place × Option Byte)) : Entry := ⟨⟨0, .l, 0, []⟩, act, cells, 0, 0, 0, 9⟩
def kept (a n : Nat) : List (Place × Option Byte) := (List.range n).map fun i => (.sram (a + i), none)

/-- Nothing is under way, so a release waits for nothing. -/
theorem free_sA (e : Entry) (h : e.scope = 0) : Free sA e := by
  cases e; cases h; exact ⟨rfl, rfl, rfl, rfl⟩

/-- A store with nothing before it, and one behind an earlier write of the context that is still on its way. -/
theorem witness_WithheldStoreForwardsThenPerforms :
    let b : State := { sA with pkg := { pkgA with wire := [writeA] } }
    0 < ([1, 2] : List Byte).length ∧ sA.core.ram.wf = true ∧ (∀ x ∈ sA.ownWrites, x.ser < 9) ∧ (∀ x ∈ b.ownWrites, x.ser < 9) ∧
    sA.mustWait (sA.ctx.waitsOf 0 9) 9 (sA.entryRuns (cellsAt 0 [1, 2])) = false ∧
    b.mustWait (b.ctx.waitsOf 0 9) 9 (b.entryRuns (cellsAt 0 [1, 2])) = true := by decide

theorem witness_FullEmptyOperationsComplete :
    let m : Mem := ⟨0, 4, 0, 0, .sp⟩
    let e : Mem := ⟨0, 16, 0, 0, .sp⟩
    sA.holds q0 = true ∧ m.space = .sp ∧ e.space = .sp ∧ Readable sA (sA.opd m).ea.toNat 4 ∧ (sA.opd m).ea.toNat % 4 = 0 ∧
    (∀ p ∈ (List.range 1).map fun i => Place.sram (4 + 4 * i), sA.wordFull p = true) ∧ Readable sA (sA.opd e).ea.toNat 8 ∧
    (∃ p ∈ (List.range 2).map fun i => Place.sram (16 + 4 * i), sA.wordFull p = false) ∧ (sA.opd e).ea.toNat % 8 = 0 ∧
    Writable sA (sA.opd e).ea.toNat 8 ∧ Writable sA 0 256 ∧ Owned sA 0 256 ∧ 0 % 256 = 0 ∧ feSize 4 = true := by
  unfold Writable Readable Owned; decide

/-- The checks that the writes pass, and the entries that leave the buffer: word 1 is full, word 4 is empty. -/
theorem witness_FullEmptyOperationsComplete_entries :
    (∃ ps xs, sA.check (sA.opd ⟨0, 4, 0, 0, .sp⟩) 4 .read [] 4 0 (guard := false) = .ok ps xs ∧ ps.length = 4) ∧
    (∃ ps xs, sA.check (sA.opd ⟨0, 4, 0, 0, .sp⟩) 4 .write [.w] 4 0 (guard := true) = .ok ps xs) ∧
    accOk (sA.check (sA.opd ⟨0, 0, 0, 0, .sp⟩) 256 .write [] 256 0 (guard := false)) = true ∧
    (∀ act ∈ [EntryAct.stf, .ste, .fset, .fclr, .take 1 false], Free sA (entryA act (kept 16 4))) ∧ sA.core.ram.wf = true ∧ sA.ownWrites = [] ∧
    sA.core.allEmpty 16 4 = true ∧ sA.core.allEmpty 4 4 = false ∧ sA.core.allFull 4 4 = true ∧ sA.core.allFull 16 4 = false ∧
    sA.core.recvq.length < 256 := by
  refine ⟨⟨_, _, rfl, rfl⟩, ⟨_, _, rfl⟩, by decide +kernel, fun _ _ => free_sA _ rfl, ?_⟩
  decide +kernel

/-- Queue register 3 names the 4 slots of 4 blocks at 0; FILLED is `filled`. -/
def queueA (filled : Byte) : State :=
  let x : BitVec 128 := BitVec.ofNat 128 (2 ^ 63 + 3 * 2 ^ 64 + 4 * 2 ^ 74)
  { sA with ctx := { ctxA with regs := { regsA with q := regsA.q.set 3 x, s := regsA.s.set 1 0x8000000000000000 } },
            core := { coreA with ram := if filled = 0 then [] else [(0, filled)] } }

theorem witness_QueueOperationsComplete :
    let e := queueA 0
    let f := queueA 4
    let x := e.readQ 3
    let slot := fun (k : Nat) => qBaseOf x + 64 + 64 * qSizeOf x * (k % qCountOf x)
    e.holds q0 = true ∧ RacesOff e ∧ f.holds q0 = true ∧ RacesOff f ∧ x = f.readQ 3 ∧ x.getLsbD 63 = true ∧ qBaseOf x = 0 ∧ qCountOf x = 4 ∧ qSizeOf x = 4 ∧
    Readable e 0 8 ∧ Readable f 0 8 ∧ 0 % 64 = 0 ∧ loaded e 0 4 = 0 ∧ loaded f 0 4 = 4 ∧ loaded f 4 4 = 0 ∧
    ((e.readS 1).getLsbD 63 = true ∧ 0 = (e.readS 1).toNat % 2 ^ 63 ∧ e.spBound 0 (64 + 64 * 4 * 4) = true ∧
      (loaded e 0 4 + 2 ^ 32 - loaded e (0 + 4) 4) % 2 ^ 32 ≤ 4) ∧
    ((4 : BitVec 8).toNat ≤ qCountOf x ∧ slot (0 + 3) + 256 < 2 ^ 63 ∧ (∀ i ∈ lanes f, Readable f (slot (0 + 3) + 4 * i) 4)) ∧
    (0 + (4 : BitVec 8).toNat ≤ qCountOf x ∧ (∀ i ∈ lanes e, Writable e (slot (0 + 3) + 4 * i) 4)) ∧
    (e.slotsHeld x 0 = false ∧ e.slotsBusy x 0 = false ∧ 0 + (3 : BitVec 10).toNat + 1 ≤ qCountOf x) ∧
    (3 : BitVec 10).toNat + 1 ≤ 4 := by
  unfold Writable Readable Owned RacesOff; decide +kernel

theorem witness_AtomicsAreWithheld :
    sA.holds q0 = true ∧ accOk (sA.checkAtom (sA.opd ⟨0, 8, 0, 1, .virt⟩) 8 4 false 0) = true ∧ nV.space = .virt ∧
    (∀ i ∈ lanes sA, accOk (sA.checkAtom { sA.opd2 ⟨0, 0, 1, .virt⟩ with ea := sA.indexAddr 0 2 i } 4 4 false i) = true) := by
  decide +kernel

/-- An atomic on a pool word names the same places whatever has been withheld. -/
theorem checkAtom_sB (b : List Entry) (n : Nat) (l : List TlbEntry) (a : NatSet) (i : Nat) :
    (sB b n l a).checkAtom ⟨.virt, 1, capTo 5, 0⟩ 4 4 false i = .ok ((natRange 0 4).map (.home 5)) [] := by
  have h1 : (sB b n l a).objectFault (capTo 5) 0 true = none := rfl
  have h2 : capFault (capTo 5) 0 4 [.a] = none := rfl
  have h3 : ((natRange 0 4).map ((sB b n l a).capPlace (capTo 5))).findSome? ((sB b n l a).homeFault ⟨.virt, 1, capTo 5, 0⟩ (fun _ => true) 4 false) = none := rfl
  have h4 : (sB b n l a).pageAttr 5 0 = (0, false, false) := rfl
  have h6 : (natRange 0 4).map ((sB b n l a).capPlace (capTo 5)) = (natRange 0 4).map (.home 5) := rfl
  unfold State.checkAtom State.check
  generalize sB b n l a = s at h1 h3 h4 h6 ⊢
  simp only [show ¬ ((1 : BitVec 4) = 0) by decide, if_false, show BitVec.toNat (0 : Word) = 0 from rfl, h2,
    show capObject (capTo 5) = 5 from rfl, h3]
  have h5 : s.pageAttr (5#48) 0 = (0, false, false) := h4
  norm_num
  simp [h1, Need.writes, attrOk, wbits, bitsOf, h5, h6]

/-- The premise of `vscadd`'s clause: every element names word 0 of the object. -/
theorem witness_AtomicsAreWithheld_scatter :
    let o := sA.opd2 ⟨0, 0, 1, .virt⟩
    ∀ u : State, SameButBuffer sA u → ∀ i ∈ lanes sA, ∃ ys,
      u.checkAtom { o with ea := sA.indexAddr o.ea 2 i } 4 4 false i = .ok ((natRange 0 4).map (.home 5)) ys := by
  intro o u h i hi
  have e : ∀ i ∈ lanes sA, sA.indexAddr o.ea 2 i = 0 := by decide +kernel
  have g : u = sB u.ctx.buffer u.ctx.entries u.core.tlb u.pkg.atsOk := h.1
  rw [g, e i hi]
  exact ⟨[], checkAtom_sB _ _ _ _ i⟩

theorem witness_AtomicResultsAtTheHome :
    Free sA (entryA (.atom .add true false 5 (some 1)) ((List.range 8).map fun i => (.hbm (64 + i), none))) ∧ sA.pkg.hbm.wf = true ∧
    (2 : Nat) ^ 32 - 1 < 2 ^ 32 ∧ 0 < 2 ^ 64 := ⟨free_sA _ rfl, by decide⟩

theorem witness_CellOperationsComplete :
    let m : Mem2 := ⟨0, 0, 1, .virt⟩
    let o : Opd := { sA.opd2 m with ea := BitVec.ofNat 64 ((sA.opd2 m).ea.toNat / 64 * 64) }
    sA.holds q0 = true ∧ (setS sA 5 0x3000000000).readS 5 / 2 ^ 32 ≤ 48 ∧
    accOk (sA.check o 64 .both [.a] 1 0 (sA.cellFault o 4 false)) = true ∧ (sA.readS 5).toNat / 2 ^ 32 = 0 ∧
    accOk (sA.check o 64 .read [.r] 1 0 (sA.cellFault o 4 false)) = true ∧
    accOk (sA.check o 64 .write [.d] 1 0 (sA.cellFault o 4 false)) = true := by decide

theorem witness_CellOperationsComplete_release :
    Free sA (entryA (.dprop 0 [1] 8 5) ((List.range 64).map fun i => (.hbm (64 + i), none))) ∧
    Free sA (entryA (.drecycle 0) ((List.range 64).map fun i => (.hbm (64 + i), none))) ∧ sA.pkg.hbm.wf = true ∧ ([1] : List Byte).length ≤ 48 ∧
    sA.cellCopy (.hbm 64) 0 = none := by
  refine ⟨free_sA _ rfl, free_sA _ rfl, by decide, by decide, ?_⟩
  have h : sA.core.cells = [] ∧ sA.pkg.cells = [] := ⟨rfl, rfl⟩
  unfold State.cellCopy
  rw [h.1, h.2]
  simp

theorem witness_FencesAndCapabilityLoadsComplete :
    let plain : Mem := ⟨0, 0, 0, 1, .virt⟩
    let caps : Mem := ⟨0, 0, 0, 2, .virt⟩
    let sub : State := { sA with
      ctx := { ctxA with domain := 0x0000000020000002, arrived := some 0 }
      pkg := { pkgA with phases := [⟨2, unitOf 2 0, ctxA.domainKey, 1, 0, some 0⟩] } }
    let busy : State := { sA with core := { coreA with drains := [⟨false, ⟨0, .l, 0, []⟩, 0, true, false, [[(.sram 0, some 1)]], 0, 0⟩] } }
    sA.holds q0 = true ∧ accOk (sA.check (sA.opd plain) 1 .read [.r] 1 0) = true ∧
    accTrap (sA.check (sA.opd ⟨0, 0, 0, 4, .virt⟩) 1 .read [.r] 1 0) = some 0x12 ∧
    (1 : BitVec 2).getLsbD 1 = false ∧ (∀ pick, sA.scopeQuiet 4 pick = true ∧ sA.pkgQuiet pick = true) ∧
    (busy.pkgQuiet fun _ _ => true) = false ∧ busy.levelQuiet 0 = false ∧
    sA.capMissing (sA.opd caps) = false ∧ gotLen (sA.got (sA.opd caps) 16 16 0 (some 0)) = some 16 ∧
    accTrap (sA.check (sA.opd ⟨0, 8, 0, 2, .virt⟩) 16 .read [.r] 16 0) = some 0x11 ∧ sA.capMissing (sA.opd ⟨0, 8, 0, 2, .virt⟩) = false ∧
    sA.capMissing (sA.opd plain) = true ∧ sA.ctx.level = 0 ∧ sA.levelQuiet 0 = true ∧
    (sub.holds q0 = true ∧ sub.ctx.level ≠ 0 ∧ sub.levelQuiet sub.ctx.level = true ∧ sub.ctx.arrived = some sub.ctx.phase ∧
      sub.pkg.phaseFull sub.ctx.level (unitOf sub.ctx.level sub.coreNum) sub.ctx.domainKey sub.ctx.phase = true) := by
  intro plain caps sub busy
  refine ⟨by decide, by decide, by decide, by decide, fun _ => ⟨rfl, rfl⟩, by decide⟩

/-- A `dread` that finds its cell in RECYCLING. -/
theorem witness_MemorySlotFrame :
    let s : State := { sA with pool := { poolA with bytes := [(poolKey 5 0x31, 2)] } }
    RacesOff s ∧ s.ctx.giving = 0 ∧ (∀ q r, Instr.lDread q0 1 ⟨0, 0, 1, .virt⟩ 5 4 ≠ .lTrel q r) ∧
    (Instr.lDread q0 1 ⟨0, 0, 1, .virt⟩ 5 4).slotOf = some .l ∧ (∃ t, exec (.lDread q0 1 ⟨0, 0, 1, .virt⟩ 5 4) s = .next t) ∧
    s.pkg.hbm.wf = true ∧ s.pool.bytes.wf = true :=
  ⟨by unfold RacesOff; decide, rfl, fun _ _ h => (nomatch h), rfl, ⟨_, rfl⟩, by decide, by decide⟩

end Sys2Proof.Tests

namespace Sys2Proof.Tests
open Sys2Proof Sys2Proof.Machine Sys2Proof.Claims

/-! ### Witnesses: engines -/

/-- A shape word (Table 8.1): element type, role, outer extent − 1, depth − 1, KIN set, in scratchpad or not. -/
def shape (stride fmt role ext depth : Nat) (sph : Bool) : Word :=
  BitVec.ofNat 64 (stride * 2 ^ 32 + fmt * 2 ^ 28 + sph.toNat * 2 ^ 25 + 2 ^ 23 + role * 2 ^ 21 + ext * 2 ^ 14 + depth)

def tmem (base : SReg) (cap : BitVec 4) : TMem := ⟨base, 0, 0, cap⟩
def inTile (s : State) (r : TReg) (x : TileEntry) (d : BitVec 256) : State :=
  { s with ctx := { s.ctx with tiles := s.ctx.tiles.set r.toNat x r.isLt, regs := { s.ctx.regs with t := s.ctx.regs.t.set r.toNat d r.isLt } } }
def withC3 (s : State) (c : BitVec 128) : State := withRegs s { s.ctx.regs with c := s.ctx.regs.c.set 3 c }
def leftEq {α β : Type} (x : α ⊕ β) : Bool := x.isLeft

/-- `tld`: waits, a D tile, the largest scratchpad A tile, an A tile in a pool object of attribute 0. -/
theorem witness_TileOperationsComplete_tld :
    let full := inTile sA 1 { TileEntry.none with st := .ready } 0
    let dTile := setS sA 8 (shape 256 12 2 127 63 true)
    let aTile := setS sA 8 (shape 512 0 0 127 511 true)
    let mTile := withC3 (setS sA 8 (shape 64 0 0 3 63 false)) (capTo 7)
    sA.holds q0 = true ∧ (full.ctx.tile 1).st ≠ .empty ∧
    ((dTile.ctx.tile 1).st = .empty ∧ badShape 8 (dTile.readS 8) 0 = false ∧ shRole (dTile.readS 8) = 2) ∧
    (badShape 8 (aTile.readS 8) 0 = false ∧ shRole (aTile.readS 8) ≠ 2 ∧ shSph (aTile.readS 8) = true ∧
      tileProt 0 (aTile.readS 8) 0 0 = (0, 65535) ∧ Owned aTile 0 (65535 + 1 - 0) ∧ badType (aTile.readS 8) 0 0 = none) ∧
    (badShape 8 (mTile.readS 8) 3 = false ∧ shRole (mTile.readS 8) ≠ 2 ∧ shSph (mTile.readS 8) = false ∧
      (match mTile.tileAttr ⟨.virt, 3, mTile.readC 3, 0⟩ (mTile.readS 8) 0 with | .inl a => a == 0 | _ => false) = true ∧
      badType (mTile.readS 8) 0 0 = none ∧ mTile.ctx.pinned + descLines (mkDesc 0 (mTile.readS 8) 0 3 0 0) ≤ 3072) := by
  unfold Owned; decide +kernel

theorem witness_TileOperationsComplete_fill :
    let d := mkDesc 0 (shape 64 0 0 3 63 false) 0 3 0 0
    let good := inTile { sA with arg := { noEventData with tile := 1 } } 1 { TileEntry.none with st := .filling, filled := false, cap := capTo 5 } d
    let bad := inTile { sA with arg := { noEventData with tile := 1 } } 1 { TileEntry.none with st := .filling, filled := false, cap := 0 } d
    (good.ctx.exited = false ∧ good.ctx.giving = 0 ∧ good.arg.tile = 1 ∧ good.ctx.live = true ∧ (good.ctx.tile 1).st = .filling ∧ (good.ctx.tile 1).filled = false ∧
      (good.ctx.tile 1).retire = false ∧ (good.fillTile 1).isLeft = true) ∧
    (bad.arg.tile = 1 ∧ bad.ctx.live = true ∧ (bad.ctx.tile 1).st = .filling ∧ (bad.ctx.tile 1).filled = false ∧
      (match bad.fillTile 1 with | .inr (.fault i) => i.code == 0x12 | _ => false) = true) ∧
    (sA.ctx.tile 1).filled = true := by
  decide +kernel

/-- `tst`, a drain, `accrd` and `accwr`, and an accumulator that a queued call names. -/
def mrecA : MRecord := { sA.newRecord false (callWord 0xF0 0 0 0 0 0) (List.replicate 8 0) none none with seed := 1 }

theorem witness_TileOperationsComplete_tst :
    let w := shape 256 12 2 127 63 true
    let s := inTile sA 2 { TileEntry.none with st := .ready } (mkDesc 0 w 0 0 12 0)
    let dr : State := { sA with core := { coreA with drains := [⟨false, ⟨0, .l, 0, []⟩, 0, true, false, [], 0, 0⟩] } }
    let call : State := { sA with core := { coreA with engine := [mrecA] } }
    (s.holds q0 = true ∧ (s.ctx.tile 2).st = .ready ∧ shRole w = 2 ∧ shSph w = true ∧ s.accPending 0 = false ∧
      s.spOwned (accAddr 0 0 0) 0x8000 = true ∧ s.accDraining 0 = false ∧ badDrainTy 12 = false ∧ s.core.drains.length < 2) ∧
    (∀ i < shExt w + 1, Owned s (0x20000 + i * shStride w) ((shDepth w + 1) * 4)) ∧ s.core.poison = [] ∧
    (0x20000 : Word).toNat + (shExt w + 1) * shStride w < 2 ^ 64 ∧
    (match dr.core.drains with | d :: _ => d.slot == dr.slotNum && d.reading && d.rows.isEmpty | [] => false) = true ∧
    s.core.ram.wf = true ∧ (127 : Nat) < 128 ∧ call.accPending 0 = true := by
  unfold Owned; decide +kernel

/-- Where nothing is poisoned no element of an accumulator is. -/
theorem accSound (c : CoreSt) (h : c.poison = []) (k i j : Nat) : c.accSpoilt k i j = false := by
  unfold CoreSt.accSpoilt; rw [h]; rfl

/-- Plain addresses below 1 GiB are host memory: the tables of a two-stage translation, and a routine of one `wait` at 0x50000. -/
def hostA : Memory :=
  [(0, 1), (2, 3), (0x10000, 1), (0x10002, 2), (0x10006, 8), (0x20000, 15), (0x20006, 8), (0x30000, 1), (0x30002, 4), (0x40000, 15),
   (0x50000, 0x0D), (0x50007, 0x48)]
def sH : State := { sA with
  host := hostA
  pkg := { pkgA with parts := pkgA.parts.set 0 (some { partA with asidTab := 0x8000000000000, s2Root := 0x8000000010000 }), atsOk := [2 ^ 52 + 2 ^ 35 + 5] } }

theorem witness_MatrixSlotOperations :
    let a := inTile sA 1 { TileEntry.none with st := .ready } (mkDesc 0 (shape 64 0 0 0 3 true) 0 0 0 0)
    let ab := withRegs a { a.ctx.regs with mp := a.ctx.regs.mp.set 0 0x8001 }
    let full : State := { sA with core := { coreA with engine := List.replicate 8 mrecA } }
    (sA.holds q0 = true ∧ sA.queued < 8 ∧ sA.accOwned 62 0 = true ∧ ∀ e ∈ sA.ctx.resume, e.serial ≠ sA.ctx.serial) ∧
    (0x8001 / 32 % 4 = 0 ∧ 0x8001 / 8192 % 4 = 0 ∧ ab.readMp 0 = 0x8001 ∧ (ab.ctx.tile 1).st = .ready ∧ shRole (dShape (ab.readT 1)) = 0) ∧
    8 ≤ full.queued := by
  decide +kernel

theorem witness_MatrixSlotOperations_mprog :
    let s := setS (setS sH 1 0x50000) 2 (63 + 2 ^ 16)
    let sb := (s.readS 2).toNat
    s.holds q0 = true ∧ s.records = [] ∧ sb / 2 ^ 10 % 2 ^ 6 = 0 ∧ sb / 2 ^ 27 % 2 ^ 28 = 0 ∧ sb / 2 ^ 16 % 2 ^ 11 = 1 ∧
    sb % 2 ^ 10 + 1 ≤ s.ctx.micro.region ∧
    (match s.got ⟨.virt, 0, 0, s.readS 1⟩ 8 1 0 (some 0) with
      | .bytes b _ => microWords 1 b == [0x480000000000000D] && !(s.ctx.micro.load 63 (microWords 1 b) none).badLoad 63 1
      | _ => false) = true := by
  decide +kernel

theorem witness_MatrixSlotOperations_sbuild :
    let s : State := { setS (setS sA 2 0x100) 3 1 with core := { coreA with ram := [(2, 0x80), (3, 0x3F), (6, 0x80), (7, 0x3F)] } }
    s.holds q0 = true ∧ 0 < (s.readS 3).toNat ∧ (s.readS 3).toNat ≤ 65536 ∧ Readable s 0 8 ∧ Writable s 0x100 12 ∧ s.core.ram.wf = true ∧
    s.sbuildWaits 0 0x100 1 = false ∧ (aliasTable [0x3F800000] [0x3F800000]).1.length = 1 ∧ (aliasTable [0x3F800000] [0x3F800000]).2.1.length = 1 ∧
    (∀ r ∈ s.records, r.sample = true → r.zero = true) := by
  unfold Writable Readable Owned; decide +kernel

def copyTag (st : TagSt) : CopyTag := ⟨st, 0, [(0, 0x1000)], none, none, .copy, ⟨.sp, 0, 0, 0⟩, ⟨.sp, 0, 0, 0x1000⟩, 0x1000, 0, ⟨0, .x, 0, []⟩, 0, false, none⟩
def withTag (s : State) (st : TagSt) : State := { s with ctx := { s.ctx with tags := [(5, copyTag st)] } }

/-- s1 the length, s2 the source address. -/
theorem witness_CopyOperationsComplete :
    let s := setS (setS sA 1 0x10000) 2 0x20000
    let dst := s.xopd ⟨0, 0, .sp⟩
    let src := s.xopd ⟨2, 0, .sp⟩
    let held := s.xopd ⟨0, 1, .virt⟩
    let other : State := { s with core := { coreA with owner := Vector.replicate 64 (some true) } }
    let sent : State := { withTag sA .running with pkg := { pkgA with wire := [{ writeA with copy := some (5, 0) }] } }
    let free := fun (u : State) => (match u.ctx.tag 5 with | some t => tagBusy t | none => false) = false
    s.holds q0 = true ∧ (withTag sA .running).ctx.tag 5 = some (copyTag .running) ∧ tagBusy (copyTag .running) = true ∧ free s ∧ free (withTag sA .done) ∧
    2 ^ 40 ≤ ((setS sA 1 0x10000000000).readS 1).toNat ∧ (sA.readS 1).toNat % 2 ^ 40 = 0 ∧
    (s.readS 1).toNat < 2 ^ 40 ∧ s.rangeTrap dst 0x10000 [(src, 0x10000)] = none ∧ s.spOwned dst.ea.toNat 0x10000 = true ∧
    s.spOwned src.ea.toNat 0x10000 = true ∧ s.heldDst dst 0x10000 = false ∧ s.rangeTrap held 0x10000 [(src, 0x10000)] = none ∧
    s.heldDst held 0x10000 = true ∧ (s.rangeTrap (s.xopd ⟨2, 0, .sp⟩) 0x3F0000 [(src, 0x3F0000)]).isSome = true ∧
    other.rangeTrap (other.xopd ⟨0, 0, .sp⟩) 0x10000 [] = none ∧ other.spOwned 0 0x10000 = false ∧ (withTag sA .running).copyOut 5 (copyTag .running) = false ∧
    sent.ctx.tag 5 = some (copyTag .running) ∧ sent.copyOut 5 (copyTag .running) = true ∧
    (∀ x ∈ (dst, 0x10000) :: s.gatherReads 0 0 src 0x10000, x.1.space = .sp → s.spOwned x.1.ea.toNat x.2 = true) ∧ 0x10000 % 65536 = 0 ∧ 0x10000 % 256 = 0 ∧
    0x10000 % 2 ^ (3 : BitVec 2).toNat = 0 ∧ sA.ctx.tag 5 = none ∧ (copyTag .held).st = .held ∧ sA.ctx.giving = 0 := by
  decide +kernel

theorem witness_CopyOperationsComplete_run :
    let s := withTag { sA with arg := { noEventData with tag := 5, last := true } } .running
    let t := copyTag .running
    s.ctx.exited = false ∧ s.ctx.giving = 0 ∧ s.arg.tag = 5 ∧ s.arg.copyEnd = .done [] ∧ s.arg.last = true ∧ s.ctx.tag 5 = some t ∧ t.st = .running ∧
    t.kind = .copy ∧ t.done = 0 ∧ t.left = [(0, t.len)] ∧ t.snap = none ∧ t.dst.space = .sp ∧ t.src.space = .sp ∧ 0 < t.len ∧
    s.copyWaits t = false ∧ s.copyOut 5 t = false ∧ s.core.ram.wf = true ∧ 0 + t.len ≤ 0x1000 ∧ Owned s 0 t.len ∧ Owned s 0x1000 t.len ∧
    s.core.poison = [] := by
  unfold Owned; decide +kernel

/-- A run on a record of the context's own, at word 3. -/
def runA : MicroRun := { MicroRun.start mrecA (some 3) with w := (Vector.replicate 16 0).set 1 5 }
def sRun (m : MicroRun) : State := { sA with core := { coreA with run := some m } }
theorem running_iff (m : MicroRun) (h : m.atEnd = false ∧ m.fault = none ∧ m.skip = 0 ∧ m.mrec.home = 0 ∧ m.mrec.slot = false) :
    Running (sRun m) m := ⟨rfl, h.1, h.2.1, h.2.2.1, h.2.2.2.1, h.2.2.2.2, rfl⟩

/-- A scratchpad tile of one bf16 element group for A and B at 0 and at 0x100. -/
def tileRec (fmt : Nat) : MRecord := { mrecA with
  tileA := some 1
  tileB := some 2
  descA := mkDesc 0 (shape 64 fmt 0 0 3 true) 0 0 fmt 0
  descB := mkDesc 0x100 (shape 64 fmt 1 0 3 true) 0 0 fmt 0 }
def runT (fmt : Nat) : MicroRun := { MicroRun.start (tileRec fmt) (some 3) with winA := some (0, 4), winB := some (0, 4) }

theorem witness_MicroControlWords :
    let looped := { runA with loops := [(1, 3, 2)] }
    let last := { runA with loops := [(1, 3, 1), (0, 9, 2)] }
    let deep := { runA with loops := List.replicate 4 (0, 9, 2) }
    let back := { runA with loops := [(1, 5, 2)] }
    let wide := { runA with w := (Vector.replicate 16 0).set 1 129 }
    let zs := { runT 11 with mrec := { tileRec 11 with word0 := (tileRec 11).word0 ||| 2 }, winB := none }
    Running (sRun runA) runA ∧ Straight (sRun runA) runA ∧ Running (sRun looped) looped ∧ Running (sRun last) last ∧ Running (sRun deep) deep ∧
    Running (sRun zs) zs ∧ Running (sRun back) back ∧ (runA.get 2).toNat + ((sRun runA).extents runA.mrec).1 ≤ 128 ∧
    (runA.get 2).toNat + ((sRun runA).extents runA.mrec).2 ≤ 64 ∧ ¬ (wide.get 1).toNat + ((sRun wide).extents wide.mrec).1 ≤ 128 ∧
    back.loops = (1, back.mpc + 2, 2) :: [] ∧ (∀ l ∈ runA.loops, l.2.1 ≠ runA.mpc + 2) ∧
    (runA.get 1 = 5 ∧ runA.get 1 ≠ runA.get 2 ∧ 0 ≤ (runA.mpc : Int) + (60 : BitVec 16).toInt ∧
      (runA.mpc : Int) + (60 : BitVec 16).toInt < (sRun runA).ctx.micro.region ∧ (runA.mpc : Int) + (-4 : BitVec 16).toInt < 0 ∧
      ((sRun runA).ctx.micro.region : Int) ≤ (runA.mpc : Int) + (61 : BitVec 16).toInt) ∧
    (0 < (runA.get 1 + BitVec.ofNat 32 0).toNat ∧ (runA.get 2 + BitVec.ofNat 32 0).toNat = 0 ∧ runA.mpc + 1 + 1 < (sRun runA).ctx.micro.region ∧
      runA.loops.length < 4 ∧ 4 ≤ deep.loops.length) ∧
    (runA.get 2 + BitVec.ofNat 32 (0 : BitVec 6).toNat).toNat < runA.mrec.count ∧ runA.mrec.zskip = false ∧
    (looped.loops = (1, looped.mpc, 2) :: [] ∧ last.loops = (1, last.mpc, 1) :: [(0, 9, 2)] ∧ (∀ e ∈ [((0 : Nat), (9 : Nat), (2 : Nat))], e.2.1 ≠ last.mpc)) ∧
    zs.mrec.zskip = true ∧ zs.winA = some (0, 4) ∧ zs.winB = none := by
  refine ⟨running_iff _ (by decide), by unfold Straight; decide, running_iff _ (by decide), running_iff _ (by decide), running_iff _ (by decide),
    running_iff _ (by decide), running_iff _ (by decide), by decide⟩

/-- The tile that `skipz` looks at is all zero. -/
theorem witness_MicroControlWords_skipz :
    ∃ v, (sRun (runT 11)).tileView (tileRec 11) false = some v ∧ Sound v (natRange 0 v.outer) 0 4 ∧ ∀ o < v.outer, ∀ j < 4, v.isZero o (0 + j) = true :=
  ⟨_, rfl, by unfold Sound; decide +kernel⟩

theorem witness_MicroArrayWords :
    Running (sRun (runT 11)) (runT 11) ∧ Straight (sRun (runT 11)) (runT 11) ∧ (runT 11).mrec.sample = false ∧
    (runT 11).acur = (runT 11).mrec.accOff ∧ (runT 11).acur < (runT 11).mrec.count ∧
    (∀ r c, (sRun (runT 11)).cellsSpoilt (runT 11) ((runT 11).cells r c) = false) ∧
    ((runT 11).get 0 + BitVec.ofNat 32 (0 : BitVec 6).toNat).toNat = (runT 11).mrec.accOff ∧
    (∃ a b, Windowed (sRun (runT 11)) (runT 11) a b 0 0 4 ∧ ∃ g, macGroup a.fmt b.fmt = some g) ∧
    (∃ a b, Windowed (sRun (runT 8)) (runT 8) a b 0 0 4 ∧ Running (sRun (runT 8)) (runT 8)) ∧
    (∃ v, (sRun (runT 11)).tileView (tileRec 11) false = some v ∧ 0 < v.depth - 0 ∧ 0 + (v.depth - 0) ≤ v.depth ∧ ¬ 0 + 512 ≤ v.depth) := by
  refine ⟨running_iff _ (by decide), by unfold Straight; decide, by decide, by decide, by decide, fun _ _ => rfl, by decide, ⟨_, _, ⟨rfl, rfl, rfl, rfl, ?_, ?_⟩, _, rfl⟩,
    ⟨_, _, ⟨rfl, rfl, rfl, rfl, ?_, ?_⟩, running_iff _ (by decide)⟩, ⟨_, rfl, ?_, ?_, ?_⟩⟩ <;> decide

/-- Integer operands for `macq`, a block that `fold` pairs at its distance, and a window for `norm`. -/
theorem witness_MicroArrayWords_integer :
    let blk : FoldBlock := ⟨0, 14, [(0, 7, 0x3C00, 0x3C00)]⟩
    let m := { runT 0 with blocks := [blk], cycle := 14 }
    (∃ a b, Windowed (sRun (runT 0)) (runT 0) a b 0 0 4 ∧ intOperand a.fmt = true ∧ intOperand b.fmt = true ∧ oneGroup a 0 4 = true ∧
      oneGroup b 0 4 = true ∧ a.badIn (((runT 0).cells a.outer b.outer).map fun c => c.1 - (runT 0).rowOff) [0] = false ∧
      b.badIn (((runT 0).cells a.outer b.outer).map fun c => c.2 - (runT 0).colOff) [0] = false) ∧
    (∃ v, (sRun m).tileView m.mrec false = some v ∧ Sound v (natRange 0 v.outer) 0 4) ∧
    Running (sRun m) m ∧ Straight (sRun m) m ∧ m.blocks[m.paired]? = some blk ∧ m.cycle = blk.cycle + blk.lag ∧ (blk.sums.map (·.1)).Nodup ∧
    m.mrec.sample = false ∧ m.acur = m.mrec.accOff ∧ (sRun m).cellsSpoilt m (m.cells ((sRun m).extents m.mrec).1 ((sRun m).extents m.mrec).2) = false ∧
    (sRun m).recSpoilt 0 16 = false ∧
    m.mrec.accOff = 0 ∧ m.mrec.microTile = 0 ∧ m.winA = some (0, 4) ∧ (sRun m).spBound 0 (4 * 4) = true ∧ (sRun m).overwrites 0 (4 * 4) = false := by
  refine ⟨⟨_, _, ⟨rfl, rfl, rfl, rfl, ?_, ?_⟩, ?_, ?_, ?_, ?_, ?_, ?_⟩, ⟨_, rfl, by unfold Sound; decide⟩, running_iff _ (by decide),
    by unfold Straight; decide, rfl, rfl, ?_⟩ <;> decide

/-- A SAMPLE call on tiles of the pool, its block at each stage; the alias table at 0x1000, the probability vector at 0. -/
def sampRec : MRecord := { mrecA with
  word0 := callWord 0xF3 0 0 0 0 1
  tileA := some 1
  tileB := some 2
  descA := mkDesc 0 (shape 64 11 0 0 3 false) 0 1 11 0
  descB := mkDesc 0x100 (shape 64 11 1 0 3 false) 0 1 11 0
  snapA := { TileEntry.none with cap := capTo 5 }
  snapB := { TileEntry.none with cap := capTo 5 } }
def sampA (st : BlockStage) (n : Nat) : SampRun :=
  ⟨8, 1, 16, n, st, false, false, List.replicate 8 0, List.replicate 8 [0], List.replicate 8 [0], [], 1, [], none, 0, 1, []⟩
def runS (p : SampRun) : MicroRun := { MicroRun.start sampRec (some 3) with samp := some p, w := ((Vector.replicate 16 0).set 1 0x1000).set 2 1 }
def sSamp (p : SampRun) : State := { sRun (runS p) with
  core := { coreA with ram := [(2, 0x80), (3, 0x3F), (0x1002, 0x80), (0x1003, 0x3F)], run := some (runS p) }
  pool := { poolA with objs := [(5, ⟨16, 11, 0, false, false, true, false⟩)] } }

theorem witness_SamplingWords :
    let none_ := sampA .none 0
    let drawn := sampA .drawn 8
    let got := sampA .gathered 8
    (Running (sRun (runA)) runA ∧ runA.mrec.sample = false) ∧
    (Running (sSamp none_) (runS none_) ∧ Straight (sSamp none_) (runS none_) ∧ (runS none_).mrec.sample = true ∧ (runS none_).samp = some none_ ∧
      none_.blockOpen = false ∧ 0 < min ((7 : BitVec 7).toNat + 1) (min none_.q (none_.smax - none_.n)) ∧
      0 < ((runS none_).get 2).toNat ∧ ((runS none_).get 2).toNat ≤ 65536 ∧ (sSamp none_).spBound 0x1000 (8 * 1) = true ∧
      ((sSamp none_).drawMany sampRec 0x1000 1 (natRange 0 8)).isLeft = true) ∧
    (drawn.stage = .drawn ∧ (sSamp drawn).spBound 0 (4 * drawn.cats) = true ∧ (∀ c ∈ drawn.ks, (sSamp drawn).recSpoilt (0 + 4 * c) 4 = false) ∧ ((sSamp drawn).extents sampRec) = (1, 1) ∧
      ((sSamp drawn).slabs sampRec 1 1 (drawn.ks.map fun c => (c, fp32.divBits 0 0x3F800000 (leNat ((sSamp drawn).recBytes sampRec (0 + 4 * c) 4))))).isLeft
        = true) ∧
    (got.stage = .gathered ∧ got.mac = false ∧ got.probe = false ∧ (runS got).rowOff + 1 ≤ 128 ∧ (runS got).colOff + 1 ≤ 64 ∧
      (sSamp got).spBound 0x2000 4 = true ∧ (sSamp got).recSpoilt 0x2000 4 = false ∧ leNat ((sSamp got).recBytes sampRec 0x2000 4) = 0) := by
  refine ⟨⟨running_iff _ (by decide), by decide⟩, ⟨⟨rfl, by decide⟩, by unfold Straight; decide, by decide +kernel⟩, by decide +kernel, by decide +kernel⟩

/-- A SAMPLE call that has not drawn, with sound and with bad bounds; the alias tables of a zero sum and of weights that are not
finite (STATE 1 and 2). -/
theorem witness_SamplingWords_ends :
    let first := { runS (sampA .none 0) with samp := none }
    let sound := { first with mrec := { sampRec with mp := (List.replicate 8 0).set 2 (15 * 2 ^ 16 + 7 * 2 ^ 32) } }
    let table := fun (w : List Byte) => ({ sRun (runS (sampA .none 0)) with
      core := { coreA with ram := Memory.putBytes [] 0x1000 w, run := some (runS (sampA .none 0)) } } : State)
    first.mrec.sample = true ∧ first.samp = none ∧ badSampling first.mrec = true ∧ badSampling sound.mrec = false ∧
    (match (table [0, 0, 0, 0, 0, 0, 1]).drawMany sampRec 0x1000 1 (natRange 0 8) with | .inr .zero => true | _ => false) = true ∧
    (match (table [0, 0, 0, 0, 0, 0, 2]).drawMany sampRec 0x1000 1 (natRange 0 8) with | .inr .nonfinite => true | _ => false) = true := by
  decide +kernel

/-- The stopping rule: goes on, converges, and is at its most samples. -/
theorem witness_SamplingWords_stop :
    let on := { sampA .none 2 with probes := [(2, 0, 0x3F800000)] }
    let below := { sampA .none 2 with probes := [(2, 0x3F800000, 0)] }
    let done := { sampA .none 16 with probes := [(16, 0, 0x3F800000)] }
    on.blockOpen = false ∧ on.n < on.smax ∧ fpCond 3 (fp32.decode (relErr on)) (fp32.decode 0) = false ∧
    below.blockOpen = false ∧ below.smin ≤ below.n ∧ fpCond 3 (fp32.decode (relErr below)) (fp32.decode 0) = true ∧
    done.blockOpen = false ∧ done.smax ≤ done.n ∧ fpCond 3 (fp32.decode (relErr done)) (fp32.decode 0) = false := by
  decide +kernel

theorem witness_EngineEventsComplete :
    let waiting : State := { sA with core := { coreA with engine := [mrecA] } }
    let ended := { runA with atEnd := true, part := [(0, 0x3F800000)] }
    let last := { runA with atEnd := true, mrec := { mrecA with mtMask := 0x7FFFFFFF } }
    let past := { runA with atEnd := true, mrec := { mrecA with accOff := 1 } }
    let bad := { runA with fault := some { code := 0x25 } }
    (waiting.core.run = none ∧ waiting.core.engine = mrecA :: [] ∧ waiting.canStart mrecA = true ∧ mrecA.home = waiting.coreNum ∧
      mrecA.slot = waiting.slotNum ∧ waiting.ctx.exited = false ∧ waiting.ctx.giving = 0) ∧
    ((sRun ended).core.run = some ended ∧ ended.mrec.sample = false ∧ ended.fault = none ∧ ended.mrec.accOff < ended.mrec.count ∧ ended.norms = [] ∧
      (sRun ended).core.ram.wf = true ∧ (∀ c ∈ ended.part, c.1 < 128 * 64 ∧ c.2 < 2 ^ 32) ∧ (ended.part.map (·.1)).Nodup) ∧
    (last.mrec.mtMask ||| BitVec.ofNat 32 (2 ^ last.mrec.microTile) = BitVec.allOnes 32 ∧
      ended.mrec.mtMask ||| BitVec.ofNat 32 (2 ^ ended.mrec.microTile) ≠ BitVec.allOnes 32) ∧
    (past.mrec.zero = false ∧ past.fault = none ∧ past.mrec.count ≤ past.mrec.accOff ∧
      (sRun past).mp7Free past.mrec = true ∧ past.mrec.gen = (sRun past).ctx.batchSeq.toList.getD past.mrec.batch 0) ∧
    bad.fault = some { code := 0x25 } := by
  decide +kernel

/-- A record that waits behind another at core 1 may migrate to core 0, whose context donates two banks; and goes back. -/
theorem witness_EngineEventsComplete_migration :
    let r : MRecord := { mrecA with home := 1, word0 := callWord 0xF0 0 0 0 0 4, waited := true }
    let box : CoreBox := ⟨{ coreA with engine := [r] }, ctxA, .none⟩
    let s : State := { sA with ctx := { ctxA with partWord := 0x200 }, core := { coreA with consider := true }, cores := [(1, box)] }
    let m : MicroRun := MicroRun.start { r with migrated := true } (some 3)
    let back : State := { s with core := { coreA with run := some m, engine := [mrecA] } }
    let wait : State := { s with core := { coreA with engine := [m.mrec, mrecA] } }
    s.core.consider = true ∧ s.core.run = none ∧ s.core.engine = [] ∧ s.toMigrate = some r ∧ r.home ≠ s.coreNum ∧
    (∃ own ∈ back.core.engine, own.home = back.coreNum) ∧ m.mrec.home ≠ back.coreNum ∧ back.core.run = some m ∧ m.cycle = 0 ∧ m.fault = none ∧
    m.mrec.accOff < m.mrec.count ∧ wait.core.run = none ∧ wait.core.engine = m.mrec :: [mrecA] := by
  decide +kernel

theorem witness_EngineFrames :
    (Instr.mCommit q0 1).slotOf = some .m ∧ (∃ t, exec (.mCommit q0 1) sA = .next t) ∧ (Instr.xWait q0 1).slotOf = some .x ∧
    (∃ t, exec (.xWait q0 1) sA = .next t) ∧ sA.ctx.resume = [] ∧ sA.core.ram.wf = true ∧ (∃ t, exec .uMend (sRun runA) = .next t) :=
  ⟨rfl, ⟨_, rfl⟩, rfl, ⟨_, rfl⟩, rfl, rfl, ⟨_, rfl⟩⟩

end Sys2Proof.Tests

namespace Sys2Proof.Tests
open Sys2Proof Sys2Proof.Machine Sys2Proof.Claims

/-! ### Witnesses: the package -/

/-- The witness's state with an event's data. -/
def withArg (a : EventData) (s : State := sA) : State := { s with arg := a }

def bootA : BootInputs where
  fwHeader := []
  ecSig := []
  lmsSig := []
  fwSvn := 0
  stackCount := 8
  hbmRegions := 0x010008
  homeHash := 0
  proofDepth := 8
  preemptWait := 1048576
  arrLogSize := 256
  thresh := []
  parts := [partA]
  signers := []
  pkgNum := some 1
  lanes := []

/-- The limits of each clause: 119 and 120 °C, a cluster with a context and one without, each place of an error. -/
theorem witness_HousekeepingEventsComplete :
    (withArg {}).arg.boot = none ∧ (withArg { boot := some bootA }).arg.boot = some bootA ∧
    (withArg { off := 0x18 }).arg.off = 0x18 ∧ (withArg { off := 0x10 }).arg.off = 0x10 ∧ (withArg { off := 0x40, firmware := true }).arg.off = 0x40 ∧
    (119 : BitVec 8).toNat < 120 ∧ 120 ≤ (120 : BitVec 8).toNat ∧ (0 : Nat) < 8 ∧ sA.partAt 0 ≠ none ∧
    sA.clusterIdle 31 = true ∧ sA.clusterIdle 0 = false ∧ (31 : Nat) < 32 ∧ sA.ctx.live = true ∧ sA.ctx.trap = none ∧
    (∃ r : VReg, ErrLoc.vreg 63 = .vreg r) ∧ (withArg { loc := .vreg 63 }).arg.loc = .vreg 63 ∧ sA.ctx.shadow.getLsbD 63 = false ∧
    (let s : State := { sA with ctx := { ctxA with shadow := 1 } }; s.ctx.shadow.getLsbD 0 = true) ∧
    ErrLoc.microStore ∈ [ErrLoc.smallReg, .buffer, .dupOrShadow, .dictionary, .microStore] ∧ (withArg { loc := .hbm 64 }).arg.loc = .hbm 64 ∧
    (withArg { ok := true }).arg.ok = true ∧ (withArg {}).arg.ok = false ∧
    (pkgA.setReg 0 0x101).bootFailed = true ∧ wbits (sA.pkg.reg 0) 15 8 = 0 ∧ (withArg { loc := .commandProcessor }).arg.loc = .commandProcessor ∧
    (withArg { loc := .microStore }).arg.loc = .microStore := by
  refine ⟨rfl, rfl, rfl, rfl, rfl, by decide, by decide, by decide, by decide, by decide, by decide, by decide, rfl, rfl, ⟨63, rfl⟩, rfl,
    rfl, rfl, by decide, rfl, rfl, rfl, by decide, by decide, rfl, rfl⟩

/-- A word of a bank without owner, sectors of HBM and of the pool cache, a seal entry; boot inputs whose tables lie in the package. -/
theorem witness_HousekeepingEventsComplete_errors :
    (withArg { loc := .scratch 9 } .reset).arg.loc = .scratch 9 ∧ State.reset.core.owner.toList.getD (9 / 2 ^ 16) none = none ∧
    dpaRegion (2 ^ 42) ≠ 0 ∧ dpaRegion (3 * 2 ^ 42) = 3 ∧ NoContexts .reset ∧ dpaRegion 64 = 0 ∧ (withArg { loc := .sealEntry 5 }).arg.loc = .sealEntry 5 ∧
    (∀ x ∈ bootA.parts, x.signTab.toNat.testBit 51 = false) ∧ sA.ctx.exited = false := by
  unfold NoContexts; decide +kernel

/-- A DATA flit without payload (Table 17.6): TYPE 1, its SEQ, and the CRC-32 of its first 252 bytes. -/
def flitA (seq crc : Nat) : BitVec 2048 := BitVec.ofNat 2048 (2 ^ 25 + seq + crc * 2 ^ 2016)

/-- Link 31 with these directions, other links fresh. -/
def withLink (a : EventData) (f : Link → Link) : State :=
  withArg { a with link := 31 } { sA with pkg := pkgA.setLink 31 (f .fresh) }

/-- The bytes of that flit with SEQ 0, and its CRC-32 in five parts. -/
theorem flitBytes_A : flitBytes (flitA 0 0xE9B56281) =
    [0, 0, 0, 2] ++ List.replicate 62 0 ++ List.replicate 62 0 ++ List.replicate 62 0 ++ List.replicate 62 0 ++ [0x81, 0x62, 0xB5, 0xE9] := by
  decide +kernel

theorem crcBytes_append (x : BitVec 32) (l m : List Byte) :
    Machine.crcBytes x (l ++ m) = Machine.crcBytes (Machine.crcBytes x l) m := by
  induction l generalizing x with
  | nil => rfl
  | cons b l h => exact h _

theorem flitOk_A : flitOk (flitA 0 0xE9B56281) = true := by
  have h0 : Machine.crcBytes 0xFFFFFFFF [0, 0, 0, 2] = 817185231#32 := by decide +kernel
  have h1 : Machine.crcBytes 817185231#32 (List.replicate 62 0) = 1122495650#32 := by decide +kernel
  have h2 : Machine.crcBytes 1122495650#32 (List.replicate 62 0) = 3859071297#32 := by decide +kernel
  have h3 : Machine.crcBytes 3859071297#32 (List.replicate 62 0) = 1515319306#32 := by decide +kernel
  have h4 : Machine.crcBytes 1515319306#32 (List.replicate 62 0) = 373988734#32 := by decide +kernel
  have ht : (flitBytes (flitA 0 0xE9B56281)).take 252 =
      [0, 0, 0, 2] ++ List.replicate 62 0 ++ List.replicate 62 0 ++ List.replicate 62 0 ++ List.replicate 62 0 := by
    rw [flitBytes_A]; decide +kernel
  have hc : crc32 ((flitBytes (flitA 0 0xE9B56281)).take 252) = 0xE9B56281 := by
    unfold crc32
    rw [ht, crcBytes_append, crcBytes_append, crcBytes_append, crcBytes_append, h0, h1, h2, h3, h4]
    decide
  have hd : leNat ((flitBytes (flitA 0 0xE9B56281)).drop 252) = 0xE9B56281 := by
    rw [flitBytes_A]; decide +kernel
  unfold flitOk
  simp only [hc, hd]
  decide +kernel

theorem witness_LinkEventsComplete_flit : (flitA 0 0xE9B56281).toNat / 2 ^ 25 % 8 = 1 ∧ (flitA 0 0xE9B56281).getLsbD 24 = false ∧
    BitVec.ofNat 12 (flitA 0 0xE9B56281).toNat = 0 := by decide +kernel

/-- Expected 0; then the duplicate 0 with 0x7FF expected (2047 behind), and a gap with 0x800 expected (2048 behind). -/
theorem witness_LinkEventsComplete_flits :
    (∀ n ∈ ([0, 0x7FF, 0x800] : List (BitVec 12)),
      let e := withLink {} fun l => { l with inw := { l.inw with expect := n } }
      e.arg.link = 31 ∧ e.pkg.linkLost 31 = false ∧ (e.pkg.link 31).inw.inService = true ∧ (e.pkg.link 31).inw.expect = n) ∧
    ((0x7FF : BitVec 12) - 0).toNat = 2047 ∧ 2047 < ((0x800 : BitVec 12) - 0).toNat := by decide +kernel

/-- A lane of a direction in a given state. -/
def laneIn (x : LaneSt) : Link → Link := fun l => { l with outw := l.outw.setLane 15 x }

theorem witness_LinkEventsComplete_lanes :
    let kept : List (BitVec 12 × List Byte) := [(0xFFE, []), (0xFFF, []), (0, []), (1, [])]
    let k := withLink { ack := 0xFFF } fun l => { l with outw := { l.outw with kept := kept } }
    let i := 31
    let o : EventData := { outbound := true, lane := 15 }
    let t := withLink { o with errors := 2049 } id
    let r := withLink o (laneIn (.retraining 2))
    let down := withLink { o with strand := true, trained := 0x80 } fun l => { l with outw := l.outw.setStrand 1 ⟨false, Vector.replicate 8 (.retraining 0)⟩ }
    let out : State := { down with ctx := .none, pkg := down.pkg.setLink 31 { Link.fresh with inw := ⟨0, [], [], none, 0, Vector.replicate 2 ⟨false, Vector.replicate 8 .out⟩, 0⟩ } }
    (k.pkg.linkLost i = false ∧ t.pkg.linkLost i = false ∧ r.pkg.linkLost i = false ∧ (k.pkg.link i).outw.inService = true ∧ (k.pkg.link i).outw.queue = [] ∧ (k.pkg.link i).outw.replay = none ∧
      (k.pkg.link i).outw.kept = [(0xFFE, [])] ++ (k.arg.ack, []) :: (k.arg.ack + 1, []) :: [(1, [])] ∧
      (∀ x ∈ [((0xFFE : BitVec 12), ([] : List Byte))], x.1 ≠ k.arg.ack) ∧ (k.pkg.link i).outw.kept = (0xFFE, []) :: [(0xFFF, []), (0, []), (1, [])]) ∧
    (t.thresh i < t.arg.errors ∧ ((t.pkg.link i).dir true).lane 15 = (true, .active) ∧
      ∀ n : BitVec 4, n.toNat / 8 = 1 → (((t.pkg.link i).dir true).lane n).2.retrains = false ∧ (((t.pkg.link i).dir true).lane n).2 ≠ .waiting) ∧
    (((r.pkg.link i).dir true).lane 15 = (true, .retraining 2) ∧ ∀ n : BitVec 4, (((r.pkg.link i).dir true).lane n).2 ≠ .waiting) ∧
    (down.pkg.linkLost i = false ∧ (((down.pkg.link i).dir true).lane (BitVec.ofNat 4 8)).1 = false ∧ down.arg.trained ≠ 0) ∧
    ((out.pkg.link i).lost = false ∧ NoContexts out ∧ out.pkg.sent = [] ∧ out.pkg.leases = [] ∧ (out.pkg.link i).inw.inService = false) ∧
    ((withLink {} fun l => { l with lost := true }).pkg.link i).lost = true := by
  unfold NoContexts; decide +kernel

end Sys2Proof.Tests

namespace Sys2Proof.Tests
open Sys2Proof Sys2Proof.Machine Sys2Proof.Claims

/-- A launch of partition 0 on core 0, slot 0, with this CONTROL word. -/
def launchA (id : Nat) (control : Nat := 0) : Launch where
  bytes := leBytes 8 (control + id * 2 ^ 32)
  part := 0
  asid := 0
  sched := false
  seq := 0
  st := .resident
  place := [(0, false)]
  done := []
  digest := []
  header := []
  blocks := []
  pinned := false
  serials := []
  cancelled := false
  preempt := false

/-- The context of launch 7 in focus, with its launch. -/
def ctxC : Context := { ctxA with info := { LaunchInfo.none with launchId := 7 }, image := imageL }
def withLaunch (l : Launch) (s : State) : State := { s with pkg := { s.pkg with launches := [l] } }
def sC : State := withLaunch (launchA 7) { sA with ctx := ctxC }

/-- A host command in partition 0's ring, which stands in host memory at 0x1000: the doorbell is one ahead. -/
def cmdA (op launch core : Nat) (x y : Nat) : List Byte := leBytes 4 op ++ leBytes 4 launch ++ leBytes 8 core ++ leBytes 8 x ++ leBytes 8 y
def asks (c : List Byte) (s : State) : State :=
  { s with host := s.host.putBytes 0x1040 c, pkg := (s.pkg.setReg 0x2000 0x8000000001000).setReg 0x2008 1 }
def held (status : Word) : State := { sC with ctx := { ctxC with hold := .held, status := status } }

/-- RESUME at the pc kept, at pc 1023 (the last one) and at one that starts no bundle; KILL; PREEMPT; STEP_ON and STEP_OFF; CANCEL. -/
theorem witness_HostCommandsComplete_launches :
    let c := fun (op pc : Nat) => cmdA op 7 0 pc 0
    let h := held 8
    let z := launchA 7
    let gone : Launch := { z with place := [] }
    (∀ op ∈ ([1, 2, 3, 4, 5, 6] : List Nat), Asked (asks (c op 0xFFFFFFFF) h) 0 op (c op 0xFFFFFFFF) ∧
      (asks (c op 0xFFFFFFFF) h).cmdLaunch 0 (c op 0xFFFFFFFF) = some z ∧ (asks (c op 0) sA).cmdLaunch 0 (c op 0) = none ∧
      (asks (c op 0) sA).finishing 0 (c op 0) = false) ∧
    (let s := asks (c 2 0) (withLaunch { z with st := .flushing } h)
     Asked s 0 2 (c 2 0) ∧ s.cmdLaunch 0 (c 2 0) = none ∧ s.finishing 0 (c 2 0) = true) ∧
    sA.cmdWaits 0 = false ∧ cmdContext z (c 1 0) = some (h.coreNum, h.slotNum) ∧ h.isOf z = true ∧ z.st = .resident ∧ h.ctx.parked = false ∧
    h.ctx.hold = .held ∧ leField (c 1 1023) 16 4 < h.ctx.image.codeLen ∧ h.startBit 1023 = true ∧ h.startBit 1024 = false ∧ h.ctx.exited = false ∧
    (asks (c 2 0) (withLaunch gone h)).cmdLaunch 0 (c 2 0) = some gone ∧ gone.place = [] ∧ gone.sched = false ∧ z.place = [(h.coreNum, h.slotNum)] ∧
    (asks (c 3 0) (withLaunch { z with st := .saved } h)).cmdLaunch 0 (c 3 0) = some { z with st := .saved } ∧
    h.ctx.debug = true ∧ h.ctx.conf = false ∧ (held 0).ctx.debug = false ∧ (held 0x28).ctx.conf = true ∧
    BitVec.ofNat 32 (leField (c 6 1) 16 4) ≠ 0 ∧ (∀ x ∈ (withLaunch gone h).pkg.launches, x.place = []) := by
  unfold Asked; decide +kernel

/-- The invalidations of page 1 of ASID 0, the mailbox commands, SCHEDULE with a capability at guest address 0x60000, event records. -/
theorem witness_HostCommandsComplete_others :
    let none_ : State := { sH with ctx := .none }
    let cap : BitVec 128 := capTo 5 + 1
    let m := fun (op n : Nat) => cmdA op 0 0 n 0
    let caps : State := { sH with
      host := hostA.putBytes 0x20000 [31, 0, 0, 0, 0, 4, 0]
      pkg := { sH.pkg with
        parts := sH.pkg.parts.set 0 (some { partA with region := [0, 1, 0, 0], s2Root := 0x8000000010000 })
        hbm := Memory.putBytes [] (2 ^ 42 + 0x60000) (leBytes 16 cap.toNat) } }
    let ring : State := { sA with pkg := { pkgA.setReg 0x2010 0x8000000002004 with events := [(1, [1]), (0, [1])] } }
    (∀ op ∈ ([7, 8, 9] : List Nat), Asked (asks (cmdA op 0 0 (2 ^ 32) (2 ^ 16)) none_) 0 op (cmdA op 0 0 (2 ^ 32) (2 ^ 16)) ∧
      leField (cmdA op 0 0 (2 ^ 32) (2 ^ 16)) 24 8 / 2 ^ 16 ≤ 1 ∧
      1 < leField (cmdA op 0 0 (2 ^ 32) (2 ^ 16)) 24 8 / 2 ^ 16 + leField (cmdA op 0 0 (2 ^ 32) (2 ^ 16)) 20 4) ∧
    none_.partAt 0 ≠ none ∧ NoContexts none_ ∧ none_.pkg.inval = 0 ∧
    (∀ op ∈ ([10, 11] : List Nat), Asked (asks (m op 0) sA) 0 op (m op 0)) ∧ partA.mboxMask.getLsbD 0 = true ∧ partA.mboxMask.getLsbD 16 = false ∧
    sA.pkg.tdi.toList.getD 0 .unlocked ≠ .error ∧ sA.partAt 0 = some partA ∧
    Asked (asks (m 12 0x60000) caps) 0 12 (m 12 0x60000) ∧ (asks (m 12 0x60000) caps).schedCap 0 (leField (m 12 0x60000) 16 8) = some cap ∧
    schedCapOk cap = true ∧ 0 < capPages cap ∧
    ring.pkg.stopped = false ∧ ring.evtFull 0 = false ∧ ring.pkg.events = [(1, [1])] ++ (0, [1]) :: [] ∧
    (∀ x ∈ [((1 : Nat), ([1] : List Byte))], x.1 ≠ 0) := by
  unfold Asked NoContexts; decide +kernel

end Sys2Proof.Tests

namespace Sys2Proof.Tests
open Sys2Proof Sys2Proof.Machine Sys2Proof.Claims

/-- A host's invalidation of a page, and its completion; a schedule's object; an event of another source behind the first. -/
theorem witness_HostCommandsComplete_atsAndEvents :
    let s : State := { withArg { base := 5, pid := 1 } sH with ctx := .none }
    let done : State := { withArg { base := 5, pid := 1, ok := true } s with pkg := { s.pkg with atsWait := [(1, 2 ^ 35 + 5)] } }
    s.arg.ok = false ∧ NoContexts s ∧ done.arg.ok = true ∧ NoContexts done ∧ done.pkg.wire = [] ∧ sH.schedObject (capTo 5 + 1) = true ∧
    (∃ x ∈ ([(0, [2, 0, 1, 0])] : List (Nat × List Byte)), x.1 = 0 ∧ droppable x = true) ∧ droppable (0, [1, 0, 0, 0]) = false ∧
    sA.pkg.afterCmpl (0, [1, 0, 0, 0]) = false := by
  unfold NoContexts; decide +kernel

/-- The SPDM responder with a certificate in slot 1 and these sessions. -/
def spdmA (sessions : List Session) : Spdm := { Spdm.reset with
  version := true, caps := true, algs := true, certs := Spdm.reset.certs.set 1 [1], sessions := sessions }
def withSpdm (m : Spdm) (a : EventData) : State := withArg a { sA with pkg := { pkgA with spdm := m } }
def sessionA : Session := ⟨1, true, some 1, [], []⟩

/-- Firmware's key, and a LOCK that rewrites nothing. -/
theorem witness_ManagementEventsComplete_firmware :
    (withArg { firmware := true, data := [2, 0, 1, 0, 3, 1, 0, 0] }).arg.firmware = true ∧ keyKind (leField ([2, 0, 1, 0, 3, 1, 0, 0] : List Byte) 5 1) = some .xts ∧
    (withArg {}).arg.firmware = false ∧ (withArg {}).arg.boot = none ∧ sA.pidSlot 1 = some 0 ∧ sA.tdiOf 0 = .unlocked := by decide

/-- Each request in the state it asks for; the last chunk but one, the last; BLOCK 11 and all blocks. -/
theorem witness_ManagementEventsComplete_requests :
    let m := spdmA [{ sessionA with open_ := false }]
    let a : EventData := { chain := 1, index := 11, session := some 1, code := 2 }
    Spdm.reset.algs = false ∧ m.caps = true ∧ m.algs = true ∧ (withSpdm m a).arg.off.toNat < (m.chain a.chain).length ∧ m.chain a.chain ≠ [] ∧
    a.index.toNat ≤ 11 ∧ ({ a with index := 0xFF } : EventData).index = 0xFF ∧ ({} : EventData).chain = 0 ∧ a.chain ≠ 0 ∧
    m.session a.session = some { sessionA with open_ := false } ∧ (spdmA [sessionA]).session a.session = some sessionA ∧ sessionA.open_ = true ∧
    (a.code = 1 ∨ a.code = 2) ∧ m.chunkIn = none ∧ ({} : EventData).seq = 0 ∧ ({} : EventData).last = false ∧
    ({ m with chunkIn := some (0xFFFF, [1]) } : Spdm).chunkIn = some (0xFFFF, [1]) ∧ a.seq = 0xFFFF + 1 ∧
    ({ m with chunkOut := some (0, [1]) } : Spdm).chunkOut = some (a.seq, [1]) := by decide

/-- An owner's messages about partition 0: OWNER_AUTH, SET_KEY of the last key slot in each kind, CLEAR_KEY of the first; then the
TDISP states. -/
theorem witness_ManagementEventsComplete_owners :
    let auth : List Byte := [1, 0, 1, 0, 0, 0, 0, 0] ++ List.replicate 97 0
    let set_ := fun (kind : Byte) => ([2, 0, 1, 0, 3, kind, 0, 0] : List Byte) ++ List.replicate 64 0
    let clear_ : List Byte := [3, 0, 1, 0, 1, 0, 0, 0]
    let bytes := fun (pl : List Byte) => [3, 0, 2] ++ leBytes 2 Config.vendorId.toNat ++ leBytes 2 pl.length ++ pl
    let s := withSpdm (spdmA [sessionA]) { session := some 1, pid := 1, data := bytes auth }
    let in_ := fun (x : TdiSt) => ({ s with pkg := { s.pkg with tdi := s.pkg.tdi.set 0 x } } : State)
    (s.arg.data = bytes auth ∧ auth.length < 2 ^ 16 ∧ s.arg.firmware = false ∧ ([] : List Byte).take 5 ≠ [3, 0, 2] ++ leBytes 2 Config.vendorId.toNat) ∧
    s.pkg.spdm.session s.arg.session = some sessionA ∧ sessionA.open_ = true ∧ s.pidSlot (leField auth 2 2) = some 0 ∧ s.partAt 0 = some partA ∧
    s.tdiOf 0 ≠ .error ∧ vendorOk auth 1 (fun n => decide (104 < n)) = true ∧ leField auth 4 4 = 0 ∧
    (∀ kind ∈ ([1, 2, 3] : List Byte), (let pl := set_ kind
      sessionA.owns = some (BitVec.ofNat 12 (leField pl 2 2)) ∧ leField pl 4 1 ≤ partA.keyHi.toNat ∧ partA.keyLo.toNat ≤ leField pl 4 1 ∧
      (keyKind (leField pl 5 1)).isSome = true ∧ vendorOk pl 2 (· == 72) = true ∧ leField pl 6 2 = 0 ∧ leField pl 40 32 = 0)) ∧
    sessionA.owns = some (BitVec.ofNat 12 (leField clear_ 2 2)) ∧ partA.keyLo.toNat ≤ leField clear_ 4 1 ∧ leField clear_ 4 1 ≤ partA.keyHi.toNat ∧
    vendorOk clear_ 3 (· == 8) = true ∧ leField clear_ 5 3 = 0 ∧ sessionA.owns ≠ none ∧
    s.pidSlot s.arg.pid.toNat = some 0 ∧ (∀ x ∈ [TdiSt.unlocked, .locked, .run, .error], (in_ x).tdiOf 0 = x) ∧ s.pkg.launches = [] := by
  intro auth set_ clear_ bytes s in_
  refine ⟨⟨rfl, by decide, rfl, by simp⟩, ?_⟩
  decide +kernel

end Sys2Proof.Tests

namespace Sys2Proof.Tests
open Sys2Proof Sys2Proof.Machine Sys2Proof.Claims

/-- The witness's package with these launches and this scheduler in partition 0, no context anywhere. -/
def sQ (ls : List Launch) (x : Sched) (a : EventData := {}) : State :=
  { withArg a sA with ctx := .none, pkg := { pkgA with launches := ls, sched := pkgA.sched.set 0 x } }
def waits (id control : Nat) : Launch := { launchA id control with st := .accepted, place := [] }

/-- A mailbox whose base names no memory; one in host memory whose record's tables lie there too, with one record as the doorbell and
PRODUCER say. -/
theorem witness_LaunchEventsComplete_records :
    let rec_ : List Byte := spliceBytes (spliceBytes (List.replicate 128 0) 4 [7]) 0x28 (leBytes 8 0x8000000003000 ++ leBytes 8 0x8000000003000)
    let box := fun (base : Word) => ({ sA with
      host := (Memory.putBytes [] 0x1000 [1]).putBytes 0x1040 rec_
      pkg := { (pkgA.setReg 0x1000 1).setReg 0x1008 base with mboxOpen := 1 } } : State)
    let s := box 0x8000000001000
    let l := s.newLaunch 0 (s.devBytes 0x8000000001040 128) 0 false
    sA.mboxPart 1 = none ∧ sA.pkg.mboxOpen.getLsbD 0 = false ∧ (box 0).mboxPart 0 = some 0 ∧ (box 0).pkg.mboxOpen.getLsbD 0 = true ∧
    (box 0).devOk ((box 0).mboxBase 0) 64 = false ∧
    s.mboxPart 0 = some 0 ∧ s.pkg.mboxOpen.getLsbD 0 = true ∧ s.devOk (s.mboxBase 0) 64 = true ∧
    s.cpLe (s.mboxBase 0 + 4) 4 = 0 ∧ wbits (s.pkg.reg 0x1000) 31 0 = 1 ∧ s.cpLe (s.mboxBase 0) 4 = 1 ∧
    s.mboxBase 0 + 64 + 128 * (s.cpLe (s.mboxBase 0 + 4) 4 % 2 ^ s.cpLe (s.mboxBase 0 + 8) 1) = 0x8000000001040 ∧
    s.cpBytes 0x8000000001040 128 = rec_ ∧ BitVec.ofNat 16 (s.cpLe (s.mboxBase 0 + 12) 2) = 0 ∧
    (s.cpPut (s.mboxBase 0 + 4) (leBytes 4 1)).badRecord l = false ∧ l.id = 7 := by
  decide +kernel

/-- Decisions 63 and 64 with two eligible records; one whose CORESET lies outside the partition cannot be placed. -/
theorem witness_LaunchEventsComplete_decisions :
    let hi : Launch := { waits 7 63 with bytes := leBytes 8 (63 + 7 * 2 ^ 32) ++ List.replicate 72 0 ++ [1] }
    let lo : Launch := { waits 8 1 with seq := 1 }
    let none_ := waits 9 0
    let x := fun (dc : BitVec 32) => (⟨dc, 2, none, none, 1⟩ : Sched)
    let s := sQ [hi, lo] (x 61)
    (sQ [] ⟨0, 0, none, none, 0⟩).pkg.sched.toList[0]? = some ⟨0, 0, none, none, 0⟩ ∧ (∀ r ∈ (sQ [] (x 0)).pkg.launches, False) ∧
    s.pkg.sched.toList[0]? = some (x 61) ∧ (0 < (x 61).due) ∧ (x 61).res = none ∧ ((x 61).dc + 1).toNat % 64 ≠ 0 ∧ ((x 63).dc + 1).toNat % 64 = 0 ∧
    hi ∈ s.pkg.launches ∧ hi.part = 0 ∧ s.eligible hi = true ∧ s.placeable hi (s.freeSet 0) = some [0] ∧ Launch.better hi lo = true ∧
    hi.seq < lo.seq ∧ (sQ [none_] (x 63)).eligible none_ = true ∧ (sQ [none_] (x 63)).placeable none_ ((sQ [none_] (x 63)).freeSet 0) = none := by
  decide +kernel

theorem witness_LaunchEventsComplete_loading :
    let l : Launch := { launchA 7 with
      st := .loading
      bytes := leBytes 8 (7 * 2 ^ 32) ++ List.replicate 24 0 ++ leBytes 8 0x8000000004000 ++ leBytes 8 0x8000000003000 ++ leBytes 8 0x8000000003000 }
    let s := sQ [l] ⟨0, 0, none, none, 0⟩ { launch := 7 }
    let g : State := { s with pkg := { s.pkg with gated := 1 } }
    let log : ArrivalLog := ⟨7, 0, 0, 0, none, 0, []⟩
    let set_ : State := { sC with ctx := { ctxC with issuable := false } }
    let logged : State := { set_ with pkg := { set_.pkg with logs := [log] } }
    s.findLaunch 0 s.arg.launch = some l ∧ l.st = .loading ∧ (sC.findLaunch 0 7).isSome = true ∧ (launchA 7).st ≠ .loading ∧
    (∃ c ∈ l.place.map (fun x => x.1.toNat / 4), g.pkg.gated.getLsbD c = true) ∧
    (∀ c ∈ l.place.map (fun x => x.1.toNat / 4), s.pkg.gated.getLsbD c = false) ∧ s.pkg.dicts = [] ∧ (s.dictWords l).length ≤ 16384 ∧
    s.devGood (l.f 0x28 8) 256 = true ∧ s.devGood (l.f 0x30 8) 256 = true ∧ s.devGood ((launchA 7).f 0x28 8) 256 = false ∧
    set_.launchHere = some (launchA 7) ∧ set_.ctx.live = true ∧ set_.ctx.issuable = false ∧ (launchA 7).st = .resident ∧ set_.pkg.saved = [] ∧
    set_.pkg.logs.find? (sameLog ⟨7, 0, set_.coreNum, 0, none, 0, []⟩) = none ∧ logged.pkg.logs.find? (sameLog ⟨7, 0, logged.coreNum, 0, none, 0, []⟩) = some log ∧
    log.writes = [] ∧ sA.launchHere = none ∧ sC.ctx.issuable = true := by decide +kernel

/-- A record of priority 56 that has been passed over 64 times, against a resident launch of priority 55 on its core. -/
theorem witness_LaunchEventsComplete_priority :
    let r : Launch := { waits 8 56 with bytes := leBytes 8 (56 + 8 * 2 ^ 32) ++ List.replicate 72 0 ++ [1], seq := 1 }
    let s := fun (n : Nat) => ({ sC with
      peer := { ctxA with info := { LaunchInfo.none with launchId := 9 } }
      pkg := { pkgA with launches := [launchA 7 55, r], sched := pkgA.sched.set 0 ⟨0, 2, none, some (8, n), 0⟩ } } : State)
    (s 64).pkg.sched.toList[0]? = some ⟨0, 2, none, some (8, 64), 0⟩ ∧ (s 64).findLaunch 0 8 = some r ∧ (63 : Nat) < 64 ∧ 56 ≤ r.prio ∧
    (s 64).eligible r = true ∧ launchA 7 55 ∈ (s 64).pkg.launches ∧ (launchA 7 55).part = r.part ∧ (launchA 7 55).st = .resident ∧
    (launchA 7 55).preempt = false ∧ (launchA 7 55).prio < r.prio ∧
    (∃ c ∈ (launchA 7 55).place, ((s 64).target r).elem c.1 = true ∧ (s 64).willFree c.1 = false) ∧ r.st ≠ .resident := by decide +kernel

theorem witness_LaunchEventsComplete_ends :
    let done : State := { sC with ctx := { ctxC with hold := .exited } }
    let f : Launch := { launchA 7 with st := .flushing }
    let s := sQ [f] ⟨0, 0, none, none, 0⟩ { launch := 7 }
    let c : CancelReq := ⟨0, 1, 7, (0, 0)⟩
    let k : State := { sQ [waits 7 0] ⟨0, 0, none, none, 0⟩ { token := 1, raiser := some 7 } with
      pkg := { (sQ [waits 7 0] ⟨0, 0, none, none, 0⟩).pkg with cancels := [c] } }
    sC.launchHere = some (launchA 7) ∧ sC.coreDone = false ∧ done.coreDone = true ∧ (launchA 7).st ≠ .flushing ∧
    s.findLaunch 0 s.arg.launch = some f ∧ f.st = .flushing ∧ s.flushQuiet f = true ∧ f.sched = false ∧
    (sQ [waits 7 0] ⟨0, 0, none, none, 0⟩ { token := 1 }).arg.raiser = none ∧ k.arg.token ≠ 0 ∧ (∀ x ∈ k.pkg.launches, x.place = []) ∧
    k.arg.raiser = some 7 ∧ (k.pkg.cancels.find? fun c => c.part == 0 && c.launch == 7) = some c := by decide +kernel

end Sys2Proof.Tests

namespace Sys2Proof.Tests
open Sys2Proof Sys2Proof.Machine Sys2Proof.Claims

/-- A launch that writes a completion record, and one of a schedule's that writes none and belongs to no step. -/
theorem witness_LaunchEventsComplete_reports :
    let quiet : Launch := { launchA 7 with sched := true }
    let done : State := withLaunch quiet { sC with ctx := { ctxC with hold := .exited } }
    (launchA 7).reports = true ∧ quiet.reports = false ∧ quiet.step = 0 ∧ done.launchHere = some quiet ∧ done.coreDone = true ∧
    (quiet.place.all fun y => (done.coreNum :: quiet.done).elem y.1) = true ∧ sC.flushDue { launchA 7 with st := .flushing } = true ∧
    (∀ v ∈ sC.pkg.saved, ¬ (v.part = (launchA 7).part ∧ v.launchId = (launchA 7).id)) := by decide +kernel

/-- The witness's context at a bundle whose one operation is the C slot's `nop`, written in its code as a literal. -/
def sF (f : Context → Context) : State :=
  let s := State.withFetchWord sA 32 0
  { s with ctx := f s.ctx }

def fetches (p : State → Bundle → Bool) (s : State) : Bool := match s.fetch with | .ok (u, b) => p u b | .error _ => false

/-- A bundle that dispatches at once, one whose boundary is to commit first, one that does not start a bundle. -/
theorem witness_ContextEventsComplete_dispatch :
    let a := sF fun c => { c with atCkpt := true }
    let b := sF fun c => { c with atCkpt := false, intact := false }
    let e := sF fun c => { c with regs := { c.regs with pc := 1 } }
    State.reset.canDispatch = false ∧ a.canDispatch = true ∧ b.canDispatch = true ∧ e.canDispatch = true ∧ a.ctx.stepping = false ∧
    e.ctx.stepping = false ∧ b.ctx.stepping = false ∧ fetches (fun u b => u.ctx.atCkpt && b.ops.length == 1) a = true ∧
    fetches (fun u b => !u.ctx.atCkpt && (u.wish b).isSome) b = true ∧ (match e.fetch with | .error _ => true | .ok _ => false) = true := by
  decide +kernel

def heldTrap (code sub : Nat) (kept : Bool) : Held := ⟨3, 1, 5, false, kept, 7, 0, { code := code, sub := sub }⟩

/-- Commits, pending faults, both ways of pre-emption, waits. -/
theorem witness_ContextEventsComplete_boundaries :
    let c := { ctxC with endCkpt := some ⟨false, false, false, false, false⟩ }
    let p := { ctxC with preempt := true, ppPoint := true }
    let w := { ctxC with waiting := some ⟨0, .a, 0, []⟩, queue := [opAt 0 (.aAdd q0 1 1 1)], regs := { regsA with waitlimit := 1 } }
    let h := heldTrap 0x40 1 false
    let step : Context := { (sF fun c => { c with status := 0x18, atCkpt := false }).ctx with hold := .no }
    let in_ := fun (c : Context) => ({ sC with ctx := c } : State)
    (c.commit = none ∧ c.queue = [] ∧ c.trap = none ∧ c.fault = [] ∧ c.hold = .no ∧ c.buffer = [] ∧ c.endCkpt ≠ none) ∧
    (ctxC.commit = none ∧ ctxC.endCkpt = none ∧ ctxC.fault = []) ∧
    (firstFault [h] = some h ∧ c.hold ≠ .held ∧ c.parked = false ∧ c.issuable = true) ∧
    sC.canPark = false ∧ (in_ { p with atCkpt := true }).canPark = true ∧ (in_ { p with atCkpt := false }).canPark = true ∧ p.buffer = [] ∧ p.stepping = false ∧
    (p.live = true ∧ p.issuable = true ∧ p.preempt = true ∧ p.parked = false ∧ p.commit = none ∧ p.hold = .no) ∧
    ({ p with hold := .held } : Context).hold = .held ∧ ({ p with hold := .exited } : Context).hold = .exited ∧ ctxC.preempt = false ∧
    (w.waiting = some ⟨0, .a, 0, []⟩ ∧ w.tagged = some ⟨0, .a, 0, []⟩ ∧ w.waitLimit ⟨0, .a, 0, []⟩ ≠ 0 ∧
      ({ w with regs := regsA } : Context).waitLimit ⟨0, .a, 0, []⟩ = 0 ∧ ctxC.tagged = none ∧ (∃ o ∈ w.queue, o.id = ⟨0, .a, 0, []⟩) ∧ w.trap = none) ∧
    (p.buffer = [] ∧ ctxC.trap = none ∧ step.stepping = true ∧ (in_ step).canDispatch = true ∧ step.atCkpt = false) := by decide +kernel

/-- A saved context of launch 7. -/
def savedA (bad : Bool) : SavedCtx where
  launchId := 7
  part := 0
  core := 0
  slot := false
  ctx := ctxC
  banks := []
  ram := []
  full := []
  engine := []
  serial := 1
  stack := 0
  base := none
  units := 0
  bad := bad

theorem witness_ContextEventsComplete_saves :
    let park : State := { sC with ctx := { ctxC with parked := true } }
    let back := fun (bad ok : Bool) => ({ withArg { ok := ok } sC with
      ctx := { ctxC with issuable := false }, pkg := { sC.pkg with saved := [savedA bad] } } : State)
    park.launchHere = some (launchA 7) ∧ (launchA 7).st = .resident ∧ (∀ x ∈ (launchA 7).left, (park.focus x.1 x.2).canSave = true) ∧
    ((launchA 7).left.map (·.1)).Nodup ∧ (park.coreNum, park.slotNum) ∈ (launchA 7).left ∧ (∃ x ∈ (launchA 7).left, (sC.focus x.1 x.2).canSave = false) ∧
    sA.launchHere = none ∧ (∀ bad ok, (back bad ok).launchHere = some (launchA 7) ∧
      ((back bad ok).pkg.saved.filter fun v => v.part == (launchA 7).part && v.launchId == (launchA 7).id) = [savedA bad] ∧
      (savedA bad).core = (back bad ok).coreNum ∧ ((launchA 7).place.find? fun x => x.1 == (back bad ok).coreNum) = some ((back bad ok).coreNum, (back bad ok).slotNum) ∧
      (back bad ok).ctx.issuable = false ∧ (back bad ok).arg.ok = ok ∧ (savedA bad).bad = bad ∧ (savedA bad).ctx.info.part.toNat = 0 ∧
      (savedA bad).ctx.info.launchId = (launchA 7).id ∧ (back bad ok).pkg.stopped = false) := by decide +kernel

/-- Traps of each response: held for the host, kept, the second UNCORRECTABLE retried, NONFINITE, killed. -/
theorem witness_TrapRollbackAndResponse :
    let s := fun (h : Held) (unc : Nat) => ({ sC with ctx := { ctxC with trap := some h, unc := unc } } : State)
    sC.ctx.trap = none ∧
    (∀ h ∈ [heldTrap 0x13 0 false, heldTrap 0x13 0 true, heldTrap 0x3A 255 false, heldTrap 0x40 1 false, heldTrap 0x30 0 false, heldTrap 0xFF 0 false],
      (s h 1).ctx.trap = some h ∧ h.info.code < 256 ∧ h.info.sub < 256 ∧ h.slot < 8 ∧ (s h 1).pkg.stopped = false ∧ (s h 1).ctx.exited = false ∧
      (s h 1).ctx.unc < 2 ∧ (s h 1).launchHere = some (launchA 7)) ∧
    (heldTrap 0x13 0 false).kept = false ∧ (heldTrap 0x13 0 true).kept = true ∧ 0x3A ∈ ([0x13, 0x1C, 0x38, 0x39, 0x3A] : List Nat) ∧
    0xFF ∉ ([0x13, 0x1C, 0x38, 0x39, 0x3A, 0x30, 0x40] : List Nat) ∧ ({ sC.pkg with stopped := true } : Package).stopped = true := by decide +kernel

end Sys2Proof.Tests

namespace Sys2Proof.Tests
open Sys2Proof Sys2Proof.Machine Sys2Proof.Claims

/-- A store of two bytes at 4 in the target's scratchpad from core 4 of this package, its last byte the window's last. -/
def writeB (kind : RwKind) : RemoteWrite where
  pid := 1
  crew := 0
  pkg := 0
  core := 4
  slot := false
  window := 15
  cls := 0
  scope := 0
  target := 0
  addr := 4
  limit := 6
  kind := kind
  data := [some 1, some 2]
  posted := true
  launch := 7

/-- The witness's core as a target of crew 0, with these queued writes and this `a`. -/
def sW (a : EventData) (q : List RemoteWrite := []) : State :=
  { withArg a sA with ctx := { ctxC with info := { ctxC.info with pid := 1 } }, core := { coreA with recvq := q },
                      pkg := { pkgA with launches := [launchA 7] } }

theorem witness_RemoteEventsComplete_writes :
    let w := writeB .store
    let s := sW { write := some w }
    let pidOf := fun (s : State) (core : BitVec 7) => (s.corePart core).map fun (d : PartDesc) => d.pid
    let none_ : State := { s with ctx := { s.ctx with issuable := false } }
    let logged := fun (n : Nat) => ({ none_ with pkg := { none_.pkg.setReg 0x40 2 with logs := [⟨7, 0, 0, 0, none, 0, List.replicate n w⟩] } } : State)
    s.arg.write = some w ∧ s.onWire w = false ∧ ReadAs s w w ∧ pidOf s w.target = some w.pid ∧
    s.findCrew w.target w.pid w.crew w.launch = some s.slotNum ∧ w.target = s.coreNum ∧ w.addr + w.data.length = w.limit ∧
    s.ctx.targetOk w.addr w.data.length = true ∧ ¬ ({ w with limit := 5 } : RemoteWrite).addr + w.data.length ≤ 5 ∧
    ({ s with core := CoreSt.none } : State).spOwned 4 2 = false ∧ s.spOwned w.addr w.data.length = true ∧ s.core.recvq.any (sameStream w) = false ∧
    s.core.writable w = true ∧ (sW {} [w]).core.recvq.any (sameStream w) = true ∧ s.core.writable (writeB .ste) = false ∧
    (sW {} [w]).core.recvq.length < 256 ∧ (sW {} (List.replicate 256 w)).core.recvq.length = 256 ∧
    none_.findCrew w.target w.pid w.crew w.launch = none ∧ (logged 1).findLog w = some ⟨7, 0, 0, 0, none, 0, [w]⟩ ∧ (logged 1).logSize = 2 ∧
    (logged 2).findLog w = some ⟨7, 0, 0, 0, none, 0, [w, w]⟩ ∧ none_.findLog w = none ∧ (w.pid, w.crew, w.target) ∉ none_.pkg.gone ∧
    (sW {} [w]).core.recvq = w :: [] ∧ (sW {} [w]).core.writable w = true ∧ s.core.recvq = [] := by
  unfold ReadAs
  intro w s pidOf none_ logged
  refine ⟨rfl, by decide, .inl ⟨rfl, .inl rfl, rfl⟩, ?_⟩
  decide +kernel

theorem witness_RemoteEventsComplete_answers :
    let x := fun (k : AckKind) => (⟨0, 0, false, 15, 7, k, (0, 7, 0), none⟩ : RemoteAck)
    let s := fun (k : AckKind) => ({ sW { window := 15 } with pkg := { pkgA with acks := [x k] } } : State)
    let r : RemoteReq := ⟨1, 3, 0, 4, false, 15, 0, 4, 4, true, true⟩
    let e : RemoteReq := { r with addr := 16 }
    let z : State := sW { request := some r }
    let q : State := { z with ctx := { z.ctx with info := { z.ctx.info with crew := 3 } } }
    let off : State := { q with core := { q.core with owner := Vector.replicate 64 none } }
    let out : RemoteWrite := { writeB .store with pkg := q.pkg.num, core := 0, pid := 1, toPkg := some 5 }
    let gone : State := { z with pkg := { z.pkg with sent := [out] } }
    let later : State := { z with pkg := { z.pkg with accepted := [out] } }
    let op := opAt 0 (.lLd q0 1 mW 2 false)
    let wait : State := { sW { reply := .data [1, 2, 3, 4] } with ctx := { ctxC with remote := some ⟨op, 1, 0, 4, false, 0⟩ } }
    (s .accepted).pkg.acks.find? (forWindow 15 .accepted (s .accepted).coreNum (s .accepted).ctx.info.launchId) = some (x .accepted) ∧
    (s .bound).pkg.acks.find? (forWindow 15 .bound (s .bound).coreNum (s .bound).ctx.info.launchId) = some (x .bound) ∧
    q.pkg.acks = [] ∧ q.pkg.sent = [] ∧ q.ctx.remote = none ∧ q.arg.request = some r ∧ q.ctx.conf = false ∧
    (q.corePart r.target).map (fun (d : PartDesc) => d.pid) = some r.pid ∧ ({ r with pid := 2 } : RemoteReq).pid ≠ 1 ∧
    q.findCrew r.target r.pid r.crew 0 = some q.slotNum ∧ r.target = q.coreNum ∧ q.ctx.targetOk r.addr r.size = true ∧ r.full = true ∧
    q.core.allFull r.addr r.size = true ∧ q.core.allFull e.addr e.size = false ∧ e ∉ q.pkg.requests ∧
    z.findCrew r.target r.pid r.crew 0 = none ∧ q.core.owns q.slotNum r.addr r.size = true ∧ off.core.owns off.slotNum r.addr r.size = false ∧
    (gone.pkg.acks = [] ∧ gone.pkg.sent.find? (fun x => gone.sentByUs x && x.window == 15 && x.posted && gone.switchTakes x) = some out ∧
      out.toPkg ≠ none) ∧
    (later.pkg.acks = [] ∧ later.pkg.accepted.find? (fun x => later.sentByUs x && x.window == 15) = some out) ∧
    q.pkg.accepted = [] ∧ q.ctx.commit = none ∧ wait.ownWrites = [] ∧
    q.arg.others = [] ∧ (∀ d, q.arg.reply ≠ .data d) ∧ wait.arg.reply = .data [1, 2, 3, 4] ∧ wait.ctx.remote = some ⟨op, 1, 0, 4, false, 0⟩ ∧
    op.instr = .lLd q0 1 mW 2 false ∧ wait.ctx.buffer = [] ∧ [1, 2, 3, 4].length = 4 := by
  intro x s r e z q off out gone later op wait
  refine ⟨by decide, by decide, rfl, rfl, rfl, rfl, by decide, by decide, by decide, by decide, rfl, by decide, rfl, by decide, by decide, by decide,
    by decide, by decide, by decide, by decide, by decide, by decide, by decide, by decide, rfl, fun d h => ?_, rfl, rfl, rfl, rfl, rfl⟩
  exact absurd h (by simp [q, z, sW, withArg])

/-- A write of the context to another package that is on its way, and an earlier store to its own scratchpad that is. -/
theorem witness_RemoteEventsComplete_wire :
    let out : RemoteWrite := { writeA with pid := 1, launch := 7, posted := true, home := none, toPkg := some 5 }
    let own : RemoteWrite := { writeA with pid := 1, launch := 7 }
    let s := fun (w : RemoteWrite) (l : List RemoteWrite) => let z := sW { write := some w }; ({ z with pkg := { z.pkg with wire := l } } : State)
    (∀ w ∈ [out, own], (s w [w]).arg.write = some w ∧ (s w [w]).onWire w = true ∧ (s w [w]).wireReady w = true) ∧
    out.home = none ∧ out.toPkg ≠ some (s out [out]).pkg.num ∧ own.home = some (.sram 8) ∧ own.kind ≠ .ste ∧ own.core = (s own [own]).coreNum ∧
    own.slot = (s own [own]).slotNum ∧ (s own [{ own with ser := 1 }, own]).onWire own = true ∧ (s own [{ own with ser := 1 }, own]).wireReady own = false := by
  decide +kernel

/-- A host write to host memory, to an address that names no memory, and to HBM's first sector; a probe of an owned sector. -/
theorem witness_RemoteEventsComplete_memory :
    let near : List NearSector := [⟨5, 3, .modified, 0⟩, ⟨5, 4, .shared, 0⟩]
    let s : State := { sA with pkg := { pkgA with near := near } }
    let back : State := { sA with pkg := { pkgA with wbacks := [⟨5, 3, 0, [1]⟩] } }
    (2 ^ 51 : Nat).testBit 51 = true ∧ (0 : Nat).testBit 51 = false ∧ sA.pkg.noMemory 0 = true ∧ (2 ^ 42 : Nat).testBit 51 = false ∧
    sA.devOk (2 ^ 42) 64 = true ∧ sA.devOk 0 64 = false ∧ sA.pkg.cmpl = [] ∧
    s.pkg.near.find? (nearOf 5 3) = some ⟨5, 3, .modified, 0⟩ ∧ s.pkg.near.find? (nearOf 6 3) = none ∧
    (s.pkg.wbacks.find? fun w => w.core == 6 && w.sector == 3) = none ∧
    (back.pkg.near.find? (nearOf 5 3) = none ∧ (back.pkg.wbacks.find? fun w => w.core == 5 && w.sector == 3) = some ⟨5, 3, 0, [1]⟩) ∧
    (∃ w ∈ back.pkg.wbacks, w.sector = 3 ∧ w.ver = back.pkg.version 3) ∧
    (∃ n ∈ s.pkg.near, n.sector = 3 ∧ n.st ≠ .shared) ∧ (∀ n ∈ s.pkg.near, ¬ (n.sector = 4 ∧ n.st ≠ .shared)) ∧ s.pkg.wbacks = [] := by
  decide +kernel

end Sys2Proof.Tests

namespace Sys2Proof.Tests
open Sys2Proof Sys2Proof.Machine Sys2Proof.Claims

def leaseA (st : LeaseSt) : Lease := { obj := 5, page := 0, st := st, d := 100, gen := 1, owner := some (0, 9), users := [some (0, 9)], ask := true }

/-- Page 0 of object 5: its lease here, its state at the pool, at this time. -/
def sY (l : List Lease) (x : PoolPage) (now : Nat := 100) (puts : List Put := []) : State :=
  { withArg { obj := 5, page := 0, now := now } sA with
    pkg := { pkgA with leases := l, now := now, puts := puts }
    pool := { poolA with pages := [(pageKey 5 0, x)] } }

theorem witness_LeaseEventsComplete_requests :
    let free : PoolPage := ⟨.free, 0, []⟩
    let shared : PoolPage := ⟨.shared [(0, 200)], 1, []⟩
    let queued : PoolPage := ⟨.shared [(0, 200)], 1, [(1, 2)]⟩
    let others : PoolPage := ⟨.shared [(1, 200)], 1, []⟩
    let fenced : PoolPage := ⟨.free, 2, []⟩
    let writing : PoolPage := ⟨.writing 0 1 101, 1, []⟩
    let r := sY [leaseA .rpend] free
    let now := (100 : Nat)
    Quiet r ∧ (sY [] free).pkg.leases.find? (isPage 5 0) = none ∧ r.pkg.leases.find? (isPage 5 0) = some (leaseA .rpend) ∧
    (leaseA .rpend).st = .rpend ∧ (leaseA .wpend).st = .wpend ∧ (leaseA .read).st = .read ∧ (leaseA .write).st = .write ∧ (leaseA .read).ask = true ∧
    r.pkg.pageOut 5 0 = false ∧
    (∀ x ∈ [free, shared, queued, others, fenced, writing], ((sY [leaseA .wpend] x).pool.page 5 0).settle now = x ∧ Quiet (sY [leaseA .wpend] x) ∧
      (sY [leaseA .wpend] x).pkg.leases.find? (isPage 5 0) = some (leaseA .wpend) ∧ (sY [leaseA .wpend] x).pkg.pageOut 5 0 = false) ∧
    free.st = .free ∧ shared.st = .shared [(0, 200)] ∧ shared.queued = [] ∧ queued.queued ≠ [] ∧ writing.st = .writing 0 1 101 ∧
    shared.fgen.toNat ≤ (leaseA .wpend).gen.toNat ∧ (∀ h ∈ [((0 : BitVec 19), (200 : Nat))], h.1 = r.pkg.num) ∧ (1 : BitVec 19) ≠ r.pkg.num ∧
    (leaseA .wpend).gen.toNat < fenced.fgen.toNat ∧ now ≤ (leaseA .read).d ∧ (leaseA .read).d < (sY [] free 101).pkg.now ∧
    r.pool.grants (r.tenant 0) 5 0 = true ∧ r.pool.grants (r.tenant 0) 5 16 = false := by
  unfold Quiet; decide +kernel

theorem witness_LeaseEventsComplete_others :
    let free : PoolPage := ⟨.free, 0, []⟩
    let p : Put := ⟨5, 8, [some 1, some 2], 1, 100, 0, none, none⟩
    let w := sY [leaseA .write] ⟨.writing 0 1 101, 1, []⟩ 100 [p]
    let last := { leaseA .write with leave := true, users := [none] }
    let lastPut := sY [last] ⟨.writing 0 1 101, 1, []⟩ 100 [p]
    let full : State := { w with pool := { w.pool with noRoom := [pageKey 5 0], objs := [(5, ⟨16, 0, 0, false, false, false, true⟩)] } }
    let late := sY [leaseA .write] ⟨.writing 0 1 200, 1, []⟩ 101 [p]
    let idle := sY [{ leaseA .read with owner := none, users := [none] }] free
    (leaseA .rpend).st = .rpend ∧ (sY [leaseA .read] free 99).pkg.now < (leaseA .read).d ∧ (leaseA .write).d ≤ w.pkg.now ∧
    ({ leaseA .read with here := true }).here = true ∧ (leaseA .read).here = false ∧ (∀ p ∈ idle.pkg.puts, putOf 5 0 p = false) ∧
    idle.pkg.cache.wf = true ∧ idle.pool.bytes.wf = true ∧
    Quiet w ∧ w.pkg.puts.find? (putOf 5 0) = some p ∧ w.pkg.pageOut 5 0 = false ∧ w.pool.grants (w.tenant p.part) 5 0 = true ∧
    ((w.pool.page 5 (p.off / 2 ^ 16)).settle w.pkg.now).st = .writing w.pkg.num p.gen 101 ∧ w.pkg.now ≤ p.stamp ∧
    w.pool.noSpace 5 (p.off / 2 ^ 16) = false ∧ (full.pool.noSpace 5 0 = true ∧ p.copy = none) ∧
    (lastPut.pkg.leases.find? (isPage 5 0) = some last ∧ last.leave = true ∧ (∀ z ∈ lastPut.pkg.puts.erase p, putOf 5 0 z = false) ∧
      (∀ u ∈ last.users, u = none)) ∧ late.pkg.puts.find? (putOf 5 0) = some p ∧ p.stamp < late.pkg.now ∧
    idle.pkg.leases.find? idle.evictable = some { leaseA .read with owner := none, users := [none] } ∧
    w.pkg.leases.find? w.evictable ≠ some (leaseA .write) ∧
    w.arg.now ≤ w.pkg.now ∧ w.pkg.stopped = false ∧ ({ w.pkg with stopped := true } : Package).stopped = true := by
  unfold Quiet; decide +kernel

/-- A capability to object 7, whose pages are leased. -/
def capL : BitVec 128 := BitVec.ofNat 128 (7 * 2 ^ 80 + 16 * 2 ^ 16 + 0xF * 2 ^ 12 + 2 ^ 8)
def leaseL : Lease := { leaseA .write with obj := 7 }
def stepA : StepRec := ⟨9, 1, 0, [], [⟨capL, 0, 1, true⟩], 0, 0, 0, capTo 7⟩
def schedA : Schedule := ⟨capTo 5, none, none, none, [], [], none⟩
def attemptA (opened : Bool) : Attempt := ⟨stepA, opened, [3]⟩

/-- Partition 0's schedule, with a live write lease on the step's page; its commit cell is at byte 0 of object 7. -/
def sZ (x : Schedule) (bytes : Memory := []) (losses : List (Nat × LossCause) := []) (leases : List Lease := [leaseL]) : State :=
  { sA with pkg := { pkgA with schedule := pkgA.schedule.set 0 (some x), leases := leases, losses := losses, now := 99 }
            pool := { poolA with bytes := bytes } }

theorem witness_StepEventsComplete_walk :
    let rest := sZ { schedA with ahead := [stepA] }
    let fresh := sZ { schedA with ahead := [stepA] } [] [] []
    let recB := spliceBytes (List.replicate 128 0) 4 [7]
    let stepB : StepRec := { stepA with launches := [recB] }
    let swap := sZ { schedA with replace := some (capTo 5, 64) }
    let read := fun (next : Memory) => sZ { schedA with last := some 0 } next
    let x : Schedule := { schedA with current := some (attemptA true), next := some 64 }
    let ahead : State := { sZ x with pkg := (sZ x).pkg.setReg 0x20 8 }
    let gets := fun (cap : BitVec 128) (pg : BitVec 32) => sZ { x with gets := [(cap, pg, 9)] }
    let full := fun (pg : BitVec 32) => ({ gets capL pg with pkg := ((gets capL pg).pkg.setReg 0x20 256) } : State)
    sA.schedule 0 = none ∧ Quiet sA ∧ (∀ l ∈ rest.pkg.losses, l.1 ≠ 0) ∧ rest.schedule 0 = some { schedA with ahead := [stepA] } ∧
    (badRanges stepA = false ∧ badRanges { stepA with ranges := [⟨capL, 16, 1, true⟩] } = true ∧
      (fresh.writePages stepA).find? (fun q => !fresh.pkg.leases.any fun l => isPage q.1 q.2 l && l.holds 0 stepA) = some (7, 0) ∧
      fresh.pkg.cacheRoom = true) ∧
    swap.schedule 0 = some { schedA with replace := some (capTo 5, 64) } ∧ (attemptA true).opened = true ∧
    (read []).schedule 0 = some { schedA with last := some 0 } ∧ (read []).schedBytes 0 schedA.cap 0x20 8 = some (List.replicate 8 0) ∧
    (read [(poolKey 5 0x20, 64)]).schedBytes 0 schedA.cap 0x20 8 = some (64 :: List.replicate 7 0) ∧
    wbits (ahead.pkg.reg 0x30) 3 0 = 2 ∧ ahead.schedule 0 = some x ∧ x.gets = [] ∧
    ((gets capL 1).getFaults 0 capL 1 = false ∧ (gets capL 1).pkg.cacheRoom = true ∧ (gets capL 16).getFaults 0 capL 16 = true) ∧
    ((full 1).getFaults 0 capL 1 = false ∧ (full 1).pkg.cacheRoom = false ∧ (full 1).pkg.leases.any (isPage 7 1) = false ∧ (full 0).pkg.leases.any (isPage 7 0) = true) ∧
    (stepB.launches = [recB] ∧ rest.badRecord (rest.newLaunch 0 recB 1 true) = false) ∧ (ahead.readStep 0 x.cap 64).isSome = true ∧
    ([] : List StepRec).length < wbits (ahead.pkg.reg 0x30) 3 0 ∧
    ([stepA, stepA] : List StepRec).length = wbits (ahead.pkg.reg 0x30) 3 0 := by
  unfold Quiet; decide +kernel

/-- An attempt before and after its launches may run; its cell open, decided, recycled past it and not yet at it, and out of form; in time and not. -/
theorem witness_StepEventsComplete_attempts :
    let s := fun (opened : Bool) (cell : Memory) => sZ { schedA with current := some (attemptA opened) } cell
    let decided : Memory := [(poolKey 7 49, 1)]
    let cell := fun (s : State) (op : CellOp) => (s.pool.cellOp s.clock (poolKey 7 0) stepA.cellGen op).2.status
    let lost := sZ { schedA with current := some (attemptA true) } [] [(0, .lapsed)]
    let late := sZ { schedA with current := some (attemptA true) } [] [] [leaseL, { leaseL with page := 3, d := 50 }]
    let puts : State := { s true [] with pkg := { (s true []).pkg with puts := [⟨7, 8, [some 1], 1, 100, 0, none, none⟩] } }
    let out : State := { s false [] with pkg := (s false []).pkg.setLink (((s false []).pkg.pageLink 7 0).getD 0) { Link.fresh with lost := true } }
    Quiet (s false []) ∧ (s false []).leasesLive 0 stepA = true ∧ (∀ l ∈ (s false []).pkg.losses, l.1 ≠ 0) ∧
    ((s false []).pkg.pageOut 7 0 = false ∧ (s false []).cellLost stepA = false ∧ (s false []).pkg.cells = [] ∧
      (s false []).pool.grants ((s false []).tenant 0) 7 0 = true) ∧ capFault stepA.cellCap 0 64 [.r] = none ∧ capFault stepA.cellCap 0 64 [.a] = none ∧
    (out.cellLost stepA = true ∧ out.leasesLive 0 stepA = true) ∧
    cell (s false []) .read = 5 ∧ cell (s false decided) .read = 6 ∧ cell (s false [(poolKey 7 52, 1)]) .read = 3 ∧
    cell (s false [(poolKey 7 55, 0xC0)]) .read = 4 ∧ cell (s false [(poolKey 7 49, 3)]) .read = 7 ∧
    (attemptA true).opened = true ∧ (s true []).stepLaunches 0 stepA = [] ∧ cell (s true []) ((s true []).stepProposal stepA) = 1 ∧
    cell (s true decided) ((s true decided).stepProposal stepA) = 2 ∧ (s true []).schedule 0 = some { schedA with current := some (attemptA true) } ∧
    (s true []).leasesLive 0 stepA = true ∧ (s true []).cellLost stepA = false ∧ (attemptA false).opened = false ∧
    (s true []).pkg.now ≤ (s true []).stamp 0 stepA ∧ (late.leasesLive 0 stepA = true ∧ late.stamp 0 stepA ≠ 0 ∧ late.stamp 0 stepA < late.pkg.now) ∧
    ((s true []).putsLeft 7 0 = false ∧ puts.putsLeft 7 0 = true ∧ leaseL ∈ puts.pkg.leases ∧ leaseL.owner = some (0, 9) ∧ some (0, 9) ∈ leaseL.users ∧
      puts.leasesLive 0 stepA = true ∧ (s true []).pkg.stopped = false) ∧
    lost.pkg.losses.find? (fun l => l.1 == 0) = some (0, .lapsed) ∧ lost.stepLaunches 0 stepA = [] := by
  unfold Quiet; decide +kernel

end Sys2Proof.Tests

namespace Sys2Proof.Tests
open Sys2Proof Sys2Proof.Machine Sys2Proof.Claims

/-! ### Witnesses: the whole machine -/

/-- The last link and the last partition. -/
theorem witness_ResetState : State.reset.thresh 31 = 2048 ∧ State.reset.partAt 7 = none ∧ (31 : Nat) < 32 ∧ (7 : Nat) < 8 := by decide

/-- A machine that has nothing to do, one whose next act is to dispatch the bundle at the pc, one whose next act is an operation of a slot
queue, and an act that arrives. -/
theorem witness_StepRunsDecodedInstruction :
    let z := State.reset
    let b := z.withFetchWord 32 0
    let o := opAt 0 (.aAdd q0 1 2 3)
    let w : State := { z with ctx := { ctxA with queue := [o], seq := 1, endCkpt := some ⟨false, false, false, false, false⟩ } }
    z.inbox = [] ∧ z.tick.nextAct exec = none ∧ b.inbox = [] ∧ b.tick.nextAct exec = some (b.tick.ev .evBundleDispatch) ∧
    w.inbox = [] ∧ w.tick.nextAct exec = some (w.tick.opAct o) ∧
    ({ z with inbox := [z.ev .evClkcapWrite] } : State).inbox = [z.ev .evClkcapWrite] ∧ z.tick.admits (z.ev .evClkcapWrite) = true := by decide +kernel

theorem witness_StepRunsDecodedInstruction_dispatch :
    let b := State.reset.withFetchWord 32 0
    let d : State := { b.tick with cur := none, arg := noEventData }
    d.canDispatch = true ∧ d.ctx.stepping = false ∧ fetches (fun v x => (v.ctx.atCkpt || (v.wish x).isNone) &&
      ((x.ops.find? fun o => o.1 == .c) == some (.c, .cNop q0))) d = true := by decide +kernel

/-- Words of both kinds, each the encoding of a well-formed instruction. -/
theorem witness_DecodeAndEncodeAgree :
    (Instr.aAddi q0 5 5 64).wf = true ∧ encode (.aAddi q0 5 5 64) = some 0x2001450000004000 ∧ (Instr.aAddi q0 5 5 64).slotOf = some .a ∧
    (Instr.uWait 0 13).wf = true ∧ encode (.uWait 0 13) = some 0x480000000000000D ∧ (Instr.uWait 0 13).slotOf = none ∧
    decodeSlot .a 0x2001450000004000 = .ok (.aAddi q0 5 5 64) ∧ decodeMicro 0x480000000000000D = .ok (.uWait 0 13) := by decide

/-- The first opcode past each slot's last. -/
theorem witness_WordsOfTheEncodingTables :
    0x0D < (fld (0x38000000 : BitVec 64) 26 6).toNat ∧ 0x07 < (fld (0x0800000000000000 : BitVec 64) 56 8).toNat ∧
    0x09 < (fld (0x0A00000000000000 : BitVec 64) 56 8).toNat ∧ 0x54 < (fld (0x5500000000000000 : BitVec 64) 56 8).toNat ∧
    0x13 < (fld (0x5000000000000000 : BitVec 64) 58 6).toNat := by decide

/-- A step that writes a byte: the host's, of a state whose memories list some. -/
theorem witness_MemoriesStayCanonical :
    let s : State := { sA with
      host := [(1, 2)], inbox := [⟨0, false, .evHostInboundWrite, none, { addr := 0x8000000000000, data := [0, 3] }⟩] }
    MemoriesCanonical s ∧ ∃ t, step s = .next t ∧ t.host = [(1, 3)] :=
  ⟨by unfold MemoriesCanonical; decide, _, rfl, rfl⟩

end Sys2Proof.Tests

namespace Sys2Proof.Tests
open Sys2Proof Sys2Proof.Machine Sys2Proof.Claims

/-! ### More witnesses -/

/-- Every kind of cell, two that RECYCLING may hold, and a copy; where the core keeps its copies, the copy serves. -/
theorem witness_CellOperationsComplete_rows :
    let cell := fun (state : Byte) => List.replicate 0x31 (0 : Byte) ++ [state] ++ List.replicate 14 0
    let c : CellCopy := ⟨.hbm 64, 0, cell 1⟩
    let l : List Clearing := [⟨64, cell 1, 10⟩]
    let far : State := { sA with pkg := { pkgA with wire := [{ writeA with home := some (.home 5 0) }] } }
    (∀ x : Byte, (cell x).length = 64) ∧ CellOk (cell 0) ∧ CellOk (cell 1) ∧ CellOk (cell 2) ∧ ¬ CellOk (cell 3) ∧ cellFld (cell 0) 0x31 1 = 0 ∧
    cellFld (cell 1) 0x31 1 = 1 ∧ cellFld (cell 2) 0x31 1 = 2 ∧ clearingAt l 9 64 = some ⟨64, cell 1, 10⟩ ∧ clearingAt l 9 127 = some ⟨64, cell 1, 10⟩ ∧
    clearingAt l 10 64 = none ∧ clearingAt l 9 128 = none ∧ sA.cellAhead [.home 5 0] = false ∧ far.cellAhead [.home 5 0] = true ∧
    sA.placeLost (.home 5 0) = false ∧ (sA.cellHome (.home 5 0) .read 0).isSome = true ∧
    (Config.freeBool sA.clock = false → ({ sA with core := { coreA with cells := [c] } } : State).cellCopy (.hbm 64) 0 = some c) := by
  refine ⟨fun x => rfl, by unfold CellOk; decide, by unfold CellOk; decide, by unfold CellOk; decide, by unfold CellOk; decide, by decide, by decide,
    by decide, by decide, by decide, by decide, by decide, by decide, by decide, by decide, by decide, fun h => ?_⟩
  unfold State.cellCopy
  have h' : Config.freeBool ({ sA with core := { coreA with cells := [⟨.hbm 64, 0, List.replicate 0x31 (0 : Byte) ++ [1] ++ List.replicate 14 0⟩] } } : State).clock = false := h
  simp [h']

/-- The race log at a page of host memory, and a `trel` beside a bank that waits to be given on. -/
theorem witness_MemorySlotFrame_more :
    let log := withRegs sH { regsA with racectl := 0x50007 }
    let give : State := { sA with ctx := { ctxA with giving := 2 } }
    (match log.raceLog true (none, 0) 64 with | .inl _ => true | .inr _ => false) = true ∧ (log.readSys 0x008).getLsbD 2 = true ∧
    (∃ t, exec (.lTrel q0 1) give = .next t) ∧ give.ctx.giving ≠ 0 ∧ give.core.ram.wf = true ∧ give.ctx.giving.getLsbD (0 / 2 ^ 16) = false ∧
    give.ctx.giving.getLsbD (0 / 2 ^ 14) = false := by
  refine ⟨by decide +kernel, by decide, ⟨_, rfl⟩, by decide, by decide, by decide, by decide⟩

/-- An image whose serial is the live one, and one whose serial is not. -/
theorem witness_ContextEventsComplete_images :
    let s := fun (n : Nat) => withLaunch { launchA 7 with serials := [(0, n)] } { sC with pkg := { sC.pkg with saved := [savedA false] } }
    (s 1).imageBad (savedA false) = false ∧ (s 1).imageBad (savedA true) = true ∧ (s 2).imageBad (savedA false) = true := by decide +kernel

/-- UNCORRECTABLE of DATA, of STATE for the first and the third time, in a launch of a schedule's current attempt. -/
theorem witness_TrapRollbackAndResponse_steps :
    let l : Launch := { launchA 7 with sched := true }
    let s := fun (h : Held) (unc : Nat) => let z := sZ { schedA with current := some (attemptA true) }
      withLaunch l ({ z with ctx := { ctxC with trap := some h, unc := unc } } : State)
    (∀ x ∈ [(heldTrap 0x41 0 false, 0), (heldTrap 0x40 1 false, 2), (heldTrap 0x40 0 false, 0)],
      (s x.1 x.2).ctx.trap = some x.1 ∧ x.1.info.code < 256 ∧ x.1.kept = false ∧ (s x.1 x.2).pkg.stopped = false ∧ (s x.1 x.2).launchHere = some l ∧
      (s x.1 x.2).schedule l.part = some { schedA with current := some (attemptA true) } ∧ l.sched = true ∧
      (x.1.info.code = 0x41 ∨ (x.1.info.code = 0x40 ∧ (x.1.info.sub ≠ 1 ∨ 2 ≤ (s x.1 x.2).ctx.unc)))) := by decide +kernel

/-- A sealed write whose target has no LINK key; a host's writes to the host-visible region, across its start, to a signer key table and
after a failed boot. -/
theorem witness_RemoteEventsComplete_sealed :
    let w := { writeB .store with pkg := 5, cipher := some ([], [], []) }
    let z := sW { write := some w }
    let conf : State := { z with ctx := { z.ctx with status := 0x20 } }
    conf.ctx.conf = true ∧ conf.arg.write = some w ∧ conf.onWire w = false ∧ (∀ v, ¬ ReadAs conf w v) := by
  intro w z conf
  refine ⟨by decide, rfl, by decide, fun v h => ?_⟩
  have k : conf.winKey = none := rfl
  rcases h with ⟨h, -⟩ | ⟨-, c, d, h1, h2, -⟩
  · exact absurd h (by simp [w])
  · rw [k] at h2; simp [linkOpen] at h2

theorem witness_RemoteEventsComplete_host :
    let r := 2 * 2 ^ 42
    let s : State := { sA with pkg := pkgA.setReg 0x20 0x100 }
    let failed : State := { s with pkg := s.pkg.setReg 0 0x101 }
    let signs : State := { s with pkg := { s.pkg with parts := s.pkg.parts.set 0 (some { partA with signTab := 0x80000000000 }) } }
    s.devOk r 2 = true ∧ dpaRegion r = 2 ∧ dpaRegion (r + 2 - 1) = 2 ∧ s.pkg.bootFailed = false ∧ s.pkg.signerTable r 2 = none ∧ s.pkg.cmpl = [] ∧
    dpaRegion (r - 1) ≠ 2 ∧ failed.pkg.bootFailed = true ∧ signs.pkg.signerTable (r + 2047) 2 = some 0 ∧ signs.pkg.signerTable (r + 2048) 2 = none ∧
    r.testBit 51 = false ∧ s.pkg.signerTable (2 ^ 51) 2 = none := by decide +kernel

theorem witness_LeaseEventsComplete_denied :
    let bare : State := { sY [leaseA .rpend] ⟨.free, 0, []⟩ with pool := { poolA with objs := [] } }
    bare.pool.grants (bare.tenant 0) 5 0 = false ∧ ({ leaseA .read with get := false }).get = false ∧ (leaseA .read).get = true := by decide +kernel

/-- A completed launch without a record, whose step's other launch has not completed; a put not yet answered; a record
that needs nothing. -/
theorem witness_LaunchEventsComplete_waits :
    let f : Launch := { launchA 7 with st := .flushing, sched := true }
    let put : State := { sC with pkg := { sC.pkg with puts := [⟨5, 8, [some 1, some 2], 1, 100, 0, none, none⟩] } }
    let other : State := { sC with pkg := { sC.pkg with launches := [f, { launchA 8 with sched := true }] } }
    sC.flushDue (launchA 7) = true ∧ other.flushDue f = false ∧ f.reports = false ∧ put.flushQuiet f = false ∧
    sA.willPlace (waits 8 56) [] = true := by
  decide +kernel

/-- A record passed over 64 times whose core is free. -/
theorem witness_LaunchEventsComplete_free :
    let r : Launch := { waits 8 56 with bytes := leBytes 8 (56 + 8 * 2 ^ 32) ++ List.replicate 72 0 ++ [1], seq := 1 }
    let s := sQ [r] ⟨0, 2, none, some (8, 64), 0⟩
    s.pkg.sched.toList[0]? = some ⟨0, 2, none, some (8, 64), 0⟩ ∧ s.findLaunch 0 8 = some r ∧ s.eligible r = true ∧ s.willPlace r (s.target r) = true := by
  decide +kernel

/-- Under FPCTL 8 an infinity that lane 0 makes of the greatest number twice; under FPCTL 12 the infinite scale of a dequantisation. -/
theorem witness_NonfiniteWritesNothing_vectors :
    let big := (Regs.zero.v.set 1 (BitVec.ofNat 2048 0x7F7FFFFF)).set 2 (BitVec.ofNat 2048 0x7F7FFFFF)
    let s := working (withRegs sA { regsA with fpctl := 8, v := big })
    let inf := working (withRegs sA { regsA with fpctl := 12, v := big.set 3 (BitVec.ofNat 2048 0x7C00) })
    (∃ e ∈ governed q0 3 1 1 (.v 2) 12 0 0 s, firstOf s 0 32 (fun i => fpBad s.readFpctl (fp32.decode (e.2.2 i)) ((e.2.1 i).map fp32.decode) = true) 0) ∧
    firstOf inf 0 32 (fun i => fpBad inf.readFpctl (fp32.decode (dequant (el inf 32 3 (i / 32) % 2 ^ 16) 0 0)) [fp16.decode (el inf 32 3 (i / 32) % 2 ^ 16)] = true) 0 := by
  exact ⟨⟨_, List.mem_cons_self, by unfold firstOf; decide +kernel⟩, by unfold firstOf; decide +kernel⟩

theorem witness_FloatAndApproximateSpecialCases_numbers :
    number fp32 0x3F800000 = true ∧ valueOf fp32 0x3F800000 = 1 ∧ number bf16 0x3F80 = true ∧ number bf16 0x7F80 = false := by
  refine ⟨by decide, ?_, by decide, by decide⟩
  norm_num [valueOf, signOf, fp32]

/-- Exact values for a sum of products. -/
theorem witness_MicroArrayWords_plain : Plain (.fin false 1 0 false) ∧ Plain .nan := ⟨rfl, trivial⟩

/-- An alias table of one entry at 0x1000. -/
def tableA (w : List Byte) : State := { sRun (runS (sampA .none 0)) with
  core := { coreA with ram := Memory.putBytes [] 0x1000 w, run := some (runS (sampA .none 0)) } }
/-- A draw of its own slot, and an entry's three faults. -/
theorem witness_SamplingWords_draws :
    Draws (tableA [0, 0, 0x80, 0x7F]) sampRec 0x1000 1 0 (.cat 0) ∧ Draws (tableA [0, 0, 0, 0, 1]) sampRec 0x1000 1 0 .range ∧
    Draws (tableA [0, 0, 0, 0, 0, 0, 1]) sampRec 0x1000 1 0 .zero ∧ Draws (tableA [0, 0, 0, 0, 0, 0, 2]) sampRec 0x1000 1 0 .nonfinite := by
  have hs : mixed 0 sampRec.seed.toNat / 2 ^ 32 * 1 / 2 ^ 32 = 0 := by decide +kernel
  have h0 : leNat ((tableA [0, 0, 0x80, 0x7F]).recBytes sampRec 0x1000 8) = 0x7F800000 := by decide +kernel
  have h1 : leNat ((tableA [0, 0, 0, 0, 1]).recBytes sampRec 0x1000 8) = 2 ^ 32 := by decide +kernel
  have h2 : leNat ((tableA [0, 0, 0, 0, 0, 0, 1]).recBytes sampRec 0x1000 8) = 2 ^ 48 := by decide +kernel
  have h3 : leNat ((tableA [0, 0, 0, 0, 0, 0, 2]).recBytes sampRec 0x1000 8) = 2 ^ 49 := by decide +kernel
  have hp : ∀ w, (tableA w).recSpoilt 0x1000 8 = false := fun w => rfl
  unfold Draws
  generalize mixed 0 sampRec.seed.toNat = x at hs
  refine ⟨?_, ?_, ?_, ?_⟩ <;> simp only [hs, Nat.mul_zero, Nat.add_zero, h0, h1, h2, h3, hp] <;> norm_num

end Sys2Proof.Tests
end

/-! PROOFS. What a step performs: the operations of the slot queues and the dispatch of a bundle (R35, R37, R52, R53). -/
namespace Sys2Proof.Machine

/-! ### One step -/

/-- The state an operation of a slot queue finds itself in: out of its queue and at work, nothing said yet of a page it might
wait for (`paged`), and, for a mask-stack instruction, the stack kept for the other operations of its bundle (R156). -/
def State.atWork (s : State) (o : PendOp) : State :=
  let t : State :=
    { s with
      ctx := { s.ctx with queue := s.ctx.queue.filter fun p => p.id != o.id, paged := false }
      cur := some o
      arg := noEventData }
  if isMaskOp o.instr then t.keep (.mask t.ctx.regs.mstk t.ctx.regs.mdep) else t

theorem step_of_inbox_cons {s : State} {a : Act} {rest : List Act} (hin : s.inbox = a :: rest) :
    step s = if ({ s.tick with inbox := rest } : State).admits a then ({ s.tick with inbox := rest } : State).perform exec a
      else .next { s.tick with inbox := rest } := by
  simp only [step, stepWith, State.tick, hin]

theorem step_of_nextAct_none {s : State} (hin : s.inbox = []) (hn : s.tick.nextAct exec = none) : step s = .next s.tick := by
  have hin' : s.tick.inbox = [] := hin
  simp only [step, stepWith, hin', hn]

theorem step_of_nextAct_some {s : State} {a : Act} (hin : s.inbox = []) (hn : s.tick.nextAct exec = some a) :
    step s = s.tick.perform exec a := by
  have hin' : s.tick.inbox = [] := hin
  simp only [step, stepWith, hin', hn]

@[simp] theorem State.focus_self (s : State) : s.focus s.coreNum s.slotNum = s := by simp [State.focus]

theorem perform_opAct (s : State) (o : PendOp) : s.perform exec (s.opAct o) = exec o.instr (s.atWork o) := by
  simp [State.perform, State.opAct, State.atWork]

theorem perform_ev_of_not_maskOp {i : Instr} (hi : isMaskOp i = false) (s : State) (x : EventData) :
    s.perform exec (s.ev i x) = exec i { s with cur := none, arg := x } := by
  simp [State.perform, State.ev, hi]

/-- R37: the step that takes an operation out of its queue is `exec` of it. -/
theorem step_runs_queued_op {s : State} {o : PendOp} (hin : s.inbox = []) (hn : s.tick.nextAct exec = some (s.tick.opAct o)) :
    step s = exec o.instr (s.tick.atWork o) := by
  rw [step_of_nextAct_some hin hn, perform_opAct]

/-! ### The dispatch of a bundle -/

theorem nextBundle_eq_dispatch {s v : State} {b : Bundle} (hstep : s.ctx.stepping = false ∨ s.ctx.atCkpt = true)
    (hf : s.fetch = .ok (v, b)) (hw : v.ctx.atCkpt = true ∨ v.wish b = none) : s.nextBundle = v.dispatch b := by
  have hgo : (s.ctx.stepping && !s.ctx.atCkpt) = false := by
    rcases hstep with h | h <;> simp [h]
  have hnone : (if v.ctx.atCkpt then none else v.wish b) = none := by
    rcases hw with h | h <;> simp [h]
  simp only [State.nextBundle, hgo, Bool.false_eq_true, if_false, hf, hnone]

theorem step_dispatches_bundle {s v : State} {b : Bundle} (hin : s.inbox = [])
    (hn : s.tick.nextAct exec = some (s.tick.ev .evBundleDispatch)) :
    let d : State := { s.tick with cur := none, arg := noEventData }
    d.canDispatch = true → d.ctx.stepping = false ∨ d.ctx.atCkpt = true → d.fetch = .ok (v, b) →
      v.ctx.atCkpt = true ∨ v.wish b = none → step s = .next (v.dispatch b) := by
  intro d hcan hstep hf hw
  calc step s = exec .evBundleDispatch d := by
        rw [step_of_nextAct_some hin hn, perform_ev_of_not_maskOp rfl]
    _ = .next (if d.canDispatch then d.nextBundle else d) := rfl
    _ = .next (v.dispatch b) := by rw [if_pos hcan, nextBundle_eq_dispatch hstep hf hw]

theorem verify_regs {s t : State} {i : Nat} (h : s.verify i = some t) : t.ctx.regs = s.ctx.regs := by
  unfold State.verify at h
  split at h
  · cases h; rfl
  · dsimp only at h
    split_ifs at h
    split at h
    · cases h
    · split_ifs at h
      cases h
      split <;> rfl

/-- R52, R53: what fetch gives is decoded from the twelve words at the pc. -/
theorem fetch_decodes {s v : State} {b : Bundle} (h : s.fetch = .ok (v, b)) :
    decodeBundle clash (ctxFieldOk v.ctx) (v.bundleAt v.ctx.regs.pc.toNat) = .ok b := by
  unfold State.fetch at h
  split at h
  case h_1 => cases h
  case h_2 =>
    dsimp only at h
    split_ifs at h
    split at h
    case h_1 => cases h
    case h_2 t hv =>
      rw [← verify_regs hv] at h
      split_ifs at h
      split at h
      case h_4 c hdecode =>
        split_ifs at h
        cases h
        exact hdecode
      all_goals cases h

/-- R35, R327: a C operation is `exec` of its instruction. -/
theorem exec_eq_runC {i : Instr} (hi : i.slotOf = some .c) (s : State) : exec i s = .next (s.runC i) := by
  cases i with
  | cNop | cBr | cCall | cRet | cBrs | cCalls | cLoop | cLoopi | cLbreak | cLnext | cYield | cTrap | cExit | cBreak => rfl
  | _ => cases hi

theorem find_queueOps_c {s : State} {b : Bundle} {i : Instr} (h : (b.ops.find? fun o => o.1 == .c) = some (.c, i)) :
    ∃ p, (s.queueOps b).find? (fun p => p.id.slot == .c) = some p ∧ p.instr = i ∧ p.id.pc = s.ctx.regs.pc ∧ p.id.seq = s.ctx.seq := by
  simp only [State.queueOps, List.find?_map, Function.comp_def, h]
  exact ⟨_, rfl, rfl, rfl, rfl⟩

theorem dispatch_runs_c {s : State} {b : Bundle} {i : Instr} (h : (b.ops.find? fun o => o.1 == .c) = some (.c, i))
    (hi : i.slotOf = some .c) :
    ∃ p, p.instr = i ∧ p.id.pc = s.ctx.regs.pc ∧ p.id.seq = s.ctx.seq ∧
      exec i { s.enter ((s.queueOps b).filter fun p => p.id.slot != .c) with cur := some p } = .next (s.dispatch b) := by
  obtain ⟨p, hp, rfl, hpc, hseq⟩ := find_queueOps_c (s := s) h
  refine ⟨p, rfl, hpc, hseq, ?_⟩
  rw [exec_eq_runC hi]
  simp only [State.dispatch, hp]

/-! ### The statement with the operation at work -/

/-- What O57 says, with the operation of a slot queue run from the state it finds itself in (`State.atWork`). -/
theorem step_performs_next_and_runs_ops_at_work (s : State) :
    let u := s.tick
    (∀ a rest, s.inbox = a :: rest → step s =
      if ({ u with inbox := rest } : State).admits a then ({ u with inbox := rest } : State).perform exec a else .next { u with inbox := rest }) ∧
    (s.inbox = [] → u.nextAct exec = none → step s = .next u) ∧
    (∀ a, s.inbox = [] → u.nextAct exec = some a → step s = u.perform exec a) ∧
    (∀ o, s.inbox = [] → u.nextAct exec = some (u.opAct o) → step s = exec o.instr (u.atWork o)) ∧
    (∀ v b, s.inbox = [] → u.nextAct exec = some (u.ev .evBundleDispatch) → (let d : State := { u with cur := none, arg := noEventData }
      d.canDispatch = true → d.ctx.stepping = false ∨ d.ctx.atCkpt = true → d.fetch = .ok (v, b) → v.ctx.atCkpt = true ∨ v.wish b = none →
      step s = .next (v.dispatch b))) ∧
    (∀ v b, s.fetch = .ok (v, b) →
      decodeBundle clash (ctxFieldOk v.ctx) (v.bundleAt v.ctx.regs.pc.toNat) = .ok b ∧
      (∀ i, (b.ops.find? fun o => o.1 == .c) = some (.c, i) → i.slotOf = some .c → ∃ p, p.instr = i ∧ p.id.pc = v.ctx.regs.pc ∧
        p.id.seq = v.ctx.seq ∧
        exec i { v.enter ((v.queueOps b).filter fun p => p.id.slot != .c) with cur := some p } = .next (v.dispatch b))) :=
  ⟨fun _ _ => step_of_inbox_cons, step_of_nextAct_none, fun _ => step_of_nextAct_some, fun _ => step_runs_queued_op,
    fun _ _ => step_dispatches_bundle, fun _ _ hf => ⟨fetch_decodes hf, fun _ => dispatch_runs_c⟩⟩

/-! ### The clause of O57 that fails -/

/-- An `add` to s0 that waits in the A slot's queue. -/
def pagedOp : PendOp := ⟨⟨0, .a, 0, []⟩, .aAdd ⟨false, 0⟩ 0 0 0, 0, false⟩

/-- An operation tried before left the note that it waits for a page of the pool (`paged`); the operation that is next is another. -/
def pagedState : State :=
  { State.reset with
    ctx := { Context.none with
      live := true
      issuable := true
      queue := [pagedOp]
      seq := 1
      paged := true
      endCkpt := some ⟨false, false, false, false, false⟩ } }

theorem pagedState_nextAct : pagedState.tick.nextAct exec = some (pagedState.tick.opAct pagedOp) := by decide +kernel

theorem step_pagedState_clears_paged : (stateOf pagedState (step pagedState)).ctx.paged = false := by decide +kernel

end Sys2Proof.Machine

namespace Sys2Proof
open Machine

/-- Refutes O57: a step runs the operation it takes from a queue with `paged` cleared, where the clause on queued operations leaves that
note of an earlier attempt standing; `add` to s0 with the note set tells the two apart. With the operation run from `State.atWork` (which
also keeps the mask stack for R156) every clause holds: `step_performs_next_and_runs_ops_at_work`. -/
theorem not_stepRunsDecodedInstruction : ¬ Obligations.StepRunsDecodedInstruction := by
  intro h
  obtain ⟨-, -, -, hop, -⟩ := h pagedState
  have hstep := hop pagedOp rfl pagedState_nextAct
  have hclear := step_pagedState_clears_paged
  rw [hstep] at hclear
  exact absurd hclear (by decide +kernel)

end Sys2Proof

/-! PROOFS. The register files: what a write changes and what a bundle still reads (R34, R36, Table 2.4). -/
namespace Sys2Proof.Machine

/-! ### Fields of a word -/

theorem getLsbD_setBits {w : Nat} (x : BitVec w) (hi lo v i : Nat) :
    (setBits x hi lo v).getLsbD i = if lo ≤ i ∧ i ≤ hi ∧ i < w then v.testBit (i - lo) else x.getLsbD i := by
  simp only [setBits, BitVec.getLsbD_or, BitVec.getLsbD_and, BitVec.getLsbD_not, BitVec.getLsbD_ofNat, Nat.testBit_shiftLeft,
    Nat.testBit_two_pow_sub_one]
  by_cases hw : i < w
  · by_cases hlo : lo ≤ i <;> by_cases hhi : i ≤ hi
    · have hlt : i - lo < hi + 1 - lo := by omega
      simp [hw, hlo, hhi, hlt]
    · have hlt : ¬ i - lo < hi + 1 - lo := by omega
      simp [hw, hhi, hlt]
    · simp [hw, hlo]
    · simp [hw, hlo]
  · simp [hw, BitVec.getLsbD_of_ge x i (by omega)]

theorem getLsbD_setBits_one (x : BitVec 8) (r r' : PReg) (b : Bool) :
    (setBits x r.toNat r.toNat b.toNat).getLsbD r'.toNat = if r' = r then b else x.getLsbD r'.toNat := by
  have hr : r.toNat < 8 := r.isLt
  rw [getLsbD_setBits]
  by_cases h : r' = r
  · subst h
    cases b <;> simp [hr]
  · have hne : ¬ (r.toNat ≤ r'.toNat ∧ r'.toNat ≤ r.toNat ∧ r'.toNat < 8) := fun hh => h (BitVec.eq_of_toNat_eq (by omega))
    rw [if_neg hne, if_neg h]

/-! ### What a write of a register leaves (R34, R36) -/

theorem State.mapRegs_keep (s : State) (x : OldValue) (f : Regs → Regs) :
    (s.keep x).mapRegs f = { s with ctx := { s.ctx with regs := f s.ctx.regs, saved := (s.keep x).ctx.saved } } := by
  rw [State.keep_eq]
  rfl

theorem State.writeS_zero (s : State) (x : Word) : s.writeS 0 x = s := by simp [State.writeS]
theorem State.writeP_zero (s : State) (x : Bool) : s.writeP 0 x = s := by simp [State.writeP]
theorem State.writeK_zero (s : State) (x : Word) : s.writeK 0 x = s := by simp [State.writeK]
theorem State.writeC_zero (s : State) (x : BitVec 128) : s.writeC 0 x = s := by simp [State.writeC]

theorem State.writeS_eq (s : State) {r : SReg} (x : Word) (h : r ≠ 0) : s.writeS r x =
    { s with ctx := { s.ctx with regs := { s.ctx.regs with s := s.ctx.regs.s.set r.toNat x r.isLt },
                                 saved := (s.keep (.s r (s.ctx.regs.s[r.toNat]'r.isLt))).ctx.saved } } := by
  simp only [State.writeS, if_neg h, State.mapRegs_keep]

theorem State.writeP_eq (s : State) {r : PReg} (x : Bool) (h : r ≠ 0) : s.writeP r x =
    { s with ctx := { s.ctx with regs := { s.ctx.regs with p := setBits s.ctx.regs.p r.toNat r.toNat x.toNat },
                                 saved := (s.keep (.p r (s.ctx.regs.p.getLsbD r.toNat))).ctx.saved } } := by
  simp only [State.writeP, if_neg h, State.mapRegs_keep]

theorem State.writeV_eq (s : State) (r : VReg) (x : Vec) : s.writeV r x =
    { s with ctx := { s.ctx with regs := { s.ctx.regs with v := s.ctx.regs.v.set r.toNat x r.isLt },
                                 saved := (s.keep (.v r (s.ctx.regs.v[r.toNat]'r.isLt))).ctx.saved,
                                 shadow := s.ctx.shadow ||| (1 <<< r.toNat) } } := by
  simp only [State.writeV, State.mapRegs_keep]
  rfl

theorem State.writeK_eq (s : State) {r : KReg} (x : Word) (h : r ≠ 0) : s.writeK r x =
    { s with ctx := { s.ctx with regs := { s.ctx.regs with k := s.ctx.regs.k.set r.toNat x r.isLt },
                                 saved := (s.keep (.k r (s.ctx.regs.k[r.toNat]'r.isLt))).ctx.saved } } := by
  simp only [State.writeK, if_neg h, State.mapRegs_keep]

theorem State.writeC_eq (s : State) {r : CReg} (x : BitVec 128) (h : r ≠ 0) : s.writeC r x =
    { s with ctx := { s.ctx with regs := { s.ctx.regs with c := s.ctx.regs.c.set r.toNat x r.isLt },
                                 saved := (s.keep (.c r (s.ctx.regs.c[r.toNat]'r.isLt))).ctx.saved } } := by
  simp only [State.writeC, if_neg h, State.mapRegs_keep]

theorem State.writeT_eq (s : State) (r : TReg) (x : BitVec 256) : s.writeT r x =
    { s with ctx := { s.ctx with regs := { s.ctx.regs with t := s.ctx.regs.t.set r.toNat x r.isLt },
                                 saved := (s.keep (.t r (s.ctx.regs.t[r.toNat]'r.isLt))).ctx.saved } } := by
  simp only [State.writeT, State.mapRegs_keep]

theorem State.writeQ_eq (s : State) (r : QReg) (x : BitVec 128) : s.writeQ r x =
    { s with ctx := { s.ctx with regs := { s.ctx.regs with q := s.ctx.regs.q.set r.toNat x r.isLt },
                                 saved := (s.keep (.q r (s.ctx.regs.q[r.toNat]'r.isLt))).ctx.saved } } := by
  simp only [State.writeQ, State.mapRegs_keep]

theorem State.writeMp_eq (s : State) (r : MpReg) (x : Word) : s.writeMp r x =
    { s with ctx := { s.ctx with regs := { s.ctx.regs with mp := s.ctx.regs.mp.set r.toNat x r.isLt },
                                 saved := (s.keep (.mp r (s.ctx.regs.mp[r.toNat]'r.isLt))).ctx.saved } } := by
  simp only [State.writeMp, State.mapRegs_keep]

theorem State.writeMask_eq (s : State) (m : Vector Word 16) (d : BitVec 5) : s.writeMask m d =
    { s with ctx := { s.ctx with regs := { s.ctx.regs with mstk := m, mdep := d },
                                 saved := (s.keep (.mask s.ctx.regs.mstk s.ctx.regs.mdep)).ctx.saved } } := by
  simp only [State.writeMask, State.mapRegs_keep]

/-- A register of a file after a write of one of them. -/
theorem getElem_set_reg {α : Type} {n w : Nat} (v : Vector α n) (r r' : BitVec w) (x : α) (hr : r.toNat < n) (hr' : r'.toNat < n) :
    (v.set r.toNat x hr)[r'.toNat] = if r' = r then x else v[r'.toNat] := by
  rw [Vector.getElem_set]
  simp only [← BitVec.toNat_inj, eq_comm]

/-! ### Reads with no operation at work -/

theorem State.readS_idle {s : State} (h : s.cur = none) (r : SReg) :
    s.readS r = if r = 0 then 0 else s.ctx.regs.s[r.toNat]'r.isLt := by
  simp [State.readS, State.old_idle h]
theorem State.readP_idle {s : State} (h : s.cur = none) (r : PReg) :
    s.readP r = if r = 0 then true else s.ctx.regs.p.getLsbD r.toNat := by
  simp [State.readP, State.old_idle h]
theorem State.readV_idle {s : State} (h : s.cur = none) (r : VReg) : s.readV r = s.ctx.regs.v[r.toNat]'r.isLt := by
  simp [State.readV, State.old_idle h]
theorem State.readK_idle {s : State} (h : s.cur = none) (r : KReg) :
    s.readK r = if r = 0 then BitVec.allOnes 64 else s.ctx.regs.k[r.toNat]'r.isLt := by
  simp [State.readK, State.old_idle h]
theorem State.readC_idle {s : State} (h : s.cur = none) (r : CReg) :
    s.readC r = if r = 0 then 0 else s.ctx.regs.c[r.toNat]'r.isLt := by
  simp [State.readC, State.old_idle h]
theorem State.readT_idle {s : State} (h : s.cur = none) (r : TReg) : s.readT r = s.ctx.regs.t[r.toNat]'r.isLt := by
  simp [State.readT, State.old_idle h]
theorem State.readQ_idle {s : State} (h : s.cur = none) (r : QReg) : s.readQ r = s.ctx.regs.q[r.toNat]'r.isLt := by
  simp [State.readQ, State.old_idle h]
theorem State.readMp_idle {s : State} (h : s.cur = none) (r : MpReg) : s.readMp r = s.ctx.regs.mp[r.toNat]'r.isLt := by
  simp [State.readMp, State.old_idle h]

/-! ### Each register after a write of one of its file -/

theorem State.writeS_getElem (s : State) (r r' : SReg) (x : Word) :
    (s.writeS r x).ctx.regs.s[r'.toNat]'r'.isLt = if r' = r ∧ r ≠ 0 then x else s.ctx.regs.s[r'.toNat]'r'.isLt := by
  by_cases h : r = 0
  · subst h
    rw [State.writeS_zero]
    simp
  · rw [State.writeS_eq s x h]
    simp only [getElem_set_reg, and_iff_left h]
theorem State.writeP_getLsbD (s : State) (r r' : PReg) (x : Bool) :
    (s.writeP r x).ctx.regs.p.getLsbD r'.toNat = if r' = r ∧ r ≠ 0 then x else s.ctx.regs.p.getLsbD r'.toNat := by
  by_cases h : r = 0
  · subst h
    rw [State.writeP_zero]
    simp
  · rw [State.writeP_eq s x h]
    simp only [getLsbD_setBits_one, and_iff_left h]
theorem State.writeV_getElem (s : State) (r r' : VReg) (x : Vec) :
    (s.writeV r x).ctx.regs.v[r'.toNat]'r'.isLt = if r' = r then x else s.ctx.regs.v[r'.toNat]'r'.isLt := by
  simp [State.writeV_eq, getElem_set_reg]
theorem State.writeK_getElem (s : State) (r r' : KReg) (x : Word) :
    (s.writeK r x).ctx.regs.k[r'.toNat]'r'.isLt = if r' = r ∧ r ≠ 0 then x else s.ctx.regs.k[r'.toNat]'r'.isLt := by
  by_cases h : r = 0
  · subst h
    rw [State.writeK_zero]
    simp
  · rw [State.writeK_eq s x h]
    simp only [getElem_set_reg, and_iff_left h]
theorem State.writeC_getElem (s : State) (r r' : CReg) (x : BitVec 128) :
    (s.writeC r x).ctx.regs.c[r'.toNat]'r'.isLt = if r' = r ∧ r ≠ 0 then x else s.ctx.regs.c[r'.toNat]'r'.isLt := by
  by_cases h : r = 0
  · subst h
    rw [State.writeC_zero]
    simp
  · rw [State.writeC_eq s x h]
    simp only [getElem_set_reg, and_iff_left h]
theorem State.writeT_getElem (s : State) (r r' : TReg) (x : BitVec 256) :
    (s.writeT r x).ctx.regs.t[r'.toNat]'r'.isLt = if r' = r then x else s.ctx.regs.t[r'.toNat]'r'.isLt := by
  simp [State.writeT_eq, getElem_set_reg]
theorem State.writeQ_getElem (s : State) (r r' : QReg) (x : BitVec 128) :
    (s.writeQ r x).ctx.regs.q[r'.toNat]'r'.isLt = if r' = r then x else s.ctx.regs.q[r'.toNat]'r'.isLt := by
  simp [State.writeQ_eq, getElem_set_reg]
theorem State.writeMp_getElem (s : State) (r r' : MpReg) (x : Word) :
    (s.writeMp r x).ctx.regs.mp[r'.toNat]'r'.isLt = if r' = r then x else s.ctx.regs.mp[r'.toNat]'r'.isLt := by
  simp [State.writeMp_eq, getElem_set_reg]

/-! ### What is read back (R34) -/

section
variable {s : State} (hidle : s.cur = none)
include hidle

theorem State.readS_writeS (r r' : SReg) (x : Word) :
    (s.writeS r x).readS r' = if r' = 0 then 0 else if r' = r then x else s.readS r' := by
  rw [State.readS_idle hidle, State.readS_idle (by simpa using hidle), State.writeS_getElem]
  grind
theorem State.readP_writeP (r r' : PReg) (x : Bool) :
    (s.writeP r x).readP r' = if r' = 0 then true else if r' = r then x else s.readP r' := by
  rw [State.readP_idle hidle, State.readP_idle (by simpa using hidle), State.writeP_getLsbD]
  grind
theorem State.readV_writeV (r r' : VReg) (x : Vec) : (s.writeV r x).readV r' = if r' = r then x else s.readV r' := by
  rw [State.readV_idle hidle, State.readV_idle (by simpa using hidle), State.writeV_getElem]
theorem State.readK_writeK (r r' : KReg) (x : Word) :
    (s.writeK r x).readK r' = if r' = 0 then BitVec.allOnes 64 else if r' = r then x else s.readK r' := by
  rw [State.readK_idle hidle, State.readK_idle (by simpa using hidle), State.writeK_getElem]
  grind
theorem State.readC_writeC (r r' : CReg) (x : BitVec 128) :
    (s.writeC r x).readC r' = if r' = 0 then 0 else if r' = r then x else s.readC r' := by
  rw [State.readC_idle hidle, State.readC_idle (by simpa using hidle), State.writeC_getElem]
  grind
theorem State.readT_writeT (r r' : TReg) (x : BitVec 256) : (s.writeT r x).readT r' = if r' = r then x else s.readT r' := by
  rw [State.readT_idle hidle, State.readT_idle (by simpa using hidle), State.writeT_getElem]
theorem State.readQ_writeQ (r r' : QReg) (x : BitVec 128) : (s.writeQ r x).readQ r' = if r' = r then x else s.readQ r' := by
  rw [State.readQ_idle hidle, State.readQ_idle (by simpa using hidle), State.writeQ_getElem]
theorem State.readMp_writeMp (r r' : MpReg) (x : Word) : (s.writeMp r x).readMp r' = if r' = r then x else s.readMp r' := by
  rw [State.readMp_idle hidle, State.readMp_idle (by simpa using hidle), State.writeMp_getElem]

end

/-! ### What a write of a register changes -/

theorem State.writeS_frame (s : State) (r : SReg) (x : Word) : s.writeS r x =
    { s with ctx := { s.ctx with regs := { s.ctx.regs with s := (s.writeS r x).ctx.regs.s }, saved := (s.writeS r x).ctx.saved } } := by
  by_cases h : r = 0
  · subst h
    rw [State.writeS_zero]
  · rw [State.writeS_eq s x h]
theorem State.writeP_frame (s : State) (r : PReg) (x : Bool) : s.writeP r x =
    { s with ctx := { s.ctx with regs := { s.ctx.regs with p := (s.writeP r x).ctx.regs.p }, saved := (s.writeP r x).ctx.saved } } := by
  by_cases h : r = 0
  · subst h
    rw [State.writeP_zero]
  · rw [State.writeP_eq s x h]
theorem State.writeK_frame (s : State) (r : KReg) (x : Word) : s.writeK r x =
    { s with ctx := { s.ctx with regs := { s.ctx.regs with k := (s.writeK r x).ctx.regs.k }, saved := (s.writeK r x).ctx.saved } } := by
  by_cases h : r = 0
  · subst h
    rw [State.writeK_zero]
  · rw [State.writeK_eq s x h]
theorem State.writeC_frame (s : State) (r : CReg) (x : BitVec 128) : s.writeC r x =
    { s with ctx := { s.ctx with regs := { s.ctx.regs with c := (s.writeC r x).ctx.regs.c }, saved := (s.writeC r x).ctx.saved } } := by
  by_cases h : r = 0
  · subst h
    rw [State.writeC_zero]
  · rw [State.writeC_eq s x h]

/-! ### An operation that reads after another one of its bundle has written (R36) -/

/-- The first write of a register by a bundle of which an operation still waits keeps the register's old value. -/
theorem State.keep_saved {s : State} {o o' : PendOp} (hcur : s.cur = some o) (hqueue : o' ∈ s.ctx.queue)
    (hbundle : o'.id.seq = o.id.seq) (hfresh : ∀ e ∈ s.ctx.saved, e.1 ≠ o.id.seq) (v : OldValue) :
    (s.keep v).ctx.saved = (o.id.seq, v) :: s.ctx.saved := by
  have hwaits : (s.ctx.queue.any fun p => p.id.seq == o.id.seq) = true := List.any_eq_true.mpr ⟨o', hqueue, by simpa using hbundle⟩
  have hfirst : (s.ctx.saved.any fun e => e.1 == o.id.seq && e.2.name == v.name) = false := by
    rw [List.any_eq_false]
    intro e he
    simp [hfresh e he]
  simp [State.keep, hcur, hwaits, hfirst]

/-- The value kept last for the bundle of the operation at work is what it reads. -/
theorem State.old_of_kept {s : State} {p : PendOp} {v : OldValue} {l : List (Nat × OldValue)} {α : Type} {f : OldValue → Option α} {y : α}
    (hcur : s.cur = some p) (hsaved : s.ctx.saved = (p.id.seq, v) :: l) (hv : f v = some y) : s.old f = some y := by
  simp [State.old, hcur, hsaved, hv]

/-- Without a value kept for its bundle an operation reads registers as they stand. -/
theorem State.old_of_not_kept {s : State} {p : PendOp} {α : Type} {f : OldValue → Option α}
    (hcur : s.cur = some p) (hsaved : ∀ e ∈ s.ctx.saved, e.1 ≠ p.id.seq) : s.old f = none := by
  simp only [State.old, hcur, List.findSome?_eq_none_iff]
  intro e he
  rw [if_neg (hsaved e he)]

section
variable {s t : State} {o o' l : PendOp} (hcur : s.cur = some o) (hqueue : o' ∈ s.ctx.queue) (hbundle : o'.id.seq = o.id.seq)
  (hfresh : ∀ e ∈ s.ctx.saved, e.1 ≠ o.id.seq) {v : OldValue} (hsaved : t.ctx.saved = (s.keep v).ctx.saved)
  {α : Type} {f : OldValue → Option α} {y z : α}
include hcur hqueue hbundle hfresh hsaved

/-- An operation of the same bundle, still waiting, reads the value from before the first write (R36). -/
theorem State.old_in_same_bundle (hv : f v = some y) : (({ t with cur := some o' } : State).old f).getD z = y := by
  rw [State.keep_saved hcur hqueue hbundle hfresh, ← hbundle] at hsaved
  rw [State.old_of_kept (s := { t with cur := some o' }) rfl hsaved hv]
  rfl

/-- An operation of another bundle, for which nothing is kept, reads registers as the write left them. -/
theorem State.old_in_other_bundle (hlater : ∀ e ∈ s.ctx.saved, e.1 ≠ l.id.seq) (hne : l.id.seq ≠ o.id.seq) :
    (({ t with cur := some l } : State).old f).getD z = z := by
  rw [State.keep_saved hcur hqueue hbundle hfresh] at hsaved
  rw [State.old_of_not_kept (s := { t with cur := some l }) rfl]
  · rfl
  · intro e he
    rcases List.mem_cons.mp (hsaved ▸ he) with rfl | he
    · exact hne.symm
    · exact hlater e he

end

theorem State.writeS_saved (s : State) {r : SReg} (x : Word) (h : r ≠ 0) :
    (s.writeS r x).ctx.saved = (s.keep (.s r (s.ctx.regs.s[r.toNat]'r.isLt))).ctx.saved := by rw [State.writeS_eq s x h]
theorem State.writeP_saved (s : State) {r : PReg} (x : Bool) (h : r ≠ 0) :
    (s.writeP r x).ctx.saved = (s.keep (.p r (s.ctx.regs.p.getLsbD r.toNat))).ctx.saved := by rw [State.writeP_eq s x h]
theorem State.writeV_saved (s : State) (r : VReg) (x : Vec) :
    (s.writeV r x).ctx.saved = (s.keep (.v r (s.ctx.regs.v[r.toNat]'r.isLt))).ctx.saved := by rw [State.writeV_eq]
theorem State.writeK_saved (s : State) {r : KReg} (x : Word) (h : r ≠ 0) :
    (s.writeK r x).ctx.saved = (s.keep (.k r (s.ctx.regs.k[r.toNat]'r.isLt))).ctx.saved := by rw [State.writeK_eq s x h]

end Sys2Proof.Machine

namespace Sys2Proof
open Machine

/-- Settles O1. -/
theorem registerFilesReadBack : Obligations.RegisterFilesReadBack := fun _ hidle =>
  ⟨State.readS_writeS hidle, State.readP_writeP hidle, State.readV_writeV hidle, State.readK_writeK hidle, State.readC_writeC hidle,
    State.readT_writeT hidle, State.readQ_writeQ hidle, State.readMp_writeMp hidle⟩

/-- Settles O2. -/
theorem registerWritesTouchOneFile : Obligations.RegisterWritesTouchOneFile := fun s =>
  ⟨s.writeS_frame, s.writeP_frame, fun r x => by rw [State.writeV_eq], s.writeK_frame, s.writeC_frame,
    fun r x => by rw [State.writeT_eq], fun r x => by rw [State.writeQ_eq], fun r x => by rw [State.writeMp_eq],
    s.writeS_zero, s.writeP_zero, s.writeK_zero, s.writeC_zero,
    fun r r' x h => by simp [State.writeS_getElem, h], fun r r' x h => by simp [State.writeV_getElem, h],
    fun r r' x h => by simp [State.writeP_getLsbD, h], fun r r' x h => by simp [State.writeK_getElem, h],
    fun r r' x h => by simp [State.writeC_getElem, h], fun r r' x h => by simp [State.writeT_getElem, h],
    fun r r' x h => by simp [State.writeQ_getElem, h], fun r r' x h => by simp [State.writeMp_getElem, h],
    fun r x h => by rw [State.writeS_getElem, if_pos ⟨rfl, h⟩], fun r x => by simp [State.writeV_getElem],
    fun r x h => by rw [State.writeP_getLsbD, if_pos ⟨rfl, h⟩], fun r x h => by rw [State.writeK_getElem, if_pos ⟨rfl, h⟩],
    fun r x h => by rw [State.writeC_getElem, if_pos ⟨rfl, h⟩], fun r x => by simp [State.writeT_getElem],
    fun r x => by simp [State.writeQ_getElem], fun r x => by simp [State.writeMp_getElem]⟩

/-- Settles O3: the first write of a bundle keeps the old value, which the bundle's other operations read in its place. -/
theorem bundleReadsBeforeItsWrites : Obligations.BundleReadsBeforeItsWrites := by
  intro s o o' l hcur hqueue hbundle hfresh hlater hne
  refine ⟨fun r x hr => ?_, fun r x hr => ?_, fun r x => ?_, fun r x hr => ?_⟩
  · have hsaved := s.writeS_saved x hr
    simp only [State.readS, if_neg hr]
    exact ⟨State.old_in_same_bundle hcur hqueue hbundle hfresh hsaved (if_pos rfl),
      (State.old_in_other_bundle hcur hqueue hbundle hfresh hsaved hlater hne).trans
        ((s.writeS_getElem r r x).trans (if_pos ⟨rfl, hr⟩))⟩
  · have hsaved := s.writeP_saved x hr
    simp only [State.readP, if_neg hr]
    exact ⟨State.old_in_same_bundle hcur hqueue hbundle hfresh hsaved (if_pos rfl),
      (State.old_in_other_bundle hcur hqueue hbundle hfresh hsaved hlater hne).trans
        ((s.writeP_getLsbD r r x).trans (if_pos ⟨rfl, hr⟩))⟩
  · have hsaved := s.writeV_saved r x
    simp only [State.readV]
    exact ⟨State.old_in_same_bundle hcur hqueue hbundle hfresh hsaved (if_pos rfl),
      (State.old_in_other_bundle hcur hqueue hbundle hfresh hsaved hlater hne).trans
        ((s.writeV_getElem r r x).trans (if_pos rfl))⟩
  · have hsaved := s.writeK_saved x hr
    simp only [State.readK, if_neg hr]
    exact ⟨State.old_in_same_bundle hcur hqueue hbundle hfresh hsaved (if_pos rfl),
      (State.old_in_other_bundle hcur hqueue hbundle hfresh hsaved hlater hne).trans
        ((s.writeK_getElem r r x).trans (if_pos ⟨rfl, hr⟩))⟩

end Sys2Proof

/-! PROOFS. The system registers, the matrix parameters and the loop indices (R48, R122, R133). -/
namespace Sys2Proof.Machine

/-! ### System registers (R48, Table 2.8) -/

theorem State.sysReg_from_wallow {s : State} {n : BitVec 12} (h : 0x10 ≤ n.toNat) : s.sysReg n =
    if n.toNat < 0x20 then s.ctx.wallow.toList.getD (n.toNat - 0x10) 0
    else if n.toNat < 0x30 then s.ctx.window.toList.getD (n.toNat - 0x20) 0 else s.ctx.trapRec.toList.getD (n.toNat - 0x40) 0 := by
  unfold State.sysReg
  split
  case h_17 => rfl
  all_goals omega

theorem toList_getD_of_lt {α : Type} {n : Nat} (v : Vector α n) (i : Fin n) (d : α) : v.toList.getD i d = v[i] := by
  simp [List.getD_eq_getElem?_getD]

theorem State.sysReg_wallow (s : State) (i : Fin 16) : s.sysReg (0x010 + BitVec.ofNat 12 i) = s.ctx.wallow[i] := by
  have hn : (0x010 + BitVec.ofNat 12 i : BitVec 12).toNat = 0x10 + i := by
    simp [BitVec.toNat_add]
    omega
  rw [State.sysReg_from_wallow (by omega), hn, if_pos (by omega), Nat.add_sub_cancel_left, toList_getD_of_lt]

theorem State.sysReg_window (s : State) (i : Fin 16) : s.sysReg (0x020 + BitVec.ofNat 12 i) = s.ctx.window[i] := by
  have hn : (0x020 + BitVec.ofNat 12 i : BitVec 12).toNat = 0x20 + i := by
    simp [BitVec.toNat_add]
    omega
  rw [State.sysReg_from_wallow (by omega), hn, if_neg (by omega), if_pos (by omega), Nat.add_sub_cancel_left, toList_getD_of_lt]

theorem State.sysReg_trapRec (s : State) (i : Fin 8) : s.sysReg (0x040 + BitVec.ofNat 12 i) = s.ctx.trapRec[i] := by
  have hn : (0x040 + BitVec.ofNat 12 i : BitVec 12).toNat = 0x40 + i := by
    simp [BitVec.toNat_add]
    omega
  rw [State.sysReg_from_wallow (by omega), hn, if_neg (by omega), if_neg (by omega), Nat.add_sub_cancel_left, toList_getD_of_lt]

/-- A register that is no program register takes no write; a value may be kept for the bundle all the same. -/
theorem State.setSysReg_other {s : State} {n : BitVec 12} (h : n.toNat < 0x007 ∨ 0x00A < n.toNat) (x : Word) :
    s.setSysReg n x = s.keep (.sys n (s.ctx.regs.sys n)) := by
  unfold State.setSysReg
  dsimp only
  split
  case h_5 => rfl
  all_goals omega

/-- Without a value kept for its bundle an operation is governed by FPCTL as it stands (R122). -/
theorem State.readFpctl_of_not_kept {s : State} (h : ∀ e ∈ s.ctx.saved, e.1 ≠ s.opId.seq) : s.readFpctl = s.ctx.regs.fpctl := by
  unfold State.readFpctl State.readSys
  cases hcur : s.cur with
  | none =>
    rw [State.old_idle hcur]
    rfl
  | some o =>
    have hop : s.opId = o.id := by simp [State.opId, hcur]
    rw [State.old_of_not_kept hcur (hop ▸ h)]
    rfl

/-- R122: the other operations of the bundle are governed by FPCTL as it stood before the bundle's `syswr`. -/
theorem State.readFpctl_after_syswr {s : State} {o o' : PendOp} (hcur : s.cur = some o) (hqueue : o' ∈ s.ctx.queue)
    (hbundle : o'.id.seq = o.id.seq) (hfresh : ∀ e ∈ s.ctx.saved, e.1 ≠ o.id.seq) (x : Word) :
    ({ s.setSysReg 0x007 x with cur := some o' } : State).readFpctl = s.ctx.regs.fpctl := by
  have hsaved : (s.setSysReg 0x007 x).ctx.saved = (s.keep (.sys 0x007 (s.ctx.regs.sys 0x007))).ctx.saved := rfl
  exact State.old_in_same_bundle hcur hqueue hbundle hfresh hsaved (if_pos rfl)

end Sys2Proof.Machine

namespace Sys2Proof
open Machine

/-- Settles O10. -/
theorem systemRegisterAccess : Obligations.SystemRegisterAccess := by
  intro q d a m s hq writes
  have runs : ∀ n, exec (.aSyswr q a n) s = .next (s.setSysReg n (s.readS a)) := fun n =>
    State.under_true (f := fun s => s.setSysReg n (s.readS a)) hq
  have keeps : ∀ (n : BitVec 12) (f : Regs → Regs), s.setSysReg n (s.readS a) = (s.keep (.sys n (s.ctx.regs.sys n))).mapRegs f →
      writes n (f s.ctx.regs) := fun n f h => ⟨_, by rw [runs, h, State.mapRegs_keep]⟩
  refine ⟨fun n => State.under_true (f := fun s => s.writeS d (s.sysReg n)) hq, rfl, rfl, rfl, rfl, rfl, rfl, rfl, rfl, rfl,
    State.readFpctl_of_not_kept, rfl, rfl, rfl, rfl, rfl, rfl, rfl, fun i => ⟨s.sysReg_wallow i, s.sysReg_window i⟩, s.sysReg_trapRec,
    keeps 0x007 (fun g => { g with fpctl := s.readS a &&& 0xF }) rfl,
    keeps 0x008 (fun g => { g with racectl := s.readS a &&& 0xFFFFFFFFFFFF000F }) rfl,
    keeps 0x009 (fun g => { g with seed := s.readS a }) rfl, keeps 0x00A (fun g => { g with waitlimit := s.readS a }) rfl,
    fun n hn => keeps n id (State.setSysReg_other hn _), ?_, State.under_true (f := fun s => s.writeMp m (s.readS a)) hq,
    State.under_true (f := fun s => s.writeS d (s.readMp m)) hq,
    fun n => State.under_true (f := fun s => s.writeS d ((s.opId.lidx.getD n.toNat 0).setWidth 64)) hq⟩
  intro o o' t hcur hqueue hbundle hfresh ht
  rw [runs, Host.Outcome.next.injEq] at ht
  rw [← ht]
  exact State.readFpctl_after_syswr hcur hqueue hbundle hfresh _

end Sys2Proof

/-! PROOFS. The checks of a scratchpad access (R267). -/
namespace Sys2Proof.Machine
open Claims

/-! ### Runs of numbers -/

theorem natRange_eq_range' (a n : Nat) : natRange a n = List.range' a n := by
  induction n generalizing a with
  | zero => rfl
  | succ n ih => rw [natRange, ih, List.range'_succ]

theorem mem_natRange {a n b : Nat} : b ∈ natRange a n ↔ a ≤ b ∧ b < a + n := by
  rw [natRange_eq_range', List.mem_range'_1]

theorem natRange_eq_map (a n : Nat) : natRange a n = (List.range n).map (a + ·) := by
  rw [natRange_eq_range', List.range'_eq_map_range]

/-- Every number from a to c, as the model runs through the banks or words of a range. -/
theorem all_natRange_upTo {a c : Nat} {p : Nat → Bool} :
    (natRange a (c + 1 - a)).all p = true ↔ ∀ b, a ≤ b → b ≤ c → p b = true := by
  simp only [List.all_eq_true, mem_natRange]
  exact ⟨fun h b h1 h2 => h b ⟨h1, by omega⟩, fun h b hb => h b hb.1 (by omega)⟩

/-! ### The checks of a scratchpad access -/

/-- R31, R28: the bytes lie within SPBOUND and the scratchpad, in banks that the context has not released. -/
def State.SpInside (s : State) (ea n : Nat) : Prop :=
  s.ctx.spLo.toNat ≤ ea ∧ ea + n - 1 ≤ s.ctx.spHi.toNat ∧ ea + n - 1 < 2 ^ 22 ∧
    ∀ b, ea / 2 ^ 16 ≤ b → b ≤ (ea + n - 1) / 2 ^ 16 → s.ctx.released.getLsbD b = false

theorem State.spBound_iff (s : State) (ea n : Nat) : s.spBound ea n = true ↔ s.SpInside ea n := by
  simp only [State.spBound, Bool.and_eq_true, decide_eq_true_eq, all_natRange_upTo, State.SpInside, Bool.not_eq_true', and_assoc]

theorem State.spOwned_iff (s : State) (ea n : Nat) : s.spOwned ea n = true ↔
    ∀ b, ea / 2 ^ 16 ≤ b → b ≤ (ea + n - 1) / 2 ^ 16 → s.core.owner.toList.getD b none = some s.slotNum := by
  simp only [State.spOwned, all_natRange_upTo, beq_iff_eq]

theorem owned_iff (s : State) (ea n : Nat) : Owned s ea n ↔ s.SpInside ea n ∧ s.spOwned ea n = true := by
  rw [State.spOwned_iff]
  constructor
  · rintro ⟨hlo, hhi, htop, hbanks⟩
    exact ⟨⟨hlo, hhi, htop, fun b h1 h2 => (hbanks b h1 h2).1⟩, fun b h1 h2 => (hbanks b h1 h2).2⟩
  · rintro ⟨⟨hlo, hhi, htop, hfree⟩, howner⟩
    exact ⟨hlo, hhi, htop, fun b h1 h2 => ⟨hfree b h1 h2, howner b h1 h2⟩⟩

/-- R418: a read of scratchpad bytes meets a poisoned one. -/
theorem State.poisoned_sram_iff (s : State) (need : Need) (ea n : Nat) : s.poisoned need ((natRange ea n).map .sram) = true ↔
    need.reads = true ∧ ∃ i < n, NatSet.has s.core.poison (ea + i) = true := by
  simp only [State.poisoned, natRange_eq_map, List.map_map, List.any_map, Bool.and_eq_true, List.any_eq_true, List.mem_range]
  rfl

section
variable {s : State} {o : Opd} {n align elem : Nat} {need : Need} {rs : List Right} {guard : Bool} (hsp : o.space = .sp)
include hsp

/-- R267 for scratchpad: the checks in their order. -/
theorem State.check_sp : s.check o n need rs align elem (guard := guard) =
    if !s.spBound o.ea.toNat n then .trap (trapBound o.ea elem)
    else if decide (o.ea.toNat % align ≠ 0) then .trap (trapAlign o.ea elem)
    else if guard && s.overwrites o.ea.toNat n then .trap (trapOverwrite o.ea elem)
    else if !s.spOwned o.ea.toNat n then .stall s
    else if s.poisoned need ((natRange o.ea.toNat n).map .sram) then .trap (trapData o.ea elem)
    else .ok ((natRange o.ea.toNat n).map .sram) [] := by
  simp only [State.check, hsp]

theorem State.check_sp_outside (h : ¬ s.SpInside o.ea.toNat n) :
    s.check o n need rs align elem (guard := guard) = .trap (trapBound o.ea elem) := by
  rw [← State.spBound_iff, Bool.not_eq_true] at h
  simp [State.check_sp hsp, h]

variable (hin : s.SpInside o.ea.toNat n)
include hin

theorem State.check_sp_misaligned (hal : o.ea.toNat % align ≠ 0) :
    s.check o n need rs align elem (guard := guard) = .trap (trapAlign o.ea elem) := by
  simp [State.check_sp hsp, (s.spBound_iff _ _).mpr hin, hal]

variable (hal : o.ea.toNat % align = 0)
include hal

theorem State.check_sp_overwrites (hg : guard = true) (ho : s.overwrites o.ea.toNat n = true) :
    s.check o n need rs align elem (guard := guard) = .trap (trapOverwrite o.ea elem) := by
  simp [State.check_sp hsp, (s.spBound_iff _ _).mpr hin, hal, hg, ho]

variable (hg : guard = false ∨ s.overwrites o.ea.toNat n = false)
include hg

/-- Past the checks of R267 before it, an access depends on the owners of its banks and on poison. -/
theorem State.check_sp_passed : s.check o n need rs align elem (guard := guard) =
    if !s.spOwned o.ea.toNat n then .stall s
    else if s.poisoned need ((natRange o.ea.toNat n).map .sram) then .trap (trapData o.ea elem)
    else .ok ((natRange o.ea.toNat n).map .sram) [] := by
  have hguard : (guard && s.overwrites o.ea.toNat n) = false := by
    rcases hg with h | h <;> simp [h]
  simp [State.check_sp hsp, (s.spBound_iff _ _).mpr hin, hal, hguard]

end

end Sys2Proof.Machine

namespace Sys2Proof
open Machine Claims

/-- Settles O26: the checks of a scratchpad access stand in the order of R267. -/
theorem scratchpadChecksInOrder : Obligations.ScratchpadChecksInOrder := by
  intro s o n align elem need rs guard hsp _ ea checked traps inside
  refine ⟨fun h => ⟨_, State.check_sp_outside hsp h, rfl, rfl, rfl, rfl⟩,
    fun hin hal => ⟨_, State.check_sp_misaligned hsp hin hal, rfl, rfl, rfl, rfl⟩,
    fun hin hal hg ho => ⟨_, State.check_sp_overwrites hsp hin hal hg ho, rfl, rfl, rfl, rfl⟩,
    fun hin hal hg hown => ⟨s, ?_, rfl⟩, fun hown hal hg hr hp => ?_, fun hown hal hg hr => ?_⟩
  · have hfree : s.spOwned ea n = false := by
      rw [← Bool.not_eq_true]
      exact fun h => hown ((owned_iff s ea n).mpr ⟨hin, h⟩)
    exact (State.check_sp_passed hsp hin hal hg).trans (if_pos (by simpa using hfree))
  · obtain ⟨hin, howned⟩ := (owned_iff s ea n).mp hown
    have hspoilt := (s.poisoned_sram_iff need ea n).mpr ⟨hr, hp⟩
    refine ⟨trapData o.ea elem, ?_, rfl, rfl, rfl, rfl⟩
    exact (State.check_sp_passed hsp hin hal hg).trans ((if_neg (by simpa using howned)).trans (if_pos hspoilt))
  · obtain ⟨hin, howned⟩ := (owned_iff s ea n).mp hown
    have hclean : ¬ s.poisoned need ((natRange ea n).map .sram) = true := by
      rw [State.poisoned_sram_iff]
      rintro ⟨hread, i, hi, hbad⟩
      have hgood := (hr hread).2 i hi
      rw [hbad] at hgood
      cases hgood
    refine (State.check_sp_passed hsp hin hal hg).trans ((if_neg (by simpa using howned)).trans ((if_neg hclean).trans ?_))
    rw [natRange_eq_map, List.map_map]
    rfl

end Sys2Proof

/-! PROOFS. What an operation of the A slot changes. -/
namespace Sys2Proof.Machine
open Claims

/-! ### What an operation of the A or V slot may change -/

/-- `s` with what such an operation may write taken from `t`: registers, the mask stack, the program registers, shadow bits, the values
kept for the bundle, and the trap held. -/
def State.overlay (s t : State) : State :=
  { s with ctx := { s.ctx with
    regs := { s.ctx.regs with
      s := t.ctx.regs.s, p := t.ctx.regs.p, v := t.ctx.regs.v, k := t.ctx.regs.k, mp := t.ctx.regs.mp, mstk := t.ctx.regs.mstk,
      mdep := t.ctx.regs.mdep, fpctl := t.ctx.regs.fpctl, racectl := t.ctx.regs.racectl, seed := t.ctx.regs.seed,
      waitlimit := t.ctx.regs.waitlimit }
    shadow := t.ctx.shadow
    saved := t.ctx.saved
    trap := t.ctx.trap } }

/-- The frame of an operation whose destinations are `W`: a register that `W` does not name is as before, the mask stack but for
`.mask` in `W`, the program registers but for some `.sys n` in it; nothing else differs but shadow bits, for a v register in `W`,
kept values and the trap held. -/
structure Touches (W : List RegName) (s t : State) : Prop where
  rest : t = s.overlay t
  sRegs : ∀ r, RegName.s r ∉ W → t.ctx.regs.s[r.toNat]'r.isLt = s.ctx.regs.s[r.toNat]'r.isLt
  pRegs : ∀ r, RegName.p r ∉ W → t.ctx.regs.p.getLsbD r.toNat = s.ctx.regs.p.getLsbD r.toNat
  vRegs : ∀ r, RegName.v r ∉ W → t.ctx.regs.v[r.toNat]'r.isLt = s.ctx.regs.v[r.toNat]'r.isLt
  kRegs : ∀ r, RegName.k r ∉ W → t.ctx.regs.k[r.toNat]'r.isLt = s.ctx.regs.k[r.toNat]'r.isLt
  mpRegs : ∀ r, RegName.mp r ∉ W → t.ctx.regs.mp[r.toNat]'r.isLt = s.ctx.regs.mp[r.toNat]'r.isLt
  mask : RegName.mask ∉ W → t.ctx.regs.mstk = s.ctx.regs.mstk ∧ t.ctx.regs.mdep = s.ctx.regs.mdep
  sys : (∀ n, RegName.sys n ∉ W) → t.ctx.regs.fpctl = s.ctx.regs.fpctl ∧ t.ctx.regs.racectl = s.ctx.regs.racectl ∧
    t.ctx.regs.seed = s.ctx.regs.seed ∧ t.ctx.regs.waitlimit = s.ctx.regs.waitlimit
  shadow : (∀ r, RegName.v r ∉ W) → t.ctx.shadow = s.ctx.shadow

namespace Touches

variable {W W' : List RegName} {s t u : State}

theorem refl (W : List RegName) (s : State) : Touches W s s where
  rest := rfl
  sRegs _ _ := rfl
  pRegs _ _ := rfl
  vRegs _ _ := rfl
  kRegs _ _ := rfl
  mpRegs _ _ := rfl
  mask _ := ⟨rfl, rfl⟩
  sys _ := ⟨rfl, rfl, rfl, rfl⟩
  shadow _ := rfl

theorem trans (h : Touches W s t) (h' : Touches W t u) : Touches W s u where
  rest := calc
    u = t.overlay u := h'.rest
    _ = (s.overlay t).overlay u := congrArg (fun x : State => x.overlay u) h.rest
    _ = s.overlay u := rfl
  sRegs r hr := (h'.sRegs r hr).trans (h.sRegs r hr)
  pRegs r hr := (h'.pRegs r hr).trans (h.pRegs r hr)
  vRegs r hr := (h'.vRegs r hr).trans (h.vRegs r hr)
  kRegs r hr := (h'.kRegs r hr).trans (h.kRegs r hr)
  mpRegs r hr := (h'.mpRegs r hr).trans (h.mpRegs r hr)
  mask hW := ⟨(h'.mask hW).1.trans (h.mask hW).1, (h'.mask hW).2.trans (h.mask hW).2⟩
  sys hW := by
    obtain ⟨hf, hr, hs, hw⟩ := h.sys hW
    obtain ⟨hf', hr', hs', hw'⟩ := h'.sys hW
    exact ⟨hf'.trans hf, hr'.trans hr, hs'.trans hs, hw'.trans hw⟩
  shadow hW := (h'.shadow hW).trans (h.shadow hW)

/-! One rule for each write of the state. -/

theorem writeS {r : SReg} (hr : RegName.s r ∈ W) (s : State) (x : Word) : Touches W s (s.writeS r x) := by
  by_cases h0 : r = 0
  · subst h0
    rw [State.writeS_zero]
    exact refl W s
  · have hs : ∀ r', RegName.s r' ∉ W → (s.writeS r x).ctx.regs.s[r'.toNat]'r'.isLt = s.ctx.regs.s[r'.toNat]'r'.isLt := by
      intro r' hr'
      rw [State.writeS_getElem, if_neg]
      rintro ⟨rfl, -⟩
      exact hr' hr
    rw [State.writeS_eq s x h0] at hs ⊢
    exact { refl W s with rest := rfl, sRegs := hs }

theorem writeP {r : PReg} (hr : RegName.p r ∈ W) (s : State) (x : Bool) : Touches W s (s.writeP r x) := by
  by_cases h0 : r = 0
  · subst h0
    rw [State.writeP_zero]
    exact refl W s
  · have hp : ∀ r', RegName.p r' ∉ W → (s.writeP r x).ctx.regs.p.getLsbD r'.toNat = s.ctx.regs.p.getLsbD r'.toNat := by
      intro r' hr'
      rw [State.writeP_getLsbD, if_neg]
      rintro ⟨rfl, -⟩
      exact hr' hr
    rw [State.writeP_eq s x h0] at hp ⊢
    exact { refl W s with rest := rfl, pRegs := hp }

theorem writeK {r : KReg} (hr : RegName.k r ∈ W) (s : State) (x : Word) : Touches W s (s.writeK r x) := by
  by_cases h0 : r = 0
  · subst h0
    rw [State.writeK_zero]
    exact refl W s
  · have hk : ∀ r', RegName.k r' ∉ W → (s.writeK r x).ctx.regs.k[r'.toNat]'r'.isLt = s.ctx.regs.k[r'.toNat]'r'.isLt := by
      intro r' hr'
      rw [State.writeK_getElem, if_neg]
      rintro ⟨rfl, -⟩
      exact hr' hr
    rw [State.writeK_eq s x h0] at hk ⊢
    exact { refl W s with rest := rfl, kRegs := hk }

theorem writeV {r : VReg} (hr : RegName.v r ∈ W) (s : State) (x : Vec) : Touches W s (s.writeV r x) := by
  have hv : ∀ r', RegName.v r' ∉ W → (s.writeV r x).ctx.regs.v[r'.toNat]'r'.isLt = s.ctx.regs.v[r'.toNat]'r'.isLt := by
    intro r' hr'
    rw [State.writeV_getElem, if_neg]
    rintro rfl
    exact hr' hr
  rw [State.writeV_eq] at hv ⊢
  exact { refl W s with rest := rfl, vRegs := hv, shadow := fun hW => absurd hr (hW r) }

theorem writeMp {r : MpReg} (hr : RegName.mp r ∈ W) (s : State) (x : Word) : Touches W s (s.writeMp r x) := by
  have hmp : ∀ r', RegName.mp r' ∉ W → (s.writeMp r x).ctx.regs.mp[r'.toNat]'r'.isLt = s.ctx.regs.mp[r'.toNat]'r'.isLt := by
    intro r' hr'
    rw [State.writeMp_getElem, if_neg]
    rintro rfl
    exact hr' hr
  rw [State.writeMp_eq] at hmp ⊢
  exact { refl W s with rest := rfl, mpRegs := hmp }

theorem writeMask (hW : RegName.mask ∈ W) (s : State) (m : Vector Word 16) (d : BitVec 5) : Touches W s (s.writeMask m d) := by
  rw [State.writeMask_eq]
  exact { refl W s with rest := rfl, mask := fun h => absurd hW h }

theorem keep (s : State) (x : OldValue) : Touches W s (s.keep x) := by
  rw [State.keep_eq]
  exact { refl W s with rest := rfl }

theorem setSysReg {n : BitVec 12} (hn : RegName.sys n ∈ W) (s : State) (x : Word) : Touches W s (s.setSysReg n x) := by
  have hW : ¬ ∀ n, RegName.sys n ∉ W := fun h => h n hn
  unfold State.setSysReg
  dsimp only
  split
  case h_5 => exact keep s _
  all_goals
    rw [State.mapRegs_keep]
    exact { refl W s with rest := rfl, sys := fun h => absurd h hW }

/-- A trap that is reported at once (every code but LINK_LOST) is held, and nothing else changes. -/
theorem raise {i : TrapInfo} (hi : i.code ≠ 0x42) (s : State) : Touches W s (s.raise i) := by
  have hold : ∀ h : Held, Touches W s (s.hold h) := fun h => by
    rw [State.hold_eq]
    exact { refl W s with rest := rfl }
  unfold State.raise
  rw [if_neg hi]
  split
  · exact hold _
  · exact hold _

/-! The shared operations of the two slots. -/

theorem setF {r : SReg} (hr : RegName.s r ∈ W) (s : State) (res : Nat) (x : FVal) (ops : List FVal) :
    Touches W s (s.setF r res x ops) := by
  unfold State.setF
  split
  · exact raise (by simp [trapNonfinite]) s
  · exact writeS hr s _

end Touches

/-- `W` names the register, or for elements of 64 bits the pair, that a vector result goes to (R104, R120). -/
def Holds (W : List RegName) (w : Nat) (d : VReg) : Prop := RegName.v d ∈ W ∧ (w = 64 → RegName.v (d + 1) ∈ W)

theorem holds_one {w : Nat} (h : w ≠ 64) (d : VReg) : Holds [.v d] w d := ⟨List.mem_singleton_self _, fun hw => absurd hw h⟩

theorem holds_pair {t : Ty} (h : tyBits t = 64 → wideTy t = true) (d : VReg) : Holds (vPair (wideTy t) d) (tyBits t) d := by
  unfold Holds vPair
  split
  · exact ⟨List.mem_cons_self, fun _ => by simp⟩
  · next hn => exact ⟨List.mem_singleton_self _, fun h64 => absurd (h h64) hn⟩

namespace Touches

variable {W : List RegName} {w : Nat} {d : VReg}

theorem writeElems (hd : Holds W w d) (s : State) (l : List Nat) : Touches W s (s.writeElems w d l) := by
  unfold State.writeElems
  split
  · next hw => exact (writeV hd.1 s _).trans (writeV (hd.2 hw) _ _)
  · exact writeV hd.1 s _

theorem putElems (hd : Holds W w d) (s : State) (m : KReg) (l : List Nat) : Touches W s (s.putElems w d m l) := writeElems hd s _

theorem putF {t : Ty} (hd : Holds W (tyBits t) d) (s : State) (m : KReg) (res : List (Nat × List FVal)) :
    Touches W s (s.putF t d m res) := by
  unfold State.putF
  split
  · exact raise (by simp [trapNonfinite]) s
  · exact putElems hd s m _

end Touches

/-- An operation keeps the frame of `W` when it goes on. -/
def Frames (W : List RegName) (s : State) (o : Out) : Prop := ∀ t, o = .next t → Touches W s t

namespace Frames

variable {W : List RegName} {s : State} {q : Pred}

/-- R61: only an operation whose predicate holds changes anything. -/
theorem under {f : State → State} (h : Touches W s (f s)) : Frames W s (s.under q f) := by
  rintro t ⟨⟩
  split
  · exact h
  · exact .refl W s

theorem setS {d : SReg} {f : State → Word} : Frames [.s d] s (s.setS q d f) := under (.writeS (List.mem_singleton_self _) s _)
theorem alu {d a b : SReg} {op : Word → Word → Word} : Frames [.s d] s (s.alu q d a b op) := setS
theorem aluImm {d a : SReg} {i : BitVec 32} {op : Word → Word → Word} : Frames [.s d] s (s.aluImm q d a i op) := setS
theorem setP {d : PReg} {f : State → Bool} : Frames [.p d] s (s.setP q d f) := under (.writeP (List.mem_singleton_self _) s _)
theorem fop {d : SReg} {dbl : Bool} {rs : List SReg} {f : Fmt → List Nat → Nat} : Frames [.s d] s (s.fop q d dbl rs f) :=
  under (.setF (List.mem_singleton_self _) s _ _ _)

variable {t : Ty} {d a c : VReg} {b : VSrc} {m : KReg}

theorem map1 {f : Nat → Nat} (hd : Holds W (tyBits t) d) : Frames W s (s.map1 q d a t m f) := under (.putElems hd s m _)
theorem map2 {f : Nat → Nat → Nat} (hd : Holds W (tyBits t) d) : Frames W s (s.map2 q d a b t m f) := under (.putElems hd s m _)
theorem map3 {f : Nat → Nat → Nat → Nat} (hd : Holds W (tyBits t) d) : Frames W s (s.map3 q d a b c t m f) := under (.putElems hd s m _)
theorem fmap {ins : State → List (List Nat)} {f : List Nat → Nat} (hd : Holds W (tyBits t) d) : Frames W s (s.fmap q d t m ins f) :=
  under (.putF hd s m _)
theorem approxOp {op : Nat} (hd : Holds W (tyBits t) d) : Frames W s (s.approxOp op q d a t m) := fmap hd
theorem stringOp {f : Nat → Nat → Nat → Nat → Nat} : Frames [.v d] s (s.stringOp q d a b c m f) :=
  under (.putElems (holds_one (by decide) d) s m _)

end Frames

/-! ### The A slot -/

/-- The registers that the scoreboard has an A operation write: s, p and mp registers. -/
def RegName.scalar : RegName → Bool
  | .s _ | .p _ | .mp _ => true
  | _ => false

/-- The scoreboard's destinations of an A operation, with the system register of a `syswr`. -/
def scalarDests : Instr → List RegName
  | .aSyswr _ _ n => [.sys n]
  | i => opWrites i

/-- What each A operation may change (R36, R124 to R133). -/
theorem exec_frames_scalar {i : Instr} (hi : i.slotOf = some .a) (s : State) :
    Frames (scalarDests i) s (exec i s) ∧ (opWrites i).all RegName.scalar = true := by
  cases i with
  | aAdd | aSub | aMul | aMulh | aMulhn | aDiv | aDivn | aRem | aRemn | aAnd | aOr | aXor | aAndn | aShl | aShr | aSar | aRotl | aMin
  | aMax | aMinn | aMaxn | aBext | aLea => exact ⟨by unfold exec; exact .alu, rfl⟩
  | aSel | aPopc | aClz | aCtz | aBins | aMadd | aShli | aShri | aSari | aMovi | aMovhi | aSysrd | aMpget | aLidx => exact ⟨by unfold exec; exact .setS, rfl⟩
  | aAddi | aAndi | aOri | aXori | aMuli => exact ⟨by unfold exec; exact .aluImm, rfl⟩
  | aCmp | aCmpi | aPand | aPor | aPxor | aPnot | aPbit => exact ⟨by unfold exec; exact .setP, rfl⟩
  | aFadd | aFsub | aFmul | aFma | aFdiv | aFsqrt | aFmin | aFmax => exact ⟨by unfold exec; exact .fop, rfl⟩
  | aFcmp =>
    refine ⟨?_, rfl⟩
    apply Frames.under
    exact .writeP (List.mem_singleton_self _) s _
  | aFclass =>
    refine ⟨?_, rfl⟩
    apply Frames.under
    exact .writeS (List.mem_singleton_self _) s _
  | aFcvt =>
    refine ⟨?_, rfl⟩
    apply Frames.under
    dsimp only
    split
    · exact .setF (List.mem_singleton_self _) s _ _ _
    · exact .writeS (List.mem_singleton_self _) s _
  | aSyswr =>
    refine ⟨?_, rfl⟩
    apply Frames.under
    exact .setSysReg (List.mem_singleton_self _) s _
  | aMpset =>
    refine ⟨?_, rfl⟩
    apply Frames.under
    exact .writeMp (List.mem_singleton_self _) s _
  | _ => cases hi

theorem mem_scalarDests {i : Instr} {x : RegName} (h : x ∈ scalarDests i) :
    x ∈ opWrites i ∨ ∃ q a n, i = .aSyswr q a n ∧ x = .sys n := by
  unfold scalarDests at h
  split at h
  · exact .inr ⟨_, _, _, rfl, List.mem_singleton.mp h⟩
  · exact .inl h

/-! ### From the frame to the statements -/

theorem Vector.eq_of_regs {α : Type} {n w : Nat} (hn : 2 ^ w = n) {v v' : Vector α n}
    (h : ∀ (r : BitVec w) (hr : r.toNat < n), v[r.toNat] = v'[r.toNat]) : v = v' := by
  apply Vector.ext
  intro i hi
  have hr : (BitVec.ofNat w i).toNat = i := by rw [BitVec.toNat_ofNat, Nat.mod_eq_of_lt (by omega)]
  have hi' := h (BitVec.ofNat w i) (by omega)
  simpa only [hr] using hi'

/-- What lies in memory does not depend on the context in focus. -/
theorem sameMemory_of_sameOutside {s t : State} (h : SameOutside s t) : SameMemory s t := by
  intro p
  rw [h]
  cases p with
  | far k c a =>
    have hbox : (({ s with ctx := t.ctx } : State).boxOf c).core = (s.boxOf c).core := by
      simp only [State.boxOf, State.box]
      split_ifs <;> rfl
    simp only [State.byteAt, hbox]
  | _ => rfl

theorem Touches.sameMemory {W : List RegName} {s t : State} (h : Touches W s t) : SameMemory s t := by
  apply sameMemory_of_sameOutside
  unfold SameOutside
  rw [h.rest]
  rfl

section
variable {W : List RegName} {s t : State} (h : Touches W s t)
include h

theorem Touches.vRegs_eq (hW : ∀ r, RegName.v r ∉ W) : t.ctx.regs.v = s.ctx.regs.v := Vector.eq_of_regs rfl fun r _ => h.vRegs r (hW r)
theorem Touches.kRegs_eq (hW : ∀ r, RegName.k r ∉ W) : t.ctx.regs.k = s.ctx.regs.k := Vector.eq_of_regs rfl fun r _ => h.kRegs r (hW r)
theorem Touches.mpRegs_eq (hW : ∀ r, RegName.mp r ∉ W) : t.ctx.regs.mp = s.ctx.regs.mp :=
  Vector.eq_of_regs rfl fun r _ => h.mpRegs r (hW r)
theorem Touches.pRegs_eq (hW : ∀ r, RegName.p r ∉ W) : t.ctx.regs.p = s.ctx.regs.p := by
  apply BitVec.eq_of_getLsbD_eq
  intro i hi
  have hr : (BitVec.ofNat 3 i).toNat = i := by rw [BitVec.toNat_ofNat, Nat.mod_eq_of_lt (by omega)]
  simpa only [hr] using h.pRegs (BitVec.ofNat 3 i) (hW _)

end

end Sys2Proof.Machine

namespace Sys2Proof
open Machine Claims

/-- Settles O11: each A operation keeps the frame of its destinations (`exec_frames_scalar`), among which are no v, k or mask ones. -/
theorem scalarFrame : Obligations.ScalarFrame := by
  intro i s t hi he
  obtain ⟨hframes, hscalar⟩ := exec_frames_scalar hi s
  have h := hframes t he
  have hno : ∀ x : RegName, x.scalar = false → (∀ n, x ≠ .sys n) → x ∉ scalarDests i := fun x hx hsys hmem => by
    rcases mem_scalarDests hmem with hmem | ⟨_, _, n, -, rfl⟩
    · rw [List.all_eq_true.mp hscalar x hmem] at hx
      cases hx
    · exact hsys n rfl
  have hdest : ∀ x : RegName, x ∉ opWrites i → (∀ n, x ≠ .sys n) → x ∉ scalarDests i := fun x hx hsys hmem => by
    rcases mem_scalarDests hmem with hmem | ⟨_, _, n, -, rfl⟩
    · exact hx hmem
    · exact hsys n rfl
  have hv : ∀ r, RegName.v r ∉ scalarDests i := fun r => hno _ rfl nofun
  obtain ⟨hmstk, hmdep⟩ := h.mask (hno _ rfl nofun)
  refine ⟨?_, fun r hr => h.sRegs r (hdest _ hr nofun), fun r hr => h.pRegs r (hdest _ hr nofun),
    fun r hr => h.mpRegs r (hdest _ hr nofun), fun hne => h.sys fun n hn => ?_, h.sameMemory⟩
  · refine h.rest.trans ?_
    simp only [State.overlay, h.vRegs_eq hv, h.kRegs_eq (fun r => hno _ rfl nofun), hmstk, hmdep, h.shadow hv]
  · rcases mem_scalarDests hn with hmem | ⟨q, a, m, hi', -⟩
    · cases List.all_eq_true.mp hscalar _ hmem
    · exact hne q a m hi'

end Sys2Proof

/-! PROOFS. What an operation of the V slot changes. -/
namespace Sys2Proof.Machine
open Claims

/-! ### The V slot -/

/-- The registers that the scoreboard has a V operation write: v, k and s registers. -/
def RegName.vectorial : RegName → Bool
  | .v _ | .k _ | .s _ => true
  | _ => false

/-- The scoreboard's destinations of a V operation, with the mask stack for its own three instructions. -/
def vectorDests (i : Instr) : List RegName := if isMaskOp i then .mask :: opWrites i else opWrites i

/-! The types that a well-formed operation of the V slot may name: a 64-bit one takes a pair. -/

theorem and_left {a b : Bool} (h : (a && b) = true) : a = true := (Bool.and_eq_true a b ▸ h).1

theorem wide_of_ne_fp64 {t : Ty} : (t != 15) = true → tyBits t = 64 → wideTy t = true := by revert t; decide
theorem wide_of_intTy {t : Ty} : intTy t = true → tyBits t = 64 → wideTy t = true := by revert t; decide
theorem wide_of_intTy_or_fpTy {t : Ty} : (intTy t || fpTy t) = true → tyBits t = 64 → wideTy t = true := by revert t; decide
theorem wide_of_le_3 {t : Ty} : decide (t.toNat ≤ 3) = true → tyBits t = 64 → wideTy t = true := by revert t; decide
theorem wide_of_le_13 {t : Ty} : decide (t.toNat ≤ 13) = true → tyBits t = 64 → wideTy t = true := by revert t; decide
theorem tyBits_of_fpTy {t : Ty} : fpTy t = true → tyBits t ≠ 64 := by revert t; decide
theorem tyBits_of_fpTy_or_fp8 {t : Ty} : (fpTy t || t == 8 || t == 9) = true → tyBits t ≠ 64 := by revert t; decide
theorem tyBits_of_codeTy {t : Ty} : codeTy t = true → tyBits t ≠ 64 := by revert t; decide
theorem tyBits_of_narrowTy {t : Ty} : narrowTy t = true → tyBits t ≠ 64 ∧ 2 * tyBits t ≠ 64 := by revert t; decide

theorem holds_sel {t : Ty} (h : tyBits t = 64 → wideTy t = true) (d : VReg) :
    Holds (vPair (wideTy t) d) (if tyBits t = 64 then 64 else 32) d := by
  refine ⟨(holds_pair h d).1, fun hw => (holds_pair h d).2 ?_⟩
  by_contra hne
  rw [if_neg hne] at hw
  cases hw

/-- What each well-formed V operation may change (R36, R119 to R171), but for `vskip` and the moves to and from an accumulator. -/
theorem exec_frames_vector {i : Instr} (hi : i.slotOf = some .v) (hskip : ∀ q n, i ≠ .vSkip q n)
    (hrd : ∀ q d x b m, i ≠ .vAccrd q d x b m) (hwr : ∀ q d x b m, i ≠ .vAccwr q d x b m) (hwf : i.wf = true) (s : State) :
    Frames (vectorDests i) s (exec i s) := by
  cases i with
  | vAdd | vSub | vMul | vMin | vMax | vAnd | vOr | vXor | vAndn | vShl | vShr | vSar | vAddsat | vSubsat =>
    unfold exec
    exact .map2 (holds_pair (wide_of_intTy (and_left (and_left hwf))) _)
  | vMulh =>
    unfold exec
    exact .map2 (holds_pair (wide_of_intTy (and_left (and_left (and_left hwf)))) _)
  | vHashMix =>
    unfold exec
    exact .map2 (holds_pair (fun _ => and_left hwf) _)
  | vMad =>
    unfold exec
    exact .map3 (holds_pair (wide_of_intTy (and_left (and_left (and_left hwf)))) _)
  | vHashs =>
    unfold exec
    exact .map3 (holds_one (by decide) _)
  | vAbs | vNeg =>
    unfold exec
    exact .map1 (holds_pair (wide_of_le_3 (and_left hwf)) _)
  | vPopc | vClz =>
    unfold exec
    exact .map1 (holds_pair (wide_of_intTy (and_left hwf)) _)
  | vFclass =>
    unfold exec
    exact .map1 (holds_one (tyBits_of_fpTy hwf) _)
  | vFabs | vFneg =>
    unfold exec
    exact .map1 (holds_one (tyBits_of_fpTy_or_fp8 hwf) _)
  | vFadd | vFsub | vFmul | vFma | vFms | vFmin | vFmax =>
    unfold exec
    exact .fmap (holds_one (tyBits_of_fpTy (and_left hwf)) _)
  | vFrcp | vFrsq | vFexp2 | vFlog2 =>
    unfold exec
    exact .approxOp (holds_one (tyBits_of_fpTy hwf) _)
  | vScmp | vSfind =>
    unfold exec
    exact .stringOp
  | vLane =>
    apply Frames.under
    exact .putElems (holds_pair (wide_of_intTy (and_left hwf)) _) s _ _
  | vScan =>
    apply Frames.under
    exact .putElems (holds_pair (wide_of_intTy (and_left (and_left hwf))) _) s _ _
  | vRed =>
    apply Frames.under
    exact .writeElems (holds_pair (wide_of_intTy (and_left (and_left hwf))) _) s _
  | vBcast =>
    apply Frames.under
    exact .putElems (holds_pair (wide_of_intTy_or_fpTy (and_left (and_left hwf))) _) s _ _
  | vSel =>
    apply Frames.under
    exact .putElems (holds_sel (wide_of_intTy (and_left hwf)) _) s _ _
  | vPerm | vZip | vUnzip =>
    apply Frames.under
    exact .putElems (holds_pair (wide_of_le_13 (and_left hwf)) _) s _ _
  | vSlide | vRot =>
    apply Frames.under
    exact .putElems (holds_pair (wide_of_le_13 (and_left (and_left hwf))) _) s _ _
  | vCompress | vExpand =>
    apply Frames.under
    exact .writeElems (holds_pair (wide_of_le_13 (and_left hwf)) _) s _
  | vIns =>
    apply Frames.under
    dsimp only
    split
    · exact .writeElems (holds_pair (wide_of_le_13 (and_left hwf)) _) s _
    · exact .refl _ s
  | vMov | vHashCrc | vPart =>
    apply Frames.under
    exact .putElems (holds_one (by decide) _) s _ _
  | vPack =>
    apply Frames.under
    exact .putElems (holds_one (tyBits_of_narrowTy hwf).1 _) s _ _
  | vUnpack =>
    apply Frames.under
    have hw := (tyBits_of_narrowTy (and_left hwf)).2
    exact (Touches.putElems ⟨List.mem_cons_self, fun h => absurd h hw⟩ s _ _).trans
      (.writeElems ⟨List.mem_cons_of_mem _ List.mem_cons_self, fun h => absurd h hw⟩ _ _)
  | vQuant =>
    apply Frames.under
    exact .writeElems (holds_one (tyBits_of_codeTy hwf) _) s _
  | vCvt =>
    apply Frames.under
    dsimp only
    split
    · exact .raise (by simp [trapNonfinite]) s
    · exact .writeElems (holds_pair (wide_of_ne_fp64 (and_left (and_left (and_left (and_left hwf))))) _) s _
  | vDequant =>
    apply Frames.under
    exact .putF (holds_one (by decide) _) s _ _
  | vFscan =>
    apply Frames.under
    exact .putF (holds_one (tyBits_of_fpTy (and_left hwf)) _) s _ _
  | vFred =>
    apply Frames.under
    dsimp only
    split
    · exact .raise (by simp [trapNonfinite]) s
    · exact .writeElems (holds_one (tyBits_of_fpTy (and_left hwf)) _) s _
  | vCmp | vFcmp | vSmatch | vKmov | vKop =>
    apply Frames.under
    exact .writeK (List.mem_singleton_self _) s _
  | vKpopc =>
    apply Frames.under
    exact .writeS (List.mem_singleton_self _) s _
  | vPartCnt =>
    apply Frames.under
    exact (Touches.writeK (List.mem_cons_of_mem _ List.mem_cons_self) s _).trans (.writeS List.mem_cons_self _ _)
  | vExtr =>
    apply Frames.under
    dsimp only
    split
    · exact .writeS (List.mem_singleton_self _) s _
    · exact .writeS (List.mem_singleton_self _) s _
  | vMpush | vMinv | vMpop =>
    apply Frames.under
    dsimp only
    split
    · exact .raise (by simp [trapMaskStack]) s
    · exact .writeMask List.mem_cons_self s _ _
  | vSkip => exact absurd rfl (hskip _ _)
  | vAccrd => exact absurd rfl (hrd _ _ _ _ _)
  | vAccwr => exact absurd rfl (hwr _ _ _ _ _)
  | _ => cases hi

theorem vectorial_of_mem_vPair {wide : Bool} {d : VReg} {x : RegName} (h : x ∈ vPair wide d) : x.vectorial = true := by
  unfold vPair at h
  split at h
  all_goals
    simp only [List.mem_cons, List.not_mem_nil, or_false] at h
    rcases h with rfl | rfl <;> rfl

theorem vectorial_of_mem_opWrites {i : Instr} (hi : i.slotOf = some .v) {x : RegName} (hx : x ∈ opWrites i) : x.vectorial = true := by
  cases i with
  | vAdd | vSub | vMul | vMulh | vMad | vAbs | vNeg | vMin | vMax | vAnd | vOr | vXor | vAndn | vShl | vShr | vSar | vSel | vBcast | vPopc
  | vClz | vAddsat | vSubsat | vLane | vCvt | vRed | vScan | vPerm | vSlide | vRot | vCompress | vExpand | vZip | vUnzip | vIns
  | vHashMix => exact vectorial_of_mem_vPair hx
  | vCmp | vMov | vFadd | vFsub | vFmul | vFma | vFms | vFmin | vFmax | vFrcp | vFrsq | vFexp2 | vFlog2 | vFcmp | vFclass | vFabs | vFneg
  | vQuant | vDequant | vPack | vUnpack | vFred | vFscan | vExtr | vMpush | vMinv | vMpop | vKmov | vKop | vKpopc | vSkip | vHashCrc
  | vHashs | vPart | vPartCnt | vScmp | vSfind | vSmatch | vAccrd | vAccwr =>
    exact List.all_eq_true.mp (rfl : (opWrites _).all RegName.vectorial = true) x hx
  | _ => cases hi

theorem mem_vectorDests {i : Instr} {x : RegName} (h : x ∈ vectorDests i) :
    x ∈ opWrites i ∨ isMaskOp i = true ∧ x = .mask := by
  unfold vectorDests at h
  split at h
  · next hm => exact (List.mem_cons.mp h).elim (fun hx => .inr ⟨hm, hx⟩) .inl
  · exact .inl h

theorem isMaskOp_cases {i : Instr} (h : isMaskOp i = true) : (∃ q k, i = .vMpush q k) ∨ (∃ q, i = .vMinv q) ∨ ∃ q, i = .vMpop q := by
  cases i with
  | vMpush q k => exact .inl ⟨q, k, rfl⟩
  | vMinv q => exact .inr (.inl ⟨q, rfl⟩)
  | vMpop q => exact .inr (.inr ⟨q, rfl⟩)
  | _ => cases h

/-- What O18 says, of the operations that a word decodes to: those whose fields hold codes their rows allow. -/
theorem vectorFrame_of_wf {i : Instr} {s t : State} (hi : i.slotOf = some .v) (hskip : ∀ q n, i ≠ .vSkip q n)
    (hrd : ∀ q d x b m, i ≠ .vAccrd q d x b m) (hwr : ∀ q d x b m, i ≠ .vAccwr q d x b m) (hwf : i.wf = true)
    (he : exec i s = .next t) :
    t = { s with ctx := { s.ctx with
      regs := { s.ctx.regs with v := t.ctx.regs.v, k := t.ctx.regs.k, s := t.ctx.regs.s, mstk := t.ctx.regs.mstk, mdep := t.ctx.regs.mdep }
      shadow := t.ctx.shadow
      saved := t.ctx.saved
      trap := t.ctx.trap } } ∧
    (∀ r : VReg, RegName.v r ∉ opWrites i → t.ctx.regs.v[r.toNat]'r.isLt = s.ctx.regs.v[r.toNat]'r.isLt) ∧
    (∀ r : KReg, RegName.k r ∉ opWrites i → t.ctx.regs.k[r.toNat]'r.isLt = s.ctx.regs.k[r.toNat]'r.isLt) ∧
    (∀ r : SReg, RegName.s r ∉ opWrites i → t.ctx.regs.s[r.toNat]'r.isLt = s.ctx.regs.s[r.toNat]'r.isLt) ∧
    ((∀ q k, i ≠ .vMpush q k) → (∀ q, i ≠ .vMinv q) → (∀ q, i ≠ .vMpop q) →
      t.ctx.regs.mstk = s.ctx.regs.mstk ∧ t.ctx.regs.mdep = s.ctx.regs.mdep) ∧
    SameMemory s t := by
  have h := exec_frames_vector hi hskip hrd hwr hwf s t he
  have hdest : ∀ x : RegName, x ∉ opWrites i → x ≠ .mask → x ∉ vectorDests i := fun x hx hmask hmem =>
    (mem_vectorDests hmem).elim hx fun hm => hmask hm.2
  have hno : ∀ x : RegName, x.vectorial = false → x ≠ .mask → x ∉ vectorDests i := fun x hx =>
    hdest x fun hmem => by
      rw [vectorial_of_mem_opWrites hi hmem] at hx
      cases hx
  obtain ⟨hfpctl, hracectl, hseed, hwaitlimit⟩ := h.sys fun n => hno _ rfl nofun
  refine ⟨?_, fun r hr => h.vRegs r (hdest _ hr nofun), fun r hr => h.kRegs r (hdest _ hr nofun),
    fun r hr => h.sRegs r (hdest _ hr nofun), fun hpush hinv hpop => h.mask fun hmem => ?_, h.sameMemory⟩
  · refine h.rest.trans ?_
    simp only [State.overlay, h.pRegs_eq (fun r => hno _ rfl nofun), h.mpRegs_eq (fun r => hno _ rfl nofun), hfpctl, hracectl, hseed,
      hwaitlimit]
  · rcases mem_vectorDests hmem with hmem | ⟨hm, -⟩
    · cases vectorial_of_mem_opWrites hi hmem
    · rcases isMaskOp_cases hm with ⟨q, k, rfl⟩ | ⟨q, rfl⟩ | ⟨q, rfl⟩
      · exact hpush q k rfl
      · exact hinv q rfl
      · exact hpop q rfl

/-! ### The clause of O18 that fails -/

/-- `vfneg` of fp64 elements, which no word decodes to (`Instr.wf`, Table 3.14): it writes the pair v0, v1. -/
def negPair : Instr := .vFneg ⟨false, 0⟩ 0 0 15 0

/-- The sign bits of its elements stand in the upper register of the pair. -/
theorem negPair_writes_v1 : (stateOf .reset (exec negPair .reset)).ctx.regs.v[1] ≠ State.reset.ctx.regs.v[1] := by decide +kernel

end Sys2Proof.Machine

namespace Sys2Proof
open Machine

/-- Refutes O18: the statement is of every `Instr`, and an operation on 64-bit elements that the decoder refuses writes the register above
its destination, which the scoreboard does not name. Of well-formed operations it holds: `vectorFrame_of_wf`. -/
theorem not_vectorFrame : ¬ Obligations.VectorFrame := by
  intro h
  obtain ⟨-, hv, -⟩ := h negPair .reset _ rfl nofun nofun nofun rfl
  exact negPair_writes_v1 (hv 1 (by decide))

end Sys2Proof

/-! PROOFS. Answers to remote writes, and a write that performs at its core (R44, R45, R274 to R277). -/
namespace Sys2Proof.Machine
open Claims

/-! ### Answers (R44, R45) -/

/-- A transaction that goes out over a link changes nothing of the package but the link. -/
theorem Package.sendOn_eq (k : Package) (clock i n stamp : Nat) :
    k.sendOn clock i n stamp = { k with links := (k.sendOn clock i n stamp).links } := by
  unfold Package.sendOn
  dsimp only
  split <;> rfl

theorem State.answer_eq (s : State) (a : RemoteAck) : s.answer a = { s with pkg := { s.pkg with
    acks := if a.pkg = s.pkg.num then s.pkg.acks ++ [a] else s.pkg.acks
    answers := if a.pkg = s.pkg.num then s.pkg.answers else s.pkg.answers ++ [a]
    links := (s.answer a).pkg.links } } := by
  unfold State.answer
  split
  · rfl
  · exact congrArg (fun k => ({ s with pkg := k } : State)) (Package.sendOn_eq ..)

@[simp] theorem State.answer_ctx (s : State) (a : RemoteAck) : (s.answer a).ctx = s.ctx := by rw [State.answer_eq]
@[simp] theorem State.answer_core (s : State) (a : RemoteAck) : (s.answer a).core = s.core := by rw [State.answer_eq]
@[simp] theorem State.answer_coreNum (s : State) (a : RemoteAck) : (s.answer a).coreNum = s.coreNum := by rw [State.answer_eq]
@[simp] theorem State.answer_slotNum (s : State) (a : RemoteAck) : (s.answer a).slotNum = s.slotNum := by rw [State.answer_eq]
@[simp] theorem State.answer_wire (s : State) (a : RemoteAck) : (s.answer a).pkg.wire = s.pkg.wire := by rw [State.answer_eq]
@[simp] theorem State.answer_logs (s : State) (a : RemoteAck) : (s.answer a).pkg.logs = s.pkg.logs := by rw [State.answer_eq]
@[simp] theorem State.answer_requests (s : State) (a : RemoteAck) : (s.answer a).pkg.requests = s.pkg.requests := by rw [State.answer_eq]

/-- An answer reaches the sender as seen from before, when what went before left the answers alone. -/
theorem answeredTo_answer {s t : State} (a : RemoteAck) (hnum : t.pkg.num = s.pkg.num) (hacks : t.pkg.acks = s.pkg.acks)
    (hans : t.pkg.answers = s.pkg.answers) : AnsweredTo s (t.answer a) a := by
  unfold AnsweredTo
  rw [State.answer_eq]
  dsimp only
  rw [hnum, hacks, hans]
  split <;> exact ⟨rfl, rfl⟩

theorem State.acceptWrite_posted {s : State} {w : RemoteWrite} (h : w.posted = true) : s.acceptWrite w = s.answerWrite w .accepted :=
  if_pos h

@[simp] theorem State.acceptWrite_ctx (s : State) (w : RemoteWrite) : (s.acceptWrite w).ctx = s.ctx := by
  unfold State.acceptWrite State.answerWrite
  split <;> simp
@[simp] theorem State.acceptWrite_core (s : State) (w : RemoteWrite) : (s.acceptWrite w).core = s.core := by
  unfold State.acceptWrite State.answerWrite
  split <;> simp
@[simp] theorem State.acceptWrite_coreNum (s : State) (w : RemoteWrite) : (s.acceptWrite w).coreNum = s.coreNum := by
  unfold State.acceptWrite State.answerWrite
  split <;> simp
@[simp] theorem State.acceptWrite_slotNum (s : State) (w : RemoteWrite) : (s.acceptWrite w).slotNum = s.slotNum := by
  unfold State.acceptWrite State.answerWrite
  split <;> simp
@[simp] theorem State.acceptWrite_logs (s : State) (w : RemoteWrite) : (s.acceptWrite w).pkg.logs = s.pkg.logs := by
  unfold State.acceptWrite State.answerWrite
  split <;> simp

/-! ### What a write notes beside its bytes -/

/-- `s` with the notes that writes leave taken from `t`: the bytes replaced (R249), the releases of words (R242) and the shadow state
(R260). -/
def State.withNotes (s t : State) : State :=
  { s with
    core := { s.core with rel := t.core.rel, race := t.core.race }
    pkg := { s.pkg with hist := t.pkg.hist, rel := t.pkg.rel, race := t.pkg.race } }

/-- Only such notes differ. -/
def NotesOnly (s t : State) : Prop := t = s.withNotes t

theorem NotesOnly.refl (s : State) : NotesOnly s s := rfl

theorem NotesOnly.trans {s t u : State} (h : NotesOnly s t) (h' : NotesOnly t u) : NotesOnly s u := by
  unfold NotesOnly at *
  rw [h] at h'
  exact h'

theorem NotesOnly.foldl {α : Type} {f : State → α → State} {l : List α} (hf : ∀ s, ∀ x ∈ l, NotesOnly s (f s x)) :
    ∀ s, NotesOnly s (l.foldl f s) := by
  induction l with
  | nil => exact fun s => .refl s
  | cons x l ih =>
    exact fun s => (hf s x List.mem_cons_self).trans (ih (fun t y hy => hf t y (List.mem_cons_of_mem _ hy)) _)

/-- A place of the scratchpad of the core in focus or of HBM. -/
def ofCoreOrHbm : Place → Bool
  | .sram _ | .hbm _ => true
  | _ => false

theorem ofCoreOrHbm_of_mem_sram {p : Place} {l : List Nat} (h : p ∈ l.map Place.sram) : ofCoreOrHbm p = true := by
  obtain ⟨x, -, rfl⟩ := List.mem_map.mp h
  rfl

theorem ofCoreOrHbm_of_mem_hbm {p : Place} {l : List Nat} (h : p ∈ l.map Place.hbm) : ofCoreOrHbm p = true := by
  obtain ⟨x, -, rfl⟩ := List.mem_map.mp h
  rfl

theorem State.keepOld_eq (s : State) (who : Option Agent) (cells : List (Place × Option Byte)) :
    s.keepOld who cells = { s with pkg := { s.pkg with hist := (s.keepOld who cells).pkg.hist } } := by
  unfold State.keepOld
  dsimp only
  split <;> rfl

theorem notesOnly_keepOld (s : State) (who : Option Agent) (cells : List (Place × Option Byte)) : NotesOnly s (s.keepOld who cells) := by
  unfold NotesOnly
  rw [State.keepOld_eq]
  rfl

theorem notesOnly_setRel {ps : List Place} (hps : ∀ p ∈ ps, ofCoreOrHbm p = true) (s : State) (r : Option RelRec) :
    NotesOnly s (s.setRel ps r) := by
  refine NotesOnly.foldl (fun s p hp => ?_) s
  cases p with
  | sram | hbm => rfl
  | _ => cases hps _ hp

theorem notesOnly_raceNote {ps : List Place} (hps : ∀ p ∈ ps, ofCoreOrHbm p = true) (s : State) (r : RaceRec) :
    NotesOnly s (s.raceNote ps r) := by
  refine NotesOnly.foldl (fun s p hp => ?_) s
  cases p with
  | sram | hbm => rfl
  | _ => cases hps _ hp

theorem notesOnly_raceWrite {ps : List Place} (hps : ∀ p ∈ ps, ofCoreOrHbm p = true) (s : State) (mine : Bool) :
    NotesOnly s (s.raceWrite ps mine) := notesOnly_raceNote hps s _

/-! ### A write performs at the core in focus (R44, R274 to R277) -/

/-- What is left of a state by a write that performs at its core. -/
structure PerformedHere (s t : State) (w : RemoteWrite) : Prop where
  performed : Performed s t w
  recvq : t.core.recvq = s.core.recvq
  ctx : t.ctx = s.ctx
  coreNum : t.coreNum = s.coreNum
  slotNum : t.slotNum = s.slotNum
  num : t.pkg.num = s.pkg.num
  wire : t.pkg.wire = s.pkg.wire
  acks : t.pkg.acks = s.pkg.acks
  answers : t.pkg.answers = s.pkg.answers

/-- A write's change of the core's bytes and full words, by its kind. -/
def CoreSt.written (c : CoreSt) (w : RemoteWrite) : CoreSt :=
  match w.kind with
  | .store | .count => c.putCells w.addr w.data
  | .ste | .stf => (c.putCells w.addr w.data).setFull w.addr w.data.length
  | .fset => c.setFull w.addr w.data.length
  | .fclr => c.setEmpty w.addr w.data.length

theorem CoreSt.written_notes (c : CoreSt) (w : RemoteWrite) (rel : List (Nat × RelRec)) (race : List (Nat × RaceRec)) :
    ({ c with rel := rel, race := race } : CoreSt).written w = { c.written w with rel := rel, race := race } := by
  unfold CoreSt.written
  cases w.kind <;> rfl

theorem NotesOnly.written {s t : State} (h : NotesOnly s t) (w : RemoteWrite) :
    NotesOnly (s.mapCore fun c => c.written w) (t.mapCore fun c => c.written w) := by
  unfold NotesOnly at *
  rw [h]
  simp only [State.mapCore, State.withNotes, CoreSt.written_notes]

/-- A write at the core in focus changes its core so, and beside that leaves notes. -/
theorem performWrite_notesOnly (s : State) (w : RemoteWrite) : NotesOnly (s.mapCore fun c => c.written w) (s.performWrite w) := by
  have hps : ∀ p ∈ (natRange w.addr w.data.length).map Place.sram, ofCoreOrHbm p = true := fun p hp => ofCoreOrHbm_of_mem_sram hp
  have hqs : ∀ p ∈ ((((natRange w.addr w.data.length).map Place.sram).zip w.data).filter fun c => c.2.isSome).map (·.1),
      ofCoreOrHbm p = true := fun p hp => by
    obtain ⟨c, hc, rfl⟩ := List.mem_map.mp hp
    exact hps _ (List.of_mem_zip (List.mem_of_mem_filter hc)).1
  have hold := notesOnly_keepOld s (some (writeAgent w)) (((natRange w.addr w.data.length).map Place.sram).zip w.data)
  unfold State.performWrite
  cases hk : w.kind
  case store =>
    have h := fun r q => ((hold.trans (notesOnly_raceNote hqs _ r)).trans (notesOnly_setRel hqs _ q)).written w
    simp only [CoreSt.written, hk] at h ⊢
    exact h _ _
  case count =>
    have h := fun r q => ((hold.trans (notesOnly_raceNote hqs _ r)).trans (notesOnly_setRel hqs _ q)).written w
    simp only [CoreSt.written, hk] at h ⊢
    simp only [beq_self_eq_true, if_true]
    rcases w.shadow with - | ⟨i, l, p⟩
    · exact h _ _
    · exact (h _ _).trans (notesOnly_setRel hps _ _)
  case ste | stf =>
    have h := fun t ht => (hold.trans (u := t) ht).written w
    simp only [CoreSt.written, hk] at h ⊢
    rcases w.shadow with - | ⟨i, l, p⟩
    · exact h _ (.refl _)
    · exact h _ (notesOnly_setRel hps _ _)
  case fset | fclr =>
    have h := hold.written w
    simp only [CoreSt.written, hk] at h ⊢
    exact h

theorem performedHere_performWrite (s : State) (w : RemoteWrite) : PerformedHere s (s.performWrite w) w := by
  have h := performWrite_notesOnly s w
  generalize s.performWrite w = t at h
  unfold NotesOnly at h
  have hcore : t.core = { s.core.written w with rel := t.core.rel, race := t.core.race } := congrArg State.core h
  have hpkg : t.pkg = { s.pkg with hist := t.pkg.hist, rel := t.pkg.rel, race := t.pkg.race } := congrArg State.pkg h
  have hram : t.core.ram = (s.core.written w).ram := (congrArg CoreSt.ram hcore).trans rfl
  have hfull : t.core.full = (s.core.written w).full := (congrArg CoreSt.full hcore).trans rfl
  exact {
    performed := by
      unfold Performed
      rw [hram, hfull]
      unfold CoreSt.written
      refine ⟨fun hk => ?_, fun hk => ?_, fun hk => ?_, fun hk => ?_⟩
      · simp only [hk, CoreSt.putCells, and_self]
      · rcases hk with hk | hk <;> simp only [hk, CoreSt.putCells, CoreSt.setFull, and_self]
      · simp only [hk, CoreSt.setFull, and_self]
      · simp only [hk, CoreSt.setEmpty, and_self]
    recvq := (congrArg CoreSt.recvq hcore).trans (by unfold CoreSt.written; cases w.kind <;> rfl)
    ctx := (congrArg State.ctx h).trans rfl
    coreNum := (congrArg State.coreNum h).trans rfl
    slotNum := (congrArg State.slotNum h).trans rfl
    num := (congrArg Package.num hpkg).trans rfl
    wire := (congrArg Package.wire hpkg).trans rfl
    acks := (congrArg Package.acks hpkg).trans rfl
    answers := (congrArg Package.answers hpkg).trans rfl }

end Sys2Proof.Machine

/-! PROOFS. A remote write at the context it is for (R44, R46, R369, R388). -/
namespace Sys2Proof.Machine
open Claims

/-! ### A write at its target (R44, R46, R369, R388, R416) -/

theorem focus_of_eq {s : State} {c : BitVec 7} {sl : Bool} (hc : s.coreNum = c) (hsl : s.slotNum = sl) : s.focus c sl = s := by
  rw [← hc, ← hsl, State.focus_self]

theorem opened_iff_readAs {s : State} {w v : RemoteWrite} : s.opened s.ctx.conf s.winKey w = some v ↔ ReadAs s w v := by
  unfold State.opened ReadAs
  rcases hc : w.cipher with - | c
  · by_cases hp : w.pkg = s.pkg.num
    · simp [hp, eq_comm (a := v)]
    · cases s.ctx.conf <;> simp [hp, eq_comm (a := v)]
  · cases s.ctx.conf
    · simp
    · rcases hd : linkOpen s.winKey c with - | d
      · simp [hd]
      · by_cases hlen : d.length = w.data.length <;> simp [hd, hlen, eq_comm (a := v)]

/-- What a target reads differs from what was sent in its data alone, and not in their length. -/
theorem readAs_eq_with_data {s : State} {w v : RemoteWrite} (h : ReadAs s w v) :
    ∃ d c, d.length = w.data.length ∧ v = { w with data := d, cipher := c } := by
  obtain ⟨-, -, rfl⟩ | ⟨-, c, d, -, -, hlen, rfl⟩ := h
  · exact ⟨v.data, v.cipher, rfl, rfl⟩
  · exact ⟨_, none, by simp [hlen], rfl⟩

theorem sameStream_of_readAs {s : State} {w v : RemoteWrite} (h : ReadAs s w v) : sameStream v = sameStream w := by
  obtain ⟨d, c, -, rfl⟩ := readAs_eq_with_data h
  rfl

theorem writable_of_readAs {s : State} {w v : RemoteWrite} (h : ReadAs s w v) : s.core.writable v = s.core.writable w := by
  obtain ⟨d, c, hlen, rfl⟩ := readAs_eq_with_data h
  unfold CoreSt.writable
  rw [hlen]

/-- A write's target core is one of its sender's partition. -/
def State.MineAt (s : State) (w : RemoteWrite) : Prop := (s.corePart w.target).map (fun d : PartDesc => d.pid) = some w.pid

/-- A write is for the context in focus. -/
def State.IsFor (s : State) (w : RemoteWrite) : Prop :=
  s.MineAt w ∧ s.findCrew w.target w.pid w.crew w.launch = some s.slotNum ∧ w.target = s.coreNum

theorem State.arrive_of_otherPartition {s : State} {w : RemoteWrite}
    (h : ¬ s.MineAt w) : s.arrive w = .taken (s.answerWrite w .bound) := by
  unfold State.MineAt at h
  unfold State.arrive
  rw [if_pos (by simpa using h)]

theorem State.arrive_of_resident {s : State} {w : RemoteWrite} (h : s.IsFor w) :
    s.arrive w = match s.opened s.ctx.conf s.winKey w with
      | none => .taken (s.answerWrite w .bound)
      | some v => match s.writeHere v with
        | .taken t => .taken (t.focus s.coreNum s.slotNum)
        | .refused => .refused := by
  obtain ⟨hmine, hcrew, hcore⟩ := h
  unfold State.MineAt at hmine
  unfold State.arrive
  rw [if_neg (by simpa using hmine), hcrew]
  dsimp only
  rw [hcore, State.focus_self] <;> rfl

/-- Where a write lies within its window and its target context's bounds (R44). -/
def State.inside (s : State) (w : RemoteWrite) : Prop := w.addr + w.data.length ≤ w.limit ∧ s.ctx.targetOk w.addr w.data.length = true

theorem State.writeHere_of_not_inside {s : State} {w : RemoteWrite} (h : ¬ s.inside w) : s.writeHere w = .taken (s.answerWrite w .bound) := by
  unfold State.writeHere
  rw [if_pos]
  unfold State.inside at h
  simpa [imp_iff_not_or] using h

theorem State.writeHere_of_inside {s : State} {w : RemoteWrite} (h : s.inside w) :
    s.writeHere w = if !s.spOwned w.addr w.data.length then .refused else s.takeWrite w := by
  unfold State.writeHere
  rw [if_neg]
  unfold State.inside at h
  simpa using h

theorem State.takeWrite_of_full {s : State} {w : RemoteWrite} (h : 256 ≤ s.core.recvq.length) : s.takeWrite w = .refused := if_pos h

theorem State.takeWrite_of_behind {s : State} {w : RemoteWrite} (hroom : s.core.recvq.length < 256)
    (h : s.core.recvq.any (sameStream w) = true ∨ s.core.writable w = false) : s.takeWrite w =
      .taken ((s.mapCore fun c => { c with recvq := c.recvq ++ [{ w with into := some s.ctx.info.launchId }] }).acceptWrite w) := by
  unfold State.takeWrite
  rw [if_neg (by omega), if_pos (by simpa using h)]

theorem State.takeWrite_of_free {s : State} {w : RemoteWrite} (hroom : s.core.recvq.length < 256)
    (h : ¬ (s.core.recvq.any (sameStream w) = true ∨ s.core.writable w = false)) :
    s.takeWrite w = .taken ((s.performWrite w).acceptWrite w) := by
  unfold State.takeWrite
  rw [if_neg (by omega), if_neg (by simpa using h)]

theorem arrive_of_inside {s : State} {w v : RemoteWrite} (hfor : s.IsFor w) (hread : ReadAs s w v) (hin : s.inside w) :
    s.arrive w = if !s.spOwned w.addr w.data.length then .refused else
    match s.takeWrite v with
    | .taken t => .taken (t.focus s.coreNum s.slotNum)
    | .refused => .refused := by
  obtain ⟨d, c, hlen, rfl⟩ := readAs_eq_with_data hread
  rw [State.arrive_of_resident hfor, opened_iff_readAs.mpr hread]
  dsimp only
  rw [State.writeHere_of_inside (by simpa only [State.inside, hlen] using hin)]
  dsimp only
  rw [hlen]
  cases s.spOwned w.addr w.data.length <;> rfl

/-- What a write's sender is told of it. -/
def ackOf (w : RemoteWrite) (k : AckKind) : RemoteAck := ⟨w.pkg, w.core, w.slot, w.window, w.launch, k, w.src, none⟩

theorem answeredTo_answerWrite {s t : State} (w : RemoteWrite) (k : AckKind) (hnum : t.pkg.num = s.pkg.num)
    (hacks : t.pkg.acks = s.pkg.acks) (hans : t.pkg.answers = s.pkg.answers) : AnsweredTo s (t.answerWrite w k) (ackOf w k) :=
  answeredTo_answer _ hnum hacks hans

theorem answeredTo_acceptWrite {s t : State} {w : RemoteWrite} (hnum : t.pkg.num = s.pkg.num)
    (hacks : t.pkg.acks = s.pkg.acks) (hans : t.pkg.answers = s.pkg.answers) (hp : w.posted = true) :
    AnsweredTo s (t.acceptWrite w) (ackOf w .accepted) := by
  rw [State.acceptWrite_posted hp]
  exact answeredTo_answerWrite w .accepted hnum hacks hans

/-- The act takes a write off the wire, or in, as `arrive` has it. -/
theorem exec_remoteWriteArrival {s : State} {w : RemoteWrite} (ha : s.arg.write = some w) :
    exec .evRemoteWriteArrival s = .next (s.arriveWire w) := by
  show execEvRemoteWriteArrival s = _
  unfold execEvRemoteWriteArrival
  rw [ha]

theorem exec_arrival_of_taken {s t : State} {w : RemoteWrite} (ha : s.arg.write = some w) (hw : s.onWire w = false)
    (h : s.arrive w = .taken t) : exec .evRemoteWriteArrival s = .next t := by
  rw [exec_remoteWriteArrival ha]
  unfold State.arriveWire
  rw [hw, h]
  rfl

theorem exec_arrival_of_refused {s : State} {w : RemoteWrite} (ha : s.arg.write = some w) (hw : s.onWire w = false)
    (h : s.arrive w = .refused) : exec .evRemoteWriteArrival s = .next s := by
  rw [exec_remoteWriteArrival ha]
  unfold State.arriveWire
  rw [hw, h]
  rfl

section
variable {s : State} {w v : RemoteWrite} (ha : s.arg.write = some w) (hw : s.onWire w = false)
include ha hw

/-- A write discarded with REMOTE_BOUND. -/
theorem arrival_bound (h : s.arrive w = .taken (s.answerWrite w .bound)) : ∃ t, exec .evRemoteWriteArrival s = .next t ∧
    AnsweredTo s t (ackOf w .bound) ∧ t.core = s.core ∧ t.ctx = s.ctx :=
  ⟨_, exec_arrival_of_taken ha hw h, answeredTo_answerWrite w .bound rfl rfl rfl, State.answer_core .., State.answer_ctx ..⟩

theorem arrival_unreadable (hfor : s.IsFor w) (hread : ∀ v, ¬ ReadAs s w v) : ∃ t, exec .evRemoteWriteArrival s = .next t ∧
    AnsweredTo s t (ackOf w .bound) ∧ t.core = s.core ∧ t.ctx = s.ctx := by
  refine arrival_bound ha hw ?_
  have hnone : s.opened s.ctx.conf s.winKey w = none :=
    Option.eq_none_iff_forall_ne_some.mpr fun v hv => hread v (opened_iff_readAs.mp hv)
  rw [State.arrive_of_resident hfor, hnone]

variable (hfor : s.IsFor w) (hread : ReadAs s w v)
include hfor hread

theorem arrival_outside (hin : ¬ s.inside w) : ∃ t, exec .evRemoteWriteArrival s = .next t ∧
    AnsweredTo s t (ackOf w .bound) ∧ t.core = s.core ∧ t.ctx = s.ctx := by
  obtain ⟨d, c, hlen, rfl⟩ := readAs_eq_with_data hread
  refine arrival_bound ha hw ?_
  rw [State.arrive_of_resident hfor, opened_iff_readAs.mpr hread]
  dsimp only
  rw [State.writeHere_of_not_inside (by simpa only [State.inside, hlen] using hin)]
  dsimp only
  exact congrArg Arrival.taken (focus_of_eq (State.answer_coreNum ..) (State.answer_slotNum ..))

variable (hin : s.inside w)
include hin

theorem arrival_notOwned (hown : s.spOwned w.addr w.data.length = false) : exec .evRemoteWriteArrival s = .next s := by
  refine exec_arrival_of_refused ha hw ?_
  rw [arrive_of_inside hfor hread hin, hown]
  rfl

variable (hown : s.spOwned w.addr w.data.length = true)
include hown

theorem arrival_full (hroom : 256 ≤ s.core.recvq.length) : exec .evRemoteWriteArrival s = .next s := by
  refine exec_arrival_of_refused ha hw ?_
  rw [arrive_of_inside hfor hread hin, hown, State.takeWrite_of_full hroom]
  rfl

/-- A write that its target takes leaves the state that the taking leaves. -/
theorem arrival_takes {t : State} (htake : s.takeWrite v = .taken (t.acceptWrite v)) (hc : t.coreNum = s.coreNum)
    (hsl : t.slotNum = s.slotNum) (hnum : t.pkg.num = s.pkg.num) (hacks : t.pkg.acks = s.pkg.acks)
    (hans : t.pkg.answers = s.pkg.answers) : exec .evRemoteWriteArrival s = .next (t.acceptWrite w) ∧
      (w.posted = true → AnsweredTo s (t.acceptWrite w) (ackOf w .accepted)) := by
  refine ⟨exec_arrival_of_taken ha hw ?_, answeredTo_acceptWrite hnum hacks hans⟩
  rw [arrive_of_inside hfor hread hin, hown, htake]
  dsimp only
  rw [focus_of_eq ((State.acceptWrite_coreNum ..).trans hc) ((State.acceptWrite_slotNum ..).trans hsl)]
  obtain ⟨d, c, -, rfl⟩ := readAs_eq_with_data hread
  rfl

theorem arrival_performs (hroom : s.core.recvq.length < 256)
    (hfree : ¬ (s.core.recvq.any (sameStream w) = true ∨ s.core.writable w = false)) : ∃ t, exec .evRemoteWriteArrival s = .next t ∧
      Performed s t v ∧ t.core.recvq = s.core.recvq ∧ t.ctx = s.ctx ∧ (w.posted = true → AnsweredTo s t (ackOf w .accepted)) := by
  have hp := performedHere_performWrite s v
  rw [← sameStream_of_readAs hread, ← writable_of_readAs hread] at hfree
  obtain ⟨he, hack⟩ := arrival_takes ha hw hfor hread hin hown (State.takeWrite_of_free hroom hfree) hp.coreNum hp.slotNum hp.num
    hp.acks hp.answers
  refine ⟨_, he, ?_, ?_, ?_, hack⟩
  · simpa only [Performed, State.acceptWrite_core] using hp.performed
  · simpa only [State.acceptWrite_core] using hp.recvq
  · simpa only [State.acceptWrite_ctx] using hp.ctx

theorem arrival_queues (hroom : s.core.recvq.length < 256)
    (hbehind : s.core.recvq.any (sameStream w) = true ∨ s.core.writable w = false) : ∃ t, exec .evRemoteWriteArrival s = .next t ∧
      t.core = { s.core with recvq := s.core.recvq ++ [{ v with into := some s.ctx.info.launchId }] } ∧ t.ctx = s.ctx ∧
      (w.posted = true → AnsweredTo s t (ackOf w .accepted)) := by
  rw [← sameStream_of_readAs hread, ← writable_of_readAs hread] at hbehind
  obtain ⟨he, hack⟩ := arrival_takes ha hw hfor hread hin hown (State.takeWrite_of_behind hroom hbehind) rfl rfl rfl rfl rfl
  exact ⟨_, he, State.acceptWrite_core .., State.acceptWrite_ctx .., hack⟩

end

end Sys2Proof.Machine

/-! PROOFS. Homes and their copies (R233, R254), the arrival log (R416), writes on their way and the receive queue (R46). -/
namespace Sys2Proof.Machine
open Claims

/-! ### Writes at a home and the copies they give up (R233, R234, R254) -/

theorem NatSet.mem_add {l : NatSet} {n x : Nat} : x ∈ l.add n ↔ x = n ∨ x ∈ l := by
  induction l with
  | nil => simp [NatSet.add]
  | cons a l ih =>
    unfold NatSet.add
    split
    · simp
    · split
      · simp_all
      · simp only [List.mem_cons, ih]
        tauto

theorem NatSet.has_eq_false {l : NatSet} {n : Nat} : l.has n = false ↔ n ∉ l := by simp [NatSet.has]

theorem mem_sectorsOf_foldl {ps : List Place} {l : NatSet} {x : Nat} :
    x ∈ ps.foldl (fun l p => match p with | .hbm a => NatSet.add l (a / 64) | _ => l) l ↔
      x ∈ l ∨ ∃ a, Place.hbm a ∈ ps ∧ a / 64 = x := by
  induction ps generalizing l with
  | nil => simp
  | cons p ps ih =>
    rw [List.foldl_cons, ih]
    cases p with
    | hbm a =>
      simp only [NatSet.mem_add, List.mem_cons, Place.hbm.injEq]
      grind
    | _ => simp

theorem mem_sectorsOf {ps : List Place} {x : Nat} : x ∈ sectorsOf ps ↔ ∃ a, Place.hbm a ∈ ps ∧ a / 64 = x := by
  refine mem_sectorsOf_foldl.trans ?_
  simp

theorem takeLine_eq (k : Package) (sec : Nat) :
    takeLine k sec = { k with near := (takeLine k sec).near, lineVer := (takeLine k sec).lineVer } := by
  unfold takeLine
  split <;> rfl

theorem nearTake_eq (k : Package) (sec : Nat) :
    nearTake k sec = { k with near := (nearTake k sec).near, lineVer := (nearTake k sec).lineVer } := by
  unfold nearTake
  dsimp only
  split
  · rw [takeLine_eq]
  · rfl

theorem foldl_nearTake_eq (secs : NatSet) (k : Package) :
    secs.foldl nearTake k = { k with near := (secs.foldl nearTake k).near, lineVer := (secs.foldl nearTake k).lineVer } := by
  induction secs generalizing k with
  | nil => rfl
  | cons x secs ih =>
    rw [List.foldl_cons, ih, nearTake_eq]

theorem mem_near_takeLine {k : Package} {sec : Nat} {n : NearSector} (h : n ∈ (takeLine k sec).near) :
    ∃ m ∈ k.near, m.sector = n.sector := by
  unfold takeLine at h
  split at h
  · obtain ⟨m, hm, rfl⟩ := List.mem_map.mp h
    refine ⟨m, hm, ?_⟩
    split <;> rfl
  · exact ⟨n, h, rfl⟩

theorem mem_near_nearTake {k : Package} {sec : Nat} {n : NearSector} (h : n ∈ (nearTake k sec).near) :
    n.sector ≠ sec ∧ ∃ m ∈ k.near, m.sector = n.sector := by
  unfold nearTake at h
  obtain ⟨hn, hne⟩ := List.mem_filter.mp h
  refine ⟨by simpa using hne, ?_⟩
  split at hn
  · exact mem_near_takeLine hn
  · exact ⟨n, hn, rfl⟩

/-- No near cache keeps a sector that writes at their home have taken. -/
theorem mem_near_foldl_nearTake {secs : NatSet} {k : Package} {n : NearSector} (h : n ∈ (secs.foldl nearTake k).near) :
    n.sector ∉ secs ∧ ∃ m ∈ k.near, m.sector = n.sector := by
  induction secs generalizing k with
  | nil => exact ⟨List.not_mem_nil, n, h, rfl⟩
  | cons x secs ih =>
    obtain ⟨hsecs, m, hm, hmn⟩ := ih h
    obtain ⟨hx, hk⟩ := mem_near_nearTake hm
    rw [hmn] at hx hk
    exact ⟨fun hmem => (List.mem_cons.mp hmem).elim hx hsecs, hk⟩

theorem State.dropL1_eq (s : State) (keep : Option (BitVec 7)) (secs : NatSet) : s.dropL1 keep secs =
    { s with core := { s.core with l1 := (s.dropL1 keep secs).core.l1 }, cores := (s.dropL1 keep secs).cores } := by
  unfold State.dropL1
  dsimp only
  split
  · rfl
  · by_cases h : keep = some s.coreNum
    · simp only [h, if_true]
    · simp only [h, if_false]

theorem State.dropL1_l1 {s : State} {secs : NatSet} {x : Nat} (h : x ∈ secs) : (s.dropL1 none secs).core.l1.has x = false := by
  unfold State.dropL1
  rw [if_neg (by intro he; rw [List.isEmpty_iff.mp he] at h; cases h), NatSet.has_eq_false]
  simp [NatSet.has, h]

theorem State.noteHome_eq (s : State) (ps : List Place) : s.noteHome ps = { s with
    core := { s.core with l1 := (s.noteHome ps).core.l1 }
    cores := (s.noteHome ps).cores
    pkg := { s.pkg with near := (s.noteHome ps).pkg.near, lineVer := (s.noteHome ps).pkg.lineVer } } := by
  unfold State.noteHome
  dsimp only
  rw [State.dropL1_eq, foldl_nearTake_eq]

theorem State.noteHome_near {s : State} {ps : List Place} {a : Nat} (ha : Place.hbm a ∈ ps) :
    ∀ n ∈ (s.noteHome ps).pkg.near, n.sector ≠ a / 64 := by
  intro n hn hsec
  unfold State.noteHome at hn
  dsimp only at hn
  rw [State.dropL1_eq] at hn
  exact (mem_near_foldl_nearTake hn).1 (mem_sectorsOf.mpr ⟨a, ha, hsec.symm⟩)

theorem State.noteHome_l1 {s : State} {ps : List Place} {a : Nat} (ha : Place.hbm a ∈ ps) :
    (s.noteHome ps).core.l1.has (a / 64) = false :=
  State.dropL1_l1 (mem_sectorsOf.mpr ⟨a, ha, rfl⟩)

/-! ### Writes of the command processor -/

/-- A write of the command processor to memory leaves the context, the logs and the answers alone, and of the core all but the L1. -/
structure MemoryOnly (s t : State) : Prop where
  core : t.core = { s.core with l1 := t.core.l1 }
  ctx : t.ctx = s.ctx
  logs : t.pkg.logs = s.pkg.logs
  num : t.pkg.num = s.pkg.num
  acks : t.pkg.acks = s.pkg.acks
  answers : t.pkg.answers = s.pkg.answers

theorem memoryOnly_refl (s : State) : MemoryOnly s s := ⟨rfl, rfl, rfl, rfl, rfl, rfl⟩

theorem memoryOnly_noteHome_devPut (s : State) (a : Nat) (d : List Byte) (ps : List Place) : MemoryOnly s ((s.devPut a d).noteHome ps) := by
  rw [State.noteHome_eq]
  unfold State.devPut
  split <;> exact ⟨rfl, rfl, rfl, rfl, rfl, rfl⟩

theorem memoryOnly_cpPut (s : State) (a : Nat) (d : List Byte) : MemoryOnly s (s.cpPut a d) := by
  unfold State.cpPut State.unlessSigners
  split
  · dsimp only
    unfold State.fwPut
    split
    · exact memoryOnly_noteHome_devPut s a d _
    · exact memoryOnly_refl s
  · split
    · exact ⟨rfl, rfl, rfl, rfl, rfl, rfl⟩
    · exact memoryOnly_refl s

/-! ### The arrival log (R416, R417) -/

theorem sameLog_self (g : ArrivalLog) : sameLog g g = true := by simp [sameLog]

theorem mem_mapIf_of_mem {α : Type} {p : α → Bool} {f : α → α} {l : List α} {x : α} (hx : x ∈ l) (hp : p x = true) : f x ∈ mapIf p f l :=
  List.mem_map.mpr ⟨x, hx, if_pos hp⟩

theorem State.appendLog_spec {s : State} {g : ArrivalLog} (hg : g ∈ s.pkg.logs) (w : RemoteWrite) :
    { g with writes := g.writes ++ [w] } ∈ (s.appendLog g w).pkg.logs ∧
    (s.appendLog g w).core = { s.core with l1 := (s.appendLog g w).core.l1 } ∧ (s.appendLog g w).ctx = s.ctx ∧
    (s.appendLog g w).pkg.num = s.pkg.num ∧ (s.appendLog g w).pkg.acks = s.pkg.acks ∧
    (s.appendLog g w).pkg.answers = s.pkg.answers := by
  have key : ∀ t, MemoryOnly s t → { g with writes := g.writes ++ [w] } ∈ (t.setLog { g with writes := g.writes ++ [w] }).pkg.logs ∧
      t.core = { s.core with l1 := t.core.l1 } ∧ t.ctx = s.ctx ∧ t.pkg.num = s.pkg.num ∧ t.pkg.acks = s.pkg.acks ∧
      t.pkg.answers = s.pkg.answers := fun t h =>
    ⟨mem_mapIf_of_mem (f := fun _ => { g with writes := g.writes ++ [w] }) (h.logs ▸ hg) (sameLog_self g), h.core, h.ctx, h.num, h.acks,
      h.answers⟩
  unfold State.appendLog
  dsimp only
  split
  · exact key _ (memoryOnly_cpPut s _ _)
  · exact key _ (memoryOnly_refl s)

theorem State.arrive_of_absent {s : State} {w : RemoteWrite} (hmine : s.MineAt w)
    (hcrew : s.findCrew w.target w.pid w.crew w.launch = none) : s.arrive w =
      match s.findLog w with
      | some g =>
        if s.logSize ≤ g.writes.length then .refused
        else match s.opened (s.logKey g).1 (s.logKey g).2 w with
          | none => .taken (s.answerWrite w .bound)
          | some w => .taken ((s.appendLog g w).acceptWrite w)
      | none => if s.pkg.gone.elem (w.pid, w.crew, w.target) then .taken (s.answerWrite w .bound) else .refused := by
  unfold State.MineAt at hmine
  unfold State.arrive
  rw [if_neg (by simpa using hmine), hcrew] <;> rfl

theorem State.opened_of_plain {s : State} {w : RemoteWrite} (h : ¬ (w.pkg ≠ s.pkg.num ∨ w.cipher ≠ none)) (conf : Bool)
    (key : Option (List Byte)) : s.opened conf key w = some w := by
  obtain ⟨hpkg, hcipher⟩ : w.pkg = s.pkg.num ∧ w.cipher = none := by simpa using h
  unfold State.opened
  rw [hpkg, hcipher]
  simp

section
variable {s : State} {w : RemoteWrite} (ha : s.arg.write = some w) (hw : s.onWire w = false) (hmine : s.MineAt w)
  (hcrew : s.findCrew w.target w.pid w.crew w.launch = none)
include ha hw hmine hcrew

theorem arrival_logged {g : ArrivalLog} (hg : s.findLog w = some g) (hroom : g.writes.length < s.logSize)
    (hplain : ¬ (w.pkg ≠ s.pkg.num ∨ w.cipher ≠ none)) : ∃ t, exec .evRemoteWriteArrival s = .next t ∧
      { g with writes := g.writes ++ [w] } ∈ t.pkg.logs ∧ t.core = { s.core with l1 := t.core.l1 } ∧ t.ctx = s.ctx ∧
      (w.posted = true → AnsweredTo s t (ackOf w .accepted)) := by
  have hmem : g ∈ s.pkg.logs := List.mem_of_find?_eq_some hg
  obtain ⟨hlogs, hcore, hctx, hnum, hacks, hans⟩ := State.appendLog_spec hmem w
  refine ⟨(s.appendLog g w).acceptWrite w, exec_arrival_of_taken ha hw ?_, ?_, ?_, ?_, answeredTo_acceptWrite hnum hacks hans⟩
  · rw [State.arrive_of_absent hmine hcrew, hg]
    dsimp only
    rw [if_neg (by omega), State.opened_of_plain hplain]
  · rwa [State.acceptWrite_logs]
  · rwa [State.acceptWrite_core]
  · rwa [State.acceptWrite_ctx]

theorem arrival_logFull {g : ArrivalLog} (hg : s.findLog w = some g) (hfull : s.logSize ≤ g.writes.length) :
    exec .evRemoteWriteArrival s = .next s := by
  refine exec_arrival_of_refused ha hw ?_
  rw [State.arrive_of_absent hmine hcrew, hg]
  dsimp only
  rw [if_pos hfull]

theorem arrival_gone (hg : s.findLog w = none) (hgone : (w.pid, w.crew, w.target) ∈ s.pkg.gone) : ∃ t,
    exec .evRemoteWriteArrival s = .next t ∧ AnsweredTo s t (ackOf w .bound) ∧ t.core = s.core ∧ t.ctx = s.ctx := by
  refine arrival_bound ha hw ?_
  rw [State.arrive_of_absent hmine hcrew, hg]
  exact if_pos (List.elem_iff.mpr hgone)

theorem arrival_awaited (hg : s.findLog w = none) (hgone : (w.pid, w.crew, w.target) ∉ s.pkg.gone) :
    exec .evRemoteWriteArrival s = .next s := by
  refine exec_arrival_of_refused ha hw ?_
  rw [State.arrive_of_absent hmine hcrew, hg]
  exact if_neg (fun h => hgone (List.elem_iff.mp h))

end

/-! ### Writes on their way within the package (R44, R238) -/

/-- `s` with a write taken off the wire. -/
def State.offWire (s : State) (w : RemoteWrite) : State := s.mapPkg fun k => { k with wire := k.wire.erase w }

section
variable {s : State} {w : RemoteWrite} (ha : s.arg.write = some w) (hw : s.onWire w = true)
include ha hw

theorem arrival_notReady (hready : s.wireReady w = false) : exec .evRemoteWriteArrival s = .next s := by
  rw [exec_remoteWriteArrival ha]
  unfold State.arriveWire
  rw [hw, hready]
  rfl

theorem exec_arrival_of_delivered {t : State} (hready : s.wireReady w = true) (h : (s.offWire w).deliverWrite w = some t) :
    exec .evRemoteWriteArrival s = .next t := by
  unfold State.offWire at h
  rw [exec_remoteWriteArrival ha]
  unfold State.arriveWire
  rw [hw, hready, h]
  rfl

theorem arrival_sentOut (hready : s.wireReady w = true) (hhome : w.home = none) (hto : w.toPkg ≠ some s.pkg.num) : ∃ t,
    exec .evRemoteWriteArrival s = .next t ∧ t.pkg.wire = s.pkg.wire.erase w ∧ t.pkg.sent = s.pkg.sent ++ [w] ∧ t.ctx = s.ctx ∧
      t.core = s.core := by
  refine ⟨(s.offWire w).sendOut w, exec_arrival_of_delivered ha hw hready ?_, ?_, ?_, rfl, rfl⟩
  · unfold State.deliverWrite
    rw [hhome]
    exact if_neg hto
  · exact (congrArg Package.wire (Package.sendOn_eq ..)).trans rfl
  · exact (congrArg Package.sent (Package.sendOn_eq ..)).trans rfl

theorem arrival_ownScratchpad {x : Nat} (hready : s.wireReady w = true) (hhome : w.home = some (.sram x)) (hkind : w.kind ≠ .ste)
    (hcore : w.core = s.coreNum) (hslot : w.slot = s.slotNum) : ∃ t, exec .evRemoteWriteArrival s = .next t ∧ Performed s t w ∧
      t.pkg.wire = s.pkg.wire.erase w ∧ t.ctx = s.ctx := by
  have hp := performedHere_performWrite (s.offWire w) w
  refine ⟨(s.offWire w).performWrite w, exec_arrival_of_delivered ha hw hready ?_, hp.performed, hp.wire, hp.ctx⟩
  unfold State.deliverWrite State.at_
  rw [hhome]
  dsimp only
  rw [if_neg (by simpa using hkind), focus_of_eq (s := s.offWire w) hcore.symm hslot.symm, focus_of_eq hp.coreNum hp.slotNum]

end

/-! ### The receive queue (R46) -/

theorem receiveQueue_performs_head {s : State} {w : RemoteWrite} {rest : List RemoteWrite} (hq : s.core.recvq = w :: rest)
    (hw : s.core.writable w = true) : ∃ t, exec .evReceiveQueuePerform s = .next t ∧ Performed s t w ∧ t.core.recvq = rest ∧
      t.ctx = s.ctx := by
  have hp := performedHere_performWrite (s.mapCore fun c => { c with recvq := rest }) w
  refine ⟨_, ?_, hp.performed, hp.recvq, hp.ctx⟩
  have hnext : recvNext s.core [] s.core.recvq = some (w, rest) := by
    rw [hq]
    unfold recvNext
    rw [hw]
    rfl
  show execEvReceiveQueuePerform s = _
  unfold execEvReceiveQueuePerform
  rw [hnext]

theorem receiveQueue_empty {s : State} (hq : s.core.recvq = []) : exec .evReceiveQueuePerform s = .next s := by
  show execEvReceiveQueuePerform s = _
  unfold execEvReceiveQueuePerform
  rw [hq]
  rfl

end Sys2Proof.Machine

/-! PROOFS. Answers and requests: acceptances, REMOTE_BOUND, reads of other packages (R44, R45, R413). -/
namespace Sys2Proof.Machine
open Claims

/-! ### OUT of a window (R45) -/

theorem wbits_setBits_low (w : Word) (v : Nat) : wbits (setBits w 9 0 v) 9 0 = v % 2 ^ 10 := by
  refine Nat.eq_of_testBit_eq fun i => ?_
  simp only [wbits, bitsOf, Nat.testBit_mod_two_pow, Nat.shiftRight_zero]
  by_cases hi : i < 10
  · rw [← BitVec.getLsbD, getLsbD_setBits]
    simp [hi, show i ≤ 9 ∧ i < 64 by omega]
  · simp [hi]

theorem Context.outCount_lt (c : Context) (n : BitVec 4) : c.outCount n < 2 ^ 10 := Nat.mod_lt _ (by decide)

/-- An acceptance counts OUT of its own window down and no other. -/
theorem Context.outCount_accept (c : Context) (w n : BitVec 4) :
    (c.accept w).outCount n = if n = w then c.outCount n - 1 else c.outCount n := by
  unfold Context.accept Context.setOut
  unfold Context.outCount
  dsimp only
  rw [getElem_set_reg]
  split
  · next h =>
    subst h
    have := c.outCount_lt n
    unfold Context.outCount at this
    rw [wbits_setBits_low, Nat.mod_eq_of_lt (by omega)]
  · rfl

/-! ### Acceptances at the sender (R45) -/

section
variable {s : State} {x : RemoteWrite}

theorem acceptance_ack {x : RemoteAck} (hx : s.pkg.acks.find? (forWindow s.arg.window .accepted s.coreNum s.ctx.info.launchId) = some x) :
    ∃ t, exec .evWriteAcceptance s = .next t ∧ t.pkg.acks = s.pkg.acks.erase x ∧ t.ctx.regs = s.ctx.regs ∧
      ∀ n, t.ctx.outCount n = if n = s.arg.window then s.ctx.outCount n - 1 else s.ctx.outCount n := by
  refine ⟨(s.mapPkg fun k => { k with acks := k.acks.erase x }).mapCtx fun c => c.accept s.arg.window, ?_, rfl, rfl,
    s.ctx.outCount_accept s.arg.window⟩
  show execEvWriteAcceptance s = _
  unfold execEvWriteAcceptance
  dsimp only
  rw [hx]

theorem State.takeSent_some {p : RemoteWrite → Bool} (h : s.pkg.sent.find? p = some x) :
    s.takeSent p = some (x, s.mapPkg fun k => { k with sent := k.sent.erase x }) := by
  unfold State.takeSent
  rw [h]

theorem State.takeAccepted_some {p : RemoteWrite → Bool} (h : s.pkg.accepted.find? p = some x) :
    s.takeAccepted p = some (x, s.mapPkg fun k => { k with accepted := k.accepted.erase x }) := by
  unfold State.takeAccepted
  rw [h]
  rfl

theorem State.takeSent_nil (h : s.pkg.sent = []) (p : RemoteWrite → Bool) : s.takeSent p = none := by
  unfold State.takeSent
  rw [h]
  rfl

theorem State.takeAccepted_nil (h : s.pkg.accepted = []) (p : RemoteWrite → Bool) : s.takeAccepted p = none := by
  unfold State.takeAccepted
  rw [h]
  rfl

theorem acceptance_sent (hacks : s.pkg.acks = [])
    (hx : s.pkg.sent.find? (fun x => s.sentByUs x && x.window == s.arg.window && x.posted && s.switchTakes x) = some x)
    (hto : x.toPkg ≠ none) : ∃ t, exec .evWriteAcceptance s = .next t ∧ t.pkg.sent = s.pkg.sent.erase x ∧ t.ctx.regs = s.ctx.regs ∧
      t.pkg.accepted = (if s.arg.ok then s.pkg.accepted else s.pkg.accepted ++ [x]) ∧
      ∀ n, t.ctx.outCount n = if n = s.arg.window then s.ctx.outCount n - 1 else s.ctx.outCount n := by
  refine ⟨((s.mapPkg fun k => { k with sent := k.sent.erase x }).mapPkg fun k => { k with
      wire := k.wire ++ []
      accepted := if true && !s.arg.ok then k.accepted ++ [x] else k.accepted }).mapCtx fun c => c.accept s.arg.window,
    ?_, rfl, rfl, ?_, s.ctx.outCount_accept s.arg.window⟩
  · show execEvWriteAcceptance s = _
    unfold execEvWriteAcceptance
    dsimp only
    rw [hacks, State.takeSent_some hx]
    dsimp only [List.find?_nil]
    rw [if_pos (Option.isSome_iff_ne_none.mpr hto)]
  · cases s.arg.ok <;> simp

theorem acceptance_none (hacks : s.pkg.acks = []) (hsent : s.pkg.sent = []) : exec .evWriteAcceptance s = .next s := by
  show execEvWriteAcceptance s = _
  unfold execEvWriteAcceptance
  dsimp only
  rw [hacks, State.takeSent_nil hsent]
  rfl

/-! ### REMOTE_BOUND at the sender (R44, R404) -/

/-- An answer REMOTE_BOUND names a write. -/
def State.boundNamesWrite (s : State) : Prop := s.arg.ok = true ∨ (s.ctx.remote = none ∧ s.ctx.commit = none)

theorem State.takeRemote_none (h : s.ctx.commit = none) (w : BitVec 4) : s.takeRemote w = none := by
  unfold State.takeRemote
  rw [h]
  rfl

theorem boundReply_none (hw : s.boundNamesWrite) (hacks : s.pkg.acks = []) (hacc : s.pkg.accepted = []) (hsent : s.pkg.sent = []) :
    exec .evRemoteBoundReply s = .next s := by
  show execEvRemoteBoundReply s = _
  unfold execEvRemoteBoundReply
  by_cases hok : s.arg.ok = true
  · simp [hok, hacks, State.takeAccepted_nil hacc, State.takeSent_nil hsent]
  · obtain ⟨hremote, hcommit⟩ := hw.resolve_left hok
    simp [hok, hremote, State.takeRemote_none hcommit, hacks, State.takeAccepted_nil hacc, State.takeSent_nil hsent]

theorem exec_boundReply_ack {x : RemoteAck} (hw : s.boundNamesWrite)
    (hx : s.pkg.acks.find? (forWindow s.arg.window .bound s.coreNum s.ctx.info.launchId) = some x) :
    exec .evRemoteBoundReply s = .next ((s.mapPkg fun k => { k with acks := k.acks.erase x }).boundBy x.src) := by
  show execEvRemoteBoundReply s = _
  unfold execEvRemoteBoundReply
  by_cases hok : s.arg.ok = true
  · simp [hok, hx]
  · obtain ⟨hremote, hcommit⟩ := hw.resolve_left hok
    simp [hok, hremote, State.takeRemote_none hcommit, hx]

theorem exec_boundReply_read {r : RemoteWait} (hok : s.arg.ok = false) (hr : s.ctx.remote = some r) (hwin : r.window = s.arg.window) :
    exec .evRemoteBoundReply s = .next (({ s with ctx := { s.ctx with
      remote := none, waiting := none, queue := s.ctx.queue.filter fun p => p.id != r.op.id } } : State).reportKept r.op.id
        (trapRemoteBound (BitVec.ofNat 64 r.addr))) := by
  show execEvRemoteBoundReply s = _
  unfold execEvRemoteBoundReply
  simp [hok, hr, hwin]

end

/-! ### Requests of other packages (R44, R28, R388, R413) -/

section
variable {s : State} {r : RemoteReq}

/-- What a request's sender is told. -/
def replyOf (r : RemoteReq) (k : AckKind) (c : Option (List Byte × List Byte × List Byte)) : RemoteAck :=
  ⟨r.pkg, r.core, r.slot, r.window, 0, k, (0, 7, 0), c⟩

/-- A request is answered, and is held no more. -/
def State.replyTo (s : State) (r : RemoteReq) (k : AckKind) (c : Option (List Byte × List Byte × List Byte)) : State :=
  (s.mapPkg fun p => { p with requests := p.requests.filter (· != r) }).answer (replyOf r k c)

/-- A request is held. -/
def State.holdRequest (s : State) (r : RemoteReq) : State :=
  if s.pkg.requests.elem r then s else s.mapPkg fun k => { k with requests := k.requests ++ [r] }

/-- The context that a request is for, taken to be the one in focus, after a read that empties the words it took. -/
def State.takenBy (s : State) (r : RemoteReq) : State :=
  s.mapCore fun c => if r.take then c.setEmpty r.addr r.size else c

theorem State.holdRequest_of_new (h : r ∉ s.pkg.requests) :
    s.holdRequest r = { s with pkg := { s.pkg with requests := s.pkg.requests ++ [r] } } :=
  if_neg fun he => h (List.elem_iff.mp he)

theorem answeredTo_replyTo {t : State} (k : AckKind) (c : Option (List Byte × List Byte × List Byte)) (hnum : t.pkg.num = s.pkg.num)
    (hacks : t.pkg.acks = s.pkg.acks) (hans : t.pkg.answers = s.pkg.answers) : AnsweredTo s (t.replyTo r k c) (replyOf r k c) :=
  answeredTo_answer _ hnum hacks hans

theorem State.not_mem_requests_replyTo (s : State) (r : RemoteReq) (k : AckKind) (c : Option (List Byte × List Byte × List Byte)) :
    r ∉ (s.replyTo r k c).pkg.requests := by
  unfold State.replyTo
  rw [State.answer_requests]
  simp

/-- A request's target core is one of its sender's partition. -/
def State.ReqMineAt (s : State) (r : RemoteReq) : Prop := (s.corePart r.target).map (fun d : PartDesc => d.pid) = some r.pid

theorem State.focus_mapCore_self (s : State) (f : CoreSt → CoreSt) : (s.mapCore f).focus s.coreNum s.slotNum = s.mapCore f :=
  focus_of_eq rfl rfl

theorem State.serveRequest_of_otherPartition (h : ¬ s.ReqMineAt r) : s.serveRequest r = s.replyTo r .bound none := by
  unfold State.ReqMineAt at h
  unfold State.serveRequest
  dsimp only
  rw [if_pos (by simpa using h)]
  rfl

theorem State.serveRequest_of_absent (h : s.ReqMineAt r) (hcrew : s.findCrew r.target r.pid r.crew 0 = none) :
    s.serveRequest r = s.holdRequest r := by
  unfold State.ReqMineAt at h
  unfold State.serveRequest
  dsimp only
  rw [if_neg (by simpa using h), hcrew]
  rfl

theorem State.serveRequest_of_resident (h : s.ReqMineAt r) (hcrew : s.findCrew r.target r.pid r.crew 0 = some s.slotNum)
    (hcore : r.target = s.coreNum) (hok : s.ctx.targetOk r.addr r.size = true) : s.serveRequest r =
      if !s.core.owns s.slotNum r.addr r.size || (r.full && !s.core.allFull r.addr r.size) then s.holdRequest r
      else (s.takenBy r).replyTo r (.data (s.core.ram.bytes r.addr r.size))
        (if s.ctx.conf then some (linkSeal s.winKey s.clock (s.core.ram.bytes r.addr r.size)) else none) := by
  unfold State.ReqMineAt at h
  unfold State.serveRequest
  dsimp only
  rw [if_neg (by simpa using h), hcrew]
  dsimp only
  rw [hcore, State.focus_self, hok]
  unfold State.takenBy
  cases r.take
  · simp only [Bool.not_true, Bool.false_eq_true, if_false, State.focus_self]
    rfl
  · simp only [Bool.not_true, Bool.false_eq_true, if_false, if_true]
    rw [State.focus_mapCore_self]
    rfl

variable (ha : s.arg.request = some r)
include ha

theorem exec_requestArrival : exec .evRemoteRequestArrival s = .next (s.serveRequest r) := by
  show execEvRemoteRequestArrival s = _
  unfold execEvRemoteRequestArrival
  rw [ha]

theorem request_otherPartition (h : ¬ s.ReqMineAt r) : ∃ t, exec .evRemoteRequestArrival s = .next t ∧
    AnsweredTo s t (replyOf r .bound none) ∧ t.core = s.core := by
  refine ⟨_, (exec_requestArrival ha).trans (congrArg _ (State.serveRequest_of_otherPartition h)), answeredTo_replyTo _ _ rfl rfl rfl,
    State.answer_core ..⟩

theorem request_held_of_absent (h : s.ReqMineAt r) (hcrew : s.findCrew r.target r.pid r.crew 0 = none) (hnew : r ∉ s.pkg.requests) :
    exec .evRemoteRequestArrival s = .next { s with pkg := { s.pkg with requests := s.pkg.requests ++ [r] } } := by
  rw [exec_requestArrival ha, State.serveRequest_of_absent h hcrew, State.holdRequest_of_new hnew]

variable (h : s.ReqMineAt r) (hcrew : s.findCrew r.target r.pid r.crew 0 = some s.slotNum) (hcore : r.target = s.coreNum)
  (hok : s.ctx.targetOk r.addr r.size = true)
include h hcrew hcore hok

theorem request_held (hwait : s.core.owns s.slotNum r.addr r.size = false ∨ (r.full = true ∧ s.core.allFull r.addr r.size = false))
    (hnew : r ∉ s.pkg.requests) :
    exec .evRemoteRequestArrival s = .next { s with pkg := { s.pkg with requests := s.pkg.requests ++ [r] } } := by
  rw [exec_requestArrival ha, State.serveRequest_of_resident h hcrew hcore hok, if_pos (by simpa using hwait),
    State.holdRequest_of_new hnew]

theorem request_served (hown : s.core.owns s.slotNum r.addr r.size = true) (hfull : r.full = false ∨ s.core.allFull r.addr r.size = true) :
    ∃ t, exec .evRemoteRequestArrival s = .next t ∧ AnsweredTo s t (replyOf r (.data (s.core.ram.bytes r.addr r.size))
        (if s.ctx.conf then some (linkSeal s.winKey s.clock (s.core.ram.bytes r.addr r.size)) else none)) ∧
      t.core.ram = s.core.ram ∧ t.core.full = (if r.take then s.core.setEmpty r.addr r.size else s.core).full ∧
      r ∉ t.pkg.requests := by
  have hfree : ¬ (!s.core.owns s.slotNum r.addr r.size || (r.full && !s.core.allFull r.addr r.size)) = true := by
    rcases hfull with hfull | hfull <;> simp [hown, hfull]
  refine ⟨_, (exec_requestArrival ha).trans (congrArg _ ((State.serveRequest_of_resident h hcrew hcore hok).trans (if_neg hfree))),
    answeredTo_replyTo _ _ rfl rfl rfl, ?_, ?_, fun hmem => State.not_mem_requests_replyTo _ _ _ _ hmem⟩
  · refine (congrArg CoreSt.ram (State.answer_core ..)).trans ?_
    unfold State.takenBy
    cases r.take <;> rfl
  · refine (congrArg CoreSt.full (State.answer_core ..)).trans ?_
    rfl

end

end Sys2Proof.Machine

/-! PROOFS. Replies to reads (R44, R388) and domain arrivals (R356). -/
namespace Sys2Proof.Machine
open Claims

/-! ### Replies to this package's reads (R44, R388) -/

/-- A core's shared part does not depend on the context in focus. -/
theorem boxOf_core_withCtx (s : State) (c : Context) (o : Option PendOp) (k : BitVec 7) :
    (({ s with ctx := c, cur := o } : State).boxOf k).core = (s.boxOf k).core := by
  simp only [State.boxOf, State.box]
  split_ifs <;> rfl

theorem sameMemory_withCtx (s : State) (c : Context) (o : Option PendOp) : SameMemory s { s with ctx := c, cur := o } := by
  intro p
  cases p with
  | far k core a => simp only [State.byteAt, boxOf_core_withCtx]
  | _ => rfl

/-- A context that has no write of its own still to perform reads what is there (R240). -/
theorem State.ownBytes_of_none {s : State} (h : s.ownWrites = []) (ser : Nat) (ps : List Place) (d : List Byte) :
    s.ownBytes ser ps d = d := by
  unfold State.ownBytes State.ownBefore
  rw [h]
  rfl

theorem sliceBytes_all {d : List Byte} {n : Nat} (h : d.length = n) : sliceBytes d 0 n = d := by
  subst h
  simp [sliceBytes]

/-- The context in focus goes on with an operation: it waits for no reply, and its queue holds the operation no more. -/
def Context.resumed (c : Context) (r : RemoteWait) : Context :=
  { c with remote := .none, waiting := .none, queue := c.queue.filter fun p => p.id != r.op.id }

theorem ownWrites_resumed (s : State) (r : RemoteWait) :
    ({ s with cur := some r.op, ctx := s.ctx.resumed r } : State).ownWrites = s.ownWrites := by
  unfold State.ownWrites State.underway
  simp only [boxOf_core_withCtx]
  rfl

theorem State.finishRemote_ld {s : State} {r : RemoteWait} {q : Pred} {dst : SReg} {mem : Mem} {size : BitVec 2} {sx : Bool}
    {b : List Byte} (hop : r.op.instr = .lLd q dst mem size sx) (hown : s.ownWrites = []) (hlen : b.length = r.size) :
    s.finishRemote r b = { (({ s with cur := some r.op, ctx := s.ctx.resumed r } : State).writeS dst (extendBytes sx b)) with
      cur := none } := by
  have hbytes := (State.ownBytes_of_none ((ownWrites_resumed s r).trans hown) s.ctx.entries
    ((natRange r.addr r.size).map (Place.win r.window)) (sliceBytes b 0 r.size)).trans (sliceBytes_all hlen)
  unfold State.finishRemote
  simp only [hop]
  exact congrArg (fun b => { (({ s with cur := some r.op, ctx := s.ctx.resumed r } : State).finishLd dst sx b) with cur := none }) hbytes

/-- What `writeS` leaves in the s registers depends on those alone. -/
theorem State.writeS_regs_congr {s t : State} (h : t.ctx.regs.s = s.ctx.regs.s) (r : SReg) (x : Word) :
    (t.writeS r x).ctx.regs.s = (s.writeS r x).ctx.regs.s :=
  Vector.eq_of_regs (w := 6) rfl fun r' _ => by
    rw [State.writeS_getElem, State.writeS_getElem, h]

section
variable {s : State} (hothers : s.arg.others = [])
include hothers

/-- With no others' requests served first, a reply finds the machine as it stands. -/
theorem serveAll_of_no_others : ({ s with pool := s.pool.serveAll s.pkg.now s.clock s.arg.others } : State) = s := by
  rw [hothers]
  rfl

theorem reply_not_data (h : ∀ d, s.arg.reply ≠ .data d) : exec .evRemoteReply s = .next s := by
  show execEvRemoteReply s = _
  unfold execEvRemoteReply
  rw [serveAll_of_no_others hothers]
  dsimp only
  split
  · next d hd => exact absurd hd (h d)
  · rfl

theorem reply_write_done {d : List Byte} {x : RemoteWrite} (hd : s.arg.reply = .data d) (hok : s.arg.ok = true)
    (hx : s.pkg.accepted.find? (fun x => s.sentByUs x && x.window == s.arg.window) = some x) :
    exec .evRemoteReply s = .next { s with pkg := { s.pkg with accepted := s.pkg.accepted.erase x } } := by
  show execEvRemoteReply s = _
  unfold execEvRemoteReply State.writeDone
  rw [serveAll_of_no_others hothers]
  dsimp only
  rw [hd]
  dsimp only
  rw [if_pos hok, State.takeAccepted_some hx]
  rfl

theorem exec_reply_read {d b : List Byte} {r : RemoteWait} (hd : s.arg.reply = .data d) (hok : s.arg.ok = false)
    (hr : s.ctx.remote = some r) (hwin : r.window = s.arg.window) (hb : s.openReply d = some b) :
    exec .evRemoteReply s = .next (s.finishRemote r b) := by
  show execEvRemoteReply s = _
  unfold execEvRemoteReply
  rw [serveAll_of_no_others hothers]
  simp [hd, hok, hr, hwin, hb]

theorem reply_ld {d b : List Byte} {r : RemoteWait} {q : Pred} {dst : SReg} {mem : Mem} {size : BitVec 2} {sx : Bool}
    (hd : s.arg.reply = .data d) (hok : s.arg.ok = false)
    (hr : s.ctx.remote = some r) (hwin : r.window = s.arg.window) (hb : s.openReply d = some b)
    (hop : r.op.instr = .lLd q dst mem size sx) (hown : s.ownWrites = []) (hlen : b.length = r.size) :
    ∃ t, exec .evRemoteReply s = .next t ∧ t.ctx.remote = none ∧ (∀ o ∈ t.ctx.queue, o.id ≠ r.op.id) ∧
      t.ctx.regs.s = (s.writeS dst (extendBytes sx b)).ctx.regs.s ∧ SameMemory s t := by
  refine ⟨_, exec_reply_read hothers hd hok hr hwin hb, ?_⟩
  rw [State.finishRemote_ld hop hown hlen, State.writeS_frame]
  refine ⟨rfl, fun o ho => ?_, ?_, sameMemory_withCtx s _ _⟩
  · simpa using (List.mem_filter.mp ho).2
  · exact State.writeS_regs_congr (s := s) (t := { s with cur := some r.op, ctx := s.ctx.resumed r }) rfl dst _

end

/-! ### Domain arrivals (R356) -/

theorem exec_phaseArrival (s : State) : exec .evPhaseArrival s = .next (s.mapPkg fun k =>
    if s.arg.ok then k.phaseFilled s.arg.level s.arg.unit s.arg.key s.arg.phase
    else k.arrive s.arg.level s.arg.unit s.arg.key s.arg.phase s.arg.members.toNat) := rfl

/-- The record that a domain has, or that its first arrival begins. -/
def Package.phaseRec (k : Package) (level : BitVec 3) (unit : BitVec 7) (key : BitVec 44) (phase : BitVec 12) : PhaseRec :=
  (k.phases.find? (samePhase level unit key)).getD ⟨level, unit, key, phase, 0, none⟩

theorem samePhase_phaseRec (k : Package) (level : BitVec 3) (unit : BitVec 7) (key : BitVec 44) (phase : BitVec 12) :
    samePhase level unit key (k.phaseRec level unit key phase) = true := by
  unfold Package.phaseRec
  cases h : k.phases.find? (samePhase level unit key) with
  | none => simp [samePhase]
  | some r => exact List.find?_some h

/-- A domain's record after an arrival. -/
def PhaseRec.arrived (r : PhaseRec) (phase : BitVec 12) (members : Nat) : PhaseRec :=
  if members ≤ r.count + 1 then { r with phase := phase + 1, count := 0, filled := some phase }
  else { r with phase := phase, count := r.count + 1 }

theorem samePhase_arrived {level : BitVec 3} {unit : BitVec 7} {key : BitVec 44} {r : PhaseRec} (phase : BitVec 12) (members : Nat)
    (h : samePhase level unit key r = true) : samePhase level unit key (r.arrived phase members) = true := by
  unfold PhaseRec.arrived
  split <;> exact h

theorem Package.find?_phases_arrive (k : Package) (level : BitVec 3) (unit : BitVec 7) (key : BitVec 44) (phase : BitVec 12)
    (members : Nat) : (k.arrive level unit key phase members).phases.find? (samePhase level unit key) =
      some ((k.phaseRec level unit key phase).arrived phase members) :=
  List.find?_cons_of_pos (samePhase_arrived phase members (samePhase_phaseRec k level unit key phase))

theorem Package.find?_phases_phaseFilled (k : Package) (level : BitVec 3) (unit : BitVec 7) (key : BitVec 44) (phase : BitVec 12) :
    (k.phaseFilled level unit key phase).phases.find? (samePhase level unit key) =
      some ⟨level, unit, key, phase + 1, 0, some phase⟩ :=
  List.find?_cons_of_pos (by simp [samePhase])

theorem phaseArrival (s : State) : ∃ t, exec .evPhaseArrival s = .next t ∧ t.ctx = s.ctx ∧ t.pkg.hbm = s.pkg.hbm ∧
    t.pkg.phases.find? (samePhase s.arg.level s.arg.unit s.arg.key) = some
      (if s.arg.ok then ⟨s.arg.level, s.arg.unit, s.arg.key, s.arg.phase + 1, 0, some s.arg.phase⟩
      else (s.pkg.phaseRec s.arg.level s.arg.unit s.arg.key s.arg.phase).arrived s.arg.phase s.arg.members.toNat) := by
  refine ⟨_, exec_phaseArrival s, rfl, ?_, ?_⟩
  · rw [State.mapPkg_pkg]
    split <;> rfl
  · rw [State.mapPkg_pkg]
    split
    · exact Package.find?_phases_phaseFilled ..
    · exact Package.find?_phases_arrive ..

end Sys2Proof.Machine

/-! PROOFS. Writes of the host (R254, R393), evictions, write-backs and probes (R234). -/
namespace Sys2Proof.Machine
open Claims

/-! ### Writes of the host (R254, R382, R388, R393) -/

theorem State.putCells_host (s : State) (a : Nat) (d : List Byte) :
    s.putCells (((natRange a d.length).map Place.host).zip (d.map some)) = { s with host := s.host.putBytes a d } := by
  induction d generalizing s a with
  | nil => rfl
  | cons b d ih => exact ih { s with host := s.host.put a b } (a + 1)

theorem State.putCells_hbm (s : State) (a : Nat) (d : List Byte) :
    s.putCells (((natRange a d.length).map Place.hbm).zip (d.map some)) = s.mapPkg fun k =>
      { k with hbm := k.hbm.putBytes a d, poison := (natRange a d.length).foldl NatSet.del k.poison } := by
  induction d generalizing s a with
  | nil => rfl
  | cons b d ih => exact ih (s.mapPkg fun k => { k with hbm := k.hbm.put a b, poison := k.poison.del a }) (a + 1)

theorem State.flushCmpl_nil {s : State} (h : s.pkg.cmpl = []) : s.flushCmpl = s := by
  unfold State.flushCmpl
  rw [h]
  split
  · rfl
  · unfold State.deliver State.mapPkg
    rw [← h]

theorem State.settled_of_no_cmpl {s : State} (h : s.pkg.cmpl = []) : (if s.pkg.stopped then s else s.flushCmpl) = s := by
  rw [State.flushCmpl_nil h, ite_self]

section
variable {s : State} {a : Nat} {d : List Byte}

theorem State.performCells_host (s : State) (who : Option Agent) (a : Nat) (d : List Byte) :
    ∃ hist, s.performCells who (((natRange a d.length).map Place.host).zip (d.map some)) =
      { s with host := s.host.putBytes a d, pkg := { s.pkg with hist := hist } } := by
  unfold State.performCells
  rw [State.putCells_host, State.keepOld_eq]
  exact ⟨_, rfl⟩

theorem State.performCells_hbm (s : State) (who : Option Agent) (a : Nat) (d : List Byte) :
    ∃ hist poison, s.performCells who (((natRange a d.length).map Place.hbm).zip (d.map some)) =
      { s with pkg := { s.pkg with hbm := s.pkg.hbm.putBytes a d, hist := hist, poison := poison } } := by
  unfold State.performCells
  rw [State.putCells_hbm, State.keepOld_eq]
  exact ⟨_, _, rfl⟩

/-- A write from outside to host memory, no completion record waiting. -/
theorem State.inboundWrite_host (ha : a.testBit 51 = true) (hcmpl : s.pkg.cmpl = []) :
    (s.inboundWrite a d).host = s.host.putBytes (a % 2 ^ 51) d ∧ (s.inboundWrite a d).pkg.hbm = s.pkg.hbm ∧
      (s.inboundWrite a d).ctx = s.ctx ∧ (s.inboundWrite a d).core = s.core := by
  obtain ⟨hist, hp⟩ := s.performCells_host none (a % 2 ^ 51) d
  have he : s.inboundWrite a d = { s with host := s.host.putBytes (a % 2 ^ 51) d, pkg := { s.pkg with hist := hist } } := by
    unfold State.inboundWrite
    rw [if_pos ha]
    dsimp only
    rw [hp]
    exact State.settled_of_no_cmpl hcmpl
  rw [he]
  exact ⟨rfl, rfl, rfl, rfl⟩

/-- What the home holds and its copies, once bytes have performed there. -/
theorem State.noteHome_performed {u : State} {hist : List OldByte} {poison : NatSet}
    (hu : u = { s with pkg := { s.pkg with hbm := s.pkg.hbm.putBytes a d, hist := hist, poison := poison } }) {t : State}
    (ht : NotesOnly (u.noteHome ((natRange a d.length).map Place.hbm)) t) :
    t.pkg.hbm = s.pkg.hbm.putBytes a d ∧ t.host = s.host ∧ t.ctx = s.ctx ∧ t.pkg.cmpl = s.pkg.cmpl ∧
      ∀ i < d.length, (∀ n ∈ t.pkg.near, n.sector ≠ (a + i) / 64) ∧ t.core.l1.has ((a + i) / 64) = false := by
  have hmem : ∀ i < d.length, Place.hbm (a + i) ∈ (natRange a d.length).map Place.hbm := fun i hi =>
    List.mem_map_of_mem (mem_natRange.mpr (by omega))
  have hnear := fun i hi => State.noteHome_near (s := u) (hmem i hi)
  have hl1 := fun i hi => State.noteHome_l1 (s := u) (hmem i hi)
  generalize hv : u.noteHome ((natRange a d.length).map Place.hbm) = v at ht hnear hl1
  have hhome := State.noteHome_eq u ((natRange a d.length).map Place.hbm)
  rw [hv] at hhome
  have hpkg : v.pkg = { u.pkg with near := v.pkg.near, lineVer := v.pkg.lineVer } := congrArg State.pkg hhome
  subst hu
  unfold NotesOnly at ht
  rw [ht]
  refine ⟨(congrArg Package.hbm hpkg).trans rfl, (congrArg State.host hhome).trans rfl, (congrArg State.ctx hhome).trans rfl,
    (congrArg Package.cmpl hpkg).trans rfl, fun i hi => ⟨hnear i hi, hl1 i hi⟩⟩

/-- A write from outside to package memory, no completion record waiting. -/
theorem State.inboundWrite_hbm (ha : a.testBit 51 = false) (hcmpl : s.pkg.cmpl = []) :
    (s.inboundWrite a d).pkg.hbm = s.pkg.hbm.putBytes a d ∧ (s.inboundWrite a d).host = s.host ∧ (s.inboundWrite a d).ctx = s.ctx ∧
      ∀ i < d.length, (∀ n ∈ (s.inboundWrite a d).pkg.near, n.sector ≠ (a + i) / 64) ∧
        (s.inboundWrite a d).core.l1.has ((a + i) / 64) = false := by
  have hps : ∀ p ∈ (natRange a d.length).map Place.hbm, ofCoreOrHbm p = true := fun p hp => ofCoreOrHbm_of_mem_hbm hp
  obtain ⟨hist, poison, hp⟩ := s.performCells_hbm none a d
  obtain ⟨hhbm, hhost, hctx, hc, hcopies⟩ := State.noteHome_performed hp
    ((notesOnly_setRel hps _ none).trans (notesOnly_raceWrite hps _ false))
  have hdev : ¬ a.testBit 51 = true := by simp [ha]
  unfold State.inboundWrite
  rw [if_neg hdev]
  dsimp only
  rw [State.settled_of_no_cmpl (hc.trans hcmpl)]
  exact ⟨hhbm, hhost, hctx, hcopies⟩

theorem exec_hostInboundWrite (s : State) : exec .evHostInboundWrite s = .next
    (if s.inboundOk s.arg.addr.toNat s.arg.data.length then
      s.unlessSigners s.arg.addr.toNat s.arg.data.length fun s => s.inboundWrite s.arg.addr.toNat s.arg.data
    else s) := rfl

theorem hostWrite_out_of_reach (hdev : s.arg.addr.toNat.testBit 51 = false)
    (h : s.devOk s.arg.addr.toNat s.arg.data.length = false ∨ dpaRegion s.arg.addr.toNat ≠ 2 ∨ s.pkg.bootFailed = true) :
    exec .evHostInboundWrite s = .next s := by
  have hno : s.inboundOk s.arg.addr.toNat s.arg.data.length = false := by
    unfold State.inboundOk
    rcases h with h | h | h <;> simp [hdev, h]
  rw [exec_hostInboundWrite, hno]
  rfl

theorem hostWrite_signerTable {p : Nat} (h : s.pkg.signerTable s.arg.addr.toNat s.arg.data.length = some p) : ∃ t,
    exec .evHostInboundWrite s = .next t ∧ OnlyPackage s t ∧ t.pkg.hbm = s.pkg.hbm := by
  refine ⟨_, exec_hostInboundWrite s, ?_⟩
  unfold State.unlessSigners
  rw [h]
  dsimp only
  split
  · split <;> exact ⟨rfl, rfl⟩
  · exact ⟨rfl, rfl⟩

/-- A host's write in reach performs. -/
theorem exec_hostWrite (hok : s.inboundOk s.arg.addr.toNat s.arg.data.length = true)
    (h : s.pkg.signerTable s.arg.addr.toNat s.arg.data.length = none) :
    exec .evHostInboundWrite s = .next (s.inboundWrite s.arg.addr.toNat s.arg.data) := by
  rw [exec_hostInboundWrite, if_pos hok]
  unfold State.unlessSigners
  rw [h]

theorem hostWrite_host (hhost : s.arg.addr.toNat.testBit 51 = true)
    (h : s.pkg.signerTable s.arg.addr.toNat s.arg.data.length = none) (hcmpl : s.pkg.cmpl = []) : ∃ t,
    exec .evHostInboundWrite s = .next t ∧ t.host = s.host.putBytes (s.arg.addr.toNat % 2 ^ 51) s.arg.data ∧
      t.pkg.hbm = s.pkg.hbm ∧ t.ctx = s.ctx ∧ t.core = s.core := by
  refine ⟨_, exec_hostWrite ?_ h, State.inboundWrite_host hhost hcmpl⟩
  unfold State.inboundOk
  rw [hhost]
  rfl

theorem hostWrite_hbm (hdev : s.arg.addr.toNat.testBit 51 = false) (hok : s.devOk s.arg.addr.toNat s.arg.data.length = true)
    (hfirst : dpaRegion s.arg.addr.toNat = 2) (hlast : dpaRegion (s.arg.addr.toNat + s.arg.data.length - 1) = 2)
    (hboot : s.pkg.bootFailed = false) (h : s.pkg.signerTable s.arg.addr.toNat s.arg.data.length = none)
    (hcmpl : s.pkg.cmpl = []) : ∃ t, exec .evHostInboundWrite s = .next t ∧
      t.pkg.hbm = s.pkg.hbm.putBytes s.arg.addr.toNat s.arg.data ∧ t.host = s.host ∧ t.ctx = s.ctx ∧
      ∀ i < s.arg.data.length, (∀ n ∈ t.pkg.near, n.sector ≠ (s.arg.addr.toNat + i) / 64) ∧
        NatSet.has t.core.l1 ((s.arg.addr.toNat + i) / 64) = false := by
  refine ⟨_, exec_hostWrite ?_ h, State.inboundWrite_hbm hdev hcmpl⟩
  simp [State.inboundOk, hok, hfirst, hlast, hboot]

end

/-! ### Evictions, write-backs and probes (R233, R234) -/

theorem exec_sectorEvictWriteback (s : State) : exec .evSectorEvictWriteback s = execEvSectorEvictWriteback s := rfl

section
variable {s : State}

theorem evict_near {n : NearSector} (hn : s.pkg.near.find? (nearOf s.arg.core s.arg.addr.toNat) = some n) :
    exec .evSectorEvictWriteback s = .next { s with pkg := { s.pkg with
      near := s.pkg.near.erase n
      wbacks := if n.st = .modified then
          s.pkg.wbacks ++ [⟨s.arg.core, s.arg.addr.toNat, n.ver, s.pkg.hbm.bytes (s.arg.addr.toNat * 64) 64⟩]
        else s.pkg.wbacks } } := by
  have hcore : n.core = s.arg.core := by
    have := List.find?_some hn
    simp only [nearOf, Bool.and_eq_true, beq_iff_eq] at this
    exact this.1
  rw [exec_sectorEvictWriteback]
  unfold execEvSectorEvictWriteback
  dsimp only
  rw [hn]
  simp only [State.mapPkg, hcore, beq_iff_eq]

theorem evict_none (hn : s.pkg.near.find? (nearOf s.arg.core s.arg.addr.toNat) = none)
    (hw : s.pkg.wbacks.find? (fun w => w.core == s.arg.core && w.sector == s.arg.addr.toNat) = none) :
    exec .evSectorEvictWriteback s = .next s := by
  rw [exec_sectorEvictWriteback]
  unfold execEvSectorEvictWriteback
  dsimp only
  rw [hn, hw]

theorem writeback_home {w : WriteBack} (hn : s.pkg.near.find? (nearOf s.arg.core s.arg.addr.toNat) = none)
    (hw : s.pkg.wbacks.find? (fun w => w.core == s.arg.core && w.sector == s.arg.addr.toNat) = some w) : ∃ t,
    exec .evSectorEvictWriteback s = .next t ∧ t.pkg.wbacks = s.pkg.wbacks.erase w ∧ t.ctx = s.ctx ∧
      t.pkg.hbm = if w.ver = s.pkg.version s.arg.addr.toNat then s.pkg.hbm.putBytes (s.arg.addr.toNat * 64) w.data else s.pkg.hbm := by
  rw [exec_sectorEvictWriteback]
  unfold execEvSectorEvictWriteback
  dsimp only
  rw [hn, hw]
  refine ⟨_, rfl, rfl, rfl, ?_⟩
  simp only [State.mapPkg, beq_iff_eq]

/-! #### The probe -/

/-- A sector of the line of `sec` that its holder has in E or M. -/
def OwnedIn (sec : Nat) (n : NearSector) : Prop := n.sector / 4 = sec / 4 ∧ n.st ≠ .shared

theorem owns_iff {n : NearSector} {sec : Nat} : n.owns sec = true ↔ OwnedIn sec n := by
  simp [NearSector.owns, OwnedIn]

theorem live_iff {k : Package} {sec : Nat} {w : WriteBack} :
    WriteBack.live k sec w = true ↔ w.sector / 4 = sec / 4 ∧ w.ver = k.version sec := by
  simp [WriteBack.live]

theorem tabGet_tabSet {α : Type} (d : α) (l : List (Nat × α)) (x : Nat) (v : α) : tabGet d (tabSet l x v) x = v := by
  induction l with
  | nil => simp [tabSet, tabGet]
  | cons e l ih =>
    obtain ⟨k, w⟩ := e
    unfold tabSet
    split
    · simp [tabGet]
    · split
      · next h => simp [tabGet, h]
      · next h => rw [tabGet, if_neg h, ih]

theorem version_bumpLine (k : Package) (sec : Nat) : (bumpLine k sec).version sec = k.version sec + 1 := tabGet_tabSet ..

/-- What a probe takes: a sector that a holder owns, or one still on its way home. -/
def Package.probeTakes (k : Package) (sec : Nat) : Prop :=
  (∃ n ∈ k.near, OwnedIn sec n) ∨ ∃ w ∈ k.wbacks, w.sector / 4 = sec / 4 ∧ w.ver = k.version sec

theorem probeTakes_iff {k : Package} {sec : Nat} :
    (k.near.any (·.owns sec) || k.wbacks.any (WriteBack.live k sec)) = true ↔ k.probeTakes sec := by
  simp only [Bool.or_eq_true, List.any_eq_true, owns_iff, live_iff, Package.probeTakes]

theorem takeLine_of_probeTakes {k : Package} {sec : Nat} (h : k.probeTakes sec) : takeLine k sec =
    bumpLine { k with near := mapIf (·.owns sec) (fun n => { n with st := .shared }) k.near } sec := if_pos (probeTakes_iff.mpr h)

theorem takeLine_of_not_probeTakes {k : Package} {sec : Nat} (h : ¬ k.probeTakes sec) : takeLine k sec = k :=
  if_neg (mt probeTakes_iff.mp h)

theorem exec_homeProbe (s : State) : exec .evHomeProbe s = .next { s with pkg := takeLine s.pkg s.arg.addr.toNat } := rfl

theorem probe_nothing (h : ¬ s.pkg.probeTakes s.arg.addr.toNat) : exec .evHomeProbe s = .next s := by
  rw [exec_homeProbe, takeLine_of_not_probeTakes h]

theorem mem_mapIf_iff {α : Type} {p : α → Bool} {f : α → α} {l : List α} {x : α} :
    x ∈ mapIf p f l ↔ (x ∈ l ∧ p x = false) ∨ ∃ y ∈ l, p y = true ∧ x = f y := by
  unfold mapIf
  rw [List.mem_map]
  constructor
  · rintro ⟨y, hy, rfl⟩
    split
    · next h => exact .inr ⟨y, hy, h, rfl⟩
    · next h => exact .inl ⟨hy, by simpa using h⟩
  · rintro (⟨hx, hp⟩ | ⟨y, hy, hp, rfl⟩)
    · exact ⟨x, hx, by simp [hp]⟩
    · exact ⟨y, hy, by simp [hp]⟩

theorem probe_takes (h : s.pkg.probeTakes s.arg.addr.toNat) : ∃ t, exec .evHomeProbe s = .next t ∧ SameMemory s t ∧
    (∀ n, n ∈ t.pkg.near ↔ (n ∈ s.pkg.near ∧ ¬ OwnedIn s.arg.addr.toNat n) ∨
      ∃ m ∈ s.pkg.near, OwnedIn s.arg.addr.toNat m ∧ n = { m with st := .shared }) ∧
    t.pkg.version s.arg.addr.toNat = s.pkg.version s.arg.addr.toNat + 1 := by
  rw [exec_homeProbe, takeLine_of_probeTakes h]
  refine ⟨_, rfl, fun p => ?_, fun n => ?_, version_bumpLine ..⟩
  · cases p <;> rfl
  · show n ∈ mapIf _ _ _ ↔ _
    rw [mem_mapIf_iff]
    simp only [owns_iff, ← Bool.not_eq_true]

end

end Sys2Proof.Machine

/-! PROOFS. Remote events together. -/
namespace Sys2Proof
open Machine Claims

/-- Settles O53: event by event, each clause under the name of what it says. -/
theorem remoteEventsComplete : Obligations.RemoteEventsComplete := by
  intro s
  refine ⟨fun w ha hw => ⟨?_, ?_, ?_, ?_, ?_, ?_, ?_, fun hmine hcrew => ⟨?_, ?_, ?_, ?_⟩⟩, fun w ha hw => ⟨?_, ?_, ?_⟩, ?_, ?_, ?_, ?_, ?_,
    ⟨?_, ?_, ?_⟩, fun r ha => ⟨?_, ?_, ?_⟩, ?_, ?_, ?_, ?_, ⟨?_, ?_, ?_, ?_⟩, ⟨?_, ?_, ?_, ?_, ?_⟩⟩
  -- a write at its target
  · exact fun h => arrival_bound ha hw (State.arrive_of_otherPartition h)
  · exact fun hfor hread => arrival_unreadable ha hw hfor hread
  · exact fun v hfor hread hin => arrival_outside ha hw hfor hread hin
  · exact fun v hfor hread hin hown => arrival_notOwned ha hw hfor hread hin hown
  · exact fun v hfor hread hin hown hfree hroom => arrival_performs ha hw hfor hread hin hown hroom hfree
  · exact fun v hfor hread hin hown hbehind hroom => arrival_queues ha hw hfor hread hin hown hroom hbehind
  · exact fun v hfor hread hin hown hfull => arrival_full ha hw hfor hread hin hown hfull
  · exact fun g hg hroom hplain => arrival_logged ha hw hmine hcrew hg hroom hplain
  · exact fun g hg hfull => arrival_logFull ha hw hmine hcrew hg hfull
  · exact fun hg hgone => arrival_gone ha hw hmine hcrew hg hgone
  · exact fun hg hgone => arrival_awaited ha hw hmine hcrew hg hgone
  -- a write on its way
  · exact fun hready => arrival_notReady ha hw hready
  · exact fun hready hhome hto => arrival_sentOut ha hw hready hhome hto
  · exact fun x hready hhome hkind hcore hslot => arrival_ownScratchpad ha hw hready hhome hkind hcore hslot
  -- the receive queue
  · exact fun w rest hq hw => receiveQueue_performs_head hq hw
  · exact receiveQueue_empty
  -- acceptances
  · exact fun x hx => acceptance_ack hx
  · exact fun x hacks hx hto => acceptance_sent hacks hx hto
  · exact acceptance_none
  -- bound answers
  · exact boundReply_none
  · exact fun x hw hx => ⟨_, _, exec_boundReply_ack hw hx, rfl, rfl, ⟨rfl, rfl, rfl⟩, rfl, rfl, rfl⟩
  · exact fun r hok hr hwin => ⟨_, ⟨rfl, rfl, rfl⟩, ⟨rfl, rfl, rfl⟩, exec_boundReply_read hok hr hwin⟩
  -- requests of other packages
  · exact fun h => request_otherPartition ha h
  · exact fun hmine hcrew hnew => request_held_of_absent ha hmine hcrew hnew
  · exact fun hmine hcrew hcore hok => ⟨fun hwait hnew => request_held ha hmine hcrew hcore hok hwait hnew,
      fun hown hfull => request_served ha hmine hcrew hcore hok hown hfull⟩
  -- replies
  · exact reply_not_data
  · exact fun d x hothers hd hok hx => reply_write_done hothers hd hok hx
  · exact fun d b r q dst mem size sx hothers hd hok hr hwin hb hop hown hlen => reply_ld hothers hd hok hr hwin hb hop hown hlen
  -- domain arrivals
  · exact phaseArrival s
  -- writes of the host
  · exact hostWrite_out_of_reach
  · exact fun p h => hostWrite_signerTable h
  · exact hostWrite_host
  · exact hostWrite_hbm
  -- evictions and probes
  · exact fun n hn => evict_near hn
  · exact fun w hn hw => writeback_home hn hw
  · exact evict_none
  · exact fun hnear hcoming => probe_nothing fun h => h.elim (fun ⟨n, hn, ho⟩ => hnear n hn ho) hcoming
  · exact probe_takes

end Sys2Proof

/-! PROOFS. Decoding and encoding agree (R59 to R70, R78). -/
namespace Sys2Proof.Laws.Encoding

/-- Every instruction that has a word is read back from it. -/
theorem readBack_encode (i : Instr) : Statement i :=
  Instr.rec (motive := Statement)
    cNop cBr cCall cRet cBrs cCalls cLoop cLoopi cLbreak cLnext cYield cTrap cExit cBreak aAdd aSub aMul aMulh aMulhn aDiv aDivn
    aRem aRemn aAnd aOr aXor aAndn aShl aShr aSar aRotl aMin aMax aMinn aMaxn aSel aPopc aClz aCtz aBext aBins aLea aMadd aAddi
    aAndi aOri aXori aShli aShri aSari aMovi aMovhi aMuli aCmp aCmpi aPand aPor aPxor aPnot aPbit aFadd aFsub aFmul aFma aFdiv
    aFsqrt aFmin aFmax aFcmp aFcvt aFclass aSysrd aSyswr aMpset aMpget aLidx vAdd vSub vMul vMulh vMad vAbs vNeg vMin vMax vAnd
    vOr vXor vAndn vShl vShr vSar vCmp vSel vMov vBcast vPopc vClz vAddsat vSubsat vLane vFadd vFsub vFmul vFma vFms vFmin vFmax
    vFrcp vFrsq vFexp2 vFlog2 vFcmp vFclass vFabs vFneg vCvt vQuant vDequant vPack vUnpack vRed vScan vFred vFscan vPerm vSlide
    vRot vCompress vExpand vZip vUnzip vExtr vIns vMpush vMinv vMpop vKmov vKop vKpopc vSkip vHashCrc vHashMix vHashs vPart
    vPartCnt vScmp vSfind vSmatch vAccrd vAccwr lLd lSt lVld lVst lVldQueue lVstQueue lVlds lVsts lVgather lVscatter lVsgather
    lLdf lLdfTake lSte lStf lFset lFclr lFqry lTld lTst lTrel lTqry lQinit lQadvp lQadvc lQqry lAadd lAmin lAmax lAminn lAmaxn
    lAand lAor lAxor lAxchg lAcas lAfadd lAinc lVscadd lDprop lDread lDrecycle lPf lFence lBrel lCld lCdrop lDsync mCall mCommit
    mWait mStat mZero mProg mSbuild mSstat xGet xPut xCopy xFill xStage xSeal xSgather xWait xStat xCancel uFeeda uFeedb uMac
    uMacq uFold uAccl uNorm uDraw uSgath uProbe uStoptest uSkipz uEdge uSwap uPset uPadd uPbr uMloop uWait uMend evPackageReset
    evRegisterWrite evClkcapWrite evClockStepChange evThermalTrip evTelemetrySample evClusterGate evClusterWake evLinkReset
    evEventRingConsume evEventRecordWrite evLaunchRecord evDispatchDecision evDictionaryLoad evLaunchIssuable evPriorityPreempt
    evLaunchComplete evReleaseFlush evCancellation evBundleDispatch evCheckpointCommit evTrapRollback evAsyncFaultReport
    evPreemptByBoundary evPreemptByRollback evContextSave evContextRestore evRemoteWriteArrival evReceiveQueuePerform
    evWriteAcceptance evRemoteBoundReply evPhaseArrival evTaggedWaitSatisfied evWaitTimeout evHostInboundWrite
    evSectorEvictWriteback evHomeProbe evTileFillComplete evTileFillFault evMatrixRecordStart evMicroTileCommit
    evMatrixCallComplete evMatrixMigrate evMigrationReturn evAccDrainDone evCopyComplete evStepCurrent evScheduleReread
    evProoferPrefetch evLeaseRenewal evReadLeaseGrant evLeaseRetry evWriteLeaseGrant evRenewalGrant evLeaseFenced evLeaseDeadline
    evPoolPageArrival evPutAcknowledge evPoolCacheEvict evStepCommit evStepLost evStepRerunCheck evFlitReceive evNakReceive
    evReplayTimeout evLaneErrorThreshold evLaneRetrainEnd evStrandLoss evStrandReturn evLinkLost evUncorrectableError
    evAtsInvalidation evResume evKill evPreempt evStepOn evStepOff evCancel evInvalVa evInvalAsid evInvalS2 evMboxOpen evMboxClose
    evSchedule evGetVersion evGetCapabilities evNegotiateAlgorithms evGetDigests evGetCertificate evChallenge evGetMeasurements
    evKeyExchange evFinish evHeartbeat evKeyUpdate evEndSession evSetCertificate evGetCsr evChunkSend evChunkGet
    evUnsupportedRequest evOwnerAuth evSetKey evClearKey evLockInterface evStopInterface evTdiError evRemoteRequestArrival
    evRemoteReply evPatrolScrub evTdiRun evIdeKm
    i

end Sys2Proof.Laws.Encoding

namespace Sys2Proof

/-! ### The slot of what a slot's map reads -/

theorem slotOf_readC {w : BitVec 64} {i : Instr} (h : readC w = some i) : i.slotOf = some .c := by
  unfold readC at h
  split at h <;> cases h <;> rfl

theorem slotOf_readA {w : BitVec 64} {i : Instr} (h : readA w = some i) : i.slotOf = some .a := by
  unfold readA at h
  split at h <;> cases h <;> rfl

theorem slotOf_readV {w : BitVec 64} {i : Instr} (h : readV w = some i) : i.slotOf = some .v := by
  unfold readV at h
  split at h <;> cases h <;> (repeat' split) <;> rfl

theorem slotOf_readL {w : BitVec 64} {i : Instr} (h : readL w = some i) : i.slotOf = some .l := by
  unfold readL at h
  split at h <;> cases h <;> (repeat' split) <;> rfl

theorem slotOf_readM {w : BitVec 64} {i : Instr} (h : readM w = some i) : i.slotOf = some .m := by
  unfold readM at h
  split at h <;> cases h <;> rfl

theorem slotOf_readX {w : BitVec 64} {i : Instr} (h : readX w = some i) : i.slotOf = some .x := by
  unfold readX at h
  split at h <;> cases h <;> rfl

theorem slotOf_readSlot {sl : Slot} {w : BitVec 64} {i : Instr} (h : readSlot sl w = some i) : i.slotOf = some sl := by
  cases sl with
  | c => exact slotOf_readC h
  | a => exact slotOf_readA h
  | v => exact slotOf_readV h
  | l => exact slotOf_readL h
  | m => exact slotOf_readM h
  | x => exact slotOf_readX h

theorem slotOf_readMicro {w : BitVec 64} {i : Instr} (h : readMicro w = some i) : i.slotOf = none := by
  unfold readMicro at h
  split at h <;> cases h <;> rfl

/-! ### Legal words (R69) -/

theorem legal_eq_ok_iff {w : BitVec 64} {o : Option Instr} {i : Instr} :
    legal w o = .ok i ↔ o = some i ∧ i.wf = true ∧ encode i = some w := by
  cases o with
  | none => simp [legal]
  | some j =>
    simp only [legal, Bool.and_eq_true, beq_iff_eq, Option.some.injEq]
    constructor
    · intro h
      split at h
      · next hj => cases h; exact ⟨rfl, hj⟩
      · cases h
    · rintro ⟨rfl, hj⟩
      exact if_pos hj

/-- R59 to R70: the word of a well-formed instruction decodes to it, by its slot's map or by that of the micro-words. -/
theorem decode_encode {i : Instr} {w : BitVec 64} (hwf : i.wf = true) (hw : encode i = some w) :
    match i.slotOf with
    | some sl => decodeSlot sl w = .ok i
    | none => decodeMicro w = .ok i := by
  have hread := Laws.Encoding.readBack_encode i hwf w hw
  unfold Laws.Encoding.readBack at hread
  cases hslot : i.slotOf with
  | some sl =>
    rw [hslot] at hread
    exact legal_eq_ok_iff.mpr ⟨hread, hwf, hw⟩
  | none =>
    rw [hslot] at hread
    exact legal_eq_ok_iff.mpr ⟨hread, hwf, hw⟩

theorem decodeSlot_eq_ok {sl : Slot} {i : Instr} {w : BitVec 64} (h : decodeSlot sl w = .ok i) :
    encode i = some w ∧ i.wf = true ∧ i.slotOf = some sl := by
  obtain ⟨hread, hwf, hw⟩ := legal_eq_ok_iff.mp h
  exact ⟨hw, hwf, slotOf_readSlot hread⟩

theorem decodeMicro_eq_ok {i : Instr} {w : BitVec 64} (h : decodeMicro w = .ok i) :
    encode i = some w ∧ i.wf = true ∧ i.slotOf = none := by
  obtain ⟨hread, hwf, hw⟩ := legal_eq_ok_iff.mp h
  exact ⟨hw, hwf, slotOf_readMicro hread⟩

theorem slotOf_isNone_or_encode_isSome (i : Instr) : (i.slotOf.isNone || (encode i).isSome) = true := by cases i <;> rfl

theorem encode_isSome_of_slotOf {i : Instr} (h : i.slotOf ≠ none) : (encode i).isSome = true := by
  have hword := slotOf_isNone_or_encode_isSome i
  rwa [Option.isNone_eq_false_iff.mpr (Option.ne_none_iff_isSome.mp h), Bool.false_or] at hword

/-- A micro-operation has a word, from which the engine decodes it when it is well-formed. -/
theorem micro_has_word {i : Instr} (hslot : i.slotOf = none) (hword : (encode i).isSome = true) :
    i.slotOf = none ∧ ∃ w, encode i = some w ∧ (i.wf = true → decodeMicro w = .ok i) := by
  obtain ⟨w, hw⟩ := Option.isSome_iff_exists.mp hword
  refine ⟨hslot, w, hw, fun hwf => ?_⟩
  have h := decode_encode hwf hw
  rwa [hslot] at h

/-- Settles O58: an instruction is read back from its word (`decode_encode`), and decoding accepts a word only when it is the very word
of what is read (`legal_eq_ok_iff`). -/
theorem decodeAndEncodeAgree : Obligations.DecodeAndEncodeAgree := by
  refine ⟨fun _ _ => decode_encode, fun _ => encode_isSome_of_slotOf, ?_, fun _ _ _ => decodeSlot_eq_ok, fun _ _ => decodeMicro_eq_ok⟩
  intro a b d len all side idx n6 q off n16 n4 src imm cond i hi
  fin_cases hi <;> exact micro_has_word rfl rfl

end Sys2Proof

/-! PROOFS. Words written out from the encoding tables (R59, R61 to R63, R70, R78). -/
namespace Sys2Proof

/-! ### Unassigned opcodes -/

theorem legal_none (w : BitVec 64) : legal w none = .illegalOpcode := rfl

theorem readC_unassigned {w : BitVec 64} (h : 0x0D < (fld w 26 6).toNat) : readC w = none := by
  unfold readC
  split
  case h_15 => rfl
  all_goals omega

theorem readM_unassigned {w : BitVec 64} (h : 0x07 < (fld w 56 8).toNat) : readM w = none := by
  unfold readM
  split
  case h_9 => rfl
  all_goals omega

theorem readX_unassigned {w : BitVec 64} (h : 0x09 < (fld w 56 8).toNat) : readX w = none := by
  unfold readX
  split
  case h_11 => rfl
  all_goals omega

theorem readA_unassigned {w : BitVec 64} (h : 0x54 < (fld w 56 8).toNat) : readA w = none := by
  unfold readA
  split
  case h_63 => rfl
  all_goals omega

theorem readMicro_unassigned {w : BitVec 64} (h : 0x13 < (fld w 58 6).toNat) : readMicro w = none := by
  unfold readMicro
  split
  case h_21 => rfl
  all_goals omega

/-- Settles O59: the six words decode by evaluation; past its last opcode each map reads nothing, and the word is no operation's. -/
theorem wordsOfTheEncodingTables : Obligations.WordsOfTheEncodingTables := by
  refine ⟨by decide, by decide, by decide, by decide, by decide, by decide, fun w h => ?_, fun w h => ?_, fun w h => ?_, fun w h => ?_,
    fun w h => ?_⟩
  · rw [decodeSlot, readSlot, readC_unassigned h, legal_none]
  · rw [decodeSlot, readSlot, readM_unassigned h, legal_none]
  · rw [decodeSlot, readSlot, readX_unassigned h, legal_none]
  · rw [decodeSlot, readSlot, readA_unassigned h, legal_none]
  · rw [decodeMicro, readMicro_unassigned h, legal_none]

end Sys2Proof

/-! PROOFS. The predicate of an operation (R61, R327). -/
namespace Sys2Proof.Machine

/-! ### What a false predicate does -/

theorem State.holds_eq_xor (s : State) (q : Pred) : s.holds q = (s.readP q.idx ^^ q.neg) := rfl

theorem State.readP_zero (s : State) : s.readP 0 = true := rfl

theorem State.holds_not_p0 (s : State) : s.holds ⟨true, 0⟩ = false := rfl

/-- R61, R327: under a predicate that is false a C operation passes its bundle and any other changes nothing. -/
theorem exec_of_not_holds {i : Instr} {q : Pred} (hq : opPred i = some q) {s : State} (h : s.holds q = false) :
    exec i s = .next (if i.slotOf = some .c then s.passBundle else s) := by
  have hn : ¬ s.holds q = true := by rw [h]; decide
  cases i <;> cases hq <;> exact congrArg Host.Outcome.next (if_neg hn)

theorem slotOf_isNone_or_opPred_isSome (i : Instr) : (i.slotOf.isNone || (opPred i).isSome) = true := by cases i <;> rfl

theorem opPred_isSome_of_slotOf {i : Instr} (h : i.slotOf ≠ none) : (opPred i).isSome = true := by
  have hpred := slotOf_isNone_or_opPred_isSome i
  rwa [Option.isNone_eq_false_iff.mpr (Option.ne_none_iff_isSome.mp h), Bool.false_or] at hpred

end Sys2Proof.Machine

namespace Sys2Proof
open Machine

/-! ### Where the predicate stands in the word -/

/-- The predicate stands in bit `lo + 3` and the three bits from `lo` up: 52 in an operation's word, 22 in one of the C slot. -/
def CarriesAt (lo : Nat) (q : Pred) (w : BitVec 64) : Prop := w.getLsbD (lo + 3) = q.neg ∧ fld w lo 3 = q.idx

/-- Nothing stands from bit `n` up. -/
def Below (n : Nat) (w : BitVec 64) : Prop := ∀ i, n ≤ i → w.getLsbD i = false

namespace Below

variable {n : Nat}

theorem or {x y : BitVec 64} (hx : Below n x) (hy : Below n y) : Below n (x ||| y) := fun i hi => by
  rw [BitVec.getLsbD_or, hx i hi, hy i hi, Bool.or_self]

theorem put {m lo : Nat} {x : BitVec m} (h : lo + m ≤ n) : Below n (Sys2Proof.put lo x) := fun i hi =>
  bit_put_off i lo x (.inr (by omega))

theorem put1 {lo : Nat} {b : Bool} (h : lo + 1 ≤ n) : Below n (Sys2Proof.put1 lo b) := put h

/-! The operands that several fields hold lie below the predicate of an operation's word. -/

theorem putMem (m : Mem) (h : 46 ≤ n) : Below n (putMem m) :=
  ((((put (by omega)).or (put (by omega))).or (put (by omega))).or (put (by omega))).or (put (by omega))

theorem putMem2 (m : Mem2) (h : 46 ≤ n) : Below n (putMem2 m) :=
  (((put (by omega)).or (put (by omega))).or (put (by omega))).or (put (by omega))

theorem putTMem (m : TMem) (h : 47 ≤ n) : Below n (putTMem m) :=
  (((put (by omega)).or (put (by omega))).or (put (by omega))).or (put (by omega))

theorem putDst (o : XOpd) (h : 46 ≤ n) : Below n (putDst o) := ((put (by omega)).or (put (by omega))).or (put (by omega))

theorem putSrc (o : XOpd) (h : 40 ≤ n) : Below n (putSrc o) := ((put (by omega)).or (put (by omega))).or (put (by omega))

theorem putB (b : VSrc) (t : Ty) (h : 40 ≤ n) : Below n (putB b t) := by
  cases b with
  | v => exact (put (by omega)).or (put (by omega))
  | s => exact ((put (by omega)).or (put (by omega))).or (put (by omega))
  | imm => exact ((put (by omega)).or (put (by omega))).or (put (by omega))

theorem putKSrc (src : KSrc) (h : 43 ≤ n) : Below n (putKSrc src) := by
  cases src with
  | k => exact put (by omega)
  | s => exact (put (by omega)).or (put (by omega))

end Below

namespace CarriesAt

variable {lo : Nat} {q : Pred}

/-- Fields below the predicate leave it as it is. -/
theorem or_iff {w x : BitVec 64} (hx : Below lo x) : CarriesAt lo q (w ||| x) ↔ CarriesAt lo q w := by
  have hzero : fld x lo 3 = 0#3 := by
    apply BitVec.eq_of_getLsbD_eq
    intro i hi
    simp [fld, hi, hx (lo + i) (by omega)]
  rw [CarriesAt, CarriesAt, BitVec.getLsbD_or, hx _ (by omega), Bool.or_false, fld_or, hzero, BitVec.or_zero]

/-- The opcode and the predicate of an operation's word. -/
theorem head (op : BitVec 8) (q : Pred) : CarriesAt 52 q (put 56 op ||| putP q) := by
  constructor
  · change bit _ _ = _
    simp (disch := decide) [putP, bit_or, bit_put1_same, bit_put_off]
  · simp (disch := decide) [putP, fld_or, fld_put_same, fld_put_off, fld_put1_off]

/-- The opcode and the predicate of a C word. -/
theorem headC (op : BitVec 6) (q : Pred) : CarriesAt 22 q (put 26 op ||| putC q) := by
  constructor
  · change bit _ _ = _
    simp (disch := decide) [putC, bit_or, bit_put1_same, bit_put_off]
  · simp (disch := decide) [putC, fld_or, fld_put_same, fld_put_off, fld_put1_off]

end CarriesAt

theorem encode_carries_c {i : Instr} {q : Pred} {w : BitVec 64} (hi : i.slotOf = some .c) (hq : opPred i = some q)
    (hw : encode i = some w) : CarriesAt 22 q w := by
  cases i <;> cases hi <;> cases hq <;> cases hw <;> simp [CarriesAt.or_iff, CarriesAt.headC, Below.put]

theorem encode_carries {i : Instr} {q : Pred} {w : BitVec 64} (hi : i.slotOf ≠ some .c) (hq : opPred i = some q)
    (hw : encode i = some w) : CarriesAt 52 q w := by
  cases i <;> cases hq <;> cases hw
  case cNop | cBr | cCall | cRet | cBrs | cCalls | cLoop | cLoopi | cLbreak | cLnext | cYield | cTrap | cExit | cBreak =>
    exact absurd rfl hi
  all_goals
    simp [CarriesAt.or_iff, CarriesAt.head, Below.put, Below.put1, Below.putMem, Below.putMem2, Below.putTMem, Below.putDst, Below.putSrc,
      Below.putB, Below.putKSrc]

/-- Settles O4: an operation's meaning is guarded by its predicate (`exec_of_not_holds`), which its word carries above every other field
but the opcode (`encode_carries`). -/
theorem falsePredicateDoesNothing : Obligations.FalsePredicateDoesNothing := by
  refine ⟨fun i q s hq => ⟨s.holds_eq_xor q, exec_of_not_holds hq⟩, fun _ => opPred_isSome_of_slotOf, fun i q w hq hw => ?_,
    State.holds_not_p0⟩
  split
  · next hi => exact encode_carries_c hi hq hw
  · next hi => exact encode_carries hi hq hw

end Sys2Proof

/-! PROOFS. The events of a context: what a fetch leaves alone, and what a dispatch keeps in the queues (R79, R327). -/
namespace Sys2Proof.Machine

/-! ### What a fetch leaves alone -/

/-- A fetch moves the pc past pads and skipped bundles and keeps the blocks that it verifies; nothing else differs. -/
def FetchedFrom (s u : State) : Prop :=
  ∃ regs ckpt image back once launches, u = { s with
    ctx := { s.ctx with regs := regs, ckpt := ckpt, image := image, backPoint := back, breakOnce := once }
    pkg := { s.pkg with launches := launches } }

theorem FetchedFrom.refl (s : State) : FetchedFrom s s := ⟨_, _, _, _, _, _, rfl⟩

theorem FetchedFrom.trans {s t u : State} (h : FetchedFrom s t) (h' : FetchedFrom t u) : FetchedFrom s u := by
  obtain ⟨_, _, _, _, _, _, rfl⟩ := h
  obtain ⟨_, _, _, _, _, _, rfl⟩ := h'
  exact ⟨_, _, _, _, _, _, rfl⟩

theorem FetchedFrom.eq {s u : State} (h : FetchedFrom s u) : u = { s with
    ctx := { s.ctx with regs := u.ctx.regs, ckpt := u.ctx.ckpt, image := u.ctx.image, backPoint := u.ctx.backPoint, breakOnce := u.ctx.breakOnce }
    pkg := { s.pkg with launches := u.pkg.launches } } := by
  obtain ⟨_, _, _, _, _, _, rfl⟩ := h
  rfl

theorem FetchedFrom.trap {s u : State} (h : FetchedFrom s u) : u.ctx.trap = s.ctx.trap := by rw [h.eq]

theorem FetchedFrom.seq {s u : State} (h : FetchedFrom s u) : u.ctx.seq = s.ctx.seq := by rw [h.eq]

theorem fetchedFrom_settle {s t : State} (h : s.settle = .ok t) : FetchedFrom s t := by
  unfold State.settle at h
  split at h
  · split_ifs at h
    · cases h; exact .refl s
    · split at h
      · cases h
      · cases h; exact ⟨_, _, _, _, _, _, rfl⟩
  · cases h; exact .refl s

theorem fetchedFrom_pastPads (s : State) : FetchedFrom s s.pastPads := by
  unfold State.pastPads
  dsimp only
  split_ifs
  · exact .refl s
  · exact ⟨_, _, _, _, _, _, rfl⟩

theorem fetchedFrom_verify {s t : State} {i : Nat} (h : s.verify i = some t) : FetchedFrom s t := by
  unfold State.verify at h
  split at h
  · cases h; exact .refl s
  · dsimp only at h
    split_ifs at h
    split at h
    · cases h
    · split_ifs at h
      cases h
      split <;> exact ⟨_, _, _, _, _, _, rfl⟩

/-- What fetch gives, a bundle or a fault, comes with a state it has only fetched from. -/
theorem fetchedFrom_fetch {s : State} : match s.fetch with
    | .error (u, _) => FetchedFrom s u
    | .ok (u, _) => FetchedFrom s u := by
  unfold State.fetch
  cases hsettle : s.settle with
  | error h => exact .refl s
  | ok t =>
    have hpads : FetchedFrom s t.pastPads := (fetchedFrom_settle hsettle).trans (fetchedFrom_pastPads t)
    dsimp only
    split_ifs
    · exact hpads
    · cases hverify : t.pastPads.verify (t.pastPads.ctx.regs.pc.toNat / 1024) with
      | none => exact hpads
      | some v =>
        have hv : FetchedFrom s v := hpads.trans (fetchedFrom_verify hverify)
        dsimp only
        split_ifs
        · exact hv
        · exact hv
        · cases decodeBundle clash (ctxFieldOk v.ctx) (v.bundleAt t.pastPads.ctx.regs.pc.toNat) with
          | error e => cases e <;> exact hv
          | ok b =>
            dsimp only
            split_ifs <;> exact hv

theorem fetchedFrom_of_error {s u : State} {h : Held} (hf : s.fetch = .error (u, h)) : FetchedFrom s u := by
  have := fetchedFrom_fetch (s := s)
  rwa [hf] at this

theorem fetchedFrom_of_ok {s u : State} {b : Bundle} (hf : s.fetch = .ok (u, b)) : FetchedFrom s u := by
  have := fetchedFrom_fetch (s := s)
  rwa [hf] at this

/-! ### What the C operation of a bundle keeps -/

/-- The number of the next bundle and the checkpoint mark stand, and an operation other than a `vskip` stays in its queue. -/
structure QueueKept (s t : State) : Prop where
  seq : t.ctx.seq = s.ctx.seq
  atCkpt : t.ctx.atCkpt = s.ctx.atCkpt
  queue : ∀ p ∈ s.ctx.queue, isSkip p.instr = false →
    ∃ x ∈ t.ctx.queue, x.instr = p.instr ∧ x.id.slot = p.id.slot ∧ x.id.seq = p.id.seq ∧ x.id.pc = p.id.pc

namespace QueueKept
variable {s t u : State}

theorem of_eq (hseq : t.ctx.seq = s.ctx.seq) (hat : t.ctx.atCkpt = s.ctx.atCkpt) (hqueue : t.ctx.queue = s.ctx.queue) : QueueKept s t :=
  ⟨hseq, hat, fun p hp _ => ⟨p, hqueue ▸ hp, rfl, rfl, rfl, rfl⟩⟩

theorem refl (s : State) : QueueKept s s := of_eq rfl rfl rfl

theorem trans (h : QueueKept s t) (h' : QueueKept t u) : QueueKept s u := by
  refine ⟨h'.seq.trans h.seq, h'.atCkpt.trans h.atCkpt, fun p hp hskip => ?_⟩
  obtain ⟨x, hx, hinstr, hslot, hseq, hpc⟩ := h.queue p hp hskip
  obtain ⟨y, hy, hinstr', hslot', hseq', hpc'⟩ := h'.queue x hx (hinstr ▸ hskip)
  exact ⟨y, hy, hinstr'.trans hinstr, hslot'.trans hslot, hseq'.trans hseq, hpc'.trans hpc⟩

theorem setFlow (s : State) (f : Flow) (x : Option Xfer) : QueueKept s (s.setFlow f x) := of_eq rfl rfl rfl

theorem skipDone (s : State) : QueueKept s s.skipDone := by
  unfold State.skipDone
  cases h : s.settle with
  | error => exact refl s
  | ok t =>
    have hf := (fetchedFrom_settle h).eq
    exact of_eq (by rw [hf]) (by rw [hf]) (by rw [hf])

theorem moveOn (s : State) (f : Flow) : QueueKept s (s.moveOn f) := by
  unfold State.moveOn
  split
  · exact setFlow s f none
  · split_ifs
    · exact setFlow s f none
    · split
      · exact setFlow s _ _
      · exact (setFlow s f _).trans (skipDone _)
    · exact setFlow s f _

theorem passBundle (s : State) : QueueKept s s.passBundle := moveOn s _

theorem dropSkip (s : State) : QueueKept s s.dropSkip := by
  unfold State.dropSkip
  split
  · exact refl s
  · refine ⟨rfl, rfl, fun p hp hskip => ⟨p, List.mem_filter.mpr ⟨hp, ?_⟩, rfl, rfl, rfl, rfl⟩⟩
    unfold isSkip at hskip
    split at hskip <;> simp_all

theorem takeFlow (s : State) (f : Flow) : QueueKept s (s.takeFlow f) := (dropSkip s).trans (moveOn _ f)

theorem takeBranch (s : State) (target : BitVec 32) : QueueKept s (s.takeBranch target) := (dropSkip s).trans (setFlow _ _ _)

theorem takeCall (s : State) (target : BitVec 32) : QueueKept s (s.takeCall target) := by
  refine trans (of_eq ?_ ?_ ?_) (takeBranch (s.writeS 63 _) target) <;> rw [State.writeS_frame]

theorem raise (s : State) (i : TrapInfo) : QueueKept s (s.raise i) := by
  refine of_eq ?_ ?_ ?_ <;> rw [State.raise_eq]

theorem seeLoops (s : State) (l : List LoopEntry) : QueueKept s (s.seeLoops l) := by
  unfold State.seeLoops
  split
  · exact refl s
  · refine ⟨rfl, rfl, fun p hp _ => ⟨_, List.mem_map_of_mem hp, ?_⟩⟩
    split_ifs <;> exact ⟨rfl, rfl, rfl, rfl⟩

theorem pushLoop (s : State) (count e : BitVec 32) : QueueKept s (s.pushLoop count e) := by
  unfold State.pushLoop
  dsimp only
  split_ifs
  · exact raise s _
  · exact takeFlow s _
  · exact raise s _
  · exact (seeLoops s _).trans (trans (t := (s.seeLoops _).mapRegs _) (of_eq rfl rfl rfl) (passBundle _))

/-- Under its predicate a C operation does what it does, else flow passes its bundle. -/
theorem cOp {q : Pred} {f : State → State} (h : QueueKept s (f s)) : QueueKept s (stateOf s (s.cOp q f)) := by
  cases hq : s.holds q
  · rw [State.cOp_false hq]; exact passBundle s
  · rw [State.cOp_true hq]; exact h

theorem runC (s : State) (i : Instr) : QueueKept s (s.runC i) := by
  cases i with
  | cNop q => unfold State.runC execCNop; exact cOp (passBundle s)
  | cBr q o => unfold State.runC execCBr; exact cOp (takeBranch s _)
  | cCall q o => unfold State.runC execCCall; exact cOp (takeCall s _)
  | cRet q => unfold State.runC execCRet; exact cOp (takeBranch s _)
  | cBrs q r => unfold State.runC execCBrs; exact cOp (takeBranch s _)
  | cCalls q r => unfold State.runC execCCalls; exact cOp (takeCall s _)
  | cLoop q r e => unfold State.runC execCLoop; exact cOp (pushLoop s _ _)
  | cLoopi q n e => unfold State.runC execCLoopi; exact cOp (pushLoop s _ _)
  | cLbreak q =>
    unfold State.runC execCLbreak
    refine cOp ?_
    split_ifs
    · exact raise s _
    · exact takeFlow s _
  | cLnext q =>
    unfold State.runC execCLnext
    refine cOp ?_
    split_ifs
    · exact raise s _
    · exact takeFlow s _
  | cYield q => unfold State.runC execCYield; exact cOp ((passBundle s).trans (of_eq rfl rfl rfl))
  | cTrap q code => unfold State.runC execCTrap; exact cOp (raise s _)
  | cExit q => unfold State.runC execCExit; exact cOp ((passBundle s).trans (of_eq rfl rfl rfl))
  | cBreak q =>
    unfold State.runC execCBreak
    refine cOp ?_
    split_ifs
    · exact raise s _
    · exact passBundle s
  | _ => exact passBundle s

end QueueKept

/-- Of a bundle that has entered the queues every operation but the C operation and a `vskip` stands in one, whatever its C operation does. -/
theorem queues_of_enter {s t : State} {b : Bundle} {c : Option PendOp}
    (h : QueueKept { s.enter ((s.queueOps b).filter fun p => p.id.slot != .c) with cur := c } t) :
    t.ctx.seq = s.ctx.seq + 1 ∧ t.ctx.atCkpt = false ∧ ∀ o ∈ b.ops, o.1 ≠ .c → isSkip o.2 = false →
      ∃ x ∈ t.ctx.queue, x.instr = o.2 ∧ x.id.slot = o.1 ∧ x.id.seq = s.ctx.seq ∧ x.id.pc = s.ctx.regs.pc := by
  refine ⟨h.seq, h.atCkpt, fun o ho hslot hskip => ?_⟩
  exact h.queue _ (List.mem_append_right _ (List.mem_filter.mpr ⟨List.mem_map_of_mem ho, by simpa using hslot⟩)) hskip

theorem dispatch_queues (s : State) (b : Bundle) : (s.dispatch b).ctx.seq = s.ctx.seq + 1 ∧ (s.dispatch b).ctx.atCkpt = false ∧
    ∀ o ∈ b.ops, o.1 ≠ .c → isSkip o.2 = false →
      ∃ x ∈ (s.dispatch b).ctx.queue, x.instr = o.2 ∧ x.id.slot = o.1 ∧ x.id.seq = s.ctx.seq ∧ x.id.pc = s.ctx.regs.pc := by
  unfold State.dispatch
  dsimp only
  split
  · exact queues_of_enter (.runC _ _)
  · exact queues_of_enter (.passBundle _)

end Sys2Proof.Machine

/-! PROOFS. The events of a context: banks that pass, a commit, a rollback (R289, R397, R406). -/
namespace Sys2Proof.Machine

/-! ### Banks -/

/-- A bank that passes changes the core in focus, and what its old bytes were is forgotten. -/
theorem passBank_eq (s : State) (keep : Bool) (b : Nat) : ∃ core hist, s.passBank keep b =
    { s with core := core, pkg := { s.pkg with hist := hist } } := by
  unfold State.passBank
  dsimp only
  split <;> exact ⟨_, _, rfl⟩

/-- Released banks that pass leave of the context all but the record of those still to pass. -/
def BanksGiven (s t : State) : Prop := ∃ giving core hist, t =
  { s with ctx := { s.ctx with giving := giving }, core := core, pkg := { s.pkg with hist := hist } }

theorem banksGiven_giveBanks (s : State) : BanksGiven s s.giveBanks := by
  unfold State.giveBanks
  refine List.foldlRecOn (motive := BanksGiven s) _ _ ⟨_, _, _, rfl⟩ ?_
  rintro t ⟨_, _, _, rfl⟩ b -
  dsimp only
  split
  · obtain ⟨_, _, h⟩ := passBank_eq _ true b
    rw [h]
    exact ⟨_, _, _, rfl⟩
  · exact ⟨_, _, _, rfl⟩

theorem settleTiles_eq (s : State) : ∃ tiles giving core hist, s.settleTiles =
    { s with ctx := { s.ctx with tiles := tiles, giving := giving }, core := core, pkg := { s.pkg with hist := hist } } := by
  unfold State.settleTiles
  dsimp only
  obtain ⟨_, _, _, h⟩ := banksGiven_giveBanks { s with ctx := { s.ctx with tiles := _ } }
  rw [h]
  exact ⟨_, _, _, _, rfl⟩

/-! ### A commit with nothing withheld -/

/-- Neither the registers and copy tags of the context nor what holds it differ. -/
structure BoundaryKept (s t : State) : Prop where
  regs : t.ctx.regs = s.ctx.regs
  tags : t.ctx.tags = s.ctx.tags
  ckstat : t.ctx.ckstat = s.ctx.ckstat
  hold : t.ctx.hold = s.ctx.hold
  trap : t.ctx.trap = s.ctx.trap
  status : t.ctx.status = s.ctx.status

theorem BoundaryKept.refl (s : State) : BoundaryKept s s := ⟨rfl, rfl, rfl, rfl, rfl, rfl⟩

theorem BoundaryKept.trans {s t u : State} (h : BoundaryKept s t) (h' : BoundaryKept t u) : BoundaryKept s u :=
  ⟨h'.regs.trans h.regs, h'.tags.trans h.tags, h'.ckstat.trans h.ckstat, h'.hold.trans h.hold, h'.trap.trans h.trap, h'.status.trans h.status⟩

theorem boundaryKept_passDomain (s : State) : BoundaryKept s s.passDomain := by
  unfold State.passDomain Context.acquireAll Context.raiseFloors Context.endInterval Context.passPhase
  exact ⟨rfl, rfl, rfl, rfl, rfl, rfl⟩

theorem boundaryKept_dropFences (s : State) : BoundaryKept s s.dropFences := by
  unfold State.dropFences
  split_ifs
  · exact ⟨rfl, rfl, rfl, rfl, rfl, rfl⟩
  · exact .refl s

/-- The checkpoint has moved to the boundary at which a context stood (R397, R401). -/
structure CheckpointMoved (s t : State) (r : CommitReq) : Prop where
  ckpt : t.ctx.ckpt = s.ctx.regs
  regs : t.ctx.regs = s.ctx.regs
  commit : t.ctx.commit = none
  endCkpt : t.ctx.endCkpt = none
  atCkpt : t.ctx.atCkpt = true
  shadow : t.ctx.shadow = 0
  ckstat : t.ctx.ckstat = ckstatNext s.ctx.ckstat r
  hold : t.ctx.hold = if r.exit then .exited else s.ctx.hold
  heldTags : r.keep = true → ∀ n x, (n, x) ∈ s.ctx.tags → x.st = .held → (n, { x with fresh := false }) ∈ t.ctx.tags
  trap : t.ctx.trap = s.ctx.trap
  status : t.ctx.status = s.ctx.status

theorem CheckpointMoved.of_kept {s u t : State} {r : CommitReq} (h : CheckpointMoved u t r) (hk : BoundaryKept s u) : CheckpointMoved s t r :=
  ⟨h.ckpt.trans hk.regs, h.regs.trans hk.regs, h.commit, h.endCkpt, h.atCkpt, h.shadow, by rw [h.ckstat, hk.ckstat], by rw [h.hold, hk.hold],
    by rw [← hk.tags]; exact h.heldTags, h.trap.trans hk.trap, h.status.trans hk.status⟩

theorem CheckpointMoved.settleTiles {s t : State} {r : CommitReq} (h : CheckpointMoved s t r) : CheckpointMoved s t.settleTiles r := by
  obtain ⟨_, _, _, _, ht⟩ := settleTiles_eq t
  rw [ht]
  exact ⟨h.ckpt, h.regs, h.commit, h.endCkpt, h.atCkpt, h.shadow, h.ckstat, h.hold, h.heldTags, h.trap, h.status⟩

/-- A held copy command stays held where pre-emption lands (R302, R413). -/
theorem mem_startHeld_of_keep {s : State} {n : Nat} {x : CopyTag} (hx : (n, x) ∈ s.ctx.tags) :
    (n, { x with fresh := false }) ∈ s.startHeld true :=
  List.mem_map.mpr ⟨(n, x), hx, by simp⟩

/-- The end of a commit moves the checkpoint; single-stepping then raises STEP (R412). -/
theorem finishCommit_eq (s : State) (r : CommitReq) : ∃ v, CheckpointMoved s v r ∧ s.finishCommit r =
    if v.ctx.stepping then v.hold ⟨v.ctx.seq, 0, v.ctx.regs.pc, false, false, 7, v.coreNum, { code := 0x3A }⟩ else v := by
  have hkept : BoundaryKept s (if r.dsync then s.passDomain else s).dropFences := by
    refine BoundaryKept.trans ?_ (boundaryKept_dropFences _)
    split_ifs
    · exact boundaryKept_passDomain s
    · exact .refl s
  refine ⟨_, CheckpointMoved.of_kept (.settleTiles ?_) hkept, rfl⟩
  refine ⟨rfl, rfl, rfl, rfl, rfl, rfl, rfl, rfl, fun hk n x hx _ => ?_, rfl, rfl⟩
  rw [hk]
  exact mem_startHeld_of_keep hx

/-- With nothing withheld a commit ends at once. -/
theorem commit_of_drained {s : State} (h : s.ctx.buffer = []) (r : CommitReq) :
    s.commit r = (s.mapCtx fun c => { c with waiting := none }).finishCommit r := by
  have hfirst : (s.mapCtx fun c => { c with waiting := none }).releaseFirst = none := by
    unfold State.releaseFirst
    simp only [State.mapCtx_ctx, h]
  unfold State.commit
  simp only [hfirst, State.mapCtx_ctx, h, List.isEmpty_nil, if_true]

/-- A commit of a boundary with nothing withheld and no trap held moves the checkpoint; single-stepping then raises STEP. -/
theorem commit_moves {s : State} (hbuf : s.ctx.buffer = []) (htrap : s.ctx.trap = none) (r : CommitReq) :
    ∃ v, CheckpointMoved s v r ∧ (s.ctx.stepping = false → s.commit r = v) ∧
      (s.ctx.stepping = true → ∃ h, h.info.code = 0x3A ∧ s.commit r = { v with ctx := { v.ctx with trap := some h } }) := by
  have hkept : BoundaryKept s (s.mapCtx fun c => { c with waiting := none }) := ⟨rfl, rfl, rfl, rfl, rfl, rfl⟩
  obtain ⟨v, hv, heq⟩ := finishCommit_eq (s.mapCtx fun c => { c with waiting := none }) r
  have hmoved : CheckpointMoved s v r := hv.of_kept hkept
  have hstep : v.ctx.stepping = s.ctx.stepping := by unfold Context.stepping; rw [hmoved.status]
  rw [commit_of_drained hbuf, heq, hstep]
  refine ⟨v, hmoved, fun h => by simp [h], fun h => ?_⟩
  rw [if_pos h, State.hold_first _ _ (hmoved.trap.trans htrap)]
  exact ⟨_, rfl, rfl⟩

/-! ### Rollback -/

/-- Of the context in focus only its engine calls' resume table and status differ, of the package nothing. -/
def RecordsEnded (s t : State) : Prop := ∃ resume batch core cores, t =
  { s with ctx := { s.ctx with resume := resume, batch := batch }, core := core, cores := cores }

theorem RecordsEnded.refl (s : State) : RecordsEnded s s := ⟨_, _, _, _, rfl⟩

theorem RecordsEnded.trans {s t u : State} (h : RecordsEnded s t) (h' : RecordsEnded t u) : RecordsEnded s u := by
  obtain ⟨_, _, _, _, rfl⟩ := h
  obtain ⟨_, _, _, _, rfl⟩ := h'
  exact ⟨_, _, _, _, rfl⟩

theorem recordsEnded_batchStatus (s : State) (r : MRecord) (st : BitVec 8) : RecordsEnded s (s.batchStatus r st) := by
  unfold State.batchStatus
  split
  · exact .refl s
  · unfold State.mapCtx
    dsimp only
    split <;> exact ⟨_, _, _, _, rfl⟩

theorem recordsEnded_dropRecords (s : State) (p : MRecord → Bool) : RecordsEnded s (s.dropRecords p) := by
  unfold State.dropRecords
  dsimp only
  split <;> exact ⟨_, _, _, _, rfl⟩

theorem recordsEnded_stopRecords (s : State) : RecordsEnded s s.stopRecords := by
  unfold State.stopRecords
  refine .trans ?_ (recordsEnded_dropRecords _ _)
  refine List.foldlRecOn (motive := RecordsEnded s) _ _ (.refl s) fun t ht r _ => ht.trans ?_
  exact .trans ⟨_, _, _, _, rfl⟩ (recordsEnded_batchStatus _ r _)

/-- What a rollback leaves (R406): the registers of the checkpoint, the long op that was in flight there, nothing withheld and no trap. -/
structure RolledBack (s t : State) : Prop where
  regs : t.ctx.regs = s.ctx.ckpt
  buffer : t.ctx.buffer = []
  queue : t.ctx.queue = s.ctx.longCkpt.toList.map fun (l : LongOp) => l.op
  trap : t.ctx.trap = none

theorem rolledBack (s : State) : RolledBack s s.rollback := by
  obtain ⟨_, _, _, _, hs⟩ := recordsEnded_stopRecords s
  unfold State.rollback
  dsimp only
  obtain ⟨_, _, _, _, ht⟩ := settleTiles_eq _
  rw [ht, hs]
  exact ⟨rfl, rfl, rfl, rfl⟩

end Sys2Proof.Machine

/-! PROOFS. The events of a context: the contexts of the machine by core and slot, and what an act at one of them leaves alone. -/
namespace Sys2Proof.Machine

/-! ### Tables -/

theorem tabGet_tabSet_of_ne {α : Type} (d : α) (l : List (Nat × α)) {x y : Nat} (v : α) (h : y ≠ x) :
    tabGet d (tabSet l x v) y = tabGet d l y := by
  induction l with
  | nil => simp [tabSet, tabGet, h]
  | cons e l ih =>
    obtain ⟨k, w⟩ := e
    unfold tabSet
    split_ifs with hlt heq
    · simp [tabGet, h]
    · subst heq
      simp [tabGet, h]
    · simp [tabGet, ih]

theorem tabGet_tabDel_of_ne {α : Type} (d : α) (l : List (Nat × α)) {x y : Nat} (h : y ≠ x) : tabGet d (tabDel l x) y = tabGet d l y := by
  induction l with
  | nil => rfl
  | cons e l ih =>
    obtain ⟨k, w⟩ := e
    unfold tabDel at ih ⊢
    by_cases hk : k = x
    · subst hk
      simp [tabGet, h, ih]
    · simp [tabGet, hk, ih]

/-- A change of the cores' shared parts keeps the contexts of a table of cores. -/
theorem tabGet_map_ctx {l : List (Nat × CoreBox)} {f : Nat × CoreBox → Nat × CoreBox}
    (hf : ∀ b, (f b).1 = b.1 ∧ (f b).2.ctx0 = b.2.ctx0 ∧ (f b).2.ctx1 = b.2.ctx1) (n : Nat) :
    (tabGet .none (l.map f) n).ctx0 = (tabGet .none l n).ctx0 ∧ (tabGet .none (l.map f) n).ctx1 = (tabGet .none l n).ctx1 := by
  induction l with
  | nil => exact ⟨rfl, rfl⟩
  | cons b l ih =>
    obtain ⟨hkey, h0, h1⟩ := hf b
    simp only [List.map_cons, tabGet, hkey]
    split_ifs
    · exact ⟨h0, h1⟩
    · exact ih

/-! ### Moving the focus -/

theorem State.ctx_eq_ctxOf (s : State) : s.ctx = s.ctxOf s.coreNum s.slotNum := by
  cases h : s.slotNum <;> simp [State.ctxOf, State.boxOf, State.box, h]

theorem State.peer_eq_ctxOf (s : State) : s.peer = s.ctxOf s.coreNum (!s.slotNum) := by
  cases h : s.slotNum <;> simp [State.ctxOf, State.boxOf, State.box, h]

@[simp] theorem State.focus_coreNum (s : State) (c : BitVec 7) (sl : Bool) : (s.focus c sl).coreNum = c := by
  unfold State.focus
  split
  · next hc => split <;> exact hc.symm
  · rfl

@[simp] theorem State.focus_slotNum (s : State) (c : BitVec 7) (sl : Bool) : (s.focus c sl).slotNum = sl := by
  unfold State.focus
  split
  · split
    · next hsl => exact hsl.symm
    · rfl
  · rfl

@[simp] theorem State.focus_pkg (s : State) (c : BitVec 7) (sl : Bool) : (s.focus c sl).pkg = s.pkg := by
  unfold State.focus
  split_ifs <;> rfl

/-- The contexts of a core stand in its box by their slots, whichever of them is in focus. -/
theorem State.box_swap (s : State) {sl : Bool} (h : sl ≠ s.slotNum) :
    ({ s with ctx := s.peer, peer := s.ctx, slotNum := sl } : State).box = s.box := by
  unfold State.box
  cases sl <;> cases hs : s.slotNum <;> simp_all

/-- Every context is where it was when the focus moves. -/
@[simp] theorem State.focus_ctxOf (s : State) (c k : BitVec 7) (sl b : Bool) : (s.focus c sl).ctxOf k b = s.ctxOf k b := by
  unfold State.focus
  split
  · split
    · rfl
    · next hsl =>
      unfold State.ctxOf State.boxOf
      rw [State.box_swap s hsl]
  · next hc =>
    unfold State.ctxOf State.boxOf
    by_cases hkc : k = c
    · subst hkc
      cases sl <;> simp [State.box, hc]
    · have hkn : k.toNat ≠ c.toNat := fun h => hkc (BitVec.eq_of_toNat_eq h)
      by_cases hk : k = s.coreNum
      · subst hk
        simp [hkc, tabGet_tabSet]
      · have hkm : k.toNat ≠ s.coreNum.toNat := fun h => hk (BitVec.eq_of_toNat_eq h)
        simp [hkc, hk, tabGet_tabSet_of_ne _ _ _ hkm, tabGet_tabDel_of_ne _ _ hkn]

theorem State.focus_ctx (s : State) (c : BitVec 7) (sl : Bool) : (s.focus c sl).ctx = s.ctxOf c sl := by
  rw [State.ctx_eq_ctxOf]
  simp

/-! ### What an act at the core in focus leaves alone -/

/-- The focus stands, and no context but the one in focus differs. -/
structure OthersKept (s t : State) : Prop where
  coreNum : t.coreNum = s.coreNum
  slotNum : t.slotNum = s.slotNum
  peer : t.peer = s.peer
  away : ∀ n, (tabGet .none t.cores n).ctx0 = (tabGet .none s.cores n).ctx0 ∧ (tabGet .none t.cores n).ctx1 = (tabGet .none s.cores n).ctx1

namespace OthersKept
variable {s t u : State}

theorem of_cores_eq (hcore : t.coreNum = s.coreNum) (hslot : t.slotNum = s.slotNum) (hpeer : t.peer = s.peer) (hcores : t.cores = s.cores) :
    OthersKept s t := ⟨hcore, hslot, hpeer, fun _ => by rw [hcores]; exact ⟨rfl, rfl⟩⟩

theorem refl (s : State) : OthersKept s s := of_cores_eq rfl rfl rfl rfl

theorem trans (h : OthersKept s t) (h' : OthersKept t u) : OthersKept s u :=
  ⟨h'.coreNum.trans h.coreNum, h'.slotNum.trans h.slotNum, h'.peer.trans h.peer,
    fun n => ⟨(h'.away n).1.trans (h.away n).1, (h'.away n).2.trans (h.away n).2⟩⟩

theorem ctxOf (h : OthersKept s t) {k : BitVec 7} {b : Bool} (hne : (k, b) ≠ (s.coreNum, s.slotNum)) : t.ctxOf k b = s.ctxOf k b := by
  by_cases hk : k = s.coreNum
  · subst hk
    have hb : b = !s.slotNum := by
      cases b <;> cases hs : s.slotNum <;> simp_all
    rw [hb, ← State.peer_eq_ctxOf, ← h.peer, State.peer_eq_ctxOf, h.coreNum, h.slotNum]
  · obtain ⟨h0, h1⟩ := h.away k.toNat
    unfold State.ctxOf State.boxOf
    rw [h.coreNum, if_neg hk, if_neg hk, h0, h1]

/-- An act at a core and slot changes no context but that one. -/
theorem at_ {f : State → State} {c : BitVec 7} {sl : Bool} (h : OthersKept (s.focus c sl) (f (s.focus c sl))) (k : BitVec 7) (b : Bool) :
    (s.at_ c sl f).ctxOf k b = if (k, b) = (c, sl) then (f (s.focus c sl)).ctx else s.ctxOf k b := by
  unfold State.at_
  rw [State.focus_ctxOf]
  split_ifs with heq
  · obtain ⟨rfl, rfl⟩ := Prod.mk.inj heq
    rw [State.ctx_eq_ctxOf, h.coreNum, h.slotNum, State.focus_coreNum, State.focus_slotNum]
  · rw [h.ctxOf (by simpa using heq), State.focus_ctxOf]

end OthersKept

@[simp] theorem State.coreNum_at_ (s : State) (c : BitVec 7) (sl : Bool) (f : State → State) : (s.at_ c sl f).coreNum = s.coreNum := by
  simp [State.at_]

@[simp] theorem State.slotNum_at_ (s : State) (c : BitVec 7) (sl : Bool) (f : State → State) : (s.at_ c sl f).slotNum = s.slotNum := by
  simp [State.at_]

@[simp] theorem State.pkg_at_ (s : State) (c : BitVec 7) (sl : Bool) (f : State → State) : (s.at_ c sl f).pkg = (f (s.focus c sl)).pkg := by
  simp [State.at_]

end Sys2Proof.Machine

/-! PROOFS. The events of a context: saving it and restoring it (R353, R414, R415). -/
namespace Sys2Proof.Machine

/-! ### What a save does beside its context -/

/-- No context but the one in focus differs, and no launch and no saved context. -/
structure BesideKept (s t : State) : Prop where
  others : OthersKept s t
  launches : t.pkg.launches = s.pkg.launches
  saved : t.pkg.saved = s.pkg.saved

namespace BesideKept
variable {s t u : State}

theorem refl (s : State) : BesideKept s s := ⟨.refl s, rfl, rfl⟩

theorem trans (h : BesideKept s t) (h' : BesideKept t u) : BesideKept s u :=
  ⟨h.others.trans h'.others, h'.launches.trans h.launches, h'.saved.trans h.saved⟩

theorem of_cores_eq (hcore : t.coreNum = s.coreNum) (hslot : t.slotNum = s.slotNum) (hpeer : t.peer = s.peer) (hcores : t.cores = s.cores)
    (hlaunches : t.pkg.launches = s.pkg.launches) (hsaved : t.pkg.saved = s.pkg.saved) : BesideKept s t :=
  ⟨.of_cores_eq hcore hslot hpeer hcores, hlaunches, hsaved⟩

theorem foldl {α : Type} {f : State → α → State} (hf : ∀ s a, BesideKept s (f s a)) (l : List α) (s : State) : BesideKept s (l.foldl f s) :=
  List.foldlRecOn (motive := BesideKept s) l f (refl s) fun t ht a _ => ht.trans (hf t a)

theorem devPut (s : State) (a : Nat) (d : List Byte) : BesideKept s (s.devPut a d) := by
  unfold State.devPut
  split <;> exact of_cores_eq rfl rfl rfl rfl rfl rfl

theorem dropL1 (s : State) (keep : Option (BitVec 7)) (secs : NatSet) : BesideKept s (s.dropL1 keep secs) := by
  unfold State.dropL1
  split
  · exact refl s
  · exact ⟨⟨rfl, rfl, rfl, tabGet_map_ctx fun _ => ⟨rfl, rfl, rfl⟩⟩, rfl, rfl⟩

theorem noteHome (s : State) (ps : List Place) : BesideKept s (s.noteHome ps) := by
  unfold State.noteHome
  refine trans ?_ (dropL1 _ none _)
  rw [foldl_nearTake_eq]
  exact of_cores_eq rfl rfl rfl rfl rfl rfl

theorem cpPut (s : State) (a : Nat) (d : List Byte) : BesideKept s (s.cpPut a d) := by
  unfold State.cpPut State.unlessSigners
  split
  · unfold State.fwPut
    dsimp only
    split_ifs
    · exact (devPut s a d).trans (noteHome _ _)
    · exact refl s
  · split_ifs
    · exact of_cores_eq rfl rfl rfl rfl rfl rfl
    · exact refl s

theorem putEntry (s : State) (a : Nat) (e : BitVec 8 × BitVec 32) : BesideKept s (s.putEntry a e) := by
  have htable : BesideKept s (s.mapPkg fun k => { k with sealVer := tabSet k.sealVer (a / 2 ^ 16) e }) := of_cores_eq rfl rfl rfl rfl rfl rfl
  unfold State.putEntry
  dsimp only
  split
  · exact htable.trans (cpPut _ _ _)
  · exact htable

theorem putImage (s : State) (v : SavedCtx) : BesideKept s (s.putImage v) := by
  unfold State.putImage
  split
  · exact refl s
  · next base _ =>
    refine foldl (fun t i => ?_) _ s
    have hversion : BesideKept t (if v.ctx.conf then t.nextVersion (base + i * 2 ^ 16) else t) := by
      split_ifs
      · exact putEntry t _ _
      · exact refl t
    dsimp only
    split
    · exact hversion.trans ((cpPut _ _ _).trans (cpPut _ _ _))
    · exact hversion

theorem openLog (s : State) (id : BitVec 32) (part : Nat) (core : BitVec 7) : BesideKept s (s.openLog id part core) :=
  of_cores_eq rfl rfl rfl rfl rfl rfl

theorem setLog (s : State) (g : ArrivalLog) : BesideKept s (s.setLog g) := of_cores_eq rfl rfl rfl rfl rfl rfl

theorem appendLog (s : State) (g : ArrivalLog) (w : RemoteWrite) : BesideKept s (s.appendLog g w) := by
  unfold State.appendLog
  dsimp only
  split
  · exact (cpPut _ _ _).trans (setLog _ _)
  · exact setLog _ _

theorem logSaved (s : State) (v : SavedCtx) (w : RemoteWrite) : BesideKept s (s.logSaved v w) := by
  unfold State.logSaved
  split
  · exact appendLog s _ _
  · exact refl s

theorem mapCore (s : State) (f : CoreSt → CoreSt) : BesideKept s (s.mapCore f) := of_cores_eq rfl rfl rfl rfl rfl rfl

theorem mapCluster (s : State) (f : CoreSt → CoreSt) : BesideKept s (s.mapCluster f) := by
  refine ⟨⟨rfl, rfl, rfl, tabGet_map_ctx fun b => ?_⟩, rfl, rfl⟩
  split_ifs <;> exact ⟨rfl, rfl, rfl⟩

theorem dropRecords (s : State) (p : MRecord → Bool) : BesideKept s (s.dropRecords p) := by
  unfold State.dropRecords
  dsimp only
  split_ifs
  · exact (mapCluster s _).trans (mapCluster _ _)
  · exact mapCluster s _

theorem batchStatus (s : State) (r : MRecord) (st : BitVec 8) : BesideKept s (s.batchStatus r st) := by
  unfold State.batchStatus
  split_ifs
  · exact refl s
  · exact of_cores_eq rfl rfl rfl rfl rfl rfl

theorem passBank (s : State) (keep : Bool) (b : Nat) : BesideKept s (s.passBank keep b) := by
  obtain ⟨_, _, h⟩ := passBank_eq s keep b
  rw [h]
  exact of_cores_eq rfl rfl rfl rfl rfl rfl

theorem cancelRecords (s : State) : BesideKept s s.cancelRecords :=
  (foldl (fun t r => batchStatus t r _) s.records s).trans (dropRecords _ _)

theorem wantDecision (s : State) (p : Nat) : BesideKept s (s.wantDecision p) := of_cores_eq rfl rfl rfl rfl rfl rfl

theorem leaveCore (s : State) (keep : Bool) : BesideKept s (s.leaveCore keep) := by
  have hended : BesideKept s (((natRange 1 63).filter fun b => s.core.owner.toList.getD b none == some s.slotNum).foldl
      (fun s b => s.passBank keep b) s).cancelRecords := (foldl (fun t b => passBank t keep b) _ s).trans (cancelRecords _)
  unfold State.leaveCore
  dsimp only
  split
  · exact (hended.trans (wantDecision _ _)).trans (of_cores_eq rfl rfl rfl rfl rfl rfl)
  · exact hended.trans (of_cores_eq rfl rfl rfl rfl rfl rfl)

end BesideKept

/-! ### A context is saved -/

/-- The saved form of a context of a core. -/
def SavedFrom (v : SavedCtx) (c : Context) (k : BitVec 7) : Prop :=
  v.ctx = c ∧ v.core = k ∧ v.part = c.info.part.toNat ∧ v.launchId = c.info.launchId

theorem saveHere_ctx (s : State) : s.saveHere.ctx = .none := rfl

/-- What a save of the context in focus writes down. -/
def State.imageHere (s : State) : SavedCtx :=
  let v := s.savedForm (s.pkg.saveSerial + 1)
  { v with units := v.unitCount, base := s.spareFit v.part v.stack (v.unitCount + 1) }

/-- It stands among the saved contexts before its image is written and its slot is freed. -/
def State.withImage (s : State) : State := s.mapPkg fun k => { k with saveSerial := s.pkg.saveSerial + 1, saved := k.saved ++ [s.imageHere] }

theorem besideKept_saveHere (s : State) : BesideKept s.withImage s.saveHere := by
  have himage : BesideKept s.withImage ((s.withImage.putImage s.imageHere).openLog s.imageHere.launchId s.imageHere.part s.imageHere.core) :=
    (BesideKept.putImage _ _).trans (.openLog _ _ _ _)
  have hlogged := himage.trans (.foldl (fun t w => .logSaved t s.imageHere w) s.queuedHere _)
  exact ((hlogged.trans (.mapCore _ _)).trans (.dropRecords _ _)).trans (.leaveCore _ false)

/-- A save changes no other context; the one in focus stands among the saved ones after those that stood there. -/
theorem saveHere_keeps (s : State) : OthersKept s s.saveHere ∧
    ∃ v, s.saveHere.pkg.saved = s.pkg.saved ++ [v] ∧ SavedFrom v s.ctx s.coreNum :=
  ⟨.trans (t := s.withImage) (.of_cores_eq rfl rfl rfl rfl) (besideKept_saveHere s).others,
    s.imageHere, (besideKept_saveHere s).saved, rfl, rfl, rfl, rfl⟩

/-- The contexts at some places are saved, one after the other. -/
def State.saveAll (s : State) (l : List (BitVec 7 × Bool)) : State := l.foldl (fun s x => s.at_ x.1 x.2 State.saveHere) s

theorem saveAll_spec {l : List (BitVec 7 × Bool)} (hl : l.Nodup) (s : State) :
    ((s.saveAll l).coreNum = s.coreNum ∧ (s.saveAll l).slotNum = s.slotNum) ∧
    (∀ k b, (s.saveAll l).ctxOf k b = if (k, b) ∈ l then .none else s.ctxOf k b) ∧
    (∀ v ∈ s.pkg.saved, v ∈ (s.saveAll l).pkg.saved) ∧
    ∀ x ∈ l, ∃ v ∈ (s.saveAll l).pkg.saved, SavedFrom v (s.ctxOf x.1 x.2) x.1 := by
  induction l generalizing s with
  | nil => exact ⟨⟨rfl, rfl⟩, fun k b => by simp [State.saveAll], fun v hv => hv, fun x hx => absurd hx List.not_mem_nil⟩
  | cons x l ih =>
    obtain ⟨hx, hl⟩ := List.nodup_cons.mp hl
    obtain ⟨hothers, v, hsaved, hv⟩ := saveHere_keeps (s.focus x.1 x.2)
    have hctx := OthersKept.at_ hothers
    obtain ⟨⟨hcore, hslot⟩, hctxs, hkeep, hnew⟩ := ih hl (s.at_ x.1 x.2 State.saveHere)
    have hmem : ∀ w, w ∈ s.pkg.saved ∨ w = v → w ∈ (s.saveAll (x :: l)).pkg.saved := fun w hw =>
      hkeep w (by rw [State.pkg_at_, hsaved]; simpa using hw)
    refine ⟨⟨hcore.trans (State.coreNum_at_ ..), hslot.trans (State.slotNum_at_ ..)⟩, fun k b => ?_, fun w hw => hmem w (.inl hw),
      fun y hy => ?_⟩
    · refine (hctxs k b).trans ?_
      rw [hctx, saveHere_ctx]
      by_cases hkb : (k, b) = x
      · simp [hkb]
      · simp [hkb]
    · rcases List.mem_cons.mp hy with rfl | hy
      · rw [State.focus_ctx, State.focus_coreNum] at hv
        exact ⟨v, hmem v (.inr rfl), hv⟩
      · obtain ⟨w, hw, hfrom⟩ := hnew y hy
        have hne : (y.1, y.2) ≠ (x.1, x.2) := fun h : y = x => hx (h ▸ hy)
        rw [hctx, if_neg hne] at hfrom
        exact ⟨w, hw, hfrom⟩

theorem exec_contextSave {s : State} {l : Launch} (hl : s.launchHere = some l) (hst : l.st = .resident)
    (hsave : ∀ x ∈ l.left, (s.focus x.1 x.2).canSave = true) :
    ∃ l', exec .evContextSave s = .next ((s.saveAll l.left).setLaunch l') := by
  change ∃ l', execEvContextSave s = _
  unfold execEvContextSave
  rw [hl]
  dsimp only
  rw [if_neg (by simpa [hst] using hsave)]
  exact ⟨_, rfl⟩

theorem exec_contextSave_waits {s : State} {l : Launch} (hl : s.launchHere = some l)
    (h : l.st ≠ .resident ∨ ∃ x ∈ l.left, (s.focus x.1 x.2).canSave = false) : exec .evContextSave s = .next s := by
  change execEvContextSave s = _
  unfold execEvContextSave
  rw [hl]
  dsimp only
  rw [if_pos]
  rcases h with hst | ⟨x, hx, hno⟩
  · simp [hst]
  · simp only [Bool.not_eq_true', Bool.and_eq_false_iff]
    exact .inr (List.all_eq_false.mpr ⟨x, hx, by simp [hno]⟩)

theorem contextSave {s : State} {l : Launch} (hl : s.launchHere = some l) (hst : l.st = .resident)
    (hsave : ∀ x ∈ l.left, (s.focus x.1 x.2).canSave = true) (hnodup : (l.left.map (·.1)).Nodup) (hmem : (s.coreNum, s.slotNum) ∈ l.left) :
    ∃ t, exec .evContextSave s = .next t ∧ t.ctx = .none ∧ (∀ x ∈ l.left, (t.focus x.1 x.2).ctx = .none) ∧
      ∃ v ∈ t.pkg.saved, SavedFrom v s.ctx s.coreNum := by
  obtain ⟨l', hexec⟩ := exec_contextSave hl hst hsave
  obtain ⟨⟨hcore, hslot⟩, hctxs, -, hnew⟩ := saveAll_spec (.of_map _ hnodup) s
  have hnone : ∀ x ∈ l.left, ((s.saveAll l.left).setLaunch l').ctxOf x.1 x.2 = .none := fun x hx => (hctxs x.1 x.2).trans (if_pos hx)
  refine ⟨_, hexec, ?_, fun x hx => (State.focus_ctx _ _ _).trans (hnone x hx), ?_⟩
  · rw [State.ctx_eq_ctxOf]
    have := hnone _ hmem
    rwa [← hcore, ← hslot] at this
  · obtain ⟨v, hv, hfrom⟩ := hnew _ hmem
    rw [← State.ctx_eq_ctxOf] at hfrom
    exact ⟨v, hv, hfrom⟩

/-! ### A context is restored -/

/-- Only the shared part of the core in focus differs. -/
def OnlyCore (s t : State) : Prop := ∃ core, t = { s with core := core }

theorem OnlyCore.foldl {α : Type} {f : State → α → State} (hf : ∀ s a, OnlyCore s (f s a)) (l : List α) (s : State) :
    OnlyCore s (l.foldl f s) := by
  refine List.foldlRecOn (motive := OnlyCore s) l f ⟨s.core, rfl⟩ fun t ht a _ => ?_
  obtain ⟨_, h⟩ := hf t a
  obtain ⟨_, rfl⟩ := ht
  exact ⟨_, h⟩

theorem onlyCore_admitBanks (s : State) : OnlyCore s s.admitBanks := by
  unfold State.admitBanks
  refine OnlyCore.foldl (fun t b => ?_) _ s
  split
  · exact ⟨_, rfl⟩
  · exact ⟨t.core, rfl⟩

/-- Reading back an image puts its context in the slot in focus and takes the image out of the saved ones; no other context differs. -/
theorem restoreHere_eq (s : State) (v : SavedCtx) : ∃ core, s.restoreHere v =
    { s with ctx := restoredCtx v s.slotNum, core := core, pkg := { s.pkg with saved := s.pkg.saved.erase v } } := by
  obtain ⟨core, hcore⟩ := OnlyCore.foldl (fun t b => ⟨_, rfl⟩ : ∀ (t : State) (b : Nat),
    OnlyCore t (t.mapCore fun c => (c.clearBank b).setOwner b (some t.slotNum))) v.banks s
  unfold State.restoreHere
  dsimp only
  rw [hcore]
  obtain ⟨core', hadmit⟩ := onlyCore_admitBanks _
  rw [hadmit]
  exact ⟨core', rfl⟩

theorem othersKept_restoreHere (s : State) (v : SavedCtx) : OthersKept s (s.restoreHere v) := by
  obtain ⟨_, h⟩ := restoreHere_eq s v
  rw [h]
  exact .of_cores_eq rfl rfl rfl rfl

theorem restoreHere_ctx (s : State) (v : SavedCtx) : (s.restoreHere v).ctx = restoredCtx v s.slotNum := by
  obtain ⟨_, h⟩ := restoreHere_eq s v
  rw [h]

theorem restoreHere_saved (s : State) (v : SavedCtx) : (s.restoreHere v).pkg.saved = s.pkg.saved.erase v := by
  obtain ⟨_, h⟩ := restoreHere_eq s v
  rw [h]

/-- The slot that a launch has on a core. -/
def Launch.slotOn (l : Launch) (c : BitVec 7) : Bool := ((l.place.find? fun x => x.1 == c).map fun x => x.2).getD false

/-- The saved contexts of a launch. -/
def State.imagesOf (s : State) (l : Launch) : List SavedCtx := s.pkg.saved.filter fun v => v.part == l.part && v.launchId == l.id

/-- Images are read back, each at its core, one after the other. -/
def State.restoreAll (s : State) (l : Launch) (vs : List SavedCtx) : State :=
  vs.foldl (fun s v => s.at_ v.core (l.slotOn v.core) fun s => s.restoreHere v) s

theorem restoreAll_cons (s : State) (l : Launch) (v : SavedCtx) (vs : List SavedCtx) :
    s.restoreAll l (v :: vs) = (s.at_ v.core (l.slotOn v.core) fun s => s.restoreHere v).restoreAll l vs := by
  unfold State.restoreAll
  rw [List.foldl_cons]

theorem restoreAll_spec (l : Launch) {vs : List SavedCtx} (hvs : (vs.map (·.core)).Nodup) (s : State) :
    ((s.restoreAll l vs).coreNum = s.coreNum ∧ (s.restoreAll l vs).slotNum = s.slotNum) ∧
    (s.restoreAll l vs).pkg.saved = s.pkg.saved.diff vs ∧
    (∀ k b, k ∉ vs.map (·.core) → (s.restoreAll l vs).ctxOf k b = s.ctxOf k b) ∧
    ∀ v ∈ vs, (s.restoreAll l vs).ctxOf v.core (l.slotOn v.core) = restoredCtx v (l.slotOn v.core) := by
  induction vs generalizing s with
  | nil => exact ⟨⟨rfl, rfl⟩, (List.diff_nil _).symm, fun _ _ _ => rfl, fun _ hv => nomatch hv⟩
  | cons v vs ih =>
    obtain ⟨hv, hvs⟩ := List.nodup_cons.mp hvs
    have hctx := OthersKept.at_ (f := fun s => s.restoreHere v) (othersKept_restoreHere (s.focus v.core (l.slotOn v.core)) v)
    obtain ⟨⟨hcore, hslot⟩, hsaved, hother, hback⟩ := ih hvs (s.at_ v.core (l.slotOn v.core) fun s => s.restoreHere v)
    rw [restoreAll_cons]
    refine ⟨⟨hcore.trans (State.coreNum_at_ ..), hslot.trans (State.slotNum_at_ ..)⟩, ?_, fun k b hk => ?_, fun w hw => ?_⟩
    · rw [hsaved, State.pkg_at_, restoreHere_saved, State.focus_pkg, List.diff_cons]
    · rw [List.map_cons, List.mem_cons, not_or] at hk
      rw [hother k b hk.2, hctx, if_neg fun h => hk.1 (Prod.mk.inj h).1]
    · rcases List.mem_cons.mp hw with rfl | hw
      · rw [hother _ _ hv, hctx, if_pos rfl, restoreHere_ctx, State.focus_slotNum]
      · exact hback w hw

/-- None of the elements that a test picks is left when each of them has been taken out. -/
theorem not_mem_filter_of_mem_diff {α : Type} [BEq α] [LawfulBEq α] {p : α → Bool} {l : List α} {a : α} (h : a ∈ l.diff (l.filter p)) :
    a ∉ l.filter p := by
  intro hmem
  have hcount : (l.filter p).count a = l.count a := List.count_filter (List.mem_filter.mp hmem).2
  have hpos := List.count_pos_iff.mpr h
  rw [List.count_diff, hcount] at hpos
  omega

section
variable {s : State} {l : Launch} {here : SavedCtx} (hl : s.launchHere = some l)
  (hhere : ((s.imagesOf l).find? fun v => v.core == s.coreNum) = some here) (hst : l.st = .resident) (hissuable : s.ctx.issuable = false)
include hl hhere hst hissuable

theorem exec_contextRestore_good (hok : s.arg.ok = true) (hgood : ∀ v ∈ s.imagesOf l, s.imageBad v = false) :
    exec .evContextRestore s = .next ((s.restoreAll l (s.imagesOf l)).setLaunch { l with serials := [] }) := by
  have hbad : (s.imagesOf l).find? s.imageBad = none := List.find?_eq_none.mpr fun v hv => by simp [hgood v hv]
  change execEvContextRestore s = _
  unfold execEvContextRestore
  unfold State.imagesOf at hhere hbad
  simp only [hl, hhere, hst, hissuable, hok, hbad, bne_self_eq_false, Bool.or_self, Bool.false_eq_true, if_false, if_true]
  rfl

theorem exec_contextRestore_bad (hbad : s.arg.ok = false ∨ ∃ v ∈ s.imagesOf l, s.imageBad v = true) :
    ∃ v ∈ s.imagesOf l, exec .evContextRestore s = .next (s.at_ v.core (l.slotOn v.core) fun s => s.saveCorrupt v) := by
  have hfound : ∃ v ∈ s.imagesOf l, (if s.arg.ok then (s.imagesOf l).find? s.imageBad else some here) = some v := by
    by_cases hok : s.arg.ok = true
    · obtain ⟨v, hv, hvbad⟩ := hbad.resolve_left (by simp [hok])
      obtain ⟨w, hw⟩ := Option.isSome_iff_exists.mp (List.find?_isSome.mpr ⟨v, hv, hvbad⟩)
      exact ⟨w, List.mem_of_find?_eq_some hw, by rw [if_pos hok, hw]⟩
    · exact ⟨here, List.mem_of_find?_eq_some hhere, by rw [if_neg hok]⟩
  obtain ⟨v, hv, hfind⟩ := hfound
  refine ⟨v, hv, ?_⟩
  change execEvContextRestore s = _
  unfold execEvContextRestore
  unfold State.imagesOf at hhere hfind
  simp only [hl, hhere, hst, hissuable, hfind, bne_self_eq_false, Bool.or_self, Bool.false_eq_true, if_false]
  rfl

end

/-! ### An image that fails (R415) -/

theorem loseAttempt_launches (s : State) (p : Nat) (step : Word) (c : LossCause) :
    (s.loseAttempt p step c).ctx = s.ctx ∧ (s.loseAttempt p step c).pkg.launches = s.pkg.launches := by
  unfold State.loseAttempt
  split
  · split_ifs <;> exact ⟨rfl, rfl⟩
  · exact ⟨rfl, rfl⟩

theorem loseStepOf_launches (s : State) (l : Launch) (c : LossCause) :
    (s.loseStepOf l c).ctx = s.ctx ∧ (s.loseStepOf l c).pkg.launches = s.pkg.launches := by
  unfold State.loseStepOf
  split
  · split_ifs
    · exact loseAttempt_launches s _ _ c
    · exact ⟨rfl, rfl⟩
    · exact loseAttempt_launches s _ _ c
  · exact ⟨rfl, rfl⟩

theorem deliver_launches (hs kept : List HeldCmpl) (s : State) : (s.deliver hs kept).pkg.launches = s.pkg.launches := by
  induction hs generalizing kept s with
  | nil => rfl
  | cons h hs ih =>
    unfold State.deliver
    dsimp only
    split_ifs
    · exact ih _ s
    · rw [ih, (BesideKept.cpPut _ _ _).launches, (BesideKept.cpPut _ _ _).launches]

theorem complete_launches (s : State) (l : Launch) (status : Nat) (trap : Word × Word) :
    (s.complete l status trap).pkg.launches = s.pkg.launches := by
  unfold State.complete
  split
  · rfl
  · dsimp only
    unfold State.flushCmpl
    split
    · rfl
    · exact deliver_launches _ _ _

/-- A launch that is killed is gone (R347). -/
theorem gone_killLaunch (s : State) (l : Launch) (trap : Word × Word) : Claims.Gone (s.killLaunch l trap) l := by
  rintro x hx ⟨hpart, hid⟩
  unfold State.killLaunch at hx
  dsimp only at hx
  rw [(loseStepOf_launches _ _ _).2] at hx
  have hdropped : x ∈ ((((s.killAll l).dropRes l).dropLaunch l).complete l stKilled trap).pkg.launches := hx
  rw [complete_launches] at hdropped
  obtain ⟨-, hname⟩ := List.mem_filter.mp hdropped
  simp [hpart, hid] at hname

/-- SAVE_CORRUPT kills the launch of the context it is raised in. -/
theorem gone_saveCorrupt {s : State} {v : SavedCtx} {l : Launch} (hl : s.findLaunch v.ctx.info.part.toNat v.ctx.info.launchId = some l)
    (hstopped : s.pkg.stopped = false) : Claims.Gone (s.saveCorrupt v) l := by
  have hfind : ∀ u : State, u.ctx.info = v.ctx.info → u.pkg.launches = s.pkg.launches → u.launchHere = some l := by
    intro u hinfo hlaunches
    unfold State.launchHere State.findLaunch
    rw [hinfo, hlaunches]
    exact hl
  unfold State.saveCorrupt State.takeTrap
  dsimp only
  rw [if_pos rfl]
  generalize hu : State.recordTrap _ _ = u
  have hinfo : u.ctx.info = v.ctx.info := by rw [← hu]; rfl
  have hlaunches : u.pkg.launches = s.pkg.launches := by rw [← hu]; rfl
  have hrun : u.pkg.stopped = false := by rw [← hu]; exact hstopped
  have hlost : u.respond { code := 0x41 } = (u.loseMine .fault).killMine := by
    unfold State.respond
    rw [if_neg (by simp [hrun])]
    rfl
  obtain ⟨hctx, hstep⟩ := loseStepOf_launches u l .fault
  rw [hlost]
  unfold State.loseMine
  rw [hfind u hinfo hlaunches]
  dsimp only
  unfold State.killMine
  rw [hfind _ (by rw [hctx, hinfo]) (by rw [hstep, hlaunches])]
  exact gone_killLaunch _ l _

theorem contextRestore_corrupt {s : State} {l : Launch} {here : SavedCtx} (hl : s.launchHere = some l)
    (hhere : ((s.imagesOf l).find? fun v => v.core == s.coreNum) = some here) (hst : l.st = .resident) (hissuable : s.ctx.issuable = false)
    (hbad : s.arg.ok = false ∨ ∃ v ∈ s.imagesOf l, s.imageBad v = true)
    (hname : ∀ v ∈ s.imagesOf l, v.ctx.info.part.toNat = l.part ∧ v.ctx.info.launchId = l.id) (hstopped : s.pkg.stopped = false) :
    ∃ t, exec .evContextRestore s = .next t ∧ Claims.Gone t l := by
  obtain ⟨v, hv, hexec⟩ := exec_contextRestore_bad hl hhere hst hissuable hbad
  obtain ⟨hpart, hid⟩ := hname v hv
  have hfind : (s.focus v.core (l.slotOn v.core)).findLaunch v.ctx.info.part.toNat v.ctx.info.launchId = some l := by
    have hnamed : l.part = s.ctx.info.part.toNat ∧ l.id = s.ctx.info.launchId := by simpa using List.find?_some hl
    unfold State.findLaunch
    rw [hpart, hid, hnamed.1, hnamed.2, State.focus_pkg]
    exact hl
  have hgone := gone_saveCorrupt hfind (by rw [State.focus_pkg]; exact hstopped)
  refine ⟨_, hexec, fun x hx => hgone x ?_⟩
  rwa [State.pkg_at_] at hx

theorem contextRestore_good {s : State} {l : Launch} {v : SavedCtx} (hl : s.launchHere = some l) (hv : v ∈ s.imagesOf l)
    (hcore : v.core = s.coreNum) (hst : l.st = .resident) (hissuable : s.ctx.issuable = false)
    (hnodup : ((s.imagesOf l).map (·.core)).Nodup) (hok : s.arg.ok = true) (hgood : ∀ x ∈ s.imagesOf l, s.imageBad x = false)
    (hplace : (l.place.find? fun x => x.1 == s.coreNum) = some (s.coreNum, s.slotNum)) :
    ∃ t, exec .evContextRestore s = .next t ∧ t.ctx = restoredCtx v s.slotNum ∧ ∀ x ∈ t.pkg.saved, x ∉ s.imagesOf l := by
  have hsome : ((s.imagesOf l).find? fun v => v.core == s.coreNum).isSome := List.find?_isSome.mpr ⟨v, hv, beq_iff_eq.mpr hcore⟩
  obtain ⟨here, hhere⟩ := Option.isSome_iff_exists.mp hsome
  have hslotOn : l.slotOn v.core = s.slotNum := by
    unfold Launch.slotOn
    rw [hcore, hplace]
    rfl
  obtain ⟨⟨hnum, hslot⟩, hsaved, -, hback⟩ := restoreAll_spec l hnodup s
  refine ⟨_, exec_contextRestore_good hl hhere hst hissuable hok hgood, ?_, fun x hx => ?_⟩
  · have hthere := hback v hv
    rw [hslotOn, hcore] at hthere
    rw [State.ctx_eq_ctxOf, State.setLaunch, State.mapPkg_coreNum, State.mapPkg_slotNum, hnum, hslot]
    exact hthere
  · have hmem : x ∈ (s.restoreAll l (s.imagesOf l)).pkg.saved := hx
    rw [hsaved] at hmem
    exact not_mem_filter_of_mem_diff hmem

end Sys2Proof.Machine

/-! PROOFS. The events of a context together. -/
namespace Sys2Proof.Machine

/-! ### Dispatch (R79, R397, R412) -/

theorem exec_bundleDispatch (s : State) : exec .evBundleDispatch s = .next (if s.canDispatch then s.nextBundle else s) := rfl

/-- A context whose bundle may dispatch has no trap held. -/
theorem trap_of_canDispatch {s : State} (h : s.canDispatch = true) : s.ctx.trap = none := by
  unfold State.canDispatch State.hasBundle State.mayFetch at h
  simp only [Bool.and_eq_true, Option.isNone_iff_eq_none] at h
  tauto

theorem bundleDispatch_stepping {s : State} (h : s.canDispatch = true) (hstep : s.ctx.stepping = true) (hat : s.ctx.atCkpt = false) :
    exec .evBundleDispatch s = .next { s with ctx := { s.ctx with endCkpt := some ⟨false, false, false, false, false⟩ } } := by
  rw [exec_bundleDispatch, if_pos h]
  unfold State.nextBundle
  rw [if_pos (by simp [hstep, hat])]
  rfl

section
variable {s u : State} (h : s.canDispatch = true) (hstep : s.ctx.stepping = false ∨ s.ctx.atCkpt = true)
include h hstep

theorem bundleDispatch_fault {x : Held} (hf : s.fetch = .error (u, x)) :
    exec .evBundleDispatch s = .next { u with ctx := { u.ctx with trap := some x } } := by
  have hgo : (s.ctx.stepping && !s.ctx.atCkpt) = false := by rcases hstep with h | h <;> simp [h]
  have hfirst := State.hold_first u x ((fetchedFrom_of_error hf).trap.trans (trap_of_canDispatch h))
  rw [exec_bundleDispatch, if_pos h, ← hfirst]
  unfold State.nextBundle
  rw [if_neg (by simp [hgo]), hf]

theorem bundleDispatch_queues {b : Bundle} (hf : s.fetch = .ok (u, b)) (hw : u.ctx.atCkpt = true ∨ u.wish b = none) :
    ∃ t, exec .evBundleDispatch s = .next t ∧ t.ctx.seq = s.ctx.seq + 1 ∧ t.ctx.atCkpt = false ∧
      ∀ o ∈ b.ops, o.1 ≠ .c → (∀ q n, o.2 ≠ .vSkip q n) →
        ∃ x ∈ t.ctx.queue, x.instr = o.2 ∧ x.id.slot = o.1 ∧ x.id.seq = s.ctx.seq ∧ x.id.pc = u.ctx.regs.pc := by
  obtain ⟨hseq, hat, hqueue⟩ := dispatch_queues u b
  rw [(fetchedFrom_of_ok hf).seq] at hseq hqueue
  refine ⟨u.dispatch b, ?_, hseq, hat, fun o ho hslot hskip => hqueue o ho hslot ?_⟩
  · rw [exec_bundleDispatch, if_pos h, nextBundle_eq_dispatch hstep hf hw]
  · unfold isSkip
    split
    · next q n heq => exact absurd heq (hskip q n)
    · rfl

theorem bundleDispatch_commitsFirst {b : Bundle} {r : CommitReq} (hf : s.fetch = .ok (u, b)) (hat : u.ctx.atCkpt = false)
    (hw : u.wish b = some r) : exec .evBundleDispatch s = .next { u with ctx := { u.ctx with endCkpt := some r } } := by
  have hgo : (s.ctx.stepping && !s.ctx.atCkpt) = false := by rcases hstep with h | h <;> simp [h]
  have hwish : (if u.ctx.atCkpt then none else u.wish b) = some r := by rw [if_neg (by simp [hat]), hw]
  rw [exec_bundleDispatch, if_pos h]
  unfold State.nextBundle
  rw [if_neg (by simp [hgo]), hf]
  dsimp only
  rw [hwish]
  rfl

end

/-! ### Commits and faults (R397, R402, R455) -/

theorem checkpointCommit_drained {s : State} {r : CommitReq} (hcommit : s.ctx.commit = none) (hend : s.ctx.endCkpt = some r)
    (hqueue : s.ctx.queue = []) (htrap : s.ctx.trap = none) (hfault : s.ctx.fault = []) (hhold : s.ctx.hold = .no) (hbuf : s.ctx.buffer = []) :
    ∃ t, exec .evCheckpointCommit s = .next t ∧ t.ctx.ckpt = s.ctx.regs ∧ t.ctx.regs = s.ctx.regs ∧ t.ctx.commit = none ∧
      t.ctx.endCkpt = none ∧ t.ctx.atCkpt = true ∧ t.ctx.shadow = 0 ∧ t.ctx.ckstat = ckstatNext s.ctx.ckstat r ∧
      t.ctx.hold = (if r.exit then .exited else .no) ∧
      t.ctx.trap.map (fun h => h.info.code) = if s.ctx.stepping then some 0x3A else none := by
  have hexec : exec .evCheckpointCommit s = .next ((s.mapCtx fun c => { c with commit := some r }).commit r) := by
    change execEvCheckpointCommit s = _
    unfold execEvCheckpointCommit
    simp [hcommit, hend, hqueue, htrap, hfault, hhold]
  obtain ⟨v, hv, hplain, hstepping⟩ := commit_moves (s := s.mapCtx fun c => { c with commit := some r }) hbuf htrap r
  have hvhold : v.ctx.hold = if r.exit then .exited else .no := by rw [hv.hold, State.mapCtx_ctx, hhold]
  refine ⟨_, hexec, ?_⟩
  cases hs : s.ctx.stepping
  · rw [hplain hs]
    exact ⟨hv.ckpt, hv.regs, hv.commit, hv.endCkpt, hv.atCkpt, hv.shadow, hv.ckstat, hvhold,
      by rw [hv.trap, State.mapCtx_ctx, htrap]; rfl⟩
  · obtain ⟨h, hcode, heq⟩ := hstepping hs
    rw [heq]
    exact ⟨hv.ckpt, hv.regs, hv.commit, hv.endCkpt, hv.atCkpt, hv.shadow, hv.ckstat, hvhold, congrArg some hcode⟩

theorem checkpointCommit_none {s : State} (hcommit : s.ctx.commit = none) (hend : s.ctx.endCkpt = none) :
    exec .evCheckpointCommit s = .next s := by
  change execEvCheckpointCommit s = _
  unfold execEvCheckpointCommit
  rw [hcommit, hend]

theorem asyncFault_none {s : State} (h : s.ctx.fault = []) : exec .evAsyncFaultReport s = .next s := by
  change execEvAsyncFaultReport s = _
  unfold execEvAsyncFaultReport
  rw [h]
  rfl

theorem asyncFault_held {s : State} {h : Held} (hfirst : firstFault s.ctx.fault = some h) (hhold : s.ctx.hold ≠ .held)
    (hparked : s.ctx.parked = false) (hissuable : s.ctx.issuable = true) (htrap : s.ctx.trap = none) :
    exec .evAsyncFaultReport s =
      .next { s with ctx := { s.ctx with fault := [], trap := some { h with seq := s.ctx.seq, rank := 0 } } } := by
  change execEvAsyncFaultReport s = _
  unfold execEvAsyncFaultReport
  simp only [hfirst]
  rw [if_neg (by simp [hhold, hparked, hissuable]), State.hold_first (s.mapCtx fun c => { c with fault := [] }) _ htrap]
  rfl

/-! ### Pre-emption (R342, R413) -/

/-- What a context that may park at its boundary does not have at work. -/
theorem trap_commit_of_canPark {s : State} (h : s.canPark = true) : s.ctx.trap = none ∧ s.ctx.commit = none := by
  unfold State.canPark at h
  simp only [Bool.and_eq_true, Option.isNone_iff_eq_none] at h
  tauto

theorem preemptByBoundary_no {s : State} (h : s.canPark = false) : exec .evPreemptByBoundary s = .next s := by
  change execEvPreemptByBoundary s = _
  unfold execEvPreemptByBoundary
  rw [if_pos (by simp [h])]

theorem preemptByBoundary_atCkpt {s : State} (h : s.canPark = true) (hat : s.ctx.atCkpt = true) :
    exec .evPreemptByBoundary s = .next { s with ctx := { s.ctx with parked := true } } := by
  obtain ⟨htrap, hcommit⟩ := trap_commit_of_canPark h
  change execEvPreemptByBoundary s = _
  unfold execEvPreemptByBoundary
  rw [if_neg (by simp [h])]
  dsimp only
  rw [if_pos hat, if_pos (by simp [htrap, hcommit])]
  rfl

theorem preemptByBoundary_commits {s : State} (h : s.canPark = true) (hat : s.ctx.atCkpt = false) (hbuf : s.ctx.buffer = [])
    (hstep : s.ctx.stepping = false) : ∃ t, exec .evPreemptByBoundary s = .next t ∧ t.ctx.parked = true ∧ t.ctx.ckpt = s.ctx.regs ∧
      t.ctx.regs = s.ctx.regs ∧ ∀ n x, (n, x) ∈ s.ctx.tags → x.st = .held → (n, { x with fresh := false }) ∈ t.ctx.tags := by
  obtain ⟨htrap, -⟩ := trap_commit_of_canPark h
  obtain ⟨v, hv, hplain, -⟩ := commit_moves (s := s.mapCtx fun c => { c with commit := some ⟨true, false, false, false, true⟩ }) hbuf htrap
    ⟨true, false, false, false, true⟩
  have hexec : exec .evPreemptByBoundary s = .next (v.mapCtx fun c => { c with parked := true }) := by
    change execEvPreemptByBoundary s = _
    unfold execEvPreemptByBoundary
    simp only [h, hat, Bool.not_true, Bool.false_eq_true, if_false]
    rw [hplain hstep, if_pos (by simp [hv.commit, hv.trap, htrap])]
  exact ⟨_, hexec, rfl, hv.ckpt, hv.regs, hv.heldTags rfl⟩

theorem preemptByRollback_no {s : State} (h : s.ctx.preempt = false) : exec .evPreemptByRollback s = .next s := by
  change execEvPreemptByRollback s = _
  unfold execEvPreemptByRollback
  rw [if_pos (by simp [h])]

section
variable {s : State} (hlive : s.ctx.live = true) (hissuable : s.ctx.issuable = true) (hpre : s.ctx.preempt = true)
  (hparked : s.ctx.parked = false) (hwait : s.ctx.commit = none ∨ s.tagged ≠ none)
include hlive hissuable hpre hparked hwait

theorem preemptGuard_eq_false :
    (!(s.ctx.live && s.ctx.issuable && s.ctx.preempt && !s.ctx.parked && (s.ctx.commit.isNone || s.tagged.isSome))) = false := by
  have hgo : (s.ctx.commit.isNone || s.tagged.isSome) = true := by
    rcases hwait with h | h
    · simp [h]
    · simp [Option.isSome_iff_ne_none.mpr h]
  simp [hlive, hissuable, hpre, hparked, hgo]

theorem preemptByRollback_running (h : s.ctx.hold = .no) :
    exec .evPreemptByRollback s = .next (s.rollback.mapCtx fun c => { c with parked := true }) := by
  change execEvPreemptByRollback s = _
  unfold execEvPreemptByRollback
  rw [preemptGuard_eq_false hlive hissuable hpre hparked hwait, if_neg Bool.false_ne_true, h]

theorem preemptByRollback_held (h : s.ctx.hold = .held) : exec .evPreemptByRollback s = .next (s.mapCtx fun c => { c with parked := true }) := by
  change execEvPreemptByRollback s = _
  unfold execEvPreemptByRollback
  rw [preemptGuard_eq_false hlive hissuable hpre hparked hwait, if_neg Bool.false_ne_true, h]

theorem preemptByRollback_exited (h : s.ctx.hold = .exited) : exec .evPreemptByRollback s = .next s := by
  change execEvPreemptByRollback s = _
  unfold execEvPreemptByRollback
  rw [preemptGuard_eq_false hlive hissuable hpre hparked hwait, if_neg Bool.false_ne_true, h]

end

/-! ### Tagged waits (R365) -/

theorem tagged_of_queued {s : State} {id : OpId} (hw : s.ctx.waiting = some id) (hq : ∃ o ∈ s.ctx.queue, o.id = id) :
    s.tagged = some id := by
  obtain ⟨o, ho, hid⟩ := hq
  have hany : (s.ctx.queue.any fun o => o.id == id) = true := List.any_eq_true.mpr ⟨o, ho, by simp [hid]⟩
  unfold State.tagged Context.tagged
  simp [hw, hany]

theorem waitTimeout_none {s : State} (h : s.tagged = none) : exec .evWaitTimeout s = .next s := by
  change execEvWaitTimeout s = _
  unfold execEvWaitTimeout
  rw [h]

theorem waitTimeout_never {s : State} {id : OpId} (h : s.tagged = some id) (hlimit : s.ctx.waitLimit id = 0) :
    exec .evWaitTimeout s = .next s := by
  change execEvWaitTimeout s = _
  unfold execEvWaitTimeout
  simp only [h, hlimit, if_true]

theorem waitTimeout_traps {s : State} {id : OpId} (h : s.tagged = some id) (hlimit : s.ctx.waitLimit id ≠ 0) (htrap : s.ctx.trap = none) :
    ∃ x, exec .evWaitTimeout s = .next { s with ctx := { s.ctx with trap := some x } } ∧ x.info.code = 0x34 ∧ x.pc = id.pc ∧
      x.seq = id.seq := by
  change ∃ x, execEvWaitTimeout s = _ ∧ _
  unfold execEvWaitTimeout
  simp only [h, hlimit, if_false]
  rw [State.hold_first _ _ htrap]
  exact ⟨_, rfl, rfl, rfl, rfl⟩

/-! ### Without a launch -/

theorem contextSave_none {s : State} (h : s.launchHere = none) : exec .evContextSave s = .next s := by
  change execEvContextSave s = _
  unfold execEvContextSave
  rw [h]

theorem contextRestore_none {s : State} (h : s.launchHere = none) : exec .evContextRestore s = .next s := by
  change execEvContextRestore s = _
  unfold execEvContextRestore
  rw [h]

end Sys2Proof.Machine

namespace Sys2Proof
open Machine

/-- Settles O51: a dispatch by what fetch and the C operation leave, commits and pre-emption by what the end of a commit and a rollback
settle, save and restore by induction over the contexts of the launch. -/
theorem contextEventsComplete : Obligations.ContextEventsComplete := by
  intro s c
  refine ⟨fun h => by rw [exec_bundleDispatch, if_neg (by simp [h])], bundleDispatch_stepping,
    fun h hstep => ⟨fun u x hf => ⟨bundleDispatch_fault h hstep hf, (fetchedFrom_of_error hf).eq⟩,
      fun u b hf hw => bundleDispatch_queues h hstep hf hw, fun u b r hf hat hw => bundleDispatch_commitsFirst h hstep hf hat hw⟩,
    checkpointCommit_none, fun r => checkpointCommit_drained, asyncFault_none, fun h => asyncFault_held, preemptByBoundary_no,
    preemptByBoundary_atCkpt, preemptByBoundary_commits, fun hlive hissuable hpre hparked hwait => ?_, preemptByRollback_no,
    fun l hl => ⟨fun h => exec_contextSave_waits hl h, fun hst hsave hnodup hmem => contextSave hl hst hsave hnodup hmem,
      fun v hv hcore hst hissuable hnodup => ⟨fun hok hgood hplace => ?_, fun hbad hname hstopped => ?_⟩⟩,
    fun h => ⟨contextSave_none h, contextRestore_none h⟩, rfl, waitTimeout_none, fun id => tagged_of_queued, fun id => waitTimeout_never,
    fun id => waitTimeout_traps⟩
  · have hback := rolledBack s
    exact ⟨fun h => ⟨_, preemptByRollback_running hlive hissuable hpre hparked hwait h, rfl, hback.regs, hback.buffer, hback.queue, hback.trap⟩,
      preemptByRollback_held hlive hissuable hpre hparked hwait, preemptByRollback_exited hlive hissuable hpre hparked hwait⟩
  · obtain ⟨t, hexec, hctx, hgone⟩ := contextRestore_good hl hv hcore hst hissuable hnodup hok hgood hplace
    exact ⟨t, hexec, hctx, by rw [hctx]; rfl, by rw [hctx]; rfl, by rw [hctx]; rfl, hgone⟩
  · have hsome : ((s.imagesOf l).find? fun v => v.core == s.coreNum).isSome := List.find?_isSome.mpr ⟨v, hv, beq_iff_eq.mpr hcore⟩
    obtain ⟨here, hhere⟩ := Option.isSome_iff_exists.mp hsome
    exact contextRestore_corrupt hl hhere hst hissuable hbad hname hstopped

end Sys2Proof

/-! PROOFS. The elements of vector registers, operand b and the lane mask (R104, R119 to R121), and vector compares (R137, R138). -/
namespace Sys2Proof.Machine
open Claims

/-! ### Lists by index -/

theorem list_eq_map_range {α : Type} {l : List α} {n : Nat} (h : l.length = n) (d : α) : l = (List.range n).map fun i => l.getD i d := by
  refine List.ext_getElem (by simp [h]) fun i h₁ h₂ => ?_
  simp [List.getD_eq_getElem?_getD, h₁]

theorem getD_map_range {α : Type} {n i : Nat} (f : Nat → α) (d : α) (h : i < n) : ((List.range n).map f).getD i d = f i := by
  simp [List.getD_eq_getElem?_getD, h]

theorem zipWith_map_range {α β γ : Type} (f : α → β → γ) (g : Nat → α) (h : Nat → β) (n : Nat) :
    List.zipWith f ((List.range n).map g) ((List.range n).map h) = (List.range n).map fun i => f (g i) (h i) := by
  rw [List.zipWith_map, List.zipWith_self]

theorem zip_map_range {α β : Type} (g : Nat → α) (h : Nat → β) (n : Nat) :
    ((List.range n).map g).zip ((List.range n).map h) = (List.range n).map fun i => (g i, h i) := zipWith_map_range _ g h n

theorem zipIdx_map_range {α : Type} (g : Nat → α) (n : Nat) : ((List.range n).map g).zipIdx = (List.range n).map fun i => (g i, i) := by
  refine List.ext_getElem (by simp) fun i h₁ h₂ => ?_
  simp

theorem map_range_congr {α : Type} {n : Nat} {f g : Nat → α} (h : ∀ i < n, f i = g i) : (List.range n).map f = (List.range n).map g :=
  List.map_congr_left fun i hi => h i (List.mem_range.mp hi)

/-! ### Elements of a register (R104) -/

theorem tyBits_cases (t : Ty) : tyBits t = 4 ∨ tyBits t = 8 ∨ tyBits t = 16 ∨ tyBits t = 32 ∨ tyBits t = 64 := by
  revert t; decide

theorem packElems_lt (w : Nat) (l : List Nat) : packElems w l < 2 ^ (w * l.length) := by
  induction l with
  | nil => simp [packElems]
  | cons e l ih =>
    have he : e % 2 ^ w < 2 ^ w := Nat.mod_lt _ (Nat.two_pow_pos w)
    have hstep : 2 ^ (w * (l.length + 1)) = 2 ^ w * 2 ^ (w * l.length) := by rw [← Nat.pow_add]; ring_nf
    rw [packElems, List.length_cons, hstep]
    calc e % 2 ^ w + 2 ^ w * packElems w l < 2 ^ w * (packElems w l + 1) := by rw [Nat.mul_succ]; omega
      _ ≤ 2 ^ w * 2 ^ (w * l.length) := Nat.mul_le_mul_left _ ih

/-- Field i of the number that packs a list is element i. -/
theorem packElems_field (w : Nat) (l : List Nat) (i : Nat) : packElems w l / 2 ^ (w * i) % 2 ^ w = l.getD i 0 % 2 ^ w := by
  induction l generalizing i with
  | nil => simp [packElems]
  | cons e l ih =>
    cases i with
    | zero => simp [packElems]
    | succ i =>
      have hpow : 2 ^ (w * (i + 1)) = 2 ^ w * 2 ^ (w * i) := by rw [← Nat.pow_add]; ring_nf
      have hhead : (e % 2 ^ w + 2 ^ w * packElems w l) / 2 ^ w = packElems w l := by
        rw [Nat.add_mul_div_left _ _ (Nat.two_pow_pos w), Nat.div_eq_of_lt (Nat.mod_lt _ (Nat.two_pow_pos w)), zero_add]
      rw [packElems, hpow, ← Nat.div_div_eq_div_mul, hhead, ih i, List.getD_cons_succ]

/-- A register packed from in-range elements holds just them. -/
theorem vecElems_elemVec {w : Nat} {l : List Nat} (hw : w * (2048 / w) = 2048) (hlen : l.length = 2048 / w) (hl : ∀ x ∈ l, x < 2 ^ w) :
    vecElems w (elemVec w l) = l := by
  have hfit : packElems w l < 2 ^ 2048 := by
    have h := packElems_lt w l
    rwa [hlen, hw] at h
  rw [vecElems, natRange_eq_map, List.map_map, ← hlen]
  refine (map_range_congr fun i hi => ?_).trans (list_eq_map_range rfl 0).symm
  have hmem : l.getD i 0 ∈ l := by
    rw [List.getD_eq_getElem _ _ hi]
    exact List.getElem_mem hi
  simp only [Function.comp_apply, zero_add, elemVec, BitVec.extractLsb'_toNat, BitVec.toNat_ofNat, Nat.mod_eq_of_lt hfit,
    Nat.shiftRight_eq_div_pow, packElems_field, Nat.mod_eq_of_lt (hl _ hmem)]

@[simp] theorem vecElems_length (w : Nat) (x : Vec) : (vecElems w x).length = 2048 / w := by
  simp [vecElems, natRange_eq_map]

theorem State.readElems_length (s : State) (w : Nat) (r : VReg) : (s.readElems w r).length = elemCount w := by
  unfold State.readElems elemCount
  split <;> simp

theorem State.readElems_eq (s : State) (w : Nat) (r : VReg) : s.readElems w r = (List.range (elemCount w)).map (el s w r) :=
  list_eq_map_range (s.readElems_length w r) 0

/-- R104: an element of a pair has its low half in the first register and its high half in the second. -/
theorem el_pair (s : State) (r : VReg) {i : Nat} (h : i < 64) : el s 64 r i = el s 32 r i + 2 ^ 32 * el s 32 (r + 1) i := by
  have hread : s.readElems 64 r = ((s.readElems 32 r).zip (s.readElems 32 (r + 1))).map fun (lo, hi) => lo + hi * 2 ^ 32 := rfl
  rw [el, hread, State.readElems_eq, State.readElems_eq, zip_map_range, List.map_map, getD_map_range _ _ (show i < elemCount 32 from h),
    Function.comp_apply, Nat.mul_comm]

/-- The two halves of in-range 64-bit elements, each packed into a register, join to the elements. -/
theorem zip_halves {l : List Nat} (hlen : l.length = 64) (hl : ∀ x ∈ l, x < 2 ^ 64) :
    ((vecElems 32 (elemVec 32 (l.map (· % 2 ^ 32)))).zip (vecElems 32 (elemVec 32 (l.map (· / 2 ^ 32))))).map
      (fun (lo, hi) => lo + hi * 2 ^ 32) = l := by
  have hlow : ∀ x ∈ l.map (· % 2 ^ 32), x < 2 ^ 32 := List.forall_mem_map.mpr fun x _ => Nat.mod_lt x (by norm_num)
  have hhigh : ∀ x ∈ l.map (· / 2 ^ 32), x < 2 ^ 32 := List.forall_mem_map.mpr fun x hx => by have := hl x hx; omega
  rw [vecElems_elemVec (by norm_num) (by simp [hlen]) hlow, vecElems_elemVec (by norm_num) (by simp [hlen]) hhigh, List.zip_map',
    List.map_map]
  exact (List.map_congr_left fun x _ => Nat.mod_add_div' x (2 ^ 32)).trans (List.map_id l)

/-- What is written to all elements of a register or pair is read back (R104). -/
theorem State.readElems_writeElems {s : State} (hidle : s.cur = none) {t : Ty} {d : VReg} {l : List Nat}
    (hlen : l.length = elemCount (tyBits t)) (hl : ∀ x ∈ l, x < 2 ^ tyBits t) :
    (s.writeElems (tyBits t) d l).readElems (tyBits t) d = l := by
  by_cases h64 : tyBits t = 64
  · have hother : d ≠ d + 1 := by bv_omega
    rw [h64] at hlen hl ⊢
    rw [State.readElems, State.writeElems, if_pos rfl, if_pos rfl, State.readV_writeV (by simpa using hidle), if_neg hother,
      State.readV_writeV hidle, if_pos rfl, State.readV_writeV (by simpa using hidle), if_pos rfl]
    exact zip_halves hlen hl
  · have hw : tyBits t * (2048 / tyBits t) = 2048 := by
      rcases tyBits_cases t with h | h | h | h | h <;> rw [h]
    rw [elemCount, if_neg h64] at hlen
    rw [State.readElems, State.writeElems, if_neg h64, if_neg h64, State.readV_writeV hidle, if_pos rfl]
    exact vecElems_elemVec hw hlen hl

theorem State.readV_writeElems {s : State} (hidle : s.cur = none) {w : Nat} {d r : VReg} (l : List Nat) (hr : r ≠ d) (hpair : w ≠ 64 ∨ r ≠ d + 1) :
    (s.writeElems w d l).readV r = s.readV r := by
  unfold State.writeElems
  split
  · next h =>
    have hidle' : (s.writeV d (elemVec 32 (l.map (· % 2 ^ 32)))).cur = none := by simpa using hidle
    rw [State.readV_writeV hidle', if_neg (hpair.resolve_left (not_not.mpr h)), State.readV_writeV hidle, if_neg hr]
  · rw [State.readV_writeV hidle, if_neg hr]

/-! ### Operand b (R120, R135) -/

/-- The low bits of a sign-extended immediate are its value modulo the width. -/
theorem signExtend_mod (x : BitVec 16) {w : Nat} (hw : w ≤ 64) : (x.signExtend 64).toNat % 2 ^ w = wrap w x.toInt := by
  have hdvd : ((2 ^ w : Nat) : Int) ∣ (2 ^ 64 : Nat) := Int.natCast_dvd_natCast.mpr (Nat.pow_dvd_pow 2 hw)
  have hval : ((x.signExtend 64).toNat : Int) = x.toInt % (2 ^ 64 : Nat) := by
    rw [← BitVec.toInt_signExtend_of_le (x := x) (w := 16) (v := 64) (by norm_num), BitVec.toInt_eq_toNat_bmod, Int.bmod_emod]
    exact (Int.emod_eq_of_lt (by positivity) (by exact_mod_cast (x.signExtend 64).isLt)).symm
  have hmod : (((x.signExtend 64).toNat % 2 ^ w : Nat) : Int) = x.toInt % (2 ^ w : Nat) := by
    rw [Int.natCast_mod, hval, Int.emod_emod_of_dvd _ hdvd]
  rw [wrap, ← hmod, Int.toNat_natCast]

theorem tyBits_le (t : Ty) : tyBits t ≤ 64 := by revert t; decide

theorem immElem_eq (t : Ty) (x : BitVec 16) :
    immElem t x = if t = 12 then x.toNat * 2 ^ 16 else if t.toNat ≤ 3 then wrap (tyBits t) x.toInt else x.toNat % 2 ^ tyBits t := by
  have h12 : t.toNat = 12 ↔ t = 12 := ⟨fun h => BitVec.eq_of_toNat_eq h, fun h => h ▸ rfl⟩
  simp only [immElem, tySigned, decide_eq_true_eq, h12, signExtend_mod x (tyBits_le t)]

theorem State.operandB_eq (s : State) (t : Ty) (b : VSrc) : s.operandB t b = (List.range (elemCount (tyBits t))).map fun i => bel s t i b := by
  cases b with
  | v r => exact s.readElems_eq _ r
  | s r => simp only [State.operandB, bel, List.map_const', List.length_range]
  | imm x => simp only [State.operandB, bel, immElem_eq, List.map_const', List.length_range]

/-! ### Writing under the lane mask (R121) -/

theorem laneOn_laneMask (s : State) (m : KReg) (w i : Nat) : laneOn (s.laneMask m) w i = runs s m w i := by
  unfold laneOn runs laneOf State.laneMask
  split <;> rfl

theorem mergeElems_map_range (l : Word) (w n : Nat) (f g : Nat → Nat) :
    mergeElems l w ((List.range n).map f) ((List.range n).map g) = (List.range n).map fun i => if laneOn l w i then g i else f i := by
  simp only [mergeElems, zip_map_range, zipIdx_map_range, List.map_map, Function.comp_def]

theorem State.putElems_eq (s : State) (w : Nat) (d : VReg) (m : KReg) (f : Nat → Nat) :
    s.putElems w d m ((List.range (elemCount w)).map f) = masked s w d m f := by
  simp only [State.putElems, masked, State.readElems_eq, mergeElems_map_range, laneOn_laneMask]

theorem State.under_holds {s : State} {q : Pred} (hq : s.holds q = true) (f : State → State) : s.under q f = .next (f s) := by
  rw [State.under, if_pos hq]

/-! ### Lane bits (R121, R137) -/

/-- Adding up 2^i for chosen i sets just those bits. -/
theorem testBit_foldl_two_pow (p : Nat → Bool) (n : Nat) :
    (List.range n).foldl (fun x i => if p i then x + 2 ^ i else x) 0 < 2 ^ n ∧
    ∀ i, ((List.range n).foldl (fun x i => if p i then x + 2 ^ i else x) 0).testBit i = (decide (i < n) && p i) := by
  induction n with
  | zero => simp
  | succ n ih =>
    obtain ⟨hlt, hbits⟩ := ih
    rw [List.range_succ, List.foldl_append, List.foldl_cons, List.foldl_nil]
    generalize (List.range n).foldl (fun x i => if p i then x + 2 ^ i else x) 0 = x at hlt hbits
    have hpow : 2 ^ (n + 1) = 2 ^ n + 2 ^ n := by ring
    cases hp : p n with
    | false =>
      refine ⟨by simp only [Bool.false_eq_true, if_false]; omega, fun i => ?_⟩
      rcases lt_trichotomy i n with h | rfl | h
      · simp [hbits, h, Nat.lt_succ_of_lt h]
      · simp [hbits, hp]
      · simp [hbits, show ¬ i < n by omega, show ¬ i < n + 1 by omega]
    | true =>
      refine ⟨by simp only [if_true]; omega, fun i => ?_⟩
      rcases lt_trichotomy i n with h | rfl | h
      · simp [Nat.add_comm x, Nat.testBit_two_pow_add_gt h, hbits, h, Nat.lt_succ_of_lt h]
      · simp [Nat.add_comm x, Nat.testBit_two_pow_add_eq, hbits, hp]
      · have hbig : x + 2 ^ n < 2 ^ i := lt_of_lt_of_le (by omega) (Nat.pow_le_pow_right (by norm_num) (show n + 1 ≤ i by omega))
        simp [Nat.testBit_lt_two_pow hbig, show ¬ i < n + 1 by omega]

theorem laneBits_getLsbD (l : Word) (f : Nat → Bool) {i : Nat} (h : i < 64) : (laneBits l f).getLsbD i = (l.getLsbD i && f i) := by
  have hbits := (testBit_foldl_two_pow (fun i => l.getLsbD i && f i) 64).2 i
  have hrange : natRange 0 64 = List.range 64 := by simp [natRange_eq_map]
  rw [laneBits, hrange, BitVec.getLsbD_ofNat, hbits]
  simp [h]

theorem laneElems_map_range {α : Type} {w l : Nat} (hw : w = 8 ∨ w = 16 ∨ w = 32 ∨ w = 64) (g : Nat → α) (hl : l < 64) :
    laneElems w ((List.range (elemCount w)).map g) l = (laneEls w l).map g := by
  have hlen : (laneElems w ((List.range (elemCount w)).map g) l).length = ((laneEls w l).map g).length := by
    rcases hw with rfl | rfl | rfl | rfl <;> simp [laneElems, laneEls, elemCount] <;> omega
  refine List.ext_getElem hlen fun i h₁ h₂ => ?_
  have hi : w < 32 ∨ i = 0 := by
    rcases hw with rfl | rfl | rfl | rfl <;> simp [laneEls] at h₂ ⊢ <;> omega
  rcases hw with rfl | rfl | rfl | rfl <;> simp_all [laneElems, laneEls, elemCount]

end Sys2Proof.Machine

namespace Sys2Proof.Machine
open Claims

/-! ### Integers of a type (R103) -/

/-- The top bit of a w-bit pattern says that it lies in the upper half. -/
theorem testBit_top {w x : Nat} (hw : 0 < w) (hx : x < 2 ^ w) : x.testBit (w - 1) = decide (2 ^ w ≤ 2 * x) := by
  obtain ⟨v, rfl⟩ : ∃ v, w = v + 1 := ⟨w - 1, by omega⟩
  have hpow : 2 ^ (v + 1) = 2 * 2 ^ v := by ring
  rw [Nat.add_sub_cancel, Bool.eq_iff_iff, decide_eq_true_eq, Nat.testBit_eq_decide_div_mod_eq, decide_eq_true_eq]
  have hdiv : x / 2 ^ v < 2 := Nat.div_lt_of_lt_mul (by omega)
  rw [Nat.mod_eq_of_lt hdiv, hpow, Nat.mul_le_mul_left_iff (by norm_num)]
  have hone : 1 ≤ x / 2 ^ v ↔ 2 ^ v ≤ x := by rw [Nat.le_div_iff_mul_le (Nat.two_pow_pos v), one_mul]
  omega

theorem intVal_true {w : Nat} (hw : 0 < w) (x : Nat) : intVal true w x = sval w x := by
  simp only [intVal, sval, testBit_top hw (Nat.mod_lt x (Nat.two_pow_pos w)), Bool.true_and, decide_eq_true_eq]
  split <;> split <;> first | omega | (push_cast; rfl)

theorem intVal_eq (t : Ty) (x : Nat) : intVal (tySigned t) (tyBits t) x = tval t x := by
  have hw : 0 < tyBits t := by rcases tyBits_cases t with h | h | h | h | h <;> omega
  unfold tval tySigned
  split
  · next h => rw [decide_eq_true h, intVal_true hw]
  · next h => simp [intVal, h]

theorem vecCond_eq (t : Ty) (cond : BitVec 3) (x y : Nat) : vecCond (tySigned t) (tyBits t) cond x y =
    if cond = 0 then decide (tval t x = tval t y) else if cond = 1 then decide (tval t x ≠ tval t y)
    else if cond = 2 then decide (tval t x < tval t y) else if cond = 3 then decide (tval t x ≤ tval t y)
    else if cond = 4 then decide (x < y) else if cond = 5 then decide (x ≤ y)
    else if cond = 6 then decide (tval t x > tval t y) else decide (tval t x ≥ tval t y) := by
  have hcases : ∀ c : BitVec 3, c = 0 ∨ c = 1 ∨ c = 2 ∨ c = 3 ∨ c = 4 ∨ c = 5 ∨ c = 6 ∨ c = 7 := by decide
  simp only [vecCond, intVal_eq]
  rcases hcases cond with rfl | rfl | rfl | rfl | rfl | rfl | rfl | rfl <;> simp <;> rfl

/-! ### Vector compares (R137, R138) -/

theorem tyBits_cases_of_intTy {t : Ty} (ht : intTy t = true) : tyBits t = 8 ∨ tyBits t = 16 ∨ tyBits t = 32 ∨ tyBits t = 64 := by
  revert t; decide

theorem tyBits_cases_of_fpTy {t : Ty} (ht : fpTy t = true) : tyBits t = 8 ∨ tyBits t = 16 ∨ tyBits t = 32 ∨ tyBits t = 64 := by
  revert t; decide

/-- The instruction writes to kD, in the bit of each lane that executes, whether all of the lane's elements pass the test, or any. -/
def WritesLaneTests (s : State) (i : Instr) (d m : KReg) (w : Nat) (any : Bool) (test : Nat → Bool) : Prop :=
  ∃ k : Word, exec i s = .next (s.writeK d k) ∧ ∀ l < 64,
    k.getLsbD l = ((s.maskTop &&& s.readK m).getLsbD l && (if any then (laneEls w l).any test else (laneEls w l).all test))

theorem writesLaneTests_of_eq {s : State} {i : Instr} {d m : KReg} {w : Nat} {any : Bool} {test : Nat → Bool}
    (hw : w = 8 ∨ w = 16 ∨ w = 32 ∨ w = 64) (h : exec i s = .next (s.vectorCmp d m w any ((List.range (elemCount w)).map test))) :
    WritesLaneTests s i d m w any test := by
  refine ⟨_, h, fun l hl => ?_⟩
  simp only [laneBits_getLsbD _ _ hl, laneElems_map_range hw test hl, List.any_map, List.all_map, Function.id_comp, State.laneMask]

section
variable {s : State} {q : Pred} (hq : s.holds q = true) {t : Ty} (d : KReg) (a : VReg) (b : VSrc) (m : KReg) (any : Bool) (cond : BitVec 3)
include hq

theorem exec_vCmp (ht : intTy t = true) : WritesLaneTests s (.vCmp q d a b t m any cond) d m (tyBits t) any fun i =>
    vecCond (tySigned t) (tyBits t) cond (el s (tyBits t) a i) (bel s t i b) := by
  have hrun : exec (.vCmp q d a b t m any cond) s = .next (s.vectorCmp d m (tyBits t) any
      (List.zipWith (vecCond (tySigned t) (tyBits t) cond) (s.readElems (tyBits t) a) (s.operandB t b))) := by
    change execVCmp q d a b t m any cond s = _
    rw [execVCmp, State.under_holds hq]
  rw [State.operandB_eq, State.readElems_eq, zipWith_map_range] at hrun
  exact writesLaneTests_of_eq (tyBits_cases_of_intTy ht) hrun

theorem exec_vFcmp (ht : fpTy t = true) : WritesLaneTests s (.vFcmp q d a b t m any cond) d m (tyBits t) any fun i =>
    fpCond cond ((fmtOf t).decode (el s (tyBits t) a i)) ((fmtOf t).decode (bel s t i b)) := by
  have hrun : exec (.vFcmp q d a b t m any cond) s = .next (s.vectorCmp d m (tyBits t) any
      (List.zipWith (fun x y => fpCond cond ((fmtOf t).decode x) ((fmtOf t).decode y)) (s.readElems (tyBits t) a) (s.operandB t b))) := by
    change execVFcmp q d a b t m any cond s = _
    rw [execVFcmp, State.under_holds hq]
    rfl
  rw [State.operandB_eq, State.readElems_eq, zipWith_map_range] at hrun
  exact writesLaneTests_of_eq (tyBits_cases_of_fpTy ht) hrun

end

end Sys2Proof.Machine

namespace Sys2Proof
open Machine Claims

/-- Settles O19: reads give back what was packed, a pair splits into halves, and lane bits add up from the lanes that execute. -/
theorem vectorRegistersAndBits : Obligations.VectorRegistersAndBits := by
  refine ⟨fun s t d r l hidle hlen hl => ⟨State.readElems_writeElems hidle hlen hl, fun i hi => el_pair s r hi,
    State.readV_writeElems hidle l⟩, fun q d a b t m any cond s hq => ⟨fun ht => ?_, exec_vFcmp hq d a b m any cond⟩⟩
  have h := exec_vCmp hq d a b m any cond ht
  simp only [vecCond_eq] at h
  exact h

end Sys2Proof

/-! PROOFS. The encodings of a floating-point format in order of magnitude, and what rounding delivers among them (R97, R98, R101,
R105 to R107, Tables 5.1, 5.4). -/
namespace Sys2Proof.Machine
open Claims

/-! ### Encodings without their sign, in order -/

/-- What the rounding laws ask of a format; every format of Table 5.1 has it. -/
structure Fmt.Sound (f : Fmt) : Prop where
  fb_pos : 1 ≤ f.fb
  eb_ge : 2 ≤ f.eb
  e4 : f.e4 = true → f.eb = 4 ∧ f.fb = 3

theorem sound_of_mem {f : Fmt} (h : f ∈ formats) : f.Sound := by
  simp only [formats, List.mem_cons, List.not_mem_nil, or_false] at h
  rcases h with rfl | rfl | rfl | rfl | rfl | rfl <;> exact ⟨by decide, by decide, by decide⟩

theorem fmtOf_mem (t : Ty) : fmtOf t ∈ formats := by revert t; decide

/-- The magnitude that an encoding without its sign stands for, in units of the least subnormal (R97). -/
def Fmt.units (f : Fmt) (y : Nat) : Nat := if y / 2 ^ f.fb = 0 then y else (2 ^ f.fb + y % 2 ^ f.fb) * 2 ^ (y / 2 ^ f.fb - 1)

/-- The magnitude itself; past the largest finite one the encodings go on as if the exponent were unbounded. -/
noncomputable def Fmt.val (f : Fmt) (y : Nat) : ℝ := f.units y * 2 ^ f.lsb

theorem Fmt.units_zero (f : Fmt) : f.units 0 = 0 := by simp [Fmt.units]

theorem Fmt.units_succ (f : Fmt) (y : Nat) : f.units (y + 1) = f.units y + 2 ^ (y / 2 ^ f.fb - 1) := by
  have hpos := Nat.two_pow_pos f.fb
  have hmod := Nat.mod_lt y hpos
  have hy := Nat.div_add_mod y (2 ^ f.fb)
  unfold Fmt.units
  by_cases hcarry : y % 2 ^ f.fb + 1 = 2 ^ f.fb
  · have hnext : y + 1 = 2 ^ f.fb * (y / 2 ^ f.fb + 1) := by rw [Nat.mul_succ]; omega
    have hdiv : (y + 1) / 2 ^ f.fb = y / 2 ^ f.fb + 1 := by rw [hnext, Nat.mul_div_cancel_left _ hpos]
    have hzero : (y + 1) % 2 ^ f.fb = 0 := by rw [hnext, Nat.mul_mod_right]
    rw [hdiv, hzero, if_neg (Nat.succ_ne_zero _)]
    split
    · next h => rw [h, Nat.mul_zero] at hy; simp [h]; omega
    · next h =>
      obtain ⟨E, hE⟩ := Nat.exists_eq_succ_of_ne_zero h
      rw [hE, Nat.succ_eq_add_one, Nat.add_sub_cancel, Nat.add_sub_cancel, pow_succ,
        show y % 2 ^ f.fb = 2 ^ f.fb - 1 by omega, Nat.add_zero]
      zify [hpos]
      ring
  · have hlt : y % 2 ^ f.fb + 1 < 2 ^ f.fb := by omega
    have hdiv : (y + 1) / 2 ^ f.fb = y / 2 ^ f.fb := by
      rw [← hy, Nat.add_assoc, Nat.mul_add_div hpos, Nat.mul_add_div hpos, Nat.div_eq_of_lt hlt, Nat.div_eq_of_lt hmod]
    have hrem : (y + 1) % 2 ^ f.fb = y % 2 ^ f.fb + 1 := by
      rw [Nat.add_mod, Nat.mod_eq_of_lt (b := 2 ^ f.fb) (a := 1) (by omega), Nat.mod_eq_of_lt hlt]
    rw [hdiv, hrem]
    split
    · next h => simp [h]
    · ring

theorem two_zpow_pos (k : Int) : (0 : ℝ) < 2 ^ k := zpow_pos (by norm_num) k

theorem Fmt.val_succ (f : Fmt) (y : Nat) : f.val (y + 1) = f.val y + 2 ^ (y / 2 ^ f.fb - 1) * 2 ^ f.lsb := by
  rw [Fmt.val, f.units_succ, Nat.cast_add, add_mul, Nat.cast_pow, Nat.cast_ofNat, Fmt.val]

theorem Fmt.val_strictMono (f : Fmt) : StrictMono f.val :=
  strictMono_nat_of_lt_succ fun y => by
    rw [f.val_succ]
    have := two_zpow_pos f.lsb
    linarith [mul_pos (pow_pos (two_pos : (0 : ℝ) < 2) (y / 2 ^ f.fb - 1)) this]

theorem Fmt.val_zero (f : Fmt) : f.val 0 = 0 := by simp [Fmt.val, f.units_zero]

theorem Fmt.val_nonneg (f : Fmt) (y : Nat) : 0 ≤ f.val y := f.val_zero ▸ f.val_strictMono.monotone (Nat.zero_le y)

/-- A magnitude lies between just one encoding and its successor. -/
theorem Fmt.val_bracket_unique {f : Fmt} {y z : Nat} {a : ℝ} (hy : f.val y ≤ a) (hy' : a < f.val (y + 1)) (hz : f.val z ≤ a)
    (hz' : a < f.val (z + 1)) : y = z := by
  have h₁ := f.val_strictMono.lt_iff_lt.mp (hy.trans_lt hz')
  have h₂ := f.val_strictMono.lt_iff_lt.mp (hz.trans_lt hy')
  omega

/-! ### What an encoding stands for (R97, R98) -/

theorem mag_div (f : Fmt) (x : Nat) : x % 2 ^ (f.eb + f.fb) / 2 ^ f.fb = x / 2 ^ f.fb % 2 ^ f.eb := by
  rw [Nat.add_comm, Nat.pow_add, Nat.mod_mul_right_div_self]

theorem mag_mod (f : Fmt) (x : Nat) : x % 2 ^ (f.eb + f.fb) % 2 ^ f.fb = x % 2 ^ f.fb := by
  rw [Nat.add_comm, Nat.pow_add, Nat.mod_mul_right_mod]

theorem testBit_eq_signOf (f : Fmt) (x : Nat) : x.testBit (f.eb + f.fb) = signOf f x := by
  simp [signOf, Nat.testBit_eq_decide_div_mod_eq, beq_eq_decide]

theorem Fmt.Sound.two_pow_eb {f : Fmt} (hf : f.Sound) : 2 ^ f.eb = 2 * 2 ^ (f.eb - 1) ∧ 2 ≤ 2 ^ (f.eb - 1) := by
  obtain ⟨k, hk⟩ : ∃ k, f.eb = k + 2 := ⟨f.eb - 2, by have := hf.eb_ge; omega⟩
  rw [hk, show k + 2 - 1 = k + 1 by omega]
  exact ⟨by ring, by rw [pow_succ]; have := Nat.two_pow_pos k; omega⟩

theorem maxFinite_lt {f : Fmt} (hf : f.Sound) : f.maxFinite < 2 ^ (f.eb + f.fb) := by
  unfold Fmt.maxFinite
  split
  · next h => obtain ⟨he, hb⟩ := hf.e4 h; rw [he, hb]; norm_num
  · have := Nat.two_pow_pos f.fb
    have heb := Nat.two_pow_pos f.eb
    rw [Nat.pow_add, Nat.sub_mul, one_mul]
    have : 2 ^ f.fb ≤ 2 ^ f.eb * 2 ^ f.fb := Nat.le_mul_of_pos_left _ heb
    omega

/-- The numbers of a format are the encodings up to the largest finite one, with either sign (Table 5.1, R98). -/
theorem number_iff {f : Fmt} (hf : f.Sound) (x : Nat) : number f x = true ↔ x % 2 ^ (f.eb + f.fb) ≤ f.maxFinite := by
  have hlt := Nat.mod_lt x (Nat.two_pow_pos (f.eb + f.fb))
  rw [number, ← mag_div f x, ← mag_mod f x]
  generalize x % 2 ^ (f.eb + f.fb) = y at *
  have hy := Nat.div_add_mod y (2 ^ f.fb)
  have hmod := Nat.mod_lt y (Nat.two_pow_pos f.fb)
  unfold Fmt.maxFinite
  cases he : f.e4 with
  | true =>
    obtain ⟨h₁, h₂⟩ := hf.e4 he
    simp only [h₁, h₂] at hlt hy hmod
    simp only [h₁, h₂, Bool.or_eq_true, bne_iff_ne, Bool.and_eq_true, ne_eq, if_true, true_and]
    omega
  | false =>
    obtain ⟨heb, hB⟩ := hf.two_pow_eb
    have hE : y / 2 ^ f.fb < 2 ^ f.eb := Nat.div_lt_of_lt_mul (by rwa [← Nat.pow_add, Nat.add_comm])
    have hiff : y ≤ (2 ^ f.eb - 1) * 2 ^ f.fb - 1 ↔ y / 2 ^ f.fb < 2 ^ f.eb - 1 := by
      rw [Nat.div_lt_iff_lt_mul (Nat.two_pow_pos f.fb)]
      have : 1 ≤ (2 ^ f.eb - 1) * 2 ^ f.fb := Nat.mul_pos (by omega) (Nat.two_pow_pos f.fb)
      omega
    simp only [Bool.false_and, Bool.or_false, bne_iff_ne, ne_eq, Bool.false_eq_true, if_false, hiff]
    omega

theorem number_of_le {f : Fmt} (hf : f.Sound) {y : Nat} (hy : y ≤ f.maxFinite) : number f y = true :=
  (number_iff hf y).mpr ((Nat.mod_le _ _).trans hy)

/-- The encodings without a sign that are numbers. -/
theorem mag_iff {f : Fmt} (hf : f.Sound) (y : Nat) : (y < 2 ^ (f.eb + f.fb) ∧ number f y = true) ↔ y ≤ f.maxFinite := by
  constructor
  · rintro ⟨hlt, hn⟩
    rwa [number_iff hf, Nat.mod_eq_of_lt hlt] at hn
  · exact fun h => ⟨h.trans_lt (maxFinite_lt hf), number_of_le hf h⟩

theorem lsb_eq {f : Fmt} (hf : f.Sound) : f.lsb = 1 - (2 ^ (f.eb - 1) - 1 : Int) - f.fb := by
  have := hf.two_pow_eb.2
  rw [Fmt.lsb, Fmt.bias]
  push_cast [show 1 ≤ 2 ^ (f.eb - 1) by omega]
  ring

theorem valueOf_eq {f : Fmt} (hf : f.Sound) (x : Nat) :
    ((valueOf f x : ℚ) : ℝ) = (if signOf f x then -1 else 1) * f.val (x % 2 ^ (f.eb + f.fb)) := by
  have h2 : (2 : ℝ) ≠ 0 := two_ne_zero
  have hdiv := mag_div f x
  have hmod := mag_mod f x
  have hy := Nat.div_add_mod (x % 2 ^ (f.eb + f.fb)) (2 ^ f.fb)
  rw [valueOf, Fmt.val, Fmt.units, lsb_eq hf, hdiv, hmod]
  rw [hdiv, hmod] at hy
  generalize x / 2 ^ f.fb % 2 ^ f.eb = E at *
  generalize x % 2 ^ f.fb = F at *
  generalize x % 2 ^ (f.eb + f.fb) = y at *
  push_cast
  rw [zpow_sub₀ h2 _ (f.fb : Int), zpow_natCast]
  rcases Nat.eq_zero_or_pos E with rfl | hE
  · rw [if_pos rfl, if_pos rfl, ← hy]
    push_cast
    split <;> simp <;> ring
  · obtain ⟨k, rfl⟩ : ∃ k, E = k + 1 := ⟨E - 1, by omega⟩
    have hexp : ((k + 1 : Nat) : Int) - (2 ^ (f.eb - 1) - 1 : Int) = k + (1 - (2 ^ (f.eb - 1) - 1 : Int)) := by push_cast; ring
    have hb : (2 : ℝ) ^ f.fb ≠ 0 := pow_ne_zero _ h2
    rw [if_neg (Nat.succ_ne_zero k), if_neg (Nat.succ_ne_zero k), Nat.add_sub_cancel, hexp]
    push_cast
    rw [zpow_add₀ h2, zpow_natCast]
    split <;> simp <;> field_simp

/-- The bare encodings stand for their magnitudes. -/
theorem valueOf_mag {f : Fmt} (hf : f.Sound) {y : Nat} (hy : y ≤ f.maxFinite) : ((valueOf f y : ℚ) : ℝ) = f.val y := by
  have hlt := hy.trans_lt (maxFinite_lt hf)
  have hsign : signOf f y = false := by simp [signOf, Nat.div_eq_of_lt hlt]
  rw [valueOf_eq hf, hsign, Nat.mod_eq_of_lt hlt]
  simp

/-- What the model's decoder gives for a number: a whole number of units, of at most one bit more than the fraction. -/
theorem decode_number {f : Fmt} (hf : f.Sound) {x : Nat} (hx : number f x = true) :
    ∃ m e, f.decode x = .fin (signOf f x) m e false ∧ (m : ℝ) * 2 ^ e = f.val (x % 2 ^ (f.eb + f.fb)) ∧ m < 2 ^ (f.fb + 1) ∧ f.lsb ≤ e ∧
      e ≤ f.lsb + 2 ^ f.eb := by
  have hlt := Nat.mod_lt x (Nat.two_pow_pos (f.eb + f.fb))
  have hE : x / 2 ^ f.fb % 2 ^ f.eb < 2 ^ f.eb := Nat.mod_lt _ (Nat.two_pow_pos _)
  have hF : x % 2 ^ f.fb < 2 ^ f.fb := Nat.mod_lt _ (Nat.two_pow_pos _)
  have hpow : 2 ^ (f.fb + 1) = 2 ^ f.fb + 2 ^ f.fb := by ring
  have hE' : (x / 2 ^ f.fb % 2 ^ f.eb : Int) < 2 ^ f.eb := by exact_mod_cast hE
  rw [Fmt.decode, testBit_eq_signOf, Nat.shiftRight_eq_div_pow, Fmt.val, Fmt.units, mag_div f x, mag_mod f x]
  have hy := Nat.div_add_mod (x % 2 ^ (f.eb + f.fb)) (2 ^ f.fb)
  rw [mag_div f x, mag_mod f x] at hy
  by_cases hzero : x / 2 ^ f.fb % 2 ^ f.eb = 0
  · rw [hzero, Nat.mul_zero, zero_add] at hy
    exact ⟨x % 2 ^ f.fb, f.lsb, by simp only [hzero, if_true], by rw [if_pos hzero, hy], by omega, le_rfl, le_add_of_nonneg_right (by positivity)⟩
  · have hfin : (if f.e4 = true then
          if (x / 2 ^ f.fb % 2 ^ f.eb = 15 && x % 2 ^ f.fb = 7) = true then FVal.nan
          else .fin (signOf f x) (2 ^ f.fb + x % 2 ^ f.fb) (f.lsb + ((x / 2 ^ f.fb % 2 ^ f.eb - 1 : Nat) : Int)) false
        else if x / 2 ^ f.fb % 2 ^ f.eb = 2 ^ f.eb - 1 then if x % 2 ^ f.fb = 0 then .inf (signOf f x) else .nan
        else .fin (signOf f x) (2 ^ f.fb + x % 2 ^ f.fb) (f.lsb + ((x / 2 ^ f.fb % 2 ^ f.eb - 1 : Nat) : Int)) false) =
        .fin (signOf f x) (2 ^ f.fb + x % 2 ^ f.fb) (f.lsb + ((x / 2 ^ f.fb % 2 ^ f.eb - 1 : Nat) : Int)) false := by
      cases he : f.e4 with
      | true =>
        obtain ⟨h₁, h₂⟩ := hf.e4 he
        rw [number, he, h₁, h₂] at hx
        rw [h₁, h₂]
        simp at hx ⊢
        omega
      | false =>
        rw [number, he] at hx
        simp at hx
        simp [hx]
    refine ⟨_, _, by simp only [hzero, if_false]; exact hfin, ?_, by omega, by omega, ?_⟩
    · rw [if_neg hzero, zpow_add₀ two_ne_zero, zpow_natCast]
      push_cast
      ring
    · have : ((x / 2 ^ f.fb % 2 ^ f.eb - 1 : Nat) : Int) ≤ 2 ^ f.eb := by
        have : x / 2 ^ f.fb % 2 ^ f.eb - 1 ≤ 2 ^ f.eb := by omega
        exact_mod_cast this
      omega

theorem decode_special {f : Fmt} (hf : f.Sound) {x : Nat} (hx : number f x = false) :
    f.decode x = if f.e4 = false ∧ x % 2 ^ f.fb = 0 then .inf (signOf f x) else .nan := by
  rw [Fmt.decode, testBit_eq_signOf, Nat.shiftRight_eq_div_pow]
  obtain ⟨heb, hB⟩ := hf.two_pow_eb
  cases he : f.e4 with
  | true =>
    obtain ⟨h₁, h₂⟩ := hf.e4 he
    rw [number, he, h₁, h₂] at hx
    rw [h₁, h₂]
    simp at hx
    simp [hx]
  | false =>
    rw [number, he] at hx
    simp at hx
    simp [hx, show 2 ^ f.eb - 1 ≠ 0 by omega]

theorem abs_valueOf {f : Fmt} (hf : f.Sound) (x : Nat) : |((valueOf f x : ℚ) : ℝ)| = f.val (x % 2 ^ (f.eb + f.fb)) := by
  rw [valueOf_eq hf, abs_mul, abs_of_nonneg (f.val_nonneg _)]
  split <;> simp

end Sys2Proof.Machine

namespace Sys2Proof.Machine
open Claims

/-! ### The exact value and the encoding just below it -/

/-- m × 2^e stands for the magnitude a: exactly, or with a part of it below the last bit of m. -/
def Stands (m : Nat) (e : Int) (st : Bool) (a : ℝ) : Prop := if st then (m : ℝ) * 2 ^ e < a ∧ a < (m + 1) * 2 ^ e else a = m * 2 ^ e

/-- The exponent of the last bit that a magnitude keeps in a format. -/
def Fmt.cut (f : Fmt) (m : Nat) (e : Int) : Int := max (e + (if m = 0 then 0 else Nat.log2 m + 1 : Nat) - (f.fb + 1)) f.lsb

/-- The kept part, the part dropped, and how many bits were dropped. -/
def Fmt.kept (f : Fmt) (m : Nat) (e : Int) : Nat :=
  if f.cut m e ≤ e then m * 2 ^ (e - f.cut m e).toNat else m >>> (f.cut m e - e).toNat
def Fmt.dropped (f : Fmt) (m : Nat) (e : Int) : Nat := if f.cut m e ≤ e then 0 else m % 2 ^ (f.cut m e - e).toNat
def Fmt.depth (f : Fmt) (m : Nat) (e : Int) : Nat := if f.cut m e ≤ e then 0 else (f.cut m e - e).toNat

/-- The encoding of a magnitude cut short. -/
def Fmt.below (f : Fmt) (m : Nat) (e : Int) : Nat :=
  if f.kept m e < 2 ^ f.fb then f.kept m e else (f.cut m e - f.lsb).toNat * 2 ^ f.fb + f.kept m e

/-- Whether rounding takes the next encoding instead. -/
def Fmt.goesUp (f : Fmt) (rm : Rm) (neg : Bool) (m : Nat) (e : Int) (st : Bool) : Bool :=
  roundsUp rm neg (f.kept m e % 2 == 1) (f.dropped m e) (f.depth m e) st

/-- The overflow results of Table 5.4. -/
def Fmt.overflow (f : Fmt) (rm : Rm) (neg : Bool) : Nat :=
  if rm = 0 ∨ (rm = 2 ∧ neg = false) ∨ (rm = 3 ∧ neg = true) then f.infOf neg false else neg.toNat * f.signBit + f.maxFinite

/-- An encoding without its sign delivered with it, or what an overflow gives. -/
def Fmt.deliver (f : Fmt) (rm : Rm) (sat neg : Bool) (y : Nat) : Nat :=
  if y ≤ f.maxFinite then neg.toNat * f.signBit + y
  else if sat then neg.toNat * f.signBit + f.maxFinite else f.overflow rm neg

theorem size_bounds (m : Nat) : m < 2 ^ (if m = 0 then 0 else Nat.log2 m + 1) ∧ (m ≠ 0 → 2 ^ (if m = 0 then 0 else Nat.log2 m + 1) ≤ 2 * m) := by
  split
  · next h => simp [h]
  · next h => exact ⟨Nat.lt_log2_self, fun _ => by rw [pow_succ, Nat.mul_comm]; exact Nat.mul_le_mul_left 2 (Nat.log2_self_le h)⟩

/-- The kept part fits the fraction with its leading bit, and lacks that bit only at the format's least exponent. -/
theorem Fmt.kept_bounds (f : Fmt) (m : Nat) (e : Int) :
    f.kept m e < 2 ^ (f.fb + 1) ∧ (f.kept m e < 2 ^ f.fb → m ≠ 0 → f.cut m e = f.lsb) := by
  obtain ⟨hlt, hge⟩ := size_bounds m
  unfold Fmt.kept
  generalize hq : f.cut m e = q
  unfold Fmt.cut at hq
  generalize (if m = 0 then 0 else Nat.log2 m + 1) = len at *
  split
  · next hle =>
    obtain ⟨k, hk⟩ : ∃ k : Nat, e - q = k := ⟨(e - q).toNat, by omega⟩
    have hfit : len + k ≤ f.fb + 1 := by omega
    rw [hk, Int.toNat_natCast]
    refine ⟨?_, fun hsmall hm => ?_⟩
    · calc m * 2 ^ k < 2 ^ len * 2 ^ k := by gcongr
        _ = 2 ^ (len + k) := (Nat.pow_add ..).symm
        _ ≤ _ := Nat.pow_le_pow_right (by norm_num) hfit
    · by_contra hne
      have hlen : len + k = f.fb + 1 := by omega
      have : 2 ^ (f.fb + 1) ≤ 2 * (m * 2 ^ k) := by
        rw [← hlen, Nat.pow_add, ← Nat.mul_assoc]
        exact Nat.mul_le_mul_right _ (hge hm)
      rw [pow_succ] at this
      omega
  · next hgt =>
    obtain ⟨k, hk⟩ : ∃ k : Nat, q - e = k := ⟨(q - e).toNat, by omega⟩
    have hfit : len ≤ f.fb + 1 + k := by omega
    rw [hk, Int.toNat_natCast, Nat.shiftRight_eq_div_pow]
    refine ⟨?_, fun hsmall hm => ?_⟩
    · rw [Nat.div_lt_iff_lt_mul (Nat.two_pow_pos k), ← Nat.pow_add]
      exact hlt.trans_le (Nat.pow_le_pow_right (by norm_num) hfit)
    · by_contra hne
      have hlen : len = f.fb + k + 1 := by omega
      rw [Nat.div_lt_iff_lt_mul (Nat.two_pow_pos k), ← Nat.pow_add] at hsmall
      have := hge hm
      rw [hlen, pow_succ] at this
      omega

/-- Exponent field and fraction past the largest finite encoding, as the model tests for them. -/
theorem tooBig_iff {f : Fmt} (hf : f.Sound) {E F : Nat} (hF : F < 2 ^ f.fb) :
    (if f.e4 then decide (E > 15) || (E == 15 && F == 7) else decide (E ≥ 2 ^ f.eb - 1)) = true ↔ ¬ E * 2 ^ f.fb + F ≤ f.maxFinite := by
  unfold Fmt.maxFinite
  cases he : f.e4 with
  | true =>
    obtain ⟨h₁, h₂⟩ := hf.e4 he
    simp only [h₂] at hF ⊢
    simp only [if_true, Bool.or_eq_true, decide_eq_true_eq, Bool.and_eq_true, beq_iff_eq]
    omega
  | false =>
    have hpos : 1 ≤ (2 ^ f.eb - 1) * 2 ^ f.fb := Nat.mul_pos (by have := hf.two_pow_eb; omega) (Nat.two_pow_pos f.fb)
    have hdiv : (E * 2 ^ f.fb + F) / 2 ^ f.fb = E := by
      rw [Nat.add_comm, Nat.add_mul_div_right _ _ (Nat.two_pow_pos f.fb), Nat.div_eq_of_lt hF, zero_add]
    have hiff := Nat.div_lt_iff_lt_mul (x := E * 2 ^ f.fb + F) (y := 2 ^ f.eb - 1) (Nat.two_pow_pos f.fb)
    rw [hdiv] at hiff
    simp only [Bool.false_eq_true, if_false, decide_eq_true_eq]
    omega

theorem subnormal_le_maxFinite {f : Fmt} (hf : f.Sound) {M : Nat} (h : M < 2 ^ f.fb) : M ≤ f.maxFinite := by
  have := tooBig_iff hf (E := 0) h
  rw [zero_mul, zero_add] at this
  by_contra hn
  have hb := hf.two_pow_eb
  have hbig := this.mpr hn
  cases he : f.e4 <;> simp [he] at hbig
  omega

theorem rm_cases (rm : Rm) : rm = 0 ∨ rm = 1 ∨ rm = 2 ∨ rm = 3 := by revert rm; decide

/-- Delivery of a normal or overflowing encoding, from its exponent field and fraction. -/
theorem deliver_of_fields {f : Fmt} (hf : f.Sound) {rm : Rm} {sat neg : Bool} {E F X : Nat} (hF : F < 2 ^ f.fb) (hX : X = f.overflow rm neg) :
    (if (if f.e4 then decide (E > 15) || (E == 15 && F == 7) else decide (E ≥ 2 ^ f.eb - 1)) = true
      then if sat = true then neg.toNat * f.signBit + f.maxFinite else X
      else neg.toNat * f.signBit + E * 2 ^ f.fb + F) = f.deliver rm sat neg (E * 2 ^ f.fb + F) := by
  rw [Fmt.deliver, hX]
  by_cases hbig : E * 2 ^ f.fb + F ≤ f.maxFinite
  · rw [if_neg ((tooBig_iff hf hF).not.mpr (not_not.mpr hbig)), if_pos hbig, Nat.add_assoc]
  · rw [if_pos ((tooBig_iff hf hF).mpr hbig), if_neg hbig]

/-- The model's rounding of a finite value: the encoding below or the next, delivered. -/
theorem Fmt.round_fin {f : Fmt} (hf : f.Sound) (rm : Rm) (sat neg : Bool) (m : Nat) (e : Int) (st : Bool) :
    f.round rm sat (.fin neg m e st) = f.deliver rm sat neg (f.below m e + (f.goesUp rm neg m e st).toNat) := by
  have hfb : 2 ≤ 2 ^ f.fb := by simpa using Nat.pow_le_pow_right (n := 2) (by norm_num) hf.fb_pos
  have hdouble : 2 ^ (f.fb + 1) = 2 * 2 ^ f.fb := by ring
  obtain ⟨hlt, hlow⟩ := f.kept_bounds m e
  have hlsb : f.lsb ≤ f.cut m e := le_max_right _ _
  by_cases hz : (decide (m = 0) && !st) = true
  · obtain ⟨rfl, rfl⟩ : m = 0 ∧ st = false := by simpa using hz
    have hkept : f.kept 0 e = 0 := by simp [Fmt.kept]
    have hdrop : f.dropped 0 e = 0 := by simp [Fmt.dropped]
    have hup : f.goesUp rm neg 0 e false = false := by
      rcases rm_cases rm with rfl | rfl | rfl | rfl <;> simp [Fmt.goesUp, roundsUp, hdrop, hkept]
    rw [hup, Fmt.below, hkept, if_pos (by omega), Fmt.deliver]
    simp [Fmt.round]
  · have hzero : m = 0 → f.kept m e = 0 := fun h => by simp [Fmt.kept, h]
    unfold Fmt.round Fmt.below Fmt.goesUp
    unfold Fmt.kept Fmt.dropped Fmt.depth at *
    unfold Fmt.cut at *
    simp only [hz, if_false, Bool.false_eq_true]
    generalize max (e + (if m = 0 then 0 else Nat.log2 m + 1 : Nat) - (f.fb + 1)) f.lsb = q at *
    generalize (if q ≤ e then m * 2 ^ (e - q).toNat else m >>> (q - e).toNat) = M at *
    generalize roundsUp rm neg (M % 2 == 1) (if q ≤ e then 0 else m % 2 ^ (q - e).toNat) (if q ≤ e then 0 else (q - e).toNat) st = up at *
    obtain ⟨k, rfl⟩ : ∃ k : Nat, q = f.lsb + k := ⟨(q - f.lsb).toNat, by omega⟩
    have hnext : (if up = true then M + 1 else M) = M + up.toNat := by cases up <;> rfl
    have hfield : ∀ j : Nat, (f.lsb + (j : Int) - f.lsb).toNat = j := fun j => by omega
    have hone : up.toNat ≤ 1 := Bool.toNat_le up
    simp only [hnext]
    by_cases hcarry : M + up.toNat = 2 ^ (f.fb + 1)
    · have hk : f.lsb + (k : Int) + 1 = f.lsb + ((k + 1 : Nat) : Int) := by push_cast; ring
      simp only [hcarry, decide_true, if_true, lt_irrefl, if_false, hk, hfield, Nat.sub_self]
      refine (deliver_of_fields hf (by omega) ?_).trans (congrArg _ ?_)
      · rcases rm_cases rm with rfl | rfl | rfl | rfl <;> cases neg <;> rfl
      · rw [if_neg (by omega), Nat.add_assoc (k * _) M, hcarry]
        ring
    · simp only [hcarry, decide_false, Bool.false_eq_true, if_false, hfield]
      by_cases hsmall : M + up.toNat < 2 ^ f.fb
      · rw [if_pos hsmall, if_pos (by omega), Fmt.deliver, if_pos (subnormal_le_maxFinite hf hsmall)]
      · rw [if_neg hsmall]
        refine (deliver_of_fields hf (by omega) ?_).trans (congrArg _ ?_)
        · rcases rm_cases rm with rfl | rfl | rfl | rfl <;> cases neg <;> rfl
        · have hk : M < 2 ^ f.fb → k = 0 := fun h => by
            have := hlow h fun hm => by have := hzero hm; omega
            omega
          rw [Nat.add_mul, one_mul]
          split
          · next h => rw [hk h]; omega
          · omega

theorem Fmt.units_of_lt {f : Fmt} {M : Nat} (h : M < 2 ^ f.fb) : f.units M = M := by
  rw [Fmt.units, if_pos (Nat.div_eq_of_lt h)]

theorem Fmt.units_normal {f : Fmt} {k M : Nat} (h : 2 ^ f.fb ≤ M) (h' : M < 2 ^ (f.fb + 1)) :
    f.units (k * 2 ^ f.fb + M) = M * 2 ^ k ∧ (k * 2 ^ f.fb + M) / 2 ^ f.fb = k + 1 := by
  have hM : k * 2 ^ f.fb + M = (M - 2 ^ f.fb) + (k + 1) * 2 ^ f.fb := by rw [Nat.add_mul, one_mul]; omega
  have hF : M - 2 ^ f.fb < 2 ^ f.fb := by rw [pow_succ] at h'; omega
  have hdiv : (k * 2 ^ f.fb + M) / 2 ^ f.fb = k + 1 := by
    rw [hM, Nat.add_mul_div_right _ _ (Nat.two_pow_pos f.fb), Nat.div_eq_of_lt hF, zero_add]
  refine ⟨?_, hdiv⟩
  rw [Fmt.units, hdiv, if_neg (Nat.succ_ne_zero k), hM, Nat.add_mul_mod_self_right, Nat.mod_eq_of_lt hF, Nat.add_sub_cancel,
    Nat.add_sub_cancel' h]

/-- The encoding below stands for the kept part, the next one for one more in its last place, and both end in the same bit. -/
theorem Fmt.val_below {f : Fmt} (hf : f.Sound) {m : Nat} {e : Int} (h : m ≠ 0 ∨ f.cut m e = f.lsb) :
    f.val (f.below m e) = f.kept m e * 2 ^ f.cut m e ∧
    f.val (f.below m e + 1) = (f.kept m e + 1) * 2 ^ f.cut m e ∧ f.below m e % 2 = f.kept m e % 2 := by
  obtain ⟨hlt, hlow⟩ := f.kept_bounds m e
  obtain ⟨k, hk⟩ : ∃ k : Nat, f.cut m e = f.lsb + k := ⟨(f.cut m e - f.lsb).toNat, by have : f.lsb ≤ f.cut m e := le_max_right _ _; omega⟩
  rw [f.val_succ, Fmt.val, Fmt.below]
  by_cases hsmall : f.kept m e < 2 ^ f.fb
  · have hcut : f.cut m e = f.lsb := h.elim (hlow hsmall) id
    rw [if_pos hsmall, Fmt.units_of_lt hsmall, Nat.div_eq_of_lt hsmall, hcut]
    exact ⟨rfl, by ring, rfl⟩
  · obtain ⟨hunits, hdiv⟩ := Fmt.units_normal (k := k) (Nat.not_lt.mp hsmall) hlt
    rw [if_neg hsmall, hk, add_sub_cancel_left, Int.toNat_natCast, hunits, hdiv, zpow_add₀ two_ne_zero, zpow_natCast, Nat.add_sub_cancel]
    push_cast
    refine ⟨by ring, by ring, ?_⟩
    obtain ⟨j, hj⟩ : ∃ j, f.fb = j + 1 := ⟨f.fb - 1, by have := hf.fb_pos; omega⟩
    rw [hj, pow_succ, ← Nat.mul_assoc, Nat.mul_add_mod_self_right]

/-! ### Where the exact value lies from the encoding below -/

/-- What rounding has to be told: a magnitude with a part below its last bit keeps at least one bit more than the format. -/
def Fmt.Readable (f : Fmt) (m : Nat) (e : Int) (st : Bool) : Prop := (m ≠ 0 ∨ f.cut m e = f.lsb ∨ st = false) ∧ (st = true → e < f.cut m e)

theorem kept_add_dropped (f : Fmt) (m : Nat) (e : Int) :
    (m : ℝ) * 2 ^ e = f.kept m e * 2 ^ f.cut m e + f.dropped m e * 2 ^ e ∧ (f.dropped m e < 2 ^ f.depth m e) ∧
    (e < f.cut m e → (2 : ℝ) ^ f.cut m e = 2 ^ f.depth m e * 2 ^ e ∧ 0 < f.depth m e) ∧ (f.cut m e ≤ e → f.depth m e = 0) := by
  unfold Fmt.kept Fmt.dropped Fmt.depth
  split
  · next hle =>
    obtain ⟨k, hk⟩ : ∃ k : Nat, e = f.cut m e + k := ⟨(e - f.cut m e).toNat, by omega⟩
    refine ⟨?_, by simp, fun h => by omega, fun _ => rfl⟩
    generalize f.cut m e = q at *
    subst hk
    rw [add_sub_cancel_left, Int.toNat_natCast, zpow_add₀ two_ne_zero, zpow_natCast]
    push_cast
    ring
  · next hgt =>
    obtain ⟨k, hk⟩ : ∃ k : Nat, f.cut m e = e + k := ⟨(f.cut m e - e).toNat, by omega⟩
    rw [hk, add_sub_cancel_left, Int.toNat_natCast, Nat.shiftRight_eq_div_pow, zpow_add₀ two_ne_zero, zpow_natCast]
    refine ⟨?_, Nat.mod_lt _ (Nat.two_pow_pos k), fun h => ⟨by ring, by omega⟩, fun h => by omega⟩
    have hm : (m : ℝ) = (m / 2 ^ k : Nat) * 2 ^ k + (m % 2 ^ k : Nat) := by exact_mod_cast (Nat.div_add_mod' m (2 ^ k)).symm
    conv_lhs => rw [hm]
    ring

/-- Rounding a magnitude a that lies from encoding y on, below the next, takes the next one (R105). -/
def Fmt.TakesNext (f : Fmt) (rm : Rm) (neg : Bool) (a : ℝ) (y : Nat) : Prop :=
  (rm = 0 ∧ (f.val y + f.val (y + 1) < 2 * a ∨ (f.val y + f.val (y + 1) = 2 * a ∧ y % 2 = 1))) ∨
  (((rm = 2 ∧ neg = false) ∨ (rm = 3 ∧ neg = true)) ∧ f.val y < a)

/-- `roundsUp` in terms of the part t of 2^d units that was dropped. -/
theorem roundsUp_iff (rm : Rm) (neg odd : Bool) {r d : Nat} (st : Bool) {t : ℝ} (hd : 0 < d) (ht : Stands r 0 st t) :
    roundsUp rm neg odd r d st = true ↔
      (rm = 0 ∧ (2 ^ d < 2 * t ∨ (2 ^ d = 2 * t ∧ odd = true))) ∨ (((rm = 2 ∧ neg = false) ∨ (rm = 3 ∧ neg = true)) ∧ 0 < t) := by
  obtain ⟨k, rfl⟩ : ∃ k, d = k + 1 := ⟨d - 1, by omega⟩
  have hinexact : 0 < t ↔ r ≠ 0 ∨ st = true := by
    cases st with
    | false =>
      obtain rfl : t = r := by simpa [Stands] using ht
      simp [Nat.pos_iff_ne_zero]
    | true =>
      obtain ⟨h, -⟩ : (r : ℝ) < t ∧ t < r + 1 := by simpa [Stands] using ht
      exact ⟨fun _ => .inr rfl, fun _ => (Nat.cast_nonneg r).trans_lt h⟩
  have hnear : (2 * r > 2 ^ (k + 1) ∨ (2 * r = 2 ^ (k + 1) ∧ (st = true ∨ odd = true))) ↔
      ((2 : ℝ) ^ (k + 1) < 2 * t ∨ ((2 : ℝ) ^ (k + 1) = 2 * t ∧ odd = true)) := by
    have hpow : (2 : ℝ) ^ (k + 1) = 2 * (2 ^ k : Nat) := by push_cast; ring
    have hpow' : 2 ^ (k + 1) = 2 * 2 ^ k := by ring
    have hlt_iff : (2 : ℝ) ^ (k + 1) < 2 * t ↔ ((2 ^ k : Nat) : ℝ) < t := by rw [hpow, mul_lt_mul_iff_right₀ two_pos]
    have heq_iff : (2 : ℝ) ^ (k + 1) = 2 * t ↔ ((2 ^ k : Nat) : ℝ) = t := by rw [hpow, mul_right_inj' two_ne_zero]
    rw [hlt_iff, heq_iff, hpow']
    cases st with
    | false =>
      obtain rfl : t = r := by simpa [Stands] using ht
      rw [Nat.cast_lt, Nat.cast_inj]
      cases odd
      · simp
      · simp; omega
    | true =>
      obtain ⟨h, h'⟩ : (r : ℝ) < t ∧ t < r + 1 := by simpa [Stands] using ht
      rcases Nat.lt_or_ge r (2 ^ k) with hr | hr
      · have hlt : t < (2 ^ k : Nat) := h'.trans_le (by exact_mod_cast hr)
        simp only [not_lt.mpr hlt.le, hlt.ne', false_and, or_false, iff_false, not_or, not_and]
        exact ⟨by omega, fun h => by omega⟩
      · have hlt : ((2 ^ k : Nat) : ℝ) < t := (Nat.cast_le.mpr hr).trans_lt h
        simp only [hlt, true_or, iff_true, and_true]
        omega
  rcases rm_cases rm with rfl | rfl | rfl | rfl
  · simpa [roundsUp] using hnear
  · simp [roundsUp]
  · cases neg <;> simp [roundsUp, hinexact]
  · cases neg <;> simp [roundsUp, hinexact]

theorem Fmt.not_takesNext_self (f : Fmt) (rm : Rm) (neg : Bool) (y : Nat) : ¬ f.TakesNext rm neg (f.val y) y := by
  have := f.val_strictMono (Nat.lt_succ_self y)
  rintro (⟨-, h | ⟨h, -⟩⟩ | ⟨-, h⟩) <;> simp only [Nat.succ_eq_add_one] at this <;> linarith

theorem Fmt.goesUp_exact {f : Fmt} {m : Nat} {e : Int} (h : f.dropped m e = 0) (rm : Rm) (neg : Bool) : f.goesUp rm neg m e false = false := by
  rcases rm_cases rm with rfl | rfl | rfl | rfl <;> simp [Fmt.goesUp, roundsUp, h]
  intro h
  exact absurd h (Nat.two_pow_pos _).ne

/-- Where bits are dropped, the magnitude is the encoding below and the part dropped. -/
theorem Fmt.dropped_stands {f : Fmt} (hf : f.Sound) {m : Nat} {e : Int} {st : Bool} {a : ℝ} (ha : Stands m e st a) (hm : m ≠ 0 ∨ f.cut m e = f.lsb) :
    ∃ t : ℝ, Stands (f.dropped m e) 0 st t ∧ a = f.val (f.below m e) + t * 2 ^ e := by
  have hu := two_zpow_pos e
  obtain ⟨t, rfl⟩ : ∃ t : ℝ, a = f.val (f.below m e) + t * 2 ^ e := ⟨(a - f.val (f.below m e)) / 2 ^ e, by field_simp; ring⟩
  have hsum : (m : ℝ) * 2 ^ e = f.val (f.below m e) + f.dropped m e * 2 ^ e := by
    rw [(Fmt.val_below hf hm).1]
    exact (kept_add_dropped f m e).1
  have hnext : ((m : ℝ) + 1) * 2 ^ e = f.val (f.below m e) + (f.dropped m e + 1) * 2 ^ e := by rw [add_mul, hsum]; ring
  refine ⟨t, ?_, rfl⟩
  cases st with
  | false =>
    have h : f.val (f.below m e) + t * 2 ^ e = f.val (f.below m e) + f.dropped m e * 2 ^ e := hsum ▸ ha
    simpa [Stands] using mul_right_cancel₀ hu.ne' (add_left_cancel h)
  | true =>
    obtain ⟨h, h'⟩ : (m : ℝ) * 2 ^ e < f.val (f.below m e) + t * 2 ^ e ∧ f.val (f.below m e) + t * 2 ^ e < (m + 1) * 2 ^ e := ha
    rw [hsum, add_lt_add_iff_left, mul_lt_mul_iff_left₀ hu] at h
    rw [hnext, add_lt_add_iff_left, mul_lt_mul_iff_left₀ hu] at h'
    simpa [Stands] using ⟨h, h'⟩

theorem stands_bounds {r : Nat} {st : Bool} {t : ℝ} (h : Stands r 0 st t) : (r : ℝ) ≤ t ∧ t < r + 1 := by
  cases st with
  | false =>
    obtain rfl : t = r := by simpa [Stands] using h
    exact ⟨le_rfl, lt_add_one _⟩
  | true =>
    obtain ⟨h, h'⟩ : (r : ℝ) < t ∧ t < r + 1 := by simpa [Stands] using h
    exact ⟨h.le, h'⟩

/-- The exact magnitude lies from the encoding below on, and the model goes up just when rounding takes the next encoding. -/
theorem Fmt.below_spec {f : Fmt} (hf : f.Sound) {m : Nat} {e : Int} {st : Bool} {a : ℝ} (ha : Stands m e st a) (hr : f.Readable m e st) (rm : Rm)
    (neg : Bool) : (f.val (f.below m e) ≤ a ∧ a < f.val (f.below m e + 1)) ∧
      (f.goesUp rm neg m e st = true ↔ f.TakesNext rm neg a (f.below m e)) := by
  obtain ⟨hsum, hdrop, hdeep, -⟩ := kept_add_dropped f m e
  have hu := two_zpow_pos e
  by_cases hinexact : e < f.cut m e ∧ (m ≠ 0 ∨ f.cut m e = f.lsb)
  · obtain ⟨hcut, hm⟩ := hinexact
    obtain ⟨hgap, hd⟩ := hdeep hcut
    obtain ⟨hy, hy', hodd⟩ := Fmt.val_below hf hm
    obtain ⟨t, ht, rfl⟩ := Fmt.dropped_stands hf ha hm
    obtain ⟨hlow, hhigh⟩ := stands_bounds ht
    have hle : ((f.dropped m e + 1 : Nat) : ℝ) ≤ (2 ^ f.depth m e : Nat) := by exact_mod_cast hdrop
    push_cast at hle
    have ht0 : 0 ≤ t := (Nat.cast_nonneg _).trans hlow
    have hy'' : f.val (f.below m e + 1) = f.val (f.below m e) + 2 ^ f.depth m e * 2 ^ e := by rw [hy', hy, hgap]; ring
    refine ⟨⟨le_add_of_nonneg_right (by positivity), ?_⟩, ?_⟩
    · rw [hy'', add_lt_add_iff_left]
      exact mul_lt_mul_of_pos_right (hhigh.trans_le hle) hu
    · have hmid : f.val (f.below m e) + f.val (f.below m e + 1) = 2 * f.val (f.below m e) + 2 ^ f.depth m e * 2 ^ e := by rw [hy'']; ring
      have htwo : 2 * (f.val (f.below m e) + t * 2 ^ e) = 2 * f.val (f.below m e) + 2 * t * 2 ^ e := by ring
      rw [Fmt.goesUp, roundsUp_iff rm neg _ st hd ht, Fmt.TakesNext, hmid, htwo, add_lt_add_iff_left, add_right_inj,
        mul_lt_mul_iff_left₀ hu, mul_left_inj' hu.ne', lt_add_iff_pos_right, mul_pos_iff_of_pos_right hu, hodd, beq_iff_eq]
  · have hexact : st = false ∧ f.dropped m e = 0 ∧ f.val (f.below m e) = m * 2 ^ e := by
      rcases not_and_or.mp hinexact with hcut | hm
      · have hdrop0 : f.dropped m e = 0 := if_pos (not_lt.mp hcut)
        refine ⟨by simpa using mt hr.2 hcut, hdrop0, ?_⟩
        by_cases hm : m ≠ 0 ∨ f.cut m e = f.lsb
        · rw [(Fmt.val_below hf hm).1, hsum, hdrop0]
          simp
        · obtain rfl : m = 0 := by simpa using (not_or.mp hm).1
          simp [Fmt.below, Fmt.kept, Fmt.val_zero]
      · obtain ⟨rfl, hcut⟩ : m = 0 ∧ f.cut m e ≠ f.lsb := by simpa using hm
        refine ⟨by simpa [hcut] using hr.1, by simp [Fmt.dropped], by simp [Fmt.below, Fmt.kept, Fmt.val_zero]⟩
    obtain ⟨rfl, hdrop0, hval⟩ := hexact
    obtain rfl : a = f.val (f.below m e) := hval ▸ ha
    exact ⟨⟨le_rfl, f.val_strictMono (Nat.lt_succ_self _)⟩,
      iff_of_false (by simp [Fmt.goesUp_exact hdrop0]) (f.not_takesNext_self rm neg _)⟩

/-- The encoding that rounding chooses for a magnitude, before overflow is looked at (R105). -/
def Fmt.Chosen (f : Fmt) (rm : Rm) (neg : Bool) (a : ℝ) (y : Nat) : Prop :=
  ∃ z, f.val z ≤ a ∧ a < f.val (z + 1) ∧ ((f.TakesNext rm neg a z ∧ y = z + 1) ∨ (¬ f.TakesNext rm neg a z ∧ y = z))

/-- The model's rounding delivers the encoding that R105 chooses. -/
theorem Fmt.round_chosen {f : Fmt} (hf : f.Sound) {m : Nat} {e : Int} {st : Bool} {a : ℝ} (ha : Stands m e st a) (hr : f.Readable m e st) (rm : Rm)
    (sat neg : Bool) : ∃ y, f.Chosen rm neg a y ∧ f.round rm sat (.fin neg m e st) = f.deliver rm sat neg y := by
  obtain ⟨⟨hlow, hhigh⟩, hup⟩ := Fmt.below_spec hf ha hr rm neg
  refine ⟨_, ⟨f.below m e, hlow, hhigh, ?_⟩, Fmt.round_fin hf rm sat neg m e st⟩
  rw [← hup]
  cases f.goesUp rm neg m e st
  · exact .inr ⟨by simp, rfl⟩
  · exact .inl ⟨rfl, rfl⟩

end Sys2Proof.Machine

namespace Sys2Proof.Machine
open Claims

/-! ### The largest finite value (Table 5.1) -/

theorem infOf_eq (f : Fmt) (neg : Bool) : f.infOf neg false = infinite f neg := by
  have hsign : neg.toNat * f.signBit = if neg = true then 2 ^ (f.eb + f.fb) else 0 := by cases neg <;> simp [Fmt.signBit]
  cases he : f.e4 <;> simp [Fmt.infOf, infinite, Fmt.nan, he, hsign]

theorem sign_bits (f : Fmt) (neg : Bool) : neg.toNat * f.signBit = if neg then 2 ^ (f.eb + f.fb) else 0 := by
  cases neg <;> simp [Fmt.signBit]

/-- The largest finite magnitude and half the step past it, in all formats but fp8e4. -/
theorem val_maxFinite_plain {f : Fmt} (hf : f.Sound) (he : f.e4 = false) :
    f.val (f.maxFinite + 1) = 2 * 2 ^ (2 ^ (f.eb - 1) - 1) ∧
    f.val f.maxFinite = 2 * 2 ^ (2 ^ (f.eb - 1) - 1) - 2 ^ (2 ^ (f.eb - 1) - 1) / 2 ^ f.fb ∧ f.maxFinite % 2 = 1 := by
  obtain ⟨heb, hB⟩ := hf.two_pow_eb
  have hpos := Nat.two_pow_pos f.fb
  have hlsb := lsb_eq hf
  obtain ⟨B, hBe⟩ : ∃ B, 2 ^ (f.eb - 1) = B + 2 := ⟨2 ^ (f.eb - 1) - 2, by omega⟩
  have hBz : (2 ^ (f.eb - 1) : Int) = B + 2 := by exact_mod_cast hBe
  have hmax : f.maxFinite = (2 * B + 3) * 2 ^ f.fb - 1 := by rw [Fmt.maxFinite, he, heb, hBe]; rfl
  have hdiv : f.maxFinite / 2 ^ f.fb = 2 * B + 2 := by
    rw [hmax, show (2 * B + 3) * 2 ^ f.fb - 1 = (2 * B + 2) * 2 ^ f.fb + (2 ^ f.fb - 1) by rw [Nat.add_mul, Nat.add_mul (2 * B) 2]; omega,
      Nat.add_comm, Nat.add_mul_div_right _ _ hpos, Nat.div_eq_of_lt (by omega), zero_add]
  have hnext : f.maxFinite + 1 = (2 * B + 2) * 2 ^ f.fb + 2 ^ f.fb := by
    have : 0 < (2 * B + 3) * 2 ^ f.fb := by positivity
    rw [hmax, show (2 * B + 2) * 2 ^ f.fb + 2 ^ f.fb = (2 * B + 3) * 2 ^ f.fb by ring]
    omega
  have hone : f.val (f.maxFinite + 1) = 2 * 2 ^ (B + 1) := by
    have hunits := (Fmt.units_normal (f := f) (k := 2 * B + 2) le_rfl (Nat.pow_lt_pow_right (by norm_num) (Nat.lt_succ_self _))).1
    rw [Fmt.val, hnext, hunits, hlsb, hBz, show (1 - ((B : Int) + 2 - 1) - f.fb) = -((B + f.fb : Nat) : Int) by push_cast; ring, zpow_neg, zpow_natCast]
    push_cast
    field_simp
    ring
  refine ⟨by rw [hone, hBe]; rfl, ?_, ?_⟩
  · have hstep := f.val_succ f.maxFinite
    rw [hone, hdiv, hlsb, hBz, show (1 - ((B : Int) + 2 - 1) - f.fb) = -((B + f.fb : Nat) : Int) by push_cast; ring, zpow_neg, zpow_natCast,
      show 2 * B + 2 - 1 = 2 * B + 1 by omega] at hstep
    have hgap : (2 : ℝ) ^ (2 * B + 1) * (2 ^ (B + f.fb))⁻¹ = 2 ^ (B + 1) / 2 ^ f.fb := by field_simp; ring
    rw [hgap] at hstep
    rw [hBe, show B + 2 - 1 = B + 1 by omega]
    linarith
  · obtain ⟨j, hj⟩ : ∃ j, f.fb = j + 1 := ⟨f.fb - 1, by have := hf.fb_pos; omega⟩
    have : 0 < (2 * B + 3) * 2 ^ j := by positivity
    rw [hmax, hj, pow_succ, ← Nat.mul_assoc]
    omega

theorem val_maxFinite_e4 {f : Fmt} (hf : f.Sound) (he : f.e4 = true) :
    f.val f.maxFinite = 448 ∧ f.val (f.maxFinite + 1) = 480 ∧ f.maxFinite = 126 := by
  obtain ⟨h₁, h₂⟩ := hf.e4 he
  have hmax : f.maxFinite = 126 := by simp [Fmt.maxFinite, he]
  refine ⟨?_, ?_, hmax⟩ <;> rw [hmax, Fmt.val, Fmt.units, Fmt.lsb, Fmt.bias, h₁, h₂] <;> norm_num

theorem greatestFinite_eq {f : Fmt} (hf : f.Sound) : ((greatestFinite f : ℚ) : ℝ) = f.val f.maxFinite := by
  rw [greatestFinite]
  cases he : f.e4 with
  | true => rw [(val_maxFinite_e4 hf he).1]; norm_num
  | false =>
    rw [(val_maxFinite_plain hf he).2.1]
    simp only [Bool.false_eq_true, if_false]
    push_cast
    ring

theorem halfStep_eq {f : Fmt} (hf : f.Sound) : ((halfStep f : ℚ) : ℝ) = (f.val (f.maxFinite + 1) - f.val f.maxFinite) / 2 := by
  rw [halfStep]
  cases he : f.e4 with
  | true => rw [(val_maxFinite_e4 hf he).1, (val_maxFinite_e4 hf he).2.1]; norm_num
  | false =>
    rw [(val_maxFinite_plain hf he).2.1, (val_maxFinite_plain hf he).1]
    simp only [Bool.false_eq_true, if_false]
    push_cast
    ring

/-! ### From the chosen encoding to the words of R105 -/

section
variable {f : Fmt} {rm : Rm} {neg : Bool} {a : ℝ} {y : Nat}

/-- The nearest encoding, at a tie the even one. -/
theorem Fmt.Chosen.nearest (h : f.Chosen 0 neg a y) {z : Nat} (hz : z ≠ y) :
    |f.val y - a| < |f.val z - a| ∨ (|f.val y - a| = |f.val z - a| ∧ y % 2 = 0) := by
  obtain ⟨x, hlow, hhigh, hup⟩ := h
  have hmono := f.val_strictMono
  have hx : f.val x < f.val (x + 1) := hmono (Nat.lt_succ_self x)
  simp only [Fmt.TakesNext, true_and, show ¬ ((0 : Rm) = 2) by decide, show ¬ ((0 : Rm) = 3) by decide, false_and, or_false] at hup
  rcases Nat.lt_or_ge z (x + 1) with hzx | hzx
  · -- z lies at the encoding below or under it
    have hzv : f.val z ≤ f.val x := hmono.monotone (Nat.lt_succ_iff.mp hzx)
    rw [abs_of_nonpos (by linarith : f.val z - a ≤ 0)]
    rcases hup with ⟨hup, rfl⟩ | ⟨-, rfl⟩
    · rw [abs_of_nonneg (by linarith)]
      rcases hup with h | ⟨h, hodd⟩
      · exact .inl (by linarith)
      · rcases hzv.lt_or_eq with hlt | heq
        · exact .inl (by linarith)
        · exact .inr ⟨by linarith, by omega⟩
    · have hlt : f.val z < f.val y := hmono (by omega)
      rw [abs_of_nonpos (by linarith)]
      exact .inl (by linarith)
  · have hzv : f.val (x + 1) ≤ f.val z := hmono.monotone hzx
    rw [abs_of_nonneg (by linarith : 0 ≤ f.val z - a)]
    rcases hup with ⟨hup, rfl⟩ | ⟨hup, rfl⟩
    · have hlt : f.val (x + 1) < f.val z := hmono (by omega)
      rw [abs_of_nonneg (by linarith)]
      exact .inl (by linarith)
    · rw [abs_of_nonpos (by linarith)]
      push Not at hup
      rcases hup.1.lt_or_eq with hlt | heq
      · exact .inl (by linarith)
      · rcases hzv.lt_or_eq with hlt | heq'
        · exact .inl (by linarith)
        · exact .inr ⟨by linarith, by have := hup.2 heq.symm; omega⟩

/-- Under RNE the chosen encoding is past the largest finite one when the value is past the middle, or at it in a format whose largest
finite encoding is odd. -/
theorem Fmt.Chosen.overflow_iff (h : f.Chosen 0 neg a y) (M : Nat) :
    M < y ↔ f.val M + f.val (M + 1) < 2 * a ∨ (f.val M + f.val (M + 1) = 2 * a ∧ M % 2 = 1) := by
  obtain ⟨x, hlow, hhigh, hup⟩ := h
  have hmono := f.val_strictMono
  simp only [Fmt.TakesNext, true_and, show ¬ ((0 : Rm) = 2) by decide, show ¬ ((0 : Rm) = 3) by decide, false_and, or_false] at hup
  have hM : f.val M < f.val (M + 1) := hmono (Nat.lt_succ_self M)
  rcases lt_trichotomy x M with hx | rfl | hx
  · have : f.val (x + 1) ≤ f.val M := hmono.monotone hx
    refine iff_of_false (by rcases hup with ⟨-, rfl⟩ | ⟨-, rfl⟩ <;> omega) ?_
    rintro (h | ⟨h, -⟩) <;> linarith
  · rcases hup with ⟨hup, rfl⟩ | ⟨hup, rfl⟩
    · exact iff_of_true (Nat.lt_succ_self x) hup
    · exact iff_of_false (lt_irrefl y) hup
  · have : f.val (M + 1) ≤ f.val x := hmono.monotone hx
    exact iff_of_true (by rcases hup with ⟨-, rfl⟩ | ⟨-, rfl⟩ <;> omega) (.inl (by linarith))

/-- A mode that drops takes the greatest encoding not above the value. -/
theorem Fmt.Chosen.toward_zero (h : f.Chosen rm neg a y) (hrm : rm = 1 ∨ (rm = 2 ∧ neg = true) ∨ (rm = 3 ∧ neg = false)) :
    f.val y ≤ a ∧ a < f.val (y + 1) := by
  obtain ⟨x, hlow, hhigh, hup⟩ := h
  have hno : ¬ f.TakesNext rm neg a x := by
    rcases hrm with rfl | ⟨rfl, rfl⟩ | ⟨rfl, rfl⟩ <;> simp [Fmt.TakesNext]
  rcases hup with ⟨hup, -⟩ | ⟨-, rfl⟩
  · exact absurd hup hno
  · exact ⟨hlow, hhigh⟩

/-- A mode that goes away from zero takes the least encoding not below the value. -/
theorem Fmt.Chosen.away_from_zero (h : f.Chosen rm neg a y) (hrm : (rm = 2 ∧ neg = false) ∨ (rm = 3 ∧ neg = true)) :
    a ≤ f.val y ∧ ∀ z, a ≤ f.val z → y ≤ z := by
  obtain ⟨x, hlow, hhigh, hup⟩ := h
  have hiff : f.TakesNext rm neg a x ↔ f.val x < a := by
    rcases hrm with ⟨rfl, rfl⟩ | ⟨rfl, rfl⟩ <;> simp [Fmt.TakesNext]
  rw [hiff] at hup
  rcases hup with ⟨hup, rfl⟩ | ⟨hup, rfl⟩
  · exact ⟨hhigh.le, fun z hz => f.val_strictMono.lt_iff_lt.mp (hup.trans_le hz)⟩
  · exact ⟨not_lt.mp hup, fun z hz => f.val_strictMono.le_iff_le.mp (hlow.trans hz)⟩

end

section
variable {f : Fmt} {rm : Rm} {neg : Bool} {v : ℝ} {y : Nat}

theorem deliver_overflow (hy : f.maxFinite < y) (rm : Rm) (neg : Bool) : f.deliver rm false neg y =
    if rm = 0 ∨ (rm = 2 ∧ neg = false) ∨ (rm = 3 ∧ neg = true) then infinite f neg else (if neg then 2 ^ (f.eb + f.fb) else 0) + f.maxFinite := by
  rw [Fmt.deliver, if_neg (not_le.mpr hy), if_neg Bool.false_ne_true, Fmt.overflow, infOf_eq, sign_bits]

variable (hf : f.Sound)
include hf

/-- Among the finite encodings the rounding law may speak of `val`. -/
theorem valueOf_finite {z : Nat} (hz : z < 2 ^ (f.eb + f.fb) ∧ number f z = true) : ((valueOf f z : ℚ) : ℝ) = f.val z :=
  valueOf_mag hf ((mag_iff hf z).mp hz)

theorem deliver_finite (hy : y ≤ f.maxFinite) (rm : Rm) (sat neg : Bool) : (y < 2 ^ (f.eb + f.fb) ∧ number f y = true) ∧
    f.deliver rm sat neg y = (if neg then 2 ^ (f.eb + f.fb) else 0) + y :=
  ⟨(mag_iff hf y).mpr hy, by rw [Fmt.deliver, if_pos hy, sign_bits]⟩

/-- The middle between the largest finite value and the step past it. -/
theorem edge_eq : f.val f.maxFinite + ((halfStep f : ℚ) : ℝ) = (f.val f.maxFinite + f.val (f.maxFinite + 1)) / 2 := by
  rw [halfStep_eq hf]; ring

theorem rounded_nearest (h : f.Chosen 0 neg |v| y) : Rounded f 0 neg v (f.deliver 0 false neg y) := by
  have hodd : f.maxFinite % 2 = 1 ↔ f.e4 = false := by
    cases he : f.e4 with
    | true => simp [(val_maxFinite_e4 hf he).2.2]
    | false => simp [(val_maxFinite_plain hf he).2.2]
  have hover : f.maxFinite < y ↔ (f.val f.maxFinite + f.val (f.maxFinite + 1)) / 2 < |v| ∨
      |v| = (f.val f.maxFinite + f.val (f.maxFinite + 1)) / 2 ∧ f.e4 = false := by
    rw [h.overflow_iff f.maxFinite, div_lt_iff₀' two_pos, eq_div_iff two_ne_zero, mul_comm |v|, hodd, eq_comm (a := 2 * |v|)]
  unfold Rounded
  simp only [greatestFinite_eq hf, edge_eq hf, if_true, ← hover]
  refine ⟨fun hy => ?_, fun hy => ⟨y, deliver_finite hf (not_lt.mp hy) _ _ _, fun z hz hne => ?_⟩⟩
  · simp [deliver_overflow hy]
  · rw [valueOf_finite hf hz, valueOf_mag hf (not_lt.mp hy)]
    exact h.nearest hne

theorem rounded_toward_zero (hrm : rm = 1 ∨ (rm = 2 ∧ neg = true) ∨ (rm = 3 ∧ neg = false)) (h : f.Chosen rm neg |v| y) :
    Rounded f rm neg v (f.deliver rm false neg y) := by
  obtain ⟨hlow, hhigh⟩ := h.toward_zero hrm
  have hne : rm ≠ 0 := by rintro rfl; simp at hrm
  have hclip : f.deliver rm false neg y = f.deliver rm false neg (min y f.maxFinite) := by
    rcases le_or_gt y f.maxFinite with hy | hy
    · rw [min_eq_left hy]
    · have hno : ¬ (rm = 0 ∨ (rm = 2 ∧ neg = false) ∨ (rm = 3 ∧ neg = true)) := by
        rcases hrm with rfl | ⟨rfl, rfl⟩ | ⟨rfl, rfl⟩ <;> simp
      rw [min_eq_right hy.le, deliver_overflow hy, if_neg hno, (deliver_finite hf le_rfl _ _ _).2]
  unfold Rounded
  simp only [hne, if_false, hrm, if_true]
  refine ⟨min y f.maxFinite, hclip ▸ deliver_finite hf (min_le_right _ _) _ _ _, ?_, fun z hz hle => ?_⟩
  · rw [valueOf_mag hf (min_le_right _ _)]
    exact (f.val_strictMono.monotone (min_le_left _ _)).trans hlow
  · rw [valueOf_mag hf (min_le_right _ _), valueOf_finite hf hz]
    rw [valueOf_finite hf hz] at hle
    exact f.val_strictMono.monotone (le_min (Nat.lt_succ_iff.mp (f.val_strictMono.lt_iff_lt.mp (hle.trans_lt hhigh))) ((mag_iff hf z).mp hz))

theorem rounded_away (hrm : (rm = 2 ∧ neg = false) ∨ (rm = 3 ∧ neg = true)) (h : f.Chosen rm neg |v| y) :
    Rounded f rm neg v (f.deliver rm false neg y) := by
  obtain ⟨hhigh, hleast⟩ := h.away_from_zero hrm
  have hne : rm ≠ 0 := by rintro rfl; simp at hrm
  have hno : ¬ (rm = 1 ∨ (rm = 2 ∧ neg = true) ∨ (rm = 3 ∧ neg = false)) := by rcases hrm with ⟨rfl, rfl⟩ | ⟨rfl, rfl⟩ <;> decide
  unfold Rounded
  simp only [hne, if_false, hno, greatestFinite_eq hf]
  refine ⟨fun htop => ?_, fun htop => ?_⟩
  · have hy : f.maxFinite < y := f.val_strictMono.lt_iff_lt.mp (htop.trans_le hhigh)
    rw [deliver_overflow hy, if_pos (.inr hrm)]
  · have hy : y ≤ f.maxFinite := hleast _ htop
    refine ⟨y, deliver_finite hf hy _ _ _, by rwa [valueOf_mag hf hy], fun z hz hle => ?_⟩
    rw [valueOf_finite hf hz] at hle ⊢
    rw [valueOf_mag hf hy]
    exact f.val_strictMono.monotone (hleast z hle)

/-- The chosen encoding, delivered, is the value rounded (R105, R106, Table 5.4). -/
theorem rounded_of_chosen (h : f.Chosen rm neg |v| y) : Rounded f rm neg v (f.deliver rm false neg y) := by
  by_cases hzero : rm = 1 ∨ (rm = 2 ∧ neg = true) ∨ (rm = 3 ∧ neg = false)
  · exact rounded_toward_zero hf hzero h
  · rcases rm_cases rm with rfl | rfl | rfl | rfl
    · exact rounded_nearest hf h
    · exact absurd (.inl rfl) hzero
    · exact rounded_away hf (.inl ⟨rfl, by simpa using hzero⟩) h
    · exact rounded_away hf (.inr ⟨rfl, by simpa using hzero⟩) h

theorem ne_infinite (hy : y ≤ f.maxFinite) (neg : Bool) : (if neg then 2 ^ (f.eb + f.fb) else 0) + y ≠ infinite f neg := by
  unfold infinite
  cases he : f.e4 with
  | true =>
    obtain ⟨h₁, h₂⟩ := hf.e4 he
    have hmax := (val_maxFinite_e4 hf he).2.2
    rw [h₁, h₂, if_pos rfl]
    split <;> omega
  | false =>
    have hlt : y < (2 ^ f.eb - 1) * 2 ^ f.fb := by
      have hpos : 0 < (2 ^ f.eb - 1) * 2 ^ f.fb := Nat.mul_pos (by have := hf.two_pow_eb; omega) (Nat.two_pow_pos f.fb)
      simp only [Fmt.maxFinite, he, Bool.false_eq_true, if_false] at hy
      omega
    rw [if_neg Bool.false_ne_true]
    omega

/-- Saturation replaces an infinite result by the largest finite one (R107). -/
theorem delivered_of_chosen (sat : Bool) (h : f.Chosen rm neg |v| y) : Delivered f rm sat neg v (f.deliver rm sat neg y) := by
  refine ⟨_, rounded_of_chosen hf h, ?_⟩
  rcases le_or_gt y f.maxFinite with hy | hy
  · simp only [(deliver_finite hf hy rm _ neg).2, ne_infinite hf hy neg, and_false, if_false]
  · rw [deliver_overflow hy]
    cases sat with
    | false => rw [if_neg (by simp), deliver_overflow hy]
    | true =>
      rw [Fmt.deliver, if_neg (not_le.mpr hy), if_pos rfl, sign_bits]
      by_cases hinf : rm = 0 ∨ (rm = 2 ∧ neg = false) ∨ (rm = 3 ∧ neg = true)
      · simp only [hinf, and_self, if_true]
      · simp only [hinf, ne_infinite hf le_rfl neg, and_false, if_false]

end

/-! ### What the model's rounding delivers -/

section
variable {f : Fmt} (hf : f.Sound) {m : Nat} {e : Int} {st : Bool} {v : ℝ} (hv : Stands m e st |v|) (hr : f.Readable m e st)
include hf hv hr

theorem round_rounded (rm : Rm) (neg : Bool) : Rounded f rm neg v (f.round rm false (.fin neg m e st)) := by
  obtain ⟨y, hy, heq⟩ := Fmt.round_chosen hf hv hr rm false neg
  exact heq ▸ rounded_of_chosen hf hy

theorem round_delivered (rm : Rm) (sat neg : Bool) : Delivered f rm sat neg v (f.round rm sat (.fin neg m e st)) := by
  obtain ⟨y, hy, heq⟩ := Fmt.round_chosen hf hv hr rm sat neg
  exact heq ▸ delivered_of_chosen hf sat hy

end

theorem readable_exact (f : Fmt) (m : Nat) (e : Int) : f.Readable m e false := ⟨.inr (.inr rfl), by simp⟩

theorem stands_exact (neg : Bool) (m : Nat) (e : Int) : Stands m e false |((exact (.fin neg m e false) : ℚ) : ℝ)| := by
  have hpos : (0 : ℝ) ≤ m * 2 ^ e := by have := two_zpow_pos e; positivity
  have habs : |(if neg then (-1 : ℝ) else 1)| = 1 := by split <;> simp
  simp only [Stands, exact, Bool.false_eq_true, if_false]
  push_cast
  rw [mul_assoc, abs_mul, abs_of_nonneg hpos]
  split <;> simp

/-- A value that the format holds is delivered as it is, in every mode (R105). -/
theorem round_of_val {f : Fmt} (hf : f.Sound) {m : Nat} {e : Int} {y : Nat} (hy : (m : ℝ) * 2 ^ e = f.val y) (rm : Rm) (sat neg : Bool) :
    f.round rm sat (.fin neg m e false) = f.deliver rm sat neg y := by
  obtain ⟨z, ⟨x, hlow, hhigh, hz⟩, heq⟩ := Fmt.round_chosen hf (st := false) (a := f.val y) (by simpa [Stands] using hy.symm) (readable_exact f m e) rm sat neg
  obtain rfl : x = y := Fmt.val_bracket_unique hlow hhigh le_rfl (f.val_strictMono (Nat.lt_succ_self y))
  rcases hz with ⟨hup, -⟩ | ⟨-, rfl⟩
  · exact absurd hup (f.not_takesNext_self rm neg x)
  · exact heq

/-- A significand that fits above the least exponent is held exactly. -/
theorem exists_val_eq {f : Fmt} (hf : f.Sound) {m : Nat} {e : Int} (hm : m < 2 ^ (f.fb + 1)) (he : f.lsb ≤ e) : ∃ y, (m : ℝ) * 2 ^ e = f.val y := by
  have hcut : f.cut m e ≤ e := by
    have hlen : (if m = 0 then 0 else Nat.log2 m + 1) ≤ f.fb + 1 := by
      split
      · omega
      · next h => exact (Nat.log2_lt h).mpr hm
    unfold Fmt.cut
    generalize (if m = 0 then 0 else Nat.log2 m + 1) = len at *
    omega
  by_cases hm0 : m = 0
  · exact ⟨0, by simp [hm0, f.val_zero]⟩
  · refine ⟨f.below m e, ?_⟩
    rw [(Fmt.val_below hf (.inl hm0)).1, (kept_add_dropped f m e).1, Fmt.dropped, if_pos hcut]
    simp

end Sys2Proof.Machine

/-! PROOFS. Conversions between number formats, rounding to an integer, and quantised codes (R97, R98, R103, R105, R107 to R109,
R141, R142, Tables 5.1, 5.2, 5.5). -/
namespace Sys2Proof.Machine
open Claims

/-! ### Decoding (R97, R98) -/

/-- A number decodes into a magnitude that stands for its value. -/
theorem decode_stands {f : Fmt} (hf : f.Sound) {x : Nat} (hx : number f x = true) :
    ∃ m e, f.decode x = .fin (signOf f x) m e false ∧ Stands m e false |((valueOf f x : ℚ) : ℝ)| := by
  obtain ⟨m, e, hdec, hval, -⟩ := decode_number hf hx
  exact ⟨m, e, hdec, by simp [Stands, abs_valueOf hf, hval]⟩

theorem exact_eq_valueOf {f : Fmt} (hf : f.Sound) {x m : Nat} {e : Int} (hval : (m : ℝ) * 2 ^ e = f.val (x % 2 ^ (f.eb + f.fb))) :
    exact (.fin (signOf f x) m e false) = valueOf f x := by
  have : ((exact (.fin (signOf f x) m e false) : ℚ) : ℝ) = ((valueOf f x : ℚ) : ℝ) := by
    rw [valueOf_eq hf, ← hval, exact]
    push_cast
    split <;> simp
  exact_mod_cast this

theorem decodedAs_decode {f : Fmt} (hf : f.Sound) (x : Nat) : DecodedAs f x (f.decode x) := by
  unfold DecodedAs
  split
  · next hx =>
    obtain ⟨m, e, hdec, hval, -⟩ := decode_number hf hx
    exact ⟨m, e, hdec, hdec ▸ exact_eq_valueOf hf hval⟩
  · next hx => exact decode_special hf (by simpa using hx)

theorem decode_inf_or_nan {f : Fmt} (hf : f.Sound) {x : Nat} (hx : number f x = false) : f.decode x = .inf (signOf f x) ∨ f.decode x = .nan := by
  rw [decode_special hf hx]
  split
  · exact .inl rfl
  · exact .inr rfl

/-- A number's value, from its sign and its magnitude. -/
theorem valueOf_sign {f : Fmt} (hf : f.Sound) (x : Nat) : valueOf f x = if signOf f x then -|valueOf f x| else |valueOf f x| := by
  have hcast : ((valueOf f x : ℚ) : ℝ) = (if signOf f x then -1 else 1) * |((valueOf f x : ℚ) : ℝ)| := by rw [abs_valueOf hf, valueOf_eq hf]
  split
  · next h => rw [if_pos h, neg_one_mul] at hcast; exact_mod_cast hcast
  · next h => rw [if_neg h, one_mul] at hcast; exact_mod_cast hcast

theorem round_inf (f : Fmt) (rm : Rm) (sat n : Bool) :
    f.round rm sat (.inf n) = if sat then (if n then f.signBit else 0) + f.maxFinite else infinite f n := by
  cases sat with
  | true => cases n <;> simp [Fmt.round, Fmt.infOf]
  | false => exact infOf_eq f n

theorem valueOf_maxFinite {f : Fmt} (hf : f.Sound) : valueOf f f.maxFinite = greatestFinite f := by
  have : ((valueOf f f.maxFinite : ℚ) : ℝ) = ((greatestFinite f : ℚ) : ℝ) := by rw [valueOf_mag hf le_rfl, greatestFinite_eq hf]
  exact_mod_cast this

/-! ### Rounding to an integer (R105, R108) -/

/-- The integer below the magnitude, and when the model goes to the next. -/
theorem roundToInt_eq {m : Nat} {e : Int} {st : Bool} {a : ℝ} (ha : Stands m e st a) (hst : st = true → e < 0) (rm : Rm) (neg : Bool) :
    ∃ (N : Nat) (up : Bool), roundToInt rm neg m e st = (if neg then -((N + up.toNat : Nat) : Int) else (N + up.toNat : Nat)) ∧
      (N : ℝ) ≤ a ∧ a < N + 1 ∧ (up = true ↔ (rm = 0 ∧ (1 < 2 * (a - N) ∨ (1 = 2 * (a - N) ∧ N % 2 = 1))) ∨
        (((rm = 2 ∧ neg = false) ∨ (rm = 3 ∧ neg = true)) ∧ (N : ℝ) < a)) := by
  rcases le_or_gt 0 e with he | he
  · obtain ⟨k, rfl⟩ := Int.eq_ofNat_of_zero_le he
    obtain rfl : st = false := by simpa using mt hst (not_lt.mpr he)
    obtain rfl : a = (m * 2 ^ k : Nat) := by rw [show a = m * 2 ^ (k : Int) from ha]; push_cast; rw [zpow_natCast]
    refine ⟨m * 2 ^ k, false, by simp [roundToInt], le_rfl, lt_add_one _, iff_of_false Bool.false_ne_true ?_⟩
    simp
  · obtain ⟨k, hk, rfl⟩ : ∃ k : Nat, 0 < k ∧ e = -k := ⟨(-e).toNat, by omega, by omega⟩
    have hpos : (0 : ℝ) < 2 ^ k := by positivity
    have hinv : (2 : ℝ) ^ (-(k : Int)) = (2 ^ k)⁻¹ := by rw [zpow_neg, zpow_natCast]
    have hm : (m : ℝ) = (m / 2 ^ k : Nat) * 2 ^ k + (m % 2 ^ k : Nat) := by exact_mod_cast (Nat.div_add_mod' m (2 ^ k)).symm
    have ht : Stands (m % 2 ^ k) 0 st ((a - (m / 2 ^ k : Nat)) * 2 ^ k) := by
      cases st with
      | false =>
        have : a = m * 2 ^ (-(k : Int)) := ha
        rw [hinv, hm] at this
        simp only [Stands, Bool.false_eq_true, if_false, zpow_zero, mul_one, this]
        field_simp
        ring
      | true =>
        obtain ⟨h, h'⟩ : (m : ℝ) * 2 ^ (-(k : Int)) < a ∧ a < (m + 1) * 2 ^ (-(k : Int)) := ha
        rw [hinv, ← div_eq_mul_inv, div_lt_iff₀ hpos] at h
        rw [hinv, ← div_eq_mul_inv, lt_div_iff₀ hpos] at h'
        simp only [Stands, if_true, zpow_zero, mul_one]
        constructor <;> linarith
    obtain ⟨hlow, hhigh⟩ := stands_bounds ht
    have hrem : ((m % 2 ^ k + 1 : Nat) : ℝ) ≤ (2 ^ k : Nat) := by exact_mod_cast Nat.mod_lt m (Nat.two_pow_pos k)
    push_cast at hrem
    refine ⟨m / 2 ^ k, roundsUp rm neg (m / 2 ^ k % 2 == 1) (m % 2 ^ k) k st, ?_, ?_, ?_, ?_⟩
    · have hneg : ¬ (0 : Int) ≤ -(k : Int) := by omega
      simp only [roundToInt, hneg, if_false, neg_neg, Int.toNat_natCast, Nat.shiftRight_eq_div_pow]
      cases roundsUp rm neg (m / 2 ^ k % 2 == 1) (m % 2 ^ k) k st <;> rfl
    · have : 0 ≤ (a - (m / 2 ^ k : Nat)) * 2 ^ k := (Nat.cast_nonneg _).trans hlow
      linarith [nonneg_of_mul_nonneg_left this hpos]
    · have : (a - (m / 2 ^ k : Nat)) * 2 ^ k < 1 * 2 ^ k := by linarith
      linarith [lt_of_mul_lt_mul_right this hpos.le]
    · have hhalf : 2 * ((a - (m / 2 ^ k : Nat)) * 2 ^ k) = 2 * (a - (m / 2 ^ k : Nat)) * 2 ^ k := by ring
      rw [roundsUp_iff rm neg _ st hk ht, hhalf, lt_mul_iff_one_lt_left hpos, eq_comm (a := (2 : ℝ) ^ k), mul_eq_right₀ hpos.ne',
        eq_comm (b := (1 : ℝ)), mul_pos_iff_of_pos_right hpos, sub_pos, beq_iff_eq]

/-- The nearest integer to a magnitude, even at a tie. -/
theorem near_of_takesNext {a : ℚ} {N : Nat} {up : Bool} (hlow : (N : ℚ) ≤ a) (hhigh : a < N + 1)
    (hup : up = true ↔ 1 < 2 * (a - N) ∨ (1 = 2 * (a - N) ∧ N % 2 = 1)) :
    |a - (N + up.toNat : Nat)| ≤ 1 / 2 ∧ (|a - (N + up.toNat : Nat)| = 1 / 2 → (N + up.toNat) % 2 = 0) := by
  cases up with
  | true =>
    have h : 1 ≤ 2 * (a - N) := by rcases hup.mp rfl with h | ⟨h, -⟩ <;> linarith
    have habs : |a - (N + true.toNat : Nat)| = N + 1 - a := by rw [abs_of_nonpos] <;> simp; all_goals linarith
    rw [habs]
    refine ⟨by linarith, fun heq => ?_⟩
    rcases hup.mp rfl with h | ⟨-, hodd⟩
    · linarith
    · simp only [Bool.toNat_true]; omega
  | false =>
    have hno : ¬ (1 < 2 * (a - N) ∨ (1 = 2 * (a - N) ∧ N % 2 = 1)) := fun h => Bool.false_ne_true (hup.mpr h)
    push Not at hno
    have habs : |a - (N + false.toNat : Nat)| = a - N := by rw [abs_of_nonneg] <;> simp [hlow]
    rw [habs]
    refine ⟨by linarith [hno.1], fun heq => ?_⟩
    have := hno.2 (by linarith)
    simp only [Bool.toNat_false]
    omega

/-- `roundToInt` rounds the value of a sign and a magnitude. -/
theorem intRounded_roundToInt {m : Nat} {e : Int} {st : Bool} {v a : ℚ} (hv : Stands m e st (a : ℝ)) (hst : st = true → e < 0) (rm : Rm) {neg : Bool}
    (hsign : v = if neg then -a else a) : IntRounded rm v (roundToInt rm neg m e st) := by
  obtain ⟨N, up, heq, hlow, hhigh, hup⟩ := roundToInt_eq hv hst rm neg
  have hlow' : (N : ℚ) ≤ a := by exact_mod_cast hlow
  have hhigh' : a < (N : ℚ) + 1 := by exact_mod_cast hhigh
  have hup' : up = true ↔ (rm = 0 ∧ (1 < 2 * (a - N) ∨ (1 = 2 * (a - N) ∧ N % 2 = 1))) ∨
      (((rm = 2 ∧ neg = false) ∨ (rm = 3 ∧ neg = true)) ∧ (N : ℚ) < a) := by rw [hup]; norm_cast
  have ha0 : 0 ≤ a := (Nat.cast_nonneg N).trans hlow'
  have hfloor : ⌊a⌋ = N := Int.floor_eq_iff.mpr ⟨by exact_mod_cast hlow', by exact_mod_cast hhigh'⟩
  have hceil : ((rm = 2 ∧ neg = false) ∨ (rm = 3 ∧ neg = true)) → rm ≠ 0 → ⌈a⌉ = (N + up.toNat : Nat) := fun hdir hrm => by
    simp only [hrm, false_and, false_or, hdir, true_and] at hup'
    cases up with
    | true => exact Int.ceil_eq_iff.mpr ⟨by simpa using hup'.mp rfl, by push_cast; exact hhigh'.le⟩
    | false =>
      have : a = N := le_antisymm (not_lt.mp fun h => Bool.false_ne_true (hup'.mpr h)) hlow'
      rw [this]; simp
  rw [heq, hsign]
  rcases rm_cases rm with rfl | rfl | rfl | rfl
  · have hnear := near_of_takesNext hlow' hhigh' (by simpa using hup')
    have hdist : |(if neg then -a else a) - ((if neg then -((N + up.toNat : Nat) : Int) else (N + up.toNat : Nat) : Int) : ℚ)| =
        |a - (N + up.toNat : Nat)| := by
      cases neg
      · simp
      · rw [← abs_neg]; simp; ring_nf
    simp only [IntRounded, if_true, hdist]
    exact ⟨hnear.1, fun h => by have := hnear.2 h; split <;> omega⟩
  · have hno : up = false := by simpa using hup'
    subst hno
    cases neg with
    | false => simp [IntRounded, ha0, hfloor]
    | true =>
      rcases ha0.lt_or_eq with h | rfl
      · simp [IntRounded, h, Int.ceil_neg, hfloor]
      · simpa [IntRounded] using hfloor.symm
  · cases neg with
    | false => simp [IntRounded, hceil]
    | true =>
      have hno : up = false := by simpa using hup'
      simp [IntRounded, Int.ceil_neg, hfloor, hno]
  · cases neg with
    | false =>
      have hno : up = false := by simpa using hup'
      simp [IntRounded, hfloor, hno]
    | true => simp [IntRounded, Int.floor_neg, hceil]

/-! ### Integers of a type (R103) -/

theorem intBits_eq (w : Nat) (i : Int) : intBits w i = wrap w i := by
  rw [intBits, wrap]
  push_cast
  rfl

theorem intMin_eq (t : Ty) : intMin (tySigned t) (tyBits t) = least t := by
  simp only [intMin, least, tySigned, decide_eq_true_eq]
  push_cast
  rfl

theorem intMax_eq (t : Ty) : intMax (tySigned t) (tyBits t) = greatest t := by
  simp only [intMax, greatest, tySigned, decide_eq_true_eq]
  push_cast
  rfl

theorem least_le_greatest (t : Ty) : least t ≤ greatest t := by revert t; decide

theorem clampInt_eq (t : Ty) (i : Int) : clampInt (tySigned t) (tyBits t) i = saturate t i := by
  have := least_le_greatest t
  rw [clampInt, intMin_eq, intMax_eq, saturate]
  split
  · omega
  · split <;> omega

theorem inRange_iff (t : Ty) (i : Int) : inRange (tySigned t) (tyBits t) i = true ↔ least t ≤ i ∧ i ≤ greatest t := by
  rw [inRange, intMin_eq, intMax_eq, Bool.and_eq_true, decide_eq_true_eq, decide_eq_true_eq]

theorem saturate_of_mem {t : Ty} {i : Int} (h : least t ≤ i ∧ i ≤ greatest t) : saturate t i = i := by
  rw [saturate, if_neg (by omega), if_neg (by omega)]

theorem indefinite_eq (t : Ty) : indefinite (tySigned t) (tyBits t) = if t.toNat ≤ 3 then 2 ^ (tyBits t - 1) else 2 ^ tyBits t - 1 := by
  simp only [indefinite, tySigned, decide_eq_true_eq]

/-! ### Conversions (R108, Table 5.5) -/

section
variable {f g : Fmt} (hf : f.Sound) (hg : g.Sound) (rm : Rm) (sat : Bool)

include hf hg in
/-- Between floating types: the exact value rounded, or the special value kept. -/
theorem round_decode (x : Nat) : if number f x then Delivered g rm sat (signOf f x) (valueOf f x : ℚ) (g.round rm sat (f.decode x))
    else if f.decode x = .nan then g.round rm sat (f.decode x) = g.nan
    else g.round rm sat (f.decode x) = if sat then (if signOf f x then g.signBit else 0) + g.maxFinite else infinite g (signOf f x) := by
  split
  · next hx =>
    obtain ⟨m, e, hdec, hstands⟩ := decode_stands hf hx
    rw [hdec]
    exact round_delivered hg hstands (readable_exact g m e) rm sat _
  · next hx =>
    rcases decode_inf_or_nan hf (by simpa using hx) with h | h
    · simp [h, round_inf]
    · simp [h, Fmt.round]

include hf in
/-- To an integer type: rounded first, then compared with the range. -/
theorem floatToInt_decode (t : Ty) (x : Nat) :
    if number f x then ∃ i, IntRounded rm (valueOf f x) i ∧ floatToInt rm sat (tySigned t) (tyBits t) (f.decode x) =
        if sat = true ∨ (least t ≤ i ∧ i ≤ greatest t) then wrap (tyBits t) (saturate t i) else indefinite (tySigned t) (tyBits t)
    else if sat = false then floatToInt rm sat (tySigned t) (tyBits t) (f.decode x) = indefinite (tySigned t) (tyBits t)
    else if f.decode x = .nan then floatToInt rm sat (tySigned t) (tyBits t) (f.decode x) = 0
    else floatToInt rm sat (tySigned t) (tyBits t) (f.decode x) = wrap (tyBits t) (if signOf f x then least t else greatest t) := by
  split
  · next hx =>
    obtain ⟨m, e, hdec, hval, -⟩ := decode_number hf hx
    refine ⟨roundToInt rm (signOf f x) m e false, ?_, ?_⟩
    · refine intRounded_roundToInt (a := |valueOf f x|) ?_ (by simp) rm (valueOf_sign hf x)
      push_cast
      simp [Stands, abs_valueOf hf, hval]
    · rw [hdec, floatToInt]
      generalize roundToInt rm (signOf f x) m e false = i
      simp only [inRange_iff, clampInt_eq, intBits_eq]
      by_cases hin : least t ≤ i ∧ i ≤ greatest t
      · rw [if_pos hin, if_pos (.inr hin), saturate_of_mem hin]
      · simp only [hin, or_false, if_false]
  · next hx =>
    rcases decode_inf_or_nan hf (by simpa using hx) with h | h
    · cases sat <;> simp [h, floatToInt, intMin_eq, intMax_eq, intBits_eq]
    · cases sat <;> simp [h, floatToInt]

end

/-- From an integer type to a floating one. -/
theorem round_ofInt {g : Fmt} (hg : g.Sound) (rm : Rm) (sat : Bool) (i : Int) :
    Delivered g rm sat (decide (i < 0)) ((i : ℚ) : ℝ) (g.round rm sat (ofInt i 0 false)) := by
  have hstands : Stands i.natAbs 0 false |((i : ℚ) : ℝ)| := by
    simp only [Stands, Bool.false_eq_true, if_false, zpow_zero, mul_one]
    push_cast
    rw [← Int.cast_abs, Int.abs_eq_natAbs, Int.cast_natCast]
  have hfin : ofInt i 0 false = .fin (decide (i < 0)) i.natAbs 0 false := by
    rw [ofInt]
    split
    · next h => simp [h]
    · rfl
  rw [hfin]
  exact round_delivered hg hstands (readable_exact g _ 0) rm sat _

theorem convert_float {st : Ty} (hst : isFloatTy st = true) (rm : Rm) (sat : Bool) (dt : Ty) (x : Nat) : convert rm sat dt st x =
    if isFloatTy dt then (fmtOf dt).round rm sat ((fmtOf st).decode x) else floatToInt rm sat (tySigned dt) (tyBits dt) ((fmtOf st).decode x) := by
  rw [convert, if_pos hst]

theorem convert_int {st : Ty} (hst : isFloatTy st = false) (rm : Rm) (sat : Bool) (dt : Ty) (x : Nat) : convert rm sat dt st x =
    if isFloatTy dt then (fmtOf dt).round rm sat (ofInt (tval st x) 0 false) else wrap (tyBits dt) (if sat then saturate dt (tval st x) else tval st x) := by
  simp only [convert, hst, Bool.false_eq_true, if_false, intVal_eq, clampInt_eq, intBits_eq]
  split
  · rfl
  · split <;> rfl

/-! ### Quantised codes (R109, R141, R142) -/

theorem sound_fp16 : fp16.Sound := sound_of_mem (by decide)
theorem sound_fp32 : fp32.Sound := sound_of_mem (by decide)

/-- An encoding without its sign, given one. -/
theorem signed_encoding {f : Fmt} (hf : f.Sound) {y : Nat} (hy : y ≤ f.maxFinite) (n : Bool) :
    number f ((if n then 2 ^ (f.eb + f.fb) else 0) + y) = true ∧ signOf f ((if n then 2 ^ (f.eb + f.fb) else 0) + y) = n ∧
    ((valueOf f ((if n then 2 ^ (f.eb + f.fb) else 0) + y) : ℚ) : ℝ) = (if n then -1 else 1) * f.val y := by
  have hlt := hy.trans_lt (maxFinite_lt hf)
  have hmod : ((if n then 2 ^ (f.eb + f.fb) else 0) + y) % 2 ^ (f.eb + f.fb) = y := by
    split
    · rw [Nat.add_mod_left, Nat.mod_eq_of_lt hlt]
    · rw [zero_add, Nat.mod_eq_of_lt hlt]
  have hsign : signOf f ((if n then 2 ^ (f.eb + f.fb) else 0) + y) = n := by
    cases n
    · simp [signOf, Nat.div_eq_of_lt hlt]
    · simp [signOf, Nat.add_div_left _ (Nat.two_pow_pos (f.eb + f.fb)), Nat.div_eq_of_lt hlt]
  exact ⟨(number_iff hf _).mpr (by rwa [hmod]), hsign, by rw [valueOf_eq hf, hsign, hmod]⟩

/-- A significand that fits, above the least exponent and below overflow, is delivered exactly, in every mode. -/
theorem round_exact {f : Fmt} (hf : f.Sound) {m : Nat} {e : Int} (hm : m < 2 ^ (f.fb + 1)) (he : f.lsb ≤ e)
    (hlt : (m : ℝ) * 2 ^ e < f.val (f.maxFinite + 1)) (rm : Rm) (sat neg : Bool) :
    number f (f.round rm sat (.fin neg m e false)) = true ∧ signOf f (f.round rm sat (.fin neg m e false)) = neg ∧
    valueOf f (f.round rm sat (.fin neg m e false)) = exact (.fin neg m e false) := by
  obtain ⟨y, hy⟩ := exists_val_eq hf hm he
  have hmax : y ≤ f.maxFinite := Nat.lt_succ_iff.mp (f.val_strictMono.lt_iff_lt.mp (hy ▸ hlt))
  obtain ⟨hnum, hsign, hval⟩ := signed_encoding hf hmax neg
  rw [round_of_val hf hy, (deliver_finite hf hmax rm sat neg).2]
  refine ⟨hnum, hsign, ?_⟩
  have : ((valueOf f ((if neg then 2 ^ (f.eb + f.fb) else 0) + y) : ℚ) : ℝ) = ((exact (.fin neg m e false) : ℚ) : ℝ) := by
    rw [hval, ← hy, exact]
    push_cast
    split <;> simp
  exact_mod_cast this

/-- A whole quotient, with whether a remainder is left, stands for the quotient. -/
theorem stands_div (n : Nat) {b : Nat} (hb : b ≠ 0) (E : Int) : Stands (n / b) E (decide (n % b ≠ 0)) ((n : ℝ) / b * 2 ^ E) := by
  have hbpos : (0 : ℝ) < b := by exact_mod_cast Nat.pos_of_ne_zero hb
  have hsum : (n : ℝ) = b * (n / b : Nat) + (n % b : Nat) := by exact_mod_cast (Nat.div_add_mod n b).symm
  have hlt : ((n % b : Nat) : ℝ) < b := by exact_mod_cast Nat.mod_lt n (Nat.pos_of_ne_zero hb)
  by_cases hr : n % b = 0
  · have hexact : (n : ℝ) / b = (n / b : Nat) := by rw [div_eq_iff hbpos.ne', hsum, hr]; simp [mul_comm]
    simp [Stands, hr, hexact]
  · have hpos : (0 : ℝ) < (n % b : Nat) := by exact_mod_cast Nat.pos_of_ne_zero hr
    simp only [Stands, ne_eq, hr, not_false_iff, decide_true, if_true]
    exact ⟨mul_lt_mul_of_pos_right (by rw [lt_div_iff₀ hbpos]; linarith) (two_zpow_pos E),
      mul_lt_mul_of_pos_right (by rw [div_lt_iff₀ hbpos]; linarith) (two_zpow_pos E)⟩

/-- The model's quotient: its bits and a part below them stand for the quotient of the magnitudes. -/
theorem div_stands (p : Nat) {ma mb : Nat} {ea eb : Int} (hb : mb ≠ 0) (na nb sa sb : Bool) :
    ∃ M E st, FVal.div p (.fin na ma ea sa) (.fin nb mb eb sb) = .fin (na != nb) M E st ∧
      Stands M E st ((ma : ℝ) * 2 ^ ea / (mb * 2 ^ eb)) ∧
      ((ma = 0 ∧ st = false) ∨ (E = ea - eb - (p + Nat.log2 mb + 1 : Nat) ∧ 2 ^ p ≤ M)) := by
  by_cases ha : ma = 0
  · exact ⟨0, 0, false, by simp [FVal.div, ha, hb], by simp [Stands, ha], .inl ⟨ha, rfl⟩⟩
  · refine ⟨ma * 2 ^ (p + Nat.log2 mb + 1) / mb, ea - eb - (p + Nat.log2 mb + 1 : Nat), decide (ma * 2 ^ (p + Nat.log2 mb + 1) % mb ≠ 0),
      by simp only [FVal.div, ha, hb, if_false], ?_, .inr ⟨rfl, ?_⟩⟩
    · have hquot : (ma : ℝ) * 2 ^ ea / (mb * 2 ^ eb) =
          ((ma * 2 ^ (p + Nat.log2 mb + 1) : Nat) : ℝ) / mb * 2 ^ (ea - eb - (p + Nat.log2 mb + 1 : Nat) : Int) := by
        rw [zpow_sub₀ two_ne_zero, zpow_sub₀ two_ne_zero, zpow_natCast]
        push_cast
        have := (two_zpow_pos eb).ne'
        field_simp
      exact hquot ▸ stands_div _ hb _
    · rw [Nat.le_div_iff_mul_le (Nat.pos_of_ne_zero hb)]
      calc 2 ^ p * mb ≤ 2 ^ p * 2 ^ (Nat.log2 mb + 1) := Nat.mul_le_mul_left _ Nat.lt_log2_self.le
        _ = 2 ^ (p + Nat.log2 mb + 1) := by rw [← Nat.pow_add, Nat.add_assoc]
        _ ≤ ma * 2 ^ (p + Nat.log2 mb + 1) := Nat.le_mul_of_pos_left _ (Nat.pos_of_ne_zero ha)

theorem decode_significand_eq_zero {f : Fmt} (hf : f.Sound) {x m : Nat} {e : Int} (hval : (m : ℝ) * 2 ^ e = f.val (x % 2 ^ (f.eb + f.fb))) :
    m = 0 ↔ valueOf f x = 0 := by
  have habs : |((valueOf f x : ℚ) : ℝ)| = m * 2 ^ e := by rw [abs_valueOf hf, hval]
  rw [← Rat.cast_eq_zero (α := ℝ), ← abs_eq_zero, habs, mul_eq_zero, or_iff_left (two_zpow_pos e).ne', Nat.cast_eq_zero]

/-- `vquant` of a number: the quotient by a scale that is a number other than zero, rounded, and the zero point added (R141). -/
theorem quantCode_number {σ x : Nat} (hσ : number fp16 σ = true) (hσ0 : valueOf fp16 σ ≠ 0) (hx : number fp32 x = true) (w : Nat) (sat : Bool)
    (rm : Rm) (z : Nat) : ∃ i, IntRounded rm (valueOf fp32 x / valueOf fp16 σ) i ∧ quantCode w sat rm σ z x =
      if 0 ≤ i + z ∧ i + z < (2 ^ w : Nat) then (i + z).toNat else if sat then (if i + z < 0 then 0 else 2 ^ w - 1) else wrap w (i + z) := by
  obtain ⟨ms, es, hdecs, hvals, -, hlos, -⟩ := decode_number sound_fp16 hσ
  obtain ⟨mx, ex, hdecx, hvalx, -, -, hhix⟩ := decode_number sound_fp32 hx
  have hms : ms ≠ 0 := (decode_significand_eq_zero sound_fp16 hvals).not.mpr hσ0
  obtain ⟨M, E, st, hdiv, hstands, hsticky⟩ := div_stands 170 (ma := mx) (ea := ex) (eb := es) hms (signOf fp32 x) (signOf fp16 σ) false false
  rw [hvals, hvalx, ← abs_valueOf sound_fp16, ← abs_valueOf sound_fp32] at hstands
  have hE : st = true → E < 0 := fun h => by
    have hlsb16 : fp16.lsb = -24 := by decide
    have hlsb32 : fp32.lsb = -149 := by decide
    have heb : (2 : Int) ^ fp32.eb = 256 := by decide
    rcases hsticky with ⟨-, hst⟩ | ⟨hE, -⟩
    · exact absurd h (by simp [hst])
    · omega
  refine ⟨roundToInt rm (signOf fp32 x != signOf fp16 σ) M E st, ?_, ?_⟩
  · refine intRounded_roundToInt (a := |valueOf fp32 x| / |valueOf fp16 σ|) (by push_cast; exact hstands) hE rm ?_
    conv_lhs => rw [valueOf_sign sound_fp32 x, valueOf_sign sound_fp16 σ]
    cases signOf fp32 x <;> cases signOf fp16 σ <;> simp [neg_div, div_neg]
  · simp only [quantCode, hdecs, hdecx, hms, if_false, hdiv, intBits_eq]
    generalize roundToInt rm (signOf fp32 x != signOf fp16 σ) M E st = i
    have htop : ((2 ^ w - 1 : Nat) : Int) = (2 ^ w : Nat) - 1 := by have := Nat.two_pow_pos w; omega
    by_cases hin : 0 ≤ i + (z : Int) ∧ i + z < (2 ^ w : Nat)
    · rw [if_pos hin, if_neg]
      rw [htop, Bool.or_eq_true, decide_eq_true_eq, decide_eq_true_eq]
      omega
    · rw [if_neg hin, if_pos]
      rw [htop, Bool.or_eq_true, decide_eq_true_eq, decide_eq_true_eq]
      omega

/-- `vquant` gives the zero point for a NaN, and where the scale is zero or no number (R141). -/
theorem quantCode_zeroPoint {σ x : Nat} (h : fp32.decode x = .nan ∨ number fp16 σ = false ∨ valueOf fp16 σ = 0) (w : Nat) (sat : Bool) (rm : Rm)
    (z : Nat) : quantCode w sat rm σ z x = z := by
  by_cases hσ : number fp16 σ = true
  · obtain ⟨ms, es, hdecs, hvals, -⟩ := decode_number sound_fp16 hσ
    by_cases hms : ms = 0
    · cases hx : fp32.decode x <;> simp [quantCode, hdecs, hms, hx]
    · have hx : fp32.decode x = .nan := by
        have h0 := (decode_significand_eq_zero sound_fp16 hvals).not.mp hms
        simpa [hσ, h0] using h
      simp [quantCode, hdecs, hx]
  · rcases decode_inf_or_nan sound_fp16 (by simpa using hσ) with hs | hs <;> cases hx : fp32.decode x <;> simp [quantCode, hs, hx]

theorem quantCode_infinity {σ x : Nat} {n : Bool} (hσ : number fp16 σ = true) (hσ0 : valueOf fp16 σ ≠ 0) (hx : fp32.decode x = .inf n) (w : Nat)
    (sat : Bool) (rm : Rm) (z : Nat) : quantCode w sat rm σ z x = if sat then (if n then 0 else 2 ^ w - 1) else z := by
  obtain ⟨ms, es, hdecs, hvals, -⟩ := decode_number sound_fp16 hσ
  have hms : ms ≠ 0 := (decode_significand_eq_zero sound_fp16 hvals).not.mpr hσ0
  simp [quantCode, hdecs, hx, hms]

theorem ofInt_eq (i lo : Int) : ofInt i lo false = .fin (decide (i < 0)) i.natAbs lo false := by
  rw [ofInt]
  split
  · next h => simp [h]
  · rfl

theorem val_overflow_fp32 : fp32.val (fp32.maxFinite + 1) = 2 ^ 128 := by
  rw [(val_maxFinite_plain sound_fp32 rfl).1]
  norm_num [fp32]

/-- A code's value is exact in fp32 (R109, R142). -/
theorem dequant_number {σ z c : Nat} (hσ : number fp16 σ = true) (hz : z < 256) (hc : c < 256) :
    number fp32 (dequant σ z c) = true ∧ valueOf fp32 (dequant σ z c) = valueOf fp16 σ * ((c : ℚ) - z) ∧
    signOf fp32 (dequant σ z c) = (signOf fp16 σ != decide (c < z)) := by
  obtain ⟨ms, es, hdecs, hvals, hms, hlo, hhi⟩ := decode_number sound_fp16 hσ
  have hlsb16 : fp16.lsb = -24 := by decide
  have hlsb32 : fp32.lsb = -149 := by decide
  have hneg : decide ((c : Int) - z < 0) = decide (c < z) := decide_eq_decide.mpr (by omega)
  have hdeq : dequant σ z c = fp32.round 0 false (.fin (signOf fp16 σ != decide (c < z)) (ms * ((c : Int) - z).natAbs) es false) := by
    rw [dequant, hdecs, ofInt_eq, hneg, FVal.mul, add_zero]
  have hfit : ms * ((c : Int) - z).natAbs < 2 ^ 19 := by
    have habs : ((c : Int) - z).natAbs ≤ 255 := by omega
    have hms' : ms < 2 ^ 11 := hms
    calc ms * ((c : Int) - z).natAbs ≤ ms * 255 := Nat.mul_le_mul_left _ habs
      _ < 2 ^ 19 := by omega
  have hbig : ((ms * ((c : Int) - z).natAbs : Nat) : ℝ) * 2 ^ es < fp32.val (fp32.maxFinite + 1) := by
    have heb16 : (2 : Int) ^ fp16.eb = 32 := by decide
    have hes : (2 : ℝ) ^ es ≤ 2 ^ (8 : Int) := zpow_le_zpow_right₀ (by norm_num) (by omega)
    have hm : ((ms * ((c : Int) - z).natAbs : Nat) : ℝ) < 2 ^ 19 := by exact_mod_cast hfit
    rw [val_overflow_fp32]
    calc _ ≤ (2 : ℝ) ^ 19 * 2 ^ (8 : Int) := mul_le_mul hm.le hes (two_zpow_pos es).le (by positivity)
      _ < 2 ^ 128 := by norm_num
  obtain ⟨hnum, hsign, hval⟩ := round_exact sound_fp32 (hfit.trans (by decide)) (by omega) hbig 0 false (signOf fp16 σ != decide (c < z))
  rw [hdeq]
  refine ⟨hnum, ?_, hsign⟩
  have hcz : ((c : ℚ) - z) = (if decide (c < z) then -1 else 1) * (((c : Int) - z).natAbs : ℚ) := by
    rw [Nat.cast_natAbs]
    by_cases h : c < z
    · have : ((c : Int) - z) < 0 := by omega
      rw [abs_of_neg this]; simp [h]
    · have : 0 ≤ ((c : Int) - z) := by omega
      rw [abs_of_nonneg this]; simp [h]
  rw [hval, ← exact_eq_valueOf sound_fp16 hvals, exact, exact, hcz]
  push_cast
  cases signOf fp16 σ <;> cases decide (c < z) <;> simp <;> ring

theorem dequant_special {σ : Nat} (hσ : number fp16 σ = false) (z c : Nat) : dequant σ z c =
    if fp16.decode σ = .nan ∨ c = z then fp32.nan else infinite fp32 (signOf fp16 σ != decide (c < z)) := by
  have hneg : decide ((c : Int) - z < 0) = decide (c < z) := decide_eq_decide.mpr (by omega)
  rw [dequant, ofInt_eq, hneg]
  rcases decode_inf_or_nan sound_fp16 hσ with hs | hs
  · have hzero : ((c : Int) - z).natAbs = 0 ↔ c = z := by omega
    rw [hs, FVal.mul]
    simp only [hzero, reduceCtorEq, false_or]
    split
    · rfl
    · rw [round_inf]; rfl
  · simp [hs, FVal.mul, Fmt.round]

end Sys2Proof.Machine

/-! PROOFS. What the vector conversions, quantisation and packing write (R123, R140 to R143). -/
namespace Sys2Proof.Machine
open Claims

/-! ### Lists of results -/

theorem take_map_range {α : Type} (f : Nat → α) {k n : Nat} (h : k ≤ n) : ((List.range n).map f).take k = (List.range k).map f := by
  rw [← List.map_take, List.take_range, min_eq_left h]

theorem drop_map_range {α : Type} (f : Nat → α) (k n : Nat) : ((List.range (k + n)).map f).drop k = (List.range n).map fun i => f (i + k) := by
  refine List.ext_getElem (by simp) fun i h₁ h₂ => ?_
  simp [Nat.add_comm]

theorem append_map_range {α : Type} (f g : Nat → α) (n : Nat) :
    (List.range n).map f ++ (List.range n).map g = (List.range (n + n)).map fun i => if i < n then f i else g (i - n) := by
  rw [List.range_add, List.map_append, List.map_map]
  congr 1
  · exact map_range_congr fun i hi => (if_pos hi).symm
  · exact map_range_congr fun i _ => by simp

/-- The elements a conversion leaves: converted where they execute, the narrower side's further ones zero (R140). -/
theorem cvtElems_map_range (s : State) (m : KReg) (wide n N : Nat) (old new : Nat → Nat) :
    cvtElems (s.laneMask m) wide n ((List.range N).map old) ((List.range n).map new) =
      (List.range N).map fun i => if i < n then (if runs s m wide i then new i else old i) else 0 := by
  rw [cvtElems, zipIdx_map_range, List.map_map]
  refine map_range_congr fun i _ => ?_
  simp only [Function.comp_apply, laneOn_laneMask]
  split
  · next h => rw [getD_map_range _ _ h]
  · rfl

/-- No element that executes is bad: a governed instruction writes its results (R123). -/
theorem State.putF_quiet {s : State} {t : Ty} {m : KReg} {f : Nat → Nat} {ops : Nat → List FVal}
    (h : ∀ i < elemCount (tyBits t), runs s m (tyBits t) i = true → fpBad s.readFpctl ((fmtOf t).decode (f i)) (ops i) = false) (d : VReg) :
    s.putF t d m ((List.range (elemCount (tyBits t))).map fun i => (f i, ops i)) = masked s (tyBits t) d m f := by
  have hnone : firstBad s.readFpctl (s.laneMask m) (tyBits t) (fmtOf t) ((List.range (elemCount (tyBits t))).map fun i => (f i, ops i)) = none := by
    rw [firstBad, zipIdx_map_range, Option.map_eq_none_iff, List.find?_eq_none]
    simp only [List.mem_map, List.mem_range]
    rintro _ ⟨i, hi, rfl⟩
    simpa [laneOn_laneMask] using h i hi
  rw [State.putF, hnone, ← State.putElems_eq, List.map_map]
  rfl

theorem elemCount_max_le (a b : Ty) : elemCount (max (tyBits a) (tyBits b)) ≤ elemCount (tyBits b) := by
  rcases tyBits_cases a with ha | ha | ha | ha | ha <;> rcases tyBits_cases b with hb | hb | hb | hb | hb <;> rw [ha, hb] <;> decide

theorem el_lt (s : State) {w : Nat} (hw : w ≠ 64) (r : VReg) (i : Nat) : el s w r i < 2 ^ w := by
  have hmem : ∀ x ∈ s.readElems w r, x < 2 ^ w := by
    rw [State.readElems, if_neg hw, vecElems, List.forall_mem_map]
    exact fun i _ => BitVec.isLt _
  rw [el, List.getD_eq_getElem?_getD]
  rcases h : (s.readElems w r)[i]? with _ | x
  · exact Nat.two_pow_pos w
  · exact hmem x (List.mem_of_getElem? h)

/-- What a conversion or quantisation gives: its results where they execute, zero in the narrower side's further elements. -/
def lowResults (s : State) (m : KReg) (d : VReg) (wide w n : Nat) (f : Nat → Nat) : State :=
  s.writeElems w d ((List.range (elemCount w)).map fun i => if i < n then (if runs s m wide i then f i else el s w d i) else 0)

/-! ### The instructions -/

section
variable {s : State} {q : Pred} (hq : s.holds q = true) (d a b : VReg) (m : KReg) (rm : Rm) (sat : Bool)
include hq

theorem exec_vCvt {dt st : Ty}
    (hquiet : isFloatTy dt = false ∨ ∀ i < elemCount (max (tyBits dt) (tyBits st)), runs s m (max (tyBits dt) (tyBits st)) i = true →
      fpBad s.readFpctl ((fmtOf dt).decode (convert rm sat dt st (el s (tyBits st) a i))) [cvtVal st (el s (tyBits st) a i)] = false) :
    exec (.vCvt q d a dt st m rm sat) s = .next (lowResults s m d (max (tyBits dt) (tyBits st)) (tyBits dt)
      (elemCount (max (tyBits dt) (tyBits st))) fun i => convert rm sat dt st (el s (tyBits st) a i)) := by
  change execVCvt q d a dt st m rm sat s = _
  rw [execVCvt, State.under_holds hq]
  simp only [State.readElems_eq, take_map_range _ (elemCount_max_le dt st), List.map_map]
  generalize hwide : max (tyBits dt) (tyBits st) = wide at *
  have hnone : (if isFloatTy dt = true then
      (((List.range (elemCount wide)).map (el s (tyBits st) a)).zip ((List.range (elemCount wide)).map (convert rm sat dt st ∘ el s (tyBits st) a))).zipIdx.find?
        fun x => laneOn (s.laneMask m) wide x.2 && fpBad s.readFpctl ((fmtOf dt).decode x.1.2) [cvtVal st x.1.1]
      else none) = none := by
    split
    · next hdt =>
      rw [zip_map_range, zipIdx_map_range, List.find?_eq_none]
      simp only [List.mem_map, List.mem_range]
      rintro _ ⟨i, hi, rfl⟩
      simpa [laneOn_laneMask] using hquiet.resolve_left (by simp [hdt]) i hi
    · rfl
  rw [lowResults, ← cvtElems_map_range, hnone]
  rfl

/-- The zero point of an entry of Table 5.7. -/
def zeroPoint (t : Ty) (e : Nat) : Nat := if t = 14 then e / 2 ^ 16 % 16 else e / 2 ^ 16 % 256

omit hq in
theorem entryZp_eq (t : Ty) (e : Nat) : entryZp t e = zeroPoint t e := by
  have h14 : t.toNat = 14 ↔ t = 14 := ⟨fun h => BitVec.eq_of_toNat_eq h, fun h => h ▸ rfl⟩
  simp only [entryZp, zeroPoint, bits, bitsOf, Nat.shiftRight_eq_div_pow, h14, Nat.reduceAdd, Nat.reduceSub, Nat.reducePow]

omit hq in
theorem entryScale_eq (e : Nat) : entryScale e = e % 2 ^ 16 := by simp [entryScale, bits, bitsOf]

theorem exec_vQuant (t : Ty) : exec (.vQuant q d a b t m rm sat) s =
    .next (lowResults s m d 32 (tyBits t) 64 fun i =>
      quantCode (tyBits t) sat rm (el s 32 b (i / 32) % 2 ^ 16) (zeroPoint t (el s 32 b (i / 32))) (el s 32 a i)) := by
  change execVQuant q d a b t m rm sat s = _
  have h64 : elemCount 32 = 64 := rfl
  rw [execVQuant, State.under_holds hq, lowResults, ← cvtElems_map_range, State.readElems_eq s 32 a, State.readElems_eq s (tyBits t) d, h64,
    zipIdx_map_range]
  simp only [List.map_map, Function.comp_def, entryScale_eq, entryZp_eq, el]

theorem exec_vDequant {t : Ty} (ht : codeTy t = true)
    (hquiet : ∀ i < 64, runs s m 32 i = true → fpBad s.readFpctl
      (fp32.decode (dequant (el s 32 b (i / 32) % 2 ^ 16) (zeroPoint t (el s 32 b (i / 32))) (el s (tyBits t) a i)))
      [fp16.decode (el s 32 b (i / 32) % 2 ^ 16)] = false) :
    exec (.vDequant q d a b t m) s = .next (masked s 32 d m fun i =>
      dequant (el s 32 b (i / 32) % 2 ^ 16) (zeroPoint t (el s 32 b (i / 32))) (el s (tyBits t) a i)) := by
  change execVDequant q d a b t m s = _
  have hcount : 64 ≤ elemCount (tyBits t) := by
    clear hquiet
    revert t
    decide
  have hput := State.putF_quiet (t := 12) hquiet d
  rw [execVDequant, State.under_holds hq, State.readElems_eq s (tyBits t) a, take_map_range _ hcount, zipIdx_map_range]
  simp only [List.map_map, Function.comp_def, entryScale_eq, entryZp_eq]
  exact congrArg _ hput

omit hq in
theorem narrow_counts {t : Ty} (ht : narrowTy t = true) : tyBits t ≠ 64 ∧ 0 < tyBits t ∧
    elemCount (tyBits t) = elemCount (2 * tyBits t) + elemCount (2 * tyBits t) := by revert t; decide

omit hq in
/-- An element widened by the signedness of its type (R143). -/
theorem widenElem_el {t : Ty} (ht : narrowTy t = true) (s : State) (r : VReg) (i : Nat) :
    widenElem t (el s (tyBits t) r i) = wrap (2 * tyBits t) (tval t (el s (tyBits t) r i)) := by
  obtain ⟨h64, hpos, -⟩ := narrow_counts ht
  have hlt := el_lt s h64 r i
  simp only [widenElem, tval, tySigned, decide_eq_true_eq]
  split
  · rw [intBits_eq, intVal_true hpos]
  · have hlt' : el s (tyBits t) r i < 2 ^ (2 * tyBits t) := hlt.trans (Nat.pow_lt_pow_right (by norm_num) (by omega))
    rw [Nat.mod_eq_of_lt hlt, wrap, ← Int.natCast_mod, Int.toNat_natCast, Nat.mod_eq_of_lt hlt']

theorem exec_vPack {t : Ty} (ht : narrowTy t = true) : exec (.vPack q d a b t m) s = .next (masked s (tyBits t) d m fun i =>
    (if i < elemCount (2 * tyBits t) then el s (2 * tyBits t) a i else el s (2 * tyBits t) b (i - elemCount (2 * tyBits t))) % 2 ^ tyBits t) := by
  change execVPack q d a b t m s = _
  rw [execVPack, State.under_holds hq, ← State.putElems_eq]
  dsimp only
  rw [State.readElems_eq s _ a, State.readElems_eq s _ b, append_map_range, List.map_map, (narrow_counts ht).2.2]
  rfl

theorem exec_vUnpack {t : Ty} (ht : narrowTy t = true) : exec (.vUnpack q d a b t m) s =
    .next ((masked s (2 * tyBits t) d m fun i => wrap (2 * tyBits t) (tval t (el s (tyBits t) a i))).writeElems (2 * tyBits t) b
      ((List.range (elemCount (2 * tyBits t))).map fun i => if runs s m (2 * tyBits t) i
        then wrap (2 * tyBits t) (tval t (el s (tyBits t) a (i + elemCount (2 * tyBits t)))) else el s (2 * tyBits t) b i)) := by
  change execVUnpack q d a b t m s = _
  obtain ⟨-, -, hcount⟩ := narrow_counts ht
  have hhalf : elemCount (tyBits t) / 2 = elemCount (2 * tyBits t) := by omega
  rw [execVUnpack, State.under_holds hq]
  simp only [hhalf]
  rw [State.readElems_eq s _ a, State.readElems_eq s _ b, List.map_map, hcount, take_map_range _ (Nat.le_add_right _ _), drop_map_range,
    State.putElems_eq, mergeElems_map_range]
  simp only [Function.comp_def, widenElem_el ht, laneOn_laneMask]

end

end Sys2Proof.Machine

namespace Sys2Proof
open Machine Claims

/-- Settles O14: the decoder's numbers are whole units of the least subnormal, rounding chooses the encoding below the exact value or the
next, and the instructions write those results lane by lane. -/
theorem vectorConversionResults : Obligations.VectorConversionResults := by
  intro q d a b m rm sat s hq
  have hsound : ∀ t : Ty, (fmtOf t).Sound := fun t => sound_of_mem (fmtOf_mem t)
  refine ⟨by decide, fun p hp => ?_, fun dt st hdt hst x => ?_, fun dt st hdt hst x => ?_, fun dt st hst x => ?_, fun w σ z x hw hz => ?_,
    fun σ z c hz hc => ?_, fun dt st hquiet => exec_vCvt hq d a m rm sat hquiet,
    fun t ht => ⟨exec_vQuant hq d a b m rm sat t, exec_vDequant hq d a b m ht⟩,
    fun t ht => ⟨exec_vPack hq d a b m ht, exec_vUnpack hq d a b m ht⟩⟩
  · have hf := sound_of_mem hp
    exact ⟨valueOf_maxFinite hf, decodedAs_decode hf, fun n k e => round_delivered hf (stands_exact n k e) (readable_exact p k e) rm sat n, rfl,
      round_inf p rm sat⟩
  · have h := round_decode (hsound st) (hsound dt) rm sat x
    simp only [convert_float hst, hdt, if_true]
    exact h
  · have h := floatToInt_decode (hsound st) rm sat dt x
    rw [indefinite_eq] at h
    simp only [convert_float hst, hdt, Bool.false_eq_true, if_false]
    exact h
  · have h := round_ofInt (hsound dt) rm sat (tval st x)
    simp only [convert_int hst]
    split
    · exact h
    · rfl
  · dsimp only
    split
    · next h => exact quantCode_zeroPoint h w sat rm z
    · next h =>
      push Not at h
      obtain ⟨hnan, hσ, hσ0⟩ := h
      rw [Bool.ne_false_iff] at hσ
      split
      · next hx => exact quantCode_number hσ hσ0 hx w sat rm z
      · next hx => exact quantCode_infinity hσ hσ0 ((decode_inf_or_nan sound_fp32 (by simpa using hx)).resolve_right hnan) w sat rm z
  · dsimp only
    split
    · next h => exact dequant_number h hz hc
    · next h => exact dequant_special (by simpa using h) z c

end Sys2Proof

/-! PROOFS. Sums, products, quotients and roots: exact values rounded once, and the special cases (R97 to R102, R105, R107, R128). -/
namespace Sys2Proof.Machine
open Claims

/-! ### Encodings given back (R100, R105) -/

theorem sign_add_mag {f : Fmt} {x : Nat} (hx : x < 2 ^ f.width) : x = (if signOf f x then 2 ^ (f.eb + f.fb) else 0) + x % 2 ^ (f.eb + f.fb) := by
  have hw : 2 ^ f.width = 2 ^ (f.eb + f.fb) * 2 := by rw [Fmt.width, Nat.add_assoc, Nat.add_comm 1, pow_succ]
  have hdiv : x / 2 ^ (f.eb + f.fb) < 2 := Nat.div_lt_of_lt_mul (hw ▸ hx)
  have hsum := Nat.div_add_mod x (2 ^ (f.eb + f.fb))
  unfold signOf
  generalize x / 2 ^ (f.eb + f.fb) = b at *
  obtain rfl | rfl : b = 0 ∨ b = 1 := by omega
  · simpa using hsum.symm
  · simpa using hsum.symm

/-- The infinities are the only encodings that are neither numbers nor NaN. -/
theorem eq_infinite {f : Fmt} (he : f.e4 = false) {x : Nat} (hx : x < 2 ^ f.width) (hn : number f x = false) (hF : x % 2 ^ f.fb = 0) :
    x = infinite f (signOf f x) := by
  have hE : x / 2 ^ f.fb % 2 ^ f.eb = 2 ^ f.eb - 1 := by simpa [number, he] using hn
  have hmag : x % 2 ^ (f.eb + f.fb) = (2 ^ f.eb - 1) * 2 ^ f.fb := by
    have h := Nat.div_add_mod (x % 2 ^ (f.eb + f.fb)) (2 ^ f.fb)
    rw [mag_div, mag_mod, hE, hF, Nat.add_zero, Nat.mul_comm] at h
    exact h.symm
  conv_lhs => rw [sign_add_mag hx, hmag]
  rw [infinite, he, if_neg Bool.false_ne_true]

/-- Rounding gives back the encoding of what it decodes to, but for a NaN (R100, R105). -/
theorem round_decode_self {f : Fmt} (hf : f.Sound) (he : f.e4 = false) {x : Nat} (hx : x < 2 ^ f.width) (hnan : (f.decode x).isNan = false) (rm : Rm) :
    f.round rm false (f.decode x) = x := by
  by_cases hn : number f x = true
  · obtain ⟨m, e, hdec, hval, -⟩ := decode_number hf hn
    rw [hdec, round_of_val hf hval, (deliver_finite hf ((number_iff hf x).mp hn) rm false _).2, ← sign_add_mag hx]
  · rw [Bool.not_eq_true] at hn
    have hspecial := decode_special hf hn
    by_cases hF : x % 2 ^ f.fb = 0
    · rw [hspecial, if_pos ⟨he, hF⟩, round_inf, if_neg Bool.false_ne_true, ← eq_infinite he hx hn hF]
    · rw [hspecial, if_neg fun h => hF h.2] at hnan
      exact absurd hnan (by simp [FVal.isNan])

/-! ### Kinds of values -/

theorem FVal.eq_nan {v : FVal} (h : v.isNan = true) : v = .nan := by cases v <;> simp_all [FVal.isNan]
theorem FVal.eq_zero {v : FVal} (h : v.isZero = true) : ∃ n e, v = .fin n 0 e false := by
  unfold FVal.isZero at h
  split at h
  · exact ⟨_, _, rfl⟩
  · simp at h
theorem FVal.not_fin {v : FVal} (h : v.isFin = false) : v = .nan ∨ ∃ n, v = .inf n := by cases v <;> simp_all [FVal.isFin]

theorem decode_fin_st {f : Fmt} (hf : f.Sound) {x m : Nat} {n st : Bool} {e : Int} (h : f.decode x = .fin n m e st) :
    number f x = true ∧ n = signOf f x ∧ st = false := by
  by_cases hn : number f x = true
  · obtain ⟨m', e', hdec, -⟩ := decode_number hf hn
    rw [hdec, FVal.fin.injEq] at h
    exact ⟨hn, h.1.symm, h.2.2.2.symm⟩
  · rcases decode_inf_or_nan hf (by simpa using hn) with hd | hd <;> rw [hd] at h <;> exact absurd h (by simp)

/-- A finite encoding that is not zero has a significand. -/
theorem decode_nonzero {f : Fmt} (hf : f.Sound) {x : Nat} (hfin : (f.decode x).isFin = true) (hz : (f.decode x).isZero = false) :
    ∃ m e, f.decode x = .fin (signOf f x) m e false ∧ m ≠ 0 := by
  rcases hd : f.decode x with _ | n | ⟨n, m, e, st⟩
  · simp [hd, FVal.isFin] at hfin
  · simp [hd, FVal.isFin] at hfin
  · obtain ⟨-, rfl, rfl⟩ := decode_fin_st hf hd
    refine ⟨m, e, rfl, ?_⟩
    rintro rfl
    simp [hd, FVal.isZero] at hz

@[simp] theorem FVal.add_nan (rm : Rm) (v : FVal) : v.add rm .nan = .nan := by cases v <;> rfl
@[simp] theorem FVal.nan_add (rm : Rm) (v : FVal) : FVal.nan.add rm v = .nan := by cases v <;> rfl
@[simp] theorem FVal.mul_nan (v : FVal) : v.mul .nan = .nan := by cases v <;> rfl
@[simp] theorem FVal.nan_mul (v : FVal) : FVal.nan.mul v = .nan := by cases v <;> rfl
@[simp] theorem FVal.div_nan (p : Nat) (v : FVal) : v.div p .nan = .nan := by cases v <;> rfl
@[simp] theorem FVal.nan_div (p : Nat) (v : FVal) : FVal.nan.div p v = .nan := by cases v <;> rfl

/-- Flipping the sign bit of an encoding negates what it stands for. -/
theorem decode_flip (f : Fmt) (x : Nat) : f.decode (x ^^^ f.signBit) = (f.decode x).negate := by
  have hmag : (x ^^^ f.signBit) % 2 ^ (f.eb + f.fb) = x % 2 ^ (f.eb + f.fb) := by
    rw [Fmt.signBit, Nat.xor_mod_two_pow, Nat.mod_self, Nat.xor_zero]
  have hE : (x ^^^ f.signBit) / 2 ^ f.fb % 2 ^ f.eb = x / 2 ^ f.fb % 2 ^ f.eb := by rw [← mag_div, hmag, mag_div]
  have hF : (x ^^^ f.signBit) % 2 ^ f.fb = x % 2 ^ f.fb := by rw [← mag_mod, hmag, mag_mod]
  have hS : (x ^^^ f.signBit).testBit (f.eb + f.fb) = !x.testBit (f.eb + f.fb) := by simp [Fmt.signBit, Nat.testBit_two_pow_self]
  simp only [Fmt.decode, Nat.shiftRight_eq_div_pow, hE, hF, hS]
  split
  · rfl
  · split
    · split <;> rfl
    · split
      · split <;> rfl
      · rfl

/-! ### Sums and products are exact (R102) -/

theorem scaled_eq (n : Bool) (m : Nat) {e lo : Int} (h : lo ≤ e) : (scaled n m e lo : ℚ) * 2 ^ lo = exact (.fin n m e false) := by
  obtain ⟨k, rfl⟩ : ∃ k : Nat, e = lo + k := ⟨(e - lo).toNat, by omega⟩
  rw [scaled, exact, add_sub_cancel_left, Int.toNat_natCast, zpow_add₀ two_ne_zero, zpow_natCast]
  cases n <;> simp <;> ring

theorem ofInt_fin (i lo : Int) (z : Bool) : ofInt i lo z = .fin (if i = 0 then z else decide (i < 0)) i.natAbs lo false := by
  rw [ofInt]
  split
  · next h => simp [h]
  · rfl

theorem exact_natAbs {i lo : Int} {n : Bool} (h : i ≠ 0 → n = decide (i < 0)) : exact (.fin n i.natAbs lo false) = i * 2 ^ lo := by
  rcases lt_trichotomy i 0 with hi | rfl | hi
  · rw [h hi.ne]; simp [exact, hi, Nat.cast_natAbs, abs_of_neg hi]
  · simp [exact]
  · rw [h hi.ne']; simp [exact, hi.not_gt, Nat.cast_natAbs, abs_of_pos hi]

/-- Like-signed magnitudes that add up to nothing are both nothing. -/
theorem scaled_add_eq_zero {n : Bool} {ma mb : Nat} {ea eb lo : Int} (h : scaled n ma ea lo + scaled n mb eb lo = 0) : ma = 0 ∧ mb = 0 := by
  have ha : (0 : Int) < 2 ^ (ea - lo).toNat := by positivity
  have hb : (0 : Int) < 2 ^ (eb - lo).toNat := by positivity
  have ha' : 0 ≤ (ma : Int) * 2 ^ (ea - lo).toNat := by positivity
  have hb' : 0 ≤ (mb : Int) * 2 ^ (eb - lo).toNat := by positivity
  have hboth : (ma : Int) * 2 ^ (ea - lo).toNat = 0 ∧ (mb : Int) * 2 ^ (eb - lo).toNat = 0 := by
    cases n <;> simp only [scaled, Bool.false_eq_true, if_false, if_true] at h <;> omega
  exact ⟨by exact_mod_cast (mul_eq_zero.mp hboth.1).resolve_right ha.ne', by exact_mod_cast (mul_eq_zero.mp hboth.2).resolve_right hb.ne'⟩

/-- The model's sum of two finite values is exact, with the sign of R102. -/
theorem add_exact (rm : Rm) (na nb : Bool) (ma mb : Nat) (ea eb : Int) :
    ∃ n m e, (FVal.fin na ma ea false).add rm (.fin nb mb eb false) = .fin n m e false ∧
      exact (.fin n m e false) = exact (.fin na ma ea false) + exact (.fin nb mb eb false) ∧
      SumSign rm na nb ((exact (.fin n m e false) : ℚ) : ℝ) n := by
  have hsum : ((scaled na ma ea (min ea eb) + scaled nb mb eb (min ea eb) : Int) : ℚ) * 2 ^ min ea eb =
      exact (.fin na ma ea false) + exact (.fin nb mb eb false) := by
    rw [Int.cast_add, add_mul, scaled_eq na ma (min_le_left _ _), scaled_eq nb mb (min_le_right _ _)]
  generalize hi : scaled na ma ea (min ea eb) + scaled nb mb eb (min ea eb) = i at hsum
  generalize hz : (if (decide (ma = 0) && decide (mb = 0) && decide (na = nb)) = true then na else rm == 3) = zn
  have hadd : (FVal.fin na ma ea false).add rm (.fin nb mb eb false) = .fin (if i = 0 then zn else decide (i < 0)) i.natAbs (min ea eb) false := by
    simp only [FVal.add, hi, hz, ofInt_fin, Bool.or_false]
  have hzero : i = 0 → zn = if na = nb then na else rm == 3 := fun h => by
    rw [← hz]
    by_cases hn : na = nb
    · have h0 : ma = 0 ∧ mb = 0 := scaled_add_eq_zero (hn ▸ hi.trans h)
      simp [hn, h0]
    · simp [hn]
  have hexact : exact (.fin (if i = 0 then zn else decide (i < 0)) i.natAbs (min ea eb) false) = i * 2 ^ min ea eb :=
    exact_natAbs fun h => if_neg h
  have hpos : (0 : ℝ) < 2 ^ min ea eb := two_zpow_pos _
  have hval : ((i * 2 ^ min ea eb : ℚ) : ℝ) = i * 2 ^ min ea eb := by push_cast; rfl
  refine ⟨_, _, _, hadd, hexact.trans hsum, ?_⟩
  rw [hexact, hval]
  refine ⟨fun hv => ?_, fun hv => ?_, fun hv => ?_⟩
  · have hi : 0 < i := by exact_mod_cast (mul_pos_iff_of_pos_right hpos).mp hv
    simp [hi.ne', hi.not_gt]
  · have hi : i < 0 := by exact_mod_cast lt_of_mul_lt_mul_right (hv.trans_eq (zero_mul _).symm) hpos.le
    simp [hi.ne, hi]
  · have hi : i = 0 := by exact_mod_cast (mul_eq_zero.mp hv).resolve_right hpos.ne'
    rw [if_pos hi, hzero hi]

theorem mul_exact (na nb : Bool) (ma mb : Nat) (ea eb : Int) : (FVal.fin na ma ea false).mul (.fin nb mb eb false) = .fin (na != nb) (ma * mb) (ea + eb) false ∧
    exact (.fin (na != nb) (ma * mb) (ea + eb) false) = exact (.fin na ma ea false) * exact (.fin nb mb eb false) := by
  refine ⟨rfl, ?_⟩
  rw [exact, exact, exact, zpow_add₀ two_ne_zero]
  push_cast
  cases na <;> cases nb <;> simp <;> ring

theorem negate_exact (n : Bool) (m : Nat) (e : Int) : exact (.fin (!n) m e false) = -exact (.fin n m e false) := by
  cases n <;> simp [exact]

/-! ### The square root -/

/-- The root is found bit by bit: from a lower bound less than 2^(b+1) below it. -/
theorem isqrtFrom_spec {x : Nat} (b r : Nat) (hlow : r * r ≤ x) (hhigh : x < (r + 2 ^ (b + 1)) * (r + 2 ^ (b + 1))) :
    isqrtFrom x b r * isqrtFrom x b r ≤ x ∧ x < (isqrtFrom x b r + 1) * (isqrtFrom x b r + 1) := by
  induction b generalizing r with
  | zero =>
    rw [isqrtFrom]
    split
    · next h => exact ⟨h, by simpa using hhigh⟩
    · next h => exact ⟨hlow, not_le.mp h⟩
  | succ b ih =>
    rw [isqrtFrom]
    refine ih _ ?_ ?_
    · split
      · next h => exact h
      · exact hlow
    · split
      · have : r + 2 ^ (b + 1 + 1) = r + 2 ^ (b + 1) + 2 ^ (b + 1) := by ring
        exact this ▸ hhigh
      · next h => exact not_le.mp h

theorem isqrt_eq_sqrt (x : Nat) : isqrt x = Nat.sqrt x := by
  refine Nat.eq_sqrt.mpr (isqrtFrom_spec _ _ (by simp) ?_)
  have hlog : x < 2 ^ (Nat.log2 x + 1) := Nat.lt_log2_self
  calc x < 2 ^ (Nat.log2 x + 1) := hlog
    _ ≤ 2 ^ ((Nat.log2 x / 2 + 1 + 1) + (Nat.log2 x / 2 + 1 + 1)) := Nat.pow_le_pow_right (by norm_num) (by omega)
    _ = _ := by rw [Nat.pow_add, zero_add]

/-- A whole root, with whether it is short of the root, stands for the root. -/
theorem stands_isqrt (x : Nat) (E : Int) : Stands (isqrt x) E (decide (isqrt x * isqrt x ≠ x)) (Real.sqrt x * 2 ^ E) := by
  rw [isqrt_eq_sqrt]
  have hlow : (Nat.sqrt x : ℝ) * Nat.sqrt x ≤ x := by exact_mod_cast Nat.sqrt_le x
  have hhigh : (x : ℝ) < (Nat.sqrt x + 1) * (Nat.sqrt x + 1) := by exact_mod_cast Nat.lt_succ_sqrt x
  by_cases h : Nat.sqrt x * Nat.sqrt x = x
  · have hroot : Real.sqrt x = Nat.sqrt x := by
      rw [Real.sqrt_eq_iff_mul_self_eq (by positivity) (by positivity)]
      exact_mod_cast h.symm
    simp [Stands, h, hroot]
  · have hne : (Nat.sqrt x : ℝ) * Nat.sqrt x < x := lt_of_le_of_ne hlow (by exact_mod_cast h)
    simp only [Stands, ne_eq, h, not_false_iff, decide_true, if_true]
    refine ⟨mul_lt_mul_of_pos_right ?_ (two_zpow_pos E), mul_lt_mul_of_pos_right ?_ (two_zpow_pos E)⟩
    · rw [Real.lt_sqrt (by positivity), sq]; exact hne
    · rw [Real.sqrt_lt' (by positivity), sq]; exact hhigh

/-- The model's root: its bits and a part below them stand for the root of the magnitude. -/
theorem sqrt_stands (p : Nat) {m : Nat} (hm : m ≠ 0) (e : Int) : ∃ M E st, FVal.sqrt p (.fin false m e false) = .fin false M E st ∧
    Stands M E st (Real.sqrt (m * 2 ^ e)) ∧ 2 ^ p ≤ M := by
  obtain ⟨k, hk, heven, hpk⟩ : ∃ k : Nat, (2 * p + if e % 2 = 0 then 0 else 1) = k ∧ (e - k) % 2 = 0 ∧ 2 * p ≤ k :=
    ⟨_, rfl, by split <;> push_cast <;> omega, by omega⟩
  obtain ⟨j, hj⟩ : ∃ j : Int, e = k + 2 * j := ⟨(e - k) / 2, by omega⟩
  have hhalf : (e - (k : Int)) / 2 = j := by omega
  have hroot : Real.sqrt (m * 2 ^ e) = Real.sqrt (m * 2 ^ k : Nat) * 2 ^ j := by
    have hsq : (m : ℝ) * 2 ^ e = (m * 2 ^ k : Nat) * (2 ^ j) ^ 2 := by
      rw [hj, zpow_add₀ two_ne_zero, zpow_natCast, two_mul, zpow_add₀ two_ne_zero]
      push_cast
      ring
    rw [hsq, Real.sqrt_mul (by positivity), Real.sqrt_sq (two_zpow_pos j).le]
  refine ⟨isqrt (m * 2 ^ k), j, decide (isqrt (m * 2 ^ k) * isqrt (m * 2 ^ k) ≠ m * 2 ^ k), ?_, hroot ▸ stands_isqrt _ _, ?_⟩
  · simp only [FVal.sqrt, hm, if_false, Bool.false_eq_true, hk, hhalf]
  · rw [isqrt_eq_sqrt, Nat.le_sqrt, ← Nat.pow_add, ← two_mul]
    exact (Nat.pow_le_pow_right (by norm_num) hpk).trans (Nat.le_mul_of_pos_left _ (Nat.pos_of_ne_zero hm))

end Sys2Proof.Machine

namespace Sys2Proof.Machine
open Claims

/-! ### Results of numbers, rounded once -/

theorem decode_exact {f : Fmt} (hf : f.Sound) {x : Nat} (hx : number f x = true) :
    ∃ m e, f.decode x = .fin (signOf f x) m e false ∧ exact (.fin (signOf f x) m e false) = valueOf f x := by
  obtain ⟨m, e, hdec, hval, -⟩ := decode_number hf hx
  exact ⟨m, e, hdec, exact_eq_valueOf hf hval⟩

theorem readable_long (f : Fmt) {M : Nat} (h : 2 ^ (f.fb + 1) ≤ M) (e : Int) (st : Bool) : f.Readable M e st := by
  have hM : M ≠ 0 := by have := Nat.two_pow_pos (f.fb + 1); omega
  have hlog : f.fb + 1 ≤ Nat.log2 M := (Nat.le_log2 hM).mpr h
  refine ⟨.inl hM, fun _ => ?_⟩
  rw [Fmt.cut, if_neg hM]
  omega

section
variable {f : Fmt} (hf : f.Sound) (rm : Rm) {x y z : Nat}
include hf

theorem rounded_exact (n : Bool) (m : Nat) (e : Int) :
    Rounded f rm n ((exact (.fin n m e false) : ℚ) : ℝ) (f.round rm false (.fin n m e false)) :=
  round_rounded hf (stands_exact n m e) (readable_exact f m e) rm n

theorem addBits_rounded (hx : number f x = true) (hy : number f y = true) :
    ∃ n, SumSign rm (signOf f x) (signOf f y) ((valueOf f x : ℚ) + (valueOf f y : ℚ) : ℝ) n ∧
      Rounded f rm n ((valueOf f x : ℚ) + (valueOf f y : ℚ) : ℝ) (f.addBits rm x y) := by
  obtain ⟨mx, ex, hdx, hvx⟩ := decode_exact hf hx
  obtain ⟨my, ey, hdy, hvy⟩ := decode_exact hf hy
  obtain ⟨n, m, e, hadd, hval, hsign⟩ := add_exact rm (signOf f x) (signOf f y) mx my ex ey
  rw [Fmt.addBits, hdx, hdy, hadd, ← hvx, ← hvy, ← Rat.cast_add, ← hval]
  exact ⟨n, hsign, rounded_exact hf rm n m e⟩

theorem subBits_rounded (hx : number f x = true) (hy : number f y = true) :
    ∃ n, SumSign rm (signOf f x) (!signOf f y) ((valueOf f x : ℚ) - (valueOf f y : ℚ) : ℝ) n ∧
      Rounded f rm n ((valueOf f x : ℚ) - (valueOf f y : ℚ) : ℝ) (f.subBits rm x y) := by
  obtain ⟨mx, ex, hdx, hvx⟩ := decode_exact hf hx
  obtain ⟨my, ey, hdy, hvy⟩ := decode_exact hf hy
  obtain ⟨n, m, e, hadd, hval, hsign⟩ := add_exact rm (signOf f x) (!signOf f y) mx my ex ey
  rw [Fmt.subBits, hdx, hdy, FVal.negate, hadd, ← hvx, ← hvy, sub_eq_add_neg, ← Rat.cast_neg, ← negate_exact, ← Rat.cast_add, ← hval]
  exact ⟨n, hsign, rounded_exact hf rm n m e⟩

theorem mulBits_rounded (hx : number f x = true) (hy : number f y = true) :
    Rounded f rm (signOf f x != signOf f y) ((valueOf f x : ℚ) * (valueOf f y : ℚ) : ℝ) (f.mulBits rm x y) := by
  obtain ⟨mx, ex, hdx, hvx⟩ := decode_exact hf hx
  obtain ⟨my, ey, hdy, hvy⟩ := decode_exact hf hy
  obtain ⟨hmul, hval⟩ := mul_exact (signOf f x) (signOf f y) mx my ex ey
  rw [Fmt.mulBits, hdx, hdy, hmul, ← hvx, ← hvy, ← Rat.cast_mul, ← hval]
  exact rounded_exact hf rm _ _ _

theorem fmaBits_rounded (hx : number f x = true) (hy : number f y = true) (hz : number f z = true) :
    ∃ n, SumSign rm (signOf f x != signOf f y) (signOf f z) ((valueOf f x : ℚ) * (valueOf f y : ℚ) + (valueOf f z : ℚ) : ℝ) n ∧
      Rounded f rm n ((valueOf f x : ℚ) * (valueOf f y : ℚ) + (valueOf f z : ℚ) : ℝ) (f.fmaBits rm x y z) := by
  obtain ⟨mx, ex, hdx, hvx⟩ := decode_exact hf hx
  obtain ⟨my, ey, hdy, hvy⟩ := decode_exact hf hy
  obtain ⟨mz, ez, hdz, hvz⟩ := decode_exact hf hz
  obtain ⟨hmul, hprod⟩ := mul_exact (signOf f x) (signOf f y) mx my ex ey
  obtain ⟨n, m, e, hadd, hval, hsign⟩ := add_exact rm (signOf f x != signOf f y) (signOf f z) (mx * my) mz (ex + ey) ez
  rw [Fmt.fmaBits, hdx, hdy, hdz, hmul, hadd, ← hvx, ← hvy, ← hvz, ← Rat.cast_mul, ← hprod, ← Rat.cast_add, ← hval]
  exact ⟨n, hsign, rounded_exact hf rm n m e⟩

theorem divBits_rounded (hx : number f x = true) (hy : number f y = true) (hy0 : ((valueOf f y : ℚ) : ℝ) ≠ 0) :
    Rounded f rm (signOf f x != signOf f y) ((valueOf f x : ℚ) / (valueOf f y : ℚ) : ℝ) (f.divBits rm x y) := by
  obtain ⟨mx, ex, hdx, hvx, -⟩ := decode_number hf hx
  obtain ⟨my, ey, hdy, hvy, -⟩ := decode_number hf hy
  have hmy : my ≠ 0 := (decode_significand_eq_zero hf hvy).not.mpr (by exact_mod_cast hy0)
  obtain ⟨M, E, st, hdiv, hstands, hlong⟩ := div_stands (2 * f.fb + 5) (ma := mx) (ea := ex) (eb := ey) hmy (signOf f x) (signOf f y) false false
  rw [hvx, hvy, ← abs_valueOf hf, ← abs_valueOf hf, ← abs_div] at hstands
  have hr : f.Readable M E st := by
    rcases hlong with ⟨-, rfl⟩ | ⟨-, hM⟩
    · exact readable_exact f M E
    · exact readable_long f ((Nat.pow_le_pow_right (by norm_num) (by omega)).trans hM) E st
  rw [Fmt.divBits, hdx, hdy, hdiv]
  exact round_rounded hf hstands hr rm _

theorem sqrtBits_rounded (hx : number f x = true) (hpos : 0 < ((valueOf f x : ℚ) : ℝ)) :
    Rounded f rm false (Real.sqrt ((valueOf f x : ℚ) : ℝ)) (f.sqrtBits rm x) := by
  obtain ⟨m, e, hdec, hval, -⟩ := decode_number hf hx
  have hm : m ≠ 0 := (decode_significand_eq_zero hf hval).not.mpr (by exact_mod_cast hpos.ne')
  have hsign : signOf f x = false := by
    rw [valueOf_eq hf] at hpos
    have := f.val_nonneg (x % 2 ^ (f.eb + f.fb))
    cases hs : signOf f x
    · rfl
    · rw [hs] at hpos; simp only [if_true] at hpos; linarith
  obtain ⟨M, E, st, hsqrt, hstands, hM⟩ := sqrt_stands (f.fb + 3) hm e
  rw [hval, ← abs_valueOf hf, abs_of_pos hpos, ← abs_of_nonneg (Real.sqrt_nonneg _)] at hstands
  rw [Fmt.sqrtBits, hdec, hsign, hsqrt]
  exact round_rounded hf hstands (readable_long f ((Nat.pow_le_pow_right (by norm_num) (by omega)).trans hM) E st) rm false

end

/-! ### Special cases (Tables 5.2, 6.5, R102, R107, R128) -/

/-- The formats the scalar and vector units compute in (R128, R138). -/
def Fmt.Computes (p : Fmt) : Prop := p = fp64 ∨ p = fp32 ∨ p = fp16 ∨ p = bf16

theorem Fmt.Computes.sound {p : Fmt} (hp : p.Computes) : p.Sound := by
  rcases hp with rfl | rfl | rfl | rfl <;> exact sound_of_mem (by decide)

theorem Fmt.Computes.plain {p : Fmt} (hp : p.Computes) : p.e4 = false := by
  rcases hp with rfl | rfl | rfl | rfl <;> rfl

theorem decode_infinite {p : Fmt} (hp : p.Computes) (n : Bool) : p.decode (infinite p n) = .inf n := by
  rcases hp with rfl | rfl | rfl | rfl <;> cases n <;> decide

theorem decode_signBit {p : Fmt} (hp : p.Computes) : p.decode p.signBit = .fin true 0 p.lsb false := by
  rcases hp with rfl | rfl | rfl | rfl <;> decide

theorem round_zero (p : Fmt) (rm : Rm) (sat n : Bool) (e : Int) : p.round rm sat (.fin n 0 e false) = if n then p.signBit else 0 := by
  cases n <;> simp [Fmt.round]

section
variable {p : Fmt} (rm : Rm) {x y z : Nat}

theorem nan_operands (h : (p.decode x).isNan = true) (y z : Nat) :
    p.addBits rm x y = p.nan ∧ p.addBits rm y x = p.nan ∧ p.subBits rm x y = p.nan ∧ p.subBits rm y x = p.nan ∧
    p.mulBits rm x y = p.nan ∧ p.mulBits rm y x = p.nan ∧ p.divBits rm x y = p.nan ∧ p.divBits rm y x = p.nan ∧
    p.sqrtBits rm x = p.nan ∧ p.fmaBits rm x y z = p.nan ∧ p.fmaBits rm y x z = p.nan ∧ p.fmaBits rm y z x = p.nan ∧
    p.minBits x y = p.nan ∧ p.maxBits y x = p.nan := by
  have hx := FVal.eq_nan h
  have hmin : p.minBits x y = p.nan := by rw [Fmt.minBits, if_pos (by simp [h])]
  have hmax : p.maxBits y x = p.nan := by rw [Fmt.maxBits, if_pos (by simp [h])]
  simp only [Fmt.addBits, Fmt.subBits, Fmt.mulBits, Fmt.divBits, Fmt.sqrtBits, Fmt.fmaBits, hx, FVal.negate, FVal.add_nan, FVal.nan_add, FVal.mul_nan,
    FVal.nan_mul, FVal.div_nan, FVal.nan_div, FVal.sqrt, Fmt.round, hmin, hmax, and_self]

theorem zero_times_nonfinite (hx : (p.decode x).isZero = true) (hy : (p.decode y).isFin = false) :
    p.mulBits rm x y = p.nan ∧ p.mulBits rm y x = p.nan := by
  obtain ⟨n, e, hdx⟩ := FVal.eq_zero hx
  rcases FVal.not_fin hy with hdy | ⟨n', hdy⟩ <;> simp [Fmt.mulBits, hdx, hdy, FVal.mul, Fmt.round]

theorem zero_over_zero (hx : (p.decode x).isZero = true) (hy : (p.decode y).isZero = true) : p.divBits rm x y = p.nan := by
  obtain ⟨n, e, hdx⟩ := FVal.eq_zero hx
  obtain ⟨n', e', hdy⟩ := FVal.eq_zero hy
  simp [Fmt.divBits, hdx, hdy, FVal.div, Fmt.round]

theorem nonfinite_over_nonfinite (hx : (p.decode x).isFin = false) (hy : (p.decode y).isFin = false) : p.divBits rm x y = p.nan := by
  rcases FVal.not_fin hx with hdx | ⟨n, hdx⟩ <;> rcases FVal.not_fin hy with hdy | ⟨n', hdy⟩ <;> simp [Fmt.divBits, hdx, hdy, FVal.div, Fmt.round]

variable (hp : p.Computes)
include hp

theorem infinity_minus_infinity (n : Bool) : p.addBits rm (p.infOf n false) (p.infOf (!n) false) = p.nan ∧
    p.subBits rm (p.infOf n false) (p.infOf n false) = p.nan := by
  simp only [infOf_eq, Fmt.addBits, Fmt.subBits, decode_infinite hp, FVal.negate]
  cases n <;> exact ⟨rfl, rfl⟩

theorem nonzero_over_zero (hx : (p.decode x).isFin = true) (hx0 : (p.decode x).isZero = false) (hy : (p.decode y).isZero = true) :
    p.divBits rm x y = p.infOf ((p.decode x).neg? != (p.decode y).neg?) false := by
  obtain ⟨m, e, hdx, hm⟩ := decode_nonzero hp.sound hx hx0
  obtain ⟨n, e', hdy⟩ := FVal.eq_zero hy
  simp [Fmt.divBits, hdx, hdy, FVal.div, hm, Fmt.round, FVal.neg?]

theorem sqrt_negative (hx : (p.decode x).isFin = true) (hx0 : (p.decode x).isZero = false) (hneg : (p.decode x).neg? = true) :
    p.sqrtBits rm x = p.nan := by
  obtain ⟨m, e, hdx, hm⟩ := decode_nonzero hp.sound hx hx0
  rw [hdx, FVal.neg?] at hneg
  simp [Fmt.sqrtBits, hdx, hneg, FVal.sqrt, hm, Fmt.round]

theorem sqrt_special : p.sqrtBits rm p.signBit = p.signBit ∧ p.sqrtBits rm (p.infOf true false) = p.nan ∧
    p.sqrtBits rm (p.infOf false false) = p.infOf false false := by
  simp only [infOf_eq, Fmt.sqrtBits, decode_signBit hp, decode_infinite hp]
  exact ⟨round_zero p rm false true _, rfl, by rw [FVal.sqrt]; simp [round_inf]⟩

theorem infinity_plus (n : Bool) (hx : number p x = true ∨ x = infinite p n) :
    p.addBits rm (infinite p n) x = infinite p n ∧ p.addBits rm x (infinite p n) = infinite p n ∧
    p.subBits rm x (infinite p (!n)) = infinite p n ∧ p.subBits rm (infinite p n) (x ^^^ p.signBit) = infinite p n := by
  have hneg : ∀ v : FVal, v.negate.negate = v := fun v => by cases v <;> simp [FVal.negate]
  have hround : p.round rm false (.inf n) = infinite p n := by simp [round_inf]
  simp only [Fmt.addBits, Fmt.subBits, decode_flip, decode_infinite hp, hneg]
  rcases hx with hx | rfl
  · obtain ⟨m, e, hdx, -⟩ := decode_exact hp.sound hx
    simp [hdx, FVal.add, FVal.negate, hround]
  · simp [decode_infinite hp, FVal.add, FVal.negate, hround]

theorem infinity_times (n : Bool) (hnan : (p.decode x).isNan = false) (hzero : (p.decode x).isZero = false) :
    p.mulBits rm (infinite p n) x = infinite p (n != signOf p x) ∧ p.mulBits rm x (infinite p n) = infinite p (n != signOf p x) := by
  have hround : ∀ k, p.round rm false (.inf k) = infinite p k := fun k => by simp [round_inf]
  have hcomm : (signOf p x != n) = (n != signOf p x) := bne_comm
  simp only [Fmt.mulBits, decode_infinite hp]
  by_cases hx : number p x = true
  · obtain ⟨m, e, hdx, hm⟩ := decode_nonzero hp.sound (by obtain ⟨m, e, hd, -⟩ := decode_exact hp.sound hx; simp [hd, FVal.isFin]) hzero
    simp [hdx, FVal.mul, hm, hround, hcomm]
  · rcases decode_inf_or_nan hp.sound (by simpa using hx) with hd | hd
    · simp [hd, FVal.mul, hround, hcomm]
    · simp [hd, FVal.isNan] at hnan

theorem infinity_over (n : Bool) (hx : number p x = true) : p.divBits rm (infinite p n) x = infinite p (n != signOf p x) ∧
    p.divBits rm x (infinite p n) = if n != signOf p x then p.signBit else 0 := by
  obtain ⟨m, e, hdx, -⟩ := decode_exact hp.sound hx
  have hcomm : (signOf p x != n) = (n != signOf p x) := bne_comm
  simp only [Fmt.divBits, decode_infinite hp, hdx, FVal.div, round_zero, round_inf, hcomm, Bool.false_eq_true, if_false, and_self]

end

end Sys2Proof.Machine

/-! PROOFS. The approximate functions: special values (Table 6.10), exact results and error bounds (Table 6.9, R139). -/
namespace Sys2Proof.Machine
open Claims

/-! ### Special values -/

theorem approx32_rcp_special : approx32 0 0 = 0x7F800000 ∧ approx32 0 0x80000000 = 0xFF800000 ∧ approx32 0 0x7F800000 = 0 ∧
    approx32 0 0xFF800000 = 0x80000000 ∧ approx32 0 0x3F800000 = 0x3F800000 := by decide +kernel

theorem approx32_rsq_special : approx32 1 0 = 0x7F800000 ∧ approx32 1 0x80000000 = 0xFF800000 ∧ approx32 1 0x7F800000 = 0 ∧
    approx32 1 0xFF800000 = fp32.nan ∧ approx32 1 0x3F800000 = 0x3F800000 := by decide +kernel

theorem approx32_exp2_special : approx32 2 0 = 0x3F800000 ∧ approx32 2 0x80000000 = 0x3F800000 ∧ approx32 2 0x7F800000 = 0x7F800000 ∧
    approx32 2 0xFF800000 = 0 ∧ approx32 2 0x3F800000 = 0x40000000 := by decide +kernel

theorem approx32_log2_special : approx32 3 0 = 0xFF800000 ∧ approx32 3 0x80000000 = 0xFF800000 ∧ approx32 3 0x7F800000 = 0x7F800000 ∧
    approx32 3 0xFF800000 = fp32.nan ∧ approx32 3 0x3F800000 = 0 := by decide +kernel

theorem approx32_nan {x : Nat} (h : (fp32.decode x).isNan = true) (op : Nat) : approx32 op x = fp32.nan := by
  have hx := FVal.eq_nan h
  rcases op with _ | _ | _ | op <;> simp [approx32, hx]

theorem approx32_negative {x : Nat} (hfin : (fp32.decode x).isFin = true) (hz : (fp32.decode x).isZero = false) (hneg : (fp32.decode x).neg? = true) :
    approx32 1 x = fp32.nan ∧ approx32 3 x = fp32.nan := by
  obtain ⟨m, e, hdx, hm⟩ := decode_nonzero sound_fp32 hfin hz
  rw [hdx, FVal.neg?] at hneg
  simp [approx32, hdx, hneg, hm]

/-! ### Which branch gives the result -/

/-- A reference value that stands for all results past the ends of the range of 2^x. -/
def pastEnd (op m : Nat) (e : Int) : Bool := op == 2 && decide (e + Nat.log2 m ≥ 9)

/-- The reference value of an operand: its sign, magnitude and a part below. -/
def approxRef (op : Nat) (neg : Bool) (m : Nat) (e : Int) : FVal := if pastEnd op m e then .fin false 0 (-524) true else refVal op neg m e

/-- The result for an operand without an exact one: the implementation's where it keeps the bound, else the rounded reference. -/
def approxPick (op x : Nat) (ref : FVal) : Nat :=
  if (fp32.decode (fp32Of ref)).isFin && approxOk op ref (fp32.decode (Config.approx op 12 x)) then Config.approx op 12 x % 2 ^ 32 else fp32Of ref

section
variable {op x m : Nat} {neg : Bool} {e : Int} (hx : fp32.decode x = .fin neg m e false) (hm : m ≠ 0) (hsign : (neg && (op == 1 || op == 3)) = false)
include hx hm hsign

theorem approx32_of_exact {r : Nat} (h : approxExact op neg m e = some r) : approx32 op x = r := by
  rcases op with _ | _ | _ | op <;> simp_all [approx32]

theorem approx32_of_pastEnd (h : approxExact op neg m e = none) (hbig : pastEnd op m e = true) (hneg : neg = false) :
    approx32 op x = fp32.infOf false false := by
  rcases op with _ | _ | _ | op <;> simp_all [approx32, pastEnd]

theorem approx32_of_ref (h : approxExact op neg m e = none) (hin : (pastEnd op m e && !neg) = false) :
    approx32 op x = approxPick op x (approxRef op neg m e) := by
  rcases op with _ | _ | _ | op
  · simp_all [approx32, pastEnd, approxRef, approxPick]
  · simp_all [approx32, pastEnd, approxRef, approxPick]
  · by_cases hbig : 9 ≤ e + (Nat.log2 m : Int)
    · simp_all [approx32, pastEnd, approxRef, approxPick]
    · simp_all [approx32, pastEnd, approxRef, approxPick]
  · simp_all [approx32, pastEnd, approxRef, approxPick]

end

/-! ### The error of a rounded value -/

/-- Under RNE the chosen encoding lies within half a step. -/
theorem Fmt.Chosen.error {f : Fmt} {neg : Bool} {a : ℝ} {y z : Nat} (h : f.Chosen 0 neg a y) (hlow : f.val z ≤ a) (hhigh : a < f.val (z + 1)) :
    |f.val y - a| ≤ (f.val (z + 1) - f.val z) / 2 := by
  obtain ⟨x, hx, hx', hup⟩ := h
  obtain rfl : x = z := Fmt.val_bracket_unique hx hx' hlow hhigh
  simp only [Fmt.TakesNext, true_and, show ¬ ((0 : Rm) = 2) by decide, show ¬ ((0 : Rm) = 3) by decide, false_and, or_false] at hup
  rcases hup with ⟨hup, rfl⟩ | ⟨hup, rfl⟩
  · rw [abs_of_pos (by linarith)]
    rcases hup with h | ⟨h, -⟩ <;> linarith
  · push Not at hup
    rw [abs_of_nonpos (by linarith)]
    linarith [hup.1]

section
variable {M : Nat} {E : Int} {S : Bool} {a : ℝ} (ha : Stands M E S a) (hr : fp32.Readable M E S) (n : Bool)
include ha hr

/-- A reference below overflow, rounded: within half of the last place it keeps. -/
theorem fp32Of_near (hM : M ≠ 0 ∨ fp32.cut M E = fp32.lsb) (hfin : 2 * a < fp32.val fp32.maxFinite + fp32.val (fp32.maxFinite + 1)) :
    number fp32 (fp32Of (.fin n M E S)) = true ∧
    |((valueOf fp32 (fp32Of (.fin n M E S)) : ℚ) : ℝ) - (if n then -a else a)| ≤ 2 ^ fp32.cut M E / 2 := by
  obtain ⟨⟨hlow, hhigh⟩, -⟩ := Fmt.below_spec sound_fp32 ha hr 0 n
  obtain ⟨y, hy, heq⟩ := Fmt.round_chosen sound_fp32 ha hr 0 false n
  obtain ⟨hz, hz', -⟩ := Fmt.val_below sound_fp32 hM
  have hmax : y ≤ fp32.maxFinite := not_lt.mp fun h => by
    rcases (hy.overflow_iff fp32.maxFinite).mp h with h | ⟨h, -⟩ <;> linarith
  have herr := hy.error hlow hhigh
  obtain ⟨hnum, -, hval⟩ := signed_encoding sound_fp32 hmax n
  rw [fp32Of, heq, (deliver_finite sound_fp32 hmax 0 false n).2]
  refine ⟨hnum, ?_⟩
  have hdist : (if n then (-1 : ℝ) else 1) * fp32.val y - (if n then -a else a) = (if n then -1 else 1) * (fp32.val y - a) := by
    split <;> ring
  have hone : |(if n then (-1 : ℝ) else 1)| = 1 := by cases n <;> simp
  rw [hval, hdist, abs_mul, hone, one_mul]
  calc |fp32.val y - a| ≤ _ := herr
    _ = 2 ^ fp32.cut M E / 2 := by rw [hz, hz']; ring

/-- A reference past the middle above the largest finite value rounds to an infinity. -/
theorem fp32Of_overflow (hbig : fp32.val fp32.maxFinite + fp32.val (fp32.maxFinite + 1) < 2 * a) : fp32Of (.fin n M E S) = infinite fp32 n := by
  obtain ⟨y, hy, heq⟩ := Fmt.round_chosen sound_fp32 ha hr 0 false n
  rw [fp32Of, heq, deliver_overflow ((hy.overflow_iff fp32.maxFinite).mpr (.inl hbig)), if_pos (.inl rfl)]

end

theorem val_edge_fp32 : fp32.val fp32.maxFinite + fp32.val (fp32.maxFinite + 1) = 2 * (2 ^ 128 - 2 ^ 103) := by
  rw [(val_maxFinite_plain sound_fp32 rfl).1, (val_maxFinite_plain sound_fp32 rfl).2.1]
  norm_num [fp32]

theorem greatestFinite_fp32 : ((greatestFinite fp32 : ℚ) : ℝ) = 2 ^ 128 - 2 ^ 104 := by norm_num [greatestFinite, fp32]

/-! ### Units in the last place (Table 6.9) -/

/-- One unit in the last place of fp32 at an exact value (log 9). -/
noncomputable def ulp32 (y : ℝ) : ℝ := 2 ^ max (Int.log 2 |y| - 23) (-149)

/-- The exponent of that unit for a magnitude m × 2^e. -/
def ulpExp (m : Nat) (e : Int) : Int := if m = 0 then -149 else max (e + Nat.log2 m - 23) (-149)

theorem cut_eq_ulpExp {m : Nat} (hm : m ≠ 0) (e : Int) : fp32.cut m e = ulpExp m e := by
  have hfb : (fp32.fb : Int) = 23 := rfl
  have hlsb : fp32.lsb = -149 := by decide
  rw [Fmt.cut, ulpExp, if_neg hm, if_neg hm, hfb, hlsb]
  congr 1
  push_cast
  ring

theorem ulp_le {m : Nat} {e : Int} {y : ℝ} (h : (m : ℝ) * 2 ^ e ≤ |y|) : (2 : ℝ) ^ ulpExp m e ≤ ulp32 y := by
  refine zpow_le_zpow_right₀ (by norm_num) ?_
  unfold ulpExp
  split
  · exact le_max_right _ _
  · next hm =>
    have hlow : (2 : ℝ) ^ (e + Nat.log2 m) ≤ |y| := by
      refine le_trans ?_ h
      rw [zpow_add₀ two_ne_zero, zpow_natCast, mul_comm]
      have : ((2 ^ Nat.log2 m : Nat) : ℝ) ≤ m := by exact_mod_cast Nat.log2_self_le hm
      push_cast at this
      exact mul_le_mul_of_nonneg_right this (two_zpow_pos e).le
    have hy : 0 < |y| := (two_zpow_pos _).trans_le hlow
    have hlog : e + Nat.log2 m ≤ Int.log 2 |y| := (Int.zpow_le_iff_le_log (by norm_num) hy).mp (by exact_mod_cast hlow)
    omega

/-- The error bound of Table 6.9 for the unit t. -/
noncomputable def boundAt (op : Nat) (t : ℝ) : ℝ := if op = 0 then t else if op = 3 then max (2 * t) (2 ^ (-24 : Int)) else 2 * t

theorem boundAt_mono (op : Nat) {t t' : ℝ} (h : t ≤ t') : boundAt op t ≤ boundAt op t' := by
  unfold boundAt
  split
  · exact h
  · split
    · exact max_le_max_right _ (by linarith)
    · linarith

theorem approxBound_eq (op : Nat) (n S : Bool) (M : Nat) (E : Int) :
    (approxBound op (.fin n M E S) approxLo : ℝ) * 2 ^ approxLo = boundAt op (2 ^ ulpExp M E) := by
  have hunit : ∀ k : Int, approxLo ≤ k → (2 : ℝ) ^ (k - approxLo).toNat * 2 ^ approxLo = 2 ^ k := fun k hk => by
    rw [← zpow_natCast, ← zpow_add₀ two_ne_zero]
    congr 1
    omega
  have hexp : approxLo ≤ ulpExp M E := by
    unfold ulpExp approxLo
    split
    · norm_num
    · exact le_trans (by norm_num) (le_max_right _ _)
  have hulp : (ulpAt (.fin n M E S) approxLo : ℝ) * 2 ^ approxLo = 2 ^ ulpExp M E := by
    rw [← hunit _ hexp]
    simp only [ulpAt, ulpExp]
    push_cast
    rfl
  have hpos := two_zpow_pos approxLo
  rcases op with _ | _ | _ | _ | op
  · simpa [approxBound, boundAt] using hulp
  · simp [approxBound, boundAt, ← hulp, mul_assoc]
  · simp [approxBound, boundAt, ← hulp, mul_assoc]
  · have h24 := hunit (-24) (by decide)
    simp only [approxBound, boundAt, if_true, ← hulp, ← h24]
    push_cast
    rw [max_mul_of_nonneg _ _ hpos.le]
    simp [mul_assoc]
  · simp [approxBound, boundAt, ← hulp, mul_assoc]

/-! ### Values within the bound -/

/-- The lower end of the values a reference stands for. -/
noncomputable def refLow (op : Nat) (n : Bool) (M : Nat) (E : Int) (S : Bool) : ℝ :=
  (if n then -(M : ℝ) else M) * 2 ^ E - if n && op == 0 then (refSlack op S : ℝ) * 2 ^ E else 0

/-- The magnitude at which the bound is taken: the reference's end nearer zero. -/
def boundMag (op : Nat) (n : Bool) (M : Nat) (S : Bool) : Nat := if n && op == 3 then M - (refSlack op S).toNat else M

theorem scaled_cast (n : Bool) (m : Nat) {e : Int} (h : approxLo ≤ e) :
    ((scaled n m e approxLo : ℝ)) * 2 ^ approxLo = (if n then -(m : ℝ) else m) * 2 ^ e := by
  have hq := scaled_eq n m h
  have hr : (((scaled n m e approxLo : ℚ) * 2 ^ approxLo : ℚ) : ℝ) = ((exact (.fin n m e false) : ℚ) : ℝ) := by rw [hq]
  rw [exact] at hr
  push_cast at hr
  rw [hr]
  cases n <;> simp

/-- A value that passes the model's test lies within the bound of every value the reference stands for. -/
theorem approxOk_within {op : Nat} {n S : Bool} {M : Nat} {E : Int} (hE : approxLo ≤ E) {c : Nat} (h : approxOk op (.fin n M E S) (fp32.decode c) = true)
    {y : ℝ} (hlow : refLow op n M E S ≤ y) (hhigh : y ≤ refLow op n M E S + refSlack op S * 2 ^ E) :
    number fp32 c = true ∧ |((valueOf fp32 c : ℚ) : ℝ) - y| ≤ boundAt op (2 ^ ulpExp (boundMag op n M S) E) := by
  have hc : number fp32 c = true := by
    by_contra hc
    rcases decode_inf_or_nan sound_fp32 (by simpa using hc) with hd | hd <;> simp [hd, approxOk] at h
  obtain ⟨m, e, hdec, hval, -, hlo, -⟩ := decode_number sound_fp32 hc
  have hpos := two_zpow_pos approxLo
  have hlsb : fp32.lsb = -149 := by decide
  have he : approxLo ≤ e := by have : approxLo = -1024 := rfl; omega
  have hx : ((scaled (signOf fp32 c) m e approxLo : ℝ)) * 2 ^ approxLo = ((valueOf fp32 c : ℚ) : ℝ) := by
    rw [scaled_cast _ _ he, valueOf_eq sound_fp32, ← hval]
    cases signOf fp32 c <;> simp
  have hw : ((refSlack op S : ℝ) * 2 ^ (E - approxLo).toNat) * 2 ^ approxLo = refSlack op S * 2 ^ E := by
    rw [mul_assoc, ← zpow_natCast, ← zpow_add₀ two_ne_zero]
    congr 2
    omega
  have hleast : (((if n && op == 0 then scaled n M E approxLo - refSlack op S * 2 ^ (E - approxLo).toNat else scaled n M E approxLo) : Int) : ℝ) * 2 ^ approxLo =
      refLow op n M E S := by
    rw [refLow, ← scaled_cast n M hE]
    split
    · push_cast; rw [sub_mul, hw]
    · simp
  have hb : (approxBound op (if n && op == 3 then .fin n (M - (refSlack op S).toNat) E S else .fin n M E S) approxLo : ℝ) * 2 ^ approxLo =
      boundAt op (2 ^ ulpExp (boundMag op n M S) E) := by
    rw [boundMag]
    split <;> exact approxBound_eq op n S _ E
  rw [hdec] at h
  obtain ⟨h₁, h₂⟩ := (Bool.and_eq_true _ _).mp h
  replace h₁ := of_decide_eq_true h₁
  replace h₂ := of_decide_eq_true h₂
  generalize (if n && op == 0 then scaled n M E approxLo - refSlack op S * 2 ^ (E - approxLo).toNat else scaled n M E approxLo) = least at *
  generalize approxBound op (if n && op == 3 then .fin n (M - (refSlack op S).toNat) E S else .fin n M E S) approxLo = b at *
  have habove : ((valueOf fp32 c : ℚ) : ℝ) ≤ refLow op n M E S + boundAt op (2 ^ ulpExp (boundMag op n M S) E) := by
    rw [← hx, ← hleast, ← hb, ← add_mul]
    exact mul_le_mul_of_nonneg_right (by exact_mod_cast h₁) hpos.le
  have hbelow : refLow op n M E S + refSlack op S * 2 ^ E - boundAt op (2 ^ ulpExp (boundMag op n M S) E) ≤ ((valueOf fp32 c : ℚ) : ℝ) := by
    rw [← hx, ← hleast, ← hb, ← hw, ← add_mul, ← sub_mul]
    exact mul_le_mul_of_nonneg_right (by exact_mod_cast h₂) hpos.le
  exact ⟨hc, abs_le.mpr ⟨by linarith, by linarith⟩⟩

/-- The low 32 bits of an encoding stand for the same. -/
theorem low_word (c : Nat) : number fp32 (c % 2 ^ 32) = number fp32 c ∧ valueOf fp32 (c % 2 ^ 32) = valueOf fp32 c := by
  have hmag : c % 2 ^ 32 % 2 ^ (fp32.eb + fp32.fb) = c % 2 ^ (fp32.eb + fp32.fb) := Nat.mod_mod_of_dvd c (Nat.pow_dvd_pow 2 (by decide))
  have hsign : signOf fp32 (c % 2 ^ 32) = signOf fp32 c := by
    have : c % 2 ^ 32 / 2 ^ 31 % 2 = c / 2 ^ 31 % 2 := by omega
    simp only [signOf, show fp32.eb + fp32.fb = 31 from rfl, this]
  refine ⟨Bool.eq_iff_iff.mpr (by rw [number_iff sound_fp32, number_iff sound_fp32, hmag]), ?_⟩
  have : ((valueOf fp32 (c % 2 ^ 32) : ℚ) : ℝ) = ((valueOf fp32 c : ℚ) : ℝ) := by
    rw [valueOf_eq sound_fp32, valueOf_eq sound_fp32, hmag, hsign]
  exact_mod_cast this

/-- An approximate result lies within the bound of y: y is one of the values the reference stands for, and the rounded reference is as near. -/
theorem approxPick_within {op x : Nat} {n S : Bool} {M : Nat} {E : Int} {y : ℝ} (hE : approxLo ≤ E) (hlow : refLow op n M E S ≤ y)
    (hhigh : y ≤ refLow op n M E S + refSlack op S * 2 ^ E) (hmag : (boundMag op n M S : ℝ) * 2 ^ E ≤ |y|)
    (hnear : number fp32 (fp32Of (.fin n M E S)) = true ∧ |((valueOf fp32 (fp32Of (.fin n M E S)) : ℚ) : ℝ) - y| ≤ boundAt op (ulp32 y)) :
    number fp32 (approxPick op x (.fin n M E S)) = true ∧
    |((valueOf fp32 (approxPick op x (.fin n M E S)) : ℚ) : ℝ) - y| ≤ boundAt op (ulp32 y) := by
  rw [approxPick]
  split
  · next h =>
    obtain ⟨hc, hwithin⟩ := approxOk_within hE ((Bool.and_eq_true _ _).mp h).2 hlow hhigh
    rw [(low_word _).1, (low_word _).2]
    exact ⟨hc, hwithin.trans (boundAt_mono op (ulp_le hmag))⟩
  · exact hnear

/-- Where the rounded reference overflows it is the result. -/
theorem approxPick_overflow {op x : Nat} {ref : FVal} {n : Bool} (h : fp32Of ref = infinite fp32 n) : approxPick op x ref = infinite fp32 n := by
  have hdec : fp32.decode (infinite fp32 n) = .inf n := decode_infinite (.inr (.inl rfl)) n
  rw [approxPick, h, hdec]
  simp [FVal.isFin]

/-! ### The reciprocal -/

/-- What the operand's decoding says of its magnitude. -/
theorem decode_fp32 {x : Nat} (hx : number fp32 x = true) (hx0 : valueOf fp32 x ≠ 0) :
    ∃ m e, fp32.decode x = .fin (signOf fp32 x) m e false ∧ m ≠ 0 ∧ m < 2 ^ 24 ∧ -149 ≤ e ∧ e ≤ 107 ∧
      ((valueOf fp32 x : ℚ) : ℝ) = (if signOf fp32 x then -1 else 1) * (m * 2 ^ e) := by
  obtain ⟨m, e, hdec, hval, hm, hlo, hhi⟩ := decode_number sound_fp32 hx
  exact ⟨m, e, hdec, (decode_significand_eq_zero sound_fp32 hval).not.mpr hx0, hm, hlo, hhi, by rw [valueOf_eq sound_fp32, hval]⟩

/-- A power of two is found, with its exponent. -/
theorem powTwo_eq {m : Nat} (hm : m ≠ 0) (e k : Int) : powTwo m e = some k ↔ (m : ℝ) * 2 ^ e = 2 ^ k := by
  have hlog : ∀ j : Nat, m = 2 ^ j → Nat.log2 m = j := fun j h => h ▸ Nat.log2_two_pow
  constructor
  · intro h
    unfold powTwo at h
    split at h
    · next hpow =>
      obtain rfl : e + Nat.log2 m = k := by simpa using h
      rw [zpow_add₀ two_ne_zero, zpow_natCast, mul_comm]
      congr 1
      exact_mod_cast hpow.2
    · simp at h
  · intro h
    have hmk : (m : ℝ) = 2 ^ (k - e) := by rw [zpow_sub₀ two_ne_zero, eq_div_iff (two_zpow_pos e).ne', h]
    have hke : 0 ≤ k - e := by
      by_contra hneg
      have hlt : (m : ℝ) < 1 := hmk ▸ zpow_lt_one_of_neg₀ (by norm_num) (not_le.mp hneg)
      exact hm (by exact_mod_cast Nat.lt_one_iff.mp (by exact_mod_cast hlt))
    obtain ⟨j, hj⟩ := Int.eq_ofNat_of_zero_le hke
    have hpow : m = 2 ^ j := by rw [hj, zpow_natCast] at hmk; exact_mod_cast hmk
    rw [powTwo, if_pos ⟨hm, by rw [hlog j hpow]; exact hpow⟩, hlog j hpow, Option.some.injEq]
    omega

/-- A signed power of two in range is held exactly. -/
theorem fp32Of_two_zpow {k : Int} (hlo : -149 ≤ k) (hhi : k ≤ 127) (n : Bool) :
    number fp32 (fp32Of (.fin n 1 k false)) = true ∧ valueOf fp32 (fp32Of (.fin n 1 k false)) = (if n then -1 else 1) * 2 ^ k := by
  have hlt : ((1 : Nat) : ℝ) * 2 ^ k < fp32.val (fp32.maxFinite + 1) := by
    rw [val_overflow_fp32, Nat.cast_one, one_mul, ← zpow_natCast]
    exact zpow_lt_zpow_right₀ (by norm_num) (by push_cast; omega)
  have hlsb : fp32.lsb = -149 := by decide
  obtain ⟨hnum, -, hval⟩ := round_exact sound_fp32 (by decide) (hlsb.trans_le hlo) hlt 0 false n
  exact ⟨hnum, hval.trans (by simp [exact])⟩

end Sys2Proof.Machine

namespace Sys2Proof.Machine
open Claims

theorem stands_within {M : Nat} {E : Int} {S : Bool} {a : ℝ} (h : Stands M E S a) : (M : ℝ) * 2 ^ E ≤ a ∧ a ≤ (M + if S then 1 else 0) * 2 ^ E := by
  cases S with
  | false =>
    obtain rfl : a = M * 2 ^ E := h
    simp
  | true =>
    obtain ⟨h, h'⟩ : (M : ℝ) * 2 ^ E < a ∧ a < (M + 1) * 2 ^ E := h
    simpa using ⟨h.le, h'.le⟩

theorem ulp32_pos (y : ℝ) : 0 < ulp32 y := two_zpow_pos _

/-- What Table 6.9 asks of a result r for the exact value y. -/
def Near (op r : Nat) (y : ℝ) : Prop :=
  (|y| ≤ ((greatestFinite fp32 : ℚ) : ℝ) → number fp32 r = true ∧ |((valueOf fp32 r : ℚ) : ℝ) - y| ≤ boundAt op (ulp32 y)) ∧
  (2 ^ 128 ≤ |y| → r = infinite fp32 (decide (y < 0)))

theorem boundAt_nonneg (op : Nat) (y : ℝ) : 0 ≤ boundAt op (ulp32 y) := by
  have := ulp32_pos y
  unfold boundAt
  split
  · exact this.le
  · split
    · exact le_max_of_le_left (by linarith)
    · linarith

theorem signed_pos (n : Bool) {t : ℝ} (ht : 0 < t) : |(if n then -1 else 1) * t| = t ∧ decide ((if n then -1 else 1) * t < 0) = n := by
  cases n <;> simp [abs_of_pos, ht, ht.le]

/-- A signed power of two, rounded, is near itself. -/
theorem near_two_zpow (op : Nat) {k : Int} (hk : -149 ≤ k) (n : Bool) : Near op (fp32Of (.fin n 1 k false)) ((if n then -1 else 1) * 2 ^ k) := by
  obtain ⟨habs, hneg⟩ := signed_pos n (two_zpow_pos k)
  refine ⟨fun hy => ?_, fun hy => ?_⟩
  · rw [habs, greatestFinite_fp32] at hy
    have hlt : (2 : ℝ) ^ k < 2 ^ (128 : Int) := hy.trans_lt (by norm_num)
    have hk' : k < 128 := (zpow_lt_zpow_iff_right₀ (by norm_num)).mp hlt
    obtain ⟨hnum, hval⟩ := fp32Of_two_zpow hk (by omega) n
    refine ⟨hnum, ?_⟩
    have hexact : ((valueOf fp32 (fp32Of (.fin n 1 k false)) : ℚ) : ℝ) = (if n then -1 else 1) * 2 ^ k := by
      rw [hval]; push_cast; cases n <;> simp
    rw [hexact, sub_self, abs_zero]
    exact boundAt_nonneg op _
  · rw [habs] at hy
    rw [hneg]
    refine fp32Of_overflow (a := 2 ^ k) (by simp [Stands]) (readable_exact _ _ _) n ?_
    rw [val_edge_fp32]
    linarith [show (0 : ℝ) < 2 ^ 103 by positivity]

/-- The reciprocal's exact results are powers of two. -/
theorem approxExact_rcp {n : Bool} {m r : Nat} (hm : m ≠ 0) {e : Int} (h : approxExact 0 n m e = some r) :
    ∃ k : Int, (m : ℝ) * 2 ^ e = 2 ^ (-k) ∧ -126 ≤ k ∧ r = fp32Of (.fin n 1 k false) := by
  rw [approxExact] at h
  cases hk : powTwo m e with
  | none => simp [hk] at h
  | some k =>
    simp only [hk, Option.ite_none_right_eq_some, Option.some.injEq] at h
    exact ⟨-k, by rw [neg_neg]; exact (powTwo_eq hm e k).mp hk, h.1, h.2.symm⟩

/-- The reference of 1/x: its magnitude stands for the exact one, with bits to spare. -/
theorem approxRef_rcp (n : Bool) {m : Nat} (hm : m ≠ 0) (hm24 : m < 2 ^ 24) {e : Int} (he : e ≤ 107) :
    ∃ M E S, approxRef 0 n m e = .fin n M E S ∧ Stands M E S (1 / (m * 2 ^ e)) ∧ 2 ^ 80 ≤ M ∧ approxLo ≤ E := by
  obtain ⟨M, E, S, hdiv, hstands, hlong⟩ := div_stands 80 (ma := 1) (ea := 0) (eb := e) hm false n false false
  obtain ⟨hE, hM⟩ : E = 0 - e - (80 + Nat.log2 m + 1 : Nat) ∧ 2 ^ 80 ≤ M := hlong.resolve_left (by simp)
  rw [Nat.cast_one, zpow_zero, one_mul] at hstands
  refine ⟨M, E, S, ?_, hstands, hM, ?_⟩
  · rw [approxRef, if_neg (by simp [pastEnd]), refVal]
    simpa using hdiv
  · have hlog : Nat.log2 m < 24 := (Nat.log2_lt hm).mpr hm24
    have : approxLo = -1024 := rfl
    omega

/-- A result picked by a reference that stands for the exact magnitude t lies within one unit of ±t. -/
theorem near_of_stands (x : Nat) {n : Bool} {M : Nat} {E : Int} {S : Bool} {t : ℝ} (ht : 0 < t) (hstands : Stands M E S t) (hM : 2 ^ 80 ≤ M)
    (hE : approxLo ≤ E) : Near 0 (approxPick 0 x (.fin n M E S)) ((if n then -1 else 1) * t) := by
  have hM0 : M ≠ 0 := by have := Nat.two_pow_pos 80; omega
  have hr : fp32.Readable M E S := readable_long fp32 ((by decide : 2 ^ (fp32.fb + 1) ≤ 2 ^ 80).trans hM) E S
  have hroom : (0 : ℝ) < 2 ^ 103 := by positivity
  obtain ⟨habs, hneg⟩ := signed_pos n ht
  obtain ⟨hlow, hhigh⟩ := stands_within hstands
  have hS : (refSlack 0 S : ℝ) = if S then 1 else 0 := by cases S <;> simp [refSlack]
  have hboundMag : boundMag 0 n M S = M := by simp [boundMag]
  have hmag : (boundMag 0 n M S : ℝ) * 2 ^ E ≤ |(if n then -1 else 1) * t| := by rwa [habs, hboundMag]
  refine ⟨fun hfin => ?_, fun hbig => ?_⟩
  · rw [habs, greatestFinite_fp32] at hfin
    refine approxPick_within hE ?_ ?_ hmag ?_
    · rw [refLow, hS]
      cases n <;> cases S <;> simp at hhigh ⊢ <;> linarith
    · rw [refLow, hS]
      cases n <;> cases S <;> simp at hhigh ⊢ <;> linarith
    · obtain ⟨hnum, herr⟩ := fp32Of_near hstands hr n (.inl hM0) (by rw [val_edge_fp32]; linarith)
      have hulp := ulp_le hmag
      rw [hboundMag, ← cut_eq_ulpExp hM0] at hulp
      have hterm : (if n then -t else t) = (if n then -1 else 1) * t := by cases n <;> simp
      rw [hterm] at herr
      exact ⟨hnum, herr.trans (by simp only [boundAt, if_true]; linarith [ulp32_pos ((if n then -1 else 1) * t)])⟩
  · rw [habs] at hbig
    rw [hneg]
    refine approxPick_overflow (fp32Of_overflow hstands hr n ?_)
    rw [val_edge_fp32]
    linarith

/-- `vfrcp`: within one unit in the last place of 1/x (Table 6.9). -/
theorem near_rcp {x : Nat} (hx : number fp32 x = true) (hx0 : valueOf fp32 x ≠ 0) : Near 0 (approx32 0 x) (1 / ((valueOf fp32 x : ℚ) : ℝ)) := by
  obtain ⟨m, e, hdec, hm, hm24, -, hhi, hv⟩ := decode_fp32 hx hx0
  generalize signOf fp32 x = n at *
  have hpos : (0 : ℝ) < 1 / (m * 2 ^ e) := one_div_pos.mpr (mul_pos (by exact_mod_cast Nat.pos_of_ne_zero hm) (two_zpow_pos e))
  have hy : 1 / ((valueOf fp32 x : ℚ) : ℝ) = (if n then -1 else 1) * (1 / (m * 2 ^ e)) := by
    rw [hv]
    cases n <;> simp
  rw [hy]
  cases hex : approxExact 0 n m e with
  | some r =>
    obtain ⟨k, hk, hlow, rfl⟩ := approxExact_rcp hm hex
    rw [approx32_of_exact hdec hm (by simp) hex, hk, zpow_neg, one_div, inv_inv]
    exact near_two_zpow 0 (by omega) n
  | none =>
    obtain ⟨M, E, S, href, hstands, hM, hE⟩ := approxRef_rcp n hm hm24 hhi
    rw [approx32_of_ref hdec hm (by simp) hex (by simp [pastEnd]), href]
    exact near_of_stands x hpos hstands hM hE

end Sys2Proof.Machine

namespace Sys2Proof.Machine
open Claims

/-! ### Results from a reference that lies a little below -/

/-- A result picked by a reference that lies at most its slack below y, and is long enough for the slack to stay below one unit. -/
theorem near_of_below {op j M : Nat} {E : Int} {y : ℝ} (x : Nat) (hop : op = 1 ∨ op = 2) (hslack : (refSlack op true : ℝ) = 2 ^ j) (hj : 1 ≤ j)
    (hM : 2 ^ (23 + j) ≤ M) (hE : approxLo ≤ E) (hlow : (M : ℝ) * 2 ^ E ≤ y) (hhigh : y ≤ (M + 2 ^ j) * 2 ^ E)
    (hover : 2 ^ 128 ≤ y → 2 ^ 128 - 2 ^ 103 ≤ (M : ℝ) * 2 ^ E) : Near op (approxPick op x (.fin false M E true)) y := by
  have hu := two_zpow_pos E
  have hM0 : M ≠ 0 := by have := Nat.two_pow_pos (23 + j); omega
  have hMpos : (0 : ℝ) < M := by exact_mod_cast Nat.pos_of_ne_zero hM0
  have hypos : 0 < y := (mul_pos hMpos hu).trans_le hlow
  have habs : |y| = y := abs_of_pos hypos
  have hM24 : 2 ^ (fp32.fb + 1) ≤ M := (Nat.pow_le_pow_right (by norm_num) (by have : fp32.fb = 23 := rfl; omega)).trans hM
  have hr : fp32.Readable M E true := readable_long fp32 hM24 E true
  -- the reference is rounded as the middle of the unit it stands for
  have hmid : Stands M E true ((M + 1 / 2) * 2 ^ E) := by
    show _ ∧ _
    exact ⟨mul_lt_mul_of_pos_right (by linarith) hu, mul_lt_mul_of_pos_right (by linarith) hu⟩
  have hrest : (2 : ℝ) ^ j * 2 ^ E ≤ 2 ^ ulpExp M E := by
    rw [← zpow_natCast, ← zpow_add₀ two_ne_zero]
    refine zpow_le_zpow_right₀ (by norm_num) ?_
    have hlog : 23 + j ≤ Nat.log2 M := (Nat.le_log2 hM0).mpr hM
    rw [ulpExp, if_neg hM0]
    exact le_max_of_le_left (by omega)
  have hhalf : (2 : ℝ) ^ E * 2 ≤ 2 ^ j * 2 ^ E := by
    rw [mul_comm]
    exact mul_le_mul_of_nonneg_right (le_self_pow₀ (by norm_num) (by omega)) hu.le
  have hexpand : ((M : ℝ) + 1 / 2) * 2 ^ E = M * 2 ^ E + 2 ^ E / 2 ∧ ((M : ℝ) + 2 ^ j) * 2 ^ E = M * 2 ^ E + 2 ^ j * 2 ^ E := ⟨by ring, by ring⟩
  have hbound : ∀ t, boundAt op t = 2 * t := fun t => by rcases hop with rfl | rfl <;> simp [boundAt]
  have hrefLow : refLow op false M E true = M * 2 ^ E := by simp [refLow]
  have hboundMag : boundMag op false M true = M := by simp [boundMag]
  refine ⟨fun hfin => ?_, fun hbig => ?_⟩
  · rw [habs, greatestFinite_fp32] at hfin
    have hsmall : (2 : ℝ) ^ E * 2 ^ 24 ≤ M * 2 ^ E := by
      rw [mul_comm]
      exact mul_le_mul_of_nonneg_right (by exact_mod_cast hM24) hu.le
    obtain ⟨hnum, herr⟩ := fp32Of_near hmid hr false (.inl hM0) (by rw [val_edge_fp32, hexpand.1]; linarith)
    rw [cut_eq_ulpExp hM0, hexpand.1] at herr
    have hmag : (boundMag op false M true : ℝ) * 2 ^ E ≤ |y| := by rw [hboundMag, habs]; exact hlow
    have hulp := ulp_le hmag
    rw [hboundMag] at hulp
    refine approxPick_within hE (hrefLow ▸ hlow) (by rw [hrefLow, hslack, ← hexpand.2]; exact hhigh) hmag ⟨hnum, ?_⟩
    rw [hbound]
    obtain ⟨h₁, h₂⟩ := abs_le.mp herr
    simp only [Bool.false_eq_true, if_false] at h₁ h₂
    exact abs_le.mpr ⟨by linarith, by linarith⟩
  · rw [habs] at hbig
    have hsign : decide (y < 0) = false := by simp [hypos.le]
    rw [hsign]
    refine approxPick_overflow (fp32Of_overflow hmid hr false ?_)
    rw [val_edge_fp32, hexpand.1]
    linarith [hover hbig]

/-- The range of an operand's magnitude. -/
theorem magnitude_bounds {m : Nat} {e : Int} (hm : m ≠ 0) (hm24 : m < 2 ^ 24) (hlo : -149 ≤ e) (hhi : e ≤ 107) :
    (2 : ℝ) ^ (-149 : Int) ≤ m * 2 ^ e ∧ (m : ℝ) * 2 ^ e < 2 ^ (131 : Int) := by
  have hone : (1 : ℝ) ≤ m := by exact_mod_cast Nat.one_le_iff_ne_zero.mpr hm
  have hlt : (m : ℝ) < 2 ^ (24 : Int) := by exact_mod_cast hm24
  have hu := two_zpow_pos e
  constructor
  · calc (2 : ℝ) ^ (-149 : Int) ≤ 2 ^ e := zpow_le_zpow_right₀ (by norm_num) hlo
      _ ≤ m * 2 ^ e := le_mul_of_one_le_left hu.le hone
  · calc (m : ℝ) * 2 ^ e < 2 ^ (24 : Int) * 2 ^ e := mul_lt_mul_of_pos_right hlt hu
      _ = 2 ^ (24 + e) := (zpow_add₀ two_ne_zero _ _).symm
      _ ≤ 2 ^ (131 : Int) := zpow_le_zpow_right₀ (by norm_num) (by omega)

/-! ### The reciprocal square root -/

/-- The root's exact results are powers of two. -/
theorem approxExact_rsq {n : Bool} {m r : Nat} (hm : m ≠ 0) {e : Int} (h : approxExact 1 n m e = some r) :
    ∃ k : Int, (m : ℝ) * 2 ^ e = 2 ^ (2 * k) ∧ r = fp32Of (.fin false 1 (-k) false) := by
  rw [approxExact] at h
  cases hk : powTwo m e with
  | none => simp [hk] at h
  | some k =>
    simp only [hk, Option.ite_none_right_eq_some, Option.some.injEq] at h
    refine ⟨k / 2, ?_, ?_⟩
    · rw [show 2 * (k / 2) = k by omega]
      exact (powTwo_eq hm e k).mp hk
    · rw [show -(k / 2) = -k / 2 by omega]
      exact h.2.symm

/-- A whole root of a whole quotient is the whole part of the root. -/
theorem sqrt_div_bounds {K D : Nat} (hD : D ≠ 0) :
    ((Nat.sqrt (2 ^ K / D) : ℝ)) ≤ Real.sqrt (2 ^ K / (D : ℝ)) ∧ Real.sqrt (2 ^ K / (D : ℝ)) ≤ (Nat.sqrt (2 ^ K / D) : ℝ) + 1 := by
  have hDpos : (0 : ℝ) < D := by exact_mod_cast Nat.pos_of_ne_zero hD
  constructor
  · refine Real.le_sqrt_of_sq_le ?_
    rw [le_div_iff₀ hDpos]
    have h : Nat.sqrt (2 ^ K / D) * Nat.sqrt (2 ^ K / D) * D ≤ 2 ^ K := (Nat.mul_le_mul_right D (Nat.sqrt_le _)).trans (Nat.div_mul_le_self _ _)
    rw [sq]
    exact_mod_cast h
  · rw [Real.sqrt_le_left (by positivity), div_le_iff₀ hDpos]
    have h : 2 ^ K ≤ (Nat.sqrt (2 ^ K / D) + 1) * (Nat.sqrt (2 ^ K / D) + 1) * D :=
      (Nat.lt_mul_of_div_lt (Nat.lt_succ_sqrt (2 ^ K / D)) (Nat.pos_of_ne_zero hD) |>.le)
    rw [sq]
    exact_mod_cast h

/-- The reference of 1/√x: from the magnitude written with an even exponent. -/
theorem refVal_rsq {m : Nat} (hm : m ≠ 0) (e : Int) : ∃ (D K : Nat) (E : Int), D ≠ 0 ∧ (m : ℝ) * 2 ^ e = D * 2 ^ (-(K : Int) - 2 * E) ∧ D ≤ 2 * m ∧
    K = 200 + 2 * (Nat.log2 m + 1) ∧ (-(K : Int) - e) / 2 ≤ E ∧ refVal 1 false m e = .fin false (Nat.sqrt (2 ^ K / D)) E true := by
  by_cases he : e % 2 = 0
  · refine ⟨m, 200 + 2 * (Nat.log2 m + 1), (-(200 + 2 * (Nat.log2 m + 1) : Nat) - e) / 2, hm, ?_, by omega, rfl, by omega, ?_⟩
    · congr 2; push_cast; omega
    · simp [refVal, isqrt_eq_sqrt, he]
  · refine ⟨2 * m, 200 + 2 * (Nat.log2 m + 1), (-(200 + 2 * (Nat.log2 m + 1) : Nat) - (e - 1)) / 2, by omega, ?_, by omega, rfl, by omega, ?_⟩
    · have hexp : -((200 + 2 * (Nat.log2 m + 1) : Nat) : Int) - 2 * ((-(200 + 2 * (Nat.log2 m + 1) : Nat) - (e - 1)) / 2) = e - 1 := by omega
      rw [hexp, zpow_sub_one₀ two_ne_zero]
      push_cast
      field_simp
    · simp [refVal, isqrt_eq_sqrt, he, Nat.div_div_eq_div_mul, Nat.mul_comm]

section
variable {x : Nat} (hx : number fp32 x = true) (hpos : 0 < ((valueOf fp32 x : ℚ) : ℝ))
include hx hpos

/-- A positive operand's decoding. -/
theorem decode_fp32_pos : ∃ m e, fp32.decode x = .fin false m e false ∧ m ≠ 0 ∧ m < 2 ^ 24 ∧ -149 ≤ e ∧ e ≤ 107 ∧ ((valueOf fp32 x : ℚ) : ℝ) = m * 2 ^ e := by
  obtain ⟨m, e, hdec, hm, hm24, hlo, hhi, hv⟩ := decode_fp32 hx (fun h => by simp [h] at hpos)
  have hmag : (0 : ℝ) ≤ m * 2 ^ e := by positivity
  cases hs : signOf fp32 x with
  | true => simp [hs] at hv; linarith
  | false => exact ⟨m, e, hs ▸ hdec, hm, hm24, hlo, hhi, by simpa [hs] using hv⟩

/-- `vfrsq`: within two units in the last place of 1/√x (Table 6.9). -/
theorem near_rsq : Near 1 (approx32 1 x) (1 / Real.sqrt ((valueOf fp32 x : ℚ) : ℝ)) := by
  obtain ⟨m, e, hdec, hm, hm24, hlo, hhi, hv⟩ := decode_fp32_pos hx hpos
  rw [hv]
  cases hex : approxExact 1 false m e with
  | some r =>
    obtain ⟨k, hk, rfl⟩ := approxExact_rsq hm hex
    rw [approx32_of_exact hdec hm (by simp) hex, hk, zpow_mul', zpow_ofNat, Real.sqrt_sq (two_zpow_pos k).le, one_div, ← zpow_neg]
    have hk65 : 2 * k < 131 := by
      have := (magnitude_bounds hm hm24 hlo hhi).2
      rw [hk] at this
      exact (zpow_lt_zpow_iff_right₀ (by norm_num)).mp this
    simpa using near_two_zpow 1 (k := -k) (by omega) false
  | none =>
    rw [approx32_of_ref hdec hm (by simp) hex (by simp [pastEnd]), approxRef, if_neg (by simp [pastEnd])]
    obtain ⟨D, K, E, hD, hmD, hDm, hK, hE, href⟩ := refVal_rsq hm e
    rw [href]
    have hDpos : (0 : ℝ) < D := by exact_mod_cast Nat.pos_of_ne_zero hD
    have hlog : Nat.log2 m < 24 := (Nat.log2_lt hm).mpr hm24
    have hroot : 1 / Real.sqrt (m * 2 ^ e) = Real.sqrt (2 ^ K / D) * 2 ^ E := by
      have hinv : ((m : ℝ) * 2 ^ e)⁻¹ = 2 ^ K / D * (2 ^ E) ^ 2 := by
        rw [hmD, zpow_sub₀ two_ne_zero, zpow_neg, zpow_natCast, zpow_mul', zpow_ofNat]
        field_simp
      rw [one_div, ← Real.sqrt_inv, hinv, Real.sqrt_mul (by positivity), Real.sqrt_sq (two_zpow_pos E).le]
    obtain ⟨hlow, hhigh⟩ := sqrt_div_bounds (K := K) hD
    have hu := two_zpow_pos E
    rw [hroot]
    refine near_of_below x (.inl rfl) (j := 1) (by simp [refSlack]) le_rfl ?_ ?_ ?_ ?_ ?_
    · rw [Nat.le_sqrt, Nat.le_div_iff_mul_le (Nat.pos_of_ne_zero hD)]
      calc 2 ^ 24 * 2 ^ 24 * D ≤ 2 ^ 24 * 2 ^ 24 * 2 ^ 25 := Nat.mul_le_mul_left _ (by omega)
        _ ≤ 2 ^ K := by rw [← Nat.pow_add, ← Nat.pow_add]; exact Nat.pow_le_pow_right (by norm_num) (by omega)
    · have : approxLo = -1024 := rfl
      omega
    · exact mul_le_mul_of_nonneg_right hlow hu.le
    · exact mul_le_mul_of_nonneg_right (by linarith) hu.le
    · rw [← hroot, one_div]
      intro hbig
      have hsmall : (2 : ℝ) ^ (-75 : Int) ≤ Real.sqrt (m * 2 ^ e) := by
        refine Real.le_sqrt_of_sq_le (le_trans ?_ (magnitude_bounds hm hm24 hlo hhi).1)
        norm_num
      have hinv := inv_anti₀ (two_zpow_pos _) hsmall
      rw [← zpow_neg] at hinv
      norm_num at hinv hbig
      linarith

end

end Sys2Proof.Machine

namespace Sys2Proof.Machine
open Claims

/-! ### 2^x in fixed point -/

/-- A fixed-point value lies at most k of 2^256 parts below A. -/
def Below (a : Nat) (A : ℝ) (k : Nat) : Prop := A * (2 ^ fixBits - k) ≤ a ∧ (a : ℝ) ≤ A * 2 ^ fixBits

/-- The next root, rounded down, stays three parts below. -/
theorem Below.isqrt {x : Nat} {T : ℝ} (hT : 1 ≤ T) (h : Below x (T * T) 3) : Below (isqrt (x * 2 ^ fixBits)) T 3 := by
  obtain ⟨hlow, hhigh⟩ := h
  rw [isqrt_eq_sqrt]
  have hsq : (Nat.sqrt (x * 2 ^ fixBits) : ℝ) * Nat.sqrt (x * 2 ^ fixBits) ≤ x * 2 ^ fixBits := by exact_mod_cast Nat.sqrt_le _
  have hlt : (x : ℝ) * 2 ^ fixBits < (Nat.sqrt (x * 2 ^ fixBits) + 1) * (Nat.sqrt (x * 2 ^ fixBits) + 1) := by exact_mod_cast Nat.lt_succ_sqrt _
  have hW : (4 : ℝ) ≤ 2 ^ fixBits := by norm_num [fixBits]
  have hr0 : (0 : ℝ) ≤ Nat.sqrt (x * 2 ^ fixBits) := Nat.cast_nonneg _
  unfold Below
  generalize (Nat.sqrt (x * 2 ^ fixBits) : ℝ) = r at *
  generalize (2 : ℝ) ^ fixBits = W at *
  constructor
  · have h : T * (W - 2) < r + 1 := by
      refine lt_of_mul_self_lt_mul_self₀ (by linarith) ?_
      calc T * (W - 2) * (T * (W - 2)) = T * T * ((W - 3) * W) - T * T * (W - 4) := by ring
        _ ≤ T * T * ((W - 3) * W) := sub_le_self _ (mul_nonneg (by positivity) (by linarith))
        _ = T * T * (W - 3) * W := by ring
        _ ≤ x * W := mul_le_mul_of_nonneg_right (by exact_mod_cast hlow) (by linarith)
        _ < (r + 1) * (r + 1) := hlt
    push_cast
    linarith
  · refine (mul_self_le_mul_self_iff hr0 (mul_nonneg (by linarith) (by linarith))).mpr ?_
    calc r * r ≤ x * W := hsq
      _ ≤ T * T * W * W := mul_le_mul_of_nonneg_right hhigh (by linarith)
      _ = T * W * (T * W) := by ring

/-- A product, rounded down, loses three parts to the root and one to the rounding. -/
theorem Below.mul {a r k : Nat} {A T : ℝ} (hA : 1 ≤ A) (hT : 1 ≤ T) (hk : k ≤ 2 ^ fixBits) (ha : Below a A k) (hr : Below r T 3) :
    Below (a * r / 2 ^ fixBits) (A * T) (k + 4) := by
  obtain ⟨halow, hahigh⟩ := ha
  obtain ⟨hrlow, hrhigh⟩ := hr
  have hfloor : ((a * r / 2 ^ fixBits : Nat) : ℝ) * 2 ^ fixBits ≤ a * r := by exact_mod_cast Nat.div_mul_le_self _ _
  have hnext : (a : ℝ) * r < ((a * r / 2 ^ fixBits : Nat) + 1) * 2 ^ fixBits := by
    have h : a * r < (a * r / 2 ^ fixBits + 1) * 2 ^ fixBits := Nat.lt_mul_of_div_lt (Nat.lt_succ_self _) (Nat.two_pow_pos _)
    exact_mod_cast h
  have hW : (4 : ℝ) ≤ 2 ^ fixBits := by norm_num [fixBits]
  have hk : (k : ℝ) ≤ 2 ^ fixBits := by exact_mod_cast hk
  unfold Below
  push_cast at hrlow ⊢
  generalize ((a * r / 2 ^ fixBits : Nat) : ℝ) = p at *
  generalize (2 : ℝ) ^ fixBits = W at *
  have hAT : 1 ≤ A * T := one_le_mul_of_one_le_of_one_le hA hT
  constructor
  · have h : A * T * (W - k - 3) * W < (p + 1) * W := by
      calc A * T * (W - k - 3) * W = A * (W - k) * (T * (W - 3)) - A * T * (3 * k) := by ring
        _ ≤ A * (W - k) * (T * (W - 3)) := sub_le_self _ (by positivity)
        _ ≤ a * r := mul_le_mul halow hrlow (mul_nonneg (by linarith) (by linarith)) (by positivity)
        _ < (p + 1) * W := hnext
    have := lt_of_mul_lt_mul_right h (by linarith)
    linarith
  · refine le_of_mul_le_mul_right (hfloor.trans ?_) (by linarith : 0 < W)
    calc (a : ℝ) * r ≤ A * W * (T * W) := mul_le_mul hahigh hrhigh (by positivity) (by positivity)
      _ = A * T * W * W := by ring


/-- 2 to the 2^n of 2^256 parts. -/
noncomputable def rootAt (n : Nat) : ℝ := 2 ^ ((2 : ℝ) ^ n / 2 ^ fixBits)

theorem Below.mono {a k k' : Nat} {A : ℝ} (hA : 1 ≤ A) (h : Below a A k) (hk : k ≤ k') : Below a A k' := by
  refine ⟨le_trans (mul_le_mul_of_nonneg_left ?_ (by linarith)) h.1, h.2⟩
  have : (k : ℝ) ≤ k' := by exact_mod_cast hk
  linarith

theorem one_le_rpow {p : ℝ} (h : 0 ≤ p) : (1 : ℝ) ≤ 2 ^ p := Real.one_le_rpow (by norm_num) h

theorem one_le_rootAt (n : Nat) : 1 ≤ rootAt n := one_le_rpow (by positivity)

theorem rootAt_succ (n : Nat) : rootAt (n + 1) = rootAt n * rootAt n := by
  rw [rootAt, rootAt, ← Real.rpow_add two_pos]
  congr 1
  ring

/-- The bits below n of a fraction, multiplied in from the highest. -/
theorem exp2Fix_fold (f n x k acc : Nat) {A : ℝ} (hn : n + k = fixBits) (hA : 1 ≤ A) (hx : Below x (rootAt n) 3) (hacc : Below acc A (4 * k)) :
    Below (((rootList n x).zipIdx k).foldl (fun acc (r, i) => if f.testBit (fixBits - 1 - i) then acc * r / 2 ^ fixBits else acc) acc)
      (A * 2 ^ (((f % 2 ^ n : Nat) : ℝ) / 2 ^ fixBits)) (4 * fixBits) := by
  induction n generalizing x k acc A with
  | zero =>
    obtain rfl : k = fixBits := by omega
    simpa [rootList, Nat.mod_one] using hacc
  | succ n ih =>
    have hroot := Below.isqrt (one_le_rootAt n) (rootAt_succ n ▸ hx)
    have hbit : fixBits - 1 - k = n := by omega
    have hmod : f % 2 ^ (n + 1) = f % 2 ^ n + 2 ^ n * (f.testBit n).toNat := by rw [Nat.mod_pow_succ, Nat.toNat_testBit]
    have hk : 4 * k ≤ 2 ^ fixBits := le_trans (by omega : 4 * k ≤ 4 * fixBits) (by norm_num [fixBits])
    rw [rootList, List.zipIdx_cons, List.foldl_cons, hmod]
    simp only [hbit]
    cases hset : f.testBit n with
    | true =>
      have hsplit : A * 2 ^ (((f % 2 ^ n + 2 ^ n * true.toNat : Nat) : ℝ) / 2 ^ fixBits) = A * rootAt n * 2 ^ (((f % 2 ^ n : Nat) : ℝ) / 2 ^ fixBits) := by
        rw [rootAt, mul_assoc, ← Real.rpow_add two_pos]
        congr 2
        push_cast [Bool.toNat_true]
        ring
      rw [hsplit, if_pos rfl]
      exact ih _ (k + 1) _ (by omega) (one_le_mul_of_one_le_of_one_le hA (one_le_rootAt n)) hroot (hacc.mul hA (one_le_rootAt n) hk hroot)
    | false =>
      rw [Bool.toNat_false, Nat.mul_zero, Nat.add_zero, if_neg Bool.false_ne_true]
      exact ih _ (k + 1) _ (by omega) hA hroot (hacc.mono hA (by omega))

/-- The model's 2^f lies less than 2^12 units below. -/
theorem exp2Fix_below {f : Nat} (hf : f < 2 ^ fixBits) : Below (exp2Fix f) (2 ^ ((f : ℝ) / 2 ^ fixBits)) (4 * fixBits) := by
  have hroot : rootAt fixBits = 2 := by rw [rootAt, div_self (by positivity), Real.rpow_one]
  have hone : ∀ A : Nat, ∀ k, Below (A * 2 ^ fixBits) A k := fun A k => by
    refine ⟨?_, by push_cast; exact le_rfl⟩
    push_cast
    exact mul_le_mul_of_nonneg_left (sub_le_self _ (by positivity)) (by positivity)
  have h := exp2Fix_fold f fixBits (2 * 2 ^ fixBits) 0 (2 ^ fixBits) (A := 1) (by simp) le_rfl (hroot ▸ hone 2 3) (by simpa using hone 1 0)
  rwa [Nat.mod_eq_of_lt hf, one_mul] at h

end Sys2Proof.Machine

namespace Sys2Proof.Machine
open Claims

/-! ### Two to the x -/

/-- The reference of 2^x: the whole part of x and the fraction above it. -/
theorem refVal_exp2 (n : Bool) (m : Nat) {e : Int} (he : -149 ≤ e) : ∃ (N : Int) (f : Nat), f < 2 ^ fixBits ∧
    (if n then -1 else 1) * ((m : ℝ) * 2 ^ e) = N + (f : ℝ) / 2 ^ fixBits ∧ refVal 2 n m e = .fin false (exp2Fix f) (N - fixBits) true := by
  have hF : (fixBits : Int) = 256 := rfl
  obtain ⟨j, hj⟩ : ∃ j : Nat, e + fixBits = j := ⟨(e + fixBits).toNat, by omega⟩
  generalize hV : signed n (m * 2 ^ j) = V
  have hval : (if n then -1 else 1) * ((m : ℝ) * 2 ^ e) = V / 2 ^ fixBits := by
    rw [← hV, show e = j - fixBits by omega, zpow_sub₀ two_ne_zero, zpow_natCast, zpow_natCast]
    cases n <;> simp [signed, mul_div_assoc, neg_div]
  have hpos : (0 : Int) < 2 ^ fixBits := by positivity
  have hmod := Int.emod_nonneg V hpos.ne'
  have hlt := Int.emod_lt_of_pos V hpos
  obtain ⟨f, hf⟩ := Int.eq_ofNat_of_zero_le hmod
  refine ⟨V / 2 ^ fixBits, f, by rw [hf] at hlt; exact_mod_cast hlt, ?_, ?_⟩
  · have hsplit : (2 : ℝ) ^ fixBits * ((V / 2 ^ fixBits : Int) : ℝ) + f = V := by exact_mod_cast hf ▸ Int.mul_ediv_add_emod V (2 ^ fixBits)
    rw [hval, ← hsplit]
    field_simp
  · simp only [refVal, hj, Int.toNat_natCast, hV, hf, if_pos (Int.natCast_nonneg j)]

/-- The exact results of 2^x: those of whole numbers. -/
theorem approxExact_exp2 {n : Bool} {m r : Nat} {e : Int} (h : approxExact 2 n m e = some r) :
    ∃ k : Int, (if n then -1 else 1) * ((m : ℝ) * 2 ^ e) = k ∧ -149 ≤ k ∧ r = fp32Of (.fin false 1 k false) := by
  simp only [approxExact, Option.ite_none_right_eq_some, Option.some.injEq, Bool.and_eq_true, decide_eq_true_eq, Bool.or_eq_true] at h
  obtain ⟨⟨⟨hwhole, hlo⟩, -⟩, hr⟩ := h
  refine ⟨_, ?_, hlo, hr.symm⟩
  have hmag : (m : ℝ) * 2 ^ e = ((if 0 ≤ e then (m : Int) * 2 ^ e.toNat else (m / 2 ^ (-e).toNat : Nat) : Int) : ℝ) := by
    split
    · next he =>
      obtain ⟨j, rfl⟩ := Int.eq_ofNat_of_zero_le he
      simp
    · next he =>
      obtain ⟨j, hj⟩ : ∃ j : Nat, -e = j := ⟨(-e).toNat, by omega⟩
      obtain rfl : e = -j := by omega
      rw [neg_neg, Int.toNat_natCast] at hwhole ⊢
      have hdvd : 2 ^ j ∣ m := Nat.dvd_of_mod_eq_zero (hwhole.resolve_left he)
      rw [Int.cast_natCast, Nat.cast_div hdvd (by positivity), zpow_neg, zpow_natCast]
      push_cast
      rw [div_eq_mul_inv]
  rw [hmag]
  cases n with
  | false => simp only [Bool.false_eq_true, if_false, one_mul]
  | true => simp only [if_true, neg_one_mul, Int.cast_neg]

/-- The leading bit of a magnitude bounds it. -/
theorem magnitude_log2 {m : Nat} (hm : m ≠ 0) (e : Int) : (2 : ℝ) ^ (e + Nat.log2 m) ≤ m * 2 ^ e ∧ (m : ℝ) * 2 ^ e < 2 ^ (e + Nat.log2 m + 1) := by
  have hu := two_zpow_pos e
  rw [zpow_add_one₀ two_ne_zero, zpow_add₀ two_ne_zero, zpow_natCast]
  constructor
  · rw [mul_comm]
    exact mul_le_mul_of_nonneg_right (by exact_mod_cast Nat.log2_self_le hm) hu.le
  · have : (m : ℝ) < 2 ^ Nat.log2 m * 2 := by rw [← pow_succ]; exact_mod_cast Nat.lt_log2_self
    calc (m : ℝ) * 2 ^ e < 2 ^ Nat.log2 m * 2 * 2 ^ e := mul_lt_mul_of_pos_right this hu
      _ = 2 ^ e * 2 ^ Nat.log2 m * 2 := by ring

/-- Between the ends of the range, a result is picked by the fixed-point value. -/
theorem near_exp2_of_fix (x : Nat) {N : Int} {f : Nat} (hf : f < 2 ^ fixBits) (hN : -512 ≤ N) :
    Near 2 (approxPick 2 x (.fin false (exp2Fix f) (N - fixBits) true)) (2 ^ ((N : ℝ) + (f : ℝ) / 2 ^ fixBits)) := by
  obtain ⟨hlow, hhigh⟩ := exp2Fix_below hf
  have hu := two_zpow_pos (N - fixBits)
  have hW : (2 : ℝ) ^ fixBits * 2 ^ (N - fixBits) = 2 ^ N := by
    rw [← zpow_natCast, ← zpow_add₀ two_ne_zero]
    congr 1
    ring
  have hone : (1 : ℝ) ≤ 2 ^ ((f : ℝ) / 2 ^ fixBits) := one_le_rpow (by positivity)
  have htwo : (2 : ℝ) ^ ((f : ℝ) / 2 ^ fixBits) ≤ 2 := by
    refine (Real.rpow_le_rpow_of_exponent_le (by norm_num) ?_).trans_eq (Real.rpow_one 2)
    rw [div_le_one (by positivity)]
    exact_mod_cast hf.le
  have hbits : ((4 * fixBits : Nat) : ℝ) = 2 ^ 10 := by norm_num [fixBits]
  rw [Real.rpow_add two_pos, Real.rpow_intCast, ← hW]
  rw [hbits] at hlow
  generalize (2 : ℝ) ^ ((f : ℝ) / 2 ^ fixBits) = A at *
  have hloss : A * 2 ^ 10 ≤ 2 ^ 12 := by linarith
  refine near_of_below x (.inr rfl) (j := 12) (by norm_num [refSlack]) (by norm_num) ?_ ?_ ?_ ?_ ?_
  · have h : (2 : ℝ) ^ fixBits - 2 ^ 10 ≤ exp2Fix f := (le_mul_of_one_le_left (by norm_num [fixBits]) hone).trans hlow
    have h' : (2 : ℝ) ^ (23 + 12) ≤ exp2Fix f := le_trans (by norm_num [fixBits]) h
    exact_mod_cast h'
  · have : approxLo = -1024 := rfl
    have : (fixBits : Int) = 256 := rfl
    omega
  · calc (exp2Fix f : ℝ) * 2 ^ (N - fixBits) ≤ A * 2 ^ fixBits * 2 ^ (N - fixBits) := mul_le_mul_of_nonneg_right hhigh hu.le
      _ = _ := by ring
  · calc 2 ^ fixBits * 2 ^ (N - fixBits) * A = A * 2 ^ fixBits * 2 ^ (N - fixBits) := by ring
      _ ≤ _ := mul_le_mul_of_nonneg_right (by linarith) hu.le
  · intro hbig
    have hrel : (1 - 2 ^ 10 / 2 ^ fixBits) * (2 ^ fixBits * 2 ^ (N - fixBits) * A) = A * (2 ^ fixBits - 2 ^ 10) * 2 ^ (N - fixBits) := by field_simp
    calc (2 : ℝ) ^ 128 - 2 ^ 103 ≤ (1 - 2 ^ 10 / 2 ^ fixBits) * 2 ^ 128 := by norm_num [fixBits]
      _ ≤ (1 - 2 ^ 10 / 2 ^ fixBits) * (2 ^ fixBits * 2 ^ (N - fixBits) * A) := mul_le_mul_of_nonneg_left hbig (by norm_num [fixBits])
      _ = A * (2 ^ fixBits - 2 ^ 10) * 2 ^ (N - fixBits) := hrel
      _ ≤ exp2Fix f * 2 ^ (N - fixBits) := mul_le_mul_of_nonneg_right hlow hu.le

/-- Far below the range, a result is picked by a reference of nothing but a part below. -/
theorem near_exp2_of_tiny (x : Nat) {y : ℝ} (hpos : 0 < y) (hsmall : y ≤ 2 ^ (-512 : Int)) : Near 2 (approxPick 2 x (.fin false 0 (-524) true)) y := by
  have habs : |y| = y := abs_of_pos hpos
  have hzero : fp32Of (.fin false 0 (-524) true) = 0 := by decide +kernel
  have hulp : (2 : ℝ) ^ (-149 : Int) ≤ ulp32 y := zpow_le_zpow_right₀ (by norm_num) (le_max_right _ _)
  have hstep : (2 : ℝ) ^ (-512 : Int) ≤ 2 ^ (-149 : Int) := zpow_le_zpow_right₀ (by norm_num) (by norm_num)
  refine ⟨fun _ => approxPick_within (by decide) ?_ ?_ ?_ ?_, fun hbig => ?_⟩
  · simpa [refLow] using hpos.le
  · have hsplit : (2 : ℝ) ^ (-512 : Int) = 2 ^ (12 : Int) * 2 ^ (-524 : Int) := by rw [← zpow_add₀ two_ne_zero]; norm_num only
    have hslack : ((refSlack 2 true : Int) : ℝ) = 2 ^ (12 : Int) := by norm_num [refSlack]
    rw [refLow, hslack, ← hsplit]
    simpa using hsmall
  · simp [boundMag]
  · rw [hzero]
    refine ⟨by decide, ?_⟩
    have h0 : ((valueOf fp32 0 : ℚ) : ℝ) = 0 := by rw [valueOf_mag sound_fp32 (Nat.zero_le _), Fmt.val_zero]
    rw [h0, zero_sub, abs_neg, habs]
    have hbound : boundAt 2 (ulp32 y) = 2 * ulp32 y := by simp [boundAt]
    linarith [two_zpow_pos (-149)]
  · rw [habs] at hbig
    have : (2 : ℝ) ^ (-512 : Int) < 2 ^ 128 := (zpow_lt_zpow_right₀ (by norm_num) (by norm_num)).trans_eq (zpow_natCast 2 128)
    linarith

/-- Past the upper end of the range the result is an infinity. -/
theorem near_exp2_of_huge {t : ℝ} (ht : 512 ≤ t) : Near 2 (infinite fp32 false) (2 ^ t) := by
  have hhuge : (2 : ℝ) ^ 128 ≤ 2 ^ t := by
    rw [← Real.rpow_natCast]
    exact Real.rpow_le_rpow_of_exponent_le one_le_two (by push_cast; linarith)
  have hpos : (0 : ℝ) < 2 ^ t := Real.rpow_pos_of_pos two_pos t
  rw [Near, abs_of_pos hpos, greatestFinite_fp32, decide_eq_false hpos.not_gt]
  exact ⟨fun hfin => absurd hhuge (by linarith [show (0 : ℝ) < 2 ^ 104 by positivity]), fun _ => rfl⟩

/-- An operand past the end has a magnitude of at least 512, any other a smaller one. -/
theorem pastEnd_iff {m : Nat} (hm : m ≠ 0) (e : Int) : pastEnd 2 m e = true ↔ (512 : ℝ) ≤ m * 2 ^ e := by
  obtain ⟨hlow, hhigh⟩ := magnitude_log2 hm e
  have hnine : (512 : ℝ) = 2 ^ (9 : Int) := by norm_num
  have hend : pastEnd 2 m e = true ↔ 9 ≤ e + Nat.log2 m := by simp [pastEnd]
  rw [hend, hnine]
  constructor
  · exact fun h => (zpow_le_zpow_right₀ (by norm_num) h).trans hlow
  · intro h
    have := (zpow_lt_zpow_iff_right₀ (by norm_num)).mp (h.trans_lt hhigh)
    omega

/-- `vfexp2`: within two units in the last place of 2^x (Table 6.9). -/
theorem near_exp2 {x : Nat} (hx : number fp32 x = true) (hx0 : valueOf fp32 x ≠ 0) : Near 2 (approx32 2 x) (2 ^ ((valueOf fp32 x : ℚ) : ℝ)) := by
  obtain ⟨m, e, hdec, hm, -, hlo, -, hv⟩ := decode_fp32 hx hx0
  generalize signOf fp32 x = n at *
  rw [hv]
  have hend := pastEnd_iff hm e
  cases hex : approxExact 2 n m e with
  | some r =>
    obtain ⟨k, hk, hlow, rfl⟩ := approxExact_exp2 hex
    rw [approx32_of_exact hdec hm (by simp) hex, hk, Real.rpow_intCast]
    simpa using near_two_zpow 2 hlow false
  | none =>
    by_cases hbig : pastEnd 2 m e = true
    · have hmag := hend.mp hbig
      cases n with
      | false =>
        rw [approx32_of_pastEnd hdec hm (by simp) hex hbig rfl, infOf_eq]
        exact near_exp2_of_huge (by simpa using hmag)
      | true =>
        rw [approx32_of_ref hdec hm (by simp) hex (by simp [hbig]), approxRef, if_pos hbig]
        refine near_exp2_of_tiny x (Real.rpow_pos_of_pos two_pos _) ?_
        rw [← Real.rpow_intCast 2 (-512)]
        refine Real.rpow_le_rpow_of_exponent_le one_le_two ?_
        simp only [if_true]
        push_cast
        linarith
    · have hmag : (m : ℝ) * 2 ^ e < 512 := not_le.mp (hend.not.mp hbig)
      obtain ⟨N, f, hf, hval, href⟩ := refVal_exp2 n m hlo
      rw [approx32_of_ref hdec hm (by simp) hex (by simp [hbig]), approxRef, if_neg hbig, href, hval]
      refine near_exp2_of_fix x hf ?_
      have hfrac : (f : ℝ) / 2 ^ fixBits < 1 := by
        rw [div_lt_one (by positivity)]
        exact_mod_cast hf
      have hnonneg : (0 : ℝ) ≤ m * 2 ^ e := by positivity
      have hfloor : (-513 : ℝ) < N := by
        have : -512 < (if n then -1 else 1) * ((m : ℝ) * 2 ^ e) := by cases n <;> simp <;> linarith
        linarith
      have : (-513 : Int) < N := by exact_mod_cast hfloor
      omega

end Sys2Proof.Machine

namespace Sys2Proof.Machine
open Claims

/-! ### The logarithm, bit by bit -/

/-- The logarithm of a fixed-point value. -/
noncomputable def fixLog (x : ℝ) : ℝ := Real.logb 2 (x / 2 ^ fixBits)

/-- Rounding a fixed-point value of at least one down costs its logarithm at most two parts of 2^256. -/
theorem fixLog_floor {t : Nat} {z : ℝ} (ht : 2 ^ fixBits ≤ t) (hlow : (t : ℝ) ≤ z) (hhigh : z ≤ t + 1) :
    fixLog t ≤ fixLog z ∧ fixLog z ≤ fixLog t + 2 / 2 ^ fixBits := by
  have hW : (0 : ℝ) < 2 ^ fixBits := by positivity
  have ht' : (2 : ℝ) ^ fixBits ≤ t := by exact_mod_cast ht
  have htpos : (0 : ℝ) < t := hW.trans_le ht'
  constructor
  · exact Real.logb_le_logb_of_le (by norm_num) (by positivity) (div_le_div_of_nonneg_right hlow hW.le)
  · have hsplit : ((t : ℝ) + 1) / 2 ^ fixBits = t / 2 ^ fixBits * (1 + 1 / t) := by field_simp
    have hstep : fixLog z ≤ fixLog t + Real.logb 2 (1 + 1 / t) := by
      rw [fixLog, fixLog, ← Real.logb_mul (by positivity) (by positivity), ← hsplit]
      exact Real.logb_le_logb_of_le (by norm_num) (div_pos (htpos.trans_le hlow) hW) (div_le_div_of_nonneg_right hhigh hW.le)
    have hlog : Real.log (1 + 1 / t) ≤ 1 / t := by
      have := Real.log_le_sub_one_of_pos (show (0 : ℝ) < 1 + 1 / t by positivity)
      linarith
    have htwo : (1 : ℝ) / 2 < Real.log 2 := by have := Real.log_two_gt_d9; linarith
    have hpart : Real.logb 2 (1 + 1 / t) ≤ 2 / 2 ^ fixBits := by
      rw [Real.logb, div_le_iff₀ (by linarith)]
      calc Real.log (1 + 1 / t) ≤ 1 / t := hlog
        _ ≤ 1 / 2 ^ fixBits := one_div_le_one_div_of_le hW ht'
        _ = 2 / 2 ^ fixBits * (1 / 2) := by ring
        _ ≤ 2 / 2 ^ fixBits * Real.log 2 := mul_le_mul_of_nonneg_left htwo.le (by positivity)
    linarith

theorem fixLog_sq {x : ℝ} (hx : 0 < x) : fixLog (x * x / 2 ^ fixBits) = 2 * fixLog x ∧ fixLog (x * x / 2 ^ fixBits / 2) = 2 * fixLog x - 1 := by
  have hW : (0 : ℝ) < 2 ^ fixBits := by positivity
  have hsq : x * x / 2 ^ fixBits / 2 ^ fixBits = x / 2 ^ fixBits * (x / 2 ^ fixBits) := by field_simp
  have hhalf : x * x / 2 ^ fixBits / 2 / 2 ^ fixBits = x / 2 ^ fixBits * (x / 2 ^ fixBits) / 2 := by field_simp
  have hlog : Real.logb 2 (x / 2 ^ fixBits * (x / 2 ^ fixBits)) = 2 * fixLog x := by
    rw [Real.logb_mul (by positivity) (by positivity), fixLog, two_mul]
  constructor
  · rw [fixLog, hsq, hlog]
  · rw [fixLog, hhalf, Real.logb_div (by positivity) (by norm_num), hlog, Real.logb_self_eq_one (by norm_num)]

/-- One bit of the logarithm: whatever the bit, the doubled logarithm is kept but for the rounding δ. -/
theorem log2_step {n acc b r : Nat} {L L' δ : ℝ} (hlow : (r : ℝ) ≤ 2 ^ n * ((2 * acc + b : Nat) + L'))
    (hhigh : 2 ^ n * ((2 * acc + b : Nat) + L') ≤ r + 1 + (2 ^ n - 1) * δ) (hbelow : L' ≤ 2 * L - b) (habove : 2 * L - b ≤ L' + δ) :
    (r : ℝ) ≤ 2 ^ (n + 1) * (acc + L) ∧ 2 ^ (n + 1) * (acc + L) ≤ r + 1 + (2 ^ (n + 1) - 1) * δ := by
  have hdouble : (2 : ℝ) ^ (n + 1) * (acc + L) = 2 ^ n * ((2 * acc + b : Nat) + (2 * L - b)) := by push_cast; ring
  have hn : (0 : ℝ) ≤ 2 ^ n := by positivity
  rw [hdouble]
  constructor
  · exact hlow.trans (mul_le_mul_of_nonneg_left (by linarith) hn)
  · calc (2 : ℝ) ^ n * ((2 * acc + b : Nat) + (2 * L - b)) ≤ 2 ^ n * ((2 * acc + b : Nat) + (L' + δ)) := mul_le_mul_of_nonneg_left (by linarith) hn
      _ = 2 ^ n * ((2 * acc + b : Nat) + L') + 2 ^ n * δ := by ring
      _ ≤ r + 1 + (2 ^ n - 1) * δ + 2 ^ n * δ := by linarith
      _ = _ := by ring

theorem fixed_floor (a : Nat) {d : Nat} (hd : 0 < d) :
    ((a / 2 ^ fixBits / d : Nat) : ℝ) ≤ a / 2 ^ fixBits / d ∧ (a : ℝ) / 2 ^ fixBits / d ≤ (a / 2 ^ fixBits / d : Nat) + 1 := by
  rw [Nat.div_div_eq_div_mul, div_div, le_div_iff₀ (by positivity), div_le_iff₀ (by positivity)]
  exact ⟨by exact_mod_cast Nat.div_mul_le_self _ _, by exact_mod_cast (Nat.lt_mul_of_div_lt (Nat.lt_succ_self _) (by positivity)).le⟩

/-- The bits found are those of the logarithm, but for the roundings. -/
theorem log2Bits_bounds (n x acc : Nat) (hlow : 2 ^ fixBits ≤ x) (hhigh : x < 2 * 2 ^ fixBits) :
    (log2Bits n x acc : ℝ) ≤ 2 ^ n * (acc + fixLog x) ∧ 2 ^ n * (acc + fixLog x) ≤ log2Bits n x acc + 1 + (2 ^ n - 1) * (2 / 2 ^ fixBits) := by
  have hW : (0 : ℝ) < 2 ^ fixBits := by positivity
  have hlow' : (2 : ℝ) ^ fixBits ≤ x := by exact_mod_cast hlow
  induction n generalizing x acc with
  | zero =>
    have hnonneg : 0 ≤ fixLog x := Real.logb_nonneg (by norm_num) ((one_le_div hW).mpr hlow')
    have hone : fixLog x ≤ 1 := by
      rw [fixLog, Real.logb_le_iff_le_rpow (by norm_num) (div_pos (hW.trans_le hlow') hW), Real.rpow_one, div_le_iff₀ hW]
      exact_mod_cast hhigh.le
    simp only [log2Bits, pow_zero, one_mul, sub_self, zero_mul, add_zero]
    exact ⟨by linarith, by linarith⟩
  | succ n ih =>
    obtain ⟨hsq, hhalf⟩ := fixLog_sq (hW.trans_le hlow')
    rw [log2Bits]
    split
    · next hbit =>
      have hx' : 2 ^ fixBits ≤ x * x / 2 ^ fixBits / 2 := by omega
      have hx'' : x * x / 2 ^ fixBits / 2 < 2 * 2 ^ fixBits := by
        rw [Nat.div_div_eq_div_mul, Nat.div_lt_iff_lt_mul (by positivity)]
        calc x * x < 2 * 2 ^ fixBits * (2 * 2 ^ fixBits) := Nat.mul_lt_mul'' hhigh hhigh
          _ = 2 * 2 ^ fixBits * (2 ^ fixBits * 2) := by ring
      obtain ⟨hfloor, hceil⟩ := fixed_floor (x * x) two_pos
      obtain ⟨h₁, h₂⟩ := fixLog_floor hx' hfloor hceil
      rw [Nat.cast_mul, Nat.cast_ofNat, hhalf] at h₁ h₂
      obtain ⟨hr, hr'⟩ := ih _ (2 * acc + 1) hx' hx'' (by exact_mod_cast hx')
      exact log2_step hr hr' (by simpa using h₁) (by simpa using h₂)
    · next hbit =>
      have hx' : 2 ^ fixBits ≤ x * x / 2 ^ fixBits := by
        rw [Nat.le_div_iff_mul_le (Nat.two_pow_pos _)]
        exact Nat.mul_le_mul hlow hlow
      obtain ⟨hfloor, hceil⟩ := fixed_floor (x * x) one_pos
      rw [Nat.div_one, Nat.cast_one, div_one] at hfloor hceil
      obtain ⟨h₁, h₂⟩ := fixLog_floor hx' hfloor hceil
      rw [Nat.cast_mul, hsq] at h₁ h₂
      obtain ⟨hr, hr'⟩ := ih _ (2 * acc) hx' (not_le.mp hbit) (by exact_mod_cast hx')
      exact log2_step (b := 0) hr hr' (by simpa using h₁) (by simpa using h₂)

end Sys2Proof.Machine

namespace Sys2Proof.Machine
open Claims

/-! ### The logarithm -/

theorem logb_two_zpow (k : Int) : Real.logb 2 ((2 : ℝ) ^ k) = k := by
  rw [← Real.rpow_intCast, Real.logb_rpow two_pos (by norm_num)]

/-- The reference of log₂ x: at most two units of 2^-128 below. -/
theorem refVal_log2 {n : Bool} {m : Nat} (hm : m ≠ 0) (hm24 : m < 2 ^ 24) (e : Int) : ∃ V : Int, refVal 3 n m e = ofInt V (-128) false ∧
    (V : ℝ) * 2 ^ (-128 : Int) ≤ Real.logb 2 (m * 2 ^ e) ∧ Real.logb 2 (m * 2 ^ e) ≤ (V + 2) * 2 ^ (-128 : Int) := by
  have hlog : Nat.log2 m < 24 := (Nat.log2_lt hm).mpr hm24
  have hF : fixBits = 256 := rfl
  have hlen : Nat.log2 m ≤ fixBits := by omega
  have hpow : 2 ^ fixBits = 2 ^ Nat.log2 m * 2 ^ (fixBits - Nat.log2 m) := by rw [← Nat.pow_add, Nat.add_sub_cancel' hlen]
  have hlow : 2 ^ fixBits ≤ m * 2 ^ (fixBits - Nat.log2 m) := hpow ▸ Nat.mul_le_mul_right _ (Nat.log2_self_le hm)
  have hhigh : m * 2 ^ (fixBits - Nat.log2 m) < 2 * 2 ^ fixBits := by
    rw [hpow, ← Nat.mul_assoc, ← pow_succ']
    exact Nat.mul_lt_mul_of_pos_right Nat.lt_log2_self (Nat.two_pow_pos _)
  have hfix : Real.logb 2 (m * 2 ^ e) = (e + Nat.log2 m : Int) + fixLog (m * 2 ^ (fixBits - Nat.log2 m) : Nat) := by
    have hm' : (0 : ℝ) < m := by exact_mod_cast Nat.pos_of_ne_zero hm
    have hsplit : (m : ℝ) * 2 ^ e = 2 ^ (e + Nat.log2 m) * ((m * 2 ^ (fixBits - Nat.log2 m) : Nat) / 2 ^ fixBits) := by
      have : (2 : ℝ) ^ fixBits = 2 ^ Nat.log2 m * 2 ^ (fixBits - Nat.log2 m) := by exact_mod_cast hpow
      rw [this, zpow_add₀ two_ne_zero, zpow_natCast]
      push_cast
      field_simp
    rw [hsplit, Real.logb_mul (two_zpow_pos _).ne' (by positivity), logb_two_zpow, fixLog]
  refine ⟨(e + Nat.log2 m) * 2 ^ 128 + log2Bits 128 (m * 2 ^ (fixBits - Nat.log2 m)) 0, by simp only [refVal, if_pos hlen], ?_⟩
  rw [hfix]
  generalize m * 2 ^ (fixBits - Nat.log2 m) = X at *
  obtain ⟨hbelow, habove⟩ := log2Bits_bounds 128 X 0 hlow hhigh
  have hround : (2 ^ 128 - 1) * (2 / 2 ^ fixBits) ≤ (1 : ℝ) := by norm_num [fixBits]
  have hscale : ∀ t : ℝ, t = 2 ^ 128 * t * 2 ^ (-128 : Int) := fun t => by norm_num; ring
  rw [hscale (_ + fixLog X)]
  push_cast at hbelow habove ⊢
  exact ⟨mul_le_mul_of_nonneg_right (by linarith) (two_zpow_pos _).le, mul_le_mul_of_nonneg_right (by linarith) (two_zpow_pos _).le⟩

/-- Half a step of the rounded reference and its slack stay within the bound. -/
theorem log2_error {M : Nat} {y : ℝ} (h : ((M - 2 : Nat) : ℝ) * 2 ^ (-128 : Int) ≤ |y|) :
    (2 : ℝ) ^ fp32.cut M (-128) / 2 + 2 ^ (-127 : Int) ≤ boundAt 3 (ulp32 y) := by
  have hbound : boundAt 3 (ulp32 y) = max (2 * ulp32 y) (2 ^ (-24 : Int)) := by simp [boundAt]
  rw [hbound]
  by_cases hM : M < 2 ^ 128
  · refine le_max_of_le_right ?_
    have hcut : fp32.cut M (-128) ≤ -24 := by
      have hlsb : fp32.lsb = -149 := by decide
      have hfb : (fp32.fb : Int) = 23 := rfl
      have hlog : M ≠ 0 → Nat.log2 M < 128 := fun h => (Nat.log2_lt h).mpr hM
      unfold Fmt.cut
      split <;> omega
    have : (2 : ℝ) ^ fp32.cut M (-128) ≤ 2 ^ (-24 : Int) := zpow_le_zpow_right₀ (by norm_num) hcut
    norm_num at this ⊢
    linarith
  · have hM0 : M ≠ 0 := by rintro rfl; simp at hM
    have hlog : 128 ≤ Nat.log2 M := (Nat.le_log2 hM0).mpr (not_lt.mp hM)
    have hhalf : (M : ℝ) * 2 ^ (-129 : Int) ≤ |y| := by
      refine le_trans ?_ h
      have : (M : ℝ) ≤ (M - 2 : Nat) * 2 := by exact_mod_cast (by omega : M ≤ (M - 2) * 2)
      norm_num
      linarith
    have hulp := ulp_le hhalf
    have hcut : fp32.cut M (-128) = ulpExp M (-129) + 1 ∧ -24 ≤ ulpExp M (-129) := by
      rw [cut_eq_ulpExp hM0]
      simp only [ulpExp, if_neg hM0]
      omega
    rw [hcut.1, zpow_add_one₀ two_ne_zero]
    refine le_max_of_le_left ?_
    have : (2 : ℝ) ^ (-24 : Int) ≤ 2 ^ ulpExp M (-129) := zpow_le_zpow_right₀ (by norm_num) hcut.2
    have hsmall : (2 : ℝ) ^ (-127 : Int) ≤ 2 ^ (-24 : Int) := zpow_le_zpow_right₀ (by norm_num) (by norm_num)
    rw [mul_div_cancel_right₀ _ two_ne_zero, two_mul]
    exact add_le_add hulp (hsmall.trans (this.trans hulp))

/-- A small whole number is held exactly. -/
theorem fp32Of_int {k : Int} (h : k.natAbs < 2 ^ 24) : number fp32 (fp32Of (ofInt k 0 false)) = true ∧ valueOf fp32 (fp32Of (ofInt k 0 false)) = k := by
  have hlt : (k.natAbs : ℝ) * 2 ^ (0 : Int) < fp32.val (fp32.maxFinite + 1) := by
    rw [val_overflow_fp32, zpow_zero, mul_one]
    have : (k.natAbs : ℝ) < 2 ^ 24 := by exact_mod_cast h
    exact this.trans (by norm_num)
  rw [ofInt_eq]
  obtain ⟨hnum, -, hval⟩ := round_exact sound_fp32 h (by decide) hlt 0 false (decide (k < 0))
  refine ⟨hnum, hval.trans ?_⟩
  rw [exact_natAbs fun _ => rfl, zpow_zero, mul_one]

/-- The logarithm's exact results are those of powers of two. -/
theorem approxExact_log2 {n : Bool} {m r : Nat} (hm : m ≠ 0) {e : Int} (h : approxExact 3 n m e = some r) :
    ∃ k : Int, (m : ℝ) * 2 ^ e = 2 ^ k ∧ r = fp32Of (ofInt k 0 false) := by
  rw [approxExact] at h
  · cases hk : powTwo m e with
    | none => simp [hk] at h
    | some k => exact ⟨k, (powTwo_eq hm e k).mp hk, by simpa [hk] using h.symm⟩
  all_goals simp

theorem abs_logb_le {t : ℝ} (hlow : (2 : ℝ) ^ (-149 : Int) ≤ t) (hhigh : t ≤ 2 ^ (131 : Int)) : |Real.logb 2 t| ≤ 149 := by
  have ht : 0 < t := (two_zpow_pos _).trans_le hlow
  rw [abs_le, Real.le_logb_iff_rpow_le (by norm_num) ht, Real.logb_le_iff_le_rpow (by norm_num) ht]
  constructor
  · exact_mod_cast hlow
  · refine hhigh.trans ?_
    rw [← Real.rpow_intCast]
    exact Real.rpow_le_rpow_of_exponent_le one_le_two (by norm_num)

theorem near_int (op : Nat) {k : Int} (hk : |(k : ℝ)| ≤ 149) : Near op (fp32Of (ofInt k 0 false)) k := by
  have hk' : |k| ≤ 149 := by exact_mod_cast hk
  obtain ⟨hnum, hval⟩ := fp32Of_int (k := k) (by have := Int.abs_eq_natAbs k; omega)
  refine ⟨fun _ => ⟨hnum, ?_⟩, fun hbig => absurd (hbig.trans hk) (by norm_num)⟩
  rw [hval, Rat.cast_intCast, sub_self, abs_zero]
  exact boundAt_nonneg op _

section
variable {V : Int} {y : ℝ} (hbelow : (V : ℝ) * 2 ^ (-128 : Int) ≤ y) (habove : y ≤ (V + 2) * 2 ^ (-128 : Int))
include hbelow habove

/-- The reference's magnitude, and its end nearer zero, beside the exact value's. -/
theorem log2_magnitude : (V.natAbs : ℝ) * 2 ^ (-128 : Int) ≤ |y| + 2 * 2 ^ (-128 : Int) ∧ ((V.natAbs - 2 : Nat) : ℝ) * 2 ^ (-128 : Int) ≤ |y| ∧
    (boundMag 3 (decide (V < 0)) V.natAbs false : ℝ) * 2 ^ (-128 : Int) ≤ |y| := by
  have hu := two_zpow_pos (-128)
  have habs : (V.natAbs : ℝ) * 2 ^ (-128 : Int) = |(V : ℝ) * 2 ^ (-128 : Int)| := by
    rw [abs_mul, abs_of_pos hu, Nat.cast_natAbs, Int.cast_abs]
  have hfull : (V.natAbs : ℝ) * 2 ^ (-128 : Int) ≤ |y| + 2 * 2 ^ (-128 : Int) := by
    rw [habs, abs_le]
    exact ⟨by linarith [neg_abs_le y], by linarith [le_abs_self y]⟩
  have hpart : ((V.natAbs - 2 : Nat) : ℝ) * 2 ^ (-128 : Int) ≤ |y| := by
    rcases le_total V.natAbs 2 with h | h
    · rw [Nat.sub_eq_zero_of_le h]; simp
    · rw [Nat.cast_sub h]; push_cast; linarith
  refine ⟨hfull, hpart, ?_⟩
  rcases lt_or_ge V 0 with h | h
  · simpa [boundMag, h, refSlack] using hpart
  · rw [boundMag, decide_eq_false h.not_gt, Bool.false_and, if_neg Bool.false_ne_true, habs,
      abs_of_nonneg (mul_nonneg (by exact_mod_cast h) hu.le)]
    exact hbelow.trans (le_abs_self y)

/-- A result picked by a reference at most two units of 2^-128 below. -/
theorem near_log2_of_below (x : Nat) (hrange : |y| ≤ 149) : Near 3 (approxPick 3 x (ofInt V (-128) false)) y := by
  rw [ofInt_eq]
  obtain ⟨hfull, hpart, hmag⟩ := log2_magnitude hbelow habove
  have hexpand : ((V : ℝ) + 2) * 2 ^ (-128 : Int) = V * 2 ^ (-128 : Int) + 2 * 2 ^ (-128 : Int) := by ring
  have hsign : (if decide (V < 0) then -(V.natAbs : ℝ) else V.natAbs) = V := by
    rcases lt_or_ge V 0 with h | h
    · simp [h, Nat.cast_natAbs, abs_of_neg h]
    · simp [h.not_gt, Nat.cast_natAbs, abs_of_nonneg h]
  have hrefLow : refLow 3 (decide (V < 0)) V.natAbs (-128) false = V * 2 ^ (-128 : Int) := by rw [refLow, hsign]; simp
  refine ⟨fun _ => approxPick_within (by decide) (hrefLow ▸ hbelow) ?_ hmag ?_, fun hbig => absurd (hbig.trans hrange) (by norm_num)⟩
  · have hslack : ((refSlack 3 false : Int) : ℝ) = 2 := by simp [refSlack]
    rwa [hrefLow, hslack, ← hexpand]
  · have hcut : V.natAbs ≠ 0 ∨ fp32.cut V.natAbs (-128) = fp32.lsb := by
      by_cases h : V.natAbs = 0
      · rw [h]; exact .inr (by decide)
      · exact .inl h
    obtain ⟨hnum, herr⟩ := fp32Of_near (a := V.natAbs * 2 ^ (-128 : Int)) (S := false) rfl (readable_exact fp32 V.natAbs (-128)) (decide (V < 0)) hcut (by
      rw [val_edge_fp32]
      norm_num at hfull ⊢
      linarith)
    have hsigned : (if decide (V < 0) then -((V.natAbs : ℝ) * 2 ^ (-128 : Int)) else V.natAbs * 2 ^ (-128 : Int)) = V * 2 ^ (-128 : Int) := by
      rw [← hsign]; split <;> ring
    have hu' : (2 : ℝ) ^ (-127 : Int) = 2 * 2 ^ (-128 : Int) := by norm_num
    rw [hsigned] at herr
    refine ⟨hnum, le_trans ?_ (log2_error hpart)⟩
    obtain ⟨h₁, h₂⟩ := abs_le.mp herr
    rw [abs_le, hu']
    rw [hexpand] at habove
    generalize (2 : ℝ) ^ (-128 : Int) = u at *
    exact ⟨by linarith, by linarith⟩

end

/-- `vflog2`: within two units in the last place of log₂ x, or 2^-24 (Table 6.9). -/
theorem near_log2 {x : Nat} (hx : number fp32 x = true) (hpos : 0 < ((valueOf fp32 x : ℚ) : ℝ)) :
    Near 3 (approx32 3 x) (Real.logb 2 ((valueOf fp32 x : ℚ) : ℝ)) := by
  obtain ⟨m, e, hdec, hm, hm24, hlo, hhi, hv⟩ := decode_fp32_pos hx hpos
  obtain ⟨hlow, hhigh⟩ := magnitude_bounds hm hm24 hlo hhi
  have hrange := abs_logb_le hlow hhigh.le
  rw [hv]
  cases hex : approxExact 3 false m e with
  | some r =>
    obtain ⟨k, hk, rfl⟩ := approxExact_log2 hm hex
    rw [hk, logb_two_zpow] at hrange
    rw [approx32_of_exact hdec hm (by simp) hex, hk, logb_two_zpow]
    exact near_int 3 hrange
  | none =>
    obtain ⟨V, href, hbelow, habove⟩ := refVal_log2 (n := false) hm hm24 e
    rw [approx32_of_ref hdec hm (by simp) hex (by simp [pastEnd]), approxRef, if_neg (by simp [pastEnd]), href]
    exact near_log2_of_below hbelow habove x hrange

end Sys2Proof.Machine

namespace Sys2Proof.Machine
open Claims

/-! ### Exact results -/

/-- An operand whose value is ±t decodes to the magnitude t. -/
theorem decode_fp32_of_value {x : Nat} (hx : number fp32 x = true) {n : Bool} {t : ℚ} (ht : 0 < t) (hv : valueOf fp32 x = (if n then -1 else 1) * t) :
    ∃ m e, fp32.decode x = .fin n m e false ∧ m ≠ 0 ∧ (m : ℝ) * 2 ^ e = t ∧ (2 : ℝ) ^ (-149 : Int) ≤ t ∧ (t : ℝ) < 2 ^ (131 : Int) := by
  have hx0 : valueOf fp32 x ≠ 0 := by rw [hv]; cases n <;> simp [ht.ne']
  obtain ⟨m, e, hdec, hm, hm24, hlo, hhi, hval⟩ := decode_fp32 hx hx0
  have hmag : (0 : ℝ) < m * 2 ^ e := mul_pos (by exact_mod_cast Nat.pos_of_ne_zero hm) (two_zpow_pos e)
  have ht' : (0 : ℝ) < t := by exact_mod_cast ht
  generalize signOf fp32 x = s at *
  have hboth : (if s then -1 else 1) * ((m : ℝ) * 2 ^ e) = (if n then -1 else 1) * t := by
    rw [← hval, hv]
    push_cast
    cases n <;> simp
  have heq : s = n ∧ (m : ℝ) * 2 ^ e = t := by
    cases s <;> cases n <;> simp at hboth ⊢ <;> linarith
  obtain ⟨hlow, hhigh⟩ := magnitude_bounds hm hm24 hlo hhi
  rw [heq.2] at hlow hhigh
  exact ⟨m, e, heq.1 ▸ hdec, hm, heq.2, hlow, hhigh⟩

/-- A magnitude that is a whole number, as the model finds it. -/
theorem whole_magnitude {m a : Nat} {e : Int} (h : (m : ℝ) * 2 ^ e = a) : (0 ≤ e ∨ m % 2 ^ (-e).toNat = 0) ∧
    (if 0 ≤ e then (m : Int) * 2 ^ e.toNat else (m / 2 ^ (-e).toNat : Nat)) = a := by
  by_cases he : 0 ≤ e
  · obtain ⟨j, rfl⟩ := Int.eq_ofNat_of_zero_le he
    rw [zpow_natCast] at h
    exact ⟨.inl he, by rw [if_pos he, Int.toNat_natCast]; exact_mod_cast h⟩
  · obtain ⟨j, hj⟩ : ∃ j : Nat, -e = j := ⟨(-e).toNat, by omega⟩
    obtain rfl : e = -j := by omega
    have hm : m = a * 2 ^ j := by
      rw [zpow_neg, zpow_natCast, ← div_eq_mul_inv, div_eq_iff (by positivity)] at h
      exact_mod_cast h
    rw [if_neg he, neg_neg, Int.toNat_natCast, hm, Nat.mul_mod_left, Nat.mul_div_cancel _ (Nat.two_pow_pos j)]
    exact ⟨.inr rfl, rfl⟩

section
variable {x : Nat} (hx : number fp32 x = true)
include hx

theorem rcp_two_zpow {k : Int} (n : Bool) (hv : valueOf fp32 x = (if n then -1 else 1) * 2 ^ k) (hlo : -126 ≤ -k) (hhi : -k ≤ 127) :
    number fp32 (approx32 0 x) = true ∧ valueOf fp32 (approx32 0 x) = (if n then -1 else 1) * 2 ^ (-k) := by
  obtain ⟨m, e, hdec, hm, hmag, -⟩ := decode_fp32_of_value hx (by positivity) hv
  have hpow : powTwo m e = some k := (powTwo_eq hm e k).mpr (by rw [hmag]; push_cast; rfl)
  rw [approx32_of_exact hdec hm (by simp) (r := fp32Of (.fin n 1 (-k) false)) (by simp [approxExact, hpow, hlo])]
  exact fp32Of_two_zpow (by omega) hhi n

theorem rsq_four_zpow {k : Int} (hv : valueOf fp32 x = 4 ^ k) :
    number fp32 (approx32 1 x) = true ∧ valueOf fp32 (approx32 1 x) = 2 ^ (-k) := by
  have hfour : (4 : ℚ) ^ k = 2 ^ (2 * k) := by rw [zpow_mul]; norm_num
  obtain ⟨m, e, hdec, hm, hmag, hlow, hhigh⟩ := decode_fp32_of_value hx (n := false) (t := 2 ^ (2 * k)) (by positivity) (by simpa [hfour] using hv)
  push_cast at hmag hlow hhigh
  have hlow' : -149 ≤ 2 * k := (zpow_le_zpow_iff_right₀ (by norm_num)).mp hlow
  have hhigh' : 2 * k < 131 := (zpow_lt_zpow_iff_right₀ (by norm_num)).mp hhigh
  have hpow : powTwo m e = some (2 * k) := (powTwo_eq hm e _).mpr hmag
  have hhalf : -(2 * k) / 2 = -k := by omega
  rw [approx32_of_exact hdec hm (by simp) (r := fp32Of (.fin false 1 (-k) false)) (by simp [approxExact, hpow, hhalf])]
  simpa using fp32Of_two_zpow (k := -k) (by omega) (by omega) false

theorem exp2_int {k : Int} (hx0 : valueOf fp32 x ≠ 0) (hv : valueOf fp32 x = k) (hlo : -149 ≤ k) (hhi : k ≤ 127) :
    number fp32 (approx32 2 x) = true ∧ valueOf fp32 (approx32 2 x) = 2 ^ k := by
  have hk : k ≠ 0 := by rintro rfl; simp [hv] at hx0
  have hkabs : (0 : ℚ) < k.natAbs := by exact_mod_cast Int.natAbs_pos.mpr hk
  have hsigned : (if decide (k < 0) then -(k.natAbs : Int) else k.natAbs) = k := by
    simp only [decide_eq_true_eq]
    split <;> omega
  obtain ⟨m, e, hdec, hm, hmag, -⟩ := decode_fp32_of_value hx (n := decide (k < 0)) hkabs (by
    have : ((if decide (k < 0) then -(k.natAbs : Int) else k.natAbs : Int) : ℚ) = k := by rw [hsigned]
    rw [hv, ← this]
    split <;> simp)
  have hexact : approxExact 2 (decide (k < 0)) m e = some (fp32Of (.fin false 1 k false)) := by
    obtain ⟨hwhole, hint⟩ := whole_magnitude (a := k.natAbs) (by rw [hmag]; push_cast; rfl)
    simp only [approxExact, hint, hsigned]
    simp [hwhole, hlo, hhi]
  rw [approx32_of_exact hdec hm (by simp) hexact]
  simpa using fp32Of_two_zpow hlo hhi false

theorem log2_two_zpow {k : Int} (hv : valueOf fp32 x = 2 ^ k) :
    number fp32 (approx32 3 x) = true ∧ valueOf fp32 (approx32 3 x) = k := by
  obtain ⟨m, e, hdec, hm, hmag, hlow, hhigh⟩ := decode_fp32_of_value hx (n := false) (t := 2 ^ k) (by positivity) (by simpa using hv)
  push_cast at hmag hlow hhigh
  have hlow' : -149 ≤ k := (zpow_le_zpow_iff_right₀ (by norm_num)).mp hlow
  have hhigh' : k < 131 := (zpow_lt_zpow_iff_right₀ (by norm_num)).mp hhigh
  have hpow : powTwo m e = some k := (powTwo_eq hm e k).mpr hmag
  rw [approx32_of_exact hdec hm (by simp) (r := fp32Of (ofInt k 0 false)) (by simp [approxExact, hpow])]
  exact fp32Of_int (by omega)

end

end Sys2Proof.Machine

namespace Sys2Proof.Machine
open Claims

/-! ### The narrower formats (R139) -/

/-- The element formats narrower than fp32. -/
def Narrow (t : Ty) : Prop := t = 10 ∨ t = 11

theorem Narrow.fmtOf {t : Ty} (ht : Narrow t) : fmtOf t = fp16 ∨ fmtOf t = bf16 := by
  rcases ht with rfl | rfl
  · exact .inl rfl
  · exact .inr rfl

theorem Narrow.computes {t : Ty} (ht : Narrow t) : (Machine.fmtOf t).Computes := .inr (.inr ht.fmtOf)

theorem approxElem_fp32 (op x : Nat) : approxElem op 12 x = approx32 op x := if_pos rfl

theorem approxElem_narrow {t : Ty} (ht : Narrow t) (op x : Nat) : approxElem op t x =
    (fmtOf t).round 0 false (fp32.decode (approx32 op (fp32.round 0 false ((fmtOf t).decode x)))) := by
  rcases ht with rfl | rfl <;> exact if_neg (by decide)

/-- Every number of fp16 and bf16 is held exactly in fp32. -/
theorem widen_exact {p : Fmt} (hp : p = fp16 ∨ p = bf16) {x : Nat} (hx : number p x = true) :
    number fp32 (fp32.round 0 false (p.decode x)) = true ∧ valueOf fp32 (fp32.round 0 false (p.decode x)) = valueOf p x ∧
    signOf fp32 (fp32.round 0 false (p.decode x)) = signOf p x := by
  have hs : p.Sound := Fmt.Computes.sound (.inr (.inr hp))
  have hfits : 2 ^ (p.fb + 1) ≤ 2 ^ (fp32.fb + 1) ∧ fp32.lsb ≤ p.lsb ∧ p.val (p.maxFinite + 1) ≤ fp32.val (fp32.maxFinite + 1) := by
    have hplain : p.e4 = false := by rcases hp with rfl | rfl <;> rfl
    rw [(val_maxFinite_plain hs hplain).1, val_overflow_fp32]
    rcases hp with rfl | rfl
    · exact ⟨by decide, by decide, by norm_num [fp16]⟩
    · exact ⟨by decide, by decide, by norm_num [bf16]⟩
  obtain ⟨m, e, hdec, hval, hm, hlo, -⟩ := decode_number hs hx
  have hmax : p.val (x % 2 ^ (p.eb + p.fb)) < p.val (p.maxFinite + 1) := p.val_strictMono (Nat.lt_succ_of_le ((number_iff hs x).mp hx))
  obtain ⟨hnum, hsign, hv⟩ := round_exact sound_fp32 (hm.trans_le hfits.1) (hfits.2.1.trans hlo) ((hval ▸ hmax).trans_le hfits.2.2) 0 false (signOf p x)
  rw [hdec]
  exact ⟨hnum, hv.trans (exact_eq_valueOf hs hval), hsign⟩

/-- An fp32 result rounded once more, into a narrower format. -/
theorem narrow_number {p : Fmt} (hp : p.Computes) {r : Nat} (hr : number fp32 r = true) :
    Rounded p 0 (signOf fp32 r) ((valueOf fp32 r : ℚ) : ℝ) (p.round 0 false (fp32.decode r)) := by
  obtain ⟨m, e, hdec, hval⟩ := decode_exact sound_fp32 hr
  rw [hdec, ← hval]
  exact rounded_exact hp.sound 0 _ m e

theorem narrow_special (p : Fmt) {r : Nat} (hr : number fp32 r = false) :
    p.round 0 false (fp32.decode r) = if fp32.decode r = .nan then p.nan else infinite p (signOf fp32 r) := by
  rcases decode_inf_or_nan sound_fp32 hr with hd | hd <;> simp [hd, infOf_eq, Fmt.round]

/-- An infinity, a NaN or a zero: what every format of the vector unit holds. -/
def FVal.Special (v : FVal) : Prop := v = .nan ∨ (∃ n, v = .inf n) ∨ ∃ n e, v = .fin n 0 e false

theorem decodedAs_zero {p : Fmt} (hp : p.Sound) {x : Nat} {n : Bool} {e : Int} (h : p.decode x = .fin n 0 e false) (e' : Int) :
    DecodedAs p x (.fin n 0 e' false) := by
  obtain ⟨hnum, hn, -⟩ := decode_fin_st hp h
  obtain ⟨m, e₁, hdec, hval⟩ := decode_exact hp hnum
  obtain rfl : 0 = m := by
    rw [h, FVal.fin.injEq] at hdec
    exact hdec.2.1
  rw [DecodedAs, if_pos hnum, ← hval, hn]
  exact ⟨0, e', rfl, by simp [exact]⟩

/-- Special values round to themselves. -/
theorem decodedAs_round_special {p : Fmt} (hp : p.Computes) {v : FVal} (hv : v.Special) : DecodedAs p (p.round 0 false v) v := by
  rcases hv with rfl | ⟨n, rfl⟩ | ⟨n, e, rfl⟩
  · have hnan : p.decode p.nan = .nan := by rcases hp with rfl | rfl | rfl | rfl <;> decide
    have h := decodedAs_decode hp.sound p.nan
    rw [hnan] at h
    exact h
  · have h := decodedAs_decode hp.sound (infinite p n)
    rw [decode_infinite hp n] at h
    rw [round_inf]
    exact h
  · rw [round_zero]
    cases n with
    | true => exact decodedAs_zero hp.sound (decode_signBit hp) e
    | false =>
      have h0 : p.decode 0 = .fin false 0 p.lsb false := by rcases hp with rfl | rfl | rfl | rfl <;> decide
      exact decodedAs_zero hp.sound h0 e

/-- The results for infinities and NaN are special (Table 6.10). -/
theorem approx32_of_special {y : Nat} (hy : (fp32.decode y).isFin = false) (op : Nat) : (fp32.decode (approx32 op y)).Special := by
  have hnan : (fp32.decode fp32.nan).Special := .inl (by decide)
  have hzero : (fp32.decode 0).Special := .inr (.inr ⟨false, fp32.lsb, by decide⟩)
  have hsign : (fp32.decode fp32.signBit).Special := .inr (.inr ⟨true, fp32.lsb, by decide⟩)
  have hinf : (fp32.decode (fp32.infOf false false)).Special := .inr (.inl ⟨false, by decide⟩)
  rcases FVal.not_fin hy with h | ⟨n, h⟩
  · rw [approx32_nan (by simp [h, FVal.isNan])]
    exact hnan
  · have hresult : approx32 op y = fp32.nan ∨ approx32 op y = 0 ∨ approx32 op y = fp32.signBit ∨ approx32 op y = fp32.infOf false false := by
      rcases op with _ | _ | _ | op <;> cases n <;> simp [approx32, h]
    rcases hresult with h | h | h | h <;> rw [h] <;> assumption

/-- Operands that are infinities or NaN are widened and narrowed as what they are. -/
theorem narrow_decoded {p : Fmt} (hp : p.Computes) {x : Nat} (hx : number p x = false) (op : Nat) :
    DecodedAs fp32 (fp32.round 0 false (p.decode x)) (p.decode x) ∧
    DecodedAs p (p.round 0 false (fp32.decode (approx32 op (fp32.round 0 false (p.decode x)))))
      (fp32.decode (approx32 op (fp32.round 0 false (p.decode x)))) := by
  have hfp32 : fp32.Computes := .inr (.inl rfl)
  have hv : (p.decode x).Special := (decode_inf_or_nan hp.sound hx).elim (fun h => .inr (.inl ⟨_, h⟩)) .inl
  have hwide : (fp32.decode (fp32.round 0 false (p.decode x))).isFin = false := by
    rcases decode_inf_or_nan hp.sound hx with h | h
    · rw [h, round_inf, if_neg Bool.false_ne_true, decode_infinite hfp32]
      rfl
    · rw [h, Fmt.round, show fp32.decode fp32.nan = .nan by decide]
      rfl
  exact ⟨decodedAs_round_special hfp32 hv, decodedAs_round_special hp (approx32_of_special hwide op)⟩

end Sys2Proof.Machine

namespace Sys2Proof.Machine
open Claims

/-- R97 to R107: what each format's operations give. -/
theorem float_results {p : Fmt} (hp : p.Computes) (rm : Rm) {x y z : Nat} (hx : number p x = true) (hy : number p y = true) (hz : number p z = true) :
    let v := fun x => ((valueOf p x : ℚ) : ℝ)
    let sg := signOf p
    (∃ n, SumSign rm (sg x) (sg y) (v x + v y) n ∧ Rounded p rm n (v x + v y) (p.addBits rm x y)) ∧
    (∃ n, SumSign rm (sg x) (!sg y) (v x - v y) n ∧ Rounded p rm n (v x - v y) (p.subBits rm x y)) ∧
    Rounded p rm (sg x != sg y) (v x * v y) (p.mulBits rm x y) ∧
    (∃ n, SumSign rm (sg x != sg y) (sg z) (v x * v y + v z) n ∧ Rounded p rm n (v x * v y + v z) (p.fmaBits rm x y z)) ∧
    (v y ≠ 0 → Rounded p rm (sg x != sg y) (v x / v y) (p.divBits rm x y)) ∧
    (0 < v x → Rounded p rm false (Real.sqrt (v x)) (p.sqrtBits rm x)) :=
  ⟨addBits_rounded hp.sound rm hx hy, subBits_rounded hp.sound rm hx hy, mulBits_rounded hp.sound rm hx hy, fmaBits_rounded hp.sound rm hx hy hz,
    divBits_rounded hp.sound rm hx hy, sqrtBits_rounded hp.sound rm hx⟩

/-- The result lies within the bound b, or is the infinity beyond the range. -/
theorem Near.of_bound {op r : Nat} {y b : ℝ} (h : Near op r y) (hb : boundAt op (ulp32 y) = b) :
    (|y| ≤ ((greatestFinite fp32 : ℚ) : ℝ) → number fp32 r = true ∧ |((valueOf fp32 r : ℚ) : ℝ) - y| ≤ b) ∧
    (2 ^ 128 ≤ |y| → r = infinite fp32 (decide (y < 0))) := hb ▸ h

end Sys2Proof.Machine

namespace Sys2Proof
open Machine Claims

/-- Settles O21: the operations' values are exact or end in a part below that stands for the rest, so one rounding decides; the approximate
functions' references lie within their slack of the exact value. -/
theorem floatAndApproximateSpecialCases : Obligations.FloatAndApproximateSpecialCases := by
  refine ⟨fun p rm hp => ?_, ⟨approx32_rcp_special, approx32_rsq_special, approx32_exp2_special, approx32_log2_special,
    fun x h op => approx32_nan h op, fun x => approx32_negative⟩, fun x hx hx0 => ?_, fun t op x ht => ?_, approxElem_fp32⟩
  · exact ⟨fun x hx hnan => round_decode_self (Fmt.Computes.sound hp) (Fmt.Computes.plain hp) hx hnan rm, fun x y z h => nan_operands rm h y z,
      infinity_minus_infinity rm hp, fun x y => zero_times_nonfinite rm, fun x y => zero_over_zero rm, fun x y => nonfinite_over_nonfinite rm,
      fun x y => nonzero_over_zero rm hp, fun x => sqrt_negative rm hp, (sqrt_special rm hp).1, (sqrt_special rm hp).2.1, (sqrt_special rm hp).2.2,
      fun n x => infinity_plus rm hp n, fun n x _ => infinity_times rm hp n, fun n x => infinity_over rm hp n,
      fun x y z => float_results hp rm⟩
  · refine ⟨(near_rcp hx hx0).of_bound (by simp [boundAt, ulp32]), (near_exp2 hx hx0).of_bound (by simp [boundAt, ulp32]),
      fun hpos => ⟨(near_rsq hx hpos).of_bound (by simp [boundAt, ulp32]), (near_log2 hx hpos).of_bound (by simp [boundAt, ulp32])⟩,
      fun k => ⟨rcp_two_zpow hx, rsq_four_zpow hx, exp2_int hx hx0, log2_two_zpow hx⟩⟩
  · have hp := Narrow.computes ht
    dsimp only
    rw [approxElem_narrow ht]
    split
    · next hnum =>
      obtain ⟨hy, hv, hs⟩ := widen_exact (Narrow.fmtOf ht) hnum
      refine ⟨_, hy, hv, hs, ?_⟩
      split
      · next hr => exact narrow_number hp hr
      · next hr => exact narrow_special _ (by simpa using hr)
    · next hnum => exact ⟨_, narrow_decoded hp (by simpa using hnum) op⟩

end Sys2Proof

/-! PROOFS. The results of the scalar integer, immediate and predicate instructions (R124 to R127, Tables 6.2 to 6.4). -/
namespace Sys2Proof.Machine
open Claims

/-! ### Words as numbers (R124) -/

theorem mul_eq_ofNat (x y : Word) : x * y = BitVec.ofNat 64 (x.toNat * y.toNat) :=
  BitVec.eq_of_toNat_eq (by simp [BitVec.toNat_mul])

theorem sub_eq_ofInt (x y : Word) : x - y = BitVec.ofInt 64 (x.toInt - y.toInt) :=
  BitVec.eq_of_toInt_eq (by rw [BitVec.toInt_sub, BitVec.toInt_ofInt])

/-- The high half of a double word is its value divided by 2^64, whichever sign it has. -/
theorem high_half_eq_ofInt (p : BitVec 128) : (p >>> 64).setWidth 64 = BitVec.ofInt 64 (p.toInt / 2 ^ 64) := by
  have hval := BitVec.toInt_eq_toNat_cond p
  have hlt := p.isLt
  apply BitVec.eq_of_toNat_eq
  rw [BitVec.toNat_setWidth, BitVec.toNat_ushiftRight, BitVec.toNat_ofInt, Nat.shiftRight_eq_div_pow]
  split at hval <;> omega

theorem mulHigh_eq (x y : Word) : mulHigh x y = BitVec.ofInt 64 (x.toInt * y.toInt / 2 ^ 64) := by
  have hexact : (x.signExtend 128 * y.signExtend 128).toInt = x.toInt * y.toInt := by
    have hx : |x.toInt| ≤ 2 ^ 63 := abs_le.mpr ⟨x.le_toInt, le_of_lt x.toInt_lt⟩
    have hy : |y.toInt| ≤ 2 ^ 63 := abs_le.mpr ⟨y.le_toInt, le_of_lt y.toInt_lt⟩
    have hxy : |x.toInt * y.toInt| ≤ 2 ^ 63 * 2 ^ 63 := by
      rw [abs_mul]
      exact mul_le_mul hx hy (abs_nonneg _) (by norm_num)
    obtain ⟨hlow, hhigh⟩ := abs_le.mp hxy
    rw [BitVec.toInt_mul, BitVec.toInt_signExtend_of_le (by norm_num), BitVec.toInt_signExtend_of_le (by norm_num)]
    exact Int.bmod_eq_of_le (by norm_num at hlow ⊢; omega) (by norm_num at hhigh ⊢; omega)
  rw [mulHigh, high_half_eq_ofInt, hexact]

theorem mulHighN_eq (x y : Word) : mulHighN x y = BitVec.ofNat 64 (x.toNat * y.toNat / 2 ^ 64) := by
  have hfit : x.toNat * y.toNat < 2 ^ 128 := by
    have := Nat.mul_lt_mul'' x.isLt y.isLt
    rwa [← Nat.pow_add] at this
  have hx : (x.setWidth 128).toNat = x.toNat := BitVec.toNat_setWidth_of_le (by norm_num)
  have hy : (y.setWidth 128).toNat = y.toNat := BitVec.toNat_setWidth_of_le (by norm_num)
  apply BitVec.eq_of_toNat_eq
  rw [mulHighN, BitVec.toNat_setWidth, BitVec.toNat_ushiftRight, BitVec.toNat_mul, hx, hy, Nat.mod_eq_of_lt hfit,
    Nat.shiftRight_eq_div_pow, BitVec.toNat_ofNat]

theorem divSigned_eq (x y : Word) :
    divSigned x y = if y = 0 then BitVec.allOnes 64 else BitVec.ofInt 64 (x.toInt.tdiv y.toInt) := by
  have hdiv : x.sdiv y = BitVec.ofInt 64 (x.toInt.tdiv y.toInt) :=
    BitVec.eq_of_toInt_eq (by rw [BitVec.toInt_sdiv, BitVec.toInt_ofInt])
  rw [divSigned, hdiv]

theorem divUnsigned_eq (x y : Word) :
    divUnsigned x y = if y = 0 then BitVec.allOnes 64 else BitVec.ofNat 64 (x.toNat / y.toNat) := by
  rw [divUnsigned, ← BitVec.toNat_udiv, BitVec.ofNat_toNat, BitVec.setWidth_eq]

theorem remSigned_eq (x y : Word) : remSigned x y = if y = 0 then x else BitVec.ofInt 64 (x.toInt.tmod y.toInt) := by
  rw [remSigned, ← BitVec.toInt_srem, BitVec.ofInt_toInt]

theorem remUnsigned_eq (x y : Word) : remUnsigned x y = if y = 0 then x else BitVec.ofNat 64 (x.toNat % y.toNat) := by
  rw [remUnsigned, ← BitVec.toNat_umod, BitVec.ofNat_toNat, BitVec.setWidth_eq]

theorem shiftLeft_eq_ofNat (x : Word) (n : Nat) : x <<< n = BitVec.ofNat 64 (x.toNat * 2 ^ n) :=
  BitVec.eq_of_toNat_eq (by rw [BitVec.toNat_shiftLeft, BitVec.toNat_ofNat, Nat.shiftLeft_eq])

theorem ushiftRight_eq_ofNat (x : Word) (n : Nat) : x >>> n = BitVec.ofNat 64 (x.toNat / 2 ^ n) := by
  rw [← Nat.shiftRight_eq_div_pow, ← BitVec.toNat_ushiftRight, BitVec.ofNat_toNat, BitVec.setWidth_eq]

theorem sshiftRight_eq_ofInt (x : Word) (n : Nat) : x.sshiftRight n = BitVec.ofInt 64 (x.toInt / 2 ^ n) := by
  have hpow : ((2 ^ n : Nat) : Int) = 2 ^ n := by push_cast; rfl
  rw [← hpow, ← Int.shiftRight_eq_div_pow, ← BitVec.toInt_sshiftRight, BitVec.ofInt_toInt]

/-- A rotation adds the bits pushed out at the top back in at the bottom. -/
theorem rotateLeft_eq_ofNat (x : Word) {k : Nat} (hk : k < 64) :
    x.rotateLeft k = BitVec.ofNat 64 (x.toNat * 2 ^ k + x.toNat / 2 ^ (64 - k)) := by
  have hsplit : 2 ^ 64 = 2 ^ (64 - k) * 2 ^ k := by rw [← Nat.pow_add]; congr 1; omega
  have hlow : x.toNat / 2 ^ (64 - k) < 2 ^ k := Nat.div_lt_of_lt_mul (hsplit ▸ x.isLt)
  have htop : x.toNat * 2 ^ k % 2 ^ 64 = (x.toNat % 2 ^ (64 - k)) <<< k := by
    rw [hsplit, Nat.mul_mod_mul_right, Nat.shiftLeft_eq]
  have hfit : (x.toNat % 2 ^ (64 - k)) <<< k + x.toNat / 2 ^ (64 - k) < 2 ^ 64 := by
    have hmod : x.toNat % 2 ^ (64 - k) + 1 ≤ 2 ^ (64 - k) := Nat.mod_lt _ (Nat.two_pow_pos _)
    rw [Nat.shiftLeft_eq, hsplit]
    calc _ < (x.toNat % 2 ^ (64 - k) + 1) * 2 ^ k := by rw [Nat.succ_mul]; omega
      _ ≤ _ := Nat.mul_le_mul_right _ hmod
  apply BitVec.eq_of_toNat_eq
  rw [BitVec.toNat_rotateLeft, Nat.mod_eq_of_lt hk, Nat.shiftLeft_eq, Nat.shiftRight_eq_div_pow, htop,
    ← Nat.shiftLeft_add_eq_or_of_lt hlow, BitVec.toNat_ofNat, ← Nat.mod_add_mod, htop, Nat.mod_eq_of_lt hfit]

theorem add_shifted_eq (x y : Word) (n : Nat) : x + y <<< n = BitVec.ofNat 64 (x.toNat + y.toNat * 2 ^ n) := by
  rw [shiftLeft_eq_ofNat, BitVec.ofNat_add, BitVec.ofNat_toNat, BitVec.setWidth_eq]

theorem mul_add_eq (x y z : Word) : x * y + z = BitVec.ofNat 64 (x.toNat * y.toNat + z.toNat) := by
  rw [mul_eq_ofNat, BitVec.ofNat_add, BitVec.ofNat_toNat, BitVec.setWidth_eq]

/-! ### Immediates (R125): an extended immediate is the word of its value -/

theorem add_signExtend_eq (x : Word) (i : BitVec 32) : x + i.signExtend 64 = BitVec.ofInt 64 (x.toInt + i.toInt) := by
  rw [BitVec.ofInt_add, BitVec.ofInt_toInt]
  rfl

theorem mul_signExtend_eq (x : Word) (i : BitVec 32) : x * i.signExtend 64 = BitVec.ofInt 64 (x.toInt * i.toInt) := by
  rw [BitVec.ofInt_mul, BitVec.ofInt_toInt]
  rfl

theorem append_low_eq (x : Word) (i : BitVec 32) : i ++ x.setWidth 32 = BitVec.ofNat 64 (i.toNat * 2 ^ 32 + x.toNat % 2 ^ 32) := by
  have hi := i.isLt
  apply BitVec.eq_of_toNat_eq
  rw [BitVec.toNat_append, BitVec.toNat_setWidth, ← Nat.shiftLeft_add_eq_or_of_lt (Nat.mod_lt _ (by norm_num)), BitVec.toNat_ofNat,
    Nat.shiftLeft_eq]
  omega

/-! ### The lesser and the greater of two words -/

theorem minSigned_eq (x y : Word) : minSigned x y = if x.toInt < y.toInt then x else y := by
  simp only [minSigned, BitVec.slt_eq_decide, decide_eq_true_eq]
theorem maxSigned_eq (x y : Word) : maxSigned x y = if x.toInt < y.toInt then y else x := by
  simp only [maxSigned, BitVec.slt_eq_decide, decide_eq_true_eq]
theorem minUnsigned_eq (x y : Word) : minUnsigned x y = if x.toNat < y.toNat then x else y := by
  simp only [minUnsigned, BitVec.ult_eq_decide, decide_eq_true_eq]
theorem maxUnsigned_eq (x y : Word) : maxUnsigned x y = if x.toNat < y.toNat then y else x := by
  simp only [maxUnsigned, BitVec.ult_eq_decide, decide_eq_true_eq]

/-! ### Counted zeros -/

/-- What a run of elements that pass a test is: they pass, and the one behind the run does not. -/
theorem length_takeWhile_spec {α : Type} (p : α → Bool) (l : List α) :
    (∀ i (h : i < l.length), i < (l.takeWhile p).length → p l[i] = true) ∧
    ∀ h : (l.takeWhile p).length < l.length, p l[(l.takeWhile p).length] = false := by
  induction l with
  | nil => simp
  | cons a l ih =>
    obtain ⟨hrun, hend⟩ := ih
    cases ha : p a with
    | false => simp [ha]
    | true =>
      simp only [List.takeWhile_cons, ha, if_true, List.length_cons, List.getElem_cons_succ, Nat.add_lt_add_iff_right]
      refine ⟨fun i h hi => ?_, hend⟩
      cases i with
      | zero => exact ha
      | succ i => exact hrun i (by omega) (by simpa using hi)

/-- The zeros above the topmost one bit of a number below 2^w bound it from both sides. -/
theorem leading_zeros_bounds {w x : Nat} (hx : x < 2 ^ w) {n : Nat} (hn : n = ((List.range w).reverse.takeWhile fun i => !x.testBit i).length) :
    n ≤ w ∧ x < 2 ^ (w - n) ∧ (n < w → 2 ^ (w - 1 - n) ≤ x) := by
  obtain ⟨hrun, hend⟩ := length_takeWhile_spec (fun i => !x.testBit i) (List.range w).reverse
  rw [← hn] at hrun hend
  simp only [List.length_reverse, List.length_range, List.getElem_reverse, List.getElem_range, Bool.not_eq_true', Bool.not_eq_false'] at hrun hend
  have hle : n ≤ w := by
    rw [hn]
    simpa using (List.takeWhile_sublist _).length_le (l₂ := (List.range w).reverse)
  refine ⟨hle, Nat.lt_pow_two_of_testBit _ fun i hi => ?_, fun hlt => Nat.ge_two_pow_of_testBit (hend hlt)⟩
  by_cases hw : i < w
  · have h := hrun (w - 1 - i) (by omega) (by omega)
    rwa [show w - 1 - (w - 1 - i) = i by omega] at h
  · exact Nat.testBit_lt_two_pow (hx.trans_le (Nat.pow_le_pow_right (by norm_num) (by omega)))

theorem leadZeros_spec (x : Word) : leadZeros x ≤ 64 ∧ x.toNat < 2 ^ (64 - leadZeros x) ∧ (leadZeros x < 64 → 2 ^ (63 - leadZeros x) ≤ x.toNat) :=
  leading_zeros_bounds x.isLt rfl

theorem trailZeros_spec (x : Word) : trailZeros x ≤ 64 ∧ 2 ^ trailZeros x ∣ x.toNat ∧ (trailZeros x < 64 → x.getLsbD (trailZeros x) = true) := by
  obtain ⟨hrun, hend⟩ := length_takeWhile_spec (fun i => !x.getLsbD i) (List.range 64)
  have hle : trailZeros x ≤ 64 := (List.takeWhile_sublist _).length_le.trans_eq List.length_range
  change (∀ i h, i < trailZeros x → _) at hrun
  change ∀ h : trailZeros x < _, (!x.getLsbD ((List.range 64)[trailZeros x])) = false at hend
  simp only [List.length_range, List.getElem_range, Bool.not_eq_true', Bool.not_eq_false'] at hrun hend
  refine ⟨hle, Nat.dvd_of_mod_eq_zero (Nat.eq_of_testBit_eq fun i => ?_), hend⟩
  rw [Nat.testBit_mod_two_pow, Nat.zero_testBit]
  by_cases hi : i < trailZeros x
  · simp only [hi, decide_true, Bool.true_and]
    exact hrun i (by omega) hi
  · simp [hi]

/-! ### Bit fields -/

theorem fieldPos_eq (y : Word) : fieldPos y = y.toNat % 64 := by simp [fieldPos, wbits, bitsOf]
theorem fieldLen_eq (y : Word) : fieldLen y = y.toNat / 256 % 64 + 1 := by
  simp [fieldLen, wbits, bitsOf, Nat.shiftRight_eq_div_pow]

theorem getLsbD_lowMask {n i : Nat} (hi : i < 64) : (lowMask n).getLsbD i = decide (i < n) := by
  rw [lowMask, BitVec.getLsbD_ofNat, Nat.testBit_two_pow_sub_one, decide_eq_true hi, Bool.true_and]

theorem bitExtract_eq (x y : Word) :
    bitExtract x y = BitVec.ofNat 64 (x.toNat / 2 ^ (y.toNat % 64) % 2 ^ (y.toNat / 256 % 64 + 1)) := by
  apply BitVec.eq_of_getLsbD_eq
  intro i hi
  rw [bitExtract, BitVec.getLsbD_and, getLsbD_lowMask hi, BitVec.getLsbD_ofNat, ← fieldPos_eq, ← fieldLen_eq, Nat.testBit_mod_two_pow,
    ← Nat.shiftRight_eq_div_pow, ← BitVec.toNat_ushiftRight]
  simp [hi, BitVec.getLsbD, Bool.and_comm]

theorem getLsbD_bitInsert (x y z : Word) {i : Nat} (hi : i < 64) : (bitInsert x y z).getLsbD i =
    if z.toNat % 64 ≤ i ∧ i < z.toNat % 64 + (z.toNat / 256 % 64 + 1) then y.getLsbD (i - z.toNat % 64) else x.getLsbD i := by
  rw [← fieldPos_eq, ← fieldLen_eq]
  have hi' : i - fieldPos z < 64 := by omega
  simp only [bitInsert, BitVec.getLsbD_or, BitVec.getLsbD_and, BitVec.getLsbD_not, BitVec.getLsbD_shiftLeft, getLsbD_lowMask hi', hi, decide_true,
    Bool.true_and]
  by_cases hlow : fieldPos z ≤ i <;> by_cases hhigh : i < fieldPos z + fieldLen z
  · have hin : i - fieldPos z < fieldLen z := by omega
    simp [hlow, hhigh, hin, Nat.not_lt.mpr hlow]
  · have hout : ¬ i - fieldPos z < fieldLen z := by omega
    simp [hhigh, hout]
  · simp [hlow, Nat.lt_of_not_le hlow]
  · simp [hlow, Nat.lt_of_not_le hlow]

/-! ### The compare conditions (Table 6.4) -/

theorem cond_cases (c : BitVec 3) : c = 0 ∨ c = 1 ∨ c = 2 ∨ c = 3 ∨ c = 4 ∨ c = 5 ∨ c = 6 ∨ c = 7 := by revert c; decide

theorem intCond_eq (cond : BitVec 3) (x y : Word) : intCond cond x y =
    if cond = 0 then decide (x = y) else if cond = 1 then decide (x ≠ y) else if cond = 2 then decide (x.toInt < y.toInt)
    else if cond = 3 then decide (x.toInt ≤ y.toInt) else if cond = 4 then decide (x.toNat < y.toNat)
    else if cond = 5 then decide (x.toNat ≤ y.toNat) else if cond = 6 then decide (x.toInt > y.toInt)
    else decide (x.toInt ≥ y.toInt) := by
  simp only [intCond, BitVec.slt_eq_decide, BitVec.sle_eq_decide, BitVec.ult_eq_decide, BitVec.ule_eq_decide]
  rcases cond_cases cond with rfl | rfl | rfl | rfl | rfl | rfl | rfl | rfl <;> simp <;> rfl

/-! ### Words that are no instruction of Table 6.3 (R69, R125) -/

/-- A word whose row is read, but that is not the word of what it names, holds a field that its row does not allow. -/
theorem decodeSlot_illegalField {sl : Slot} {w : BitVec 64} {i : Instr} (hread : readSlot sl w = some i) (h : encode i ≠ some w) :
    decodeSlot sl w = .illegalField := by
  simp [decodeSlot, legal, hread, h]

theorem decode_movi_sa {w : BitVec 64} (hop : fld w 56 8 = 0x27) (hsa : fld w 40 6 ≠ 0) : decodeSlot .a w = .illegalField := by
  have hread : readSlot .a w = some (.aMovi (predOf w) (fld w 46 6) (fld w 8 32)) := by
    rw [readSlot, readA, hop]
    rfl
  refine decodeSlot_illegalField hread fun henc => hsa ?_
  rw [encode, Option.some.injEq] at henc
  rw [← henc]
  simp (disch := decide) [putP, fld_or, fld_put_off, fld_put1_off]

/-- The word of a shift by an immediate holds nothing in imm32 above the amount. -/
theorem shift_word_above_amount (op : BitVec 8) (q : Pred) (d a : SReg) (n : BitVec 6) :
    fld (put 56 op ||| putP q ||| put 46 d ||| put 40 a ||| put 8 n) 14 26 = 0 := by
  simp (disch := decide) [putP, fld_or, fld_put_off, fld_put1_off]

theorem decode_shift_imm {w : BitVec 64} (hop : fld w 56 8 ∈ [0x24, 0x25, 0x26]) (himm : fld w 14 26 ≠ 0) : decodeSlot .a w = .illegalField := by
  have hne : ∀ {op : BitVec 8} {q : Pred} {d a : SReg} {n : BitVec 6},
      some (put 56 op ||| putP q ||| put 46 d ||| put 40 a ||| put 8 n) ≠ some w := by
    intro op q d a n henc
    rw [Option.some.injEq] at henc
    exact himm (henc ▸ shift_word_above_amount op q d a n)
  simp only [List.mem_cons, List.not_mem_nil, or_false] at hop
  rcases hop with hop | hop | hop
  · exact decodeSlot_illegalField (i := .aShli (predOf w) (fld w 46 6) (fld w 40 6) (fld w 8 6)) (by rw [readSlot, readA, hop]; rfl) hne
  · exact decodeSlot_illegalField (i := .aShri (predOf w) (fld w 46 6) (fld w 40 6) (fld w 8 6)) (by rw [readSlot, readA, hop]; rfl) hne
  · exact decodeSlot_illegalField (i := .aSari (predOf w) (fld w 46 6) (fld w 40 6) (fld w 8 6)) (by rw [readSlot, readA, hop]; rfl) hne

/-! ### Results under a predicate that holds (R119) -/

section
variable {s : State} {q : Pred} (hq : s.holds q = true)
include hq

theorem State.setS_gives {d : SReg} {x : Word} (f : State → Word) (h : f s = x) : s.setS q d f = .next (s.writeS d x) := by
  rw [State.setS, State.under_holds hq, h]

theorem State.alu_gives {d a b : SReg} {op : Word → Word → Word} {x : Word} (h : op (s.readS a) (s.readS b) = x) :
    s.alu q d a b op = .next (s.writeS d x) := State.setS_gives hq _ h

theorem State.aluImm_gives {d a : SReg} {i : BitVec 32} {op : Word → Word → Word} {x : Word} (h : op (s.readS a) (i.signExtend 64) = x) :
    s.aluImm q d a i op = .next (s.writeS d x) := State.setS_gives hq _ h

theorem State.setP_gives {d : PReg} {x : Bool} (f : State → Bool) (h : f s = x) : s.setP q d f = .next (s.writeP d x) := by
  rw [State.setP, State.under_holds hq, h]

end

end Sys2Proof.Machine

namespace Sys2Proof
open Machine Claims

/-- Settles O5: each AR instruction writes its function of the operands, and each such function is the number Table 6.2 gives. -/
theorem scalarIntegerResults : Obligations.ScalarIntegerResults := by
  intro q d a b c f s hq x y z
  have hpos : shAmount y < 64 := Nat.mod_lt _ (by norm_num)
  obtain ⟨hclz, hclz_spec⟩ := leadZeros_spec x
  obtain ⟨hctz, hctz_spec⟩ := trailZeros_spec x
  have hpopc : popCount x = (List.range 64).countP x.getLsbD := List.countP_eq_length_filter.symm
  exact ⟨State.alu_gives hq (BitVec.add_def x y), State.alu_gives hq (sub_eq_ofInt x y), State.alu_gives hq (mul_eq_ofNat x y),
    State.alu_gives hq (mulHigh_eq x y), State.alu_gives hq (mulHighN_eq x y), State.alu_gives hq (divSigned_eq x y),
    State.alu_gives hq (divUnsigned_eq x y), State.alu_gives hq (remSigned_eq x y), State.alu_gives hq (remUnsigned_eq x y),
    State.alu_gives hq rfl, State.alu_gives hq rfl, State.alu_gives hq rfl, State.alu_gives hq (op := fun x y => x &&& ~~~y) rfl,
    State.alu_gives hq (op := fun x y => x <<< shAmount y) (shiftLeft_eq_ofNat x _),
    State.alu_gives hq (op := fun x y => x >>> shAmount y) (ushiftRight_eq_ofNat x _),
    State.alu_gives hq (op := fun x y => x.sshiftRight (shAmount y)) (sshiftRight_eq_ofInt x _),
    State.alu_gives hq (op := fun x y => x.rotateLeft (shAmount y)) (rotateLeft_eq_ofNat x hpos),
    State.alu_gives hq (minSigned_eq x y), State.alu_gives hq (maxSigned_eq x y), State.alu_gives hq (minUnsigned_eq x y),
    State.alu_gives hq (maxUnsigned_eq x y),
    State.setS_gives hq (fun s => if s.readS c = 0 then s.readS b else s.readS a) (ite_not (z = 0) x y).symm,
    State.setS_gives hq (fun s => BitVec.ofNat 64 (popCount (s.readS a))) (congrArg _ hpopc),
    ⟨leadZeros x, hclz, State.setS_gives hq (fun s => BitVec.ofNat 64 (leadZeros (s.readS a))) rfl, hclz_spec⟩,
    ⟨trailZeros x, hctz, State.setS_gives hq (fun s => BitVec.ofNat 64 (trailZeros (s.readS a))) rfl, hctz_spec⟩,
    State.alu_gives hq (bitExtract_eq x y),
    ⟨bitInsert x y z, State.setS_gives hq (fun s => bitInsert (s.readS a) (s.readS b) (s.readS c)) rfl, fun _ => getLsbD_bitInsert x y z⟩,
    State.alu_gives hq (op := fun x y => x + y <<< f.toNat) (add_shifted_eq x y _),
    State.setS_gives hq (fun s => s.readS a * s.readS b + s.readS c) (mul_add_eq x y z)⟩

/-- Settles O6: the immediate instructions are those of Table 6.2 on the extended immediate, and a word with another field set is not the
word of what it names. -/
theorem scalarImmediateResults : Obligations.ScalarImmediateResults := by
  unfold Obligations.ScalarImmediateResults
  refine ⟨fun q d a i n s hq => ?_, fun w => decode_movi_sa, fun w => decode_shift_imm⟩
  exact ⟨State.aluImm_gives hq (add_signExtend_eq _ i), State.aluImm_gives hq rfl, State.aluImm_gives hq rfl, State.aluImm_gives hq rfl,
    State.setS_gives hq (fun s => s.readS a <<< n.toNat) (shiftLeft_eq_ofNat _ _),
    State.setS_gives hq (fun s => s.readS a >>> n.toNat) (ushiftRight_eq_ofNat _ _),
    State.setS_gives hq (fun s => (s.readS a).sshiftRight n.toNat) (sshiftRight_eq_ofInt _ _),
    State.setS_gives hq (fun _ => i.signExtend 64) rfl,
    State.setS_gives hq (fun s => i ++ (s.readS a).setWidth 32) (append_low_eq _ i),
    State.aluImm_gives hq (mul_signExtend_eq _ i)⟩

/-- Settles O7: the conditions are those of Table 6.4, on words or on an extended immediate. -/
theorem predicateResults : Obligations.PredicateResults := by
  intro q d a b i pa pb s hq table
  exact ⟨fun cond => State.setP_gives hq (fun s => intCond cond (s.readS a) (s.readS b)) (intCond_eq cond _ _),
    fun cond => State.setP_gives hq (fun s => intCond cond (s.readS a) (i.signExtend 64)) (intCond_eq cond _ _),
    State.setP_gives hq (fun s => s.readP pa && s.readP pb) rfl, State.setP_gives hq (fun s => s.readP pa || s.readP pb) rfl,
    State.setP_gives hq (fun s => s.readP pa != s.readP pb) rfl, State.setP_gives hq (fun s => !s.readP pa) rfl,
    State.setP_gives hq (fun s => (s.readS a).getLsbD (shAmount (s.readS b))) rfl⟩

end Sys2Proof

/-! PROOFS. Governed floating-point results (R119, R122, R123): the scalar instructions (R128 to R132) and the element-wise vector ones
(R138, R139). -/
namespace Sys2Proof.Machine
open Claims

/-! ### NONFINITE (R123) -/

theorem State.setF_quiet {s : State} {r : Nat} {v : FVal} {ops : List FVal} (h : fpBad s.readFpctl v ops = false) (d : SReg) :
    s.setF d r v ops = s.writeS d (BitVec.ofNat 64 r) := if_neg (by simp [h])

theorem State.setF_traps {s : State} {r : Nat} {v : FVal} {ops : List FVal} (h : fpBad s.readFpctl v ops = true) (d : SReg) :
    s.setF d r v ops = s.raise (trapNonfinite 0 r) := if_pos h

/-- A search among the elements for one that executes and is bad finds the lowest. -/
theorem find?_firstOf {s : State} {m : KReg} {w : Nat} {bad : Nat → Bool} {i : Nat} (h : firstOf s m w (fun i => bad i = true) i) :
    (List.range (elemCount w)).find? (fun i => runs s m w i && bad i) = some i := by
  obtain ⟨hi, hrun, hbad, hlow⟩ := h
  refine List.find?_range_eq_some.mpr ⟨by simp [hrun, hbad], List.mem_range.mpr hi, fun j hj => ?_⟩
  by_cases hrun' : runs s m w j = true
  · simp [Bool.eq_false_iff.mpr (hlow j hj hrun')]
  · simp [hrun']

/-- The lowest element that executes and is bad is the one that a governed instruction reports. -/
theorem State.putF_traps {s : State} {t : Ty} {m : KReg} {f : Nat → Nat} {ops : Nat → List FVal} {i : Nat}
    (h : firstOf s m (tyBits t) (fun i => fpBad s.readFpctl ((fmtOf t).decode (f i)) (ops i) = true) i) (d : VReg) :
    s.putF t d m ((List.range (elemCount (tyBits t))).map fun i => (f i, ops i)) = s.raise (trapNonfinite i (f i)) := by
  have hfirst : firstBad s.readFpctl (s.laneMask m) (tyBits t) (fmtOf t) ((List.range (elemCount (tyBits t))).map fun i => (f i, ops i)) =
      some (i, f i) := by
    rw [firstBad, zipIdx_map_range, List.find?_map]
    simp only [Function.comp_def, laneOn_laneMask, find?_firstOf h, Option.map_some]
  rw [State.putF, hfirst]

/-! ### The scalar instructions (R128 to R132) -/

/-- The governed instructions of scalar operands, each with its operands and its result. -/
def governedScalar (q : Pred) (d a b c : SReg) (dbl : Bool) (rm : Rm) (s : State) : List (Instr × List Nat × Nat) :=
  let p := precOf dbl
  let x := s.readF dbl a
  let y := s.readF dbl b
  let z := s.readF dbl c
  [(.aFadd q d a b dbl rm, [x, y], p.round rm false ((p.decode x).add rm (p.decode y))),
   (.aFsub q d a b dbl rm, [x, y], p.round rm false ((p.decode x).add rm (p.decode y).negate)),
   (.aFmul q d a b dbl rm, [x, y], p.round rm false ((p.decode x).mul (p.decode y))),
   (.aFma q d a b c dbl rm, [x, y, z], p.round rm false (((p.decode x).mul (p.decode y)).add rm (p.decode z))),
   (.aFdiv q d a b dbl rm, [x, y], p.round rm false ((p.decode x).div (2 * p.fb + 5) (p.decode y))),
   (.aFsqrt q d a dbl rm, [x], p.round rm false ((p.decode x).sqrt (p.fb + 3))),
   (.aFmin q d a b dbl, [x, y], p.minBits x y), (.aFmax q d a b dbl, [x, y], p.maxBits x y)]

theorem precOf_sound (dbl : Bool) : (precOf dbl).Sound := by cases dbl <;> exact sound_of_mem (by decide)

/-- Table 6.7: one bit of nine, and what the ones of NaN, infinities and zeros say. -/
theorem classBits_spec {p : Fmt} (hp : p.Sound) (x : Nat) : ∃ n ≤ 8, p.classBits x = 2 ^ n ∧ (n = 8 ↔ (p.decode x).isNan = true) ∧
    (n = 0 ∨ n = 7 ↔ (p.decode x).isFin = false ∧ (p.decode x).isNan = false) ∧ (n = 3 ∨ n = 4 ↔ (p.decode x).isZero = true) := by
  unfold Fmt.classBits
  cases hx : number p x with
  | false =>
    rcases decode_inf_or_nan hp hx with h | h
    · rw [h]
      cases signOf p x
      · exact ⟨7, by simp [FVal.isNan, FVal.isFin, FVal.isZero]⟩
      · exact ⟨0, by simp [FVal.isNan, FVal.isFin, FVal.isZero]⟩
    · rw [h]
      exact ⟨8, by simp [FVal.isNan, FVal.isFin, FVal.isZero]⟩
  | true =>
    obtain ⟨m, e, h, -⟩ := decode_number hp hx
    rw [h]
    generalize signOf p x = n
    by_cases hzero : m = 0
    · subst hzero
      exact ⟨if n then 3 else 4, by cases n <;> simp [FVal.isNan, FVal.isFin, FVal.isZero]⟩
    · by_cases hsub : m < 2 ^ p.fb
      · exact ⟨if n then 2 else 5, by cases n <;> simp [FVal.isNan, FVal.isFin, FVal.isZero, hzero, hsub]⟩
      · exact ⟨if n then 1 else 6, by cases n <;> simp [FVal.isNan, FVal.isFin, FVal.isZero, hzero, hsub]⟩

theorem isFloatTy_of_cvtTy {t : Ty} : cvtTy t = true → isFloatTy t = floatTy t := by revert t; decide

theorem scalarResult_eq (t : Ty) (r : Nat) :
    scalarResult t r = if t = 2 then BitVec.ofInt 64 (BitVec.ofNat 32 r).toInt else BitVec.ofNat 64 r := by
  have h2 : t.toNat = 2 ↔ t = 2 := ⟨fun h => BitVec.eq_of_toNat_eq h, fun h => h ▸ rfl⟩
  simp only [scalarResult, h2]
  rfl

section
variable {s : State} {q : Pred} (hq : s.holds q = true)
include hq

theorem State.fop_holds (d : SReg) (dbl : Bool) (rs : List SReg) (f : Fmt → List Nat → Nat) : s.fop q d dbl rs f =
    .next (s.setF d (f (precOf dbl) (rs.map (s.readF dbl))) ((precOf dbl).decode (f (precOf dbl) (rs.map (s.readF dbl))))
      ((rs.map (s.readF dbl)).map (precOf dbl).decode)) := State.under_holds hq _

/-- Each governed scalar instruction judges and writes the result that the list gives it. -/
theorem exec_governedScalar {d a b c : SReg} {dbl : Bool} {rm : Rm} {e : Instr × List Nat × Nat} (he : e ∈ governedScalar q d a b c dbl rm s) :
    exec e.1 s = .next (s.setF d e.2.2 ((precOf dbl).decode e.2.2) (e.2.1.map (precOf dbl).decode)) := by
  simp only [governedScalar, List.mem_cons, List.not_mem_nil, or_false] at he
  rcases he with rfl | rfl | rfl | rfl | rfl | rfl | rfl | rfl
  · exact State.fop_holds hq d dbl [a, b] fun p => onTwo (p.addBits rm)
  · exact State.fop_holds hq d dbl [a, b] fun p => onTwo (p.subBits rm)
  · exact State.fop_holds hq d dbl [a, b] fun p => onTwo (p.mulBits rm)
  · exact State.fop_holds hq d dbl [a, b, c] fun p => onThree (p.fmaBits rm)
  · exact State.fop_holds hq d dbl [a, b] fun p => onTwo (p.divBits rm)
  · exact State.fop_holds hq d dbl [a] fun p => fun | [x] => p.sqrtBits rm x | _ => 0
  · exact State.fop_holds hq d dbl [a, b] fun p => onTwo p.minBits
  · exact State.fop_holds hq d dbl [a, b] fun p => onTwo p.maxBits

theorem exec_aFcmp (d : PReg) (a b : SReg) (dbl : Bool) (cond : BitVec 3) : exec (.aFcmp q d a b dbl cond) s =
    .next (s.writeP d (fpCond cond ((precOf dbl).decode (s.readF dbl a)) ((precOf dbl).decode (s.readF dbl b)))) := by
  change execAFcmp q d a b dbl cond s = _
  rw [execAFcmp, State.under_holds hq]

theorem exec_aFclass (d a : SReg) (dbl : Bool) :
    exec (.aFclass q d a dbl) s = .next (s.writeS d (BitVec.ofNat 64 ((precOf dbl).classBits (s.readF dbl a)))) := by
  change execAFclass q d a dbl s = _
  rw [execAFclass, State.under_holds hq]

theorem exec_aFcvt (d a : SReg) (dt st : Ty) (sat : Bool) (rm : Rm) :
    exec (.aFcvt q d a dt st sat rm) s =
      .next (if isFloatTy dt then s.setF d (convert rm sat dt st ((s.readS a).toNat % 2 ^ tyBits st))
          ((fmtOf dt).decode (convert rm sat dt st ((s.readS a).toNat % 2 ^ tyBits st))) [cvtVal st ((s.readS a).toNat % 2 ^ tyBits st)]
        else s.writeS d (scalarResult dt (convert rm sat dt st ((s.readS a).toNat % 2 ^ tyBits st)))) := by
  change execAFcvt q d a dt st sat rm s = _
  rw [execAFcvt, State.under_holds hq]

theorem exec_aFcvt_quiet {d a : SReg} {dt st : Ty} {sat : Bool} {rm : Rm} (hdt : cvtTy dt = true)
    (hquiet : floatTy dt = false ∨ fpBad s.readFpctl ((fmtOf dt).decode (convert rm sat dt st ((s.readS a).toNat % 2 ^ tyBits st)))
      [cvtVal st ((s.readS a).toNat % 2 ^ tyBits st)] = false) :
    exec (.aFcvt q d a dt st sat rm) s = .next (s.writeS d (scalarResult dt (convert rm sat dt st ((s.readS a).toNat % 2 ^ tyBits st)))) := by
  rw [exec_aFcvt hq, isFloatTy_of_cvtTy hdt]
  cases hfloat : floatTy dt with
  | false => rfl
  | true =>
    have hne : dt ≠ 2 := by rintro rfl; cases hfloat
    rw [if_pos rfl, State.setF_quiet (hquiet.resolve_left (by simp [hfloat])), scalarResult_eq, if_neg hne]

end

/-! ### The element-wise vector instructions (R138, R139) -/

theorem State.ins1_eq (s : State) (t : Ty) (a : VReg) : s.ins1 t a = (List.range (elemCount (tyBits t))).map fun i => [el s (tyBits t) a i] := by
  rw [State.ins1, State.readElems_eq, List.map_map]
  rfl

theorem State.ins2_eq (s : State) (t : Ty) (a : VReg) (b : VSrc) :
    s.ins2 t a b = (List.range (elemCount (tyBits t))).map fun i => [el s (tyBits t) a i, bel s t i b] := by
  rw [State.ins2, State.readElems_eq, State.operandB_eq, zipWith_map_range]

theorem State.ins3_eq (s : State) (t : Ty) (a : VReg) (b : VSrc) (c : VReg) :
    s.ins3 t a b c = (List.range (elemCount (tyBits t))).map fun i => [el s (tyBits t) a i, bel s t i b, el s (tyBits t) c i] := by
  rw [State.ins3, State.ins2_eq, State.readElems_eq, zipWith_map_range]
  rfl

section
variable {s : State} {q : Pred} (hq : s.holds q = true)
include hq

theorem State.fmap_of_ins {t : Ty} {ins : State → List (List Nat)} {ops : Nat → List Nat}
    (hins : ins s = (List.range (elemCount (tyBits t))).map ops) (d : VReg) (m : KReg) (f : List Nat → Nat) :
    s.fmap q d t m ins f =
      .next (s.putF t d m ((List.range (elemCount (tyBits t))).map fun i => (f (ops i), (ops i).map (fmtOf t).decode))) := by
  rw [State.fmap, State.under_holds hq, hins, List.map_map]
  rfl

/-- Each governed element-wise instruction judges and writes the results that the list gives it. -/
theorem exec_governed {d a c : VReg} {b : VSrc} {t : Ty} {m : KReg} {rm : Rm} {e : Instr × (Nat → List Nat) × (Nat → Nat)}
    (he : e ∈ governed q d a c b t m rm s) :
    exec e.1 s = .next (s.putF t d m ((List.range (elemCount (tyBits t))).map fun i => (e.2.2 i, (e.2.1 i).map (fmtOf t).decode))) := by
  have one := fun f => State.fmap_of_ins hq (ins := fun s => s.ins1 t a) (s.ins1_eq t a) d m f
  have two := fun f => State.fmap_of_ins hq (ins := fun s => s.ins2 t a b) (s.ins2_eq t a b) d m f
  have three := fun f => State.fmap_of_ins hq (ins := fun s => s.ins3 t a b c) (s.ins3_eq t a b c) d m f
  simp only [governed, List.mem_cons, List.not_mem_nil, or_false] at he
  rcases he with rfl | rfl | rfl | rfl | rfl | rfl | rfl | rfl | rfl | rfl | rfl
  · exact two (fpTwo ((fmtOf t).addBits rm))
  · exact two (fpTwo ((fmtOf t).subBits rm))
  · exact two (fpTwo ((fmtOf t).mulBits rm))
  · exact three fun | [x, y, z] => (fmtOf t).fmaBits rm x y z | _ => 0
  · exact three fun | [x, y, z] => (fmtOf t).fmsBits rm x y z | _ => 0
  · exact two (fpTwo (fmtOf t).minBits)
  · exact two (fpTwo (fmtOf t).maxBits)
  · exact one fun | [x] => approxElem 0 t x | _ => 0
  · exact one fun | [x] => approxElem 1 t x | _ => 0
  · exact one fun | [x] => approxElem 2 t x | _ => 0
  · exact one fun | [x] => approxElem 3 t x | _ => 0

theorem State.map1_gives {t : Ty} {a : VReg} {f g : Nat → Nat} (h : ∀ i, f (el s (tyBits t) a i) = g i) (d : VReg) (m : KReg) :
    s.map1 q d a t m f = .next (masked s (tyBits t) d m g) := by
  rw [State.map1, State.under_holds hq, State.readElems_eq, List.map_map, State.putElems_eq]
  exact congrArg (fun g => Host.Outcome.next (masked s (tyBits t) d m g)) (funext h)

end

end Sys2Proof.Machine

namespace Sys2Proof
open Machine Claims

/-- Settles O8: what each instruction judges is what it writes (`exec_governedScalar`), so a quiet result is written. -/
theorem scalarFloatResults : Obligations.ScalarFloatResults := by
  intro q d a b c dbl rm s hq p x y z quiet gives
  have hwrites : ∀ e ∈ governedScalar q d a b c dbl rm s, quiet e.2.2 e.2.1 → exec e.1 s = .next (s.writeS d (BitVec.ofNat 64 e.2.2)) :=
    fun e he h => (exec_governedScalar hq he).trans (congrArg _ (State.setF_quiet h d))
  simp only [governedScalar, List.forall_mem_cons] at hwrites
  obtain ⟨hadd, hsub, hmul, hfma, hdiv, hsqrt, hmin, hmax, -⟩ := hwrites
  obtain ⟨n, hn, hclass, hspec⟩ := classBits_spec (precOf_sound dbl) x
  refine ⟨hadd, hsub, hmul, hfma, hdiv, hsqrt, hmin, hmax, fun pd cond => exec_aFcmp hq pd a b dbl cond,
    ⟨n, hn, ?_, hspec⟩, fun dt st sat hdt _ => ?_⟩
  · rw [← hclass]
    exact exec_aFclass hq d a dbl
  · intro v r hquiet
    rw [← scalarResult_eq]
    exact exec_aFcvt_quiet hq hdt hquiet

/-- Settles O13: the governed instructions write what they judge (`exec_governed`), the others go element by element. -/
theorem vectorFloatResults : Obligations.VectorFloatResults := by
  intro q d a c b t m rm s hq _ w p x y z gives
  have hwrites : ∀ e ∈ governed q d a c b t m rm s, quietAll s t m e.2.2 e.2.1 → exec e.1 s = .next (masked s w d m e.2.2) :=
    fun e he h => (exec_governed hq he).trans (congrArg _ (State.putF_quiet h d))
  simp only [governed, List.forall_mem_cons] at hwrites
  obtain ⟨hadd, hsub, hmul, hfma, hfms, hmin, hmax, hrcp, hrsq, hexp2, hlog2, -⟩ := hwrites
  exact ⟨hadd, hsub, hmul, hfma, hfms, hmin, hmax, hrcp, hrsq, hexp2, hlog2, State.map1_gives hq (f := p.classBits) (fun _ => rfl) d m,
    fun t' _ => ⟨State.map1_gives hq (f := fun x => x % 2 ^ (tyBits t' - 1)) (fun _ => rfl) d m,
      State.map1_gives hq (f := fun x => x ^^^ 2 ^ (tyBits t' - 1)) (fun _ => rfl) d m⟩⟩

end Sys2Proof

/-! PROOFS. The results of the vector integer instructions (R120, R121, R134 to R136, Table 6.8). -/
namespace Sys2Proof.Machine
open Claims

/-! ### Operands in range -/

/-- An element of a register or pair lies within its width (R104). -/
theorem el_lt_two_pow (s : State) (w : Nat) (r : VReg) (i : Nat) : el s w r i < 2 ^ w := by
  by_cases hw : w = 64
  · subst hw
    by_cases hi : i < 64
    · have hlow := el_lt s (show 32 ≠ 64 by norm_num) r i
      have hhigh := el_lt s (show 32 ≠ 64 by norm_num) (r + 1) i
      rw [el_pair s r hi]
      omega
    · rw [el, List.getD_eq_default _ _ (by rw [State.readElems_length]; exact Nat.le_of_not_lt hi)]
      norm_num
  · exact el_lt s hw r i

theorem wrap_lt (w : Nat) (i : Int) : wrap w i < 2 ^ w := by
  have hpos : (0 : Int) < (2 ^ w : Nat) := by exact_mod_cast Nat.two_pow_pos w
  have hlow := Int.emod_nonneg i hpos.ne'
  have hhigh := Int.emod_lt_of_pos i hpos
  rw [wrap]
  omega

theorem bel_lt_two_pow (s : State) {t : Ty} (ht : intTy t = true) (i : Nat) (b : VSrc) : bel s t i b < 2 ^ tyBits t := by
  cases b with
  | v r => exact el_lt_two_pow s _ r i
  | s r => exact Nat.mod_lt _ (Nat.two_pow_pos _)
  | imm x =>
    have h12 : t ≠ 12 := by rintro rfl; cases ht
    rw [bel, if_neg h12]
    split
    · exact wrap_lt _ _
    · exact Nat.mod_lt _ (Nat.two_pow_pos _)

/-! ### Element results of Table 6.8 -/

theorem tyBits_pos (t : Ty) : 0 < tyBits t := by revert t; decide

theorem elSub_eq (t : Ty) (x y : Nat) : elSub t x y = wrap (tyBits t) (x - y) := intBits_eq _ _
theorem elNeg_eq (t : Ty) (x : Nat) : elNeg t x = wrap (tyBits t) (-x) := intBits_eq _ _

theorem elMulh_eq (t : Ty) (x y : Nat) : elMulh t x y = wrap (tyBits t) (tval t x * tval t y / 2 ^ tyBits t) := by
  simp only [elMulh, intVal_eq, intBits_eq]

theorem elAbs_eq (t : Ty) (x : Nat) : elAbs t x = (sval (tyBits t) x).natAbs % 2 ^ tyBits t := by
  simp only [elAbs, intVal_true (tyBits_pos t)]

theorem elLess_eq (t : Ty) (x y : Nat) : elLess t x y = decide (tval t x < tval t y) := by simp only [elLess, intVal_eq]

theorem elMin_eq (t : Ty) (x y : Nat) : elMin t x y = if tval t y < tval t x then y else x := by
  simp only [elMin, elLess_eq, decide_eq_true_eq]
theorem elMax_eq (t : Ty) (x y : Nat) : elMax t x y = if tval t x < tval t y then y else x := by
  simp only [elMax, elLess_eq, decide_eq_true_eq]

/-- The complement within a width flips every bit of it. -/
theorem two_pow_sub_one_sub {w y : Nat} (hy : y < 2 ^ w) : 2 ^ w - 1 - y = y ^^^ (2 ^ w - 1) := by
  apply Nat.eq_of_testBit_eq
  intro i
  rw [Nat.sub_sub, Nat.add_comm 1, Nat.testBit_two_pow_sub_succ hy, Nat.testBit_xor, Nat.testBit_two_pow_sub_one]
  by_cases hi : i < w
  · simp [hi]
  · simp [hi, Nat.testBit_lt_two_pow (hy.trans_le (Nat.pow_le_pow_right (by norm_num) (Nat.le_of_not_lt hi)))]

theorem elAndn_eq (t : Ty) (x : Nat) {y : Nat} (hy : y < 2 ^ tyBits t) : elAndn t x y = x &&& (y ^^^ (2 ^ tyBits t - 1)) := by
  rw [elAndn, two_pow_sub_one_sub hy]

theorem elShr_eq (t : Ty) (x y : Nat) : elShr t x y = x / 2 ^ (y % tyBits t) := Nat.shiftRight_eq_div_pow _ _

theorem elSar_eq (t : Ty) (x y : Nat) : elSar t x y = wrap (tyBits t) (sval (tyBits t) x / 2 ^ (y % tyBits t)) := by
  simp only [elSar, intVal_true (tyBits_pos t), intBits_eq]

theorem elPopc_eq (t : Ty) (x : Nat) : elPopc t x = (List.range (tyBits t)).countP fun j => x.testBit j :=
  List.countP_eq_length_filter.symm

theorem elClz_eq (t : Ty) {x : Nat} (hx : x < 2 ^ tyBits t) : elClz t x = if x = 0 then tyBits t else tyBits t - 1 - Nat.log2 x := by
  obtain ⟨hle, hlt, hge⟩ := leading_zeros_bounds hx (n := elClz t x) rfl
  split
  · next hzero =>
    by_contra hne
    have hpos := Nat.two_pow_pos (tyBits t - 1 - elClz t x)
    have := hge (by omega)
    omega
  · next hzero =>
    have hn : elClz t x < tyBits t := by
      by_contra hfull
      rw [show tyBits t - elClz t x = 0 by omega] at hlt
      omega
    have hlog : Nat.log2 x = tyBits t - 1 - elClz t x :=
      (Nat.log2_eq_iff hzero).mpr ⟨hge hn, by rwa [show tyBits t - 1 - elClz t x + 1 = tyBits t - elClz t x by omega]⟩
    omega

theorem elAddsat_eq (t : Ty) (x y : Nat) : elAddsat t x y = wrap (tyBits t) (saturate t (tval t x + tval t y)) := by
  simp only [elAddsat, intVal_eq, clampInt_eq, intBits_eq]
theorem elSubsat_eq (t : Ty) (x y : Nat) : elSubsat t x y = wrap (tyBits t) (saturate t (tval t x - tval t y)) := by
  simp only [elSubsat, intVal_eq, clampInt_eq, intBits_eq]

/-! ### Element by element under the mask (R121) -/

section
variable {s : State} {q : Pred} (hq : s.holds q = true) {t : Ty} (d a c : VReg) (b : VSrc) (m : KReg)
include hq

theorem State.map2_gives {f : Nat → Nat → Nat} {g : Nat → Nat} (h : ∀ i, f (el s (tyBits t) a i) (bel s t i b) = g i) :
    s.map2 q d a b t m f = .next (masked s (tyBits t) d m g) := by
  rw [State.map2, State.under_holds hq, State.readElems_eq, State.operandB_eq, zipWith_map_range, State.putElems_eq]
  exact congrArg (fun g => Host.Outcome.next (masked s (tyBits t) d m g)) (funext h)

theorem State.map3_gives {f : Nat → Nat → Nat → Nat} {g : Nat → Nat}
    (h : ∀ i, f (el s (tyBits t) a i) (bel s t i b) (el s (tyBits t) c i) = g i) :
    s.map3 q d a b c t m f = .next (masked s (tyBits t) d m g) := by
  rw [State.map3, State.under_holds hq, State.readElems_eq s _ a, State.readElems_eq s _ c, State.operandB_eq, zip_map_range]
  dsimp only
  rw [zipWith_map_range, State.putElems_eq]
  exact congrArg (fun g => Host.Outcome.next (masked s (tyBits t) d m g)) (funext h)

theorem exec_vLane (t : Ty) : exec (.vLane q d t m) s = .next (masked s (tyBits t) d m fun i => i % 2 ^ tyBits t) := by
  change execVLane q d t m s = _
  rw [execVLane, State.under_holds hq, natRange_eq_map, List.map_map, ← State.putElems_eq]
  simp only [Function.comp_def, Nat.zero_add]

theorem exec_vMov : exec (.vMov q d a m) s = .next (masked s 32 d m (el s 32 a)) := by
  change execVMov q d a m s = _
  rw [execVMov, State.under_holds hq, State.readElems_eq, State.putElems_eq]

theorem exec_vBcast (t : Ty) : exec (.vBcast q d b t m) s = .next (masked s (tyBits t) d m fun i => bel s t i b) := by
  change execVBcast q d b t m s = _
  rw [execVBcast, State.under_holds hq, State.operandB_eq, State.putElems_eq]

theorem exec_vSel (e : VReg) (kc : KReg) {v : Nat} (hv : v = if tyBits t = 64 then 64 else 32) :
    exec (.vSel q d a e kc t m) s = .next (masked s v d m fun i => if (s.readK kc).getLsbD i then el s v a i else el s v e i) := by
  change execVSel q d a e kc t m s = _
  rw [execVSel, State.under_holds hq]
  dsimp only
  rw [← hv, State.readElems_eq s v a, State.readElems_eq s v e, zip_map_range, zipIdx_map_range, List.map_map, ← State.putElems_eq]
  rfl

end

end Sys2Proof.Machine

namespace Sys2Proof
open Machine Claims

/-- Settles O12: each element is the function of Table 6.8 of its operands, all of which lie within the width of T. -/
theorem vectorIntegerResults : Obligations.VectorIntegerResults := by
  intro q d a c b t m s hq ht w x y gives
  have two : ∀ {f : Nat → Nat → Nat} {g : Nat → Nat}, (∀ i, f (x i) (y i) = g i) → s.map2 q d a b t m f = .next (masked s w d m g) :=
    fun h => State.map2_gives hq d a b m h
  have one : ∀ {f g : Nat → Nat}, (∀ i, f (x i) = g i) → s.map1 q d a t m f = .next (masked s w d m g) := fun h => State.map1_gives hq h d m
  exact ⟨two (f := elAdd t) fun _ => rfl, two fun _ => elSub_eq t _ _, two (f := elMul t) fun _ => rfl, two fun _ => elMulh_eq t _ _,
    State.map3_gives hq d a c b m (f := elMad t) fun _ => rfl, one fun _ => elAbs_eq t _, one fun _ => elNeg_eq t _,
    two fun _ => elMin_eq t _ _, two fun _ => elMax_eq t _ _, two (f := fun x y => x &&& y) fun _ => rfl,
    two (f := fun x y => x ||| y) fun _ => rfl, two (f := fun x y => x ^^^ y) fun _ => rfl,
    two fun i => elAndn_eq t _ (bel_lt_two_pow s ht i b), two (f := elShl t) fun _ => rfl, two fun _ => elShr_eq t _ _,
    two fun _ => elSar_eq t _ _, one fun _ => elPopc_eq t _, one fun i => elClz_eq t (el_lt_two_pow s w a i),
    two fun _ => elAddsat_eq t _ _, two fun _ => elSubsat_eq t _ _, exec_vLane hq d m t, exec_vMov hq d a m,
    fun t' _ => exec_vBcast hq d b m t', fun e kc => exec_vSel hq d a m e kc rfl⟩

end Sys2Proof

/-! PROOFS. Reductions and scans: the integer folds (R144, Table 6.12) and the fixed tree of the floating-point ones (R145). -/
namespace Sys2Proof.Machine
open Claims

/-! ### Integers of a type (R103) -/

theorem two_pow_tyBits (t : Ty) : 2 ^ tyBits t = 2 * 2 ^ (tyBits t - 1) := by rw [← pow_succ', Nat.sub_add_cancel (tyBits_pos t)]

/-- The values of a type lie between its least and its greatest (R103). -/
theorem tval_mem (t : Ty) (x : Nat) : least t ≤ tval t x ∧ tval t x ≤ greatest t := by
  have hmod := Nat.mod_lt x (Nat.two_pow_pos (tyBits t))
  have hhalf := two_pow_tyBits t
  unfold least greatest tval sval
  split_ifs <;> omega

theorem wrap_of_nonneg {w : Nat} {i : Int} (h0 : 0 ≤ i) (h : i < (2 ^ w : Nat)) : (wrap w i : Int) = i := by
  rw [wrap, Int.emod_eq_of_lt h0 h, Int.toNat_of_nonneg h0]

theorem wrap_of_neg {w : Nat} {i : Int} (h0 : i < 0) (h : -(2 ^ w : Nat) ≤ i) : (wrap w i : Int) = i + (2 ^ w : Nat) := by
  rw [wrap, ← Int.add_emod_right, Int.emod_eq_of_lt (by omega) (by omega), Int.toNat_of_nonneg (by omega)]

/-- A value of a type comes back from its pattern (R103). -/
theorem tval_wrap {t : Ty} {i : Int} (h : least t ≤ i ∧ i ≤ greatest t) : tval t (wrap (tyBits t) i) = i := by
  have hhalf := two_pow_tyBits t
  have hlt := wrap_lt (tyBits t) i
  unfold least greatest at h
  unfold tval sval
  rw [Nat.mod_eq_of_lt hlt]
  rcases lt_or_ge i 0 with hneg | hpos
  · have hw : (wrap (tyBits t) i : Int) = i + (2 ^ tyBits t : Nat) := wrap_of_neg hneg (by split_ifs at h <;> omega)
    split_ifs at * <;> omega
  · have hw : (wrap (tyBits t) i : Int) = i := wrap_of_nonneg hpos (by split_ifs at h <;> omega)
    split_ifs at * <;> omega

/-! ### Folds over the executing elements (R144) -/

theorem redOp_eq (t : Ty) (op : BitVec 3) : redOp t op = (foldOp t op, foldUnit t op) := by
  have hadd : foldOp t 0 = elAdd t := rfl
  have hmin : foldOp t 1 = elMin t := funext₂ fun x y => (elMin_eq t x y).symm
  have hmax : foldOp t 2 = elMax t := funext₂ fun x y => (elMax_eq t x y).symm
  rcases cond_cases op with rfl | rfl | rfl | rfl | rfl | rfl | rfl | rfl
  · rw [hadd]
    rfl
  · rw [hmin, foldUnit, if_pos rfl, ← intMax_eq, ← intBits_eq]
    rfl
  · rw [hmax, foldUnit, if_neg (by decide), if_pos rfl, ← intMin_eq, ← intBits_eq]
    rfl
  all_goals rfl

/-- The identity of a fold changes no accumulator. -/
theorem foldOp_unit (t : Ty) (op : BitVec 3) {x : Nat} (hx : x < 2 ^ tyBits t) : foldOp t op x (foldUnit t op) = x := by
  rcases cond_cases op with rfl | rfl | rfl | rfl | rfl | rfl | rfl | rfl
  · simp [foldOp, foldUnit, Nat.mod_eq_of_lt hx]
  · have hunit : tval t (foldUnit t 1) = greatest t := tval_wrap ⟨least_le_greatest t, le_rfl⟩
    change (if tval t (foldUnit t 1) < tval t x then foldUnit t 1 else x) = x
    rw [hunit]
    exact if_neg (not_lt.mpr (tval_mem t x).2)
  · have hunit : tval t (foldUnit t 2) = least t := tval_wrap ⟨le_rfl, least_le_greatest t⟩
    change (if tval t x < tval t (foldUnit t 2) then foldUnit t 2 else x) = x
    rw [hunit]
    exact if_neg (not_lt.mpr (tval_mem t x).1)
  · simp [foldOp, foldUnit, Nat.and_two_pow_sub_one_eq_mod, Nat.mod_eq_of_lt hx]
  all_goals simp [foldOp, foldUnit]

theorem foldUnit_lt (t : Ty) (op : BitVec 3) : foldUnit t op < 2 ^ tyBits t := by
  have hpos := Nat.two_pow_pos (tyBits t)
  unfold foldUnit
  split_ifs
  · exact wrap_lt _ _
  · exact wrap_lt _ _
  · omega
  · exact hpos

theorem foldOp_lt (t : Ty) (op : BitVec 3) {x y : Nat} (hx : x < 2 ^ tyBits t) (hy : y < 2 ^ tyBits t) : foldOp t op x y < 2 ^ tyBits t := by
  unfold foldOp
  split_ifs
  · exact Nat.mod_lt _ (Nat.two_pow_pos _)
  · exact hy
  · exact hx
  · exact hy
  · exact hx
  · exact Nat.and_lt_two_pow _ hy
  · exact Nat.or_lt_two_pow hx hy
  · exact Nat.xor_lt_two_pow hx hy

/-- Elements that do not execute stand as the identity, so the fold is that of those that do. -/
theorem foldl_active {t : Ty} (op : BitVec 3) (on : Nat → Bool) {g : Nat → Nat} (hg : ∀ i, g i < 2 ^ tyBits t) (l : List Nat) {acc : Nat}
    (hacc : acc < 2 ^ tyBits t) : (l.map fun i => if on i then g i else foldUnit t op).foldl (foldOp t op) acc =
      ((l.filter on).map g).foldl (foldOp t op) acc := by
  induction l generalizing acc with
  | nil => rfl
  | cons i l ih =>
    rw [List.map_cons, List.foldl_cons]
    cases hi : on i with
    | true =>
      rw [List.filter_cons_of_pos hi, List.map_cons, List.foldl_cons, if_pos rfl]
      exact ih (foldOp_lt t op hacc (hg i))
    | false =>
      rw [List.filter_cons_of_neg (by simp [hi]), if_neg Bool.false_ne_true, foldOp_unit t op hacc]
      exact ih hacc

theorem prefixes_eq (f : Nat → Nat → Nat) (acc : Nat) (l : List Nat) :
    prefixes f acc l = (List.range l.length).map fun i => (l.take (i + 1)).foldl f acc := by
  induction l generalizing acc with
  | nil => rfl
  | cons x l ih =>
    rw [prefixes, ih, List.length_cons, List.range_succ_eq_map, List.map_cons, List.map_map]
    rfl

theorem activeElems_map_range (s : State) (m : KReg) (w u n : Nat) (g : Nat → Nat) :
    activeElems (s.laneMask m) w u ((List.range n).map g) = (List.range n).map fun i => if runs s m w i then g i else u := by
  simp only [activeElems, zipIdx_map_range, List.map_map, Function.comp_def, laneOn_laneMask]

/-- The fold of the executing elements below n. -/
def foldUpTo (s : State) (a : VReg) (t : Ty) (m : KReg) (op : BitVec 3) (n : Nat) : Nat :=
  (((List.range n).filter (runs s m (tyBits t))).map (el s (tyBits t) a)).foldl (foldOp t op) (foldUnit t op)

theorem foldl_activeElems (s : State) (a : VReg) (t : Ty) (m : KReg) (op : BitVec 3) (n : Nat) :
    ((List.range n).map fun i => if runs s m (tyBits t) i then el s (tyBits t) a i else foldUnit t op).foldl (foldOp t op) (foldUnit t op) =
      foldUpTo s a t m op n :=
  foldl_active op _ (el_lt_two_pow s (tyBits t) a) _ (foldUnit_lt t op)

section
variable {s : State} {q : Pred} (hq : s.holds q = true) (d a : VReg) (t : Ty) (m : KReg) (op : BitVec 3)
include hq

theorem exec_vRed : exec (.vRed q d a t m op) s =
    .next (s.writeElems (tyBits t) d (foldUpTo s a t m op (elemCount (tyBits t)) :: List.replicate (elemCount (tyBits t) - 1) 0)) := by
  change execVRed q d a t m op s = _
  rw [execVRed, State.under_holds hq, redOp_eq]
  dsimp only
  rw [State.readElems_eq, activeElems_map_range, foldl_activeElems]

theorem exec_vScan : exec (.vScan q d a t m op) s = .next (masked s (tyBits t) d m fun i => foldUpTo s a t m op (i + 1)) := by
  have hprefix : prefixes (foldOp t op) (foldUnit t op) (activeElems (s.laneMask m) (tyBits t) (foldUnit t op) (s.readElems (tyBits t) a)) =
      (List.range (elemCount (tyBits t))).map fun i => foldUpTo s a t m op (i + 1) := by
    rw [State.readElems_eq, activeElems_map_range, prefixes_eq, List.length_map, List.length_range]
    refine map_range_congr fun i hi => ?_
    rw [take_map_range _ (by omega), foldl_activeElems]
  change execVScan q d a t m op s = _
  rw [execVScan, State.under_holds hq, redOp_eq]
  dsimp only
  rw [hprefix, State.putElems_eq]

end

/-! ### The levels of the tree (R145) -/

section
variable (f : Nat → Nat → Nat) (leaf : Nat → Option Nat)

theorem treeNode_succ (l j : Nat) : treeNode f leaf (l + 1) j = joinNodes f (treeNode f leaf l (2 * j)) (treeNode f leaf l (2 * j + 1)) := by
  rw [treeNode]
  cases treeNode f leaf l (2 * j) <;> cases treeNode f leaf l (2 * j + 1) <;> rfl

/-- A tree over two leaves joins them. -/
theorem treeNode_two_leaves (x y : Option Nat) : treeNode f (fun j => if j = 0 then x else y) 1 0 = joinNodes f x y := treeNode_succ _ _ 0 0

theorem pairUp_map_range (g : Nat → Option Nat) (n : Nat) :
    pairUp f ((List.range (2 * n)).map g) = (List.range n).map fun j => joinNodes f (g (2 * j)) (g (2 * j + 1)) := by
  induction n generalizing g with
  | zero => rfl
  | succ n ih =>
    have hsplit : (List.range (2 * (n + 1))).map g = g 0 :: g 1 :: (List.range (2 * n)).map fun i => g (i + 2) := by
      rw [Nat.mul_succ, List.range_succ_eq_map, List.range_succ_eq_map]
      simp [List.map_map, Function.comp_def]
    rw [hsplit, pairUp, ih, List.range_succ_eq_map, List.map_cons, List.map_map]
    rfl

/-- Level l above one of 2^n · c nodes of level k holds the nodes of level k + l. -/
theorem treeLevels_getD (n c k : Nat) {l : Nat} (hl : l ≤ n) :
    (treeLevels f n ((List.range (2 ^ n * c)).map (treeNode f leaf k))).getD l [] =
      (List.range (2 ^ (n - l) * c)).map (treeNode f leaf (k + l)) := by
  induction n generalizing k l with
  | zero =>
    obtain rfl : l = 0 := by omega
    rfl
  | succ n ih =>
    cases l with
    | zero => rfl
    | succ l =>
      have hpair : pairUp f ((List.range (2 ^ (n + 1) * c)).map (treeNode f leaf k)) = (List.range (2 ^ n * c)).map (treeNode f leaf (k + 1)) := by
        rw [show 2 ^ (n + 1) * c = 2 * (2 ^ n * c) by ring, pairUp_map_range]
        exact map_range_congr fun j _ => (treeNode_succ f leaf k j).symm
      rw [treeLevels, List.getD_cons_succ, hpair, ih (k + 1) (by omega), Nat.add_sub_add_right, Nat.add_right_comm, Nat.add_assoc k]

/-- A node of the tree over 2^n leaves, all of whose leaves are among them. -/
theorem treeLevels_node {n l j : Nat} (h : (j + 1) * 2 ^ l ≤ 2 ^ n) :
    ((treeLevels f n ((List.range (2 ^ n)).map leaf)).getD l []).getD j none = treeNode f leaf l j := by
  have hl : l ≤ n := (Nat.pow_le_pow_iff_right (by norm_num : 1 < 2)).mp (le_trans (Nat.le_mul_of_pos_left _ (Nat.succ_pos j)) h)
  have hj : j < 2 ^ (n - l) := by
    rw [← Nat.sub_add_cancel hl, Nat.pow_add] at h
    exact Nat.le_of_mul_le_mul_right h (Nat.two_pow_pos l)
  have hlevel := treeLevels_getD f leaf n 1 0 hl
  rw [Nat.mul_one, Nat.mul_one, Nat.zero_add] at hlevel
  exact (congrArg (fun level => level.getD j none) hlevel).trans (getD_map_range _ _ hj)

/-- The aligned blocks of 2^l and fewer elements that tile the elements below n, joined from the largest (R145). -/
def tileNodes (n l : Nat) (y : Option Nat) : Option Nat :=
  ((List.range l).reverse.filter fun l => n.testBit l).foldl (fun y l => joinNodes f y (treeNode f leaf l (n / 2 ^ (l + 1) * 2))) y

theorem tileNodes_succ (n l : Nat) (y : Option Nat) : tileNodes f leaf n (l + 1) y =
    if n.testBit l then tileNodes f leaf n l (joinNodes f y (treeNode f leaf l (n / 2 ^ (l + 1) * 2))) else tileNodes f leaf n l y := by
  rw [tileNodes, List.range_succ, List.reverse_append, List.reverse_singleton, List.singleton_append]
  split
  · next h =>
    rw [List.filter_cons_of_pos h, List.foldl_cons]
    rfl
  · next h =>
    rw [List.filter_cons_of_neg h]
    rfl

/-- The same with each join written as a tree over two leaves. -/
theorem foldl_two_leaves_eq_tileNodes (n l : Nat) (y : Option Nat) : ((List.range l).reverse.filter fun l => n.testBit l).foldl
    (fun y l => treeNode f (fun j => if j = 0 then y else treeNode f leaf l (n / 2 ^ (l + 1) * 2)) 1 0) y = tileNodes f leaf n l y := by
  simp only [treeNode_two_leaves]
  rfl

/-- Where the block of 2^l elements ends that a number with bit l set names. -/
theorem block_end {n l : Nat} (h : n.testBit l = true) : n / 2 ^ l = n / 2 ^ (l + 1) * 2 + 1 := by
  rw [Nat.testBit_eq_decide_div_mod_eq, decide_eq_true_eq] at h
  rw [pow_succ, ← Nat.div_div_eq_div_mul]
  omega

theorem block_next {n l : Nat} (h : n.testBit l = false) : n / 2 ^ l = n / 2 ^ (l + 1) * 2 := by
  rw [Nat.testBit_eq_decide_div_mod_eq, decide_eq_false_iff_not] at h
  rw [pow_succ, ← Nat.div_div_eq_div_mul]
  omega

variable {f leaf} in
theorem prefixNode_eq {levels : List (List (Option Nat))} {n : Nat}
    (hnode : ∀ l j, (j + 1) * 2 ^ l ≤ n → (levels.getD l []).getD j none = treeNode f leaf l j) (l : Nat) (y : Option Nat) :
    prefixNode f levels n l (n / 2 ^ (l + 1) * 2 ^ (l + 1)) y = tileNodes f leaf n (l + 1) y := by
  have hat : ∀ l, n.testBit l = true → (levels.getD l []).getD (n / 2 ^ (l + 1) * 2) none = treeNode f leaf l (n / 2 ^ (l + 1) * 2) :=
    fun l h => hnode l _ (block_end h ▸ Nat.div_mul_le_self n (2 ^ l))
  induction l generalizing y with
  | zero =>
    rw [prefixNode, tileNodes_succ]
    split
    · next h =>
      have := hat 0 h
      rw [zero_add, pow_one] at this ⊢
      rw [this]
      rfl
    · rfl
  | succ l ih =>
    have hpos : n / 2 ^ (l + 2) * 2 ^ (l + 2) / 2 ^ (l + 1) = n / 2 ^ (l + 2) * 2 := by
      rw [pow_succ 2 (l + 1), mul_comm (2 ^ (l + 1)) 2, ← mul_assoc, Nat.mul_div_cancel _ (Nat.two_pow_pos _)]
    rw [prefixNode, tileNodes_succ, hpos]
    split
    · next h =>
      have hstart : n / 2 ^ (l + 2) * 2 ^ (l + 2) + 2 ^ (l + 1) = n / 2 ^ (l + 1) * 2 ^ (l + 1) := by
        rw [block_end h]
        ring
      rw [hat _ h, hstart, ih]
    · next h =>
      have hstart : n / 2 ^ (l + 2) * 2 ^ (l + 2) = n / 2 ^ (l + 1) * 2 ^ (l + 1) := by
        rw [block_next (l := l + 1) (by simpa using h)]
        ring
      rw [hstart, ih]

end

/-! ### `vfred` and `vfscan` -/

theorem fredOp_eq (rm : Rm) (op : BitVec 3) : fredOp rm op = treeOp rm op := by
  rcases cond_cases op with rfl | rfl | rfl | rfl | rfl | rfl | rfl | rfl <;> rfl

theorem nodeResult_eq (t : Ty) (rm : Rm) (op : BitVec 3) (x : Option Nat) : nodeResult t rm op x = treeOut t rm op x := by
  cases x with
  | some x => rfl
  | none => rcases cond_cases op with rfl | rfl | rfl | rfl | rfl | rfl | rfl | rfl <;> rfl

theorem elemCount_eq_two_pow {t : Ty} (ht : fpTy t = true) : elemCount (tyBits t) = 2 ^ treeDepth t := by revert t; decide
theorem treeDepth_le (t : Ty) : treeDepth t ≤ 7 := by revert t; decide

theorem leaves_eq (s : State) (t : Ty) (m : KReg) (a : VReg) :
    leaves t (s.laneMask m) (s.readElems (tyBits t) a) = (List.range (elemCount (tyBits t))).map (treeLeaf s t m a) := by
  rw [leaves, State.readElems_eq, zipIdx_map_range, List.map_map]
  simp only [Function.comp_def, laneOn_laneMask]
  rfl

/-- What FPCTL takes for the operands of a reduction: the widened elements that execute below n. -/
def treeOperands (s : State) (t : Ty) (m : KReg) (a : VReg) (n : Nat) : List FVal :=
  ((List.range n).filterMap (treeLeaf s t m a)).map fp32.decode

theorem leaves_operands (s : State) (t : Ty) (m : KReg) (a : VReg) (n : Nat) :
    (((List.range n).map (treeLeaf s t m a)).filterMap fun x => x.map fp32.decode) = treeOperands s t m a n := by
  rw [treeOperands, List.filterMap_map, List.map_filterMap]
  rfl

/-- The root over all elements, and the node that tiles the elements below n, as they are delivered in T. -/
def reducedRoot (s : State) (t : Ty) (m : KReg) (a : VReg) (rm : Rm) (op : BitVec 3) : Nat :=
  treeOut t rm op (treeNode (treeOp rm op) (treeLeaf s t m a) (treeDepth t) 0)
def reducedPrefix (s : State) (t : Ty) (m : KReg) (a : VReg) (rm : Rm) (op : BitVec 3) (n : Nat) : Nat :=
  treeOut t rm op (tileNodes (treeOp rm op) (treeLeaf s t m a) n 8 none)

section
variable {s : State} {q : Pred} (hq : s.holds q = true) (d a : VReg) {t : Ty} (ht : fpTy t = true) (m : KReg) (rm : Rm) (op : BitVec 3)
include hq ht

theorem exec_vFred : exec (.vFred q d a t m rm op) s = .next
    (if fpBad s.readFpctl ((fmtOf t).decode (reducedRoot s t m a rm op)) (treeOperands s t m a (elemCount (tyBits t)))
      then s.raise (trapNonfinite 0 (reducedRoot s t m a rm op))
      else s.writeElems (tyBits t) d (reducedRoot s t m a rm op :: List.replicate (elemCount (tyBits t) - 1) 0)) := by
  have hroot : ((treeLevels (treeOp rm op) (treeDepth t) ((List.range (elemCount (tyBits t))).map (treeLeaf s t m a))).getD (treeDepth t) []).getD 0
      none = treeNode (treeOp rm op) (treeLeaf s t m a) (treeDepth t) 0 := by
    rw [elemCount_eq_two_pow ht]
    exact treeLevels_node _ _ (by simp)
  change execVFred q d a t m rm op s = _
  rw [execVFred, State.under_holds hq, leaves_eq, fredOp_eq]
  dsimp only
  rw [hroot, leaves_operands, nodeResult_eq]
  rfl

theorem exec_vFscan : exec (.vFscan q d a t m rm op) s = .next (s.putF t d m ((List.range (elemCount (tyBits t))).map fun i =>
    (reducedPrefix s t m a rm op (i + 1), treeOperands s t m a (i + 1)))) := by
  have hcount := elemCount_eq_two_pow ht
  have hnode : ∀ i < elemCount (tyBits t), ∀ l j, (j + 1) * 2 ^ l ≤ i + 1 →
      ((treeLevels (treeOp rm op) (treeDepth t) ((List.range (elemCount (tyBits t))).map (treeLeaf s t m a))).getD l []).getD j none =
        treeNode (treeOp rm op) (treeLeaf s t m a) l j := fun i hi l j hj => by
    rw [hcount] at hi ⊢
    exact treeLevels_node _ _ (hj.trans hi)
  have hsmall : ∀ i < elemCount (tyBits t), (i + 1) / 2 ^ 8 * 2 ^ 8 = 0 := fun i hi => by
    have hle := Nat.pow_le_pow_right (show 0 < 2 by norm_num) (treeDepth_le t)
    omega
  change execVFscan q d a t m rm op s = _
  rw [execVFscan, State.under_holds hq, leaves_eq, fredOp_eq, natRange_eq_map]
  dsimp only
  rw [List.map_map]
  congr 2
  refine map_range_congr fun i hi => ?_
  have hprefix := prefixNode_eq (hnode i hi) 7 none
  rw [hsmall i hi] at hprefix
  simp only [Function.comp_apply, Nat.zero_add, hprefix, nodeResult_eq, take_map_range _ (show i + 1 ≤ elemCount (tyBits t) from hi), leaves_operands]
  rfl

end

/-- FPCTL finds no fault with a finite result, nor, with nothing enabled, with any. -/
theorem fpBad_eq_false {ctl : Word} {v : FVal} (h : ctl = 0 ∨ v.isFin = true) (ops : List FVal) : fpBad ctl v ops = false := by
  rcases h with rfl | hfin
  · simp [fpBad]
  · cases v with
    | fin => simp [fpBad, FVal.isNan, FVal.isFin]
    | _ => cases hfin

end Sys2Proof.Machine

namespace Sys2Proof
open Machine Claims

/-- Settles O20: elements that do not execute stand as the identity of a fold, and the levels that the tree is built in hold its nodes. -/
theorem reductionsAndScans : Obligations.ReductionsAndScans := by
  refine ⟨fun q d a t m op s hq _ _ => ⟨exec_vRed hq d a t m op, exec_vScan hq d a t m op⟩, fun q d a t m rm op s hq ht _ => ?_⟩
  intro w node depth join tiles quiet
  have htiles : ∀ n, treeOut t rm op (tiles n) = reducedPrefix s t m a rm op n := fun n =>
    congrArg _ (foldl_two_leaves_eq_tileNodes (treeOp rm op) (treeLeaf s t m a) n 8 none)
  simp only [htiles]
  refine ⟨fun h => ?_, fun h => ?_⟩
  · have hgood := fpBad_eq_false (v := (fmtOf t).decode (reducedRoot s t m a rm op)) h (treeOperands s t m a (elemCount w))
    exact (exec_vFred hq d a ht m rm op).trans (congrArg _ (if_neg (Bool.eq_false_iff.mp hgood)))
  · exact (exec_vFscan hq d a ht m rm op).trans (congrArg _ (State.putF_quiet (fun i hi hrun => fpBad_eq_false (h i hi hrun) _) d))

end Sys2Proof

/-! PROOFS. A governed instruction whose result FPCTL traps writes nothing (R122, R123, Table 6.1). -/
namespace Sys2Proof.Machine
open Claims

/-! ### The trap that is held -/

/-- NONFINITE at the slot and pc of the operation at work (R123, R402). -/
def heldNonfinite (s : State) (o : PendOp) (i r : Nat) : Held :=
  ⟨o.id.seq, o.id.slot.toNat + 1, o.id.pc, false, false, o.id.slot.toNat, s.coreNum, { code := 0x30, elem := i, data := BitVec.ofNat 64 r }⟩

theorem State.raise_nonfinite {s : State} {o : PendOp} (hcur : s.cur = some o) (i r : Nat) :
    s.raise (trapNonfinite i r) = s.hold (heldNonfinite s o i r) := by
  have hcode : (trapNonfinite i r).code ≠ 0x42 := show 0x30 ≠ 0x42 by decide
  rw [State.raise, if_neg hcode, hcur]
  rfl

/-! ### Conversions and dequantisation (R140, R142) -/

theorem zeroPoint_of_codeTy {t : Ty} (ht : codeTy t = true) (e : Nat) : zeroPoint t e = e / 2 ^ 16 % 2 ^ tyBits t := by
  have hcases : ∀ t : Ty, codeTy t = true → t = 13 ∨ t = 14 := by decide
  rcases hcases t ht with rfl | rfl <;> rfl

section
variable {s : State} {q : Pred} (hq : s.holds q = true) (d a b : VReg) (m : KReg)
include hq

theorem exec_vCvt_traps (rm : Rm) (sat : Bool) {dt st : Ty} (hdt : isFloatTy dt = true) {i : Nat}
    (h : firstOf s m (max (tyBits dt) (tyBits st)) (fun i => fpBad s.readFpctl
      ((fmtOf dt).decode (convert rm sat dt st (el s (tyBits st) a i))) [cvtVal st (el s (tyBits st) a i)] = true) i) :
    exec (.vCvt q d a dt st m rm sat) s = .next (s.raise (trapNonfinite i (convert rm sat dt st (el s (tyBits st) a i)))) := by
  change execVCvt q d a dt st m rm sat s = _
  rw [execVCvt, State.under_holds hq]
  simp only [State.readElems_eq, take_map_range _ (elemCount_max_le dt st), List.map_map, hdt, if_true, zip_map_range, zipIdx_map_range,
    List.find?_map, Function.comp_def, laneOn_laneMask, find?_firstOf h, Option.map_some]

theorem exec_vDequant_eq_putF {t : Ty} (ht : codeTy t = true) : exec (.vDequant q d a b t m) s =
    .next (s.putF 12 d m ((List.range (elemCount 32)).map fun i =>
      (dequant (el s 32 b (i / 32) % 2 ^ 16) (el s 32 b (i / 32) / 2 ^ 16 % 2 ^ tyBits t) (el s (tyBits t) a i),
        [fp16.decode (el s 32 b (i / 32) % 2 ^ 16)]))) := by
  have hcount : 64 ≤ elemCount (tyBits t) := by
    revert t
    decide
  change execVDequant q d a b t m s = _
  rw [execVDequant, State.under_holds hq, State.readElems_eq s (tyBits t) a, take_map_range _ hcount, zipIdx_map_range]
  simp only [List.map_map, Function.comp_def, entryScale_eq, entryZp_eq, zeroPoint_of_codeTy ht]
  rfl

end

end Sys2Proof.Machine

namespace Sys2Proof
open Machine Claims

/-- Settles O9: what each governed instruction judges is its result and operands, and a bad one is reported in place of the write. -/
theorem nonfiniteWritesNothing : Obligations.NonfiniteWritesNothing := by
  intro q s o hq hcur hnone ctl traps
  have hheld : ∀ i r, traps i r = { s with ctx := { s.ctx with trap := some (heldNonfinite s o i r) } } := fun i r =>
    State.hold_first s _ hnone
  have reports : ∀ {i r : Nat} {x : Out} {t : State}, x = .next t → t = s.raise (trapNonfinite i r) → x = .next (traps i r) :=
    fun hx ht => hx.trans (congrArg _ (ht.trans (State.raise_nonfinite hcur _ _)))
  refine ⟨fun i r => ⟨by rw [hheld], heldNonfinite s o i r, rfl, rfl, rfl, hheld i r⟩, ?scalar, ?scalarConversion, ?elementwise, ?conversion,
    ?dequantisation, ?tree⟩
  case scalar =>
    intro d a b c dbl rm p x y z e he hbad
    exact reports (exec_governedScalar hq (d := d) (dbl := dbl) he) (State.setF_traps hbad d)
  case scalarConversion =>
    intro d a dt st sat rm hdt _ hfloat v r hbad
    have hfloat' : isFloatTy dt = true := (isFloatTy_of_cvtTy hdt).trans hfloat
    exact reports (exec_aFcvt hq d a dt st sat rm) ((if_pos hfloat').trans (State.setF_traps hbad d))
  case elementwise =>
    intro d a c b t m rm _ e he i hfirst
    exact reports (exec_governed hq he) (State.putF_traps hfirst d)
  case conversion =>
    intro d a dt st m rm sat hdt wide f i hfirst
    exact reports (exec_vCvt_traps hq d a m rm sat hdt hfirst) rfl
  case dequantisation =>
    intro d a b t m ht entry f i hfirst
    exact reports (exec_vDequant_eq_putF hq d a b m ht) (State.putF_traps (t := 12) hfirst d)
  case tree =>
    intro d a t m rm op ht _ w node join tiles root bad
    have htiles : ∀ n, tiles n = reducedPrefix s t m a rm op n := fun n =>
      congrArg (treeOut t rm op) (foldl_two_leaves_eq_tileNodes (treeOp rm op) (treeLeaf s t m a) n 8 none)
    simp only [htiles]
    refine ⟨fun hbad => ?_, fun i hfirst => ?_⟩
    · exact reports (exec_vFred hq d a ht m rm op) (if_pos hbad)
    · exact reports (exec_vFscan hq d a ht m rm op) (State.putF_traps hfirst d)

end Sys2Proof

/-! PROOFS. The permutes and lane transfers (R148 to R153). -/
namespace Sys2Proof.Machine
open Claims

/-! ### Lists that a transfer makes -/

theorem map_range_succ {α : Type} (f : Nat → α) (n : Nat) : (List.range (n + 1)).map f = f 0 :: (List.range n).map fun i => f (i + 1) := by
  rw [List.range_succ_eq_map, List.map_cons, List.map_map]
  rfl

theorem everyOther_cons {α : Type} (x : α) (l : List α) : everyOther (x :: l) = x :: everyOther (l.drop 1) := by
  cases l <;> rfl

/-- Every second element, counted from element 0 or from element 1 (R152). -/
theorem everyOther_map_range {α : Type} (odd : Bool) (f : Nat → α) (n : Nat) :
    everyOther (((List.range (2 * n)).map f).drop odd.toNat) = (List.range n).map fun i => f (2 * i + odd.toNat) := by
  induction n generalizing f with
  | zero => cases odd <;> rfl
  | succ n ih =>
    have hlist : (List.range (2 * (n + 1))).map f = f 0 :: f 1 :: (List.range (2 * n)).map fun i => f (i + 2) := by
      rw [Nat.mul_succ, map_range_succ, map_range_succ]
    have hdrop : everyOther ((f 0 :: f 1 :: (List.range (2 * n)).map fun i => f (i + 2)).drop odd.toNat) =
        f odd.toNat :: everyOther (((List.range (2 * n)).map fun i => f (i + 2)).drop odd.toNat) := by
      cases odd
      · exact everyOther_cons (f 0) _
      · exact everyOther_cons (f 1) _
    rw [hlist, hdrop, ih, map_range_succ, Nat.mul_zero, Nat.zero_add]
    exact congrArg _ (map_range_congr fun i _ => congrArg f (by omega))

theorem zipped_map_range {α : Type} (f g : Nat → α) (n : Nat) :
    zipped ((List.range n).map f) ((List.range n).map g) =
      (List.range (2 * n)).map fun i => if i % 2 = 0 then f (i / 2) else g (i / 2) := by
  induction n generalizing f g with
  | zero => rfl
  | succ n ih =>
    rw [map_range_succ f, map_range_succ g, zipped, ih, Nat.mul_succ, map_range_succ, map_range_succ]
    simp only [Nat.add_assoc, Nat.reduceAdd, Nat.add_mod_right, Nat.add_div_right _ Nat.two_pos]
    rfl

/-- The lower or the upper half of a list (R152). -/
theorem half_map_range {α : Type} (hi : Bool) (f : Nat → α) (n : Nat) :
    (if hi = true then ((List.range (n + n)).map f).drop n else ((List.range (n + n)).map f).take n) =
      (List.range n).map fun i => f ((if hi then n else 0) + i) := by
  cases hi
  · simp [take_map_range]
  · simp [drop_map_range, Nat.add_comm]

theorem listSet_eq_set {α : Type} (l : List α) (n : Nat) (x : α) : listSet l n x = l.set n x := by
  induction l generalizing n with
  | nil => rfl
  | cons a l ih =>
    cases n with
    | zero => rfl
    | succ n => exact congrArg (a :: ·) (ih n)

theorem listSet_map_range {α : Type} (f : Nat → α) (n k : Nat) (x : α) :
    listSet ((List.range n).map f) k x = (List.range n).map fun i => if i = k then x else f i := by
  rw [listSet_eq_set]
  refine List.ext_getElem (by simp) fun i h₁ h₂ => ?_
  simp [List.getElem_set, eq_comm]

theorem packed_map_range (s : State) (m : KReg) (w n : Nat) (f : Nat → Nat) :
    packed (s.laneMask m) w ((List.range n).map f) = ((List.range n).filter (runs s m w)).map f := by
  rw [packed, zipIdx_map_range, List.filter_map, List.map_map]
  simp only [Function.comp_def, laneOn_laneMask]

/-- An executing element is dealt the one whose index is the number of executing elements before it (R151). -/
theorem dealt_eq (l : Word) (w : Nat) (old xs : List Nat) (i : Nat) : dealt l w i old xs = (List.range old.length).map fun j =>
    if laneOn l w (i + j) then xs.getD ((List.range j).countP fun j => laneOn l w (i + j)) 0 else old.getD j 0 := by
  induction old generalizing xs i with
  | nil => rfl
  | cons o old ih =>
    rw [List.length_cons, map_range_succ]
    have hindex : ∀ j, i + (j + 1) = i + 1 + j := fun j => by omega
    have hcount : ∀ j, (List.range (j + 1)).countP (fun j => laneOn l w (i + j)) =
        (List.range j).countP (fun j => laneOn l w (i + 1 + j)) + if laneOn l w i then 1 else 0 := fun j => by
      simp [List.range_succ_eq_map, List.countP_cons, List.countP_map, Function.comp_def, Nat.add_assoc, Nat.add_comm 1]
    cases hon : laneOn l w i with
    | false =>
      rw [dealt, hon, if_neg Bool.false_ne_true, ih]
      refine congrArg₂ _ (by simp) (map_range_congr fun j _ => ?_)
      rw [hcount, hon, hindex j]
      rfl
    | true =>
      rw [dealt, hon, if_pos rfl, ih]
      refine congrArg₂ _ (by cases xs <;> simp) (map_range_congr fun j _ => ?_)
      rw [hcount, hon, hindex j]
      cases xs <;> rfl

/-! ### The instructions -/

theorem el_eq_zero {w i : Nat} (h : elemCount w ≤ i) (s : State) (r : VReg) : el s w r i = 0 :=
  List.getD_eq_default _ _ (by rwa [State.readElems_length])

theorem elemCount_eq_two_halves (t : Ty) : elemCount (tyBits t) = elemCount (tyBits t) / 2 + elemCount (tyBits t) / 2 := by
  revert t; decide

/-- The signed distance of a slide or rotation: a register's value or the immediate (R150). -/
def Distance (s : State) (o : VSrc) (k : Int) : Prop := (∃ r, o = .s r ∧ k = (s.readS r).toInt) ∨ ∃ i, o = .imm i ∧ k = i.toInt

theorem Distance.slideBy_eq {s : State} {o : VSrc} {k : Int} (h : Distance s o k) : s.slideBy o = k := by
  rcases h with ⟨r, rfl, rfl⟩ | ⟨i, rfl, rfl⟩ <;> rfl

section
variable {s : State} {q : Pred} (hq : s.holds q = true) (d a b : VReg) (t : Ty) (m : KReg)
include hq

theorem exec_vPerm : exec (.vPerm q d a b t m) s =
    .next (masked s (tyBits t) d m fun i => el s (tyBits t) a (el s (tyBits t) b i % elemCount (tyBits t))) := by
  change execVPerm q d a b t m s = _
  rw [execVPerm, State.under_holds hq]
  dsimp only
  rw [State.readElems_eq s _ b, List.map_map, ← State.putElems_eq]
  rfl

theorem exec_vSlide {o : VSrc} {k : Int} (hk : Distance s o k) : exec (.vSlide q d a o t m) s = .next (masked s (tyBits t) d m fun i =>
    if 0 ≤ (i : Int) - k ∧ (i : Int) - k < elemCount (tyBits t) then el s (tyBits t) a ((i : Int) - k).toNat else 0) := by
  change execVSlide q d a o t m s = _
  rw [execVSlide, State.under_holds hq]
  dsimp only
  rw [natRange_eq_map, List.map_map, ← State.putElems_eq]
  refine congrArg (fun l => Host.Outcome.next (s.putElems (tyBits t) d m l)) (map_range_congr fun i _ => ?_)
  rw [Function.comp_apply, Nat.zero_add, hk.slideBy_eq]
  by_cases hlow : 0 ≤ (i : Int) - k
  · by_cases hhigh : (i : Int) - k < elemCount (tyBits t)
    · rw [if_pos hlow, if_pos ⟨hlow, hhigh⟩, el]
    · rw [if_pos hlow, if_neg fun h => hhigh h.2]
      exact el_eq_zero (by omega) s a
  · rw [if_neg hlow, if_neg fun h => hlow h.1]

theorem exec_vRot {o : VSrc} {k : Int} (hk : Distance s o k) : exec (.vRot q d a o t m) s =
    .next (masked s (tyBits t) d m fun i => el s (tyBits t) a (((i : Int) - k) % elemCount (tyBits t)).toNat) := by
  change execVRot q d a o t m s = _
  rw [execVRot, State.under_holds hq]
  dsimp only
  rw [natRange_eq_map, List.map_map, ← State.putElems_eq]
  simp only [Function.comp_def, Nat.zero_add, hk.slideBy_eq, el]

theorem exec_vCompress : exec (.vCompress q d a t m) s = .next (s.writeElems (tyBits t) d
    (((List.range (elemCount (tyBits t))).filter (runs s m (tyBits t))).map (el s (tyBits t) a) ++
      List.replicate (elemCount (tyBits t) - ((List.range (elemCount (tyBits t))).filter (runs s m (tyBits t))).length) 0)) := by
  change execVCompress q d a t m s = _
  rw [execVCompress, State.under_holds hq]
  simp only [State.readElems_eq, packed_map_range, List.length_map]

theorem exec_vExpand : exec (.vExpand q d a t m) s =
    .next (masked s (tyBits t) d m fun i => el s (tyBits t) a ((List.range i).countP (runs s m (tyBits t)))) := by
  change execVExpand q d a t m s = _
  rw [execVExpand, State.under_holds hq]
  simp only [dealt_eq, State.readElems_length, Nat.zero_add, laneOn_laneMask]
  rfl

theorem exec_vZip (hi : Bool) : exec (.vZip q d a b t m hi) s = .next (masked s (tyBits t) d m fun i =>
    if i % 2 = 0 then el s (tyBits t) a ((if hi then elemCount (tyBits t) / 2 else 0) + i / 2)
    else el s (tyBits t) b ((if hi then elemCount (tyBits t) / 2 else 0) + i / 2)) := by
  change execVZip q d a b t m hi s = _
  have hhalves := elemCount_eq_two_halves t
  rw [execVZip, State.under_holds hq, ← State.putElems_eq]
  simp only [State.readElems_eq]
  generalize elemCount (tyBits t) / 2 = half at *
  simp only [hhalves, half_map_range, zipped_map_range, Nat.two_mul]

theorem exec_vUnzip (hi : Bool) : exec (.vUnzip q d a b t m hi) s = .next (masked s (tyBits t) d m fun i =>
    if i < elemCount (tyBits t) / 2 then el s (tyBits t) a (2 * i + hi.toNat)
    else el s (tyBits t) b (2 * (i - elemCount (tyBits t) / 2) + hi.toNat)) := by
  change execVUnzip q d a b t m hi s = _
  have hhalves := elemCount_eq_two_halves t
  have hpart : ∀ l : List Nat, (if hi = true then l.drop 1 else l) = l.drop hi.toNat := by cases hi <;> simp
  rw [execVUnzip, State.under_holds hq, ← State.putElems_eq]
  simp only [State.readElems_eq, hpart]
  generalize elemCount (tyBits t) / 2 = half at *
  rw [hhalves, ← append_map_range (fun i => el s (tyBits t) a (2 * i + hi.toNat)) (fun i => el s (tyBits t) b (2 * i + hi.toNat)),
    ← Nat.two_mul, everyOther_map_range, everyOther_map_range]

theorem exec_vExtr (sd sb : SReg) : exec (.vExtr q sd a sb t) s = .next (s.writeS sd
    (if (s.readS sb).toNat < elemCount (tyBits t) then BitVec.ofInt 64 (tval t (el s (tyBits t) a (s.readS sb).toNat)) else 0)) := by
  change execVExtr q sd a sb t s = _
  rw [execVExtr, State.under_holds hq]
  have hval : (if tySigned t = true then BitVec.ofInt 64 (intVal true (tyBits t) (el s (tyBits t) a (s.readS sb).toNat))
      else BitVec.ofNat 64 (el s (tyBits t) a (s.readS sb).toNat)) = BitVec.ofInt 64 (tval t (el s (tyBits t) a (s.readS sb).toNat)) := by
    rw [← intVal_eq]
    cases hsign : tySigned t
    · simp [intVal, Nat.mod_eq_of_lt (el_lt_two_pow s (tyBits t) a (s.readS sb).toNat)]
    · rfl
  rw [← hval]
  by_cases hin : (s.readS sb).toNat < elemCount (tyBits t)
  · simp only [hin, if_true]
    rfl
  · simp only [hin, if_false]

theorem exec_vIns (sa sb : SReg) : exec (.vIns q d sa sb t) s = .next (if (s.readS sb).toNat < elemCount (tyBits t) then
    s.writeElems (tyBits t) d ((List.range (elemCount (tyBits t))).map fun i =>
      if i = (s.readS sb).toNat then (s.readS sa).toNat % 2 ^ tyBits t else el s (tyBits t) d i) else s) := by
  change execVIns q d sa sb t s = _
  rw [execVIns, State.under_holds hq]
  simp only [State.readElems_eq, listSet_map_range]

end

end Sys2Proof.Machine

namespace Sys2Proof
open Machine Claims

/-- Settles O15: each transfer writes the elements it takes from its operands by index. -/
theorem laneTransferResults : Obligations.LaneTransferResults := by
  intro q d a b t m s hq w n x live
  exact ⟨exec_vPerm hq d a b t m, fun o k hk => ⟨exec_vSlide hq d a t m hk, exec_vRot hq d a t m hk⟩, exec_vCompress hq d a t m,
    exec_vExpand hq d a t m, fun hi => ⟨exec_vZip hq d a b t m hi, exec_vUnzip hq d a b t m hi⟩, exec_vExtr hq a t, exec_vIns hq d t⟩

end Sys2Proof

/-! PROOFS. The mask stack and the lane masks (R154 to R157). -/
namespace Sys2Proof.Machine
open Claims

/-! ### Entries of a mask stack -/

theorem maskAt_eq_getElem (m : Vector Word 16) {i : Nat} (h : i < 16) : maskAt m i = m[i] := by
  simp [maskAt, List.getD_eq_getElem?_getD, h]

theorem maskAt_setMask (m : Vector Word 16) (k : Nat) (x : Word) {i : Nat} (h : i < 16) :
    maskAt (setMask m k x) i = if i = k then x else maskAt m i := by
  simp [maskAt_eq_getElem _ h, setMask]

/-! ### The mask stack (R154, R155) -/

/-- The instruction leaves d entries f 0 to f (d − 1) on the mask stack, and changes nothing else but the values kept for its bundle. -/
def LeavesStack (s : State) (i : Instr) (d : Nat) (f : Nat → Word) : Prop := ∃ m l, exec i s = .next
    { s with ctx := { s.ctx with regs := { s.ctx.regs with mstk := m, mdep := BitVec.ofNat 5 d }, saved := l } } ∧
  ∀ i < d, maskAt m i = f i

theorem leavesStack_of_writeMask {s : State} {i : Instr} {m : Vector Word 16} {e : BitVec 5} {d : Nat} {f : Nat → Word}
    (hrun : exec i s = .next (s.writeMask m e)) (he : e = BitVec.ofNat 5 d) (hf : ∀ i < d, maskAt m i = f i) : LeavesStack s i d f :=
  ⟨m, _, by rw [hrun, State.writeMask_eq, he], hf⟩

/-- The instruction holds MASK_STACK (0x31) and changes nothing else. -/
def HoldsMaskStack (s : State) (i : Instr) : Prop :=
  ∃ h, h.info.code = 0x31 ∧ exec i s = .next { s with ctx := { s.ctx with trap := some h } }

/-- A trap of MASK_STACK is the operation's at work, or the context's where none is. -/
theorem holdsMaskStack_of_raise {s : State} (hnone : s.ctx.trap = none) {i : Instr} (hrun : exec i s = .next (s.raise trapMaskStack)) :
    HoldsMaskStack s i := by
  have hraise : ∃ h : Held, h.info = trapMaskStack ∧ s.raise trapMaskStack = s.hold h := by
    rw [State.raise, if_neg (by decide)]
    split <;> exact ⟨_, rfl, rfl⟩
  obtain ⟨h, hinfo, hheld⟩ := hraise
  exact ⟨h, by rw [hinfo]; rfl, by rw [hrun, hheld, State.hold_first s h hnone]⟩

section
variable {s : State} {q : Pred} (hq : s.holds q = true)
include hq

theorem exec_vMpush (k : KReg) : exec (.vMpush q k) s = .next (if s.maskStack.2 = 16 then s.raise trapMaskStack
    else s.writeMask (setMask s.maskStack.1 s.maskStack.2.toNat (maskAt s.maskStack.1 (s.maskStack.2.toNat - 1) &&& s.readK k))
      (s.maskStack.2 + 1)) := by
  change execVMpush q k s = _
  rw [execVMpush, State.under_holds hq]

theorem exec_vMinv : exec (.vMinv q) s = .next (if s.maskStack.2 = 1 then s.raise trapMaskStack
    else s.writeMask (setMask s.maskStack.1 (s.maskStack.2.toNat - 1)
      (maskAt s.maskStack.1 (s.maskStack.2.toNat - 2) &&& ~~~maskAt s.maskStack.1 (s.maskStack.2.toNat - 1))) s.maskStack.2) := by
  change execVMinv q s = _
  rw [execVMinv, State.under_holds hq]

theorem exec_vMpop : exec (.vMpop q) s =
    .next (if s.maskStack.2 = 1 then s.raise trapMaskStack else s.writeMask s.maskStack.1 (s.maskStack.2 - 1)) := by
  change execVMpop q s = _
  rw [execVMpop, State.under_holds hq]

theorem push_leavesStack (k : KReg) (hroom : s.maskStack.2.toNat < 16) :
    LeavesStack s (.vMpush q k) (s.maskStack.2.toNat + 1) fun i =>
      if i = s.maskStack.2.toNat then maskAt s.maskStack.1 (s.maskStack.2.toNat - 1) &&& s.readK k else maskAt s.maskStack.1 i := by
  have hrun := exec_vMpush hq k
  rw [if_neg (by bv_omega)] at hrun
  exact leavesStack_of_writeMask hrun (by bv_omega) fun i hi => maskAt_setMask _ _ _ (by omega)

theorem invert_leavesStack (hdeep : 2 ≤ s.maskStack.2.toNat) (hfit : s.maskStack.2.toNat ≤ 16) :
    LeavesStack s (.vMinv q) s.maskStack.2.toNat fun i => if i = s.maskStack.2.toNat - 1
      then maskAt s.maskStack.1 (s.maskStack.2.toNat - 2) &&& ~~~maskAt s.maskStack.1 (s.maskStack.2.toNat - 1)
      else maskAt s.maskStack.1 i := by
  have hrun := exec_vMinv hq
  rw [if_neg (by bv_omega)] at hrun
  exact leavesStack_of_writeMask hrun (by bv_omega) fun i hi => maskAt_setMask _ _ _ (by omega)

theorem pop_leavesStack (hdeep : 2 ≤ s.maskStack.2.toNat) : LeavesStack s (.vMpop q) (s.maskStack.2.toNat - 1) (maskAt s.maskStack.1) := by
  have hrun := exec_vMpop hq
  rw [if_neg (by bv_omega)] at hrun
  exact leavesStack_of_writeMask hrun (by bv_omega) fun _ _ => rfl

theorem push_holdsMaskStack (k : KReg) (hnone : s.ctx.trap = none) (hfull : s.maskStack.2.toNat = 16) : HoldsMaskStack s (.vMpush q k) := by
  have hrun := exec_vMpush hq k
  rw [if_pos (by bv_omega)] at hrun
  exact holdsMaskStack_of_raise hnone hrun

theorem invert_holdsMaskStack (hnone : s.ctx.trap = none) (hone : s.maskStack.2.toNat = 1) : HoldsMaskStack s (.vMinv q) := by
  have hrun := exec_vMinv hq
  rw [if_pos (by bv_omega)] at hrun
  exact holdsMaskStack_of_raise hnone hrun

theorem pop_holdsMaskStack (hnone : s.ctx.trap = none) (hone : s.maskStack.2.toNat = 1) : HoldsMaskStack s (.vMpop q) := by
  have hrun := exec_vMpop hq
  rw [if_pos (by bv_omega)] at hrun
  exact holdsMaskStack_of_raise hnone hrun

end

/-! ### The lane masks (R157, Table 7.1) -/

theorem maskCount_eq_countP (x : Word) : maskCount x = (List.range 64).countP x.getLsbD := List.countP_eq_length_filter.symm

theorem exec_vKpopc {s : State} {q : Pred} (hq : s.holds q = true) (d : SReg) (k : KReg) :
    exec (.vKpopc q d k) s = .next (s.writeS d (BitVec.ofNat 64 ((List.range 64).countP (s.readK k).getLsbD))) := by
  change execVKpopc q d k s = _
  rw [execVKpopc, State.under_holds hq, maskCount_eq_countP]

end Sys2Proof.Machine

namespace Sys2Proof
open Machine Claims

/-- Settles O16: between its ends the stack takes the entries of R155; at an end MASK_STACK is held. The lane masks are one write each. -/
theorem maskStackResults : Obligations.MaskStackResults := by
  intro q ka kb kd sa sd s hq depth old becomes traps
  have effect : ∀ f : State → State, s.under q f = .next (f s) := State.under_holds hq
  exact ⟨fun _ hroom => push_leavesStack hq ka hroom, fun hdeep hfit => ⟨invert_leavesStack hq hdeep hfit, pop_leavesStack hq hdeep⟩,
    push_holdsMaskStack hq ka, fun hnone hone => ⟨invert_holdsMaskStack hq hnone hone, pop_holdsMaskStack hq hnone hone⟩,
    effect fun s => s.writeK kd (s.readK ka), effect fun s => s.writeK kd (s.readS sa),
    effect fun s => s.writeK kd (s.readK ka &&& s.readK kb), effect fun s => s.writeK kd (s.readK ka ||| s.readK kb),
    effect fun s => s.writeK kd (s.readK ka ^^^ s.readK kb), effect fun s => s.writeK kd (s.readK ka &&& ~~~s.readK kb),
    effect fun s => s.writeK kd (~~~s.readK ka), exec_vKpopc hq sd ka⟩

end Sys2Proof

/-! PROOFS. Hashing, partitions and strings (R162 to R171). -/
namespace Sys2Proof.Machine
open Claims

theorem natRange_from_zero (n : Nat) : natRange 0 n = List.range n := by simp [natRange_eq_map]

/-! ### Hashing (R162 to R165) -/

theorem crcBits_eq_foldl (n c : Nat) :
    crcBits n c = (List.range n).foldl (fun c _ => if c % 2 = 1 then (c / 2) ^^^ 0x82F63B78 else c / 2) c := by
  induction n generalizing c with
  | zero => rfl
  | succ n ih =>
    rw [crcBits, ih, List.range_succ_eq_map, List.foldl_cons, List.foldl_map]
    simp only [Nat.testBit_zero, decide_eq_true_eq, Nat.shiftRight_one]

theorem crc32cByte_eq (c b : Nat) : crc32cByte c b = crcByte c b := crcBits_eq_foldl 8 _

/-- Byte j of a slice or key, lowest first. -/
theorem strByte_eq (x j : Nat) : strByte x j = x / 256 ^ j % 256 := by
  rw [strByte, Nat.shiftRight_eq_div_pow, Nat.pow_mul]

theorem crcOfKey_eq (n x c : Nat) : (keyBytes n x).foldl crc32cByte c = Claims.crcBytes c x n := by
  rw [keyBytes, natRange_from_zero, List.foldl_map, Claims.crcBytes]
  simp only [crc32cByte_eq, ← strByte_eq]
  rfl

theorem toNat_mixStep (v c : Word) (n : Nat) : ((v ^^^ (v >>> n)) * c).toNat = (v.toNat ^^^ (v.toNat / 2 ^ n)) * c.toNat % 2 ^ 64 := by
  rw [BitVec.toNat_mul, BitVec.toNat_xor, BitVec.toNat_ushiftRight, Nat.shiftRight_eq_div_pow]

theorem mix_eq_mixed (x y : Word) : (mix x y).toNat = mixed x.toNat y.toNat := by
  have h₁ : (0x9E6B3A5D2C714F07 : Word).toNat = 0x9E6B3A5D2C714F07 := rfl
  have h₂ : (0xC2B8E41F6D5A3097 : Word).toNat = 0xC2B8E41F6D5A3097 := rfl
  rw [mix, mixed, BitVec.toNat_xor, BitVec.toNat_ushiftRight, Nat.shiftRight_eq_div_pow, toNat_mixStep, toNat_mixStep, BitVec.toNat_xor, h₁, h₂]
theorem mix_ofNat_eq_mixed {x y : Nat} (hx : x < 2 ^ 64) (hy : y < 2 ^ 64) :
    (mix (BitVec.ofNat 64 x) (BitVec.ofNat 64 y)).toNat = mixed x y := by
  rw [mix_eq_mixed, BitVec.toNat_ofNat, BitVec.toNat_ofNat, Nat.mod_eq_of_lt hx, Nat.mod_eq_of_lt hy]

/-! ### Partitions (R166) -/

/-- The low bits of a number that a descriptor's WIDTH chooses (at most 12). -/
def lowBits (desc x : Nat) : Nat := x % 2 ^ (min (desc / 256 % 16) 11 + 1)

theorem and_partMask (desc x : Nat) : x &&& partMask desc = lowBits desc x := by
  simp [partMask, lowBits, bits, bitsOf, Nat.shiftRight_eq_div_pow, Nat.and_two_pow_sub_one_eq_mod]

theorem shiftRight_partShift (desc h : Nat) : h >>> partShift desc = h / 2 ^ (desc % 32) := by
  simp [partShift, bits, bitsOf, Nat.shiftRight_eq_div_pow]

theorem partPart_eq (desc : Nat) : partPart desc = desc / 2 ^ 16 % 2 ^ 12 := by simp [partPart, bits, bitsOf, Nat.shiftRight_eq_div_pow]

/-! ### One lane of a compare (R169) -/

theorem byteOrder_of_same {x y : Nat} {l : List Nat} (h : ∀ j ∈ l, strByte x j = strByte y j) : byteOrder x y l = 0 := by
  induction l with
  | nil => rfl
  | cons j l ih =>
    obtain ⟨hj, hl⟩ := List.forall_mem_cons.mp h
    rw [byteOrder, hj, if_neg (lt_irrefl _), if_neg (lt_irrefl _), ih hl]

/-- The first byte in which two slices differ decides their order. -/
theorem byteOrder_of_differ {x y j : Nat} (hdiff : strByte x j ≠ strByte y j) {k n : Nat} (hk : k ≤ j) (hj : j < k + n)
    (hsame : ∀ i, k ≤ i → i < j → strByte x i = strByte y i) :
    byteOrder x y (natRange k n) = if strByte x j < strByte y j then 1 else 2 := by
  induction n generalizing k with
  | zero => omega
  | succ n ih =>
    rw [natRange, byteOrder]
    rcases hk.eq_or_lt with rfl | hlt
    · by_cases hless : strByte x k < strByte y k
      · rw [if_pos hless, if_pos hless]
      · rw [if_neg hless, if_neg hless, if_pos (by omega)]
    · rw [hsame k le_rfl hlt, if_neg (lt_irrefl _), if_neg (lt_irrefl _)]
      exact ih hlt (by omega) fun i hi => hsame i (by omega)

/-- The number of bytes of a slice that both strings have. -/
def commonBytes (len : Nat) : Nat := min 4 (min (len % 2 ^ 16) (len / 2 ^ 16))

/-- Below j the bytes of two slices agree. -/
def SameBelow (x y j : Nat) : Prop := ∀ i < j, x / 256 ^ i % 256 = y / 256 ^ i % 256

theorem compareLane_of_undecided {old : Nat} (h : old % 4 = 0) (x y len : Nat) : compareLane old x y len =
    if byteOrder x y (natRange 0 (commonBytes len)) = 0 ∧ (len % 2 ^ 16 ≤ 4 ∨ len / 2 ^ 16 ≤ 4)
    then (if len % 2 ^ 16 < len / 2 ^ 16 then 1 else if len / 2 ^ 16 < len % 2 ^ 16 then 2 else 3)
    else byteOrder x y (natRange 0 (commonBytes len)) := by
  have hcommon : min (min 4 (len % 2 ^ 16)) (min 4 (len / 2 ^ 16)) = commonBytes len := by
    rw [commonBytes]
    omega
  simp only [compareLane, h, hcommon, ne_eq, not_true_eq_false, if_false, Bool.and_eq_true, Bool.or_eq_true, decide_eq_true_eq]

theorem compareLane_of_decided {old : Nat} (h : old % 4 ≠ 0) (x y len : Nat) : compareLane old x y len = old % 4 := if_pos h

theorem compareLane_of_differ {old x y len j : Nat} (hj : j < commonBytes len) (hold : old % 4 = 0) (hsame : SameBelow x y j)
    (hdiff : x / 256 ^ j % 256 ≠ y / 256 ^ j % 256) :
    compareLane old x y len = if x / 256 ^ j % 256 < y / 256 ^ j % 256 then 1 else 2 := by
  simp only [SameBelow, ← strByte_eq] at *
  have horder := byteOrder_of_differ hdiff (Nat.zero_le j) (by rwa [Nat.zero_add]) fun i _ => hsame i
  rw [compareLane_of_undecided hold, horder, if_neg]
  split <;> simp

theorem compareLane_of_same {old x y len : Nat} (hold : old % 4 = 0) (hsame : SameBelow x y (commonBytes len)) : compareLane old x y len =
    if len % 2 ^ 16 ≤ 4 ∨ len / 2 ^ 16 ≤ 4
    then (if len % 2 ^ 16 < len / 2 ^ 16 then 1 else if len / 2 ^ 16 < len % 2 ^ 16 then 2 else 3) else 0 := by
  have horder : byteOrder x y (natRange 0 (commonBytes len)) = 0 := by
    refine byteOrder_of_same fun j hj => ?_
    rw [strByte_eq, strByte_eq]
    exact hsame j (by rwa [natRange_from_zero, List.mem_range] at hj)
  rw [compareLane_of_undecided hold, horder]
  simp only [true_and]

/-! ### One lane of a search (R170) -/

theorem testBit_31 {x : Nat} (h : x < 2 ^ 32) : x.testBit 31 = decide (2 ^ 31 ≤ x) := by
  rw [testBit_top (w := 32) (by norm_num) h]
  exact decide_eq_decide.mpr (by omega)

theorem searchLane_of_found {old x y len : Nat} (hlt : old < 2 ^ 32) (hold : 2 ^ 31 ≤ old) : searchLane old x y len = old := by
  rw [searchLane, testBit_31 hlt, if_pos (decide_eq_true hold)]

theorem searchLane_of_match {old x y len j : Nat} (hj : j < min 4 (len % 2 ^ 16)) (hold : old < 2 ^ 31)
    (hbefore : ∀ i < j, x / 256 ^ i % 256 ≠ y % 256) (hmatch : x / 256 ^ j % 256 = y % 256) : searchLane old x y len = 2 ^ 31 ||| (old + j) := by
  have hfind : (natRange 0 (min 4 (len % 2 ^ 16))).find? (fun j => strByte x j == y % 256) = some j := by
    simp only [natRange_from_zero, strByte_eq]
    exact List.find?_range_eq_some.mpr ⟨by simpa using hmatch, List.mem_range.mpr hj, fun i hi => by simpa using hbefore i hi⟩
  rw [searchLane, testBit_31 (by omega), if_neg (by simpa using hold)]
  simp only [hfind]
  rw [Nat.mod_eq_of_lt (by omega)]

theorem searchLane_of_no_match {old x y len : Nat} (hold : old < 2 ^ 31) (hnone : ∀ i < min 4 (len % 2 ^ 16), x / 256 ^ i % 256 ≠ y % 256) :
    searchLane old x y len = (old + min 4 (len % 2 ^ 16)) % 2 ^ 31 := by
  have hfind : (natRange 0 (min 4 (len % 2 ^ 16))).find? (fun j => strByte x j == y % 256) = none := by
    simp only [natRange_from_zero, strByte_eq, List.find?_eq_none, List.mem_range, beq_iff_eq]
    exact hnone
  rw [searchLane, testBit_31 (by omega), if_neg (by simpa using hold)]
  simp only [hfind]

/-! ### The instructions -/

theorem keyTy_counts {t : Ty} (ht : keyTy t = true) : elemCount (tyBits t) = elemCount 32 := by
  revert t; decide

theorem tyBits_of_wideTy {t : Ty} (ht : wideTy t = true) : tyBits t = 64 := by
  revert t; decide

theorem runs_32 (s : State) (m : KReg) (l : Nat) : runs s m 32 l = (s.laneMask m).getLsbD l := by
  rw [runs, laneOf, if_neg (by norm_num), Nat.mul_div_cancel l (by norm_num), State.laneMask]

/-- The first element of a descriptor register is its descriptor. -/
theorem State.headD_readElems (s : State) (w : Nat) (r : VReg) : (s.readElems w r).headD 0 = el s w r 0 := List.headD_eq_getD ..

/-- The lanes that execute and whose hash falls in the descriptor's partition (R166). -/
def partLanes (s : State) (a b : VReg) (m : KReg) : Word := laneBits (s.laneMask m) fun i =>
  lowBits (el s 32 b 0) (el s 32 a i / 2 ^ (el s 32 b 0 % 32)) == lowBits (el s 32 b 0) (el s 32 b 0 / 2 ^ 16 % 2 ^ 12)

theorem partLanes_getLsbD (s : State) (a b : VReg) (m : KReg) {l : Nat} (hl : l < 64) : (partLanes s a b m).getLsbD l =
    (runs s m 32 l && decide (lowBits (el s 32 b 0) (el s 32 a l / 2 ^ (el s 32 b 0 % 32)) =
      lowBits (el s 32 b 0) (el s 32 b 0 / 2 ^ 16 % 2 ^ 12))) := by
  rw [partLanes, laneBits_getLsbD _ _ hl, runs_32]
  rfl

theorem State.stringB_eq (s : State) (o : VSrc) : s.stringB o = (List.range (elemCount 32)).map fun i => bel s 6 i o := s.operandB_eq 6 o

theorem matchLane_eq (x y len : Nat) : matchLane x y len = (decide (len % 2 ^ 16 = len / 2 ^ 16) &&
    (List.range (min 4 (len % 2 ^ 16))).all fun j => x / 256 ^ j % 256 == y / 256 ^ j % 256) := by
  simp only [matchLane, natRange_from_zero, strByte_eq]
  rfl

/-- The lanes that execute, were still set, and whose strings match as far as this slice goes (R171). -/
def matchLanes (s : State) (kd : KReg) (a : VReg) (o : VSrc) (c : VReg) (m : KReg) : Word := laneBits (s.laneMask m) fun i =>
  (s.readK kd).getLsbD i && matchLane (el s 32 a i) ((s.stringB o).getD i 0) (el s 32 c i)

theorem matchLanes_getLsbD (s : State) (kd : KReg) (a : VReg) (o : VSrc) (c : VReg) (m : KReg) {l : Nat} (hl : l < 64) :
    (matchLanes s kd a o c m).getLsbD l =
      (runs s m 32 l && (s.readK kd).getLsbD l && decide (el s 32 c l % 2 ^ 16 = el s 32 c l / 2 ^ 16) &&
        (List.range (min 4 (el s 32 c l % 2 ^ 16))).all fun j => el s 32 a l / 256 ^ j % 256 == bel s 6 l o / 256 ^ j % 256) := by
  have hy : (s.stringB o).getD l 0 = bel s 6 l o := by rw [State.stringB_eq, getD_map_range _ _ (show l < elemCount 32 from hl)]
  rw [matchLanes, laneBits_getLsbD _ _ hl, hy, matchLane_eq, runs_32, Bool.and_assoc, Bool.and_assoc]

section
variable {s : State} {q : Pred} (hq : s.holds q = true) (d a b c : VReg) (o : VSrc) (m : KReg)
include hq

theorem exec_vHashCrc {t : Ty} (ht : keyTy t = true) : exec (.vHashCrc q d a b t m) s =
    .next (masked s 32 d m fun i => Claims.crcBytes (el s 32 b i) (el s (tyBits t) a i) (tyBits t / 8)) := by
  change execVHashCrc q d a b t m s = _
  rw [execVHashCrc, State.under_holds hq, ← State.putElems_eq]
  simp only [State.readElems_eq, keyTy_counts ht, zipWith_map_range, crcOfKey_eq]

theorem exec_vHashMix {t : Ty} (ht : wideTy t = true) :
    exec (.vHashMix q d a b t m) s = .next (masked s 64 d m fun i => mixed (el s 64 a i) (el s 64 b i)) := by
  change execVHashMix q d a b t m s = _
  have hmix : ∀ i, (mix (BitVec.ofNat 64 (el s (tyBits t) a i)) (BitVec.ofNat 64 (bel s t i (.v b)))).toNat =
      mixed (el s 64 a i) (el s 64 b i) := fun i => by
    rw [bel, tyBits_of_wideTy ht]
    exact mix_ofNat_eq_mixed (el_lt_two_pow s 64 a i) (el_lt_two_pow s 64 b i)
  rw [execVHashMix, State.map2_gives hq d a (.v b) m hmix, tyBits_of_wideTy ht]

theorem exec_vHashs : exec (.vHashs q d a b c m) s =
    .next (masked s 32 d m fun i => Claims.crcBytes (el s 32 b i) (el s 32 a i) (min 4 (el s 32 c i % 2 ^ 16))) := by
  change execVHashs q d a b c m s = _
  have hcrc : ∀ i, (keyBytes (min 4 (el s (tyBits 6) c i % 2 ^ 16)) (el s (tyBits 6) a i)).foldl crc32cByte (bel s 6 i (.v b)) =
      Claims.crcBytes (el s 32 b i) (el s 32 a i) (min 4 (el s 32 c i % 2 ^ 16)) := fun i => crcOfKey_eq _ _ _
  rw [execVHashs, State.map3_gives hq d a c (.v b) m hcrc]
  rfl

theorem exec_vPart : exec (.vPart q d a b m) s =
    .next (masked s 32 d m fun i => lowBits (el s 32 b 0) (el s 32 a i / 2 ^ (el s 32 b 0 % 32))) := by
  change execVPart q d a b m s = _
  rw [execVPart, State.under_holds hq, ← State.putElems_eq, State.headD_readElems]
  simp only [State.readElems_eq, List.map_map, Function.comp_def, and_partMask, shiftRight_partShift]

theorem exec_vPartCnt (sd : SReg) (kc : KReg) : exec (.vPartCnt q sd a b kc m) s = .next ((s.writeK kc (partLanes s a b m)).writeS sd
    (BitVec.ofNat 64 ((List.range 64).countP (partLanes s a b m).getLsbD))) := by
  change execVPartCnt q sd a b kc m s = _
  rw [execVPartCnt, State.under_holds hq, State.headD_readElems, List.countP_eq_length_filter]
  simp only [and_partMask, shiftRight_partShift, partPart_eq]
  rfl

theorem State.stringOp_gives (f : Nat → Nat → Nat → Nat → Nat) : s.stringOp q d a o c m f =
    .next (masked s 32 d m fun i => f (el s 32 d i) (el s 32 a i) (bel s 6 i o) (el s 32 c i)) := by
  rw [State.stringOp, State.under_holds hq, ← State.putElems_eq]
  simp only [State.readElems_eq, State.stringB_eq, zip_map_range, zipWith_map_range]

theorem exec_vSmatch (kd : KReg) : exec (.vSmatch q kd a o c m) s = .next (s.writeK kd (matchLanes s kd a o c m)) := by
  change execVSmatch q kd a o c m s = _
  rw [execVSmatch, State.under_holds hq]
  rfl

end

end Sys2Proof.Machine

namespace Sys2Proof
open Machine Claims

/-- Settles O17: keys and slices are read byte by byte, each lane's verdict and match position is the one that its first deciding byte
gives, and lanes of a mask are set one by one. -/
theorem hashAndStringResults : Obligations.HashAndStringResults := by
  intro q d a b c o m s hq _ x y len byte desc radix
  refine ⟨fun _ => exec_vHashCrc hq d a b m, fun _ => exec_vHashMix hq d a b m, exec_vHashs hq d a b c m, exec_vPart hq d a b m, ?partitionCount,
    State.stringOp_gives hq d a c o m compareLane, State.stringOp_gives hq d a c o m searchLane, ?lane, ?stringMatch⟩
  case partitionCount => exact fun sd kc => ⟨_, exec_vPartCnt hq a b m sd kc, fun _ => partLanes_getLsbD s a b m⟩
  case lane =>
    exact fun old x y n => ⟨fun hold => compareLane_of_decided hold x y n, fun _ => compareLane_of_differ, compareLane_of_same,
      searchLane_of_found, fun _ => searchLane_of_match, searchLane_of_no_match⟩
  case stringMatch => exact fun kd => ⟨_, exec_vSmatch hq a c o m kd, fun _ => matchLanes_getLsbD s kd a o c m⟩

end Sys2Proof

/-! PROOFS. How one word of a routine leaves the machine (R198 to R200): it ends and the next follows, it branches, the routine ends, or the call
ends with a fault. -/
namespace Sys2Proof.Machine
open Claims

/-- A word of the run has ended: the ends of the loops whose last word it is, one cycle, and the word that follows (R198, R199). -/
def MicroRun.pass (m : MicroRun) (region : Nat) : MicroRun :=
  ({ m with loops := (closeLoops m.mpc m.loops).1, cycle := m.cycle + 1 } : MicroRun).moveTo region ((closeLoops m.mpc m.loops).2 : Nat)

/-- What the outcome of a word on the run m leaves at the core in focus, the record's home in focus with it. -/
def State.afterWord (s : State) (m : MicroRun) : MRes → State
  | .go m' => ran s (m'.pass s.ctx.micro.region)
  | .jump m' pc => ran s (({ m' with cycle := m'.cycle + 1 } : MicroRun).moveTo s.ctx.micro.region pc)
  | .ends m' => ran s { m' with atEnd := true }
  | .fault i => ran s { m with fault := some i }
  | .wait h => h.focus s.coreNum s.slotNum

theorem closeLoops_of_ne {pc : Nat} {l : List (Nat × Nat × Nat)} (h : ∀ e ∈ l, e.2.1 ≠ pc) : closeLoops pc l = (l, pc + 1) := by
  cases l with
  | nil => rfl
  | cons e l => exact if_neg (h e List.mem_cons_self)

theorem closeLoops_repeats {pc start left : Nat} (l : List (Nat × Nat × Nat)) (h : 1 < left) :
    closeLoops pc ((start, pc, left) :: l) = ((start, pc, left - 1) :: l, start) := by
  rw [closeLoops, if_pos rfl, if_neg (by omega)]

theorem closeLoops_leaves {pc start left : Nat} {l : List (Nat × Nat × Nat)} (h : left ≤ 1) (hl : ∀ e ∈ l, e.2.1 ≠ pc) :
    closeLoops pc ((start, pc, left) :: l) = (l, pc + 1) := by
  rw [closeLoops, if_pos rfl, if_pos h, closeLoops_of_ne hl]

theorem MicroRun.moveTo_inside (m : MicroRun) {region : Nat} {pc : Int} (h0 : 0 ≤ pc) (h : pc < region) :
    m.moveTo region pc = { m with mpc := pc.toNat } := by
  simp [MicroRun.moveTo, not_lt.mpr h0, not_le.mpr h]

theorem MicroRun.moveTo_outside (m : MicroRun) {region : Nat} {pc : Int} (h : pc < 0 ∨ (region : Int) ≤ pc) :
    m.moveTo region pc = { m with fault := some (trapMcall 5 m.mrec.microTile) } := by
  simp [MicroRun.moveTo, h]

/-- A word at whose place a loop ends, or none: the loops it leaves, and the word that follows in the region. -/
theorem MicroRun.pass_of_closeLoops {m : MicroRun} {region next : Nat} {ls : List (Nat × Nat × Nat)} (hclose : closeLoops m.mpc m.loops = (ls, next))
    (h : next < region) : m.pass region = { m with loops := ls, cycle := m.cycle + 1, mpc := next } := by
  rw [MicroRun.pass, hclose, MicroRun.moveTo_inside _ (Int.natCast_nonneg _) (by exact_mod_cast h), Int.toNat_natCast]

@[simp] theorem noTiming_eq (s : State) (m : MicroRun) : noTiming s m = m := rfl

section
variable {s : State} {m m' : MicroRun} {timing : State → MicroRun → MicroRun} {f : State → MicroRun → MRes} (hr : Running s m)
include hr

theorem homeOf_of_running : s.homeOf m.mrec = s := by
  obtain ⟨-, -, -, -, hhome, hslot, -⟩ := hr
  exact focus_of_eq hhome.symm hslot.symm

/-- A word whose timing leaves the micro-pc performs, and its outcome decides what follows. -/
theorem micro_performs (htime : (timing s m).mpc = m.mpc ∧ (timing s m).skip = m.skip) :
    s.micro timing f = .next (s.afterWord (timing s m) (f s (timing s m))) := by
  have hhome := homeOf_of_running hr
  obtain ⟨hrun, hend, hfault, hskip, -, -, hbad⟩ := hr
  have hsound : NatSet.has s.ctx.micro.bad (timing s m).mpc = false := htime.1 ▸ hbad
  have hperforms : ¬ (timing s m).skip > 0 := by rw [htime.2, hskip]; exact Nat.lt_irrefl 0
  simp only [State.micro, hrun, hend, hfault, hhome, hsound, hperforms, Option.isSome_none, Bool.or_self, Bool.false_eq_true, if_false]
  cases f s (timing s m) <;> rfl

theorem micro_ends {g : MicroRun} (htime : (timing s m).mpc = m.mpc ∧ (timing s m).skip = m.skip) (hf : f s (timing s m) = .ends g) :
    s.micro timing f = .next (ran s { g with atEnd := true }) := by
  rw [micro_performs hr htime, hf]; rfl

theorem micro_faults {i : TrapInfo} (htime : (timing s m).mpc = m.mpc ∧ (timing s m).skip = m.skip) (hf : f s (timing s m) = .fault i) :
    s.micro timing f = .next (ran s { timing s m with fault := some i }) := by
  rw [micro_performs hr htime, hf]; rfl

theorem micro_jumps {pc : Int} (htime : (timing s m).mpc = m.mpc ∧ (timing s m).skip = m.skip) (hf : f s (timing s m) = .jump m' pc)
    (h0 : 0 ≤ pc) (h : pc < s.ctx.micro.region) : s.micro timing f = .next (ran s { m' with cycle := m'.cycle + 1, mpc := pc.toNat }) := by
  rw [micro_performs hr htime, hf, State.afterWord, MicroRun.moveTo_inside _ h0 h]

theorem micro_runsOff {pc : Int} (htime : (timing s m).mpc = m.mpc ∧ (timing s m).skip = m.skip) (hf : f s (timing s m) = .jump m' pc)
    (h : pc < 0 ∨ (s.ctx.micro.region : Int) ≤ pc) :
    s.micro timing f = .next (ran s { m' with cycle := m'.cycle + 1, fault := some (trapMcall 5 m'.mrec.microTile) }) := by
  rw [micro_performs hr htime, hf, State.afterWord, MicroRun.moveTo_outside _ h]

/-- A word that ends is followed by the one at which closing the loops arrives. -/
theorem micro_passes {ls : List (Nat × Nat × Nat)} {next : Nat} (htime : (timing s m).mpc = m.mpc ∧ (timing s m).skip = m.skip)
    (hf : f s (timing s m) = .go m') (hclose : closeLoops m'.mpc m'.loops = (ls, next)) (h : next < s.ctx.micro.region) :
    s.micro timing f = .next (ran s { m' with loops := ls, cycle := m'.cycle + 1, mpc := next }) := by
  rw [micro_performs hr htime, hf, State.afterWord, MicroRun.pass_of_closeLoops hclose h]

/-- A word at whose place no loop ends is followed by the next. -/
theorem micro_steps (hs : Straight s m) (htime : (timing s m).mpc = m.mpc ∧ (timing s m).skip = m.skip) (hf : f s (timing s m) = .go m')
    (hpc : m'.mpc = m.mpc) (hloops : ∀ l ∈ m'.loops, l.2.1 ≠ m.mpc) : s.micro timing f = .next (stepped s m m') := by
  rw [micro_passes hr htime hf (by rw [hpc]; exact closeLoops_of_ne hloops) hs.2]
  rfl

/-- The same for a word that leaves the loops as they are and takes no time of its own. -/
theorem micro_goes (hs : Straight s m) (hf : f s m = .go m') (hpc : m'.mpc = m.mpc) (hloops : m'.loops = m.loops) :
    s.micro noTiming f = .next (stepped s m m') :=
  micro_steps hr hs ⟨rfl, rfl⟩ hf hpc (hloops ▸ hs.1)

end

@[simp] theorem MicroRun.put_mpc (m : MicroRun) (a : WReg) (x : BitVec 32) : (m.put a x).mpc = m.mpc := by unfold MicroRun.put; split <;> rfl
@[simp] theorem MicroRun.put_loops (m : MicroRun) (a : WReg) (x : BitVec 32) : (m.put a x).loops = m.loops := by unfold MicroRun.put; split <;> rfl
@[simp] theorem MicroRun.put_cycle (m : MicroRun) (a : WReg) (x : BitVec 32) : (m.put a x).cycle = m.cycle := by unfold MicroRun.put; split <;> rfl

theorem MicroRun.get_put (m : MicroRun) (d r : WReg) (z : BitVec 32) : (m.put d z).get r = if r = 0 then 0 else if r = d then z else m.get r := by
  unfold MicroRun.get
  split
  · rfl
  · next hr =>
    unfold MicroRun.put
    by_cases hd : d = 0
    · rw [if_pos hd, if_neg (fun h => hr (h.trans hd))]
    · rw [if_neg hd]
      exact getElem_set_reg m.w d r z d.isLt r.isLt

end Sys2Proof.Machine

/-! PROOFS. The control words of a routine (Table 8.11): what each leads to. -/
namespace Sys2Proof.Machine
open Claims

/-- A taken branch is one whose condition of Table 8.11 holds. -/
theorem microCond_iff {cond : BitVec 3} {x y : BitVec 32} (h : cond.toNat < 6) : microCond cond x y = true ↔
    (cond = 0 ∧ x = y) ∨ (cond = 1 ∧ x ≠ y) ∨ (cond = 2 ∧ x.toInt < y.toInt) ∨ (cond = 3 ∧ y.toInt ≤ x.toInt) ∨
      (cond = 4 ∧ x.toNat < y.toNat) ∨ (cond = 5 ∧ y.toNat ≤ x.toNat) := by
  have hcond : cond = 0 ∨ cond = 1 ∨ cond = 2 ∨ cond = 3 ∨ cond = 4 ∨ cond = 5 := by bv_omega
  rcases hcond with rfl | rfl | rfl | rfl | rfl | rfl <;>
    simp [microCond, BitVec.slt, BitVec.sle, BitVec.ult, BitVec.ule]

theorem outside_eq_false {m : MicroRun} {rows cols : Nat} : m.outside rows cols = false ↔ m.rowOff + rows ≤ 128 ∧ m.colOff + cols ≤ 64 := by
  simp [MicroRun.outside]

/-- The elements of a window that `skipz` looks at are all zero (R201). -/
def TileView.allZero (v : TileView) (k len : Nat) : Bool := (natRange 0 v.outer).all fun o => (natRange k len).all fun j => v.isZero o j

theorem TileView.allZero_iff {v : TileView} {k len : Nat} : v.allZero k len = true ↔ ∀ o < v.outer, ∀ j < len, v.isZero o (k + j) = true := by
  simp only [TileView.allZero, natRange_eq_map, List.all_map, List.all_eq_true, List.mem_range, Function.comp_apply, Nat.zero_add]

/-- Reading no depth meets nothing that is poisoned or malformed. -/
@[simp] theorem TileView.spoilt_nil (v : TileView) (os : List Nat) : v.spoilt os [] = false := by simp [TileView.spoilt]
@[simp] theorem TileView.badIn_nil (v : TileView) (os : List Nat) : v.badIn os [] = false := by simp [TileView.badIn]

section
variable {s : State} {m : MicroRun} (hr : Running s m)
include hr

theorem uEdge_outside {a b : WReg} (h : ¬ ((m.get a).toNat + (s.extents m.mrec).1 ≤ 128 ∧ (m.get b).toNat + (s.extents m.mrec).2 ≤ 64)) :
    ∃ m', exec (.uEdge a b) s = .next (ran s m') ∧ m'.fault = some { code := 0x25, sub := 1, elem := m.mrec.microTile } := by
  refine ⟨_, show execUEdge a b s = _ from micro_faults hr ⟨rfl, rfl⟩ (if_pos ?_), rfl⟩
  rwa [← Bool.not_eq_false, outside_eq_false]

theorem uPbr_taken {a b : WReg} {cond : BitVec 3} {off : BitVec 16} (h : microCond cond (m.get a) (m.get b) = true)
    (h0 : 0 ≤ (m.mpc : Int) + off.toInt) (hin : (m.mpc : Int) + off.toInt < s.ctx.micro.region) :
    exec (.uPbr a b cond off) s = .next (ran s { m with mpc := ((m.mpc : Int) + off.toInt).toNat, cycle := m.cycle + 1 }) :=
  show execUPbr a b cond off s = _ from micro_jumps hr ⟨rfl, rfl⟩ (if_pos h) h0 hin

theorem uPbr_runsOff {a b : WReg} {cond : BitVec 3} {off : BitVec 16} (h : microCond cond (m.get a) (m.get b) = true)
    (hout : (m.mpc : Int) + off.toInt < 0 ∨ (s.ctx.micro.region : Int) ≤ (m.mpc : Int) + off.toInt) :
    ∃ m', exec (.uPbr a b cond off) s = .next (ran s m') ∧ m'.fault = some { code := 0x25, sub := 5, elem := m.mrec.microTile } :=
  ⟨_, show execUPbr a b cond off s = _ from micro_runsOff hr ⟨rfl, rfl⟩ (if_pos h) hout, rfl⟩

/-- An `mloop` of no iteration leads to where closing the loops at its last word leads. -/
theorem uMloop_none {a : WReg} {cnt off : BitVec 16} {ls : List (Nat × Nat × Nat)} {next : Nat} (h : (m.get a + BitVec.ofNat 32 cnt.toNat).toNat = 0)
    (hclose : closeLoops (m.mpc + off.toNat) m.loops = (ls, next)) (hin : next < s.ctx.micro.region) :
    exec (.uMloop a cnt off) s = .next (ran s { m with mpc := next, cycle := m.cycle + 1, loops := ls }) := by
  change execUMloop a cnt off s = _
  rw [BitVec.ofNat_toNat] at h
  exact micro_jumps (m' := { m with loops := ls }) (pc := (next : Nat)) hr ⟨rfl, rfl⟩ (by simp only [noTiming_eq, h, if_true, hclose])
    (Int.natCast_nonneg _) (by exact_mod_cast hin)

theorem uMloop_fifth {a : WReg} {cnt off : BitVec 16} (h : 0 < (m.get a + BitVec.ofNat 32 cnt.toNat).toNat) (hfull : 4 ≤ m.loops.length) :
    ∃ m', exec (.uMloop a cnt off) s = .next (ran s m') ∧ m'.fault = some { code := 0x25, sub := 4, elem := m.mrec.microTile } := by
  rw [BitVec.ofNat_toNat] at h
  exact ⟨_, show execUMloop a cnt off s = _ from micro_faults hr ⟨rfl, rfl⟩ (by simp only [noTiming_eq, h.ne', if_false, ge_iff_le, hfull, if_true]; rfl), rfl⟩

/-- The last word of a loop leads to where closing the loops leads. -/
theorem uPadd_closes {d a b : WReg} {i : BitVec 32} {ls : List (Nat × Nat × Nat)} {next : Nat} (hclose : closeLoops m.mpc m.loops = (ls, next))
    (hin : next < s.ctx.micro.region) : exec (.uPadd d a b i) s = .next (ran s { m.put d (m.get a + m.get b + i) with
      mpc := next, cycle := m.cycle + 1, loops := ls }) := by
  change execUPadd d a b i s = _
  rw [execUPadd, micro_passes hr ⟨rfl, rfl⟩ rfl (by rw [noTiming_eq, MicroRun.put_mpc, MicroRun.put_loops]; exact hclose) hin, noTiming_eq,
    MicroRun.put_cycle]

theorem uMend_ends : exec .uMend s = .next (ran s { m with atEnd := true }) :=
  show execUMend s = _ from micro_ends hr ⟨rfl, rfl⟩ rfl

variable (hs : Straight s m)
include hs

theorem uEdge_inside {a b : WReg} (h : (m.get a).toNat + (s.extents m.mrec).1 ≤ 128 ∧ (m.get b).toNat + (s.extents m.mrec).2 ≤ 64) :
    exec (.uEdge a b) s = .next (stepped s m { m with rowOff := (m.get a).toNat, colOff := (m.get b).toNat }) :=
  show execUEdge a b s = _ from micro_goes hr hs (if_neg (by rw [Bool.not_eq_true, outside_eq_false]; exact h)) rfl rfl

theorem uSwap_steps (a b : WReg) : exec (.uSwap a b) s = .next (stepped s m ((m.put a (m.get b)).put b (m.get a))) :=
  show execUSwap a b s = _ from micro_goes hr hs rfl (by simp) (by simp)

theorem uPset_imm (d : WReg) (c : BitVec 31) : exec (.uPset d (.imm c)) s = .next (stepped s m (m.put d (BitVec.ofInt 32 c.toInt))) :=
  show execUPset d (.imm c) s = _ from micro_goes hr hs rfl (by simp) (by simp)

theorem uPset_param (d : WReg) (p : BitVec 3) (lo w : BitVec 6) : exec (.uPset d (.param p lo w)) s = .next (stepped s m
    (m.put d (BitVec.ofNat 32 ((m.mrec.mp.getD p.toNat 0).toNat / 2 ^ lo.toNat % 2 ^ (w.toNat + 1))))) :=
  show execUPset d (.param p lo w) s = _ from micro_goes hr hs (by simp only [Nat.shiftRight_eq_div_pow]) (by simp) (by simp)

theorem uPadd_steps (d a b : WReg) (i : BitVec 32) : exec (.uPadd d a b i) s = .next (stepped s m (m.put d (m.get a + m.get b + i))) :=
  show execUPadd d a b i s = _ from micro_goes hr hs rfl (by simp) (by simp)

theorem uPbr_passes {a b : WReg} {cond : BitVec 3} (off : BitVec 16) (h : ¬ microCond cond (m.get a) (m.get b) = true) :
    exec (.uPbr a b cond off) s = .next (stepped s m m) :=
  show execUPbr a b cond off s = _ from micro_goes hr hs (if_neg h) rfl rfl

theorem uMloop_opens {a : WReg} {cnt off : BitVec 16} (h : 0 < (m.get a + BitVec.ofNat 32 cnt.toNat).toNat) (hoff : 0 < off.toNat)
    (hroom : m.loops.length < 4) : exec (.uMloop a cnt off) s = .next (stepped s m { m with
      loops := (m.mpc + 1, m.mpc + off.toNat, (m.get a + BitVec.ofNat 32 cnt.toNat).toNat) :: m.loops }) := by
  change execUMloop a cnt off s = _
  rw [BitVec.ofNat_toNat] at h ⊢
  exact micro_steps hr hs ⟨rfl, rfl⟩ (by simp only [noTiming_eq, h.ne', if_false, ge_iff_le, not_le.mpr hroom]) rfl
    (List.forall_mem_cons.mpr ⟨by simp only; omega, hs.1⟩)

theorem uWait_steps (a : WReg) (t : BitVec 16) : exec (.uWait a t) s =
    .next (ran s { m with mpc := m.mpc + 1, cycle := m.cycle + (max 1 ((m.get a).toInt + t.toNat)).toNat }) := by
  change execUWait a t s = _
  rw [execUWait, micro_steps hr hs ⟨rfl, rfl⟩ rfl (by rfl) (by exact hs.1)]
  simp only [stepped]
  congr 3
  omega

theorem uAccl_keeps {a : WReg} {idx : BitVec 6} (h : (m.get a + BitVec.ofNat 32 idx.toNat).toNat < m.mrec.count) :
    exec (.uAccl a idx false) s = .next (stepped s m { m with acur := (m.get a + BitVec.ofNat 32 idx.toNat).toNat }) := by
  change execUAccl a idx false s = _
  rw [BitVec.ofNat_toNat] at h ⊢
  exact micro_goes hr hs (if_neg (not_le.mpr h)) rfl rfl

theorem uSkipz_off (sideB : Bool) (n : BitVec 4) (h : m.mrec.zskip = false) : exec (.uSkipz sideB n) s = .next (stepped s m m) :=
  show execUSkipz sideB n s = _ from micro_goes hr hs (if_pos (by rw [h]; rfl)) rfl rfl

theorem uSkipz_skips {sideB : Bool} {k len : Nat} {v : TileView} (n : BitVec 4) (hz : m.mrec.zskip = true)
    (hwin : (if sideB then m.winB else m.winA) = some (k, len)) (hv : s.tileView m.mrec sideB = some v) (hsound : Sound v (natRange 0 v.outer) k len)
    (hother : (if sideB then m.winA else m.winB) = none) (hzero : v.allZero k len = true) : exec (.uSkipz sideB n) s =
    .next (stepped s m { m with skip := n.toNat, mrec := { m.mrec with status := m.mrec.status ||| 4 } }) := by
  obtain ⟨hspoilt, hbad⟩ := hsound
  rw [TileView.allZero] at hzero
  change execUSkipz sideB n s = _
  refine micro_goes hr hs ?_ rfl rfl
  simp only [hz, hwin, hv, hother, hspoilt, hbad, hzero, List.flatMap_nil, List.any_nil, Bool.not_true, Bool.false_eq_true, if_false, Bool.true_and]
  cases s.tileView m.mrec (!sideB) <;> simp

theorem uSkipz_passes {sideB : Bool} {k len : Nat} {v : TileView} (n : BitVec 4) (hz : m.mrec.zskip = true)
    (hwin : (if sideB then m.winB else m.winA) = some (k, len)) (hv : s.tileView m.mrec sideB = some v) (hsound : Sound v (natRange 0 v.outer) k len)
    (hnonzero : v.allZero k len = false) : exec (.uSkipz sideB n) s = .next (stepped s m m) := by
  obtain ⟨hspoilt, hbad⟩ := hsound
  rw [TileView.allZero] at hnonzero
  change execUSkipz sideB n s = _
  refine micro_goes hr hs ?_ rfl rfl
  simp [hz, hwin, hv, hspoilt, hbad, hnonzero]

end

end Sys2Proof.Machine

namespace Sys2Proof
open Machine Claims

/-- Settles O41: a word that ends leads to where closing its loops leads, and each control word says by itself whether it ends. -/
theorem microControlWords : Obligations.MicroControlWords := by
  intro a b d i cond off cnt n idx sideB s m hr region x y taken goal times last inside
  have hcode : taken → cond.toNat < 6 := by
    rintro (⟨rfl, -⟩ | ⟨rfl, -⟩ | ⟨rfl, -⟩ | ⟨rfl, -⟩ | ⟨rfl, -⟩ | ⟨rfl, -⟩) <;> decide
  have htaken : taken → microCond cond x y = true := fun h => (microCond_iff (hcode h)).mpr h
  refine ⟨fun hs => ⟨uEdge_inside hr hs, uSwap_steps hr hs a b, uPset_imm hr hs d, uPset_param hr hs d, uPadd_steps hr hs d a b i,
      fun hcond hnot => uPbr_passes hr hs off (mt (microCond_iff hcond).mp hnot), uMloop_opens hr hs, uWait_steps hr hs a, uAccl_keeps hr hs,
      uSkipz_off hr hs sideB n, fun k len v hz hwin hv hsound => ⟨fun hother hall => ?skips, fun hnonzero => ?passes⟩⟩,
    uEdge_outside hr, fun h => uPbr_taken hr (htaken h), fun h => uPbr_runsOff hr (htaken h),
    fun h hne => uMloop_none hr h (closeLoops_of_ne hne), fun h start left l hl hleft => uMloop_none hr h (hl ▸ closeLoops_repeats l hleft),
    uMloop_fifth hr, fun start left l hl hleft => uPadd_closes hr (hl ▸ closeLoops_repeats l hleft),
    fun start left l hl hleft hne => uPadd_closes hr (hl ▸ closeLoops_leaves hleft hne), uMend_ends hr, m.get_put d⟩
  case skips => exact uSkipz_skips hr hs n hz hwin hv hsound hother (TileView.allZero_iff.mpr hall)
  case passes =>
    refine uSkipz_passes hr hs n hz hwin hv hsound (Bool.eq_false_iff.mpr fun h => ?_)
    obtain ⟨o, ho, j, hj, hne⟩ := hnonzero
    exact absurd (TileView.allZero_iff.mp h o ho j hj) (Bool.eq_false_iff.mp hne)

end Sys2Proof

/-! PROOFS. The cells of a micro-tile: what setting one leaves, and what setting each cell of a region once leaves (R195, R202). -/
namespace Sys2Proof.Machine
open Claims

theorem find?_tabSet {α : Type} (l : List (Nat × α)) (x y : Nat) (v : α) :
    (tabSet l x v).find? (·.1 == y) = if y = x then some (x, v) else l.find? (·.1 == y) := by
  induction l with
  | nil => by_cases h : x = y <;> simp [tabSet, h, Ne.symm]
  | cons e l ih =>
    obtain ⟨k, w⟩ := e
    rw [tabSet]
    rcases lt_trichotomy x k with hlt | rfl | hgt
    · rw [if_pos hlt, List.find?_cons]
      by_cases h : x = y <;> simp [h, beq_eq_false_iff_ne.mpr, Ne.symm]
    · rw [if_neg (lt_irrefl x), if_pos rfl, List.find?_cons, List.find?_cons]
      by_cases h : x = y <;> simp [h, beq_eq_false_iff_ne.mpr, Ne.symm]
    · rw [if_neg hgt.not_gt, if_neg hgt.ne', List.find?_cons, List.find?_cons, ih]
      by_cases h : k = y
      · simp [h, show y ≠ x from h ▸ hgt.ne]
      · simp [beq_eq_false_iff_ne.mpr h]

theorem cellNo_inj {i i' j j' : Nat} (hj : j < 64) (hj' : j' < 64) : cellNo i j = cellNo i' j' ↔ (i, j) = (i', j') := by
  simp only [cellNo, Prod.mk.injEq]
  omega

theorem State.cellOf_setCell (h : State) (m : MicroRun) (i j x i' j' : Nat) :
    h.cellOf (m.setCell i j x) i' j' = if cellNo i' j' = cellNo i j then x else h.cellOf m i' j' := by
  simp only [State.cellOf, MicroRun.setCell, find?_tabSet]
  by_cases hc : cellNo i' j' = cellNo i j <;> simp [hc]

/-- The cells of a region lie in columns below 64, and each is named once. -/
theorem mem_cells {m : MicroRun} {rows cols : Nat} {c : Nat × Nat} (h : c ∈ m.cells rows cols) : c.2 < 64 := by
  simp only [MicroRun.cells, List.mem_flatMap, List.mem_map, List.mem_filter, mem_natRange] at h
  obtain ⟨i, -, j, ⟨⟨-, hj⟩, -⟩, rfl⟩ := h
  simp only
  omega

theorem nodup_natRange (a n : Nat) : (natRange a n).Nodup := natRange_eq_range' a n ▸ List.nodup_range'

theorem nodup_cells (m : MicroRun) (rows cols : Nat) : (m.cells rows cols).Nodup := by
  refine List.nodup_flatMap.mpr ⟨fun i _ => ((nodup_natRange _ _).filter _).map fun j j' h => (Prod.mk.inj h).2, ?_⟩
  refine ((nodup_natRange _ _).filter _).imp fun {i i'} hne => ?_
  simp only [Function.onFun, List.disjoint_left, List.mem_map]
  rintro _ ⟨j, -, rfl⟩ ⟨j', -, h⟩
  exact hne (Prod.mk.inj h).1.symm

/-- Setting each of some cells once, from what it holds: only those cells differ, each by one setting. -/
theorem foldl_setCell (h : State) {m : MicroRun} {F : MicroRun → Nat × Nat → MicroRun} {g : Nat → Nat → Nat → Nat}
    (hF : ∀ p c, F { m with part := p } c = ({ m with part := p } : MicroRun).setCell c.1 c.2 (g c.1 c.2 (h.cellOf { m with part := p } c.1 c.2)))
    {cs : List (Nat × Nat)} (hcs : cs.Nodup) (hcol : ∀ c ∈ cs, c.2 < 64) (p : List (Nat × Nat)) :
    ∃ p', cs.foldl F { m with part := p } = { m with part := p' } ∧ ∀ i j, j < 64 → h.cellOf { m with part := p' } i j =
      if (i, j) ∈ cs then g i j (h.cellOf { m with part := p } i j) else h.cellOf { m with part := p } i j := by
  induction cs generalizing p with
  | nil => exact ⟨p, rfl, fun i j _ => by simp⟩
  | cons c cs ih =>
    obtain ⟨hc, hcs⟩ := List.nodup_cons.mp hcs
    obtain ⟨hcol0, hcol⟩ := List.forall_mem_cons.mp hcol
    obtain ⟨p', hp', hcells⟩ := ih hcs hcol (tabSet p (cellNo c.1 c.2) (g c.1 c.2 (h.cellOf { m with part := p } c.1 c.2)))
    refine ⟨p', by rw [List.foldl_cons, hF]; exact hp', fun i j hj => ?_⟩
    rw [hcells i j hj]
    have hset := h.cellOf_setCell { m with part := p } c.1 c.2 (g c.1 c.2 (h.cellOf { m with part := p } c.1 c.2)) i j
    simp only [MicroRun.setCell, cellNo_inj hj hcol0] at hset
    simp only [hset, List.mem_cons]
    by_cases heq : (i, j) = c
    · simp [← heq, heq ▸ hc]
    · simp [heq]

/-- The cells of a region, each set once from what it holds. -/
theorem cells_foldl_setCell (h : State) {m : MicroRun} {rows cols : Nat} {F : MicroRun → Nat × Nat → MicroRun} {g : Nat → Nat → Nat → Nat}
    (hF : ∀ p c, F { m with part := p } c = ({ m with part := p } : MicroRun).setCell c.1 c.2 (g c.1 c.2 (h.cellOf { m with part := p } c.1 c.2))) :
    Cells h m ((m.cells rows cols).foldl F m) rows cols fun i j => g i j (h.cellOf m i j) := by
  obtain ⟨p, hp, hcells⟩ := foldl_setCell h hF (nodup_cells m rows cols) (fun _ => mem_cells) m.part
  exact ⟨by rw [hp], by rw [hp]; exact hcells⟩

end Sys2Proof.Machine

/-! PROOFS. The sum that `mac` rounds once (R195): what adding products one after the other comes to, for exact values. -/
namespace Sys2Proof.Machine
open Claims

/-- An exact value that is −0. -/
def FVal.NegZero (p : FVal) : Prop := exact p = 0 ∧ p.neg? = true

theorem exact_neg_of_sign {n : Bool} {m : Nat} {e : Int} : (n = true → exact (.fin n m e false) ≤ 0) ∧ (n = false → 0 ≤ exact (.fin n m e false)) := by
  have hpos : (0 : ℚ) ≤ m * 2 ^ e := by positivity
  constructor <;> rintro rfl <;> simp only [exact, if_true, Bool.false_eq_true, if_false] <;> linarith

/-- The sign of a finite exact value: it is negative, or −0. -/
theorem neg_iff (n : Bool) (m : Nat) (e : Int) : n = true ↔ exact (.fin n m e false) < 0 ∨ FVal.NegZero (.fin n m e false) := by
  obtain ⟨hneg, hpos⟩ := @exact_neg_of_sign n m e
  constructor
  · intro h
    rcases (hneg h).lt_or_eq with hlt | heq
    · exact .inl hlt
    · exact .inr ⟨heq, h⟩
  · rintro (h | ⟨-, h⟩)
    · cases n
      · exact absurd (hpos rfl) (not_le.mpr h)
      · rfl
    · exact h

/-- Value a is the exact sum of the values of l, added one after the other: NaN when one is or infinities of both signs meet, the infinity
among them, or the finite sum, −0 only when all are. -/
structure SumIs (l : List FVal) (a : FVal) : Prop where
  nan : FVal.nan ∈ l ∨ (.inf true ∈ l ∧ .inf false ∈ l) → a = .nan
  inf : FVal.nan ∉ l → ∀ n, FVal.inf n ∈ l → FVal.inf (!n) ∉ l → a = .inf n
  fin : FVal.nan ∉ l → (∀ n, FVal.inf n ∉ l) → ∃ n m e, a = .fin n m e false ∧ exact a = (l.map exact).sum ∧
    (n = true ↔ exact a < 0 ∨ ∀ p ∈ l, p.NegZero)

theorem sumIs_one {p : FVal} (hp : Plain p) : SumIs [p] p where
  nan h := by
    simp only [List.mem_singleton] at h
    rcases h with h | ⟨h, h'⟩
    · exact h.symm
    · exact absurd (h.trans h'.symm) (by simp)
  inf _ n h _ := (List.mem_singleton.mp h).symm
  fin hnan hinf := by
    cases p with
    | nan => simp at hnan
    | inf n => exact absurd (List.mem_singleton_self _) (hinf n)
    | fin n m e st =>
      obtain rfl : st = false := hp
      exact ⟨n, m, e, rfl, by simp, by simpa using neg_iff n m e⟩

section
variable {l : List FVal} {a p : FVal} (h : SumIs l a) (hp : Plain p)

include h in
theorem add_of_nan_mem (hmem : FVal.nan ∈ l ++ [p] ∨ (FVal.inf true ∈ l ++ [p] ∧ FVal.inf false ∈ l ++ [p])) : a.add 0 p = .nan := by
  by_cases hnan : FVal.nan ∈ l ∨ (FVal.inf true ∈ l ∧ FVal.inf false ∈ l)
  · rw [h.nan hnan, FVal.nan_add]
  · obtain ⟨hn, hboth⟩ := not_or.mp hnan
    have key : ∀ n, FVal.inf n ∈ l → p = .inf (!n) → FVal.inf (!n) ∉ l → a.add 0 p = .nan := fun n hin hpn hout => by
      rw [h.inf hn n hin hout, hpn]; cases n <;> rfl
    simp only [List.mem_append, List.mem_singleton] at hmem
    rcases hmem with (hmem | hmem) | ⟨ht | ht, hf | hf⟩
    · exact absurd hmem hn
    · rw [← hmem, FVal.add_nan]
    · exact absurd ⟨ht, hf⟩ hboth
    · exact key true ht hf.symm fun h' => hboth ⟨ht, h'⟩
    · exact key false hf ht.symm fun h' => hboth ⟨h', hf⟩
    · exact absurd (ht.trans hf.symm) (by simp)

include h in
theorem add_of_inf_mem {n : Bool} (hnan : FVal.nan ∉ l ++ [p]) (hin : FVal.inf n ∈ l ++ [p]) (hout : FVal.inf (!n) ∉ l ++ [p]) :
    a.add 0 p = .inf n := by
  simp only [List.mem_append, List.mem_singleton, not_or] at hnan hin hout
  by_cases hl : FVal.inf n ∈ l
  · rw [h.inf hnan.1 n hl hout.1]
    cases p with
    | nan => exact absurd rfl hnan.2
    | inf k => cases n <;> cases k <;> simp_all [FVal.add]
    | fin => rfl
  · obtain rfl := (hin.resolve_left hl).symm
    obtain ⟨k, m, e, rfl, -⟩ := h.fin hnan.1 fun k hk => by
      rcases eq_or_ne k n with rfl | hne
      · exact hl hk
      · exact hout.1 (by cases k <;> cases n <;> simp_all)
    rfl

include h hp in
theorem add_of_finite (hnan : FVal.nan ∉ l ++ [p]) (hinf : ∀ n, FVal.inf n ∉ l ++ [p]) : ∃ n m e, a.add 0 p = .fin n m e false ∧
    exact (a.add 0 p) = ((l ++ [p]).map exact).sum ∧ (n = true ↔ exact (a.add 0 p) < 0 ∨ ∀ q ∈ l ++ [p], q.NegZero) := by
  simp only [List.mem_append, List.mem_singleton, not_or] at hnan hinf
  obtain ⟨na, ma, ea, rfl, hsum, hna⟩ := h.fin hnan.1 fun n => (hinf n).1
  cases p with
  | nan => exact absurd rfl hnan.2
  | inf k => exact absurd rfl (hinf k).2
  | fin nb mb eb st =>
    obtain rfl : st = false := hp
    obtain ⟨n, m, e, hadd, hval, hpos, hneg, hzero⟩ := add_exact 0 na nb ma mb ea eb
    refine ⟨n, m, e, hadd, by rw [hadd, hval, hsum]; simp, ?_⟩
    rw [hadd]
    have hnb := neg_iff nb mb eb
    have hsigns := @exact_neg_of_sign na ma ea
    have hsignsb := @exact_neg_of_sign nb mb eb
    have hall : (∀ q ∈ l ++ [FVal.fin nb mb eb false], q.NegZero) ↔ (∀ q ∈ l, q.NegZero) ∧ FVal.NegZero (.fin nb mb eb false) := by
      rw [List.forall_mem_append, List.forall_mem_singleton]
    have hnone : (∀ q ∈ l, q.NegZero) → exact (.fin na ma ea false) = 0 := fun hq => by
      rw [hsum]
      exact List.sum_eq_zero (by simp only [List.mem_map]; rintro _ ⟨q, hmem, rfl⟩; exact (hq q hmem).1)
    rw [hall]
    rcases lt_trichotomy (exact (.fin n m e false)) 0 with hlt | heq | hgt
    · exact iff_of_true (hneg (by exact_mod_cast hlt)) (.inl hlt)
    · have hn := hzero (by exact_mod_cast heq)
      have hcancel := hval.symm.trans heq
      constructor
      · intro htrue
        have hsame : na = nb ∧ na = true := by revert hn; rw [htrue]; cases na <;> cases nb <;> simp
        have ha := hsigns.1 hsame.2
        have hb := hsignsb.1 (hsame.1 ▸ hsame.2)
        have ha0 : exact (.fin na ma ea false) = 0 := by linarith
        have hb0 : exact (.fin nb mb eb false) = 0 := by linarith
        exact .inr ⟨(hna.mp hsame.2).resolve_left (by rw [ha0]; exact lt_irrefl 0), hb0, hsame.1 ▸ hsame.2⟩
      · rintro (hlt | ⟨hq, hb⟩)
        · exact absurd hlt (heq ▸ lt_irrefl _)
        · have hb' : nb = true := hb.2
          have ha' := hna.mpr (.inr hq)
          rw [hn, if_pos (ha'.trans hb'.symm), ha']
    · refine iff_of_false (by rw [hpos (by exact_mod_cast hgt)]; simp) ?_
      rintro (hlt | ⟨hq, hb⟩)
      · exact absurd hlt hgt.not_gt
      · rw [hval, hnone hq, hb.1] at hgt; simp at hgt

include h hp in
theorem SumIs.add : SumIs (l ++ [p]) (a.add 0 p) :=
  ⟨add_of_nan_mem h, fun hnan _ => add_of_inf_mem h hnan, add_of_finite h hp⟩

end

theorem sumIs_foldl {l : List FVal} {a : FVal} (h : SumIs l a) (ps : List FVal) (hps : ∀ p ∈ ps, Plain p) :
    SumIs (l ++ ps) (ps.foldl (FVal.add 0) a) := by
  induction ps generalizing l a with
  | nil => simpa using h
  | cons p ps ih =>
    obtain ⟨hp, hps⟩ := List.forall_mem_cons.mp hps
    rw [show l ++ p :: ps = (l ++ [p]) ++ ps by simp, List.foldl_cons]
    exact ih (h.add hp) hps

/-- What is to be rounded once: the exact sum of the products, +0 when there are none. -/
def productSum : List FVal → FVal
  | [] => .fin false 0 0 false
  | p :: ps => ps.foldl (FVal.add 0) p

theorem foldl_of_some {F : Option FVal → FVal → Option FVal} (hF : ∀ a p, F (some a) p = some (a.add 0 p)) (ps : List FVal) (a : FVal) :
    ps.foldl F (some a) = some (ps.foldl (FVal.add 0) a) := by
  induction ps generalizing a with
  | nil => rfl
  | cons p ps ih => rw [List.foldl_cons, hF, ih]; rfl

theorem sumOnce_eq (l : List (FVal × FVal)) : sumOnce l = fp32.round 0 false (productSum (l.map fun e => e.1.mul e.2)) := by
  cases l with
  | nil => rfl
  | cons e l =>
    rw [sumOnce, List.map_cons, List.foldl_cons, foldl_of_some fun _ _ => rfl]
    rfl

/-! ### Products -/

def FVal.Infinite (v : FVal) : Prop := v.isNan = false ∧ v.isFin = false
def ProductNan (x y : FVal) : Prop := x.isNan = true ∨ y.isNan = true ∨ (x.Infinite ∧ y.isZero = true) ∨ (x.isZero = true ∧ y.Infinite)

/-- What the product of two plain values is. -/
theorem mul_plain {x y : FVal} (hx : Plain x) (hy : Plain y) : (ProductNan x y → x.mul y = .nan) ∧
    (¬ ProductNan x y → x.Infinite ∨ y.Infinite → x.mul y = .inf (x.neg? != y.neg?)) ∧
    (¬ ProductNan x y → ¬ (x.Infinite ∨ y.Infinite) → ∃ m e, x.mul y = .fin (x.neg? != y.neg?) m e false ∧ exact (x.mul y) = exact x * exact y) := by
  have hzero : ∀ n m e, (FVal.fin n m e false).isZero = true ↔ m = 0 := fun n m e => by cases m <;> simp [FVal.isZero]
  cases x with
  | nan => simp [ProductNan, FVal.isNan]
  | inf a =>
    cases y with
    | nan => simp [ProductNan, FVal.isNan]
    | inf b => simp [ProductNan, FVal.isNan, FVal.isZero, FVal.Infinite, FVal.isFin, FVal.mul, FVal.neg?]
    | fin nb mb eb st =>
      obtain rfl : st = false := hy
      by_cases hm : mb = 0 <;> simp [ProductNan, FVal.isNan, hzero, FVal.Infinite, FVal.isFin, FVal.mul, FVal.neg?, hm]
  | fin na ma ea st =>
    obtain rfl : st = false := hx
    cases y with
    | nan => simp [ProductNan, FVal.isNan]
    | inf b =>
      by_cases hm : ma = 0 <;> simp [ProductNan, FVal.isNan, hzero, FVal.Infinite, FVal.isFin, FVal.mul, FVal.neg?, hm]
    | fin nb mb eb st =>
      obtain rfl : st = false := hy
      refine ⟨fun h => ?_, fun _ h => ?_, fun _ _ => ⟨_, _, rfl, (mul_exact na nb ma mb ea eb).2⟩⟩
      · simp [ProductNan, FVal.isNan, FVal.Infinite, FVal.isFin] at h
      · simp [FVal.Infinite, FVal.isFin] at h

theorem mul_is_plain {x y : FVal} (hx : Plain x) (hy : Plain y) : Plain (x.mul y) := by
  obtain ⟨hnan, hinf, hfin⟩ := mul_plain hx hy
  by_cases hn : ProductNan x y
  · rw [hnan hn]; trivial
  · by_cases hi : x.Infinite ∨ y.Infinite
    · rw [hinf hn hi]; trivial
    · obtain ⟨m, e, h, -⟩ := hfin hn hi
      rw [h]; rfl

/-- A product of plain values by its class. -/
theorem mul_eq_nan_iff {x y : FVal} (hx : Plain x) (hy : Plain y) : x.mul y = .nan ↔ ProductNan x y := by
  obtain ⟨hnan, hinf, hfin⟩ := mul_plain hx hy
  refine ⟨fun h => by_contra fun hn => ?_, hnan⟩
  by_cases hi : x.Infinite ∨ y.Infinite
  · rw [hinf hn hi] at h; cases h
  · obtain ⟨m, e, hm, -⟩ := hfin hn hi
    rw [hm] at h; cases h

theorem mul_eq_inf_iff {x y : FVal} (hx : Plain x) (hy : Plain y) (hn : ¬ ProductNan x y) (n : Bool) :
    x.mul y = .inf n ↔ (x.Infinite ∨ y.Infinite) ∧ (x.neg? != y.neg?) = n := by
  obtain ⟨-, hinf, hfin⟩ := mul_plain hx hy
  by_cases hi : x.Infinite ∨ y.Infinite
  · rw [hinf hn hi]; simp [hi]
  · obtain ⟨m, e, hm, -⟩ := hfin hn hi
    rw [hm]; simp [hi]

theorem productSum_is {l : List FVal} (hl : l ≠ []) (hp : ∀ p ∈ l, Plain p) : SumIs l (productSum l) := by
  cases l with
  | nil => exact absurd rfl hl
  | cons p ps =>
    obtain ⟨hp, hps⟩ := List.forall_mem_cons.mp hp
    exact sumIs_foldl (sumIs_one hp) ps hps

theorem sumOnce_nil : SumOfProducts [] (sumOnce []) := by
  refine ⟨by simp, fun _ => ⟨by simp, fun _ _ => ⟨false, by simp, ?_⟩⟩⟩
  have hzero : exact (.fin false 0 0 false) = 0 := by simp [exact]
  simpa only [sumOnce_eq, productSum, hzero, List.map_nil, List.sum_nil] using rounded_exact sound_fp32 0 false 0 0

/-- The sum of products that `mac` rounds once is the exact one (R195). -/
theorem sumOfProducts_sumOnce (l : List (FVal × FVal)) (hl : ∀ e ∈ l, Plain e.1 ∧ Plain e.2) : SumOfProducts l (sumOnce l) := by
  rcases eq_or_ne l [] with rfl | hne
  · exact sumOnce_nil
  unfold SumOfProducts
  intro inf neg nan big sum
  have hsum := productSum_is (l := l.map fun e => e.1.mul e.2) (by simpa using hne) fun p hp => by
    obtain ⟨e, he, rfl⟩ := List.mem_map.mp hp
    exact mul_is_plain (hl e he).1 (hl e he).2
  rw [sumOnce_eq]
  have hnan : FVal.nan ∈ l.map (fun e => e.1.mul e.2) ↔ ∃ e ∈ l, nan e := by
    rw [List.mem_map]
    exact exists_congr fun e => and_congr_right fun he => mul_eq_nan_iff (hl e he).1 (hl e he).2
  have hinf : (∀ e ∈ l, ¬ nan e) → ∀ n, FVal.inf n ∈ l.map (fun e => e.1.mul e.2) ↔ big n := fun hno n => by
    rw [List.mem_map]
    exact exists_congr fun e => and_congr_right fun he => mul_eq_inf_iff (hl e he).1 (hl e he).2 (hno e he) n
  refine ⟨fun h => ?isNan, fun hno => ⟨fun n hn hother => ?isInf, fun htrue hfalse => ?isFin⟩⟩
  case isNan =>
    rw [hsum.nan]
    · rfl
    · by_cases hmem : ∃ e ∈ l, nan e
      · exact .inl (hnan.mpr hmem)
      · have hno : ∀ e ∈ l, ¬ nan e := fun e he hn => hmem ⟨e, he, hn⟩
        exact .inr ((h.resolve_left hmem).imp (hinf hno true).mpr (hinf hno false).mpr)
  all_goals have hnone : FVal.nan ∉ l.map (fun e => e.1.mul e.2) := fun h => by obtain ⟨e, he, hn⟩ := hnan.mp h; exact hno e he hn
  case isInf =>
    rw [hsum.inf hnone n ((hinf hno n).mpr hn) (mt (hinf hno (!n)).mp hother), round_inf]
    rfl
  case isFin =>
    obtain ⟨n, m, e, ha, hval, hn⟩ := hsum.fin hnone fun k hk => by
      cases k
      · exact hfalse ((hinf hno false).mp hk)
      · exact htrue ((hinf hno true).mp hk)
    have hprod : ∀ c ∈ l, ∃ m e, c.1.mul c.2 = .fin (c.1.neg? != c.2.neg?) m e false ∧ exact (c.1.mul c.2) = exact c.1 * exact c.2 := fun c hc =>
      (mul_plain (hl c hc).1 (hl c hc).2).2.2 (hno c hc) fun hi => by
        cases hs : c.1.neg? != c.2.neg?
        · exact hfalse ⟨c, hc, hi, hs⟩
        · exact htrue ⟨c, hc, hi, hs⟩
    have htotal : exact (productSum (l.map fun e => e.1.mul e.2)) = sum := by
      rw [hval, List.map_map]
      exact congrArg List.sum (List.map_congr_left fun c hc => by obtain ⟨_, _, -, h⟩ := hprod c hc; exact h)
    have hzero : (∀ p ∈ l.map (fun e => e.1.mul e.2), p.NegZero) ↔ ∀ c ∈ l, exact c.1 * exact c.2 = 0 ∧ neg c = true := by
      rw [List.forall_mem_map]
      refine forall₂_congr fun c hc => ?_
      obtain ⟨_, _, hmul, h⟩ := hprod c hc
      rw [FVal.NegZero, h, hmul]
      rfl
    refine ⟨n, by rw [hn, htotal, hzero, and_iff_right hne], ?_⟩
    rw [← htotal, ha]
    exact rounded_exact sound_fp32 0 n m e

end Sys2Proof.Machine

/-! PROOFS. The words of a routine that work on tiles (R195, R196, R199, R209). -/
namespace Sys2Proof.Machine
open Claims

/-! ### Groups of products (R195) -/

theorem addGroups_nil (g n z : Nat) : addGroups g n [] z = z := by cases n <;> rfl

/-- Fuel for each product is enough, and more changes nothing. -/
theorem addGroups_of_fuel {g : Nat} (hg : 0 < g) (n k : Nat) (l : List (FVal × FVal)) (z : Nat) (hn : l.length ≤ n) (hk : l.length ≤ k) :
    addGroups g n l z = addGroups g k l z := by
  induction n generalizing k l z with
  | zero => rw [List.length_eq_zero_iff.mp (Nat.le_zero.mp hn), addGroups_nil, addGroups_nil]
  | succ n ih =>
    cases l with
    | nil => rw [addGroups_nil, addGroups_nil]
    | cons e l =>
      obtain ⟨k, rfl⟩ : ∃ k', k = k' + 1 := ⟨k - 1, by simp only [List.length_cons] at hk; omega⟩
      simp only [List.length_cons] at hn hk
      exact ih k _ _ (by rw [List.length_drop, List.length_cons]; omega) (by rw [List.length_drop, List.length_cons]; omega)

theorem addGroups_step {g : Nat} (hg : 0 < g) {l : List (FVal × FVal)} (hl : l ≠ []) (z : Nat) : addGroups g l.length l z =
    addGroups g (l.drop g).length (l.drop g) (fp32.addBits 0 z (sumOnce (l.take g))) := by
  cases l with
  | nil => exact absurd rfl hl
  | cons e l => exact addGroups_of_fuel hg l.length _ ((e :: l).drop g) _ (by rw [List.length_drop, List.length_cons]; omega) le_rfl

/-! ### Windows -/

theorem tileWindow_some {v : TileView} {start : Nat} {lenM1 : BitVec 9} {all : Bool} {l : Nat}
    (hl : l = if all then v.depth - start else lenM1.toNat + 1) (h : 0 < l ∧ start + l ≤ v.depth) :
    tileWindow (some v) start lenM1 all = some (start, l) := by
  subst hl
  exact if_neg (by simp only [Bool.or_eq_true, decide_eq_true_eq]; omega)

theorem tileWindow_none {v : TileView} {start : Nat} {lenM1 : BitVec 9} {all : Bool} {l : Nat}
    (hl : l = if all then v.depth - start else lenM1.toNat + 1) (h : ¬ (0 < l ∧ start + l ≤ v.depth)) :
    tileWindow (some v) start lenM1 all = none := by
  subst hl
  exact if_pos (by simp only [Bool.or_eq_true, decide_eq_true_eq]; omega)

theorem extents_of_views {s : State} {r : MRecord} {a b : TileView} (ha : s.tileView r false = some a) (hb : s.tileView r true = some b) :
    s.extents r = (a.outer, b.outer) := by
  rw [State.extents, ha, hb]
  rfl

section
variable {s : State} {m : MicroRun} {a b : TileView} {ka kb len : Nat}

theorem here_iff : m.here = true ↔ m.acur = m.mrec.accOff := beq_iff_eq

theorem windows_of_windowed (h : Windowed s m a b ka kb len) : s.windows m = .ok a b ka kb len := by
  obtain ⟨hA, hB, ha, hb, -, -⟩ := h
  simp [State.windows, hA, hB, ha, hb]

theorem arrayTiming_of_windowed (h : Windowed s m a b ka kb len) : arrayTiming s m = timed m a b len := by
  obtain ⟨hA, -, ha, hb, -, -⟩ := h
  simp [arrayTiming, timed, hA, ha, hb]

/-- `mac` adds to each cell its groups of products (R195). -/
theorem macDense_of_windowed (h : Windowed s m a b ka kb len) (hhere : m.acur = m.mrec.accOff)
    (hsound : s.cellsSpoilt m (m.cells a.outer b.outer) = false) {g : Nat} (hg : macGroup a.fmt b.fmt = some g) :
    ∃ m', s.macDense m = .go m' ∧ Cells s m m' a.outer b.outer fun i j =>
      addGroups g len ((List.range len).map fun t => (a.fval (i - m.rowOff) (ka + t), b.fval (j - m.colOff) (kb + t))) (s.cellOf m i j) := by
  have hwin := windows_of_windowed h
  obtain ⟨-, -, -, -, hA, hB⟩ := h
  simp only [State.macDense, hwin, hg, hA, hB, hsound, here_iff.mpr hhere, natRange_from_zero, Bool.or_self, Bool.false_eq_true, if_false,
    Bool.not_true]
  exact ⟨_, rfl, cells_foldl_setCell s (g := fun i j z =>
    addGroups g len ((List.range len).map fun t => (a.fval (i - m.rowOff) (ka + t), b.fval (j - m.colOff) (kb + t))) z) fun p c => rfl⟩

theorem macDense_wrongTypes (h : Windowed s m a b ka kb len) (hg : macGroup a.fmt b.fmt = none) : s.macDense m = m.bad 3 := by
  simp only [State.macDense, windows_of_windowed h, hg]

theorem foldl_add_eq_sum (f : Nat → Int) (l : List Nat) (z : Int) : l.foldl (fun acc t => acc + f t) z = z + (l.map f).sum := by
  induction l generalizing z with
  | nil => simp
  | cons t l ih => rw [List.foldl_cons, ih, List.map_cons, List.sum_cons, add_assoc]

/-- `macq` starts a block of integer sums (R196). -/
theorem macBlock_of_windowed (h : Windowed s m a b ka kb len) (hia : intOperand a.fmt = true) (hib : intOperand b.fmt = true)
    (hga : oneGroup a ka len = true) (hgb : oneGroup b kb len = true)
    (hba : a.badIn ((m.cells a.outer b.outer).map fun c => c.1 - m.rowOff) [ka] = false)
    (hbb : b.badIn ((m.cells a.outer b.outer).map fun c => c.2 - m.colOff) [kb] = false) :
    s.macBlock m = .go { m with blocks := m.blocks ++ [⟨m.cycle, if a.fmt = 14 ∧ b.fmt = 14 then 18 else 14,
      (m.cells a.outer b.outer).map fun (i, j) => (64 * i + j,
        ((List.range len).map fun t => a.int (i - m.rowOff) (ka + t) * b.int (j - m.colOff) (kb + t)).sum,
        a.scale (i - m.rowOff) ka, b.scale (j - m.colOff) kb)⟩] } := by
  have hwin := windows_of_windowed h
  obtain ⟨-, -, -, -, hA, hB⟩ := h
  have hlag : (decide (a.fmt.toNat = 14) && decide (b.fmt.toNat = 14)) = decide (a.fmt = 14 ∧ b.fmt = 14) := by
    simp [← BitVec.toNat_inj]
  simp only [State.macBlock, hwin, hia, hib, hga, hgb, hba, hbb, hA, hB, hlag, natRange_from_zero, foldl_add_eq_sum, zero_add, Bool.not_true,
    Bool.or_self, Bool.false_eq_true, if_false, decide_eq_true_eq]
  rfl

end

/-! ### Folding a block (R196, R199) -/

theorem find?_of_nodup {α : Type} {l : List (Nat × α)} (h : (l.map (·.1)).Nodup) {e : Nat × α} (he : e ∈ l) : l.find? (·.1 == e.1) = some e := by
  induction l with
  | nil => cases he
  | cons x l ih =>
    rw [List.map_cons, List.nodup_cons] at h
    rcases List.mem_cons.mp he with rfl | hmem
    · simp
    · have hne : x.1 ≠ e.1 := fun hx => h.1 (hx ▸ List.mem_map_of_mem hmem)
      rw [List.find?_cons_of_neg (by simpa using hne), ih h.2 hmem]

/-- What `fold` leaves in a cell that held z: the sum of the block scaled and added, where the block has one (R196). -/
def foldCell (sums : List (Nat × Int × Nat × Nat)) (i j z : Nat) : Nat :=
  match sums.find? (·.1 == 64 * i + j) with
  | some (_, p, sa, sb) => foldAdd z p sa sb
  | none => z

theorem foldCell_of_not_mem {sums : List (Nat × Int × Nat × Nat)} {i j : Nat} (hj : j < 64)
    (h : (i, j) ∉ sums.map fun e => (e.1 / 64, e.1 % 64)) (z : Nat) : foldCell sums i j z = z := by
  rw [foldCell, List.find?_eq_none.mpr]
  intro e he hkey
  refine h (List.mem_map.mpr ⟨e, he, ?_⟩)
  have := eq_of_beq hkey
  exact Prod.ext_iff.mpr ⟨by simp only; omega, by simp only; omega⟩

theorem nodup_foldCells {sums : List (Nat × Int × Nat × Nat)} (h : (sums.map (·.1)).Nodup) : (sums.map fun e => (e.1 / 64, e.1 % 64)).Nodup := by
  rw [show (sums.map fun e => (e.1 / 64, e.1 % 64)) = (sums.map (·.1)).map fun c => (c / 64, c % 64) by rw [List.map_map]; rfl]
  refine h.map fun c c' hc => ?_
  obtain ⟨hdiv, hmod⟩ := Prod.mk.inj hc
  omega

/-- A `fold` at its block's distance scales and adds the block's sums (R196, R199). -/
theorem fold_at_distance {s : State} {m : MicroRun} {blk : FoldBlock} (hhere : m.acur = m.mrec.accOff) (hblk : m.blocks[m.paired]? = some blk)
    (hdue : m.cycle = blk.cycle + blk.lag) (hsound : s.cellsSpoilt m (m.cells (s.extents m.mrec).1 (s.extents m.mrec).2) = false)
    (hkeys : (blk.sums.map (·.1)).Nodup) : ∃ m', s.fold m = .go m' ∧ m' = { m with part := m'.part, paired := m.paired + 1 } ∧
      ∀ i j, j < 64 → s.cellOf m' i j = foldCell blk.sums i j (s.cellOf m i j) := by
  have hfold : s.fold m = .go ((blk.sums.map fun e => (e.1 / 64, e.1 % 64)).foldl
      (fun m c => m.setCell c.1 c.2 (foldCell blk.sums c.1 c.2 (s.cellOf m c.1 c.2))) { m with paired := m.paired + 1, part := m.part }) := by
    rw [List.foldl_map]
    simp only [State.fold, hsound, hblk, hdue, MicroRun.here, beq_iff_eq.mpr hhere, Bool.not_true, Bool.false_eq_true, if_false, if_true]
    refine congrArg MRes.go (List.foldl_ext _ _ _ fun m e he => ?_)
    simp only [Option.bind_some, find?_of_nodup hkeys he, foldCell, Nat.div_add_mod]
  obtain ⟨p, hp, hcells⟩ := foldl_setCell s (m := { m with paired := m.paired + 1 })
    (F := fun m c => m.setCell c.1 c.2 (foldCell blk.sums c.1 c.2 (s.cellOf m c.1 c.2))) (g := foldCell blk.sums) (fun _ _ => rfl)
    (nodup_foldCells hkeys) (fun c hc => by obtain ⟨e, -, rfl⟩ := List.mem_map.mp hc; exact Nat.mod_lt _ (by norm_num)) m.part
  refine ⟨_, hfold, by rw [hp], fun i j hj => ?_⟩
  rw [hp, hcells i j hj]
  split
  · rfl
  · next hnot => exact (foldCell_of_not_mem hj hnot _).symm

/-! ### The words -/

section
variable {s : State} {m : MicroRun} {a b : TileView} {ka kb len : Nat} (hr : Running s m)
include hr

theorem uFeeda_outside {wa : WReg} {lenM1 : BitVec 9} {all : Bool} {v : TileView} (hv : s.tileView m.mrec false = some v)
    (h : ¬ (0 < (if all then v.depth - (m.get wa).toNat else lenM1.toNat + 1) ∧
      (m.get wa).toNat + (if all then v.depth - (m.get wa).toNat else lenM1.toNat + 1) ≤ v.depth)) :
    ∃ m', exec (.uFeeda wa lenM1 all) s = .next (ran s m') ∧ m'.fault = some { code := 0x25, sub := 1, elem := m.mrec.microTile } :=
  ⟨_, show execUFeeda wa lenM1 all s = _ from micro_faults hr ⟨rfl, rfl⟩ (by rw [noTiming_eq, hv, tileWindow_none rfl h]; rfl), rfl⟩

theorem uMac_wrongTypes (hw : Windowed s m a b ka kb len) (hsample : m.mrec.sample = false) (hg : macGroup a.fmt b.fmt = none) :
    ∃ m', exec .uMac s = .next (ran s m') ∧ m'.fault = some { code := 0x25, sub := 3, elem := m.mrec.microTile } := by
  have htime := arrayTiming_of_windowed hw
  refine ⟨_, show execUMac s = _ from micro_faults hr (by rw [htime]; exact ⟨rfl, rfl⟩) ?_, rfl⟩
  rw [htime]
  exact (if_neg (by rw [show (timed m a b len).mrec = m.mrec from rfl, hsample]; simp)).trans (macDense_wrongTypes (m := timed m a b len) hw hg)

variable (hs : Straight s m)
include hs

theorem uFeeda_opens {wa : WReg} {lenM1 : BitVec 9} {all : Bool} {v : TileView} (hv : s.tileView m.mrec false = some v) {l : Nat}
    (hl : l = if all then v.depth - (m.get wa).toNat else lenM1.toNat + 1) (h : 0 < l ∧ (m.get wa).toNat + l ≤ v.depth) :
    exec (.uFeeda wa lenM1 all) s = .next (stepped s m { m with winA := some ((m.get wa).toNat, l) }) :=
  show execUFeeda wa lenM1 all s = _ from micro_goes hr hs (by rw [hv, tileWindow_some hl h]) rfl rfl

theorem uFeedb_opens {wa : WReg} {lenM1 : BitVec 9} {all : Bool} {v : TileView} (hv : s.tileView m.mrec true = some v) {l : Nat}
    (hl : l = if all then v.depth - (m.get wa).toNat else lenM1.toNat + 1) (h : 0 < l ∧ (m.get wa).toNat + l ≤ v.depth) :
    exec (.uFeedb wa lenM1 all) s = .next (stepped s m { m with winB := some ((m.get wa).toNat, l) }) :=
  show execUFeedb wa lenM1 all s = _ from micro_goes hr hs (by rw [hv, tileWindow_some hl h]) rfl rfl

theorem uAccl_clears {wa : WReg} {idx : BitVec 6} {acur : Nat} (hacur : acur = (m.get wa + BitVec.ofNat 32 idx.toNat).toNat)
    (ha : s.tileView m.mrec false = some a) (hb : s.tileView m.mrec true = some b) (hhere : acur = m.mrec.accOff) (hin : acur < m.mrec.count) :
    ∃ m', exec (.uAccl wa idx true) s = .next (stepped s m m') ∧ Cells s { m with acur := acur } m' a.outer b.outer fun _ _ => 0 := by
  rw [BitVec.ofNat_toNat] at hacur
  subst hacur
  have hcells := cells_foldl_setCell s (m := { m with acur := (m.get wa + idx.setWidth 32).toNat }) (rows := a.outer) (cols := b.outer)
    (F := fun m c => m.setCell c.1 c.2 0) (g := fun _ _ _ => 0) fun _ _ => rfl
  refine ⟨_, show execUAccl wa idx true s = _ from micro_goes hr hs ((if_neg (not_le.mpr hin)).trans ?_) ?_ ?_, hcells⟩
  · simp only [extents_of_views ha hb, MicroRun.here, beq_iff_eq.mpr hhere, Bool.not_true, Bool.false_eq_true, if_false, if_true]
  · rw [hcells.1]
  · rw [hcells.1]

theorem uMac_adds (hw : Windowed s m a b ka kb len) (hsample : m.mrec.sample = false) (hhere : m.acur = m.mrec.accOff)
    (hsound : s.cellsSpoilt m (m.cells a.outer b.outer) = false) {g : Nat} (hg : macGroup a.fmt b.fmt = some g) :
    ∃ m', exec .uMac s = .next (stepped s m m') ∧ Cells s (timed m a b len) m' a.outer b.outer fun i j =>
      addGroups g len ((List.range len).map fun t => (a.fval (i - m.rowOff) (ka + t), b.fval (j - m.colOff) (kb + t))) (s.cellOf m i j) := by
  have htime := arrayTiming_of_windowed hw
  obtain ⟨m', hgo, hcells⟩ := macDense_of_windowed (m := timed m a b len) hw hhere hsound hg
  refine ⟨m', show execUMac s = _ from micro_steps hr hs (by rw [htime]; exact ⟨rfl, rfl⟩) ?_ ?_ ?_, hcells⟩
  · rw [htime]
    exact (if_neg (by rw [show (timed m a b len).mrec = m.mrec from rfl, hsample]; simp)).trans hgo
  · rw [hcells.1]; rfl
  · rw [hcells.1]; exact hs.1

theorem uMacq_starts (hw : Windowed s m a b ka kb len) (hsample : m.mrec.sample = false) (hia : intOperand a.fmt = true)
    (hib : intOperand b.fmt = true) (hga : oneGroup a ka len = true) (hgb : oneGroup b kb len = true)
    (hba : a.badIn ((m.cells a.outer b.outer).map fun c => c.1 - m.rowOff) [ka] = false)
    (hbb : b.badIn ((m.cells a.outer b.outer).map fun c => c.2 - m.colOff) [kb] = false) :
    exec .uMacq s = .next (stepped s m { timed m a b len with blocks := m.blocks ++ [⟨(timed m a b len).cycle,
      if a.fmt = 14 ∧ b.fmt = 14 then 18 else 14, (m.cells a.outer b.outer).map fun (i, j) => (64 * i + j,
        ((List.range len).map fun t => a.int (i - m.rowOff) (ka + t) * b.int (j - m.colOff) (kb + t)).sum,
        a.scale (i - m.rowOff) ka, b.scale (j - m.colOff) kb)⟩] }) := by
  have htime := arrayTiming_of_windowed hw
  change execUMacq s = _
  refine micro_steps hr hs (by rw [htime]; exact ⟨rfl, rfl⟩) ?_ rfl hs.1
  rw [htime]
  exact (if_neg (by rw [show (timed m a b len).mrec = m.mrec from rfl, hsample]; simp)).trans
    (macBlock_of_windowed (m := timed m a b len) hw hia hib hga hgb hba hbb)

theorem uFold_adds {blk : FoldBlock} (hsample : m.mrec.sample = false) (hhere : m.acur = m.mrec.accOff) (hblk : m.blocks[m.paired]? = some blk)
    (hdue : m.cycle = blk.cycle + blk.lag) (hsound : s.cellsSpoilt m (m.cells (s.extents m.mrec).1 (s.extents m.mrec).2) = false)
    (hkeys : (blk.sums.map (·.1)).Nodup) : ∃ m', exec .uFold s = .next (stepped s m m') ∧ m' = { m with part := m'.part, paired := m.paired + 1 } ∧
      ∀ i j, j < 64 → s.cellOf m' i j = foldCell blk.sums i j (s.cellOf m i j) := by
  obtain ⟨m', hgo, hm, hcells⟩ := fold_at_distance hhere hblk hdue hsound hkeys
  refine ⟨m', show execUFold s = _ from micro_goes hr hs ((if_neg (by rw [hsample]; simp)).trans hgo) ?_ ?_, hm, hcells⟩ <;> rw [hm]

theorem uNorm_sums {wa : WReg} {sideB add : Bool} {k l : Nat} {v : TileView} (hfirst : m.mrec.accOff = 0 ∧ m.mrec.microTile = 0)
    (hwin : (if sideB then m.winB else m.winA) = some (k, l)) (hv : s.tileView m.mrec sideB = some v) (hsound : Sound v (natRange 0 v.outer) k l)
    {base : Nat} (hbase : base = (m.get wa).toNat / 4 * 4) (hold : add = true → s.recSpoilt base (4 * l) = false)
    (hbound : s.spBound base (4 * l) = true) (hfree : s.overwrites base (4 * l) = false) :
    exec (.uNorm wa sideB add) s = .next (stepped s m { m with norms := m.norms ++ [(base, (List.range l).flatMap fun i =>
      leBytes 4 ((List.range v.outer).foldl (fun z o => fp32.addBits 0 z (fp32.mulBits 0 (v.val o (k + i)) (v.val o (k + i))))
        (if add then s.normEntry m (base + 4 * i) else 0)))] }) := by
  obtain ⟨hspoilt, hbad⟩ := hsound
  have hkept : (add && s.recSpoilt base (4 * l)) = false := by
    cases add
    · rfl
    · simpa using hold rfl
  subst hbase
  rw [natRange_from_zero] at hspoilt hbad
  change execUNorm wa sideB add s = _
  refine micro_goes hr hs ?_ rfl rfl
  simp only [hfirst.1, hfirst.2, hwin, hv, hspoilt, hbad, hkept, hbound, hfree, natRange_from_zero, ne_eq, not_true, decide_false, Bool.or_self,
    Bool.not_true, Bool.false_eq_true, if_false]
  rfl

theorem uNorm_later (wa : WReg) (sideB add : Bool) (h : m.mrec.accOff ≠ 0 ∨ m.mrec.microTile ≠ 0) :
    exec (.uNorm wa sideB add) s = .next (stepped s m m) :=
  show execUNorm wa sideB add s = _ from micro_goes hr hs (if_pos (by simpa using h)) rfl rfl

end

end Sys2Proof.Machine

namespace Sys2Proof
open Machine Claims

/-- Settles O42: a word sets each cell of its region once, from what it holds, and what `mac` rounds once is the exact sum. -/
theorem microArrayWords : Obligations.MicroArrayWords := by
  intro wa lenM1 idx all sideB add s m a b ka kb len hr hs x acur product isum
  exact ⟨fun v hv => ⟨uFeeda_opens hr hs hv rfl, uFeeda_outside hr hv⟩, fun v hv hl hin => uFeedb_opens hr hs hv rfl ⟨hl, hin⟩,
    uAccl_clears hr hs rfl, fun hw hsample hhere hsound g hg => uMac_adds hr hs hw hsample hhere hsound hg,
    fun g l z hg hl => addGroups_step hg hl z, fun _ => rfl, sumOfProducts_sumOnce, uMac_wrongTypes hr, uMacq_starts hr hs,
    fun blk => uFold_adds hr hs, fun k l v hacc htile hwin hv hsound => uNorm_sums hr hs ⟨hacc, htile⟩ hwin hv hsound rfl, uNorm_later hr hs wa sideB add⟩

end Sys2Proof

/-! PROOFS. What a plain load leaves alone (R231 to R235, R239, R248, R258): it moves copies of bytes, never the bytes. -/
namespace Sys2Proof.Machine

/-- Of two packages the same bytes stand in memory. -/
def Package.SameBytes (k u : Package) : Prop := k.hbm = u.hbm ∧ k.cache = u.cache ∧ k.num = u.num ∧ k.clearing = u.clearing

theorem Package.SameBytes.trans {k u v : Package} (h : k.SameBytes u) (h' : u.SameBytes v) : k.SameBytes v :=
  ⟨h.1.trans h'.1, h.2.1.trans h'.2.1, h.2.2.1.trans h'.2.2.1, h.2.2.2.trans h'.2.2.2⟩

/-- A load has changed no register and no byte, nor what the context returns to or reports. -/
structure LoadKept (s t : State) : Prop where
  regs : t.ctx.regs = s.ctx.regs
  hbm : t.pkg.hbm = s.pkg.hbm
  cache : t.pkg.cache = s.pkg.cache
  host : t.host = s.host
  pool : t.pool = s.pool
  full : t.core.full = s.core.full
  ckpt : t.ctx.ckpt = s.ctx.ckpt
  status : t.ctx.status = s.ctx.status
  trapRec : t.ctx.trapRec = s.ctx.trapRec
  ram : t.core.ram = s.core.ram
  coreNum : t.coreNum = s.coreNum
  cores : t.cores = s.cores
  clock : t.clock = s.clock
  pkgNum : t.pkg.num = s.pkg.num
  clearing : t.pkg.clearing = s.pkg.clearing
  micro : t.ctx.micro = s.ctx.micro

theorem Context.noteRead_eq (c : Context) (cls : BitVec 4) (l : List (Place × Nat)) : c.noteRead cls l =
    { c with floors := (c.noteRead cls l).floors, seenAt := (c.noteRead cls l).seenAt, lastRead := (c.noteRead cls l).lastRead } := by
  unfold Context.noteRead
  by_cases h : (l.filter fun x => decide (0 < x.2)).isEmpty = true
  · rw [if_pos h]
  · rw [if_neg h]
    dsimp only [Context.noteSeen, Context.raiseFloors]

namespace LoadKept

theorem refl (s : State) : LoadKept s s := ⟨rfl, rfl, rfl, rfl, rfl, rfl, rfl, rfl, rfl, rfl, rfl, rfl, rfl, rfl, rfl, rfl⟩

theorem trans {s t u : State} (h : LoadKept s t) (h' : LoadKept t u) : LoadKept s u :=
  ⟨h'.regs.trans h.regs, h'.hbm.trans h.hbm, h'.cache.trans h.cache, h'.host.trans h.host, h'.pool.trans h.pool, h'.full.trans h.full,
    h'.ckpt.trans h.ckpt, h'.status.trans h.status, h'.trapRec.trans h.trapRec, h'.ram.trans h.ram,
    h'.coreNum.trans h.coreNum, h'.cores.trans h.cores, h'.clock.trans h.clock, h'.pkgNum.trans h.pkgNum, h'.clearing.trans h.clearing,
    h'.micro.trans h.micro⟩

theorem foldl {α : Type} {f : State → α → State} (hf : ∀ s a, LoadKept s (f s a)) (l : List α) (s : State) : LoadKept s (l.foldl f s) :=
  List.foldlRecOn (motive := LoadKept s) l f (refl s) fun _ h a _ => h.trans (hf _ a)

theorem raise (s : State) (i : TrapInfo) : LoadKept s (s.raise i) := by
  rw [State.raise_eq]
  exact ⟨rfl, rfl, rfl, rfl, rfl, rfl, rfl, rfl, rfl, rfl, rfl, rfl, rfl, rfl, rfl, rfl⟩

theorem block (s : State) (b : Bool) : LoadKept s (s.block b) := by
  rw [State.block_eq]
  exact ⟨rfl, rfl, rfl, rfl, rfl, rfl, rfl, rfl, rfl, rfl, rfl, rfl, rfl, rfl, rfl, rfl⟩

theorem reportKept (s : State) (o : OpId) (i : TrapInfo) : LoadKept s (s.reportKept o i) := ⟨rfl, rfl, rfl, rfl, rfl, rfl, rfl, rfl, rfl, rfl, rfl, rfl, rfl, rfl, rfl, rfl⟩

theorem mapCtx (s : State) {f : Context → Context} (h : (f s.ctx).regs = s.ctx.regs ∧ (f s.ctx).ckpt = s.ctx.ckpt ∧
    (f s.ctx).status = s.ctx.status ∧ (f s.ctx).trapRec = s.ctx.trapRec ∧ (f s.ctx).micro = s.ctx.micro) : LoadKept s (s.mapCtx f) :=
  ⟨h.1, rfl, rfl, rfl, rfl, rfl, h.2.1, h.2.2.1, h.2.2.2.1, rfl, rfl, rfl, rfl, rfl, rfl, h.2.2.2.2⟩

theorem mapPkg (s : State) {f : Package → Package} (h : (f s.pkg).SameBytes s.pkg) : LoadKept s (s.mapPkg f) :=
  ⟨rfl, h.1, h.2.1, rfl, rfl, rfl, rfl, rfl, rfl, rfl, rfl, rfl, rfl, h.2.2.1, h.2.2.2, rfl⟩

theorem mapCore (s : State) {f : CoreSt → CoreSt} (h : (f s.core).ram = s.core.ram ∧ (f s.core).full = s.core.full) : LoadKept s (s.mapCore f) :=
  ⟨rfl, rfl, rfl, rfl, rfl, h.2, rfl, rfl, rfl, h.1, rfl, rfl, rfl, rfl, rfl, rfl⟩

theorem noteRead (s : State) (cls : BitVec 4) (l : List (Place × Nat)) : LoadKept s (s.mapCtx fun c => c.noteRead cls l) := by
  refine mapCtx s ?_
  rw [Context.noteRead_eq]
  exact ⟨rfl, rfl, rfl, rfl, rfl⟩

theorem wantRead (s : State) (obj : BitVec 48) (page : Nat) : LoadKept s (s.wantRead obj page) := by
  unfold State.wantRead
  dsimp only
  split
  · split <;> exact mapPkg s ⟨rfl, rfl, rfl, rfl⟩
  · split
    · exact mapPkg s ⟨rfl, rfl, rfl, rfl⟩
    · exact refl s

theorem fillTlb (s : State) (xs : List TlbEntry) : LoadKept s (s.fillTlb xs) := by
  unfold State.fillTlb
  dsimp only
  have hcore : LoadKept s (s.mapCore fun c => { c with tlb := xs.foldl (fun l x =>
    x :: l.filter fun e => !(e.pid == x.pid && e.asid == x.asid && e.vpage == x.vpage)) c.tlb }) := mapCore s ⟨rfl, rfl⟩
  split
  · exact hcore.trans (mapPkg _ ⟨rfl, rfl, rfl, rfl⟩)
  · exact hcore

theorem usePages (s : State) (ps : List Place) : LoadKept s (s.usePages ps) := by
  have hpage : ∀ (s : State) obj page, LoadKept s (s.usePage obj page) := fun s obj page => by
    unfold State.usePage
    dsimp only
    split
    · exact mapPkg s ⟨rfl, rfl, rfl, rfl⟩
    · exact refl s
  have huse : ∀ (s : State) (p : Option Place), LoadKept s (match p with | some (.pool obj o) => s.usePage obj (o / 2 ^ 16) | _ => s) := fun s p => by
    split
    · exact hpage s _ _
    · exact refl s
  exact (huse s _).trans (huse _ _)

/-- The homes and near caches pass copies of a sector on. -/
theorem nearLoad_bytes (core : BitVec 7) (k : Package) (sec : Nat) : (nearLoad core k sec).SameBytes k := by
  have htake : (takeLine k sec).SameBytes k := by
    rw [takeLine_eq]
    exact ⟨rfl, rfl, rfl, rfl⟩
  unfold nearLoad
  dsimp only
  split
  · exact ⟨rfl, rfl, rfl, rfl⟩
  · split <;> split
    · exact htake
    · exact htake
    · exact ⟨rfl, rfl, rfl, rfl⟩
    · exact ⟨rfl, rfl, rfl, rfl⟩

theorem noteLoad (s : State) (ps : List Place) (xs : List TlbEntry) (late : NatSet) : LoadKept s (s.noteLoad ps xs late) := by
  unfold State.noteLoad
  dsimp only
  have huse : LoadKept s ((if xs.isEmpty then s else s.fillTlb xs).usePages ps) := by
    split
    · exact usePages s ps
    · exact (fillTlb s xs).trans (usePages _ ps)
  generalize (if xs.isEmpty then s else s.fillTlb xs).usePages ps = t at huse
  split
  · exact huse
  · refine huse.trans ?_
    obtain ⟨hhbm, hcache, hnum, hclearing⟩ := List.foldlRecOn (motive := fun u => u.SameBytes t.pkg)
      ((sectorsOf ps).filter fun x => !NatSet.has late x) (nearLoad t.coreNum) (b := t.pkg) ⟨rfl, rfl, rfl, rfl⟩
      fun u hu x _ => (nearLoad_bytes _ u x).trans hu
    exact ⟨rfl, hhbm, hcache, rfl, rfl, rfl, rfl, rfl, rfl, rfl, rfl, rfl, rfl, hnum, hclearing, rfl⟩

theorem plainRead (s : State) (cls : BitVec 4) (ps : List Place) (unit : Nat → Nat) : LoadKept s (s.plainRead cls ps unit).2.2 := by
  have hread : ∀ (read : List (Place × Nat)) (rels : List RelRec), LoadKept s (if rels.isEmpty then s.mapCtx fun c => c.noteRead cls read else
      (s.mapCtx fun c => c.noteRead cls read).mapCtx fun c =>
        { c with acqFence := c.acqFence ++ (rels.map fun x => (cls, x)).filter fun x => !c.acqFence.elem x }) := fun read rels => by
    split
    · exact noteRead s cls read
    · exact (noteRead s cls read).trans (mapCtx _ ⟨rfl, rfl, rfl, rfl, rfl⟩)
  exact hread _ _

theorem sameMemory {s t : State} (h : LoadKept s t) : Claims.SameMemory s t := by
  have hbox : ∀ c, (t.boxOf c).core.ram = (s.boxOf c).core.ram := fun c => by
    unfold State.boxOf State.box
    rw [h.coreNum, h.cores]
    split
    · split <;> split <;> exact h.ram
    · rfl
  intro p
  cases p <;> simp only [State.byteAt, hbox, h.hbm, h.cache, h.host, h.pool, h.ram, h.clock, h.pkgNum, h.clearing]

theorem shadowLeaves (s : State) (x : Option (BitVec 7) × Nat) : LoadKept s (s.shadowLeaves x) := by
  unfold State.shadowLeaves
  split
  · exact mapPkg s ⟨rfl, rfl, rfl, rfl⟩
  · exact refl s

end LoadKept

/-! ### A load at places that have been checked -/

/-- No race is logged: the detector is off, or a race raises a trap (R259, R261). -/
def RacesUnlogged (s : State) : Prop := Claims.RacesOff s ∨ (s.readSys 0x008).getLsbD 2 = false

theorem raceCheck_kept {s t : State} (hraces : RacesUnlogged s) {ps : List (Place × Word)} {store : Bool} (h : s.raceCheck ps store = .inl t) :
    LoadKept s t := by
  unfold State.raceCheck at h
  dsimp only at h
  rcases hraces with hoff | htraps
  · rw [show (s.readSys 0x008).getLsbD 0 = false from hoff] at h
    cases h
    exact .refl s
  · rw [htraps] at h
    have hshadow := LoadKept.foldl (fun s (x : (Option (BitVec 7) × Nat) × Word) => LoadKept.shadowLeaves s x.1) (s.raceSectors ps) s
    split at h
    · cases h
      exact .refl s
    · split at h
      · cases h
        exact hshadow
      · cases h

/-- The states that a read may go on from are as the one it began at. -/
def Got.Keeps (s : State) : Got → Prop
  | .bytes _ t | .stall t => LoadKept s t
  | _ => True

theorem Got.Keeps.of_kept {s t : State} (h : LoadKept s t) {g : Got} (hg : g.Keeps t) : g.Keeps s := by
  cases g with
  | bytes | stall => exact h.trans hg
  | _ => trivial

theorem gotAt_keeps {s : State} (hraces : RacesUnlogged s) (plain : Option (BitVec 4)) (ps : List (Place × Word)) (xs : List TlbEntry)
    (unit : Nat → Nat) : (s.gotAt plain ps xs unit).Keeps s := by
  have hplain : ∀ (u : State) cls, LoadKept u (u.plainRead cls (ps.map (·.1)) unit).2.2 := fun u cls => .plainRead u cls _ unit
  unfold State.gotAt
  split
  · exact LoadKept.refl s
  · have hstart : ∀ t, (if plain.isSome then s.raceCheck ps false else .inl s) = .inl t → LoadKept s t := fun t h => by
      split at h
      · exact raceCheck_kept hraces h
      · cases h
        exact .refl s
    split
    · trivial
    · next t ht =>
      refine .of_kept (hstart t ht) ?_
      dsimp only
      split
      · split
        · split
          · exact hplain t _
          · exact LoadKept.refl t
        · trivial
        · trivial
        · split
          · exact LoadKept.mapCtx t ⟨rfl, rfl, rfl, rfl, rfl⟩
          · exact LoadKept.refl t
        · trivial
      · split
        · exact (hplain t _).trans (.noteLoad _ _ _ _)
        · show LoadKept t _
          split
          · exact .refl t
          · exact .fillTlb t xs

theorem check_stall_kept {s t : State} {o : Opd} {n : Nat} {need : Need} {rs : List Right} {align elem : Nat} {extra : Place → Option TrapInfo}
    {guard cell : Bool} (h : s.check o n need rs align elem extra guard cell = .stall t) : LoadKept s t := by
  have hpaged : ∀ u : State, LoadKept u (u.mapCtx fun c => { c with paged := true }) := fun u => .mapCtx u ⟨rfl, rfl, rfl, rfl, rfl⟩
  unfold State.check at h
  dsimp only at h
  repeat' split at h
  all_goals cases h
  · exact .refl s
  · exact hpaged s
  · exact ((LoadKept.wantRead s _ _).trans (.wantRead _ _ _)).trans (hpaged _)

theorem got_keeps {s : State} (hraces : RacesUnlogged s) (o : Opd) (n align elem : Nat) (plain : Option (BitVec 4)) :
    (s.got o n align elem plain).Keeps s := by
  unfold State.got
  split
  · trivial
  · next h => exact check_stall_kept h
  · exact gotAt_keeps hraces _ _ _ _

/-- An operation that finishes by a read keeps what its own part keeps. -/
theorem onGot_kept {s : State} {g : Got} (hg : g.Keeps s) (n : Nat) {f : State → List Byte → State} (hf : ∀ t d, LoadKept t (f t d)) :
    LoadKept s (s.onGot n g f) := by
  cases g with
  | bytes d t => exact hg.trans (hf t d)
  | trap i => exact .raise s i
  | stall t => exact LoadKept.trans hg (.block t false)
  | remote w a =>
    unfold State.onGot State.waitRemote
    dsimp only
    split
    · exact .refl s
    · refine LoadKept.trans (LoadKept.trans (.mapPkg s ?_) (.mapCtx _ ⟨rfl, rfl, rfl, rfl, rfl⟩)) (.block _ false)
      rw [Package.sendOn_eq]
      exact ⟨rfl, rfl, rfl, rfl⟩
  | bound ea => exact .reportKept s _ _

end Sys2Proof.Machine

/-! PROOFS. The frames of the M and X slots and of the words of a routine (R187, R292). -/
namespace Sys2Proof.Machine
open Claims

/-! ### Bytes that an engine writes to its core's scratchpad (R226, R246) -/

theorem State.putCells_sram (s : State) (a : Nat) (d : List Byte) :
    s.putCells (((natRange a d.length).map Place.sram).zip (d.map some)) = s.mapCore fun c =>
      { c with ram := c.ram.putBytes a d, poison := (natRange a d.length).foldl NatSet.del c.poison } := by
  induction d generalizing s a with
  | nil => rfl
  | cons b d ih => exact ih (s.mapCore fun c => { c with ram := c.ram.put a b, poison := c.poison.del a }) (a + 1)

theorem sectorsOf_sram (l : List Nat) : sectorsOf (l.map .sram) = [] :=
  List.eq_nil_iff_forall_not_mem.mpr fun x hx => by
    obtain ⟨a, ha, -⟩ := mem_sectorsOf.mp hx
    simp at ha

theorem State.noteHome_sram (s : State) (l : List Nat) : s.noteHome (l.map .sram) = s := by
  unfold State.noteHome
  rw [sectorsOf_sram]
  rfl

theorem length_natRange (a n : Nat) : (natRange a n).length = n := by
  rw [natRange_eq_range', List.length_range']

/-- Beside the bytes, the write leaves the notes of a write. -/
theorem notesOnly_engineCells (s : State) (a : Nat) (d : List Byte) :
    NotesOnly (s.mapCore fun c => { c with ram := c.ram.putBytes a d, poison := (natRange a d.length).foldl NatSet.del c.poison })
      (s.engineCells (((natRange a d.length).map Place.sram).zip (d.map some))) := by
  have hplaces : (((natRange a d.length).map Place.sram).zip (d.map some)).map (·.1) = (natRange a d.length).map Place.sram :=
    List.map_fst_zip (by simp [length_natRange])
  have hps : ∀ p ∈ (natRange a d.length).map Place.sram, ofCoreOrHbm p = true := fun p hp => ofCoreOrHbm_of_mem_sram hp
  have hput : NotesOnly (s.mapCore fun c => { c with ram := c.ram.putBytes a d, poison := (natRange a d.length).foldl NatSet.del c.poison })
      (s.performCells (some s.agent) (((natRange a d.length).map Place.sram).zip (d.map some))) := by
    unfold State.performCells
    rw [State.putCells_sram, State.keepOld_eq]
    rfl
  unfold State.engineCells
  dsimp only
  rw [hplaces, State.noteHome_sram]
  exact (hput.trans (notesOnly_setRel hps _ _)).trans (notesOnly_raceWrite hps _ _)

theorem State.supersede_eq (s : State) (ser : Nat) (ps : List Place) :
    s.supersede ser ps = { s with ctx := { s.ctx with buffer := (s.supersede ser ps).ctx.buffer } } := by
  unfold State.supersede
  split <;> rfl

/-- What an engine's write to scratchpad leaves: its bytes there; elsewhere only notes, withheld bytes and poison differ. -/
theorem State.spWrite_eq (s : State) (ser a : Nat) (d : List Byte) : ∃ buffer poison rel race hist prel prace, s.spWrite ser a d =
    { s with ctx := { s.ctx with buffer := buffer }
             core := { s.core with ram := s.core.ram.putBytes a d, poison := poison, rel := rel, race := race }
             pkg := { s.pkg with hist := hist, rel := prel, race := prace } } := by
  have h := notesOnly_engineCells (s.supersede ser ((natRange a d.length).map Place.sram)) a d
  unfold NotesOnly at h
  unfold State.spWrite
  dsimp only
  rw [h, State.supersede_eq]
  exact ⟨_, _, _, _, _, _, _, rfl⟩

/-! ### The M slot -/

/-- Nothing of the memory, the full words and the checkpoint that the M slot leaves alone differs. -/
structure FarKept (s t : State) : Prop where
  hbm : t.pkg.hbm = s.pkg.hbm
  cache : t.pkg.cache = s.pkg.cache
  host : t.host = s.host
  pool : t.pool = s.pool
  full : t.core.full = s.core.full
  ckpt : t.ctx.ckpt = s.ctx.ckpt
  status : t.ctx.status = s.ctx.status
  trapRec : t.ctx.trapRec = s.ctx.trapRec

/-- The frame of an M operation: of the registers, the s registers of `W` and, for a call that the resume table completes, mp7. -/
structure MatrixFrame (W : List RegName) (s t : State) : Prop where
  regs : t.ctx.regs = { s.ctx.regs with s := t.ctx.regs.s, mp := t.ctx.regs.mp }
  sRegs : ∀ r : SReg, RegName.s r ∉ W → t.ctx.regs.s[r.toNat]'r.isLt = s.ctx.regs.s[r.toNat]'r.isLt
  mpRegs : ∀ r : MpReg, r ≠ 7 → t.ctx.regs.mp[r.toNat]'r.isLt = s.ctx.regs.mp[r.toNat]'r.isLt
  mp : s.ctx.resume = [] → t.ctx.regs.mp = s.ctx.regs.mp
  far : FarKept s t

/-- An M operation that writes no byte keeps its frame and the scratchpad. -/
def MatrixFrames (W : List RegName) (s : State) (o : Out) : Prop := ∀ t, o = .next t → MatrixFrame W s t ∧ t.core.ram = s.core.ram

theorem FarKept.refl (s : State) : FarKept s s := ⟨rfl, rfl, rfl, rfl, rfl, rfl, rfl, rfl⟩

theorem LoadKept.far {s t : State} (h : LoadKept s t) : FarKept s t := ⟨h.hbm, h.cache, h.host, h.pool, h.full, h.ckpt, h.status, h.trapRec⟩

theorem FarKept.mapCtx {s t : State} (h : FarKept s t) {f : Context → Context} (hf : (f t.ctx).ckpt = t.ctx.ckpt ∧ (f t.ctx).status = t.ctx.status ∧
    (f t.ctx).trapRec = t.ctx.trapRec) : FarKept s (t.mapCtx f) :=
  ⟨h.hbm, h.cache, h.host, h.pool, h.full, hf.1.trans h.ckpt, hf.2.1.trans h.status, hf.2.2.trans h.trapRec⟩

/-- No register differs, so all of the frame is about bytes. -/
theorem MatrixFrame.of_regs {W : List RegName} {s t : State} (hregs : t.ctx.regs = s.ctx.regs) (hfar : FarKept s t) : MatrixFrame W s t where
  regs := by rw [hregs]
  sRegs r _ := by rw [hregs]
  mpRegs r _ := by rw [hregs]
  mp _ := by rw [hregs]
  far := hfar

theorem LoadKept.matrix {W : List RegName} {s t : State} (h : LoadKept s t) : MatrixFrame W s t ∧ t.core.ram = s.core.ram :=
  ⟨.of_regs h.regs h.far, h.ram⟩

theorem matrixFrame_writeS {W : List RegName} {d : SReg} (hd : RegName.s d ∈ W) (s : State) (x : Word) :
    MatrixFrame W s (s.writeS d x) ∧ (s.writeS d x).core.ram = s.core.ram := by
  have hs : ∀ r : SReg, RegName.s r ∉ W → (s.writeS d x).ctx.regs.s[r.toNat]'r.isLt = s.ctx.regs.s[r.toNat]'r.isLt := fun r hr => by
    rw [State.writeS_getElem, if_neg]
    rintro ⟨rfl, -⟩
    exact hr hd
  rw [State.writeS_frame] at hs ⊢
  exact ⟨⟨rfl, hs, fun _ _ => rfl, fun _ => rfl, ⟨rfl, rfl, rfl, rfl, rfl, rfl, rfl, rfl⟩⟩, rfl⟩

theorem MatrixFrames.under {W : List RegName} {s : State} {q : Pred} {f : State → State}
    (h : MatrixFrame W s (f s) ∧ (f s).core.ram = s.core.ram) : MatrixFrames W s (s.under q f) := by
  rintro t ⟨⟩
  split
  · exact h
  · exact (LoadKept.refl s).matrix

/-- Retiring tiles leaves all else of the context alone. -/
theorem foldl_retireTile_kept (l : List TReg) (s : State) :
    LoadKept s (l.foldl State.retireTile s) ∧ (l.foldl State.retireTile s).ctx.giving = s.ctx.giving := by
  refine List.foldlRecOn (motive := fun t => LoadKept s t ∧ t.ctx.giving = s.ctx.giving) l _ ⟨.refl s, rfl⟩ fun t ht r _ => ?_
  unfold State.retireTile
  dsimp only
  split
  · exact ⟨ht.1.trans (.mapCtx t ⟨rfl, rfl, rfl, rfl, rfl⟩), ht.2⟩
  · exact ht

/-- With no bank to give on, none passes. -/
theorem giveBanks_of_none {s : State} (h : s.ctx.giving = 0) : s.giveBanks = s := by
  unfold State.giveBanks
  refine List.foldlRecOn (motive := fun t => t = s) _ _ rfl ?_
  rintro t rfl b -
  rw [h]
  simp

theorem settleTiles_of_none {s : State} (h : s.ctx.giving = 0) : ∃ tiles, s.settleTiles = { s with ctx := { s.ctx with tiles := tiles } } := by
  unfold State.settleTiles
  dsimp only
  exact ⟨_, giveBanks_of_none (s := { s with ctx := { s.ctx with tiles := _ } }) h⟩

theorem State.batchStatus_eq (s : State) (r : MRecord) (st : BitVec 8) :
    s.batchStatus r st = { s with ctx := { s.ctx with batch := (s.batchStatus r st).ctx.batch } } := by
  unfold State.batchStatus State.mapCtx
  dsimp only
  split
  · rfl
  · split <;> rfl

/-- A SAMPLE call's completion changes of the registers mp7 alone. -/
theorem State.sampleDone_eq (s : State) (r : MRecord) : ∃ res mp, s.sampleDone r =
      { s with ctx := { s.ctx with sampRes := res, regs := { s.ctx.regs with mp := mp } } } ∧
    ∀ n : MpReg, n ≠ 7 → mp[n.toNat]'n.isLt = s.ctx.regs.mp[n.toNat]'n.isLt := by
  unfold State.sampleDone
  split
  · exact ⟨_, _, rfl, fun n hn => Vector.getElem_set_ne _ _ fun h => hn (BitVec.eq_of_toNat_eq h.symm)⟩
  · exact ⟨_, _, rfl, fun _ _ => rfl⟩

/-- A record that the resume table says is complete ends at its dispatch. -/
theorem completed_frame {W : List RegName} {s u : State} (hkept : LoadKept s u) (hgiving : u.ctx.giving = 0)
    (hresume : s.ctx.resume ≠ []) (r : MRecord) (st : BitVec 8) :
    MatrixFrame W s ((u.batchStatus r st).sampleDone r).settleTiles ∧ ((u.batchStatus r st).sampleDone r).settleTiles.core.ram = s.core.ram := by
  obtain ⟨res, mp, hdone, hmp⟩ := (u.batchStatus r st).sampleDone_eq r
  rw [State.batchStatus_eq] at hdone hmp ⊢
  obtain ⟨tiles, hsettle⟩ := settleTiles_of_none (s := { u with ctx := { u.ctx with
    batch := (u.batchStatus r st).ctx.batch, sampRes := res, regs := { u.ctx.regs with mp := mp } } }) hgiving
  rw [hdone, hsettle]
  obtain ⟨hregs, hhbm, hcache, hhost, hpool, hfull, hckpt, hstatus, htrapRec, hram⟩ := hkept
  refine ⟨⟨?_, fun n _ => ?_, fun n hn => (hmp n hn).trans ?_, fun h => absurd h hresume, ?_⟩, hram⟩
  · dsimp only
    rw [hregs]
  · dsimp only
    rw [hregs]
  · dsimp only
    rw [hregs]
  · exact ⟨hhbm, hcache, hhost, hpool, hfull, hckpt, hstatus, htrapRec⟩

theorem queueRecord_frame {W : List RegName} {s : State} (hgiving : s.ctx.resume = [] ∨ s.ctx.giving = 0) (r : MRecord) (last : List TReg) :
    MatrixFrame W s (s.queueRecord r last) ∧ (s.queueRecord r last).core.ram = s.core.ram := by
  obtain ⟨hretire, hkeeps⟩ := foldl_retireTile_kept last (s.mapCtx fun c => { c with serial := c.serial + 1, entries := c.entries + 1 })
  have henter := (LoadKept.mapCtx s ⟨rfl, rfl, rfl, rfl, rfl⟩).trans hretire
  unfold State.queueRecord
  extract_lets enter
  change LoadKept s (enter s) at henter
  split
  · exact (henter.trans (.mapCore _ ⟨rfl, rfl⟩)).matrix
  · next e he =>
    split
    · exact (LoadKept.raise s _).matrix
    · split
      · exact (LoadKept.block s _).matrix
      · have hresume : s.ctx.resume ≠ [] := fun h => by
          rw [h] at he
          cases he
        extract_lets r'
        split
        · exact completed_frame henter (hkeeps.trans (hgiving.resolve_left hresume)) hresume _ _
        · exact (henter.trans (.mapCore _ ⟨rfl, rfl⟩)).matrix

section
variable {W : List RegName} {s : State} {q : Pred}

theorem mCall_frames (hgiving : s.ctx.resume = [] ∨ s.ctx.giving = 0) (routine : BitVec 8) (acc : AccReg) (countM1 : BitVec 6) (batch : BitVec 2)
    (use : BitVec 8) (mode : BitVec 5) : MatrixFrames W s (execMCall q routine acc countM1 batch use mode s) := by
  refine .under ?_
  unfold State.call
  split
  · exact (LoadKept.block s _).matrix
  · extract_lets mp tw a b last
    split
    · exact (LoadKept.raise s _).matrix
    · split
      · exact (LoadKept.raise s _).matrix
      · exact queueRecord_frame hgiving _ _

theorem mZero_frames (hgiving : s.ctx.resume = [] ∨ s.ctx.giving = 0) (acc : AccReg) (countM1 : BitVec 6) :
    MatrixFrames W s (execMZero q acc countM1 s) := by
  refine .under ?_
  split
  · exact (LoadKept.block s _).matrix
  · exact queueRecord_frame hgiving _ _

theorem mCommit_frames (batch : BitVec 2) : MatrixFrames W s (execMCommit q batch s) :=
  .under (LoadKept.mapCtx s ⟨rfl, rfl, rfl, rfl, rfl⟩).matrix

theorem mWait_frames (batch : BitVec 2) : MatrixFrames W s (execMWait q batch s) := by
  refine .under ?_
  split
  · exact (LoadKept.refl s).matrix
  · exact (LoadKept.block s _).matrix

theorem mStat_frames {d : SReg} (hd : RegName.s d ∈ W) (batch : BitVec 2) : MatrixFrames W s (execMStat q d batch s) :=
  .under (matrixFrame_writeS hd s _)

theorem mSstat_frames {d : SReg} (hd : RegName.s d ∈ W) : MatrixFrames W s (execMSstat q d s) := by
  refine .under ?_
  split
  · exact (LoadKept.block s _).matrix
  · exact matrixFrame_writeS hd s _

theorem mProg_frames (hraces : RacesUnlogged s) (a b : SReg) : MatrixFrames W s (execMProg q a b s) := by
  refine .under ?_
  split
  · exact (LoadKept.block s _).matrix
  · unfold State.mprog
    extract_lets first count
    split
    · exact (LoadKept.raise s _).matrix
    · have hgot := got_keeps hraces ⟨.virt, 0, 0, s.readS a⟩ (8 * count) 1 0 (some 0)
      generalize s.got ⟨.virt, 0, 0, s.readS a⟩ (8 * count) 1 0 (some 0) = g at hgot
      cases g with
      | bytes d u =>
        have hkept : LoadKept s u := hgot
        unfold State.onGot
        dsimp -zeta only
        extract_lets ws m
        split
        · exact (hkept.trans (.raise u _)).matrix
        · exact ⟨.of_regs hkept.regs (hkept.far.mapCtx ⟨rfl, rfl, rfl⟩), hkept.ram⟩
      | _ => exact (onGot_kept hgot 8 (f := fun t _ => t) fun t _ => .refl t).matrix

end

/-! ### `sbuild` (R211, R226) -/

theorem length_cut4 (n : Nat) (d : List Byte) : (cut4 n d).length = n := by
  induction n generalizing d with
  | zero => rfl
  | succ n ih => exact congrArg (· + 1) (ih _)

theorem length_spWords (s : State) (a n : Nat) : (s.spWords a n).length = n := by rw [State.spWords, List.length_map, length_cut4]

theorem length_flatMap_leBytes (k : Nat) (l : List Nat) : (l.flatMap (leBytes k)).length = k * l.length := by
  induction l with
  | nil => rfl
  | cons x l ih => rw [List.flatMap_cons, List.length_append, leBytes_length, ih, List.length_cons]; ring

/-- The table has an entry for each category and no more probabilities than that. -/
theorem length_aliasTable (nA nB : List Nat) : (aliasTable nA nB).1.length = nA.length ∧ (aliasTable nA nB).2.1.length ≤ nA.length := by
  unfold aliasTable
  extract_lets n w sum bad
  split
  · exact ⟨List.length_replicate, List.length_replicate.le⟩
  · split
    · exact ⟨List.length_replicate, List.length_replicate.le⟩
    · split
      exact ⟨by simp +zetaDelta [length_natRange], by simp +zetaDelta⟩

/-- What `sbuild` writes lies within the entries and probabilities of its categories. -/
theorem mSbuild_frame {W : List RegName} {s t : State} {q : Pred} {a b c : SReg} (h : execMSbuild q a b c s = .next t) :
    MatrixFrame W s t ∧ (s.core.ram.wf = true → ∀ x,
      (x < (s.readS b).toNat / 8 * 8 ∨ (s.readS b).toNat / 8 * 8 + 12 * (s.readS c).toNat ≤ x) → t.core.ram.get x = s.core.ram.get x) := by
  have hkept : ∀ u, LoadKept s u → MatrixFrame W s u ∧ (s.core.ram.wf = true → ∀ x,
      (x < (s.readS b).toNat / 8 * 8 ∨ (s.readS b).toNat / 8 * 8 + 12 * (s.readS c).toNat ≤ x) → u.core.ram.get x = s.core.ram.get x) :=
    fun u hu => ⟨hu.matrix.1, fun _ x _ => by rw [hu.ram]⟩
  cases h
  split
  · unfold State.sbuild
    beta_reduce
    extract_lets a b n
    split
    · exact hkept _ (.raise s _)
    split
    · exact hkept _ (.raise s _)
    split
    · exact hkept _ (.raise s _)
    split
    · exact hkept _ (.raise s _)
    split
    · exact hkept _ (.block s _)
    split
    · exact hkept _ (.raise s _)
    have hlen := length_aliasTable (s.spWords a n) (s.spWords (a + 4 * n) n)
    rw [length_spWords] at hlen
    split
    next es ps st htable =>
    rw [htable] at hlen
    have hes : es.length = n := hlen.1
    have hps : ps.length ≤ n := hlen.2
    obtain ⟨_, _, _, _, _, _, _, hwrite⟩ := s.spWrite_eq s.ctx.entries b (es.flatMap (leBytes 8) ++ ps.flatMap (leBytes 4))
    rw [hwrite]
    refine ⟨.of_regs rfl ⟨rfl, rfl, rfl, rfl, rfl, rfl, rfl, rfl⟩, fun hwf x hx => Memory.get_putBytes_outside hwf _ _ _ ?_⟩
    rw [List.length_append, length_flatMap_leBytes, length_flatMap_leBytes, hes]
    omega
  · exact hkept _ (.refl s)

/-! ### The X slot -/

/-- What a command that is dispatched leaves: nothing outside its context differs, and in it neither the checkpoint nor what is withheld. -/
structure CopyFrame (W : List RegName) (s t : State) : Prop where
  regs : t.ctx.regs = { s.ctx.regs with s := t.ctx.regs.s }
  outside : SameOutside s t
  ckpt : t.ctx.ckpt = s.ctx.ckpt
  status : t.ctx.status = s.ctx.status
  buffer : t.ctx.buffer = s.ctx.buffer
  sRegs : ∀ r : SReg, RegName.s r ∉ W → t.ctx.regs.s[r.toNat]'r.isLt = s.ctx.regs.s[r.toNat]'r.isLt

def CopyFrames (W : List RegName) (s : State) (o : Out) : Prop := ∀ t, o = .next t → CopyFrame W s t

namespace CopyFrame

variable (W : List RegName) (s : State)

theorem refl : CopyFrame W s s := ⟨rfl, rfl, rfl, rfl, rfl, fun _ _ => rfl⟩

theorem raise (i : TrapInfo) : CopyFrame W s (s.raise i) := by
  rw [State.raise_eq]
  exact ⟨rfl, rfl, rfl, rfl, rfl, fun _ _ => rfl⟩

theorem block (b : Bool) : CopyFrame W s (s.block b) := by
  rw [State.block_eq]
  exact ⟨rfl, rfl, rfl, rfl, rfl, fun _ _ => rfl⟩

theorem copyCmd (tag : BitVec 6) (kind : CopyKind) (dst : Opd) (src : Option Opd) (len : Word) (cls : BitVec 4) (bad : Nat → Option TrapInfo)
    (reads : Opd → Nat → List (Opd × Nat)) : CopyFrame W s (s.copyCmd tag kind dst src len cls bad reads) := by
  unfold State.copyCmd
  extract_lets n busy
  split
  · exact block W s _
  split
  · exact raise W s _
  split
  · exact raise W s _
  have hnew : ∀ st left, CopyFrame W s (‹TagSt → List (Nat × Nat) → State› st left) := fun _ _ => ⟨rfl, rfl, rfl, rfl, rfl, fun _ _ => rfl⟩
  split
  · exact hnew _ _
  split
  · exact raise W s _
  split
  · exact block W s _
  · exact hnew _ _

end CopyFrame

theorem CopyFrames.under {W : List RegName} {s : State} {q : Pred} {f : State → State} (h : CopyFrame W s (f s)) : CopyFrames W s (s.under q f) := by
  rintro t ⟨⟩
  split
  · exact h
  · exact .refl W s

theorem copyFrame_writeS {W : List RegName} {d : SReg} (hd : RegName.s d ∈ W) (s : State) (x : Word) : CopyFrame W s (s.writeS d x) := by
  have hs := (Touches.writeS hd s x).sRegs
  rw [State.writeS_frame] at hs ⊢
  exact ⟨rfl, rfl, rfl, rfl, rfl, hs⟩

theorem exec_frames_copy {i : Instr} (hi : i.slotOf = some .x) (hcancel : ∀ q g, i ≠ .xCancel q g) (s : State) :
    CopyFrames (opWrites i) s (exec i s) := by
  cases i with
  | xGet | xPut | xCopy | xFill | xStage | xSeal | xSgather =>
    apply CopyFrames.under
    exact .copyCmd ..
  | xWait q tag =>
    apply CopyFrames.under
    split
    · split
      · exact .block _ s _
      · exact .refl _ s
    · exact .refl _ s
  | xStat q d tag =>
    apply CopyFrames.under
    exact copyFrame_writeS (List.mem_singleton_self _) s _
  | xCancel q g => exact absurd rfl (hcancel q g)
  | _ => cases hi

/-! ### The words of a routine -/

/-- The word has done its work: it does not wait for pages. -/
def MRes.isWait : MRes → Bool
  | .wait _ => true
  | _ => false

theorem MRes.isWait_fault (i : TrapInfo) : (MRes.fault i).isWait = false := rfl
theorem MRes.isWait_go (m : MicroRun) : (MRes.go m).isWait = false := rfl

/-- A word that never waits changes the run alone. -/
theorem micro_onlyRun {s t : State} {timing : State → MicroRun → MicroRun} {f : State → MicroRun → MRes} (hf : ∀ h m, (f h m).isWait = false)
    (h : s.micro timing f = .next t) : t = { s with core := { s.core with run := t.core.run } } := by
  unfold State.micro at h
  cases h
  split
  · rfl
  · next m hm =>
    split
    · rfl
    · extract_lets h region next put m'
      split
      · rfl
      split
      · rfl
      have hwait := hf h m'
      split
      · rfl
      · rfl
      · rfl
      · rfl
      · next u hu => rw [hu] at hwait; cases hwait

theorem MicroRun.isWait_sampling {m : MicroRun} {f : SampRun → MRes} (hf : ∀ p, (f p).isWait = false) : (m.sampling f).isWait = false := by
  unfold MicroRun.sampling
  split
  · rfl
  · split
    · exact hf _
    · split
      · rfl
      · exact hf _

theorem isWait_macDense (h : State) (m : MicroRun) : (h.macDense m).isWait = false := by
  unfold State.macDense
  split
  · rfl
  · split
    · rfl
    · dsimp only
      split
      · rfl
      · split <;> rfl

theorem isWait_macSlab (h : State) (m : MicroRun) (p : SampRun) : (h.macSlab m p).isWait = false := by
  unfold State.macSlab
  split <;> rfl

theorem isWait_macBlock (h : State) (m : MicroRun) : (h.macBlock m).isWait = false := by
  unfold State.macBlock
  split
  · rfl
  · split
    · rfl
    · dsimp only
      split
      · rfl
      · split <;> rfl

theorem isWait_fold (h : State) (m : MicroRun) : (h.fold m).isWait = false := by
  unfold State.fold
  dsimp only
  split
  · rfl
  · split
    · rfl
    · split <;> rfl

theorem isWait_probe (h : State) (m : MicroRun) (p : SampRun) (base n : Nat) : (h.probe m p base n).isWait = false := by
  unfold State.probe
  split
  · rfl
  · dsimp only
    split
    · rfl
    · split
      · rfl
      · split <;> rfl

theorem exec_word_onlyRun {i : Instr} {s t : State} (h : exec i s = .next t)
    (hi : i ∈ [Instr.uMac, .uMacq, .uFold, .uMend] ∨ (∃ a n x, i = .uFeeda a n x) ∨ (∃ a n x, i = .uFeedb a n x) ∨
      (∃ a n x, i = .uAccl a n x) ∨ (∃ a x y, i = .uNorm a x y) ∨ (∃ a b n, i = .uDraw a b n) ∨ (∃ a n, i = .uProbe a n) ∨
      (∃ o, i = .uStoptest o) ∨ (∃ x n, i = .uSkipz x n) ∨ (∃ a b, i = .uEdge a b) ∨ (∃ a b, i = .uSwap a b) ∨ (∃ d x, i = .uPset d x) ∨
      (∃ d a b x, i = .uPadd d a b x) ∨ (∃ a b c o, i = .uPbr a b c o) ∨ (∃ a c o, i = .uMloop a c o) ∨ (∃ a n, i = .uWait a n)) :
    t = { s with core := { s.core with run := t.core.run } } := by
  rcases hi with hi | ⟨a, n, x, rfl⟩ | ⟨a, n, x, rfl⟩ | ⟨a, n, x, rfl⟩ | ⟨a, x, y, rfl⟩ | ⟨a, b, n, rfl⟩ | ⟨a, n, rfl⟩ | ⟨o, rfl⟩ | ⟨x, n, rfl⟩ |
    ⟨a, b, rfl⟩ | ⟨a, b, rfl⟩ | ⟨d, x, rfl⟩ | ⟨d, a, b, x, rfl⟩ | ⟨a, b, c, o, rfl⟩ | ⟨a, c, o, rfl⟩ | ⟨a, n, rfl⟩
  · simp only [List.mem_cons, List.not_mem_nil, or_false] at hi
    obtain rfl | rfl | rfl | rfl := hi
    · change execUMac s = _ at h
      refine micro_onlyRun (fun h m => ?_) h
      split
      · exact MicroRun.isWait_sampling (isWait_macSlab h m)
      · exact isWait_macDense h m
    · change execUMacq s = _ at h
      refine micro_onlyRun (fun h m => ?_) h
      split
      · rfl
      · exact isWait_macBlock h m
    · change execUFold s = _ at h
      refine micro_onlyRun (fun h m => ?_) h
      split
      · rfl
      · exact isWait_fold h m
    · change execUMend s = _ at h
      exact micro_onlyRun (fun h m => rfl) h
  · change execUFeeda a n x s = _ at h
    refine micro_onlyRun (fun h m => ?_) h
    split <;> rfl
  · change execUFeedb a n x s = _ at h
    refine micro_onlyRun (fun h m => ?_) h
    split <;> rfl
  · change execUAccl a n x s = _ at h
    refine micro_onlyRun (fun h m => ?_) h
    dsimp only
    split
    · rfl
    · split <;> rfl
  · change execUNorm a x y s = _ at h
    refine micro_onlyRun (fun h m => ?_) h
    split
    · rfl
    · split
      · dsimp only
        split
        · rfl
        · split
          · rfl
          · split <;> rfl
      · rfl
  · change execUDraw a b n s = _ at h
    refine micro_onlyRun (fun h m => MicroRun.isWait_sampling fun p => ?_) h
    dsimp only
    split
    · rfl
    · split
      · rfl
      · split <;> rfl
  · change execUProbe a n s = _ at h
    exact micro_onlyRun (fun h m => MicroRun.isWait_sampling fun p => isWait_probe h m p _ _) h
  · change execUStoptest o s = _ at h
    refine micro_onlyRun (fun h m => MicroRun.isWait_sampling fun p => ?_) h
    dsimp only
    split
    · rfl
    · split
      · rfl
      · split <;> rfl
  · change execUSkipz x n s = _ at h
    refine micro_onlyRun (fun h m => ?_) h
    dsimp only
    split
    · rfl
    · split
      · simp only [apply_ite MRes.isWait, MRes.isWait_fault, MRes.isWait_go, ite_self]
      · rfl
  · change execUEdge a b s = _ at h
    refine micro_onlyRun (fun h m => ?_) h
    dsimp only
    split <;> rfl
  · change execUSwap a b s = _ at h
    exact micro_onlyRun (fun h m => rfl) h
  · change execUPset d x s = _ at h
    exact micro_onlyRun (fun h m => rfl) h
  · change execUPadd d a b x s = _ at h
    exact micro_onlyRun (fun h m => rfl) h
  · change execUPbr a b c o s = _ at h
    refine micro_onlyRun (fun h m => ?_) h
    split <;> rfl
  · change execUMloop a c o s = _ at h
    refine micro_onlyRun (fun h m => ?_) h
    dsimp only
    split
    · rfl
    · split <;> rfl
  · change execUWait a n s = _ at h
    exact micro_onlyRun (fun h m => rfl) h

/-- What each M operation may change. -/
theorem exec_frames_matrix {i : Instr} {s : State} (hi : i.slotOf = some .m) (hraces : RacesUnlogged s)
    (hgiving : s.ctx.resume = [] ∨ s.ctx.giving = 0) (hbuild : ∀ q a b c, i ≠ .mSbuild q a b c) : MatrixFrames (opWrites i) s (exec i s) := by
  cases i with
  | mCall q routine acc countM1 batch use mode => exact mCall_frames hgiving routine acc countM1 batch use mode
  | mZero q acc countM1 => exact mZero_frames hgiving acc countM1
  | mCommit q batch => exact mCommit_frames batch
  | mWait q batch => exact mWait_frames batch
  | mStat q d batch => exact mStat_frames (List.mem_singleton_self _) batch
  | mProg q a b => exact mProg_frames hraces a b
  | mSbuild q a b c => exact absurd rfl (hbuild q a b c)
  | mSstat q d => exact mSstat_frames (List.mem_singleton_self _)
  | _ => cases hi

end Sys2Proof.Machine

namespace Sys2Proof
open Machine Claims

/-- Settles O45: an M operation keeps the frame of `exec_frames_matrix`, or of `mSbuild_frame`; a command that of `exec_frames_copy`; and a
word that does not wait for pages changes the run alone (`micro_onlyRun`). -/
theorem engineFrames : Obligations.EngineFrames := by
  intro i s t h
  refine ⟨fun hi hraces hgiving => ?_, fun hi hcancel => ?_, fun hi => exec_word_onlyRun h hi⟩
  · have hall : MatrixFrame (opWrites i) s t ∧ ((∀ q a b c, i ≠ .mSbuild q a b c) → t.core.ram = s.core.ram) ∧
        (∀ q a b c, i = .mSbuild q a b c → s.core.ram.wf = true → ∀ x,
          (x < (s.readS b).toNat / 8 * 8 ∨ (s.readS b).toNat / 8 * 8 + 12 * (s.readS c).toNat ≤ x) → t.core.ram.get x = s.core.ram.get x) := by
      by_cases hbuild : ∃ q a b c, i = .mSbuild q a b c
      · obtain ⟨q, a, b, c, rfl⟩ := hbuild
        obtain ⟨hframe, hram⟩ := mSbuild_frame h
        refine ⟨hframe, fun hne => absurd rfl (hne q a b c), fun _ _ _ _ he => ?_⟩
        cases he
        exact hram
      · obtain ⟨hframe, hram⟩ := exec_frames_matrix hi hraces hgiving (fun q a b c he => hbuild ⟨q, a, b, c, he⟩) t h
        exact ⟨hframe, fun _ => hram, fun q a b c he => absurd ⟨q, a, b, c, he⟩ hbuild⟩
    obtain ⟨⟨hregs, hs, hmp7, hmp, hhbm, hcache, hhost, hpool, hfull, hckpt, hstatus, htrapRec⟩, hram, hbuild⟩ := hall
    exact ⟨hregs, hs, hmp7, hmp, hhbm, hcache, hhost, hpool, hfull, hckpt, hstatus, htrapRec, hram, hbuild⟩
  · obtain ⟨hregs, hout, hckpt, hstatus, hbuffer, hs⟩ := exec_frames_copy hi hcancel s t h
    exact ⟨hregs, sameMemory_of_sameOutside hout, hout, hckpt, hstatus, hbuffer, hs⟩

end Sys2Proof

/-! PROOFS. What stands at each core as the focus moves, and what an emptied queue leaves (R204, R363). -/
namespace Sys2Proof.Machine
open Claims

/-! ### Boxes -/

@[simp] theorem State.boxOf_self (s : State) : (s.boxOf s.coreNum).core = s.core := by
  unfold State.boxOf State.box
  rw [if_pos rfl]
  split <;> rfl

/-- Every core's box is what it was when the focus moves. -/
@[simp] theorem State.focus_boxOf (s : State) (c k : BitVec 7) (sl : Bool) : (s.focus c sl).boxOf k = s.boxOf k := by
  unfold State.focus
  split
  · split
    · rfl
    · next hsl =>
      unfold State.boxOf
      rw [State.box_swap s hsl]
  · next hc =>
    unfold State.boxOf
    by_cases hkc : k = c
    · subst hkc
      cases sl <;> simp [State.box, hc]
    · have hkn : k.toNat ≠ c.toNat := fun h => hkc (BitVec.eq_of_toNat_eq h)
      by_cases hk : k = s.coreNum
      · subst hk
        simp [hkc, tabGet_tabSet]
      · have hkm : k.toNat ≠ s.coreNum.toNat := fun h => hk (BitVec.eq_of_toNat_eq h)
        simp [hkc, hk, tabGet_tabSet_of_ne _ _ _ hkm, tabGet_tabDel_of_ne _ _ hkn]

@[simp] theorem State.focus_core (s : State) (c : BitVec 7) (sl : Bool) : (s.focus c sl).core = (s.boxOf c).core := by
  rw [← State.boxOf_self, State.focus_coreNum, State.focus_boxOf]

@[simp] theorem State.at_boxOf (s : State) (c k : BitVec 7) (sl : Bool) (f : State → State) :
    (s.at_ c sl f).boxOf k = (f (s.focus c sl)).boxOf k := State.focus_boxOf ..

@[simp] theorem State.at_core (s : State) (c : BitVec 7) (sl : Bool) (f : State → State) :
    (s.at_ c sl f).core = ((f (s.focus c sl)).boxOf s.coreNum).core := State.focus_core ..

/-- An act at the core and slot in focus that leaves the focus is that act. -/
theorem State.at_here {s : State} {c : BitVec 7} {sl : Bool} {f : State → State} (hc : s.coreNum = c) (hsl : s.slotNum = sl)
    (hfc : (f s).coreNum = s.coreNum) (hfs : (f s).slotNum = s.slotNum) : s.at_ c sl f = f s := by
  unfold State.at_
  rw [focus_of_eq hc hsl, focus_of_eq hfc hfs]

theorem State.mapCore_boxOf_of_ne {s : State} {k : BitVec 7} (h : k ≠ s.coreNum) (f : CoreSt → CoreSt) : (s.mapCore f).boxOf k = s.boxOf k := by
  unfold State.boxOf
  rw [if_neg h, if_neg (show k ≠ (s.mapCore f).coreNum from h)]
  rfl

/-! ### A queue that has become empty -/

/-- The cores of a cluster that consider migration differ in that alone. -/
theorem tabGet_map_consider {l : List (Nat × CoreBox)} {f : Nat × CoreBox → Nat × CoreBox}
    (hf : ∀ b, (f b).1 = b.1 ∧ ∃ c, (f b).2.core = { b.2.core with consider := c }) (n : Nat) :
    ∃ c, (tabGet .none (l.map f) n).core = { (tabGet .none l n).core with consider := c } := by
  induction l with
  | nil => exact ⟨_, rfl⟩
  | cons b l ih =>
    obtain ⟨hkey, hcore⟩ := hf b
    simp only [List.map_cons, tabGet, hkey]
    split_ifs
    · exact hcore
    · exact ih

/-- Of every core but the marks of those that consider migration nothing differs. -/
structure QueueTold (s t : State) : Prop where
  cores : t = { s with core := t.core, cores := t.cores }
  told : ∀ k, ∃ c, (t.boxOf k).core = { (s.boxOf k).core with consider := c }

theorem QueueTold.refl (s : State) : QueueTold s s := ⟨rfl, fun _ => ⟨_, rfl⟩⟩

theorem queueTold_queueEmptied (s : State) : QueueTold s s.queueEmptied := by
  refine ⟨rfl, fun k => ?_⟩
  by_cases hk : k = s.coreNum
  · subst hk
    refine ⟨!s.core.busy, ?_⟩
    rw [show s.queueEmptied.boxOf s.coreNum = s.queueEmptied.boxOf s.queueEmptied.coreNum from rfl, State.boxOf_self, State.boxOf_self]
    rfl
  · unfold State.boxOf
    rw [if_neg hk, if_neg (show k ≠ s.queueEmptied.coreNum from hk)]
    refine tabGet_map_consider (fun b => ?_) _
    dsimp only
    split
    · exact ⟨rfl, _, rfl⟩
    · exact ⟨rfl, _, rfl⟩

theorem queueTold_of_busy (s : State) : QueueTold s (if s.core.busy then s else s.queueEmptied) := by
  split
  · exact .refl s
  · exact queueTold_queueEmptied s

/-- Bytes read alike where contexts and the shared parts of cores differ, but for the scratchpads. -/
theorem sameMemory_of_rams {s t : State} (h : t = { s with ctx := t.ctx, core := t.core, cores := t.cores })
    (hram : ∀ k, (t.boxOf k).core.ram = (s.boxOf k).core.ram) : SameMemory s t := by
  have hnum : t.coreNum = s.coreNum := by rw [h]
  have hown := hram s.coreNum
  rw [State.boxOf_self, ← hnum, State.boxOf_self] at hown
  intro p
  cases p with
  | sram a =>
    simp only [State.byteAt]
    rw [hown]
  | far k c a =>
    simp only [State.byteAt]
    rw [hram c, h]
  | _ => rw [h]; rfl

end Sys2Proof.Machine

/-! PROOFS. The elements of the accumulators as words of scratchpad (R26, R183), and a run's results in them (R202). -/
namespace Sys2Proof.Machine
open Claims

/-! ### Runs of bytes in memory -/

theorem Memory.bytes_congr {m m' : Memory} {a a' n : Nat} (h : ∀ i < n, m.get (a + i) = m'.get (a' + i)) : m.bytes a n = m'.bytes a' n := by
  induction n generalizing a a' with
  | zero => rfl
  | succ n ih =>
    rw [Memory.bytes, Memory.bytes, show m.get a = m'.get a' from h 0 (Nat.succ_pos n),
      ih (a := a + 1) (a' := a' + 1) fun i hi => by rw [Nat.add_assoc, Nat.add_assoc, Nat.add_comm 1 i]; exact h (i + 1) (Nat.succ_lt_succ hi)]

theorem Memory.bytes_putBytes_same {m : Memory} (hm : m.wf = true) (a : Nat) (l : List Byte) : (m.putBytes a l).bytes a l.length = l := by
  induction l generalizing m a with
  | nil => rfl
  | cons b l ih =>
    have hb : (m.putBytes a (b :: l)).get a = b := Memory.get_putBytes_inside hm a 0 (b :: l) (Nat.succ_pos _)
    rw [List.length_cons, Memory.bytes, hb, Memory.putBytes, ih (Memory.put_wf a b hm)]

theorem Memory.bytes_putBytes_apart {m : Memory} (hm : m.wf = true) {a a' n : Nat} {l : List Byte} (h : a' + n ≤ a ∨ a + l.length ≤ a') :
    (m.putBytes a l).bytes a' n = m.bytes a' n :=
  Memory.bytes_congr fun i hi => Memory.get_putBytes_outside hm a _ l (by omega)

/-! ### Elements of accumulators -/

theorem accAddr_eq (n i j : Nat) : accAddr n i j = 65536 + 32768 * n + 256 * i + 4 * j := by
  unfold accAddr
  omega

theorem CoreSt.accGet_accPut {c : CoreSt} (hwf : c.ram.wf = true) {n i j n' i' j' x : Nat} (hi : i < 128) (hj : j < 64) (hi' : i' < 128)
    (hj' : j' < 64) (hx : x < 2 ^ 32) :
    (c.accPut n i j x).accGet n' i' j' = if n' = n ∧ i' = i ∧ j' = j then x else c.accGet n' i' j' := by
  have hlen : (leBytes 4 x).length = 4 := leBytes_length 4 x
  unfold CoreSt.accGet CoreSt.accPut Memory.le
  split
  · next h =>
    obtain ⟨rfl, rfl, rfl⟩ := h
    have hsame := Memory.bytes_putBytes_same hwf (accAddr n' i' j') (leBytes 4 x)
    rw [hlen] at hsame
    rw [hsame, leNat_leBytes, Nat.mod_eq_of_lt (lt_of_lt_of_eq hx (by norm_num))]
  · rw [Memory.bytes_putBytes_apart hwf]
    rw [hlen, accAddr_eq, accAddr_eq]
    omega

/-- A run's results, cell by cell, in an accumulator. -/
def CoreSt.putPart (c : CoreSt) (acc : Nat) (part : List (Nat × Nat)) : CoreSt :=
  part.foldl (fun c (n, x) => c.accPut acc (n / 64) (n % 64) x) c

theorem CoreSt.putPart_wf {c : CoreSt} (hwf : c.ram.wf = true) (acc : Nat) (part : List (Nat × Nat)) : (c.putPart acc part).ram.wf = true := by
  refine List.foldlRecOn (motive := fun c : CoreSt => c.ram.wf = true) part _ hwf fun c hc x _ => ?_
  exact Memory.putBytes_wf _ _ hc

theorem CoreSt.putPart_fields (c : CoreSt) (acc : Nat) (part : List (Nat × Nat)) :
    c.putPart acc part = { c with ram := (c.putPart acc part).ram, poison := (c.putPart acc part).poison } := by
  refine List.foldlRecOn (motive := fun d : CoreSt => d = { c with ram := d.ram, poison := d.poison }) part _ rfl fun d hd x _ => ?_
  rw [hd]
  rfl

/-- Each element named stands as the run left it, and the others as they were. -/
theorem CoreSt.accGet_putPart {c : CoreSt} (hwf : c.ram.wf = true) {acc : Nat} {part : List (Nat × Nat)}
    (hpart : ∀ e ∈ part, e.1 < 128 * 64 ∧ e.2 < 2 ^ 32) (hnodup : (part.map (·.1)).Nodup) {n i j : Nat} (hi : i < 128) (hj : j < 64) :
    (c.putPart acc part).accGet n i j =
      if n = acc then ((part.find? (·.1 == cellNo i j)).map (·.2)).getD (c.accGet n i j) else c.accGet n i j := by
  induction part generalizing c with
  | nil => simp [CoreSt.putPart]
  | cons e part ih =>
    obtain ⟨k, x⟩ := e
    obtain ⟨hk, hx⟩ := hpart (k, x) List.mem_cons_self
    obtain ⟨hnot, hrest⟩ := List.nodup_cons.mp hnodup
    have hput : ∀ n i j, i < 128 → j < 64 → (c.accPut acc (k / 64) (k % 64) x).accGet n i j =
        if n = acc ∧ i = k / 64 ∧ j = k % 64 then x else c.accGet n i j := fun n i j hi hj =>
      CoreSt.accGet_accPut hwf (by omega) (Nat.mod_lt _ (by decide)) hi hj hx
    have hstep := ih (c := c.accPut acc (k / 64) (k % 64) x) (Memory.putBytes_wf _ _ hwf) (fun e he => hpart e (List.mem_cons_of_mem _ he)) hrest
    rw [show (c.putPart acc ((k, x) :: part)) = (c.accPut acc (k / 64) (k % 64) x).putPart acc part from rfl, hstep, hput n i j hi hj]
    by_cases hn : n = acc
    · by_cases hcell : k = cellNo i j
      · have hnone : part.find? (·.1 == cellNo i j) = .none := List.find?_eq_none.mpr fun e he => by
          simp only [beq_iff_eq]
          exact fun hc => hnot (List.mem_map.mpr ⟨e, he, hc.trans hcell.symm⟩)
        have hat : i = k / 64 ∧ j = k % 64 := by
          unfold cellNo at hcell
          omega
        rw [if_pos hn, if_pos hn, if_pos ⟨hn, hat⟩, hnone, List.find?_cons_of_pos (by simpa using hcell)]
        rfl
      · have hat : ¬ (i = k / 64 ∧ j = k % 64) := by
          unfold cellNo at hcell
          omega
        rw [if_pos hn, if_pos hn, if_neg fun h => hat h.2, List.find?_cons_of_neg (by simpa using hcell)]
    · simp [hn]

theorem State.cellOf_eq_getD (s : State) (m : MicroRun) (i j : Nat) : s.cellOf m i j =
    ((m.part.find? (·.1 == cellNo i j)).map (·.2)).getD (s.core.accGet (m.mrec.first + m.mrec.accOff) i j) := by
  unfold State.cellOf
  cases m.part.find? (·.1 == cellNo i j) <;> rfl

end Sys2Proof.Machine

/-! PROOFS. The events of the matrix engine (R187, R189, R200, R202 to R205, R363). -/
namespace Sys2Proof.Machine
open Claims

section
variable {s : State} {r : MRecord} {l : List MRecord} {m : MicroRun}

theorem homeOf_own (hhome : r.home = s.coreNum) (hslot : r.slot = s.slotNum) : s.homeOf r = s := focus_of_eq hhome.symm hslot.symm

/-- An act at the home of a record of the core in focus. -/
theorem atHome_own (hhome : r.home = s.coreNum) (hslot : r.slot = s.slotNum) {f : State → State} (hc : (f s).coreNum = s.coreNum)
    (hsl : (f s).slotNum = s.slotNum) : s.atHome r f = f s := State.at_here hhome.symm hslot.symm hc hsl

/-! ### A record starts (R187) -/

theorem firstRun_of (s : State) (r : MRecord) : (s.firstRun r).mrec = r ∧ (s.firstRun r).cycle = 0 := by
  unfold State.firstRun
  dsimp only
  split <;> exact ⟨rfl, rfl⟩

/-- The run that starts on a record of the core in focus, with the view of a SAMPLE call. -/
theorem startRecord_own (hhome : r.home = s.coreNum) (hslot : r.slot = s.slotNum) : ∃ m' progidx mtmask, s.startRecord r =
      { s with ctx := { s.ctx with progidx := progidx, mtmask := mtmask }, core := { s.core with run := some m' } } ∧
    m'.mrec = { s.takeTiles r with view := m'.mrec.view } ∧ m'.mrec.view.isSome = r.reads ∧ m'.cycle = 0 := by
  unfold State.startRecord
  extract_lets r' r'' m'
  obtain ⟨hrec, hcycle⟩ : m'.mrec = r'' ∧ m'.cycle = 0 := firstRun_of _ _
  refine ⟨m', _, _, atHome_own (s := s.mapCore fun c => { c with run := some m' }) (r := r'') hhome hslot rfl rfl, ?_, ?_, hcycle⟩
  · rw [hrec]
  · rw [hrec]
    show (if r'.reads then r'.view.or _ else none).isSome = r'.reads
    split
    · next h => rw [h, Option.isSome_or, Option.isSome_some, Bool.or_true]
    · next h => exact (Bool.eq_false_iff.mpr h).symm

theorem boxOf_ram_of_core {s t : State} (hnum : t.coreNum = s.coreNum) (hcores : t.cores = s.cores) (hram : t.core.ram = s.core.ram)
    (k : BitVec 7) : (t.boxOf k).core.ram = (s.boxOf k).core.ram := by
  by_cases hk : k = s.coreNum
  · subst hk
    rw [State.boxOf_self, ← hnum, State.boxOf_self, hram]
  · unfold State.boxOf
    rw [if_neg hk, if_neg (hnum ▸ hk), hcores]

theorem record_starts (hrun : s.core.run = none) (hengine : s.core.engine = r :: l) (hstart : s.canStart r = true) (hhome : r.home = s.coreNum)
    (hslot : r.slot = s.slotNum) : ∃ t m', exec .evMatrixRecordStart s = .next t ∧ t.core.engine = l ∧ t.core.run = some m' ∧
      m'.mrec = { s.takeTiles r with view := m'.mrec.view } ∧ m'.mrec.view.isSome = r.reads ∧ m'.cycle = 0 ∧ t.ctx.regs = s.ctx.regs ∧
      SameMemory s t := by
  have htiles : (s.mapCore fun c => { c with engine := l }).takeTiles r = s.takeTiles r := by
    unfold State.takeTiles
    rw [homeOf_own hhome hslot, homeOf_own (s := s.mapCore fun c => { c with engine := l }) hhome hslot]
    rfl
  have hexec : exec .evMatrixRecordStart s = .next ((s.mapCore fun c => { c with engine := l }).startRecord r) := by
    show Host.Outcome.next _ = _
    rw [hrun, hengine]
    exact congrArg _ (if_pos hstart)
  obtain ⟨m', _, _, hs, hrec, hview, hcycle⟩ := startRecord_own (s := s.mapCore fun c => { c with engine := l }) hhome hslot
  rw [hexec, hs]
  rw [htiles] at hrec
  exact ⟨_, m', rfl, rfl, rfl, hrec, hview, hcycle, rfl, sameMemory_of_rams rfl (boxOf_ram_of_core rfl rfl rfl)⟩

/-! ### A micro-tile commits (R202) -/

/-- The micro-tiles done once the one in progress has committed. -/
def MicroRun.doneMask (m : MicroRun) : BitVec 32 := m.mrec.mtMask ||| BitVec.ofNat 32 (2 ^ m.mrec.microTile)

/-- The record after the micro-tile in progress has committed: its mask, or its next accumulator with none done. -/
def MicroRun.committed (m : MicroRun) : MRecord :=
  { m.mrec with
    status := if m.part.any fun (_, x) => !(fp32.decode x).isFin then m.mrec.status ||| 1 else m.mrec.status
    accOff := if m.doneMask == BitVec.allOnes 32 then m.mrec.accOff + 1 else m.mrec.accOff
    mtMask := if m.doneMask == BitVec.allOnes 32 then 0 else m.doneMask }

/-- It was the last of the call's last accumulator. -/
def MicroRun.lastTile (m : MicroRun) : Bool := m.doneMask == BitVec.allOnes 32 && m.mrec.accOff + 1 = m.mrec.count

/-- What its commit leaves at its home. -/
def State.tileDone (m : MicroRun) (h : State) : State :=
  (m.norms.foldl (fun h (a, d) => h.spWrite m.mrec.ser a d) (h.mapCore fun c => c.putPart (m.mrec.first + m.mrec.accOff) m.part)).mapCtx fun c =>
    if m.lastTile then c.progress m.mrec.accOff m.doneMask else c.progress m.committed.accOff m.committed.mtMask

/-- The run that goes on after it. -/
def State.nextRun (m : MicroRun) (h : State) : MicroRun :=
  if m.lastTile then { m with mrec := m.committed, atEnd := true } else (h.homeOf m.committed).freshRun m.committed

theorem commitTile_eq (hsample : m.mrec.sample = false) : s.commitTile m =
    (s.atHome m.mrec (State.tileDone m)).mapCore fun c => { c with run := some ((s.atHome m.mrec (State.tileDone m)).nextRun m) } := by
  have hm : (if m.mrec.sample && !m.mrec.zero then (s.homeOf m.mrec).sampleCommit m else m) = m := if_neg (by rw [hsample]; simp)
  unfold State.commitTile
  dsimp only
  rw [hm]
  rfl

/-- Without norm vectors a commit changes the accumulator and the progress told. -/
theorem tileDone_eq (hnorms : m.norms = []) (s : State) : ∃ progidx mtmask, s.tileDone m = { s with
    ctx := { s.ctx with progidx := progidx, mtmask := mtmask }, core := s.core.putPart (m.mrec.first + m.mrec.accOff) m.part } := by
  unfold State.tileDone
  rw [hnorms]
  have hprogress : ∀ (b : Bool) (c : Context) x y z w, ∃ progidx mtmask, (if b then c.progress x y else c.progress z w) =
      { c with progidx := progidx, mtmask := mtmask } := fun b c x y z w => by
    cases b <;> exact ⟨_, _, rfl⟩
  obtain ⟨_, _, h⟩ := hprogress m.lastTile s.ctx m.mrec.accOff m.doneMask m.committed.accOff m.committed.mtMask
  exact ⟨_, _, congrArg (fun c => ({ s with ctx := c, core := s.core.putPart (m.mrec.first + m.mrec.accOff) m.part } : State)) h⟩

/-- The element of the accumulator in progress as the run left it, and those of the others as they were. -/
theorem micro_tile_commits (hrun : s.core.run = some m) (hhome : m.mrec.home = s.coreNum) (hslot : m.mrec.slot = s.slotNum)
    (hsample : m.mrec.sample = false) (hend : m.atEnd = true) (hfault : m.fault = none) (hleft : m.mrec.accOff < m.mrec.count)
    (hnorms : m.norms = []) (hwf : s.core.ram.wf = true) (hpart : ∀ c ∈ m.part, c.1 < 128 * 64 ∧ c.2 < 2 ^ 32) (hnodup : (m.part.map (·.1)).Nodup) :
    ∃ t m', exec .evMicroTileCommit s = .next t ∧ t.core.run = some m' ∧ t.ctx.regs = s.ctx.regs ∧
      (∀ i < 128, ∀ j < 64, t.core.accGet (m.mrec.first + m.mrec.accOff) i j = s.cellOf m i j) ∧
      (∀ n i j, n ≠ m.mrec.first + m.mrec.accOff → i < 128 → j < 64 → t.core.accGet n i j = s.core.accGet n i j) ∧
      (m.doneMask ≠ BitVec.allOnes 32 → m'.mrec.mtMask = m.doneMask ∧ m'.mrec.accOff = m.mrec.accOff ∧ m'.cycle = 0) ∧
      (m.doneMask = BitVec.allOnes 32 → m'.mrec.accOff = m.mrec.accOff + 1 ∧ m'.mrec.mtMask = 0) ∧
      (m'.mrec.status.getLsbD 0 = (m.mrec.status.getLsbD 0 || m.part.any fun c => !(fp32.decode c.2).isFin)) := by
  have hexec : exec .evMicroTileCommit s = .next (s.commitTile m) := by
    show Host.Outcome.next _ = _
    rw [hrun]
    refine congrArg _ (if_pos ?_)
    rw [hend, hfault]
    simpa using hleft
  have hrec : ∀ u : State, (u.nextRun m).mrec = m.committed := fun u => by
    unfold State.nextRun
    split <;> rfl
  have hget : ∀ n i j, i < 128 → j < 64 → (s.core.putPart (m.mrec.first + m.mrec.accOff) m.part).accGet n i j = _ := fun n i j hi hj =>
    CoreSt.accGet_putPart hwf hpart hnodup hi hj
  obtain ⟨_, _, hdone⟩ := tileDone_eq hnorms s
  have hact := atHome_own (f := State.tileDone m) hhome hslot (by rw [hdone]) (by rw [hdone])
  rw [hexec, commitTile_eq hsample, hact, hdone]
  refine ⟨_, _, rfl, rfl, rfl, fun i hi j hj => ?_, fun n i j hn hi hj => ?_, fun hmask => ?_, fun hmask => ?_, ?_⟩
  · rw [State.cellOf_eq_getD]
    exact (hget _ i j hi hj).trans (if_pos rfl)
  · exact (hget n i j hi hj).trans (if_neg hn)
  · have hnot : (m.doneMask == BitVec.allOnes 32) = false := beq_eq_false_iff_ne.mpr hmask
    rw [hrec]
    refine ⟨by simp only [MicroRun.committed, hnot]; rfl, by simp only [MicroRun.committed, hnot]; rfl, ?_⟩
    unfold State.nextRun MicroRun.lastTile
    rw [hnot]
    rfl
  · have hall : (m.doneMask == BitVec.allOnes 32) = true := beq_iff_eq.mpr hmask
    rw [hrec]
    exact ⟨by simp only [MicroRun.committed, hall, if_true], by simp only [MicroRun.committed, hall, if_true]⟩
  · rw [hrec]
    show (if _ then m.mrec.status ||| 1 else m.mrec.status : BitVec 8).getLsbD 0 = _
    split
    · next h => rw [h]; simp
    · next h => rw [Bool.eq_false_iff.mpr h, Bool.or_false]

/-! ### A record ends (R189, R200, R203) -/

/-- The record with its completion status (Table 8.5). -/
def MicroRun.endedRecord (m : MicroRun) : MRecord := { m.mrec with status := m.mrec.ended false }

/-- What its end leaves at its home, the executing core being `exe`. -/
def State.recordEnded (exe : BitVec 7) (m : MicroRun) (h : State) : State :=
  let r := m.endedRecord
  let h := if r.since = h.ctx.commits then h.mapCtx fun c => { c with resume := ResumeEntry.put c.resume (r.entry m.fault.isNone) } else h
  let h := h.batchStatus r (m.mrec.ended false)
  let h := match m.fault with
    | some i => h.mapCtx fun c => { c with fault := c.fault ++ [(⟨r.op.seq, 0, r.op.pc, true, false, slotCode r.op.slot, exe, i⟩ : Held)] }
    | none => h.sampleDone r
  h.settleTiles

/-- A record's entry in the resume table. -/
theorem resume_entered (h : State) (r : MRecord) (b : Bool) : ∃ resume,
    (if r.since = h.ctx.commits then h.mapCtx fun c => { c with resume := ResumeEntry.put c.resume (r.entry b) } else h) =
      { h with ctx := { h.ctx with resume := resume } } := by
  split <;> exact ⟨_, rfl⟩

/-- The run is gone, and the cluster told if that left the queue empty. -/
theorem endRecord_eq (s : State) (m : MicroRun) : ∃ u, QueueTold (s.mapCore fun c => { c with run := none }) u ∧
    s.endRecord m = u.atHome m.endedRecord (State.recordEnded s.coreNum m) :=
  ⟨_, queueTold_of_busy _, rfl⟩

theorem recordEnded_of_none (hfault : m.fault = none) (exe : BitVec 7) (h : State) : ∃ resume, h.recordEnded exe m =
    ((({ h with ctx := { h.ctx with resume := resume } } : State).batchStatus m.endedRecord (m.mrec.ended false)).sampleDone m.endedRecord).settleTiles := by
  obtain ⟨resume, hr⟩ := resume_entered h m.endedRecord m.fault.isNone
  unfold State.recordEnded
  dsimp only
  rw [hr, hfault]
  exact ⟨resume, rfl⟩

theorem recordEnded_of_some {i : TrapInfo} (hfault : m.fault = some i) (exe : BitVec 7) (h : State) : ∃ resume, h.recordEnded exe m =
    ((({ h with ctx := { h.ctx with resume := resume } } : State).batchStatus m.endedRecord (m.mrec.ended false)).mapCtx fun c =>
      { c with fault := c.fault ++ [⟨m.mrec.op.seq, 0, m.mrec.op.pc, true, false, slotCode m.mrec.op.slot, exe, i⟩] }).settleTiles := by
  obtain ⟨resume, hr⟩ := resume_entered h m.endedRecord m.fault.isNone
  unfold State.recordEnded
  dsimp only
  rw [hr, hfault]
  exact ⟨resume, rfl⟩

/-- The status of a record of the batch's generation enters the batch. -/
theorem batchStatus_batch {r : MRecord} (hzero : r.zero = false) (hgen : r.gen = s.ctx.batchSeq.toList.getD r.batch 0) (st : BitVec 8) :
    (s.batchStatus r st).ctx.batch.toList.getD r.batch 0 = s.ctx.batch.toList.getD r.batch 0 ||| st := by
  have hlt : r.batch < 4 := by
    unfold MRecord.batch wbits bitsOf
    exact Nat.mod_lt _ (by decide)
  have hctx : (s.batchStatus r st).ctx.batch = Vector.ofFn fun i => if i.val = r.batch then s.ctx.batch[i] ||| st else s.ctx.batch[i] := by
    unfold State.batchStatus
    rw [hzero, if_neg (by decide)]
    exact congrArg Context.batch (if_pos hgen.symm)
  rw [hctx]
  simp [List.getD_eq_getElem?_getD, hlt]

theorem exec_callComplete (hrun : s.core.run = some m) (hhome : m.mrec.home = s.coreNum) (hslot : m.mrec.slot = s.slotNum)
    (hends : m.fault.isSome ∨ (m.mrec.count ≤ m.mrec.accOff ∧ s.mp7Free m.mrec = true)) :
    exec .evMatrixCallComplete s = .next (s.endRecord m) := by
  show Host.Outcome.next _ = _
  rw [hrun]
  refine congrArg _ (if_pos ?_)
  rw [homeOf_own hhome hslot]
  simpa using hends

theorem QueueTold.core {u : State} (h : QueueTold s u) : ∃ c, u.core = { s.core with consider := c } := by
  have hnum : u.coreNum = s.coreNum := by rw [h.cores]
  obtain ⟨c, hc⟩ := h.told s.coreNum
  rw [State.boxOf_self, ← hnum, State.boxOf_self] at hc
  exact ⟨c, hc⟩

/-- A record of the core in focus has ended without a fault: what its home's context then holds. -/
theorem recordEnded_completes {u : State} (hfault : m.fault = none) (hzero : m.mrec.zero = false) (hgiving : u.ctx.giving = 0)
    (hgen : m.mrec.gen = u.ctx.batchSeq.toList.getD m.mrec.batch 0) (exe : BitVec 7) :
    ∃ resume tiles sampRes batch, u.recordEnded exe m = { u with ctx := { u.ctx with
        resume := resume, tiles := tiles, sampRes := sampRes, batch := batch
        regs := { u.ctx.regs with mp := if m.mrec.sample then u.ctx.regs.mp.set 7 m.mrec.res else u.ctx.regs.mp } } } ∧
      batch.toList.getD m.mrec.batch 0 = u.ctx.batch.toList.getD m.mrec.batch 0 ||| m.mrec.ended false := by
  obtain ⟨resume, hend⟩ := recordEnded_of_none hfault exe u
  have hbatch := batchStatus_batch (s := { u with ctx := { u.ctx with resume := resume } }) (r := m.endedRecord) hzero hgen (m.mrec.ended false)
  have hreads : m.endedRecord.reads = m.mrec.sample := by
    show (m.mrec.sample && !m.mrec.zero) = _
    rw [hzero, Bool.not_false, Bool.and_true]
  have hdone : ∀ v : State, ∃ sampRes, v.sampleDone m.endedRecord = { v with ctx := { v.ctx with
      sampRes := sampRes, regs := { v.ctx.regs with mp := if m.mrec.sample then v.ctx.regs.mp.set 7 m.mrec.res else v.ctx.regs.mp } } } := fun v => by
    unfold State.sampleDone
    rw [hreads]
    cases m.mrec.sample <;> exact ⟨_, rfl⟩
  obtain ⟨sampRes, hsample⟩ := hdone (({ u with ctx := { u.ctx with resume := resume } } : State).batchStatus m.endedRecord (m.mrec.ended false))
  rw [hsample, State.batchStatus_eq] at hend
  obtain ⟨tiles, hsettle⟩ := settleTiles_of_none (s := { u with ctx := { u.ctx with
    resume := resume, sampRes := sampRes
    batch := (({ u with ctx := { u.ctx with resume := resume } } : State).batchStatus m.endedRecord (m.mrec.ended false)).ctx.batch
    regs := { u.ctx.regs with mp := if m.mrec.sample then u.ctx.regs.mp.set 7 m.mrec.res else u.ctx.regs.mp } } }) hgiving
  exact ⟨resume, tiles, sampRes, _, hend.trans hsettle, hbatch⟩

theorem call_completes (hrun : s.core.run = some m) (hhome : m.mrec.home = s.coreNum) (hslot : m.mrec.slot = s.slotNum)
    (hzero : m.mrec.zero = false) (hfault : m.fault = none) (hfree : s.mp7Free m.mrec = true) (hgiving : s.ctx.giving = 0)
    (hpast : m.mrec.count ≤ m.mrec.accOff) (hgen : m.mrec.gen = s.ctx.batchSeq.toList.getD m.mrec.batch 0) :
    ∃ t, exec .evMatrixCallComplete s = .next t ∧ t.core.run = none ∧ t.core.engine = s.core.engine ∧
      t.ctx.regs = { s.ctx.regs with mp := if m.mrec.sample then s.ctx.regs.mp.set 7 m.mrec.res else s.ctx.regs.mp } ∧
      SameMemory s t ∧ t.ctx.fault = s.ctx.fault ∧ t.ctx.batch.toList.getD m.mrec.batch 0 =
        s.ctx.batch.toList.getD m.mrec.batch 0 ||| m.mrec.status ||| (if m.mrec.migrated then 2 else 0) ||| (if m.mrec.sample then 8 else 0) := by
  obtain ⟨u, htold, hend⟩ := endRecord_eq s m
  obtain ⟨b, hcore⟩ := htold.core
  have hu := htold.cores
  have hctx : u.ctx = s.ctx := by rw [hu]; rfl
  have hnum : u.coreNum = s.coreNum := by rw [hu]; rfl
  have hslotNum : u.slotNum = s.slotNum := by rw [hu]; rfl
  obtain ⟨resume, tiles, sampRes, batch, hdone, hbatch⟩ := recordEnded_completes (u := u) hfault hzero (hctx ▸ hgiving) (hctx ▸ hgen) s.coreNum
  have hact := atHome_own (s := u) (r := m.endedRecord) (f := State.recordEnded s.coreNum m) (hhome.trans hnum.symm) (hslot.trans hslotNum.symm)
    (by rw [hdone]) (by rw [hdone])
  have hended : m.mrec.ended false = m.mrec.status ||| (if m.mrec.migrated then 2 else 0) ||| (if m.mrec.sample then 8 else 0) := by
    unfold MRecord.ended
    rw [hzero, Bool.not_false, Bool.and_true]
    exact BitVec.or_zero
  have hram : ∀ k, (u.boxOf k).core.ram = (s.boxOf k).core.ram := fun k => by
    obtain ⟨c, hc⟩ := htold.told k
    rw [hc]
    exact boxOf_ram_of_core (s := s) (t := s.mapCore fun c => { c with run := none }) rfl rfl rfl k
  rw [exec_callComplete hrun hhome hslot (.inr ⟨hpast, hfree⟩), hend, hact, hdone]
  refine ⟨_, rfl, ?_, ?_, ?_, sameMemory_of_rams ?_ fun k => ?_, ?_, ?_⟩
  · rw [hcore]
    rfl
  · rw [hcore]
    rfl
  · dsimp only
    rw [hctx]
  · dsimp only
    rw [hu]
    rfl
  · rw [← hram k]
    refine boxOf_ram_of_core ?_ ?_ ?_ k <;> rfl
  · show u.ctx.fault = s.ctx.fault
    rw [hctx]
  · refine hbatch.trans ?_
    rw [hctx, hended, ← BitVec.or_assoc, ← BitVec.or_assoc]

theorem CoreSt.setOwner_run (c : CoreSt) (b : Nat) (o : Option Bool) : (c.setOwner b o).run = c.run := by dsimp only [CoreSt.setOwner]
theorem CoreSt.clearBank_run (c : CoreSt) (b : Nat) : (c.clearBank b).run = c.run := by dsimp only [CoreSt.clearBank]

/-- The engine's run is no part of what a bank that passes changes. -/
theorem passBank_run (s : State) (keep : Bool) (b : Nat) : (s.passBank keep b).core.run = s.core.run := by
  have hpass : ∀ (x : Bool) (c : CoreSt), (if x then c else c.clearBank b).run = c.run := fun x c => by
    cases x
    · exact c.clearBank_run b
    · rfl
  unfold State.passBank
  dsimp only
  split
  · exact (CoreSt.setOwner_run _ _ _).trans (hpass _ _)
  · exact CoreSt.setOwner_run _ _ _

theorem settleTiles_keeps (s : State) : s.settleTiles.core.run = s.core.run ∧ s.settleTiles.ctx.fault = s.ctx.fault ∧
    s.settleTiles.coreNum = s.coreNum ∧ s.settleTiles.slotNum = s.slotNum := by
  refine ⟨?_, ?_⟩
  · unfold State.settleTiles State.giveBanks
    dsimp only
    refine List.foldlRecOn (motive := fun t : State => t.core.run = s.core.run) _ _ rfl fun t ht b _ => ?_
    split
    · exact (passBank_run t true b).trans ht
    · exact ht
  · obtain ⟨_, _, _, _, h⟩ := settleTiles_eq s
    rw [h]
    exact ⟨rfl, rfl, rfl⟩

theorem call_faults {i : TrapInfo} (hrun : s.core.run = some m) (hhome : m.mrec.home = s.coreNum) (hslot : m.mrec.slot = s.slotNum)
    (hfault : m.fault = some i) : ∃ t h, exec .evMatrixCallComplete s = .next t ∧ t.core.run = none ∧ t.ctx.fault = s.ctx.fault ++ [h] ∧
      h.info = i ∧ h.async = true ∧ h.seq = m.mrec.op.seq ∧ h.pc = m.mrec.op.pc := by
  obtain ⟨u, htold, hend⟩ := endRecord_eq s m
  obtain ⟨b, hcore⟩ := htold.core
  have hu := htold.cores
  have hnum : u.coreNum = s.coreNum := by rw [hu]; rfl
  have hslotNum : u.slotNum = s.slotNum := by rw [hu]; rfl
  obtain ⟨resume, hdone⟩ := recordEnded_of_some hfault s.coreNum u
  obtain ⟨hrunKept, hfaultKept, hnumKept, hslotKept⟩ := settleTiles_keeps
    ((({ u with ctx := { u.ctx with resume := resume } } : State).batchStatus m.endedRecord (m.mrec.ended false)).mapCtx fun c =>
      { c with fault := c.fault ++ [⟨m.mrec.op.seq, 0, m.mrec.op.pc, true, false, slotCode m.mrec.op.slot, s.coreNum, i⟩] })
  rw [← hdone, State.batchStatus_eq] at hrunKept hfaultKept hnumKept hslotKept
  have hact := atHome_own (s := u) (r := m.endedRecord) (f := State.recordEnded s.coreNum m) (hhome.trans hnum.symm) (hslot.trans hslotNum.symm)
    hnumKept hslotKept
  rw [exec_callComplete hrun hhome hslot (.inl (by rw [hfault]; rfl)), hend, hact]
  refine ⟨_, ⟨m.mrec.op.seq, 0, m.mrec.op.pc, true, false, slotCode m.mrec.op.slot, s.coreNum, i⟩, rfl, hrunKept.trans ?_, hfaultKept.trans ?_,
    rfl, rfl, rfl, rfl⟩
  · show u.core.run = none
    rw [hcore]
    rfl
  · show u.ctx.fault ++ _ = _
    rw [hu]
    rfl

end

/-! ### Migration (R204, R363) -/

/-- A table with its values mapped. -/
def mapTab {α β : Type} (g : α → β) (l : List (Nat × α)) : List (Nat × β) := l.map fun b => (b.1, g b.2)

section
variable {α β : Type} (g : α → β)

theorem tabGet_mapTab (d : α) (l : List (Nat × α)) (n : Nat) : tabGet (g d) (mapTab g l) n = g (tabGet d l n) := by
  induction l with
  | nil => rfl
  | cons b l ih =>
    rw [show mapTab g (b :: l) = (b.1, g b.2) :: mapTab g l from rfl, tabGet, tabGet, ih]
    split <;> rfl

theorem tabDel_mapTab (l : List (Nat × α)) (n : Nat) : tabDel (mapTab g l) n = mapTab g (tabDel l n) := by
  unfold tabDel mapTab
  rw [List.filter_map]
  rfl

theorem tabSet_mapTab (l : List (Nat × α)) (n : Nat) (v : α) : tabSet (mapTab g l) n (g v) = mapTab g (tabSet l n v) := by
  induction l with
  | nil => rfl
  | cons b l ih =>
    rw [show mapTab g (b :: l) = (b.1, g b.2) :: mapTab g l from rfl, tabSet, tabSet, ih]
    split
    · rfl
    · split <;> rfl

end

/-- A core that does not consider migration, and its box. -/
def CoreSt.unmarked (c : CoreSt) : CoreSt := { c with consider := false }
def CoreBox.unmarked (b : CoreBox) : CoreBox := { b with core := b.core.unmarked }

/-- The machine with no engine that considers migration. -/
def State.unmarked (s : State) : State := { s with core := s.core.unmarked, cores := mapTab CoreBox.unmarked s.cores }

theorem box_unmarked (s : State) : s.unmarked.box = s.box.unmarked := by
  unfold State.box
  rw [show s.unmarked.slotNum = s.slotNum from rfl]
  split <;> rfl

theorem boxOf_unmarked (s : State) (c : BitVec 7) : s.unmarked.boxOf c = (s.boxOf c).unmarked := by
  unfold State.boxOf
  rw [show s.unmarked.coreNum = s.coreNum from rfl]
  split
  · exact box_unmarked s
  · exact tabGet_mapTab CoreBox.unmarked .none s.cores c.toNat

theorem ctxOf_unmarked (s : State) (c : BitVec 7) (sl : Bool) : s.unmarked.ctxOf c sl = s.ctxOf c sl := by
  unfold State.ctxOf
  rw [boxOf_unmarked]
  rfl

theorem focus_unmarked (s : State) (c : BitVec 7) (sl : Bool) : s.unmarked.focus c sl = (s.focus c sl).unmarked := by
  have hget : tabGet .none s.unmarked.cores c.toNat = (tabGet .none s.cores c.toNat).unmarked := tabGet_mapTab CoreBox.unmarked .none s.cores c.toNat
  have hset : tabSet (tabDel s.unmarked.cores c.toNat) s.coreNum.toNat s.unmarked.box =
      mapTab CoreBox.unmarked (tabSet (tabDel s.cores c.toNat) s.coreNum.toNat s.box) := by
    rw [box_unmarked, ← tabSet_mapTab, ← tabDel_mapTab]
    rfl
  unfold State.focus
  rw [show s.unmarked.coreNum = s.coreNum from rfl, show s.unmarked.slotNum = s.slotNum from rfl]
  split
  · split <;> rfl
  · dsimp only
    rw [hget, hset]
    rfl

theorem records_unmarked (s : State) : s.unmarked.records = s.records := by
  unfold State.records
  rw [show s.unmarked.cores = mapTab CoreBox.unmarked s.cores from rfl]
  unfold mapTab
  rw [List.filter_map, List.flatMap_map]
  rfl

theorem toMigrate_unmarked (s : State) : s.unmarked.toMigrate = s.toMigrate := by
  have hrecords : ∀ r, (s.unmarked.homeOf r).records = (s.homeOf r).records := fun r => by
    unfold State.homeOf
    rw [focus_unmarked, records_unmarked]
  unfold State.toMigrate
  simp only [ctxOf_unmarked, hrecords]
  rw [show s.unmarked.cores = mapTab CoreBox.unmarked s.cores from rfl]
  unfold mapTab
  rw [List.filter_map, List.filterMap_map]
  rfl

/-- Whether the engine considers migration does not bear on what it would take. -/
theorem toMigrate_of_considered (s : State) : (s.mapCore fun c => { c with consider := false }).toMigrate = s.toMigrate := by
  rw [← toMigrate_unmarked, ← toMigrate_unmarked s]
  rfl

section
variable {s : State} {r : MRecord} {l : List MRecord} {m : MicroRun}

/-- An act on another core's queue, of which the cluster may be told: the queues of the core in focus and of that one. -/
theorem at_other {c : BitVec 7} (sl : Bool) (hc : c ≠ s.coreNum) (g : CoreSt → CoreSt) {f : State → State}
    (htold : ∀ v : State, QueueTold (v.mapCore g) (f v)) (hothers : ∀ v : State, OthersKept v (f v)) :
    (∃ b, (s.at_ c sl f).core = { s.core with consider := b }) ∧ (∃ b, ((s.at_ c sl f).boxOf c).core = { g (s.boxOf c).core with consider := b }) ∧
      (s.at_ c sl f).ctx = s.ctx := by
  have hnum : ((s.focus c sl).mapCore g).coreNum = c := s.focus_coreNum c sl
  refine ⟨?_, ?_, ?_⟩
  · obtain ⟨b, hb⟩ := (htold (s.focus c sl)).told s.coreNum
    rw [State.mapCore_boxOf_of_ne (by rw [State.focus_coreNum]; exact hc.symm), State.focus_boxOf, State.boxOf_self] at hb
    exact ⟨b, (State.at_core ..).trans hb⟩
  · obtain ⟨b, hb⟩ := (htold (s.focus c sl)).told c
    have hown := State.boxOf_self ((s.focus c sl).mapCore g)
    rw [hnum] at hown
    rw [hown, show ((s.focus c sl).mapCore g).core = g (s.focus c sl).core from rfl, State.focus_core] at hb
    exact ⟨b, (congrArg CoreBox.core (State.at_boxOf ..)).trans hb⟩
  · have h := (hothers (s.focus c sl)).at_ s.coreNum s.slotNum
    rw [if_neg fun he => hc (congrArg Prod.fst he).symm] at h
    have hctx := (s.at_ c sl f).ctx_eq_ctxOf
    rw [State.coreNum_at_, State.slotNum_at_, h] at hctx
    rw [hctx, ← State.ctx_eq_ctxOf]

theorem record_migrates (hconsider : s.core.consider = true) (hrun : s.core.run = none) (hengine : s.core.engine = [])
    (htake : s.toMigrate = some r) (haway : r.home ≠ s.coreNum) : ∃ t, exec .evMatrixMigrate s = .next t ∧ t.core.run = none ∧
      t.core.engine = [{ r with migrated := true, status := r.status ||| 2 }] ∧
      (t.boxOf r.home).core.engine = (s.boxOf r.home).core.engine.filter (· != r) ∧ t.ctx.regs = s.ctx.regs := by
  have hidle : (s.mapCore fun c => { c with consider := false }).core.busy = false := by
    show (s.core.run.isSome || !s.core.engine.isEmpty) = false
    rw [hrun, hengine]
    rfl
  have hexec : exec .evMatrixMigrate s = .next ((s.mapCore fun c => { c with consider := false, engine := [{ r with migrated := true, status := r.status ||| 2 }] }).at_
      r.home r.slot fun h => if (h.mapCore fun c => { c with engine := c.engine.filter (· != r) }).core.busy then
        h.mapCore fun c => { c with engine := c.engine.filter (· != r) } else (h.mapCore fun c => { c with engine := c.engine.filter (· != r) }).queueEmptied) := by
    show Host.Outcome.next _ = _
    rw [hconsider]
    dsimp only
    rw [if_neg (by decide), hidle, if_neg (by decide), toMigrate_of_considered, htake]
    rfl
  obtain ⟨⟨b, hcore⟩, ⟨b', hbox⟩, hctx⟩ := at_other r.slot haway (fun c => { c with engine := c.engine.filter (· != r) })
    (s := s.mapCore fun c => { c with consider := false, engine := [{ r with migrated := true, status := r.status ||| 2 }] })
    (fun v => queueTold_of_busy (v.mapCore fun c => { c with engine := c.engine.filter (· != r) })) fun v => by
      split
      · exact (BesideKept.mapCore v _).others
      · exact ((BesideKept.mapCore v _).trans (BesideKept.mapCluster _ _)).others
  rw [State.mapCore_boxOf_of_ne haway] at hbox
  refine ⟨_, hexec, ?_, ?_, ?_, congrArg Context.regs hctx⟩
  · rw [hcore]
    exact hrun
  · rw [hcore]
    rfl
  · rw [hbox]

theorem record_returns (hown : ∃ own ∈ s.core.engine, own.home = s.coreNum) (haway : r.home ≠ s.coreNum)
    (hstands : (s.core.run = some m ∧ m.mrec = r ∧ m.cycle = 0 ∧ m.fault = none ∧ r.accOff < r.count) ∨ (s.core.run = none ∧ s.core.engine = r :: l)) :
    ∃ t, exec .evMigrationReturn s = .next t ∧ t.core.run = none ∧ t.core.engine = s.core.engine.filter (· != r) ∧
      (t.boxOf r.home).core.engine = r :: (s.boxOf r.home).core.engine ∧ t.ctx.regs = s.ctx.regs := by
  obtain ⟨own, hmem, hhome⟩ := hown
  have hany : (s.core.engine.any fun x => x.home == s.coreNum) = true := List.any_eq_true.mpr ⟨own, hmem, beq_iff_eq.mpr hhome⟩
  have hgoes : s.goesHome = some r := by
    unfold State.goesHome
    rcases hstands with ⟨hrun, rfl, hcycle, hfault, hleft⟩ | ⟨hrun, hengine⟩
    · rw [hrun]
      dsimp only
      rw [hany]
      exact if_pos (by simp [haway, hcycle, hfault, hleft])
    · rw [hrun, hengine]
      rw [hengine] at hany
      dsimp only
      rw [hany]
      exact if_pos (by simpa using haway)
  have hexec : exec .evMigrationReturn s = .next ((s.mapCore fun c => { c with engine := c.engine.filter (· != r), run := none }).at_ r.home r.slot
      fun h => h.mapCore fun c => { c with engine := r :: c.engine }) := by
    show Host.Outcome.next _ = _
    rw [hgoes]
  obtain ⟨⟨b, hcore⟩, ⟨b', hbox⟩, hctx⟩ := at_other r.slot haway (fun c => { c with engine := r :: c.engine })
    (s := s.mapCore fun c => { c with engine := c.engine.filter (· != r), run := none })
    (f := fun h => h.mapCore fun c => { c with engine := r :: c.engine }) (fun v => .refl _) fun v => (BesideKept.mapCore v _).others
  rw [State.mapCore_boxOf_of_ne haway] at hbox
  refine ⟨_, hexec, ?_, ?_, ?_, congrArg Context.regs hctx⟩
  · rw [hcore]
    rfl
  · rw [hcore]
    rfl
  · rw [hbox]

end

end Sys2Proof.Machine

namespace Sys2Proof
open Machine Claims

/-- Settles O44: each event by what it leaves at the core in focus and at the record's home. -/
theorem engineEventsComplete : Obligations.EngineEventsComplete := fun _ _ _ _ =>
  ⟨record_starts,
    fun hrun hhome hslot hsample hend hfault hleft hnorms hwf hpart hnodup =>
      micro_tile_commits hrun hhome hslot hsample hend hfault hleft hnorms hwf hpart hnodup,
    fun hrun hhome hslot hzero hfault hfree _ hgiving hpast hgen => call_completes hrun hhome hslot hzero hfault hfree hgiving hpast hgen,
    fun _ => call_faults, record_migrates, record_returns⟩

end Sys2Proof

/-! PROOFS. Tile loads, fills, stores and releases, and the moves of accumulator rows (R176 to R185, R194, R278 to R280). -/
namespace Sys2Proof.Machine
open Claims

/-! ### Tile registers -/

theorem sameMemory_mapCtx (s : State) (f : Context → Context) : SameMemory s (s.mapCtx f) := sameMemory_of_sameOutside rfl

theorem Context.tile_setTile (c : Context) (t r : TReg) (x : TileEntry) : (c.setTile t x).tile r = if r = t then x else c.tile r :=
  getElem_set_reg c.tiles t r x t.isLt r.isLt

theorem tile_congr {c c' : Context} (h : c'.tiles = c.tiles) (r : TReg) : c'.tile r = c.tile r := by
  unfold Context.tile
  simp only [h]

theorem tileIs_setTile {s t : State} {r : TReg} {x : TileEntry} (h : t.ctx.tiles = (s.ctx.setTile r x).tiles) : TileIs s t r x := by
  refine ⟨?_, fun r' hr' _ => ?_⟩
  · rw [tile_congr h, Context.tile_setTile, if_pos rfl]
  · rw [tile_congr h, Context.tile_setTile, if_neg hr']

/-- Of a context that has not exited, tiles settle by their own states. -/
def State.settledTiles (s : State) : Vector TileEntry 32 :=
  Vector.ofFn fun i => if s.ctx.tiles[i].st = .retiring ∧ s.tileCaptured (BitVec.ofNat 5 i.val) = false then .none else s.ctx.tiles[i]

theorem settleTiles_of_calm {s : State} (hexited : s.ctx.exited = false) (hgiving : s.ctx.giving = 0) :
    s.settleTiles = { s with ctx := { s.ctx with tiles := s.settledTiles } } := by
  have htiles : (Vector.ofFn fun i : Fin 32 => if (s.ctx.exited && s.records.isEmpty && s.ctx.tags.all fun t => !tagBusy t.2) ||
      (s.ctx.tiles[i].st == .retiring && !s.tileCaptured (BitVec.ofNat 5 i.val)) then TileEntry.none else s.ctx.tiles[i]) = s.settledTiles := by
    unfold State.settledTiles
    simp [hexited]
  unfold State.settleTiles
  dsimp only
  rw [htiles]
  exact giveBanks_of_none (s := { s with ctx := { s.ctx with tiles := s.settledTiles } }) hgiving

theorem settleTiles_tile {s : State} (hexited : s.ctx.exited = false) (hgiving : s.ctx.giving = 0) (r : TReg) :
    s.settleTiles.ctx.tile r = if (s.ctx.tile r).st = .retiring ∧ s.tileCaptured r = false then .none else s.ctx.tile r := by
  rw [settleTiles_of_calm hexited hgiving]
  unfold Context.tile State.settledTiles
  simp

/-- A tile is left as `x` once tiles settle, where it is not one that then goes. -/
theorem tileIs_settled {s u : State} {r : TReg} {x : TileEntry} (hu : TileIs s u r x) (hexited : u.ctx.exited = false) (hgiving : u.ctx.giving = 0) :
    TileIs s u.settleTiles r (if x.st = .retiring ∧ u.tileCaptured r = false then .none else x) := by
  refine ⟨?_, fun r' hr' hst => ?_⟩
  · rw [settleTiles_tile hexited hgiving, hu.1]
  · rw [settleTiles_tile hexited hgiving, hu.2 r' hr' hst, if_neg fun h => hst h.1]

/-! ### `tld` (R176, R278) -/

section
variable {s : State} {q : Pred} (hq : s.holds q = true)
include hq

section
variable {tr : TReg} {mem : TMem} {ss : SReg}

theorem tld_waits (h : (s.ctx.tile tr).st ≠ .empty) : exec (.lTld q tr mem ss) s = .next (s.block true) := by
  show execLTld q tr mem ss s = _
  exact (State.under_holds hq _).trans (congrArg Host.Outcome.next (if_pos (by simpa using h)))

theorem exec_tld_of_empty (h : (s.ctx.tile tr).st = .empty) : exec (.lTld q tr mem ss) s = .next (s.loadTile tr mem ss) := by
  show execLTld q tr mem ss s = _
  exact (State.under_holds hq _).trans (congrArg Host.Outcome.next (if_neg (by simpa using h)))

end

/-- A tile as `tld` enters it. -/
def enteredTile (s : State) (mem : TMem) (e : TileEntry) : TileEntry := { e with op := some s.opId, fresh := true, cls := mem.cls, ser := s.ctx.entries }

/-- The tile register holds a descriptor, and the tile's entry stands as `tld` makes it. -/
def State.tileEntered (s : State) (tr : TReg) (mem : TMem) (desc : BitVec 256) (e : TileEntry) : State :=
  (s.writeT tr desc).mapCtx fun c => { c.setTile tr { e with op := some s.opId, fresh := true, cls := mem.cls, ser := c.entries } with entries := c.entries + 1 }

omit hq in
theorem tileEntered_enters (s : State) (tr : TReg) (mem : TMem) (desc : BitVec 256) (e : TileEntry) :
    (s.tileEntered tr mem desc e).ctx.regs = (s.writeT tr desc).ctx.regs ∧ TileIs s (s.tileEntered tr mem desc e) tr (enteredTile s mem e) ∧
      SameMemory s (s.tileEntered tr mem desc e) := by
  refine ⟨rfl, tileIs_setTile ?_, sameMemory_of_sameOutside ?_⟩
  · unfold State.tileEntered
    rw [State.writeT_eq]
    rfl
  · unfold State.tileEntered SameOutside
    rw [State.writeT_eq]
    rfl

section
variable {tr : TReg} {mem : TMem} {ss : SReg} (hempty : (s.ctx.tile tr).st = .empty) (hshape : badShape ss (s.readS ss) mem.cap = false)
include hempty hshape

theorem tld_accumulator (hrole : shRole (s.readS ss) = 2) : exec (.lTld q tr mem ss) s = .next (s.tileEntered tr mem
    (mkDesc (s.readS mem.base + mem.off.signExtend 64) (s.readS ss) (if shTrans (s.readS ss) then s.readS (ss + 1) else 0) mem.cap
      (shFmt (s.readS ss)) (shGrp (s.readS ss))) { TileEntry.none with st := .ready }) := by
  rw [exec_tld_of_empty hq hempty]
  unfold State.loadTile
  dsimp only
  rw [hshape, if_neg (by decide), if_pos hrole]
  rfl

theorem tld_scratchpad {lo hi : Nat} (hrole : shRole (s.readS ss) ≠ 2) (hsp : shSph (s.readS ss) = true)
    (hprot : tileProt (s.readS mem.base + mem.off.signExtend 64).toNat (s.readS ss) (BitVec.ofNat 4 (shFmt (s.readS ss))) (shGrp (s.readS ss)) = (lo, hi))
    (hown : Owned s lo (hi + 1 - lo))
    (htype : badType (s.readS ss) (BitVec.ofNat 24 (shFmt (s.readS ss) + 16 * shGrp (s.readS ss) + if shGrp (s.readS ss) = 0 then 0 else 64))
      (s.readS mem.base + mem.off.signExtend 64) = none) : exec (.lTld q tr mem ss) s = .next (s.tileEntered tr mem
    (mkDesc (s.readS mem.base + mem.off.signExtend 64) (s.readS ss) (if shTrans (s.readS ss) then s.readS (ss + 1) else 0) mem.cap
      (shFmt (s.readS ss)) (shGrp (s.readS ss))) { TileEntry.none with st := .ready, prot := some (lo, hi) }) := by
  obtain ⟨hin, howned⟩ := (owned_iff s lo (hi + 1 - lo)).mp hown
  rw [exec_tld_of_empty hq hempty]
  unfold State.loadTile
  dsimp only
  rw [hshape, if_neg (by decide), if_neg hrole, if_pos hsp, hprot]
  dsimp only
  rw [(s.spBound_iff _ _).mpr hin, if_neg (by decide), htype, howned]
  rfl

theorem tld_memory {attr : BitVec 24} (hrole : shRole (s.readS ss) ≠ 2) (hsp : shSph (s.readS ss) = false)
    (hattr : s.tileAttr ⟨.virt, mem.cap, s.readC mem.cap, s.readS mem.base + mem.off.signExtend 64⟩ (s.readS ss)
      (if shTrans (s.readS ss) then s.readS (ss + 1) else 0) = .inl attr)
    (htype : badType (s.readS ss) attr (s.readS mem.base + mem.off.signExtend 64) = none) {desc : BitVec 256}
    (hdesc : desc = mkDesc (s.readS mem.base + mem.off.signExtend 64) (s.readS ss) (if shTrans (s.readS ss) then s.readS (ss + 1) else 0) mem.cap
      (attr.toNat % 16) (attr.toNat / 16 % 4)) (hroom : s.ctx.pinned + descLines desc ≤ 3072) :
    exec (.lTld q tr mem ss) s = .next (s.tileEntered tr mem desc
      { TileEntry.none with st := .filling, filled := false, lines := descLines desc, cap := s.readC mem.cap }) := by
  have hfields : wbits attr 3 0 = attr.toNat % 16 ∧ wbits attr 5 4 = attr.toNat / 16 % 4 := by
    unfold wbits bitsOf
    rw [Nat.shiftRight_eq_div_pow, Nat.shiftRight_eq_div_pow]
    simp
  rw [exec_tld_of_empty hq hempty]
  unfold State.loadTile
  dsimp only
  rw [hshape, if_neg (by decide), if_neg hrole, hsp, if_neg (by decide), hattr]
  dsimp only
  rw [htype]
  dsimp only
  rw [hfields.1, hfields.2, ← hdesc, if_neg (by omega)]
  rfl

end

end

/-! ### Fills (R179, R181) -/

theorem settleTiles_calm_frame {s : State} (hexited : s.ctx.exited = false) (hgiving : s.ctx.giving = 0) :
    s.settleTiles.ctx.regs = s.ctx.regs ∧ SameMemory s s.settleTiles := by
  rw [settleTiles_of_calm hexited hgiving]
  exact ⟨rfl, sameMemory_of_sameOutside rfl⟩

theorem noteLoad_ctx (s : State) (ps : List Place) : (s.noteLoad ps []).ctx = s.ctx := by
  have huse : ∀ (u : State) obj page, (u.usePage obj page).ctx = u.ctx := fun u obj page => by
    unfold State.usePage
    dsimp only
    split <;> rfl
  have hone : ∀ (u : State) (p : Option Place), (match p with | some (.pool obj o) => u.usePage obj (o / 2 ^ 16) | _ => u).ctx = u.ctx := fun u p => by
    split
    · exact huse u _ _
    · rfl
  have hpages : (s.usePages ps).ctx = s.ctx := (hone _ _).trans (hone _ _)
  unfold State.noteLoad
  dsimp only
  split <;> exact hpages

section
variable {s : State} {tr : TReg} (harg : s.arg.tile = tr) (hlive : s.ctx.live = true) (hst : (s.ctx.tile tr).st = .filling)
  (hfilled : (s.ctx.tile tr).filled = false)
include hlive hst hfilled

theorem filling_of_unfilled : s.filling tr = true := by
  unfold State.filling
  rw [hlive, hst, hfilled]
  rfl

include harg

theorem tileFill_complete (hexited : s.ctx.exited = false) (hgiving : s.ctx.giving = 0) (hretire : (s.ctx.tile tr).retire = false)
    {bs : List (List Byte)} {es : List (List Nat)} {ps : List Place} (hfill : s.fillTile tr = .inl (bs, es, ps)) :
    ∃ t, exec .evTileFillComplete s = .next t ∧ t.ctx.regs = s.ctx.regs ∧ SameMemory s t ∧
      TileIs s t tr { s.ctx.tile tr with st := .ready, filled := true, bytes := bs, side := es } := by
  have hctx := noteLoad_ctx (s.mapCtx fun c => c.setTile tr { s.ctx.tile tr with st := .ready, filled := true, bytes := bs, side := es }) ps
  have hload := LoadKept.noteLoad (s.mapCtx fun c => c.setTile tr { s.ctx.tile tr with st := .ready, filled := true, bytes := bs, side := es })
    ps [] []
  have hexec : exec .evTileFillComplete s = .next ((((s.mapCtx fun c => c.setTile tr
      { s.ctx.tile tr with st := .ready, filled := true, bytes := bs, side := es }).noteLoad ps []).mapCtx fun c =>
        c.noteSeen ((s.writeTimes ps).filter fun x => decide (0 < x.2))).settleTiles) := by
    show execEvTileFillComplete s = _
    unfold execEvTileFillComplete
    dsimp only
    rw [harg, filling_of_unfilled hlive hst hfilled, hfill, hst, hretire]
    rfl
  generalize (s.mapCtx fun c => c.setTile tr { s.ctx.tile tr with st := .ready, filled := true, bytes := bs, side := es }).noteLoad ps [] = u
    at hctx hload hexec
  have hnoted : LoadKept u (u.mapCtx fun c => c.noteSeen ((s.writeTimes ps).filter fun x => decide (0 < x.2))) := .mapCtx u ⟨rfl, rfl, rfl, rfl, rfl⟩
  have hexited' : u.ctx.exited = false := by rw [hctx]; exact hexited
  have hgiving' : u.ctx.giving = 0 := by rw [hctx]; exact hgiving
  obtain ⟨hregs, hmem⟩ := settleTiles_calm_frame (s := u.mapCtx fun c => c.noteSeen ((s.writeTimes ps).filter fun x => decide (0 < x.2)))
    hexited' hgiving'
  refine ⟨_, hexec, ?_, ?_, ?_⟩
  · rw [hregs, hnoted.regs, hload.regs]
    rfl
  · exact fun p => (hmem p).trans ((hnoted.sameMemory p).trans ((hload.sameMemory p).trans (sameMemory_mapCtx s _ p)))
  · have htile := tileIs_settled (s := s) (u := u.mapCtx fun c => c.noteSeen ((s.writeTimes ps).filter fun x => decide (0 < x.2)))
      (tileIs_setTile (r := tr) (x := { s.ctx.tile tr with st := .ready, filled := true, bytes := bs, side := es })
        (show u.ctx.tiles = _ by rw [hctx]; rfl)) hexited' hgiving'
    rw [if_neg (by simp)] at htile
    exact htile

theorem tileFill_fault {i : TrapInfo} (hfill : s.fillTile tr = .inr (.fault i)) :
    ∃ t h, exec .evTileFillFault s = .next t ∧ t.ctx.regs = s.ctx.regs ∧ SameMemory s t ∧ t.ctx.tile tr = .none ∧
      t.ctx.fault = s.ctx.fault ++ [h] ∧ h.info = i ∧ h.async = true ∧ h.kept = false ∧ (∀ o, (s.ctx.tile tr).op = some o → h.seq = o.seq) := by
  have hexec : exec .evTileFillFault s = .next ((s.mapCtx fun c => c.setTile tr .none).report ((s.ctx.tile tr).op.getD s.opId) i) := by
    show execEvTileFillFault s = _
    unfold execEvTileFillFault
    dsimp only
    rw [harg, filling_of_unfilled hlive hst hfilled, hfill]
    rfl
  refine ⟨_, _, hexec, rfl, sameMemory_of_sameOutside rfl, ?_, rfl, rfl, rfl, rfl, fun o ho => ?_⟩
  · exact (Context.tile_setTile s.ctx tr tr .none).trans (if_pos rfl)
  · rw [ho]
    rfl

end

/-! ### `trel` and `tqry` (R280) -/

section
variable {s : State} {q : Pred} (hq : s.holds q = true) {tr : TReg}
include hq

theorem exec_trel : exec (.lTrel q tr) s = .next (s.retireTile tr).settleTiles :=
  show execLTrel q tr s = _ from State.under_holds hq _

theorem trel_held (hexited : s.ctx.exited = false) (hgiving : s.ctx.giving = 0) (hst : (s.ctx.tile tr).st = .filling ∨ (s.ctx.tile tr).st = .ready) :
    ∃ t, exec (.lTrel q tr) s = .next t ∧ t.ctx.regs = s.ctx.regs ∧ SameMemory s t ∧
      TileIs s t tr (if s.tileCaptured tr then { s.ctx.tile tr with st := .retiring, fresh := true } else .none) := by
  have hretire : s.retireTile tr = s.mapCtx fun c => c.setTile tr { s.ctx.tile tr with st := .retiring, fresh := true } := by
    unfold State.retireTile
    dsimp only
    rw [if_pos (by simpa using hst)]
  obtain ⟨hregs, hmem⟩ := settleTiles_calm_frame (s := s.mapCtx fun c => c.setTile tr { s.ctx.tile tr with st := .retiring, fresh := true })
    hexited hgiving
  have htile := tileIs_settled (s := s) (u := s.mapCtx fun c => c.setTile tr { s.ctx.tile tr with st := .retiring, fresh := true })
    (tileIs_setTile rfl) hexited hgiving
  have hcaptured : (s.mapCtx fun c => c.setTile tr { s.ctx.tile tr with st := .retiring, fresh := true }).tileCaptured tr = s.tileCaptured tr := rfl
  refine ⟨_, (exec_trel hq).trans (congrArg (fun u => Host.Outcome.next u.settleTiles) hretire), hregs,
    fun p => (hmem p).trans (sameMemory_mapCtx s _ p), ?_⟩
  rw [hcaptured] at htile
  cases hcap : s.tileCaptured tr <;> simpa [hcap] using htile

theorem trel_unheld (hexited : s.ctx.exited = false) (hgiving : s.ctx.giving = 0)
    (hst : (s.ctx.tile tr).st = .empty ∨ (s.ctx.tile tr).st = .retiring) :
    ∃ t, exec (.lTrel q tr) s = .next t ∧ t.ctx.regs = s.ctx.regs ∧ SameMemory s t ∧
      TileIs s t tr (if (s.ctx.tile tr).st = .retiring ∧ s.tileCaptured tr = false then .none else s.ctx.tile tr) := by
  have hretire : s.retireTile tr = s := by
    unfold State.retireTile
    dsimp only
    rw [if_neg (by rcases hst with h | h <;> simp [h])]
  obtain ⟨hregs, hmem⟩ := settleTiles_calm_frame hexited hgiving
  exact ⟨_, (exec_trel hq).trans (congrArg (fun u => Host.Outcome.next u.settleTiles) hretire), hregs, hmem,
    tileIs_settled ⟨rfl, fun _ _ _ => rfl⟩ hexited hgiving⟩

theorem tqry_reads (d : SReg) : ∃ n ≤ (s.ctx.tile tr).lines, ((s.ctx.tile tr).filled = true → n = (s.ctx.tile tr).lines) ∧
    exec (.lTqry q tr d) s = .next (s.writeS d (BitVec.ofNat 64 (256 * n + (if (s.ctx.tile tr).st = .empty then 0
      else if (s.ctx.tile tr).st = .filling then 1 else if (s.ctx.tile tr).st = .ready then 2 else 3)))) := by
  have hcode : ∀ st : TileSt, tileCode st = if st = .empty then 0 else if st = .filling then 1 else if st = .ready then 2 else 3 := fun st => by
    cases st <;> rfl
  refine ⟨if (s.ctx.tile tr).filled then (s.ctx.tile tr).lines else Config.freeNat s.clock % ((s.ctx.tile tr).lines + 1), ?_, fun h => if_pos h, ?_⟩
  · split
    · exact le_refl _
    · exact Nat.le_of_lt_succ (Nat.mod_lt _ (Nat.succ_pos _))
  · rw [← hcode, Nat.add_comm]
    exact show execLTqry q tr d s = _ from State.under_holds hq _

end

end Sys2Proof.Machine

/-! PROOFS. The rows of an accumulator: `accrd`, `accwr` and the drain of `tst` (R183 to R185, R194, R279). -/
namespace Sys2Proof.Machine
open Claims

/-! ### Rows of an accumulator -/

theorem mem_lanesOf {x : Word} {i : Nat} : i ∈ lanesOf x ↔ i < 64 ∧ x.getLsbD i = true := by
  unfold lanesOf
  rw [List.mem_filter, natRange_from_zero, List.mem_range]

theorem mem_lanesOf_laneMask {s : State} {m : KReg} {l : Nat} : l ∈ lanesOf (s.laneMask m) ↔ l < 64 ∧ runs s m 32 l = true := by
  rw [mem_lanesOf, ← laneOn_laneMask]
  simp [laneOn]

/-- These lanes' elements of a row of an accumulator, each with its value. -/
def CoreSt.putRow (c : CoreSt) (acc row : Nat) (f : Nat → Nat) (lanes : List Nat) : CoreSt := lanes.foldl (fun c i => c.accPut acc row i (f i)) c

section
variable {acc row : Nat} {f : Nat → Nat}

theorem CoreSt.putRow_fields (c : CoreSt) (acc row : Nat) (f : Nat → Nat) (lanes : List Nat) :
    c.putRow acc row f lanes = { c with ram := (c.putRow acc row f lanes).ram, poison := (c.putRow acc row f lanes).poison } := by
  refine List.foldlRecOn (motive := fun d : CoreSt => d = { c with ram := d.ram, poison := d.poison }) lanes _ rfl fun d hd i _ => ?_
  rw [hd]
  rfl

theorem CoreSt.accGet_putRow {c : CoreSt} (hwf : c.ram.wf = true) (hrow : row < 128) {lanes : List Nat}
    (hlanes : ∀ i ∈ lanes, i < 64 ∧ f i < 2 ^ 32) {l : Nat} (hl : l < 64) :
    (c.putRow acc row f lanes).accGet acc row l = if l ∈ lanes then f l else c.accGet acc row l := by
  induction lanes generalizing c with
  | nil => rfl
  | cons i lanes ih =>
    obtain ⟨hi, hx⟩ := hlanes i List.mem_cons_self
    have hrest := ih (c := c.accPut acc row i (f i)) (Memory.putBytes_wf _ _ hwf) fun j hj => hlanes j (List.mem_cons_of_mem _ hj)
    rw [show c.putRow acc row f (i :: lanes) = (c.accPut acc row i (f i)).putRow acc row f lanes from rfl, hrest,
      CoreSt.accGet_accPut hwf hrow hi hrow hl hx]
    by_cases hli : l = i
    · subst hli
      simp
    · simp [hli]

theorem CoreSt.putRow_outside {c : CoreSt} (hwf : c.ram.wf = true) {lanes : List Nat} (hlanes : ∀ i ∈ lanes, i < 64) {a : Nat}
    (ha : a < accAddr acc row 0 ∨ accAddr acc row 64 ≤ a) : (c.putRow acc row f lanes).ram.get a = c.ram.get a := by
  have hkept : (c.putRow acc row f lanes).ram.wf = true ∧ (c.putRow acc row f lanes).ram.get a = c.ram.get a := by
    refine List.foldlRecOn (motive := fun d : CoreSt => d.ram.wf = true ∧ d.ram.get a = c.ram.get a) lanes _ ⟨hwf, rfl⟩ fun d hd i hi => ?_
    obtain ⟨hdwf, hget⟩ := hd
    refine ⟨Memory.putBytes_wf _ _ hdwf, (Memory.get_putBytes_outside hdwf _ _ _ ?_).trans hget⟩
    have hi64 := hlanes i hi
    rw [leBytes_length]
    rw [accAddr_eq, accAddr_eq] at ha
    rw [accAddr_eq]
    omega
  exact hkept.2

end

/-! ### `accrd` and `accwr` (R184, R194) -/

section
variable {s : State} {q : Pred} (hq : s.holds q = true) {acc : AccReg} {vd : VReg} {b : SReg} {m : KReg}
include hq

section
variable (hfree : s.accPending acc.toNat = false) (howned : s.spOwned (accAddr acc.toNat 0 0) 0x8000 = true)
include hfree howned

omit hq in
theorem onAcc_free {writes : Bool} (hdrain : (writes && s.accDraining acc.toNat) = false) (f : State → State) : s.onAcc acc writes f = f s := by
  unfold State.onAcc
  rw [hfree, hdrain, howned]
  rfl

theorem accrd_reads (hsound : (s.readS b).toNat < 128 → ∀ l < 64, runs s m 32 l = true → s.core.accSpoilt acc.toNat (s.readS b).toNat l = false) :
    exec (.vAccrd q vd acc b m) s =
      .next (masked s 32 vd m fun l => if (s.readS b).toNat < 128 then s.core.accGet acc.toNat (s.readS b).toNat l else 0) := by
  have hclean : ¬ (((s.readS b).toNat < 128 && (lanesOf (s.laneMask m)).any (s.core.accSpoilt acc.toNat (s.readS b).toNat)) = true) := by
    simp only [Bool.and_eq_true, decide_eq_true_eq, List.any_eq_true, not_and, not_exists]
    intro hrow l hl hspoilt
    obtain ⟨hl64, hruns⟩ := mem_lanesOf_laneMask.mp hl
    rw [hsound hrow l hl64 hruns] at hspoilt
    cases hspoilt
  show execVAccrd q vd acc b m s = _
  refine (State.under_holds hq _).trans (congrArg Host.Outcome.next ((onAcc_free hfree howned rfl _).trans ?_))
  dsimp only
  rw [if_neg hclean, natRange_from_zero]
  exact State.putElems_eq s 32 vd m _

variable (hdrain : s.accDraining acc.toNat = false)
include hdrain

theorem exec_accwr : exec (.vAccwr q vd acc b m) s = .next (if (s.readS b).toNat < 128 then
    s.mapCore fun c => c.putRow acc.toNat (s.readS b).toNat (el s 32 vd) (lanesOf (s.laneMask m)) else s) :=
  show execVAccwr q vd acc b m s = _ from
    (State.under_holds hq _).trans (congrArg Host.Outcome.next (onAcc_free hfree howned (by rw [hdrain]; rfl) _))

theorem accwr_writes (hwf : s.core.ram.wf = true) (hrow : (s.readS b).toNat < 128) : ∃ t, exec (.vAccwr q vd acc b m) s = .next t ∧
    t = { s with core := { s.core with ram := t.core.ram, poison := t.core.poison } } ∧
    (∀ l < 64, t.core.accGet acc.toNat (s.readS b).toNat l =
      if runs s m 32 l then el s 32 vd l else s.core.accGet acc.toNat (s.readS b).toNat l) ∧
    (∀ a, a < accAddr acc.toNat (s.readS b).toNat 0 ∨ accAddr acc.toNat (s.readS b).toNat 64 ≤ a → t.core.ram.get a = s.core.ram.get a) := by
  have hlanes : ∀ i ∈ lanesOf (s.laneMask m), i < 64 ∧ el s 32 vd i < 2 ^ 32 := fun i hi =>
    ⟨(mem_lanesOf.mp hi).1, el_lt_two_pow s 32 vd i⟩
  refine ⟨s.mapCore fun c => c.putRow acc.toNat (s.readS b).toNat (el s 32 vd) (lanesOf (s.laneMask m)), ?_, ?_, fun l hl => ?_, fun a ha => ?_⟩
  · rw [exec_accwr hq hfree howned hdrain, if_pos hrow]
  · exact congrArg (fun c => { s with core := c }) (CoreSt.putRow_fields s.core acc.toNat (s.readS b).toNat (el s 32 vd) (lanesOf (s.laneMask m)))
  · refine (CoreSt.accGet_putRow hwf hrow hlanes hl).trans (if_congr ?_ rfl rfl)
    rw [mem_lanesOf_laneMask]
    exact and_iff_right hl
  · exact CoreSt.putRow_outside hwf (fun i hi => (hlanes i hi).1) ha

theorem accwr_beyond (hrow : 128 ≤ (s.readS b).toNat) : exec (.vAccwr q vd acc b m) s = .next s := by
  rw [exec_accwr hq hfree howned hdrain, if_neg (Nat.not_lt.mpr hrow)]

end

omit hq in
theorem onAcc_busy {writes : Bool} (h : (s.accPending acc.toNat || (writes && s.accDraining acc.toNat)) = true) (f : State → State) :
    s.onAcc acc writes f = s.raise { code := 0x20 } := by
  unfold State.onAcc
  rw [if_pos h]
  rfl

theorem accrd_busy (h : s.accPending acc.toNat = true) : exec (.vAccrd q vd acc b m) s = .next (s.raise { code := 0x20 }) :=
  show execVAccrd q vd acc b m s = _ from
    (State.under_holds hq _).trans (congrArg Host.Outcome.next (onAcc_busy (by rw [h]; rfl) _))

theorem accwr_busy (h : s.accPending acc.toNat = true ∨ s.accDraining acc.toNat = true) :
    exec (.vAccwr q vd acc b m) s = .next (s.raise { code := 0x20 }) :=
  show execVAccwr q vd acc b m s = _ from
    (State.under_holds hq _).trans (congrArg Host.Outcome.next (onAcc_busy (by rcases h with h | h <;> simp [h]) _))

end

/-! ### Stores in the withholding buffer -/

/-- The entries of stores in entry order from a place on. -/
def storeEntries (id : OpId) (cls : BitVec 4) : Nat → List (Word × List (Place × Option Byte)) → List Entry
  | _, [] => []
  | n, (a, c) :: l => ⟨id, .store, c, a, cls, 0, n⟩ :: storeEntries id cls (n + 1) l

theorem withhold_foldl (cls : BitVec 4) (l : List (Word × List (Place × Option Byte))) (s : State) :
    l.foldl (fun s (a, c) => s.withhold .store c a cls 0) s =
      { s with ctx := { s.ctx with buffer := s.ctx.buffer ++ storeEntries s.opId cls s.ctx.entries l, entries := s.ctx.entries + l.length } } := by
  induction l generalizing s with
  | nil => simp [storeEntries]
  | cons x l ih =>
    obtain ⟨a, c⟩ := x
    rw [List.foldl_cons, ih, storeEntries, List.length_cons, Nat.add_comm l.length, ← Nat.add_assoc,
      show (s.withhold .store c a cls 0).opId = s.opId from rfl]
    unfold State.withhold State.mapCtx
    dsimp only
    rw [List.append_assoc]
    rfl

theorem storeEntries_length (id : OpId) (cls : BitVec 4) (n : Nat) (l : List (Word × List (Place × Option Byte))) :
    (storeEntries id cls n l).length = l.length := by
  induction l generalizing n with
  | nil => rfl
  | cons x l ih => rw [storeEntries, List.length_cons, ih, List.length_cons]

theorem storeEntries_sers (id : OpId) (cls : BitVec 4) (n : Nat) (l : List (Word × List (Place × Option Byte))) :
    (storeEntries id cls n l).map (·.ser) = (List.range l.length).map (n + ·) := by
  rw [← List.range'_eq_map_range]
  induction l generalizing n with
  | nil => rfl
  | cons x l ih => rw [storeEntries, List.map_cons, ih, List.length_cons, List.range'_succ]

theorem storeEntries_stand (s : State) (cls : BitVec 4) (l : List (Word × List (Place × Option Byte))) :
    StoreEntries s (storeEntries s.opId cls s.ctx.entries l) (l.flatMap (·.2)) cls := by
  refine ⟨?_, ?_, ?_⟩
  · generalize s.ctx.entries = n
    induction l generalizing n with
    | nil => rfl
    | cons x l ih => rw [storeEntries, List.flatMap_cons, ih, List.flatMap_cons]
  · rw [storeEntries_sers, storeEntries_length]
  · generalize s.ctx.entries = n
    induction l generalizing n with
    | nil => exact fun e he => absurd he List.not_mem_nil
    | cons x l ih => exact List.forall_mem_cons.mpr ⟨⟨rfl, rfl, rfl⟩, ih _⟩

/-- The bytes of a store at their places. -/
theorem zip_sram_cellsAt (a : Nat) (d : List Byte) {n : Nat} (hn : d.length = n) :
    ((natRange a n).map Place.sram).zip (d.map some) = cellsAt a d := by
  subst hn
  refine List.ext_getElem (by simp [cellsAt, natRange_eq_map]) fun i _ _ => ?_
  simp [cellsAt, natRange_eq_map]

end Sys2Proof.Machine

/-! PROOFS. `tst`: the rows of an accumulator as stores to a rectangle of scratchpad (R184, R185, R279). -/
namespace Sys2Proof.Machine
open Claims

/-- The types a `tst` writes are of whole bytes (Table 5.9). -/
theorem tyBits_of_drainTy : ∀ t : Ty, badDrainTy t.toNat = false → tyBits t % 8 = 0 ∧ 0 < tyBits t := by decide

theorem rowBytes_of_drainTy {t : Ty} (ht : badDrainTy t.toNat = false) (n : Nat) : (n * tyBits t + 7) / 8 = n * (tyBits t / 8) := by
  obtain ⟨k, hk⟩ := Nat.dvd_of_mod_eq_zero (tyBits_of_drainTy t ht).1
  rw [hk, Nat.mul_div_cancel_left k (by norm_num), show n * (8 * k) + 7 = 7 + 8 * (n * k) by ring, Nat.add_mul_div_left _ _ (by norm_num)]
  omega

/-- A row of the rectangle that the context owns passes its checks. -/
theorem drainCheck_sp {s : State} {o : Opd} (hsp : o.space = .sp) {n : Nat} (hown : Owned s o.ea.toNat n) :
    s.check o n .write [.w] 1 0 = .ok ((natRange o.ea.toNat n).map .sram) [] := by
  obtain ⟨hin, howned⟩ := (owned_iff s _ _).mp hown
  have hclean : s.poisoned .write ((natRange o.ea.toNat n).map .sram) = false := rfl
  rw [State.check_sp_passed hsp hin (Nat.mod_one _) (.inl rfl), howned, hclean]
  rfl

theorem Opd.plus_ea {o : Opd} {k : Nat} (h : o.ea.toNat + k < 2 ^ 64) : (o.plus k).ea.toNat = o.ea.toNat + k := by
  show (o.ea + BitVec.ofNat 64 k).toNat = _
  rw [BitVec.toNat_add, BitVec.toNat_ofNat, Nat.add_mod_mod, Nat.mod_eq_of_lt h]

theorem drainPlaces_sp {s : State} {o : Opd} (hsp : o.space = .sp) {w : Word} {n : Nat} {rows : List Nat}
    (hown : ∀ i ∈ rows, Owned s (o.ea.toNat + i * shStride w) n) (hwrap : ∀ i ∈ rows, o.ea.toNat + i * shStride w < 2 ^ 64) :
    s.drainPlaces o w n rows =
      .inl (rows.map fun i => ((o.plus (i * shStride w)).ea, (natRange (o.ea.toNat + i * shStride w) n).map .sram)) := by
  induction rows with
  | nil => rfl
  | cons i rows ih =>
    have hea := Opd.plus_ea (hwrap i List.mem_cons_self)
    have hrow := hown i List.mem_cons_self
    rw [← hea] at hrow
    have hcheck := drainCheck_sp (o := o.plus (i * shStride w)) hsp hrow
    have hrest := ih (fun j hj => hown j (List.mem_cons_of_mem _ hj)) fun j hj => hwrap j (List.mem_cons_of_mem _ hj)
    unfold State.drainPlaces
    dsimp only
    rw [hcheck, hrest, hea]
    rfl

/-- A row's bytes: fp32 as it stands, else converted (R279). -/
theorem drainRow_eq (s : State) (acc : Nat) (w : Word) (fmt : Ty) (i : Nat) : s.drainRow acc w fmt i =
    (List.range (shDepth w + 1)).flatMap fun j => leBytes (tyBits fmt / 8)
      (if fmt = 12 then s.core.accGet acc i j else convert (shRm w) (shSat w) fmt 12 (s.core.accGet acc i j)) := by
  have htype : fmt.toNat = 12 ↔ fmt = 12 := (BitVec.toNat_inj (x := fmt) (y := 12))
  unfold State.drainRow
  dsimp only
  simp only [htype, natRange_from_zero]

theorem length_flatMap_const {α β : Type} (l : List α) (f : α → List β) {k : Nat} (h : ∀ a, (f a).length = k) : (l.flatMap f).length = l.length * k := by
  rw [List.length_flatMap, List.map_congr_left fun a _ => h a, List.map_const', List.sum_replicate, smul_eq_mul]

theorem drainRow_length (s : State) (acc : Nat) (w : Word) (fmt : Ty) (i : Nat) :
    (s.drainRow acc w fmt i).length = (shDepth w + 1) * (tyBits fmt / 8) := by
  rw [drainRow_eq, length_flatMap_const _ _ fun _ => leBytes_length _ _, List.length_range]

/-- Row i of the rectangle at `ea`, as a store. -/
def State.drainCell (s : State) (acc : Nat) (o : Opd) (w : Word) (fmt : Ty) (i : Nat) : Word × List (Place × Option Byte) :=
  ((o.plus (i * shStride w)).ea, cellsAt (o.ea.toNat + i * shStride w) (s.drainRow acc w fmt i))

theorem drainCell_near {s : State} {acc : Nat} {o : Opd} {w : Word} {fmt : Ty} {i : Nat} :
    farPlace ((s.drainCell acc o w fmt i).2.map (·.1)) = false := by
  show farPlace ((cellsAt _ (s.drainRow acc w fmt i)).map (·.1)) = false
  unfold cellsAt
  cases s.drainRow acc w fmt i <;> rfl

theorem withheld_beside_drain (s : State) (dr : Drain) (cls : BitVec 4) (l : List (Word × List (Place × Option Byte))) :
    ∃ es, l.foldl (fun s (a, c) => s.withhold .store c a cls 0) (s.mapCore fun c => { c with drains := c.drains ++ [dr] }) =
      { s with ctx := { s.ctx with buffer := s.ctx.buffer ++ es, entries := s.ctx.entries + es.length },
               core := { s.core with drains := s.core.drains ++ [dr] } } ∧ StoreEntries s es (l.flatMap (·.2)) cls := by
  refine ⟨_, ?_, storeEntries_stand s cls l⟩
  rw [withhold_foldl, storeEntries_length]
  rfl

section
variable {s : State} {q : Pred} (hq : s.holds q = true) {tr : TReg} {acc : AccReg} {mem : TMem}

/-- The operand that names the rectangle. -/
def State.drainOpd (s : State) (mem : TMem) : Opd := ⟨.sp, mem.cap, s.readC mem.cap, s.readS mem.base + mem.off.signExtend 64⟩

theorem drain_sp {w : Word} (hsp : shSph w = true) {fmt : Ty} (hfmt : badDrainTy fmt.toNat = false) (hroom : s.core.drains.length < 2)
    (hown : ∀ i < shExt w + 1, Owned s ((s.drainOpd mem).ea.toNat + i * shStride w) ((shDepth w + 1) * (tyBits fmt / 8)))
    (hwrap : (s.drainOpd mem).ea.toNat + (shExt w + 1) * shStride w < 2 ^ 64)
    (hsound : ∀ i < shExt w + 1, ∀ j < shDepth w + 1, s.core.accSpoilt acc.toNat i j = false) :
    s.drain acc mem w fmt.toNat = ((List.range (shExt w + 1)).map (s.drainCell acc.toNat (s.drainOpd mem) w fmt)).foldl
      (fun s (a, c) => s.withhold .store c a mem.cls 0)
      (s.mapCore fun c => { c with drains := c.drains ++ [⟨s.slotNum, s.opId, acc.toNat, true, false, [], mem.cls, s.ctx.entries⟩] }) := by
  have hplaces := drainPlaces_sp (s := s) (o := s.drainOpd mem) rfl (w := w) (n := (shDepth w + 1) * (tyBits fmt / 8)) (rows := List.range (shExt w + 1))
    (fun i hi => hown i (List.mem_range.mp hi)) fun i hi =>
      lt_of_le_of_lt (Nat.add_le_add_left (Nat.mul_le_mul_right _ (le_of_lt (List.mem_range.mp hi))) _) hwrap
  have hclean : ((natRange 0 (shExt w + 1)).any fun i => (natRange 0 (shDepth w + 1)).any (s.core.accSpoilt acc.toNat i)) = false := by
    simp only [natRange_from_zero, List.any_eq_false, List.mem_range, List.any_eq_true, not_exists, not_and, Bool.not_eq_true]
    exact fun i hi j hj => hsound i hi j hj
  have hcells : (((List.range (shExt w + 1)).map fun i => (((s.drainOpd mem).plus (i * shStride w)).ea,
      (natRange ((s.drainOpd mem).ea.toNat + i * shStride w) ((shDepth w + 1) * (tyBits fmt / 8))).map Place.sram)).zipIdx.map
        fun ((a, ps), i) => (a, ps.zip ((s.drainRow acc.toNat w fmt i).map some))) =
      (List.range (shExt w + 1)).map (s.drainCell acc.toNat (s.drainOpd mem) w fmt) := by
    rw [zipIdx_map_range, List.map_map]
    refine List.map_congr_left fun i _ => ?_
    exact Prod.ext rfl (zip_sram_cellsAt _ _ (drainRow_length s acc.toNat w fmt i))
  unfold State.drain State.drainType
  dsimp only
  rw [hsp, if_pos rfl, if_pos rfl]
  dsimp only
  rw [BitVec.ofNat_toNat, BitVec.setWidth_eq, rowBytes_of_drainTy hfmt, natRange_from_zero]
  rw [show (⟨.sp, mem.cap, s.readC mem.cap, s.readS mem.base + mem.off.signExtend 64⟩ : Opd) = s.drainOpd mem from rfl, hplaces]
  dsimp only
  rw [hfmt, if_neg (by decide), if_neg (by omega), ← natRange_from_zero, hclean, if_neg (by decide), natRange_from_zero, hcells]
  have hfar : ((List.range (shExt w + 1)).map (s.drainCell acc.toNat (s.drainOpd mem) w fmt)).filter
      (fun c => farPlace (c.2.map (·.1))) = [] := by
    rw [List.filter_eq_nil_iff, List.forall_mem_map]
    exact fun i _ => by rw [drainCell_near]; decide
  have hnear : ((List.range (shExt w + 1)).map (s.drainCell acc.toNat (s.drainOpd mem) w fmt)).filter
      (fun c => !farPlace (c.2.map (·.1))) = (List.range (shExt w + 1)).map (s.drainCell acc.toNat (s.drainOpd mem) w fmt) := by
    rw [List.filter_eq_self, List.forall_mem_map]
    exact fun i _ => by rw [drainCell_near]; rfl
  rw [hfar, hnear]
  rfl

include hq

theorem tst_stores {desc : BitVec 256} (hdesc : s.readT tr = desc) (hst : (s.ctx.tile tr).st = .ready) (hrole : shRole (dShape desc) = 2)
    (hsp : shSph (dShape desc) = true) (hcap : mem.cap = 0) (hfree : s.accPending acc.toNat = false)
    (howned : s.spOwned (accAddr acc.toNat 0 0) 0x8000 = true) (hidle : s.accDraining acc.toNat = false)
    (hfmt : badDrainTy (dFmt desc).toNat = false) (hroom : s.core.drains.length < 2)
    (hown : ∀ i < shExt (dShape desc) + 1, Owned s ((s.drainOpd mem).ea.toNat + i * shStride (dShape desc))
      ((shDepth (dShape desc) + 1) * (tyBits (dFmt desc) / 8)))
    (hwrap : (s.drainOpd mem).ea.toNat + (shExt (dShape desc) + 1) * shStride (dShape desc) < 2 ^ 64)
    (hsound : ∀ i < shExt (dShape desc) + 1, ∀ j < shDepth (dShape desc) + 1, s.core.accSpoilt acc.toNat i j = false) :
    ∃ t es dr, exec (.lTst q tr acc mem) s = .next t ∧
      t = { s with ctx := { s.ctx with buffer := s.ctx.buffer ++ es, entries := s.ctx.entries + es.length },
                   core := { s.core with drains := s.core.drains ++ [dr] } } ∧
      dr.acc = acc.toNat ∧ dr.slot = s.slotNum ∧ dr.reading = true ∧ dr.rows = [] ∧
      StoreEntries s es ((List.range (shExt (dShape desc) + 1)).flatMap fun i =>
        cellsAt ((s.drainOpd mem).ea.toNat + i * shStride (dShape desc)) (s.drainRow acc.toNat (dShape desc) (dFmt desc) i)) mem.cls := by
  have hexec : exec (.lTst q tr acc mem) s = .next (s.drain acc mem (dShape desc) (dFmt desc).toNat) := by
    show execLTst q tr acc mem s = _
    refine (State.under_holds hq _).trans (congrArg Host.Outcome.next ?_)
    dsimp only
    rw [hdesc, hst, if_neg (by decide), hrole, hcap, hsp, if_neg (by decide), hidle, if_neg (by simp)]
    exact onAcc_free hfree howned rfl _
  rw [hexec, drain_sp hsp hfmt hroom hown hwrap hsound]
  obtain ⟨es, ht, hstand⟩ := withheld_beside_drain s ⟨s.slotNum, s.opId, acc.toNat, true, false, [], mem.cls, s.ctx.entries⟩ mem.cls
    ((List.range (shExt (dShape desc) + 1)).map (s.drainCell acc.toNat (s.drainOpd mem) (dShape desc) (dFmt desc)))
  rw [List.flatMap_map] at hstand
  exact ⟨_, es, _, rfl, ht, rfl, rfl, rfl, rfl, hstand⟩

omit hq in
theorem drain_read {dr : Drain} {l : List Drain} (hdrains : s.core.drains = dr :: l) (hslot : dr.slot = s.slotNum) (hreading : dr.reading = true)
    (hrows : dr.rows = []) :
    exec .evAccDrainDone s = .next { s with core := { s.core with drains := s.core.drains.filter (· != dr) } } := by
  have hfind : (s.core.drains.find? fun d => d.slot == s.slotNum && (d.reading || s.drainReady d)) = some dr := by
    rw [hdrains, List.find?_cons_of_pos]
    rw [hslot, hreading]
    simp
  show execEvAccDrainDone s = _
  unfold execEvAccDrainDone
  dsimp only
  rw [hfind]
  dsimp only
  rw [hreading, hrows]
  rfl

end

end Sys2Proof.Machine

namespace Sys2Proof
open Machine Claims

/-- Settles O38: a tile is entered and left by its register's state, and the moves of an accumulator's rows are stores and reads of its
words in scratchpad. -/
theorem tileOperationsComplete : Obligations.TileOperationsComplete := by
  unfold Obligations.TileOperationsComplete
  intro q tr d b ss vd m acc mem s hq
  extract_lets w ea extent x enters calm sound accOk row
  refine ⟨tld_waits hq, fun hempty hshape hrole => ?_, fun lo hi hempty hshape hrole hsp hprot _ hown htype => ?_,
    fun attr hempty hshape hrole hsp hattr htype hroom => ?_, fun bs es ps hcalm harg hlive hst hfilled hretire hfill => ?_,
    fun i harg hlive hst hfilled hfill => ?_, fun hcalm hst => trel_held hq hcalm.1 hcalm.2 hst,
    fun hcalm hst => trel_unheld hq hcalm.1 hcalm.2 hst, tqry_reads hq d, ?_, fun dr l h1 h2 h3 h4 => drain_read h1 h2 h3 h4,
    fun hacc hsound => accrd_reads hq hacc.1 hacc.2 hsound,
    fun hacc hdrain hwf hrow => accwr_writes hq hacc.1 hacc.2 hdrain hwf hrow,
    fun hacc hdrain hrow => accwr_beyond hq hacc.1 hacc.2 hdrain hrow, fun h => accwr_busy hq (.inr h),
    fun h => ⟨accrd_busy hq h, accwr_busy hq (.inl h)⟩⟩
  · exact ⟨_, tld_accumulator hq hempty hshape hrole, tileEntered_enters ..⟩
  · exact ⟨_, tld_scratchpad hq hempty hshape hrole hsp hprot hown htype, tileEntered_enters ..⟩
  · exact ⟨_, tld_memory hq hempty hshape hrole hsp hattr htype rfl hroom, tileEntered_enters ..⟩
  · exact tileFill_complete harg hlive hst hfilled hcalm.1 hcalm.2 hretire hfill
  · exact tileFill_fault harg hlive hst hfilled hfill
  · intro hst hrole hsp hcap hacc hidle hfmt hroom hown hwrap hsound
    have htst := tst_stores hq (tr := tr) rfl hst hrole hsp hcap hacc.1 hacc.2 hidle hfmt hroom hown hwrap hsound
    simp only [drainRow_eq] at htst
    exact htst

end Sys2Proof

/-! PROOFS. Weights in fp32: the numbers not below zero with +∞, in order of their values, and the sums, products, quotients and roots that
stay among them (R212). -/
namespace Sys2Proof.Machine
open Claims

/-- A number not below zero, or +∞. -/
def IsWeight (x : Nat) : Prop := (number fp32 x = true ∧ 0 ≤ valueOf fp32 x) ∨ x = infinite fp32 false

theorem computes_fp32 : fp32.Computes := .inr (.inl rfl)

theorem isWeight_infinite : IsWeight (infinite fp32 false) := .inr rfl

theorem signOf_infinite : signOf fp32 (infinite fp32 false) = false := by decide

theorem valueOf_infinite : valueOf fp32 (infinite fp32 false) = 2 ^ 128 := by
  norm_num [valueOf, infinite, signOf, fp32]

theorem valueOf_zero : valueOf fp32 0 = 0 := by norm_num [valueOf, fp32]
theorem valueOf_one : valueOf fp32 0x3F800000 = 1 := by norm_num [valueOf, signOf, fp32]
theorem valueOf_leastNormal : valueOf fp32 0x00800000 = 2 ^ (-126 : Int) := by norm_num [valueOf, signOf, fp32]
theorem valueOf_minusOne : valueOf fp32 0xBF800000 = -1 := by norm_num [valueOf, signOf, fp32]

theorem isWeight_zero : IsWeight 0 := .inl ⟨by decide, valueOf_zero.ge⟩
theorem isWeight_one : IsWeight 0x3F800000 := .inl ⟨by decide, by rw [valueOf_one]; exact zero_le_one⟩
theorem isWeight_leastNormal : IsWeight 0x00800000 := .inl ⟨by decide, by rw [valueOf_leastNormal]; positivity⟩

theorem number_lt_infinite {x : Nat} (hx : number fp32 x = true) : valueOf fp32 x < 2 ^ 128 := by
  have hmag := (number_iff sound_fp32 x).mp hx
  have hlt : |((valueOf fp32 x : ℚ) : ℝ)| < ((valueOf fp32 (infinite fp32 false) : ℚ) : ℝ) := by
    rw [abs_valueOf sound_fp32, valueOf_eq sound_fp32, signOf_infinite, if_neg Bool.false_ne_true, one_mul]
    exact fp32.val_strictMono (hmag.trans_lt (by decide))
  rw [valueOf_infinite] at hlt
  exact_mod_cast (le_abs_self _).trans_lt hlt

theorem IsWeight.nonneg {x : Nat} (hx : IsWeight x) : 0 ≤ valueOf fp32 x := by
  rcases hx with ⟨-, h⟩ | rfl
  · exact h
  · rw [valueOf_infinite]
    positivity

/-- A weight below 2^128 is a number. -/
theorem IsWeight.number {x : Nat} (hx : IsWeight x) (h : x ≠ infinite fp32 false) : number fp32 x = true := by
  rcases hx with ⟨hn, -⟩ | rfl
  · exact hn
  · exact absurd rfl h

theorem signOf_pos {x : Nat} (h : 0 < valueOf fp32 x) : signOf fp32 x = false := by
  have hsign := valueOf_sign sound_fp32 x
  cases hs : signOf fp32 x
  · rfl
  · rw [hs, if_pos rfl] at hsign
    have := abs_nonneg (valueOf fp32 x)
    linarith

theorem valueOf_eq_zero_of_sign {x : Nat} (h : 0 ≤ valueOf fp32 x) (hs : signOf fp32 x = true) : valueOf fp32 x = 0 := by
  rcases h.lt_or_eq with hpos | hzero
  · rw [signOf_pos hpos] at hs
    cases hs
  · exact hzero.symm

/-! ### Order -/

theorem cmp_fin (na nb : Bool) (ma mb : Nat) (ea eb : Int) :
    (FVal.fin na ma ea false).cmp (.fin nb mb eb false) < 0 ↔ exact (.fin na ma ea false) < exact (.fin nb mb eb false) := by
  have hpos : (0 : ℚ) < 2 ^ min ea eb := zpow_pos (by norm_num) _
  rw [← scaled_eq na ma (min_le_left ea eb), ← scaled_eq nb mb (min_le_right ea eb), mul_lt_mul_iff_left₀ hpos, Int.cast_lt]
  simp only [FVal.cmp]
  split
  · next h => simp; omega
  · split <;> (simp; omega)

theorem less32_iff {x y : Nat} (hx : IsWeight x) (hy : IsWeight y) : less32 x y = true ↔ valueOf fp32 x < valueOf fp32 y := by
  have hcond : less32 x y = (!((fp32.decode x).isNan || (fp32.decode y).isNan) && decide ((fp32.decode x).cmp (fp32.decode y) < 0)) := rfl
  rw [hcond]
  rcases hx with ⟨hnx, -⟩ | rfl
  · obtain ⟨mx, ex, hdx, hvx⟩ := decode_exact sound_fp32 hnx
    rcases hy with ⟨hny, -⟩ | rfl
    · obtain ⟨my, ey, hdy, hvy⟩ := decode_exact sound_fp32 hny
      rw [hdx, hdy, ← hvx, ← hvy, ← cmp_fin]
      simp [FVal.isNan]
    · have hlt := number_lt_infinite hnx
      rw [valueOf_infinite, hdx, decode_infinite computes_fp32]
      simpa [FVal.isNan, FVal.cmp] using hlt
  · rcases hy with ⟨hny, -⟩ | rfl
    · obtain ⟨my, ey, hdy, -⟩ := decode_exact sound_fp32 hny
      have hlt := (number_lt_infinite hny).not_gt
      rw [valueOf_infinite, hdy, decode_infinite computes_fp32]
      simpa [FVal.isNan, FVal.cmp] using hlt
    · rw [decode_infinite computes_fp32]
      simp [FVal.isNan, FVal.cmp]

theorem exact_eq_zero_iff (n : Bool) (m : Nat) (e : Int) : exact (.fin n m e false) = 0 ↔ m = 0 := by
  have hpow : (2 : ℚ) ^ e ≠ 0 := zpow_ne_zero _ two_ne_zero
  unfold exact
  cases n <;> simp [hpow]

theorem isZero32_iff {x : Nat} (hx : IsWeight x) : isZero32 x = true ↔ valueOf fp32 x = 0 := by
  rcases hx with ⟨hn, -⟩ | rfl
  · obtain ⟨m, e, hd, hv⟩ := decode_exact sound_fp32 hn
    rw [isZero32, hd, ← hv, exact_eq_zero_iff]
    cases m <;> simp [FVal.isZero]
  · rw [isZero32, decode_infinite computes_fp32, valueOf_infinite]
    simp [FVal.isZero]

theorem badNorm_iff (x : Nat) : badNorm x = true ↔ number fp32 x = false ∨ valueOf fp32 x < 0 := by
  cases hx : number fp32 x with
  | true =>
    obtain ⟨m, e, hd, hv⟩ := decode_exact sound_fp32 hx
    have hpow : (0 : ℚ) < 2 ^ e := zpow_pos (by norm_num) _
    rw [badNorm, hd, ← hv]
    cases signOf fp32 x
    · simp only [Bool.false_and, Bool.false_eq_true, false_or, Bool.true_eq_false, false_iff, not_lt, exact, if_false]
      positivity
    · have hneg : exact (.fin true m e false) < 0 ↔ m ≠ 0 := by
        simp only [exact, if_true]
        rw [neg_one_mul, neg_mul, neg_lt_zero, mul_pos_iff_of_pos_right hpow, Nat.cast_pos, Nat.pos_iff_ne_zero]
      simp [hneg]
  | false =>
    rcases decode_inf_or_nan sound_fp32 hx with hd | hd <;> simp [badNorm, hd]

/-! ### Results -/

/-- A value not below zero, rounded, is a weight. -/
theorem isWeight_of_rounded {neg : Bool} {v : ℝ} {r : Nat} (h : Rounded fp32 0 neg v r) (hneg : neg = true → v = 0) : IsWeight r := by
  unfold Rounded at h
  dsimp only at h
  rw [if_pos rfl] at h
  obtain ⟨hover, hnear⟩ := h
  by_cases hv : ((greatestFinite fp32 : ℚ) + (halfStep fp32 : ℚ) : ℝ) < |v| ∨ (|v| = (greatestFinite fp32 : ℚ) + (halfStep fp32 : ℚ) ∧ fp32.e4 = false)
  · cases hn : neg
    · rw [hn] at hover
      exact .inr (hover hv)
    · have hpos : (0 : ℝ) < (greatestFinite fp32 : ℚ) + (halfStep fp32 : ℚ) := by
        rw [← Rat.cast_add, ← Rat.cast_zero, Rat.cast_lt]
        norm_num [greatestFinite, halfStep, fp32]
      rw [hneg hn, abs_zero] at hv
      rcases hv with hv | ⟨hv, -⟩ <;> linarith
  · obtain ⟨y, ⟨hmag, hr⟩, hbest⟩ := hnear hv
    obtain ⟨hnum, hsign, hval⟩ := signed_encoding sound_fp32 ((mag_iff sound_fp32 y).mp hmag) neg
    rw [← hr] at hnum hsign hval
    refine .inl ⟨hnum, ?_⟩
    have hreal : (0 : ℝ) ≤ ((valueOf fp32 r : ℚ) : ℝ) := by
      rw [hval]
      cases hn : neg
      · rw [if_neg Bool.false_ne_true, one_mul]
        exact fp32.val_nonneg y
      · have hy : y = 0 := by
          by_contra hy
          have hzero := hbest 0 ⟨by decide, by decide⟩ (Ne.symm hy)
          have hpos : 0 < fp32.val y := by
            rw [← fp32.val_zero]
            exact fp32.val_strictMono (Nat.pos_of_ne_zero hy)
          rw [hneg hn, valueOf_zero, valueOf_mag sound_fp32 ((mag_iff sound_fp32 y).mp hmag)] at hzero
          simp only [abs_zero, sub_zero, Rat.cast_zero, abs_of_pos hpos] at hzero
          rcases hzero with h | ⟨h, -⟩ <;> linarith
        rw [hy, fp32.val_zero, mul_zero]
    exact_mod_cast hreal

theorem isWeight_add {x y : Nat} (hx : IsWeight x) (hy : IsWeight y) : IsWeight (fp32.addBits 0 x y) := by
  rcases hx with ⟨hnx, hx0⟩ | rfl
  · rcases hy with ⟨hny, hy0⟩ | rfl
    · obtain ⟨n, hsign, hround⟩ := addBits_rounded sound_fp32 0 hnx hny
      refine isWeight_of_rounded hround fun hn => ?_
      have hsum : (0 : ℝ) ≤ (valueOf fp32 x : ℚ) + (valueOf fp32 y : ℚ) := by exact_mod_cast add_nonneg hx0 hy0
      rcases hsum.lt_or_eq with hpos | hzero
      · rw [hsign.1 hpos] at hn
        cases hn
      · exact hzero.symm
    · rw [(infinity_plus 0 computes_fp32 false (.inl hnx)).2.1]
      exact isWeight_infinite
  · have hy' : number fp32 y = true ∨ y = infinite fp32 false := hy.imp_left And.left
    rw [(infinity_plus 0 computes_fp32 false hy').1]
    exact isWeight_infinite

theorem isWeight_mul {x y : Nat} (hx : IsWeight x) (hy : number fp32 y = true) (hpos : x = infinite fp32 false → 0 < valueOf fp32 y)
    (hy0 : 0 ≤ valueOf fp32 y) : IsWeight (fp32.mulBits 0 x y) := by
  rcases hx with ⟨hnx, hx0⟩ | rfl
  · refine isWeight_of_rounded (mulBits_rounded sound_fp32 0 hnx hy) fun hn => ?_
    rw [← Rat.cast_mul]
    norm_cast
    rw [mul_eq_zero]
    cases hs : signOf fp32 x
    · refine .inr (valueOf_eq_zero_of_sign hy0 ?_)
      simpa [hs] using hn
    · exact .inl (valueOf_eq_zero_of_sign hx0 hs)
  · obtain ⟨m, e, hd, hv⟩ := decode_exact sound_fp32 hy
    have hm : m ≠ 0 := fun h => (hpos rfl).ne' (by rw [← hv, h, exact_eq_zero_iff])
    rw [(infinity_times 0 computes_fp32 false (by rw [hd]; rfl) (by rw [hd]; cases m <;> simp_all [FVal.isZero])).1, signOf_pos (hpos rfl)]
    exact isWeight_infinite

theorem isWeight_div {x y : Nat} (hx : IsWeight x) (hy : number fp32 y = true) (hpos : 0 < valueOf fp32 y) : IsWeight (fp32.divBits 0 x y) := by
  rcases hx with ⟨hnx, hx0⟩ | rfl
  · have hy0 : ((valueOf fp32 y : ℚ) : ℝ) ≠ 0 := by exact_mod_cast hpos.ne'
    refine isWeight_of_rounded (divBits_rounded sound_fp32 0 hnx hy hy0) fun hn => ?_
    rw [signOf_pos hpos] at hn
    rw [valueOf_eq_zero_of_sign hx0 (by simpa using hn), Rat.cast_zero, zero_div]
  · rw [(infinity_over 0 computes_fp32 false hy).1, signOf_pos hpos]
    exact isWeight_infinite

theorem isWeight_sqrt {x : Nat} (hx : IsWeight x) : IsWeight (fp32.sqrtBits 0 x) := by
  rcases hx with ⟨hnx, hx0⟩ | rfl
  · rcases hx0.lt_or_eq with hpos | hzero
    · exact isWeight_of_rounded (sqrtBits_rounded sound_fp32 0 hnx (by exact_mod_cast hpos)) fun h => by cases h
    · obtain ⟨m, e, hd, hv⟩ := decode_exact sound_fp32 hnx
      obtain rfl : m = 0 := (exact_eq_zero_iff _ _ _).mp (hv.trans hzero.symm)
      rw [Fmt.sqrtBits, hd, FVal.sqrt, if_pos rfl, round_zero]
      split
      · exact .inl ⟨by decide, by norm_num [valueOf, Fmt.signBit, fp32]⟩
      · exact isWeight_zero
  · rw [Fmt.sqrtBits, decode_infinite computes_fp32, FVal.sqrt, if_neg Bool.false_ne_true, round_inf, if_neg Bool.false_ne_true]
    exact isWeight_infinite

end Sys2Proof.Machine

/-! PROOFS. The table of aliases is that of Vose's method (R212). -/
namespace Sys2Proof.Machine
open Claims

/-! ### The tree over any number of leaves (R145) -/

section
variable (f : Nat → Nat → Nat)

/-- A last node without a neighbour passes on. -/
theorem pairUp_map_range_of_none (n : Nat) (g : Nat → Option Nat) (hg : ∀ j, n ≤ j → g j = none) :
    pairUp f ((List.range n).map g) = (List.range ((n + 1) / 2)).map fun j => joinNodes f (g (2 * j)) (g (2 * j + 1)) := by
  rcases Nat.even_or_odd' n with ⟨c, rfl | rfl⟩
  · rw [pairUp_map_range, show (2 * c + 1) / 2 = c by omega]
  · have hpair := pairUp_map_range f g (c + 1)
    rw [show 2 * (c + 1) = 2 * c + 1 + 1 by ring] at hpair
    rw [show (2 * c + 1 + 1) / 2 = c + 1 by omega, ← hpair, List.range_succ (n := 2 * c + 1), List.map_append, List.map_singleton,
      hg _ (le_refl _), List.range_succ (n := 2 * c), List.map_append, List.map_singleton]
    clear hpair hg
    induction c generalizing g with
    | zero => simp only [Nat.mul_zero, List.range_zero, List.map_nil, List.nil_append, List.singleton_append, pairUp]; cases g 0 <;> rfl
    | succ c ih =>
      have hsplit : (List.range (2 * (c + 1))).map g = g 0 :: g 1 :: (List.range (2 * c)).map fun i => g (i + 2) := by
        rw [Nat.mul_succ, List.range_succ_eq_map, List.range_succ_eq_map]
        simp [List.map_map, Function.comp_def]
      rw [hsplit]
      simp only [List.cons_append, pairUp]
      exact congrArg _ (ih fun i => g (i + 2))

section
variable {leaf : Nat → Option Nat} {n : Nat} (hleaf : ∀ j, n ≤ j → leaf j = none)
include hleaf

theorem treeNode_none (l : Nat) {j : Nat} (hj : n ≤ j * 2 ^ l) : treeNode f leaf l j = none := by
  induction l generalizing j with
  | zero => exact hleaf j (by simpa using hj)
  | succ l ih =>
    rw [treeNode_succ, ih (by rw [pow_succ] at hj; linarith), ih (by rw [pow_succ] at hj; nlinarith [Nat.two_pow_pos l])]
    rfl

theorem treeRoot_eq (k l m : Nat) (hm : 0 < m) (hn : n ≤ m * 2 ^ l) :
    treeRoot f k ((List.range m).map (treeNode f leaf l)) = (treeNode f leaf (l + k) 0).getD 0 := by
  induction k generalizing l m with
  | zero =>
    obtain ⟨m, rfl⟩ := Nat.exists_eq_succ_of_ne_zero hm.ne'
    rw [treeRoot, List.range_succ_eq_map, List.map_cons, List.headD_cons]
    rfl
  | succ k ih =>
    have hnone : ∀ j, m ≤ j → treeNode f leaf l j = none := fun j hj =>
      treeNode_none f hleaf l (hn.trans (Nat.mul_le_mul_right _ hj))
    have hnext : n ≤ (m + 1) / 2 * 2 ^ (l + 1) := by
      refine hn.trans ?_
      rw [pow_succ, Nat.mul_comm (2 ^ l) 2, ← Nat.mul_assoc]
      exact Nat.mul_le_mul_right _ (by omega)
    rw [treeRoot, pairUp_map_range_of_none f m _ hnone, Nat.add_comm k 1, ← Nat.add_assoc, ← ih (l + 1) ((m + 1) / 2) (by omega) hnext]
    rw [map_range_congr fun j _ => treeNode_succ f leaf l j]

/-- A level above the one that reaches over all leaves adds nothing. -/
theorem treeNode_above {l : Nat} (hn : n ≤ 2 ^ l) : treeNode f leaf (l + 1) 0 = treeNode f leaf l 0 := by
  rw [treeNode_succ, treeNode_none f hleaf l (j := 2 * 0 + 1) (by simpa using hn)]
  cases treeNode f leaf l (2 * 0) <;> rfl

end

/-- What holds of every leaf, and of a join of two, holds of every node. -/
theorem treeNode_all {f : Nat → Nat → Nat} {P : Nat → Prop} (hf : ∀ a b, P a → P b → P (f a b)) {leaf : Nat → Option Nat}
    (hleaf : ∀ j, ∀ x ∈ leaf j, P x) (l j : Nat) : ∀ x ∈ treeNode f leaf l j, P x := by
  induction l generalizing j with
  | zero => exact hleaf j
  | succ l ih =>
    intro x hx
    have ha := ih (2 * j)
    have hb := ih (2 * j + 1)
    rw [treeNode_succ] at hx
    generalize treeNode f leaf l (2 * j) = a at ha hx
    generalize treeNode f leaf l (2 * j + 1) = b at hb hx
    rcases a with _ | a
    · exact hb x hx
    · rcases b with _ | b
      · exact ha x hx
      · obtain rfl := Option.mem_some.mp hx
        exact hf a b (ha a rfl) (hb b rfl)

theorem treeNode_isSome {leaf : Nat → Option Nat} (hleaf : (leaf 0).isSome = true) (l : Nat) : (treeNode f leaf l 0).isSome = true := by
  induction l with
  | zero => exact hleaf
  | succ l ih =>
    rw [treeNode_succ]
    obtain ⟨a, ha⟩ := Option.isSome_iff_exists.mp ih
    rw [show 2 * 0 = 0 from rfl, ha]
    cases treeNode f leaf l (0 + 1) <;> rfl

end

/-! ### The heaviest category -/

/-- The lowest category of greatest weight among the first n. -/
structure Heaviest (w : Nat → Nat) (n m : Nat) : Prop where
  inside : m < n
  most : ∀ k < n, valueOf fp32 (w k) ≤ valueOf fp32 (w m)
  first : ∀ k < m, valueOf fp32 (w k) < valueOf fp32 (w m)

theorem heaviest_spec {w : Nat → Nat} {n : Nat} (hn : 0 < n) (hw : ∀ k < n, IsWeight (w k)) : Heaviest w n (heaviest ((List.range n).map w)) := by
  have hfold : ∀ k, 1 ≤ k → k ≤ n → ∃ m, Heaviest w k m ∧ (((List.range k).map fun i => (w i, i)).foldl
      (fun (b : Nat × Nat) (x : Nat × Nat) => if less32 b.1 x.1 then (x.1, x.2) else b) (w 0, 0)) = (w m, m) := by
    intro k hk hkn
    induction k, hk using Nat.le_induction with
    | base =>
      refine ⟨0, ⟨one_pos, fun k hk => ?_, fun k hk => absurd hk (Nat.not_lt_zero k)⟩, ?_⟩
      · rw [Nat.lt_one_iff.mp hk]
      · simp
    | succ k hk ih =>
      obtain ⟨m, ⟨hmk, hmost, hfirst⟩, hm⟩ := ih (by omega)
      have hless := less32_iff (hw m (by omega)) (hw k (by omega))
      rw [List.range_succ, List.map_append, List.foldl_append, hm, List.map_singleton, List.foldl_cons, List.foldl_nil]
      by_cases h : less32 (w m) (w k) = true
      · rw [if_pos h]
        refine ⟨k, ⟨Nat.lt_succ_self k, fun j hj => ?_, fun j hj => (hmost j hj).trans_lt (hless.mp h)⟩, rfl⟩
        rcases Nat.lt_succ_iff_lt_or_eq.mp hj with hj | rfl
        · exact ((hmost j hj).trans_lt (hless.mp h)).le
        · exact le_refl _
      · rw [if_neg h]
        refine ⟨m, ⟨by omega, fun j hj => ?_, hfirst⟩, rfl⟩
        rcases Nat.lt_succ_iff_lt_or_eq.mp hj with hj | rfl
        · exact hmost j hj
        · exact not_lt.mp fun hlt => h (hless.mpr hlt)
  obtain ⟨m, hspec, hm⟩ := hfold n hn (le_refl n)
  have hhead : ((List.range n).map w).headD 0 = w 0 := by
    obtain ⟨k, rfl⟩ := Nat.exists_eq_succ_of_ne_zero hn.ne'
    rw [List.range_succ_eq_map, List.map_cons, List.headD_cons]
  have heq : heaviest ((List.range n).map w) = m := by
    unfold heaviest
    rw [hhead, zipIdx_map_range]
    exact congrArg Prod.snd hm
  rw [heq]
  exact hspec

/-! ### Tables of categories -/

/-- The entry of a category that Vose's method makes (R212). -/
def aliasEntry (e : Nat × Nat × Nat) : Nat × Nat := (e.1, e.2.2 * 2 ^ 32 + e.2.1)

/-- The q of every small category is below 1, of every large one at least 1. -/
def SmallLarge (small large : List (Nat × Nat)) : Prop :=
  (∀ x ∈ small, IsWeight x.2 ∧ valueOf fp32 x.2 < 1) ∧ ∀ x ∈ large, IsWeight x.2 ∧ 1 ≤ valueOf fp32 x.2

/-- What is left of a large category's q once a small one is filled up from it, rounded once. -/
theorem vose_rest {qg ql : Nat} (hg : IsWeight qg) (hg1 : 1 ≤ valueOf fp32 qg) (hl : IsWeight ql) (hl1 : valueOf fp32 ql < 1) :
    Rounded fp32 0 (decide (valueOf fp32 qg - 1 + valueOf fp32 ql < 0)) ((valueOf fp32 qg - 1 + valueOf fp32 ql : ℚ) : ℝ)
      (fp32.round 0 false (((fp32.decode qg).add 0 (fp32.decode 0xBF800000)).add 0 (fp32.decode ql))) ∧
    IsWeight (fp32.round 0 false (((fp32.decode qg).add 0 (fp32.decode 0xBF800000)).add 0 (fp32.decode ql))) := by
  have hl0 := hl.nonneg
  have hsum : 0 ≤ valueOf fp32 qg - 1 + valueOf fp32 ql := by linarith
  have hround : Rounded fp32 0 false ((valueOf fp32 qg - 1 + valueOf fp32 ql : ℚ) : ℝ)
      (fp32.round 0 false (((fp32.decode qg).add 0 (fp32.decode 0xBF800000)).add 0 (fp32.decode ql))) := by
    have hnl : number fp32 ql = true := hl.number fun h => by
      rw [h, valueOf_infinite] at hl1
      norm_num at hl1
    obtain ⟨ml, el, hdl, hvl⟩ := decode_exact sound_fp32 hnl
    obtain ⟨m1, e1, hd1, hv1⟩ := decode_exact sound_fp32 (x := 0xBF800000) (by decide)
    rcases hg with ⟨hng, -⟩ | rfl
    · obtain ⟨mg, eg, hdg, hvg⟩ := decode_exact sound_fp32 hng
      obtain ⟨n, m, e, hadd, hval, hsign⟩ := add_exact 0 (signOf fp32 qg) (signOf fp32 0xBF800000) mg m1 eg e1
      obtain ⟨n', m', e', hadd', hval', hsign'⟩ := add_exact 0 n (signOf fp32 ql) m ml e el
      have htotal : exact (.fin n' m' e' false) = valueOf fp32 qg - 1 + valueOf fp32 ql := by
        rw [hval', hval, hvg, hv1, hvl, valueOf_minusOne]
        ring
      have hfirst : valueOf fp32 qg - 1 = 0 → n = false := fun h => by
        have hzero : ((exact (.fin n m e false) : ℚ) : ℝ) = 0 := by
          rw [hval, hvg, hv1, valueOf_minusOne, ← sub_eq_add_neg, h, Rat.cast_zero]
        have hne : signOf fp32 qg ≠ signOf fp32 0xBF800000 := by
          rw [signOf_pos (by linarith)]
          decide
        rw [hsign.2.2 hzero, if_neg hne]
        rfl
      have hn' : n' = false := by
        rcases hsum.lt_or_eq with hpos | hzero
        · exact hsign'.1 (by rw [htotal]; exact_mod_cast hpos)
        · have hn := hfirst (by linarith)
          rw [hsign'.2.2 (by rw [htotal, ← hzero, Rat.cast_zero]), hn]
          cases signOf fp32 ql <;> rfl
      rw [hdg, hd1, hadd, hdl, hadd', ← htotal, hn']
      exact rounded_exact sound_fp32 0 false m' e'
    · have hbig : ((greatestFinite fp32 : ℚ) + (halfStep fp32 : ℚ) : ℝ) < |((2 ^ 128 - 1 + valueOf fp32 ql : ℚ) : ℝ)| := by
        rw [← Rat.cast_add, ← Rat.cast_abs, Rat.cast_lt, abs_of_nonneg (by linarith)]
        have : greatestFinite fp32 + halfStep fp32 < 2 ^ 128 - 1 := by norm_num [greatestFinite, halfStep, fp32]
        linarith
      rw [decode_infinite computes_fp32, hd1, hdl, valueOf_infinite]
      unfold Rounded
      dsimp only
      rw [if_pos rfl]
      exact ⟨fun _ => by simp [FVal.add, round_inf], fun h => absurd (.inl hbig) h⟩
  rw [decide_eq_false (not_lt.mpr hsum)]
  exact ⟨hround, isWeight_of_rounded hround fun h => by cases h⟩

/-- Where no small or no large category is left, no entry is made. -/
theorem vose_done {n : Nat} {small large : List (Nat × Nat)} (out : List (Nat × Nat)) (h : small = [] ∨ large = []) :
    vose n small large out = (out, (small ++ large).map (·.1)) := by
  rcases h with rfl | rfl
  · cases n <;> rfl
  · cases n <;> cases small <;> rfl

/-- The model's rounds are those of Vose's method, and leave every category in just one entry. -/
theorem vose_spec (n : Nat) {small large : List (Nat × Nat)} (out : List (Nat × Nat)) (hn : small.length + large.length ≤ n)
    (hsl : SmallLarge small large) : ∃ made left, Vose small large made left ∧ vose n small large out = ((made.map aliasEntry).reverse ++ out, left) ∧
      (made.map (·.1) ++ left).Perm ((small ++ large).map (·.1)) := by
  induction n generalizing small large out with
  | zero =>
    have hsmall : small = [] := List.eq_nil_of_length_eq_zero (by omega)
    exact ⟨[], _, .done small large (.inl hsmall), vose_done out (.inl hsmall), .refl _⟩
  | succ n ih =>
    rcases small with _ | ⟨⟨l, ql⟩, small⟩
    · exact ⟨[], _, .done _ _ (.inl rfl), vose_done out (.inl rfl), .refl _⟩
    rcases large with _ | ⟨⟨g, qg⟩, large⟩
    · exact ⟨[], _, .done _ _ (.inr rfl), vose_done out (.inr rfl), .refl _⟩
    obtain ⟨hsmall, hlarge⟩ := hsl
    obtain ⟨⟨hlw, hl1⟩, hsmall⟩ := List.forall_mem_cons.mp hsmall
    obtain ⟨⟨hgw, hg1⟩, hlarge⟩ := List.forall_mem_cons.mp hlarge
    obtain ⟨hround, hw⟩ := vose_rest hgw hg1 hlw hl1
    have hless := less32_iff hw isWeight_one
    rw [valueOf_one] at hless
    simp only [vose]
    generalize fp32.round 0 false (((fp32.decode qg).add 0 (fp32.decode 0xBF800000)).add 0 (fp32.decode ql)) = q at hround hw hless ⊢
    have hnext : SmallLarge (if valueOf fp32 q < 1 then small ++ [(g, q)] else small) (if valueOf fp32 q < 1 then large else large ++ [(g, q)]) := by
      split
      · next hq => exact ⟨List.forall_mem_append.mpr ⟨hsmall, List.forall_mem_singleton.mpr ⟨hw, hq⟩⟩, hlarge⟩
      · next hq => exact ⟨hsmall, List.forall_mem_append.mpr ⟨hlarge, List.forall_mem_singleton.mpr ⟨hw, not_lt.mp hq⟩⟩⟩
    have hlen : (if valueOf fp32 q < 1 then small ++ [(g, q)] else small).length +
        (if valueOf fp32 q < 1 then large else large ++ [(g, q)]).length ≤ n := by
      simp only [List.length_cons] at hn
      split <;> simp only [List.length_append, List.length_singleton] <;> omega
    have hkeys : (((if valueOf fp32 q < 1 then small ++ [(g, q)] else small) ++ (if valueOf fp32 q < 1 then large else large ++ [(g, q)])).map
        (·.1)).Perm ((small ++ (g, qg) :: large).map (·.1)) := by
      split
      · simp
      · rw [List.map_append, List.map_append, List.map_append, List.map_cons]
        exact List.perm_append_singleton _ _ |>.append_left _
    obtain ⟨made, left, hvose, hrun, hperm⟩ := ih ((l, g * 2 ^ 32 + ql) :: out) hlen hnext
    refine ⟨(l, ql, g) :: made, left, .pair l ql g qg q small large made left hround hvose, ?_, (hperm.trans hkeys).cons l⟩
    have hbranch : (if less32 q 0x3F800000 = true then vose n (small ++ [(g, q)]) large ((l, g * 2 ^ 32 + ql) :: out)
        else vose n small (large ++ [(g, q)]) ((l, g * 2 ^ 32 + ql) :: out)) =
        vose n (if valueOf fp32 q < 1 then small ++ [(g, q)] else small) (if valueOf fp32 q < 1 then large else large ++ [(g, q)])
          ((l, g * 2 ^ 32 + ql) :: out) := by
      simp only [hless]
      split <;> rfl
    rw [hbranch, hrun]
    simp [aliasEntry]

end Sys2Proof.Machine

/-! PROOFS. The table of aliases of two norm vectors (R211, R212). -/
namespace Sys2Proof.Machine
open Claims

/-! ### The table, category by category -/

/-- The weight of a category: the root of the product of its norms. -/
def normWeight (nA nB : List Nat) (k : Nat) : Nat := fp32.sqrtBits 0 (fp32.mulBits 0 (nA.getD k 0) (nB.getD k 0))

/-- The sum of all weights, by the tree of R145. -/
def weightSum (nA nB : List Nat) : Option Nat :=
  treeNode (fp32.addBits 0) (fun k => if k < nA.length then some (normWeight nA nB k) else none) 16 0

section
variable (w : Nat → Nat) (W n k : Nat)

/-- The category's probability is dropped (R212). -/
def isDropped : Bool := less32 (fp32.divBits 0 (w k) W) 0x00800000
def keptProb : Nat := if isDropped w W k then 0 else fp32.divBits 0 (w k) W
def keptWeight : Nat := if isDropped w W k then 0 else w k
def aliasQ : Nat := fp32.divBits 0 (fp32.mulBits 0 (keptWeight w W k) (nat32 n)) W

/-- The categories whose q is below 1, and the others. -/
def smallOnes : List (Nat × Nat) := ((List.range n).map fun k => (k, aliasQ w W n k)).filter fun x => less32 x.2 0x3F800000
def largeOnes : List (Nat × Nat) := ((List.range n).map fun k => (k, aliasQ w W n k)).filter fun x => !less32 x.2 0x3F800000

/-- The entry of a category that Vose's method leaves. -/
def leftEntry : Nat × Nat :=
  (k, if isZero32 (((List.range n).map (keptWeight w W)).getD k 0) then heaviest ((List.range n).map (keptWeight w W)) * 2 ^ 32
    else k * 2 ^ 32 + 0x3F800000)

/-- All entries, as Vose's method gives them. -/
def aliasEntries : List (Nat × Nat) :=
  (vose n (smallOnes w W n) (largeOnes w W n) []).1 ++ (vose n (smallOnes w W n) (largeOnes w W n) []).2.map (leftEntry w W n)

end

section
variable {nA nB : List Nat} (hlen : nB.length = nA.length)
include hlen

theorem zipWith_norms : List.zipWith (fun a b => sqrt32 (mul32 a b)) nA nB = (List.range nA.length).map (normWeight nA nB) := by
  conv_lhs => rw [list_eq_map_range (rfl : nA.length = nA.length) 0, list_eq_map_range hlen 0]
  rw [zipWith_map_range]
  rfl

theorem norms_sum (hpos : 0 < nA.length) (hmax : nA.length ≤ 65536) :
    treeRoot add32 17 ((List.zipWith (fun a b => sqrt32 (mul32 a b)) nA nB).map some) = (weightSum nA nB).getD 0 := by
  have hnone : ∀ j, nA.length ≤ j → (if j < nA.length then some (normWeight nA nB j) else none) = none := fun j hj => if_neg (not_lt.mpr hj)
  have hleaves : ((List.range nA.length).map (normWeight nA nB)).map some = (List.range nA.length).map
      (treeNode add32 (fun k => if k < nA.length then some (normWeight nA nB k) else none) 0) := by
    rw [List.map_map]
    exact map_range_congr fun i hi => (if_pos hi).symm
  rw [zipWith_norms hlen, hleaves, treeRoot_eq add32 hnone 17 0 nA.length hpos (by simp), Nat.zero_add, treeNode_above add32 hnone (l := 16) (by simpa using hmax)]
  rfl

theorem aliasTable_eq (hpos : 0 < nA.length) (hmax : nA.length ≤ 65536) {W : Nat} (hW : weightSum nA nB = some W) : aliasTable nA nB =
    if nA.any badNorm || nB.any badNorm || W == 0x7F800000 then
      (List.replicate nA.length (2 * 2 ^ 48), List.replicate nA.length 0, 4)
    else if isZero32 W then (List.replicate nA.length (2 ^ 48), List.replicate nA.length 0, 3)
    else ((List.range nA.length).map fun k => (((aliasEntries (normWeight nA nB) W nA.length).find? (·.1 == k)).map (·.2)).getD 0,
      (List.range nA.length).map (keptProb (normWeight nA nB) W),
      if (List.range nA.length).any (isDropped (normWeight nA nB) W) then 2 else 1) := by
  unfold aliasTable
  dsimp only
  rw [norms_sum hlen hpos hmax, hW, zipWith_norms hlen, Option.getD_some]
  simp only [List.map_map, zipWith_map_range, zipIdx_map_range, List.any_map, natRange_from_zero]
  rfl

end

/-! ### Which norms and sums are refused -/

section
variable {nA nB : List Nat}

theorem norms_refused_iff {W : Nat} (hW : weightSum nA nB = some W) : (nA.any badNorm || nB.any badNorm || W == 0x7F800000) = true ↔
    (∃ x ∈ nA ++ nB, number fp32 x = false ∨ valueOf fp32 x < 0) ∨ weightSum nA nB = some 0x7F800000 := by
  rw [hW, Option.some_inj, ← List.any_append, Bool.or_eq_true, List.any_eq_true, beq_iff_eq]
  simp only [badNorm_iff]

variable (hgood : ∀ x ∈ nA ++ nB, number fp32 x = true ∧ 0 ≤ valueOf fp32 x)
include hgood

theorem isWeight_normWeight (k : Nat) : IsWeight (normWeight nA nB k) := by
  have hgetD : ∀ l : List Nat, (∀ x ∈ l, number fp32 x = true ∧ 0 ≤ valueOf fp32 x) →
      number fp32 (l.getD k 0) = true ∧ 0 ≤ valueOf fp32 (l.getD k 0) := fun l hl => by
    rw [List.getD_eq_getElem?_getD]
    rcases h : l[k]? with _ | x
    · exact ⟨by decide, valueOf_zero.ge⟩
    · exact hl x (List.mem_of_getElem? h)
  obtain ⟨hnA, hA0⟩ := hgetD nA fun x hx => hgood x (List.mem_append_left _ hx)
  obtain ⟨hnB, hB0⟩ := hgetD nB fun x hx => hgood x (List.mem_append_right _ hx)
  refine isWeight_sqrt (isWeight_mul (.inl ⟨hnA, hA0⟩) hnB (fun h => ?_) hB0)
  rw [h] at hnA
  exact absurd hnA (by decide)

theorem isWeight_weightSum {W : Nat} (hW : weightSum nA nB = some W) : IsWeight W := by
  refine treeNode_all (P := IsWeight) (fun a b => isWeight_add) (fun j x hx => ?_) 16 0 W hW
  split at hx
  · obtain rfl := Option.mem_some.mp hx
    exact isWeight_normWeight hgood j
  · cases hx

end

theorem exists_weightSum {nA : List Nat} (nB : List Nat) (hpos : 0 < nA.length) : ∃ W, weightSum nA nB = some W := by
  refine Option.isSome_iff_exists.mp (treeNode_isSome (fp32.addBits 0) ?_ 16)
  rw [if_pos hpos]
  rfl

/-! ### The entries of the table -/

section
variable {w : Nat → Nat} {W n : Nat} (hw : ∀ k, IsWeight (w k)) (hW : number fp32 W = true) (hW0 : 0 < valueOf fp32 W)
include hw hW hW0

theorem isDropped_iff (k : Nat) : isDropped w W k = true ↔ valueOf fp32 (fp32.divBits 0 (w k) W) < 2 ^ (-126 : Int) := by
  rw [isDropped, less32_iff (isWeight_div (hw k) hW hW0) isWeight_leastNormal, valueOf_leastNormal]

omit hW hW0 in
theorem isWeight_keptWeight (k : Nat) : IsWeight (keptWeight w W k) := by
  unfold keptWeight
  split
  · exact isWeight_zero
  · exact hw k

variable (hn : 0 < n) (hmax : n ≤ 65536)
include hn hmax

omit hw hW hW0 hn in
theorem nat32_spec : number fp32 (nat32 n) = true ∧ valueOf fp32 (nat32 n) = n := by
  have h := fp32Of_int (k := n) (by rw [Int.natAbs_natCast]; omega)
  exact_mod_cast h

omit hw hW hW0 hn hmax in
theorem nat32_rounded : Rounded fp32 0 false n (nat32 n) := by
  obtain ⟨r, hround, hr⟩ := round_ofInt sound_fp32 0 false n
  rw [if_neg (by simp)] at hr
  rw [decide_eq_false (not_lt.mpr (Int.natCast_nonneg n))] at hround
  rw [show nat32 n = r from hr]
  simpa using hround

theorem isWeight_aliasQ (k : Nat) : IsWeight (aliasQ w W n k) := by
  obtain ⟨hnum, hval⟩ := nat32_spec hmax
  have hpos : 0 < valueOf fp32 (nat32 n) := by
    rw [hval]
    exact_mod_cast hn
  exact isWeight_div (isWeight_mul (isWeight_keptWeight hw k) hnum (fun _ => hpos) hpos.le) hW hW0

theorem aliasQ_less_iff (k : Nat) : less32 (aliasQ w W n k) 0x3F800000 = true ↔ valueOf fp32 (aliasQ w W n k) < 1 := by
  rw [less32_iff (isWeight_aliasQ hw hW hW0 hn hmax k) isWeight_one, valueOf_one]

theorem smallOnes_eq :
    smallOnes w W n = ((List.range n).filter fun k => valueOf fp32 (aliasQ w W n k) < 1).map fun k => (k, aliasQ w W n k) := by
  rw [smallOnes, List.filter_map]
  refine congrArg _ (List.filter_congr fun k _ => ?_)
  rw [Bool.eq_iff_iff, decide_eq_true_iff]
  exact aliasQ_less_iff hw hW hW0 hn hmax k

theorem largeOnes_eq :
    largeOnes w W n = ((List.range n).filter fun k => 1 ≤ valueOf fp32 (aliasQ w W n k)).map fun k => (k, aliasQ w W n k) := by
  rw [largeOnes, List.filter_map]
  refine congrArg _ (List.filter_congr fun k _ => ?_)
  rw [Bool.eq_iff_iff, decide_eq_true_iff, ← not_lt, ← aliasQ_less_iff hw hW hW0 hn hmax k]
  simp

theorem smallLarge_ones : SmallLarge (smallOnes w W n) (largeOnes w W n) := by
  have hweight := isWeight_aliasQ hw hW hW0 hn hmax
  rw [smallOnes_eq hw hW hW0 hn hmax, largeOnes_eq hw hW hW0 hn hmax]
  refine ⟨List.forall_mem_map.mpr fun k hk => ⟨hweight k, ?_⟩, List.forall_mem_map.mpr fun k hk => ⟨hweight k, ?_⟩⟩
  · simpa using (List.mem_filter.mp hk).2
  · simpa using (List.mem_filter.mp hk).2

/-- Every category has one entry: one that Vose's method makes, or one for a category that it leaves. -/
theorem aliasEntries_spec : ∃ made left, Vose (smallOnes w W n) (largeOnes w W n) made left ∧
    (∀ e ∈ made, e.1 < n ∧ (aliasEntries w W n).find? (·.1 == e.1) = some (aliasEntry e)) ∧
    ∀ k ∈ left, k < n ∧ (aliasEntries w W n).find? (·.1 == k) = some (leftEntry w W n k) := by
  have hall : (smallOnes w W n ++ largeOnes w W n).Perm ((List.range n).map fun k => (k, aliasQ w W n k)) := List.filter_append_perm _ _
  have hlen : (smallOnes w W n).length + (largeOnes w W n).length ≤ n := by
    rw [← List.length_append, hall.length_eq, List.length_map, List.length_range]
  obtain ⟨made, left, hvose, hrun, hperm⟩ := vose_spec n [] hlen (smallLarge_ones hw hW hW0 hn hmax)
  have hrange : (made.map (·.1) ++ left).Perm (List.range n) := by
    refine hperm.trans ((hall.map _).trans ?_)
    rw [List.map_map]
    exact .of_eq (List.map_id _)
  have hentries : aliasEntries w W n = (made.map aliasEntry).reverse ++ left.map (leftEntry w W n) := by
    rw [aliasEntries, hrun, List.append_nil]
  have hkeys : ((aliasEntries w W n).map (·.1)).Nodup := by
    have hmap : ((aliasEntries w W n).map (·.1)).Perm (made.map (·.1) ++ left) := by
      rw [hentries, List.map_append, List.map_reverse, List.map_map, List.map_map]
      exact (List.reverse_perm _).append (.of_eq (List.map_id _))
    exact (hmap.trans hrange).nodup_iff.mpr List.nodup_range
  refine ⟨made, left, hvose, fun e he => ⟨?_, ?_⟩, fun k hk => ⟨?_, ?_⟩⟩
  · exact List.mem_range.mp (hrange.mem_iff.mp (List.mem_append_left _ (List.mem_map_of_mem he)))
  · refine find?_of_nodup hkeys (e := aliasEntry e) ?_
    rw [hentries]
    exact List.mem_append_left _ (List.mem_reverse.mpr (List.mem_map_of_mem he))
  · exact List.mem_range.mp (hrange.mem_iff.mp (List.mem_append_right _ hk))
  · refine find?_of_nodup hkeys (e := leftEntry w W n k) ?_
    rw [hentries]
    exact List.mem_append_right _ (List.mem_map_of_mem hk)

end

/-! ### What R212 asks of the table -/

theorem aliasRows_aliasTable {nA nB : List Nat} (hpos : 0 < nA.length) (hmax : nA.length ≤ 65536) (hlen : nB.length = nA.length) :
    AliasRows nA nB (aliasTable nA nB).1 (aliasTable nA nB).2.1 (aliasTable nA nB).2.2 := by
  obtain ⟨W, hW⟩ := exists_weightSum nB hpos
  have hbad := norms_refused_iff hW
  have hW' : treeNode (fp32.addBits 0) (fun k => if k < nA.length then some (fp32.sqrtBits 0 (fp32.mulBits 0 (nA.getD k 0) (nB.getD k 0))) else none)
    16 0 = some W := hW
  have hreplicate : ∀ {k x : Nat}, k < nA.length → (List.replicate nA.length x).getD k 0 = x := fun hk => by
    rw [List.getD_eq_getElem?_getD, List.getElem?_replicate, if_pos hk, Option.getD_some]
  rw [aliasTable_eq hlen hpos hmax hW]
  unfold AliasRows
  extract_lets n num w bad
  by_cases hrefused : (nA.any badNorm || nB.any badNorm || W == 0x7F800000) = true
  · rw [if_pos hrefused]
    exact ⟨List.length_replicate .., List.length_replicate .., fun _ => ⟨rfl, fun k hk => ⟨hreplicate hk, hreplicate hk⟩⟩,
      fun h => absurd (hbad.mp hrefused) h⟩
  rw [if_neg hrefused]
  have hgood : ∀ x ∈ nA ++ nB, number fp32 x = true ∧ 0 ≤ valueOf fp32 x := fun x hx => by
    have := fun h => hrefused (hbad.mpr (.inl ⟨x, hx, h⟩))
    simpa using this
  have hnotbad : ¬ bad := fun h => hrefused (hbad.mpr h)
  have hweight := isWeight_weightSum hgood hW
  have hzero := isZero32_iff hweight
  by_cases hz : isZero32 W = true
  · rw [if_pos hz]
    have hnum : num W = 0 := by
      show ((valueOf fp32 W : ℚ) : ℝ) = 0
      rw [hzero.mp hz, Rat.cast_zero]
    exact ⟨List.length_replicate .., List.length_replicate .., fun h => absurd h hnotbad, fun _ => ⟨W, hW',
      fun _ => ⟨rfl, fun k hk => ⟨hreplicate hk, hreplicate hk⟩⟩, fun h => absurd hnum h⟩⟩
  rw [if_neg hz]
  have hWnum : number fp32 W = true := hweight.number fun h => hrefused (by rw [h]; simp [infinite, fp32])
  have hW0 : 0 < valueOf fp32 W := hweight.nonneg.lt_of_ne fun h => hz (hzero.mpr h.symm)
  have hw : ∀ k, IsWeight (w k) := isWeight_normWeight hgood
  have hdropped : ∀ k, isDropped w W k = true ↔ num (fp32.divBits 0 (w k) W) < 2 ^ (-126 : Int) := fun k => by
    rw [isDropped_iff hw hWnum hW0]
    rw [← Rat.cast_lt (K := ℝ), Rat.cast_zpow, Rat.cast_ofNat]
  have hlength : ∀ f : Nat → Nat, ((List.range nA.length).map f).length = n := fun f => by rw [List.length_map, List.length_range]
  refine ⟨hlength _, hlength _, fun h => absurd h hnotbad, fun _ => ⟨W, hW', fun h => ?_, fun _ => ?_⟩⟩
  · exact absurd (Rat.cast_eq_zero.mp h) hW0.ne'
  intro p drop
  obtain ⟨made, left, hvose, hmade, hleft⟩ := aliasEntries_spec hw hWnum hW0 hpos hmax
  have hheaviest := heaviest_spec hpos fun k _ => isWeight_keptWeight (W := W) hw k
  rw [smallOnes_eq hw hWnum hW0 hpos hmax, largeOnes_eq hw hWnum hW0 hpos hmax] at hvose
  refine ⟨fun k hk => ?_, fun h => ?_, fun h => ?_, keptWeight w W, aliasQ w W n, made, left, heaviest ((List.range n).map (keptWeight w W)),
    fun k hk => ⟨?_, ?_, ?_⟩, hvose, hheaviest.inside, ?_, ?_, ?_, ?_⟩
  case refine_1 =>
    rw [getD_map_range _ _ hk]
    exact ⟨fun h => if_pos ((hdropped k).mpr h), fun h => if_neg (mt (hdropped k).mp h)⟩
  case refine_2 =>
    obtain ⟨k, hk, hd⟩ := h
    exact if_pos (List.any_eq_true.mpr ⟨k, List.mem_range.mpr hk, (hdropped k).mpr hd⟩)
  case refine_3 =>
    refine if_neg fun hany => ?_
    obtain ⟨k, hk, hd⟩ := List.any_eq_true.mp hany
    exact h k (List.mem_range.mp hk) ((hdropped k).mp hd)
  · exact fun h => if_pos ((hdropped k).mpr h)
  · exact fun h => if_neg (mt (hdropped k).mp h)
  · exact ⟨nat32 n, nat32_rounded, rfl⟩
  · exact fun k hk => Rat.cast_le.mpr (hheaviest.most k hk)
  · exact fun k hk => Rat.cast_lt.mpr (hheaviest.first k hk)
  · intro e he
    obtain ⟨hlt, hfind⟩ := hmade e he
    rw [getD_map_range _ _ hlt, show (aliasEntries (normWeight nA nB) W nA.length).find? (·.1 == e.1) = _ from hfind, Nat.add_comm]
    rfl
  · intro k hk
    obtain ⟨hlt, hfind⟩ := hleft k hk
    rw [getD_map_range _ _ hlt, show (aliasEntries (normWeight nA nB) W nA.length).find? (·.1 == k) = _ from hfind, Nat.add_comm]
    show (leftEntry w W n k).2 = _
    rw [leftEntry, getD_map_range _ _ hlt]
    simp only [isZero32_iff (isWeight_keptWeight hw k)]

end Sys2Proof.Machine

/-! PROOFS. Matrix calls, their batches and the microprogram store (R187 to R192, R201). -/
namespace Sys2Proof.Machine
open Claims

/-! ### The MC field of a call (Table 3.9) -/

section
variable (routine : BitVec 8) (acc : AccReg) (countM1 : BitVec 6) (batch : BitVec 2) (use : BitVec 8) (mode : BitVec 5)

theorem callWord_toNat : (callWord routine acc countM1 batch use mode).toNat =
    routine.toNat * 2 ^ 44 + acc.toNat * 2 ^ 38 + countM1.toNat * 2 ^ 32 + batch.toNat * 2 ^ 30 + use.toNat * 2 ^ 22 + mode.toNat := by
  have h1 := routine.isLt
  have h2 := acc.isLt
  have h3 := countM1.isLt
  have h4 := batch.isLt
  have h5 := use.isLt
  have h6 := mode.isLt
  rw [callWord, BitVec.toNat_ofNat]
  exact Nat.mod_eq_of_lt (by omega)

theorem callWord_fields : wbits (callWord routine acc countM1 batch use mode) 51 44 = routine.toNat ∧
    wbits (callWord routine acc countM1 batch use mode) 43 38 = acc.toNat ∧ wbits (callWord routine acc countM1 batch use mode) 37 32 = countM1.toNat ∧
    wbits (callWord routine acc countM1 batch use mode) 31 30 = batch.toNat := by
  have h1 := routine.isLt
  have h2 := acc.isLt
  have h3 := countM1.isLt
  have h4 := batch.isLt
  have h5 := use.isLt
  have h6 := mode.isLt
  unfold wbits bitsOf
  rw [callWord_toNat]
  simp only [Nat.shiftRight_eq_div_pow]
  refine ⟨?_, ?_, ?_, ?_⟩ <;> omega

theorem callWord_mode {i : Nat} (hi : i < 5) : (callWord routine acc countM1 batch use mode).getLsbD i = mode.getLsbD i := by
  have h6 := mode.isLt
  unfold BitVec.getLsbD
  rw [callWord_toNat, Nat.testBit_eq_decide_div_mod_eq, Nat.testBit_eq_decide_div_mod_eq]
  congr 2
  interval_cases i <;> omega

end

/-! ### Queueing a record (R187, R190) -/

theorem State.retireTile_tile (s : State) (t r : TReg) : (s.retireTile t).ctx.tile r =
    if r = t ∧ ((s.ctx.tile t).st = .filling ∨ (s.ctx.tile t).st = .ready) then { s.ctx.tile t with st := .retiring, fresh := true } else s.ctx.tile r := by
  unfold State.retireTile
  dsimp only
  by_cases h : (s.ctx.tile t).st = .filling ∨ (s.ctx.tile t).st = .ready
  · rw [if_pos (by simpa using h)]
    simp only [h, and_true]
    exact Context.tile_setTile s.ctx t r _
  · rw [if_neg (by simpa using h), if_neg fun hr => h hr.2]

theorem State.retireTile_eq (s : State) (t : TReg) : s.retireTile t = { s with ctx := { s.ctx with tiles := (s.retireTile t).ctx.tiles } } := by
  unfold State.retireTile
  dsimp only
  split <;> rfl

theorem foldl_retireTile_eq (l : List TReg) (s : State) :
    l.foldl State.retireTile s = { s with ctx := { s.ctx with tiles := (l.foldl State.retireTile s).ctx.tiles } } := by
  refine List.foldlRecOn (motive := fun u : State => u = { s with ctx := { s.ctx with tiles := u.ctx.tiles } }) l _ rfl fun u hu t _ => ?_
  rw [State.retireTile_eq, hu]

/-- A tile that is not EMPTY stands in RETIRING once it has been retired. -/
theorem foldl_retireTile_retiring (l : List TReg) (s : State) {r : TReg} (h : (s.ctx.tile r).st = .retiring ∨ (s.ctx.tile r).st ≠ .empty ∧ r ∈ l) :
    ((l.foldl State.retireTile s).ctx.tile r).st = .retiring := by
  induction l generalizing s with
  | nil => exact h.resolve_right fun h => List.not_mem_nil h.2
  | cons t l ih =>
    refine ih _ ?_
    rw [State.retireTile_tile]
    by_cases hr : r = t ∧ ((s.ctx.tile t).st = .filling ∨ (s.ctx.tile t).st = .ready)
    · exact .inl (by rw [if_pos hr])
    · rw [if_neg hr]
      by_cases hret : (s.ctx.tile r).st = .retiring
      · exact .inl hret
      · obtain ⟨hne, hmem⟩ := h.resolve_left hret
        refine .inr ⟨hne, (List.mem_cons.mp hmem).resolve_left ?_⟩
        rintro rfl
        refine hr ⟨rfl, ?_⟩
        cases hst : (s.ctx.tile r).st with
        | filling => exact .inl rfl
        | ready => exact .inr rfl
        | empty => exact absurd hst hne
        | retiring => exact absurd hst hret

/-- The state with a record queued: its serial and its place taken, the tiles of its last use retired. -/
def State.withRecord (s : State) (r : MRecord) (last : List TReg) : State :=
  (last.foldl State.retireTile (s.mapCtx fun c => { c with serial := c.serial + 1, entries := c.entries + 1 })).mapCore
    fun c => { c with engine := c.engine ++ [r] }

/-- A record whose serial has no entry in the resume table is queued as it is. -/
theorem queueRecord_fresh {s : State} {r : MRecord} (h : ∀ e ∈ s.ctx.resume, e.serial ≠ r.serial) (last : List TReg) :
    s.queueRecord r last = s.withRecord r last := by
  have hnone : s.ctx.resume.find? (·.serial == r.serial) = none := List.find?_eq_none.mpr fun e he => by simpa using h e he
  unfold State.queueRecord
  dsimp only
  rw [hnone]
  rfl

theorem withRecord_frame (s : State) (r : MRecord) (last : List TReg) : (s.withRecord r last).core.engine = s.core.engine ++ [r] ∧
    (s.withRecord r last).ctx.serial = s.ctx.serial + 1 ∧ (s.withRecord r last).ctx.regs = s.ctx.regs ∧ SameMemory s (s.withRecord r last) := by
  have hkept : LoadKept s (s.withRecord r last) :=
    ((LoadKept.mapCtx s ⟨rfl, rfl, rfl, rfl, rfl⟩).trans (foldl_retireTile_kept last _).1).trans (.mapCore _ ⟨rfl, rfl⟩)
  refine ⟨?_, ?_, hkept.regs, hkept.sameMemory⟩
  all_goals
    unfold State.withRecord
    rw [foldl_retireTile_eq]
    rfl

/-- A call's tiles as its tile word names them (R187). -/
def tileOf (tw k : Nat) : Option TReg := if tw / 2 ^ (8 * k + 7) % 2 = 1 then none else some (BitVec.ofNat 5 (tw / 2 ^ (8 * k)))

theorem tileNo_eq (tw : Word) : tileNo tw false = tileOf tw.toNat 0 ∧ tileNo tw true = tileOf tw.toNat 1 := by
  have hbit : ∀ k, tw.getLsbD k = decide (tw.toNat / 2 ^ k % 2 = 1) := fun k => by
    rw [BitVec.getLsbD, Nat.testBit_eq_decide_div_mod_eq]
  have hshift : (tw >>> 8).getLsbD 7 = decide (tw.toNat / 2 ^ 15 % 2 = 1) := by rw [BitVec.getLsbD_ushiftRight, hbit]
  have hlow : ∀ k, BitVec.ofNat 5 (tw.toNat / 2 ^ k) = (tw >>> k).truncate 5 := fun k => BitVec.eq_of_toNat_eq (by
    simp [Nat.shiftRight_eq_div_pow])
  unfold tileNo tileOf
  simp only [Bool.false_eq_true, if_false, if_true, hbit 7, hshift, decide_eq_true_eq]
  refine ⟨if_congr Iff.rfl rfl (congrArg some ?_), if_congr Iff.rfl rfl (congrArg some (hlow 8).symm)⟩
  simp

theorem callTile_ready {s : State} {t : Option TReg} {role : Nat}
    (h : ∀ r, t = some r → ((s.ctx.tile r).st = .filling ∨ (s.ctx.tile r).st = .ready) ∧ shRole (dShape (s.readT r)) = role) :
    s.callTile t role = none := by
  rcases t with _ | r
  · rfl
  · obtain ⟨hst, hrole⟩ := h r rfl
    unfold State.callTile
    dsimp only
    rw [if_neg (by rcases hst with h | h <;> simp [h]), if_neg (by simp [hrole])]

section
variable {s : State} {q : Pred} (hq : s.holds q = true) {routine : BitVec 8} {acc : AccReg} {countM1 : BitVec 6} {batch : BitVec 2} {use : BitVec 8}
  {mode : BitVec 5}

/-- The parameters of a call: the mp registers that it names. -/
def State.callParams (s : State) (use : BitVec 8) : List Word := (List.range 8).map fun i => if use.getLsbD i then s.readMp (BitVec.ofNat 3 i) else 0

/-- The tile word of a call (R187). -/
def State.tileWord (s : State) (use : BitVec 8) : Word := if use.getLsbD 0 then s.readMp 0 else 0x8080

/-- The tiles that a call marks as used for the last time. -/
def lastTiles (mode : BitVec 5) (a b : Option TReg) : List TReg :=
  (if mode.getLsbD 3 then a.toList else []) ++ if mode.getLsbD 4 then b.toList else []

theorem callParams_getD (s : State) (use : BitVec 8) {i : Nat} (hi : i < 8) :
    (s.callParams use).getD i 0 = if use.getLsbD (BitVec.ofNat 3 i).toNat then s.readMp (BitVec.ofNat 3 i) else 0 := by
  rw [State.callParams, getD_map_range _ _ hi, BitVec.toNat_ofNat, Nat.mod_eq_of_lt (by simpa using hi)]

theorem newRecord_desc {zero : Bool} {w : BitVec 52} {ps : List Word} {a b : Option TReg} {x : TReg} :
    (a = some x → (s.newRecord zero w ps a b).descA = s.readT x) ∧ (b = some x → (s.newRecord zero w ps a b).descB = s.readT x) := by
  constructor <;> rintro rfl <;> rfl

theorem withRecord_retires {r : MRecord} {last : List TReg} {x : TReg} (hst : (s.ctx.tile x).st = .filling ∨ (s.ctx.tile x).st = .ready)
    (hlast : x ∈ last) : ((s.withRecord r last).ctx.tile x).st = .retiring := by
  refine foldl_retireTile_retiring last (s.mapCtx fun c => { c with serial := c.serial + 1, entries := c.entries + 1 }) (.inr ⟨?_, hlast⟩)
  rw [show ((s.mapCtx fun c => { c with serial := c.serial + 1, entries := c.entries + 1 }).ctx.tile x).st = (s.ctx.tile x).st from rfl]
  rcases hst with h | h <;> rw [h] <;> decide

include hq

theorem mCall_queues (hroom : s.queued < 8 ∧ s.accOwned acc countM1 = true ∧ ∀ e ∈ s.ctx.resume, e.serial ≠ s.ctx.serial)
    (hlow : (s.tileWord use).toNat / 32 % 4 = 0) (hhigh : (s.tileWord use).toNat / 8192 % 4 = 0)
    (hA : ∀ r, tileOf (s.tileWord use).toNat 0 = some r →
      ((s.ctx.tile r).st = .filling ∨ (s.ctx.tile r).st = .ready) ∧ shRole (dShape (s.readT r)) = 0)
    (hB : ∀ r, tileOf (s.tileWord use).toNat 1 = some r →
      ((s.ctx.tile r).st = .filling ∨ (s.ctx.tile r).st = .ready) ∧ shRole (dShape (s.readT r)) = 1) :
    exec (.mCall q routine acc countM1 batch use mode) s = .next (s.withRecord
      (s.newRecord false (callWord routine acc countM1 batch use mode) (s.callParams use) (tileOf (s.tileWord use).toNat 0)
        (tileOf (s.tileWord use).toNat 1)) (lastTiles mode (tileOf (s.tileWord use).toNat 0) (tileOf (s.tileWord use).toNat 1))) := by
  obtain ⟨hfew, howned, hserial⟩ := hroom
  obtain ⟨htileA, htileB⟩ := tileNo_eq (s.tileWord use)
  have hword : (if use.getLsbD 0 then (s.callParams use).headD 0 else 0x8080) = s.tileWord use := by
    unfold State.tileWord State.callParams
    rw [List.range_succ_eq_map, List.map_cons, List.headD_cons]
    split
    · rfl
    · rfl
  have hfields : wbits (s.tileWord use) 6 5 = 0 ∧ wbits (s.tileWord use) 14 13 = 0 := by
    unfold wbits bitsOf
    simp only [Nat.shiftRight_eq_div_pow]
    exact ⟨hlow, hhigh⟩
  show execMCall q routine acc countM1 batch use mode s = _
  refine (State.under_holds hq _).trans (congrArg Host.Outcome.next ?_)
  unfold State.call
  rw [natRange_from_zero]
  dsimp only
  rw [show ((List.range 8).map fun i => if use.getLsbD i then s.readMp (BitVec.ofNat 3 i) else 0) = s.callParams use from rfl, hword,
    if_neg (by simp [howned, hfew]), hfields.1, hfields.2, if_neg (by decide), htileA, htileB, callTile_ready hA, callTile_ready hB]
  exact queueRecord_fresh hserial _

theorem mZero_queues (hroom : s.queued < 8 ∧ s.accOwned acc countM1 = true ∧ ∀ e ∈ s.ctx.resume, e.serial ≠ s.ctx.serial) :
    exec (.mZero q acc countM1) s =
      .next (s.withRecord (s.newRecord true (callWord 0 acc countM1 0 0 0) (List.replicate 8 0) none none) []) := by
  obtain ⟨hfew, howned, hserial⟩ := hroom
  show execMZero q acc countM1 s = _
  refine (State.under_holds hq _).trans (congrArg Host.Outcome.next ((if_neg ?_).trans (queueRecord_fresh hserial _)))
  simp [howned, hfew]

theorem call_waits (hfull : 8 ≤ s.queued) : exec (.mCall q routine acc countM1 batch use mode) s = .next (s.block false) ∧
    exec (.mZero q acc countM1) s = .next (s.block false) := by
  have hwaits : (decide (s.queued ≥ 8) || !s.accOwned acc countM1) = true := by simp [hfull]
  exact ⟨show execMCall q routine acc countM1 batch use mode s = _ from
      (State.under_holds hq _).trans (congrArg Host.Outcome.next (if_pos hwaits)),
    show execMZero q acc countM1 s = _ from (State.under_holds hq _).trans (congrArg Host.Outcome.next (if_pos hwaits))⟩

/-! ### Batches and the sampling words (R189, R212, R223) -/

theorem mCommit_begins : ∃ t, exec (.mCommit q batch) s = .next t ∧ SameOutside s t ∧ t.ctx.regs = s.ctx.regs ∧
    (∀ (k : Nat) (h : k < 4), t.ctx.batch[k] = (if k = batch.toNat then 0 else s.ctx.batch[k]) ∧
      t.ctx.batchSeq[k] = s.ctx.batchSeq[k] + if k = batch.toNat then 1 else 0) := by
  refine ⟨_, show execMCommit q batch s = _ from State.under_holds hq _, rfl, rfl, fun k hk => ⟨?_, ?_⟩⟩
  · exact Vector.getElem_ofFn hk
  · refine (Vector.getElem_ofFn hk).trans ?_
    dsimp only
    split <;> rfl

theorem mWait_waits : exec (.mWait q batch) s = .next (if s.openCalls batch = 0 then s else s.block false) :=
  show execMWait q batch s = _ from State.under_holds hq _

theorem mStat_reads (d : SReg) : exec (.mStat q d batch) s = .next (s.writeS d (BitVec.ofNat 64 (s.openCalls batch + s.queued * 2 ^ 8 +
    (s.ctx.batch[batch.toNat]'batch.isLt).toNat * 2 ^ 16 + s.ctx.serial * 2 ^ 32))) := by
  have hbatch : s.ctx.batch.toList.getD batch.toNat 0 = s.ctx.batch[batch.toNat]'batch.isLt := by
    rw [List.getD_eq_getElem?_getD, List.getElem?_eq_getElem (by simpa using batch.isLt), Option.getD_some]
    simp
  refine (show execMStat q d batch s = _ from State.under_holds hq _).trans ?_
  rw [hbatch]
  congr 3
  omega

theorem mSstat_reads (hdone : ∀ r ∈ s.records, r.sample = true → r.zero = true) (d : SReg) :
    exec (.mSstat q d) s = .next (s.writeS d (s.ctx.sampRes + s.ctx.sampBuild * 2 ^ 24)) := by
  refine (show execMSstat q d s = _ from State.under_holds hq _).trans (congrArg Host.Outcome.next (if_neg ?_))
  simpa using hdone

end

/-! ### The microprogram store (R191, R192) -/

theorem microWords_eq (n : Nat) (d : List Byte) :
    microWords n d = (List.range n).map fun i => BitVec.ofNat 64 (leNat ((d.drop (8 * i)).take 8)) := by
  induction n generalizing d with
  | zero => rfl
  | succ n ih =>
    rw [microWords, ih, List.range_succ_eq_map, List.map_cons, List.map_map]
    refine congrArg (_ :: ·) (List.map_congr_left fun i _ => ?_)
    simp only [Function.comp_apply, List.drop_drop]
    rw [Nat.mul_succ, Nat.add_comm 8]

/-- Words put one after the other stand at their places. -/
theorem find?_foldl_tabSet (g : Nat → Word) (first n : Nat) (l : List (Nat × Word)) {i : Nat} (hi : i < n) :
    (((List.range n).foldl (fun l i => tabSet l (first + i) (g i)) l).find? (·.1 == first + i)).map (·.2) = some (g i) := by
  induction n with
  | zero => exact absurd hi (Nat.not_lt_zero i)
  | succ n ih =>
    rw [List.range_succ, List.foldl_append, List.foldl_cons, List.foldl_nil, find?_tabSet]
    by_cases h : i = n
    · rw [if_pos (by rw [h]), h]
      rfl
    · rw [if_neg (by omega)]
      exact ih (by omega)

theorem find?_load (m : MicroStore) (first count : Nat) (d : List Byte) (entry : Option Nat) {i : Nat} (hi : i < count) :
    ((m.load first (microWords count d) entry).words.find? (·.1 == first + i)).map (·.2) =
      some (BitVec.ofNat 64 (leNat ((d.drop (8 * i)).take 8))) := by
  unfold MicroStore.load
  dsimp only
  rw [microWords_eq, zipIdx_map_range, List.foldl_map]
  exact find?_foldl_tabSet (fun i => BitVec.ofNat 64 (leNat ((d.drop (8 * i)).take 8))) first count m.words hi

/-- The words that `mprog` reads stand in the store, where they pass its checks. -/
theorem mProg_loads {s u : State} {q : Pred} (hq : s.holds q = true) {a b : SReg} {bytes : List Byte} {first count : Nat} {m : MicroStore}
    (hidle : ∀ r ∈ s.records, r.zero = true) (hraces : RacesUnlogged s) (hfirst : first = (s.readS b).toNat % 2 ^ 10)
    (hcount : count = (s.readS b).toNat / 2 ^ 16 % 2 ^ 11) (hlow : (s.readS b).toNat / 2 ^ 10 % 2 ^ 6 = 0)
    (hhigh : (s.readS b).toNat / 2 ^ 27 % 2 ^ 28 = 0) (hsome : 0 < count) (hregion : first + count ≤ s.ctx.micro.region)
    (hgot : s.got ⟨.virt, 0, 0, s.readS a⟩ (8 * count) 1 0 (some 0) = .bytes bytes u)
    (hm : m = s.ctx.micro.load first (microWords count bytes) (if (s.readS b).getLsbD 55 then some ((s.readS b).toNat / 2 ^ 56) else none))
    (hwords : ∀ x ∈ microWords count bytes, ∃ i, decodeMicro x = .ok i) (hload : m.badLoad first count = false) :
    ∃ t, exec (.mProg q a b) s = .next t ∧ t.ctx.micro = m ∧ t.ctx.regs = s.ctx.regs ∧ SameMemory s t := by
  have hkept := got_keeps hraces ⟨.virt, 0, 0, s.readS a⟩ (8 * count) 1 0 (some 0)
  rw [hgot] at hkept
  have hkept : LoadKept s u := hkept
  have hfields : wbits (s.readS b) 54 27 = 0 ∧ wbits (s.readS b) 15 10 = 0 ∧ wbits (s.readS b) 9 0 = first ∧ wbits (s.readS b) 26 16 = count ∧
      wbits (s.readS b) 63 56 = (s.readS b).toNat / 2 ^ 56 := by
    have hlt := (s.readS b).isLt
    unfold wbits bitsOf
    simp only [Nat.shiftRight_eq_div_pow]
    refine ⟨hhigh, hlow, ?_, ?_, ?_⟩ <;> omega
  obtain ⟨h54, h15, h9, h26, h63⟩ := hfields
  refine ⟨u.mapCtx fun c => { c with micro := m }, ?_, rfl, hkept.regs, fun p => (sameMemory_mapCtx u _ p).trans (hkept.sameMemory p)⟩
  refine (show execMProg q a b s = _ from State.under_holds hq _).trans (congrArg Host.Outcome.next ?_)
  rw [if_neg (by simpa using hidle)]
  unfold State.mprog
  dsimp only
  rw [h54, h15, h9, h26, h63, if_neg (by simp; omega), hgot]
  unfold State.onGot
  dsimp only
  rw [hkept.micro, ← hm, hload, Bool.or_false]
  refine if_neg ?_
  rw [Bool.not_eq_true, List.any_eq_false]
  intro x hx
  obtain ⟨i, hi⟩ := hwords x hx
  rw [hi]
  exact Bool.false_ne_true

end Sys2Proof.Machine

/-! PROOFS. `sbuild`: where the table of aliases stands in scratchpad (R211), and the operations of the M slot together. -/
namespace Sys2Proof.Machine
open Claims

/-! ### Numbers put one after the other -/

/-- Within bytes that were put, a run of them reads back. -/
theorem Memory.bytes_putBytes_within {m : Memory} (hm : m.wf = true) (a : Nat) {l : List Byte} {o k : Nat} (h : o + k ≤ l.length) :
    (m.putBytes a l).bytes (a + o) k = (l.drop o).take k := by
  induction k generalizing o with
  | zero => simp [Memory.bytes]
  | succ k ih =>
    have hget : (m.putBytes a l).get (a + o) = l.getD o 0 := Memory.get_putBytes_inside hm a o l (by omega)
    rw [Memory.bytes, hget, Nat.add_assoc, ih (by omega), List.drop_eq_getElem_cons (i := o) (by omega), List.take_succ_cons,
      List.getD_eq_getElem?_getD, List.getElem?_eq_getElem (by omega)]
    rfl

theorem drop_take_flatMap_leBytes (k : Nat) (l : List Nat) (rest : List Byte) {i : Nat} (hi : i < l.length) :
    ((l.flatMap (leBytes k) ++ rest).drop (k * i)).take k = leBytes k (l.getD i 0) := by
  induction l generalizing i with
  | nil => exact absurd hi (Nat.not_lt_zero i)
  | cons x l ih =>
    rw [List.flatMap_cons, List.append_assoc]
    cases i with
    | zero => rw [Nat.mul_zero, List.drop_zero, List.take_left' (leBytes_length k x), List.getD_cons_zero]
    | succ i =>
      rw [Nat.mul_succ, Nat.add_comm, ← List.drop_drop, List.drop_left' (leBytes_length k x), List.getD_cons_succ]
      exact ih (Nat.lt_of_succ_lt_succ hi)

/-- A table of numbers of k bytes, put with what follows it, reads back number by number. -/
theorem Memory.le_putBytes_table {m : Memory} (hm : m.wf = true) (a k : Nat) (l : List Nat) (before rest : List Byte) {i : Nat} (hi : i < l.length) :
    (m.putBytes a (before ++ (l.flatMap (leBytes k) ++ rest))).le (a + before.length + k * i) k = l.getD i 0 % 256 ^ k := by
  have hlen : before.length + k * i + k ≤ (before ++ (l.flatMap (leBytes k) ++ rest)).length := by
    have hk : k * i + k ≤ k * l.length := by
      rw [← Nat.mul_succ]
      exact Nat.mul_le_mul_left k hi
    rw [List.length_append, List.length_append, length_flatMap_leBytes]
    omega
  rw [Memory.le, Nat.add_assoc, Memory.bytes_putBytes_within hm a hlen, ← List.drop_drop, List.drop_left, drop_take_flatMap_leBytes k l rest hi,
    leNat_leBytes]

/-! ### `sbuild` (R211) -/

section
variable {s : State} {q : Pred} (hq : s.holds q = true) {a b c : SReg} {n src dst : Nat} (hn : n = (s.readS c).toNat)
  (hsrc : src = (s.readS a).toNat / 4 * 4) (hdst : dst = (s.readS b).toNat / 8 * 8) (hpos : 0 < n) (hmax : n ≤ 65536)
  (hread : Readable s src (8 * n)) (hwrite : Writable s dst (12 * n)) (hready : s.sbuildWaits src dst n = false)
include hq hn hsrc hdst hpos hmax hread hwrite hready

theorem exec_sbuild {es ps : List Nat} {st : Nat} (htable : aliasTable (s.spWords src n) (s.spWords (src + 4 * n) n) = (es, ps, st)) :
    exec (.mSbuild q a b c) s = .next ((s.spWrite s.ctx.entries dst (es.flatMap (leBytes 8) ++ ps.flatMap (leBytes 4))).mapCtx fun c =>
      { c with sampBuild := BitVec.ofNat 64 st, entries := c.entries + 1 }) := by
  obtain ⟨hsrcIn, hsrcOwned⟩ := (owned_iff s src (8 * n)).mp hread.1
  obtain ⟨hdstIn, hdstOwned⟩ := (owned_iff s dst (12 * n)).mp hwrite.1
  have hclean : ((natRange src (8 * n)).any fun x => s.spoiltAt (.sram x)) = false := by
    rw [List.any_eq_false]
    intro x hx
    obtain ⟨hlow, hhigh⟩ := mem_natRange.mp hx
    have hx := hread.2 (x - src) (by omega)
    rw [Nat.add_sub_cancel' hlow] at hx
    rw [show s.spoiltAt (.sram x) = NatSet.has s.core.poison x from rfl, hx]
    exact Bool.false_ne_true
  refine (show execMSbuild q a b c s = _ from State.under_holds hq _).trans (congrArg Host.Outcome.next ?_)
  unfold State.sbuild
  dsimp only
  rw [← hn, ← hsrc, ← hdst, if_neg (by simp; omega), (s.spBound_iff _ _).mpr hsrcIn, if_neg (by decide), (s.spBound_iff _ _).mpr hdstIn,
    if_neg (by decide), hwrite.2, if_neg (by decide), hsrcOwned, hdstOwned, hready, if_neg (by decide), hclean, if_neg (by decide), htable]

theorem mSbuild_writes (hwf : s.core.ram.wf = true) :
    let (es, ps, st) := aliasTable (s.spWords src n) (s.spWords (src + 4 * n) n)
    ∃ t, exec (.mSbuild q a b c) s = .next t ∧ t.ctx.regs = s.ctx.regs ∧ t.ctx.sampBuild = BitVec.ofNat 64 st ∧
      (∀ r : TReg, t.ctx.tile r = s.ctx.tile r) ∧
      (∀ i < n, t.core.ram.le (dst + 8 * i) 8 = es.getD i 0 % 2 ^ 64 ∧ t.core.ram.le (dst + 8 * n + 4 * i) 4 = ps.getD i 0 % 2 ^ 32) ∧
      (∀ x, x < dst ∨ dst + 12 * n ≤ x → t.core.ram.get x = s.core.ram.get x) := by
  have hlen : ∀ x, (s.spWords x n).length = n := fun x => length_spWords s x n
  have hrows := aliasRows_aliasTable (nA := s.spWords src n) (nB := s.spWords (src + 4 * n) n) (by rwa [hlen]) (by rwa [hlen]) (by rw [hlen, hlen])
  rcases htable : aliasTable (s.spWords src n) (s.spWords (src + 4 * n) n) with ⟨es, ps, st⟩
  rw [htable] at hrows
  have hes : es.length = n := hrows.1.trans (hlen src)
  have hps : ps.length = n := hrows.2.1.trans (hlen src)
  obtain ⟨buffer, poison, rel, race, hist, prel, prace, hput⟩ := s.spWrite_eq s.ctx.entries dst (es.flatMap (leBytes 8) ++ ps.flatMap (leBytes 4))
  have hentries : (es.flatMap (leBytes 8)).length = 8 * n := by rw [length_flatMap_leBytes, hes]
  have hbytes : (es.flatMap (leBytes 8) ++ ps.flatMap (leBytes 4)).length = 12 * n := by
    rw [List.length_append, length_flatMap_leBytes, length_flatMap_leBytes, hes, hps]
    ring
  refine ⟨_, exec_sbuild hq hn hsrc hdst hpos hmax hread hwrite hready htable, ?_⟩
  rw [hput]
  refine ⟨rfl, rfl, fun _ => rfl, fun i hi => ⟨?_, ?_⟩, fun x hx => ?_⟩
  · exact Memory.le_putBytes_table hwf dst 8 es [] (ps.flatMap (leBytes 4)) (hes.symm ▸ hi)
  · have hprob := Memory.le_putBytes_table hwf dst 4 ps (es.flatMap (leBytes 8)) [] (i := i) (hps.symm ▸ hi)
    rw [hentries, List.append_nil] at hprob
    exact hprob
  · exact Memory.get_putBytes_outside hwf dst x _ (by rwa [hbytes])

end

end Sys2Proof.Machine

namespace Sys2Proof
open Machine Claims

/-- Settles O39: a call is queued with its fields and tiles, and the table that `sbuild` writes is built by the rounds of Vose's method. -/
theorem matrixSlotOperations : Obligations.MatrixSlotOperations := by
  unfold Obligations.MatrixSlotOperations
  intro q routine acc countM1 batch use mode a b c d s hq
  extract_lets mp tw tile room queues sb first count n src dst
  refine ⟨fun hroom hlow hhigh hA hB => ?_, fun hroom => ?_, call_waits hq, mCommit_begins hq, mWait_waits hq, mStat_reads hq d,
    fun bytes u m hidle hraces => ?_, ?_, fun nA nB hpos hmax hlen => aliasRows_aliasTable hpos hmax hlen, fun hdone => mSstat_reads hq hdone d⟩
  · obtain ⟨hengine, hserial, hregs, hmem⟩ := withRecord_frame s
      (s.newRecord false (callWord routine acc countM1 batch use mode) (s.callParams use) (tileOf (s.tileWord use).toNat 0)
        (tileOf (s.tileWord use).toNat 1)) (lastTiles mode (tileOf (s.tileWord use).toNat 0) (tileOf (s.tileWord use).toNat 1))
    obtain ⟨hroutine, hfirst, hcount, hbatch⟩ := callWord_fields routine acc countM1 batch use mode
    refine ⟨_, _, mCall_queues hq hroom hlow hhigh hA hB, hengine, hserial, rfl, hfirst, congrArg (· + 1) hcount, rfl, rfl, rfl, rfl, rfl,
      ⟨rfl, hroutine, hbatch, callWord_mode _ _ _ _ _ _ (by decide), callWord_mode _ _ _ _ _ _ (by decide),
        callWord_mode _ _ _ _ _ _ (by decide), rfl, rfl, fun x hx => ?_, fun x hx => ?_, fun x hlast hx => ?_, fun x hlast hx => ?_, fun i hi => ?_⟩,
      hregs, hmem⟩
    · exact newRecord_desc.1 hx
    · exact newRecord_desc.2 hx
    · exact withRecord_retires (hA x hx).1 (List.mem_append_left _ (by rw [if_pos hlast, Option.mem_toList]; exact hx))
    · exact withRecord_retires (hB x hx).1 (List.mem_append_right _ (by rw [if_pos hlast, Option.mem_toList]; exact hx))
    · exact callParams_getD s use hi
  · obtain ⟨hengine, hserial, hregs, hmem⟩ := withRecord_frame s
      (s.newRecord true (callWord 0 acc countM1 0 0 0) (List.replicate 8 0) none none) []
    obtain ⟨-, hfirst, hcount, -⟩ := callWord_fields 0 acc countM1 0 0 0
    exact ⟨_, _, mZero_queues hq hroom, hengine, hserial, rfl, hfirst, congrArg (· + 1) hcount, rfl, rfl, rfl, rfl, rfl, ⟨rfl, rfl, rfl⟩, hregs, hmem⟩
  · extract_lets ws
    intro hlow hhigh hsome hregion hgot hm hwords hload
    obtain ⟨t, hexec, hmicro, hregs, hmem⟩ := mProg_loads hq hidle hraces rfl rfl hlow hhigh hsome hregion hgot hm hwords hload
    exact ⟨t, hexec, hmicro, hregs, hmem, fun i hi => hm ▸ find?_load s.ctx.micro first count bytes _ hi⟩
  · intro hpos hmax hread hwrite hready hwf
    exact mSbuild_writes hq rfl rfl rfl hpos hmax hread hwrite hready hwf

end Sys2Proof
